-- ==== Sys2Proof/Word.lean ====
section
/-! DEFINITION. The words of the S1 and the operand records of its instructions.

A record here holds the operand fields of one encoding shape, with the field names of R152-R156; it carries no meaning. -/
namespace Sys2Proof

/-- A 64-bit scalar register, CSR or memory dword (R165). -/
abbrev Word := BitVec 64
/-- A byte of memory (R2). -/
abbrev Byte := BitVec 8
/-- One frame row of 65,536 one-bit lanes (R16). -/
abbrev Row := BitVec 65536
/-- A vector or mask register at the full partition: 3,072 bits (R53, R165). -/
abbrev VReg := BitVec 3072
/-- The number of a scalar register (R153). -/
abbrev XReg := BitVec 5

/-! ### Scalar operand records (R152, R153, R154) -/

/-- RR form with two sources: xd, xa, xb, FEA, FEB. -/
structure RRop where
  d : XReg
  a : XReg
  b : XReg
  fa : Bool
  fb : Bool
  deriving DecidableEq, Repr

/-- RR form with one source: xd, xa, FEA. -/
structure RAop where
  d : XReg
  a : XReg
  fa : Bool
  deriving DecidableEq, Repr

/-- RI form with a 16-bit immediate. -/
structure RIop where
  d : XReg
  a : XReg
  i : BitVec 16
  deriving DecidableEq, Repr

/-- RI form of a shift by an immediate: the amount is imm16[5:0] (R181). -/
structure SHop where
  d : XReg
  a : XReg
  sh : BitVec 6
  deriving DecidableEq, Repr

/-- RI form without a source (`ldhi`, `addpc`). -/
structure RDIop where
  d : XReg
  i : BitVec 16
  deriving DecidableEq, Repr

/-- RI form of `bexti` and `binsi`: offset imm16[6:0], width imm16[13:7] (R179). -/
structure BFop where
  d : XReg
  a : XReg
  off : BitVec 7
  wid : BitVec 7
  deriving DecidableEq, Repr

/-- BR form: xa, xb, off16. -/
structure BRop where
  a : XReg
  b : XReg
  off : BitVec 16
  deriving DecidableEq, Repr

/-- MEM form with an explicit class; `r` is xd of a load or xs of a store. -/
structure MEMCop where
  r : XReg
  a : XReg
  c : BitVec 4
  p : BitVec 12
  deriving DecidableEq, Repr

/-- MEM form with the class of OCDEF (CLASS = 0). -/
structure MEMop where
  r : XReg
  a : XReg
  p : BitVec 12
  deriving DecidableEq, Repr

/-- RR-A form with an explicit class. -/
structure ATCop where
  d : XReg
  a : XReg
  b : XReg
  fa : Bool
  fb : Bool
  sc : BitVec 3
  c : BitVec 4
  deriving DecidableEq, Repr

/-- RR-A form with the class of OCDEF. -/
structure ATop where
  d : XReg
  a : XReg
  b : XReg
  fa : Bool
  fb : Bool
  sc : BitVec 3
  deriving DecidableEq, Repr

/-- `cpy`, `cpyg`, `cpyr`: xd, xa and the mark N (R297). -/
structure CPop where
  d : XReg
  a : XReg
  fa : Bool
  n : BitVec 3
  deriving DecidableEq, Repr

/-- `tmv`: destination tile xa, source tile xb, mark N, RET (R297). -/
structure TMop where
  d : XReg
  a : XReg
  b : XReg
  fa : Bool
  fb : Bool
  n : BitVec 3
  ret : Bool
  deriving DecidableEq, Repr

/-- `bar.init`, `bar.arrive`: barrier xa, operand xb, class (R297). -/
structure BAop where
  d : XReg
  a : XReg
  b : XReg
  fa : Bool
  fb : Bool
  c : BitVec 4
  deriving DecidableEq, Repr

/-- `bar.wait`: with EXP = 0 the field xb is unused and 0 (R297). -/
structure BWop where
  d : XReg
  a : XReg
  b : XReg
  fa : Bool
  fb : Bool
  exp : Bool
  deriving DecidableEq, Repr

/-- Token instruction with one operand; `x` is the suffix `.x`, ARG[0] (R299). -/
structure TKAop where
  d : XReg
  a : XReg
  fa : Bool
  x : Bool
  deriving DecidableEq, Repr

/-- Token instruction with two operands. -/
structure TKop where
  d : XReg
  a : XReg
  b : XReg
  fa : Bool
  fb : Bool
  x : Bool
  deriving DecidableEq, Repr

/-! ### Vector operand records (R155, R156) -/

/-- KM and KP of a vector word. -/
structure VMask where
  km : BitVec 3
  kp : Bool
  deriving DecidableEq, Repr

/-- Two vector sources (`.vr`). `ma`, `mb` are the modifiers: bit 2 REP, bits [1:0] SZ. -/
structure VVop where
  vd : BitVec 5
  va : BitVec 5
  vb : BitVec 5
  ma : BitVec 3
  mb : BitVec 3
  m : VMask
  fa : Bool
  fb : Bool
  deriving DecidableEq, Repr

/-- A vector source and an x register (`.sc`). -/
structure VXop where
  vd : BitVec 5
  va : BitVec 5
  xb : XReg
  ma : BitVec 3
  m : VMask
  fa : Bool
  fb : Bool
  deriving DecidableEq, Repr

/-- A vector source and IMM (`.im`). -/
structure VIop where
  vd : BitVec 5
  va : BitVec 5
  imm : BitVec 18
  ma : BitVec 3
  m : VMask
  fa : Bool
  deriving DecidableEq, Repr

/-- One vector source. -/
structure VUop where
  vd : BitVec 5
  va : BitVec 5
  ma : BitVec 3
  m : VMask
  fa : Bool
  deriving DecidableEq, Repr

/-- A clip: one source and the shift IMM[5:0] (R213). -/
structure VSHop where
  vd : BitVec 5
  va : BitVec 5
  sh : BitVec 6
  ma : BitVec 3
  m : VMask
  fa : Bool
  deriving DecidableEq, Repr

/-- A packing conversion: the gap code IMM[2:0], unmasked (R216). -/
structure VGAPop where
  vd : BitVec 5
  va : BitVec 5
  gap : BitVec 3
  ma : BitVec 3
  fa : Bool
  deriving DecidableEq, Repr

/-- A compare with a vector operand: VD[2:0] names kd (R217). -/
structure CVop where
  kd : BitVec 3
  va : BitVec 5
  vb : BitVec 5
  ma : BitVec 3
  mb : BitVec 3
  m : VMask
  fa : Bool
  fb : Bool
  deriving DecidableEq, Repr

/-- A compare with an x register. -/
structure CXop where
  kd : BitVec 3
  va : BitVec 5
  xb : XReg
  ma : BitVec 3
  m : VMask
  fa : Bool
  fb : Bool
  deriving DecidableEq, Repr

/-- A mask operation with two sources (R219). -/
structure KKop where
  kd : BitVec 3
  ka : BitVec 3
  kb : BitVec 3
  deriving DecidableEq, Repr

/-- `knot`. -/
structure KNop where
  kd : BitVec 3
  ka : BitVec 3
  deriving DecidableEq, Repr

/-- `kffs`, `kpopc`: x register and mask (R220). -/
structure KXop where
  xd : XReg
  ka : BitVec 3
  deriving DecidableEq, Repr

/-- `kmvx`: the word index is IMM[5:0]. -/
structure KMop where
  xd : XReg
  ka : BitVec 3
  j : BitVec 6
  deriving DecidableEq, Repr

/-- `vmvxs`. -/
structure MVXSop where
  xd : XReg
  va : BitVec 5
  ma : BitVec 3
  fa : Bool
  deriving DecidableEq, Repr

/-- `vmvsx`. -/
structure MVSXop where
  vd : BitVec 5
  xa : XReg
  fa : Bool
  deriving DecidableEq, Repr

/-- `vmv` of an x register. -/
structure MVXop where
  vd : BitVec 5
  xb : XReg
  m : VMask
  fb : Bool
  deriving DecidableEq, Repr

/-- `vmv` of an immediate, and `vidx`. -/
structure MVIop where
  vd : BitVec 5
  imm : BitVec 18
  m : VMask
  deriving DecidableEq, Repr

/-- `vreshp`: the unit code is IMM[1:0] (R227). -/
structure RSHop where
  vd : BitVec 5
  va : BitVec 5
  xb : XReg
  u : BitVec 2
  ma : BitVec 3
  fa : Bool
  fb : Bool
  deriving DecidableEq, Repr

/-- Unit-stride memory word; `cls = none` is DC = 1 (class of OCDEF). -/
structure VMop where
  vd : BitVec 5
  xa : XReg
  m : VMask
  fa : Bool
  cls : Option (BitVec 4)
  deriving DecidableEq, Repr

/-- Strided memory word: x stride in VB. -/
structure VMSop where
  vd : BitVec 5
  xa : XReg
  xb : XReg
  m : VMask
  fa : Bool
  fb : Bool
  cls : Option (BitVec 4)
  deriving DecidableEq, Repr

/-- Indexed memory word: index group in VB, scale IMM[1:0]. -/
structure VMXop where
  vd : BitVec 5
  xa : XReg
  vb : BitVec 5
  sc : BitVec 2
  mb : BitVec 3
  m : VMask
  fa : Bool
  fb : Bool
  cls : Option (BitVec 4)
  deriving DecidableEq, Repr

/-- Segment memory word (R233). -/
structure VSGop where
  vd : BitVec 5
  xa : XReg
  xb : XReg
  nf : BitVec 3
  fw : BitVec 2
  ext : Bool
  m : VMask
  fa : Bool
  fb : Bool
  cls : Option (BitVec 4)
  deriving DecidableEq, Repr

/-- Gather-atomic word (R234). -/
structure VATop where
  vd : BitVec 5
  xa : XReg
  vb : BitVec 5
  vc : BitVec 5
  sc : BitVec 3
  mb : BitVec 3
  m : VMask
  fa : Bool
  fb : Bool
  cls : Option (BitVec 4)
  deriving DecidableEq, Repr

/-- `mldb`: operand slot IMM[5:0] (R245). -/
structure MLDop where
  xa : XReg
  slot : BitVec 6
  fa : Bool
  cls : Option (BitVec 4)
  deriving DecidableEq, Repr

/-- `mma`, `mmaf`, `mmat`: A group and operand slot. -/
structure MMop where
  va : BitVec 5
  slot : BitVec 6
  fa : Bool
  deriving DecidableEq, Repr

/-- `mscale`: row scales, column scales, SRC and SFMT. -/
structure MSCop where
  va : BitVec 5
  vb : BitVec 5
  src : Bool
  sfmt : Bool
  fa : Bool
  fb : Bool
  deriving DecidableEq, Repr

/-- `mcvt`: OFMT and n. -/
structure MCVop where
  vd : BitVec 5
  ofmt : BitVec 4
  n : BitVec 6
  deriving DecidableEq, Repr

/-! ### Micro-op operand records (R259, R260) -/

/-- RCPY and NEGR: destination and source row specifiers. -/
structure MRCop where
  dst : BitVec 9
  src : BitVec 9
  deriving DecidableEq, Repr

/-- TRA and TRAN. -/
structure MTRop where
  dst : BitVec 9
  ta : BitVec 4
  tb : BitVec 4
  tc : BitVec 4
  deriving DecidableEq, Repr

/-- SHL and SHR: the distance is 2^k lanes. -/
structure MSHop where
  dst : BitVec 9
  src : BitVec 9
  k : BitVec 4
  deriving DecidableEq, Repr

/-- BRD. -/
structure MBRDop where
  dst : BitVec 9
  ksel : BitVec 2
  x : Bool
  off : BitVec 5
  deriving DecidableEq, Repr

/-- LOOPC. -/
structure MLOOPop where
  n : Bool
  inc : BitVec 2
  rst : BitVec 2
  target : BitVec 6
  deriving DecidableEq, Repr

/-- BRZ. -/
structure MBRZop where
  row : BitVec 9
  flg : BitVec 3
  target : BitVec 6
  deriving DecidableEq, Repr

/-! ### Operands of the device's and the host's steps -/

/-- An inbound Catric request (R314, R315): the issuing module and VI, the VI of this module whose space it names, the
control-aperture flag, the VA or register offset, the operation (0 load, 1 store, 2 atomic), its size in bytes, for an atomic its
operation and width operand, its data, and a tag by which the peer knows the reply. -/
structure RemoteReq where
  mod : Nat
  vi : Nat
  rvi : Nat
  ctl : Bool
  va : Nat
  op : Nat
  size : Nat
  aop : Nat
  data : Word
  cmp : Word
  tag : Nat
  /-- For an access whose checks this module has made before: the PA that they found (R361, R370). -/
  pa : Option Nat := none
  deriving DecidableEq, Repr

/-- The receiver's check of a remote copy (R292): the sender's module and VI, the VI here, the 32 dwords of the descriptor and a tag. -/
structure RemoteCheck where
  mod : Nat
  vi : Nat
  rvi : Nat
  desc : List Word
  tag : Nat
  deriving DecidableEq, Repr

/-- One write of a chunk of a remote copy: bytes at a VA, or the bits of one lane of `planes` rows of a bank-striped destination. -/
structure CopyWrite where
  va : Nat
  bytes : List Byte
  planes : Nat := 0
  lane : Nat := 0
  deriving DecidableEq, Repr

/-- A chunk of a remote copy arriving at the receiver (R292): writes in the space of VI `rvi`, and the bytes to debit at `bar` once they have performed
(0: none). `fin` is the notice that the copy has completed, behind its last chunk, and whether with an error: the receiver then holds its tiles no longer
(R289; model). -/
structure RemoteChunk where
  mod : Nat
  vi : Nat
  rvi : Nat
  writes : List CopyWrite
  bar : Nat
  debit : Nat
  tag : Nat
  fin : Option Bool := none
  deriving DecidableEq, Repr

end Sys2Proof
end

