-- ==== Sys2Proof/Config.lean ====
section
/-! DEFINITION. What an implementation fixes and the manual leaves open: free values, with no body, so that no proof can rest on one.

Log entries 4, 8, 9, 11 and 16 name them. -/
namespace Sys2Proof.Config

/-- A free value of 64 bits for use number `n` (log 4). -/
opaque freeWord : Nat → Word

/-- A free accumulator after a failed residue check (R375; log 4): use, row and column. -/
opaque freeAcc : Nat → Nat → Nat → BitVec 32

/-- A free row for use number `n` and place `k`: a compute row before a command writes it, or the raw bits of a row that holds an error
(R15, R391; log 4). -/
opaque freeRow : (n k : Nat) → BitVec 65536

/-- Free contents of memory, as any list of cells, for use number `n`: what a failed restore leaves in DRAM, and a reset in rows that were
unsealed (R394, R411; log 4). -/
opaque freeMem : (n : Nat) → List (Nat × BitVec 8)

/-- To which of its targets a checkpoint deals record `i` (R410; log 78): use number, record, number of targets. -/
opaque ckDeal : (n i k : Nat) → Nat

/-- Where the header of a checkpoint image lies: target and place from its BASE on (R410; log 78). -/
opaque ckHeaderAt : (n : Nat) → Nat × Nat

/-- The bytes of the header of an image, by CKSER and CYC, and of the records of its tables (R410; log 78). -/
opaque ckHeader : (ser : Word) → (cyc : Nat) → List Byte
opaque ckTables : (n : Nat) → List (List Byte)

/-- The 64-byte tag of a record, from the PA of its frame and the SHA3-512 of its data (R410; log 78). -/
opaque ckTag : (pa : Nat) → BitVec 512 → BitVec 512

/-- Words that hold an error for use number `n`, by PA divided by 8, and whether each can be corrected: stale check bits after a reset
(R394; log 4). -/
opaque freeBad : (n : Nat) → List (Nat × Bool)

/-- How far beyond its least value an engine's promised cycle lies (R280; log 11): by CYC at acceptance and destination bytes. -/
opaque promiseSlack : Nat → Nat → Nat

/-- A tree of additions: the order in which the terms of a floating sum are combined (R148). Leaf `i` is term `i`; a node says whether the
sum it forms is rounded before it is used. -/
inductive SumTree where
  | leaf (i : Nat)
  | node (rounds : Bool) (l r : SumTree)
  deriving DecidableEq, Repr, Inhabited

/-- The terms of a tree, left to right. -/
def SumTree.leaves : SumTree → List Nat
  | .leaf i => [i]
  | .node _ l r => l.leaves ++ r.leaves

/-- The order an implementation uses for `n` terms in instruction `op` under VL, SEW, grouping and lanes (R148; log 9). -/
opaque sumTree : (op n vl sew grp lanes : Nat) → SumTree

/-- Whether 0 × Inf + quiet NaN raises NV in `vfmacc`, which IEEE 754 leaves to the implementation (log 4). -/
opaque fmaInvalid : Bool

/-- A free vector or mask register for use number `n`: what a word whose first run was wrong has left (R373; log 16). -/
opaque freeReg : Nat → BitVec 3072

/-- SHA3-512 of a list of bytes (R326; log 8). -/
opaque sha3 : List Byte → BitVec 512

/-- Whether an ML-DSA-87 signature verifies: signature, digest, public key (R327; log 8). -/
opaque mldsa : List Byte → BitVec 512 → List Byte → Bool

/-- SHA3-512 measurement of the mask ROM of a security core (R329; log 8). -/
opaque romDigest : Nat → BitVec 512

/-- The content of an SPDM answer to request code `c` in SPDM state `n` (R330; log 8). -/
opaque spdmAnswer : (c n : Nat) → Nat

end Sys2Proof.Config
end

