-- ==== Sys2Proof/Syntax.lean ====
section
/-! DEFINITION. The syntax of the S1's instructions and steps: one constructor for each row of spec/opcode_table.json.

Rows come in four kinds: scalar words, vector and matrix words, bank micro-ops, and the steps of the device, its host
and its environment, which have no encoding. Each constructor's text gives the row's own summary and the rule it cites. -/
namespace Sys2Proof

/-- An instruction or a step of the module. -/
inductive Instr where
  /-- A write to the launch packet window of a submission port latches its bytes without submitting (R35) -/
  | lpktLatch (vi : Nat) (fab : Bool) (off : Nat) (bytes : List Byte)
  /-- A write of the dword at offset 0x38 submits the latched packet, which is checked, accepted or refused with a receipt and a start bound (R307) -/
  | launchSubmit (vi : Nat) (fab : Bool) (w : Word)
  /-- Reading RCPT pops the port's oldest receipt and latches its bound into RBOUND (R37) -/
  | rcptRead (vi : Nat) (fab : Bool)
  /-- A host write of TROOT sets the VI's root table and drops every translation of the VI (R75) -/
  | trootWrite (vi : Nat) (v : Word)
  /-- A host write of TINV starts invalidation of the VI's translations covering a VA and size (R75) -/
  | tinvWrite (vi : Nat) (v : Word)
  /-- An invalidation started by TINV or TROOT completes in every translation buffer (R75) -/
  | tinvComplete (vi : Nat)
  /-- A host read of TSYNC returns DONE once every TINV written before the last TSYNC read has completed (R75) -/
  | tsyncRead (vi : Nat)
  /-- A write of HSEL with DIR = 1 commits HDAT0 and HDAT1 to a capability handle, or refuses with ERR (R102) -/
  | handleCommit (vi : Nat) (v : Word)
  /-- A write of HSEL with DIR = 0 fetches a capability handle into HDAT0 and HDAT1, or refuses with ERR (R102) -/
  | handleFetch (vi : Nat) (v : Word)
  /-- A host TKOP GIVE passes a host region to the launch root of an accepted launch (R323) -/
  | give (vi : Nat) (v : Word)
  /-- A host TKOP HOME passes a host region to the far-atomic home of its stack (R323) -/
  | home (vi : Nat) (v : Word)
  /-- A host TKOP UNHOME requests a home region back, waiting for accepted atomics (R323) -/
  | unhome (vi : Nat) (v : Word)
  /-- A write of CARVE1 with GO = 1 and DEL = 0 creates a region owned by Host VI, or refuses with ERR (R322) -/
  | carve (v : Word)
  /-- A write of CARVE1 with GO = 1 and DEL = 1 frees the host-owned region entry at BASE, or refuses with ERR (R322) -/
  | carveDelete (v : Word)
  /-- A write of VSCHED sets a VI's floor and quantum, ignored if floors would exceed 1,000 or QUANT is 0 (R305) -/
  | vschedWrite (vi : Nat) (v : Word)
  /-- A write of an HDM binding enables or disables a decoder's mapping, ignored for a VI of another port (R320) -/
  | hdmbWrite (n : Nat) (v : Word)
  /-- A write of MODID sets the fabric module identifier and remeasures index 5 (R329) -/
  | modidWrite (v : Word)
  /-- A mailbox-mode write of a routing table entry sets its link mask and hop count and remeasures index 5 (R332) -/
  | routeWrite (m : Nat) (v : Word)
  /-- A mailbox-mode write of MROOT sets the resident program's page-table root and drops its translations (R331) -/
  | mrootWrite (v : Word)
  /-- A write of MREQ.SERV = 1 enters service mode, clearing tokens and scratchpads, or is refused with ERR before the resident program's fin (R334) -/
  | serviceModeRequest (v : Word)
  /-- A write of SVNREQ with GO = 1 asks the security core to raise a fused minimum, or is refused (R328) -/
  | svnRaise (v : Word)
  /-- Fuse programming for a raised security version minimum completes and STATE becomes done (R328) -/
  | svnFuseDone
  /-- A write of SCANCTL sets the scan rotation, ignored if INTERVAL is out of range (R384) -/
  | scanctlWrite (v : Word)
  /-- A write to a dword of CESTAT clears every corrected-error field of that dword (R389) -/
  | cestatWrite (n : Nat) (hi : Bool)
  /-- A write of a SPARE register designates a spare frame range, ignored over bytes that lie in a region (R412) -/
  | spareWrite (n : Nat) (v : Word)
  /-- A write of CKCTL with GO = 1 and DIR = 0 starts a checkpoint: quiesce, stream, close (R409) -/
  | checkpoint (v : Word)
  /-- The quiesce phase of a checkpoint exceeds 40 ms, failing it with PROMISE_MISSED and resuming service (R409) -/
  | quiesceTimeout
  /-- The checkpoint image has been streamed and its header written; acceptance reopens and EVT 12 is logged (R409) -/
  | checkpointDone (lost : Bool)
  /-- A mailbox-mode write of CKCTL with GO = 1 and DIR = 1 starts reading the image back from the targets (R411) -/
  | restore (v : Word)
  /-- A restore finishes: on success the module enters service mode with the restored state, else it fails in mailbox mode (R411) -/
  | restoreDone (bad : Bool)
  /-- A write to a register that has no behaviour of its own stores its value, RSV bits ignored (R6) -/
  | registerWrite (mgmt : Bool) (vi : Nat) (off : Nat) (v : Word)
  /-- An SPDM GET_VERSION request on a DOE mailbox is answered (R330) -/
  | getVersion (port : Nat)
  /-- An SPDM GET_CAPABILITIES request is answered (R330) -/
  | getCapabilities (port : Nat)
  /-- An SPDM NEGOTIATE_ALGORITHMS request is answered with SHA3-512 and ML-DSA-87 (R330) -/
  | negotiateAlgorithms (port : Nat)
  /-- An SPDM GET_DIGESTS request is answered (R330) -/
  | getDigests (port : Nat)
  /-- An SPDM GET_CERTIFICATE request is answered (R330) -/
  | getCertificate (port : Nat)
  /-- An SPDM CHALLENGE request is answered with an ML-DSA-87 signature (R330) -/
  | challenge (port : Nat)
  /-- An SPDM GET_MEASUREMENTS request returns the SHA3-512 measurements (R330) -/
  | getMeasurements (port : Nat)
  /-- An SPDM request the module does not support receives ERROR with UnsupportedRequest (R330) -/
  | unsupportedRequest (port : Nat)
  /-- A CXL.mem read claimed by an enabled HDM decoder is translated and checked as Host v and returns data or poison (R320) -/
  | hostMemRead (dec : Nat) (off : Nat) (size : Nat) (tag : Nat)
  /-- A CXL.mem write claimed by an enabled HDM decoder is translated and checked as Host v, or dropped and logged (R320) -/
  | hostMemWrite (dec : Nat) (off : Nat) (bytes : List Byte) (tag : Nat)
  /-- An inbound Catric load, store or atomic is translated through VI FRVI and checked under the remote agent (R314) -/
  | remoteAccessRequest (r : RemoteReq)
  /-- A receiver checks a cpyr destination side and barrier and performs its credit before the copy's acceptance (R292) -/
  | remoteCopyCheck (r : RemoteCheck)
  /-- A remote copy's write or debit arrives at the receiver and is checked and performed there (R292) -/
  | remoteCopyWrite (r : RemoteChunk)
  /-- A Catric flit fails its CRC and is sent again, taking the link down on the ninth failure (R406) -/
  | flitCrcFail (link : Nat)
  /-- Every 100 ms a down link is retrained, and on success its LINKUP bit is set and EVT 6 logged (R406) -/
  | linkRetrain (link : Nat) (ok : Bool)
  /-- A module has been unreachable for 1 ms: waiting accesses fault FABRIC and its remote agents fail (R407) -/
  | moduleUnreachable (m : Nat)
  /-- A remote load, store or atomic passes its bound and raises PROMISE_MISSED, class A (R405) -/
  | remotePromiseMissed (n : Nat)
  /-- Every 33,000 cycles the global scheduler updates deficits and chooses each VLC's occupant (R303) -/
  | schedulerTick
  /-- A leaf controller starts or resumes a context on a VLC, writing LPR and the argument block or restoring the save area (R301) -/
  | place (quad : Nat)
  /-- At restore, a saved context's row locks are taken as one group once every range is free (R67) -/
  | lockGroupTake (vlc : Nat)
  /-- A leaf controller pre-empts the context on a VLC: issue stops, the VIQ drains and commands are withdrawn (R64) -/
  | preempt (quad : Nat)
  /-- A pre-emption ends once issued commands respond and the save area is written, freeing lanes and claim (R64) -/
  | preemptionComplete (vlc : Nat)
  /-- A leaf controller preloads a launch's tiles into a vault's VS and I-store by the preload table (R309) -/
  | preload (quad : Nat)
  /-- A slot's deal request is served from its stack's undealt range (R46) -/
  | dealreq (quad : Nat)
  /-- A stack with no undealt range steals half of the largest other stack's range (R46) -/
  | stealreq (quad : Nat)
  /-- A leaf controller receives the range answering a deal or steal request for a slot (R46) -/
  | deal (quad : Nat)
  /-- The global scheduler learns that a context instance has ended and places the next ranked candidate (R60) -/
  | done (quad : Nat)
  /-- A leaf controller reports the cost units charged per VI in the tick just ended (R302) -/
  | cost (quad : Nat)
  /-- An acknowledgement on a command link returns a send permit to the sender (R300) -/
  | cmdAck (quad : Nat) (up : Bool)
  /-- A launch whose elements are dealt, instances ended and marks quiescent completes, passing regions and adding to DONEW (R48) -/
  | launchComplete (vi : Nat) (seq : Nat)
  /-- Stack 11 takes over the global scheduler after stack 0's fails and logs EVT 14 (R415) -/
  | schedulerFailover
  /-- A stack hub, both scheduler copies or the active security core fails and the module drops every link (R416) -/
  | moduleStop
  /-- At the end of each 1 ms window a stack's average power sets its vault frame limit to 8, 4 or 2 (R335) -/
  | powerWindow (stack : Nat) (mw : Nat)
  /-- A DRAM die passing 85 °C halves the refresh interval (R336) -/
  | dramOver85c (stack : Nat)
  /-- A die reaching 105 °C stops all issue and drops the links (R336) -/
  | thermalShutdown
  /-- Release of reset runs the start-up phases: self-test, firmware verification, training and entry into mailbox mode (R325) -/
  | resetRelease
  /-- A function-level reset of a VI's VF fails Host v, killing its launches and emptying its queue (R400) -/
  | functionLevelReset (vi : Nat)
  /-- A CXL port's link has been down for 1 ms and the hosts of its VIs fail (R400) -/
  | cxlLinkLoss (port : Nat)
  /-- After a failed agent's commands and operations end, its token entries are reclaimed and marked SUSPECT (R401) -/
  | reclamation (agent : Nat)
  /-- A quad failing its scan test or reporting an internal uncorrectable error is retired for compute (R413) -/
  | quadRetire (quad : Nat)
  /-- A vault whose DRAM path fails has its DRAM retired, unpinned frames relocated and others lost (R414) -/
  | vaultRetire (vault : Nat)
  /-- An unpinned frame is copied with correction into a spare frame and its PA redirected (R412) -/
  | frameRelocate (frame : Nat) (spare : Nat)
  /-- A row with repeated corrected errors or an uncorrectable error is copied to a spare row that then answers for it (R392) -/
  | rowSpare (row : Nat)
  /-- The patrol scrub reads a sealed row in an idle slot, correcting and counting errors (R390) -/
  | patrolScrub (row : Nat)
  /-- A bank's refresh falls due and is taken at once if no command holds it, or else adds to its debt (R395) -/
  | refreshDue (bank : Nat)
  /-- An unsealed-row entry untouched for 1 ms is sealed by the vault complex and EVT 11 is logged (R393) -/
  | autoSeal (frame : Nat)
  /-- A due in-field test pre-empts the contexts of quad NEXTQ and scans its logic (R385) -/
  | scanTest
  /-- The scan self-test ends: the logic is reset, SCANLOG written, NEXTQ advanced and the quad returned to service (R385) -/
  | scanTestEnd (pass : Bool)
  /-- A DRAM access arrives at its target vault complex, is checked against the token table and performs or faults class D (R93) -/
  | targetAccess (n : Nat)
  /-- A long-latency result returns and fills an x register or vector element, setting the event bit (R175) -/
  | registerFill (n : Nat)
  /-- A far-atomic home performs an arriving atomic indivisibly on a home word (R104) -/
  | homeAtomic (n : Nat)
  /-- The home performs Init on a barrier word, setting PEND and clearing UNDER (R108) -/
  | homeBarInit (n : Nat)
  /-- The home performs a copy's Credit on a barrier word, or refuses it past the limit (R108) -/
  | homeCredit (op : Nat)
  /-- The home performs a Debit on a barrier word, advancing EPOCH and ending waits when PEND reaches 0 (R108) -/
  | homeDebit (n : Nat)
  /-- A barrier wait reaches the home and samples EPOCH, ending at once if PEND is 0 (R109) -/
  | homeWait (n : Nat)
  /-- A VLC waiting in vsetl receives its core's lanes with zeroed vector registers (R55) -/
  | laneGrant (core : Nat)
  /-- A waiting mclaim is granted the slice claim, which clears the slice state (R237) -/
  | claimGrant (vault : Nat)
  /-- CYC reaches a sleeping sleepc's value and it completes (R193) -/
  | sleepcExpiry (vlc : Nat)
  /-- A waiting wfe reaches imm11 × 256 cycles and completes (R192) -/
  | wfeTimeout (vlc : Nat)
  /-- A fault is taken at an instruction boundary: the record and EPC are written and the handler entered, or the context ends (R351) -/
  | trapEntry (vlc : Nat)
  /-- A row lock's lease runs out, ending the lock and raising LEASE_EXPIRED to its holder (R397) -/
  | leaseExpiry (n : Nat)
  /-- A pending row-lock request is granted and fills xd with its lock number (R268) -/
  | lockGrant (n : Nat)
  /-- A bank sequencer thread takes its turn and accepts one command or checks and issues one queued command (R256) -/
  | sequencerTurn (stack : Nat) (thread : Nat)
  /-- A command's banks serve waiting accesses and refresh at a quantum boundary (R264) -/
  | quantumBoundary (cmd : Nat)
  /-- A near-bank command's response fills its destination register (R267) -/
  | commandResponse (cmd : Nat)
  /-- A bkload writes its words into the slot once it is idle and responds 0 (R276) -/
  | slotLoadDone (cmd : Nat)
  /-- A bkinv frees its slot once it is idle and responds 0 (R276) -/
  | slotInvalidateDone (cmd : Nat)
  /-- The copy engine accepts or refuses an engine operation and returns its promised cycle (R279) -/
  | copyAccept (op : Nat)
  /-- A copy chunk's bytes have performed and the barrier is debited by the chunk size (R290) -/
  | chunkDebit (op : Nat) (k : Nat)
  /-- An engine operation completes, returning tiles and decrementing its mark (R280) -/
  | operationComplete (op : Nat)
  /-- The drain of lend, ret, rshare or UNHOME ends and the token entry changes (R96) -/
  | drainEnd (vlc : Nat)
  /-- The token table and every token cache hold the new state and the token instruction completes (R97) -/
  | tokenOpComplete (vlc : Nat)
  /-- The vector unit re-executes the oldest recheck entry and settles retirement by vote (R371) -/
  | recheck (vault : Nat) (outcome : Nat)
  /-- A consumed uncorrectable error in a rewindable strip rewinds it to its opening vsetl (R381) -/
  | stripRewind (vlc : Nat)
  /-- Adds two registers, wrapping (R177) -/
  | add (o : RRop)
  /-- Subtracts two registers, wrapping (R177) -/
  | sub (o : RRop)
  /-- Bitwise AND of two registers (R177) -/
  | and (o : RRop)
  /-- Bitwise OR of two registers (R177) -/
  | or (o : RRop)
  /-- Bitwise XOR of two registers (R177) -/
  | xor (o : RRop)
  /-- xa AND NOT xb (R177) -/
  | andn (o : RRop)
  /-- xa OR NOT xb (R177) -/
  | orn (o : RRop)
  /-- Shifts left logically by xb[5:0] (R177) -/
  | sll (o : RRop)
  /-- Shifts right logically by xb[5:0] (R177) -/
  | srl (o : RRop)
  /-- Shifts right arithmetically by xb[5:0] (R177) -/
  | sra (o : RRop)
  /-- Rotates left by xb[5:0] (R177) -/
  | rotl (o : RRop)
  /-- Rotates right by xb[5:0] (R177) -/
  | rotr (o : RRop)
  /-- Signed minimum (R177) -/
  | min (o : RRop)
  /-- Signed maximum (R177) -/
  | max (o : RRop)
  /-- Unsigned minimum (R177) -/
  | minn (o : RRop)
  /-- Unsigned maximum (R177) -/
  | maxn (o : RRop)
  /-- Signed set-less-than (R177) -/
  | slt (o : RRop)
  /-- Unsigned set-less-than (R177) -/
  | sltn (o : RRop)
  /-- Counts leading zeros of xa (R177) -/
  | clz (o : RAop)
  /-- Counts trailing zeros of xa (R177) -/
  | ctz (o : RAop)
  /-- Counts one bits of xa (R177) -/
  | popc (o : RAop)
  /-- Extracts a bit field with offset and width from xb (R182) -/
  | bext (o : RRop)
  /-- Inserts a bit field into xd with offset and width from xb (R182) -/
  | bins (o : RRop)
  /-- Low 64 bits of the product (R178) -/
  | mul (o : RRop)
  /-- High 64 bits of the signed product (R178) -/
  | mulh (o : RRop)
  /-- High 64 bits of the unsigned product (R178) -/
  | mulhn (o : RRop)
  /-- Signed quotient toward zero, no trap (R178) -/
  | div (o : RRop)
  /-- Unsigned quotient, no trap (R178) -/
  | divn (o : RRop)
  /-- Signed remainder (R178) -/
  | rem (o : RRop)
  /-- Unsigned remainder (R178) -/
  | remn (o : RRop)
  /-- Adds a sign-extended immediate (R179) -/
  | addi (o : RIop)
  /-- ANDs a zero-extended immediate (R179) -/
  | andi (o : RIop)
  /-- ORs a zero-extended immediate (R179) -/
  | ori (o : RIop)
  /-- XORs a zero-extended immediate (R179) -/
  | xori (o : RIop)
  /-- Signed compare with an immediate (R179) -/
  | slti (o : RIop)
  /-- Unsigned compare with a sign-extended immediate (R179) -/
  | sltni (o : RIop)
  /-- Shifts left logically by an immediate (R181) -/
  | slli (o : SHop)
  /-- Shifts right logically by an immediate (R181) -/
  | srli (o : SHop)
  /-- Shifts right arithmetically by an immediate (R181) -/
  | srai (o : SHop)
  /-- Loads imm16 × 2^16 sign-extended from 32 bits (R179) -/
  | ldhi (o : RDIop)
  /-- Writes PC plus imm × 2^16 (R180) -/
  | addpc (o : RDIop)
  /-- Extracts a bit field given by the immediate (R182) -/
  | bexti (o : BFop)
  /-- Inserts a bit field given by the immediate (R182) -/
  | binsi (o : BFop)
  /-- Jumps to xa + imm, writing the link to xd (R184) -/
  | jalr (o : RIop)
  /-- Jumps PC-relative, writing the link to x31 (R184) -/
  | jal (off : BitVec 26)
  /-- Branches if equal (R184) -/
  | beq (o : BRop)
  /-- Branches if not equal (R184) -/
  | bne (o : BRop)
  /-- Branches if signed less (R184) -/
  | blt (o : BRop)
  /-- Branches if unsigned less (R184) -/
  | bltn (o : BRop)
  /-- Branches if signed greater or equal (R184) -/
  | bge (o : BRop)
  /-- Branches if unsigned greater or equal (R184) -/
  | bgen (o : BRop)
  /-- Closes the strip, performs the store buffer, updates SB and SC and branches while elements remain (R58) -/
  | vstrip (off : BitVec 16)
  /-- Feeds a PC-relative vector-fetch block into the VIQ (R189) -/
  | vfetch (off : BitVec 21)
  /-- Feeds a register-relative vector-fetch block into the VIQ (R189) -/
  | vfetchr (a : XReg) (off : BitVec 21)
  /-- Loads a sign-extended byte, explicit class (R183) -/
  | ldbC (o : MEMCop)
  /-- Loads a zero-extended byte, explicit class (R183) -/
  | ldbnC (o : MEMCop)
  /-- Loads a sign-extended halfword, explicit class (R183) -/
  | ldhC (o : MEMCop)
  /-- Loads a zero-extended halfword, explicit class (R183) -/
  | ldhnC (o : MEMCop)
  /-- Loads a sign-extended word, explicit class (R183) -/
  | ldwC (o : MEMCop)
  /-- Loads a zero-extended word, explicit class (R183) -/
  | ldwnC (o : MEMCop)
  /-- Loads a doubleword, explicit class (R183) -/
  | lddC (o : MEMCop)
  /-- Stores a byte, explicit class (R183) -/
  | stbC (o : MEMCop)
  /-- Stores a halfword, explicit class (R183) -/
  | sthC (o : MEMCop)
  /-- Stores a word, explicit class (R183) -/
  | stwC (o : MEMCop)
  /-- Stores a doubleword, explicit class (R183) -/
  | stdC (o : MEMCop)
  /-- Loads a sign-extended byte, class OCDEF (R183) -/
  | ldb (o : MEMop)
  /-- Loads a zero-extended byte, class OCDEF (R183) -/
  | ldbn (o : MEMop)
  /-- Loads a sign-extended halfword, class OCDEF (R183) -/
  | ldh (o : MEMop)
  /-- Loads a zero-extended halfword, class OCDEF (R183) -/
  | ldhn (o : MEMop)
  /-- Loads a sign-extended word, class OCDEF (R183) -/
  | ldw (o : MEMop)
  /-- Loads a zero-extended word, class OCDEF (R183) -/
  | ldwn (o : MEMop)
  /-- Loads a doubleword, class OCDEF (R183) -/
  | ldd (o : MEMop)
  /-- Stores a byte, class OCDEF (R183) -/
  | stb (o : MEMop)
  /-- Stores a halfword, class OCDEF (R183) -/
  | sth (o : MEMop)
  /-- Stores a word, class OCDEF (R183) -/
  | stw (o : MEMop)
  /-- Stores a doubleword, class OCDEF (R183) -/
  | std (o : MEMop)
  /-- 4-byte far atomic add, explicit class (R185) -/
  | aaddWC (o : ATCop)
  /-- 4-byte far atomic AND, explicit class (R185) -/
  | aandWC (o : ATCop)
  /-- 4-byte far atomic OR, explicit class (R185) -/
  | aorWC (o : ATCop)
  /-- 4-byte far atomic XOR, explicit class (R185) -/
  | axorWC (o : ATCop)
  /-- 4-byte far atomic signed minimum, explicit class (R185) -/
  | aminWC (o : ATCop)
  /-- 4-byte far atomic signed maximum, explicit class (R185) -/
  | amaxWC (o : ATCop)
  /-- 4-byte far atomic swap, explicit class (R185) -/
  | aswapWC (o : ATCop)
  /-- 4-byte far atomic compare-and-swap, explicit class (R185) -/
  | acasWC (o : ATCop)
  /-- 8-byte far atomic add, explicit class (R185) -/
  | aaddDC (o : ATCop)
  /-- 8-byte far atomic AND, explicit class (R185) -/
  | aandDC (o : ATCop)
  /-- 8-byte far atomic OR, explicit class (R185) -/
  | aorDC (o : ATCop)
  /-- 8-byte far atomic XOR, explicit class (R185) -/
  | axorDC (o : ATCop)
  /-- 8-byte far atomic signed minimum, explicit class (R185) -/
  | aminDC (o : ATCop)
  /-- 8-byte far atomic signed maximum, explicit class (R185) -/
  | amaxDC (o : ATCop)
  /-- 8-byte far atomic swap, explicit class (R185) -/
  | aswapDC (o : ATCop)
  /-- 8-byte far atomic compare-and-swap, explicit class (R185) -/
  | acasDC (o : ATCop)
  /-- 4-byte far atomic add, class OCDEF (R185) -/
  | aaddW (o : ATop)
  /-- 4-byte far atomic AND, class OCDEF (R185) -/
  | aandW (o : ATop)
  /-- 4-byte far atomic OR, class OCDEF (R185) -/
  | aorW (o : ATop)
  /-- 4-byte far atomic XOR, class OCDEF (R185) -/
  | axorW (o : ATop)
  /-- 4-byte far atomic signed minimum, class OCDEF (R185) -/
  | aminW (o : ATop)
  /-- 4-byte far atomic signed maximum, class OCDEF (R185) -/
  | amaxW (o : ATop)
  /-- 4-byte far atomic swap, class OCDEF (R185) -/
  | aswapW (o : ATop)
  /-- 4-byte far atomic compare-and-swap, class OCDEF (R185) -/
  | acasW (o : ATop)
  /-- 8-byte far atomic add, class OCDEF (R185) -/
  | aaddD (o : ATop)
  /-- 8-byte far atomic AND, class OCDEF (R185) -/
  | aandD (o : ATop)
  /-- 8-byte far atomic OR, class OCDEF (R185) -/
  | aorD (o : ATop)
  /-- 8-byte far atomic XOR, class OCDEF (R185) -/
  | axorD (o : ATop)
  /-- 8-byte far atomic signed minimum, class OCDEF (R185) -/
  | aminD (o : ATop)
  /-- 8-byte far atomic signed maximum, class OCDEF (R185) -/
  | amaxD (o : ATop)
  /-- 8-byte far atomic swap, class OCDEF (R185) -/
  | aswapD (o : ATop)
  /-- 8-byte far atomic compare-and-swap, class OCDEF (R185) -/
  | acasD (o : ATop)
  /-- Orders later accesses in the mask's classes after earlier ones (R186) -/
  | fenceC (mask : BitVec 16)
  /-- Fences all classes for targets inside the issuer's unit of a scope (R187) -/
  | fenceS (sc : BitVec 3)
  /-- Marks xd full after any pending fill (R188) -/
  | feSet (d : XReg)
  /-- Marks xd empty after any pending fill (R188) -/
  | feClr (d : XReg)
  /-- Takes lanes, opens a strip or changes width, and writes VL (R56) -/
  | vsetl (d : XReg) (sew : BitVec 2) (grp : BitVec 2)
  /-- Swaps the checkpoint mask with xa (R206) -/
  | vckm (o : RAop)
  /-- Releases the core's lanes after the VIQ empties (R59) -/
  | vrel
  /-- Submits a descriptor copy under a completion mark (R290) -/
  | cpy (o : CPop)
  /-- Submits a background indexed gather (R291) -/
  | cpyg (o : CPop)
  /-- Submits a remote copy over Catric or CXL (R292) -/
  | cpyr (o : CPop)
  /-- Cancels incomplete operations under the masked marks (R293) -/
  | cpyk (o : RAop)
  /-- Waits for masked marks to quiesce, returning flags or raising an error (R294) -/
  | wmark (o : RAop)
  /-- Moves a 4 KiB tile under a mark (R295) -/
  | tmv (o : TMop)
  /-- Flips a scratchpad tile's owner bit after its waits (R296) -/
  | tflip (o : RAop)
  /-- Initialises an arrival barrier's pending count (R298) -/
  | barInit (o : BAop)
  /-- Flushes, waits and debits an arrival barrier (R298) -/
  | barArrive (o : BAop)
  /-- Waits until an arrival barrier's PEND is 0 or its epoch moves (R298) -/
  | barWait (o : BWop)
  /-- Takes a region from the launch root (R95) -/
  | own (o : TKAop)
  /-- Lends an owned region to another agent after a drain (R95) -/
  | lend (o : TKop)
  /-- Returns a region to its lender or the launch root after a drain (R95) -/
  | ret (o : TKAop)
  /-- Splits an owned region at an offset into a new entry (R95) -/
  | split (o : TKop)
  /-- Merges an adjacent owned region into another (R95) -/
  | merge (o : TKop)
  /-- Grants a read share of an owned region (R95) -/
  | rshare (o : TKop)
  /-- Drops a held read share (R95) -/
  | rdrop (o : TKAop)
  /-- Returns a token entry reference and optionally stores its image (R299) -/
  | tq (o : TKop)
  /-- Sends a command block to the bank sequencer (R271) -/
  | bkx (o : RAop)
  /-- Seals a row range of one frame (R272) -/
  | bkseal (o : RAop)
  /-- Requests a row lock with a lease (R274) -/
  | bklock (o : RRop)
  /-- Flushes, waits and releases a row lock (R274) -/
  | bkunlock (a : XReg) (fa : Bool)
  /-- Flushes and waits for earlier accesses and commands (R121) -/
  | bkfence
  /-- Loads a microprogram image into a slot (R276) -/
  | bkload (o : RRop)
  /-- Frees a microprogram slot (R276) -/
  | bkinv (o : RAop)
  /-- Returns bank sequencer status of a kind (R277) -/
  | bkst (o : RAop)
  /-- Copies a row range into another range (R272) -/
  | bkclone (o : RRop)
  /-- Sums an integer plane group over lanes (R273) -/
  | bkred (o : RRop)
  /-- Reads a CSR (R190) -/
  | csrr (d : XReg) (n : BitVec 11)
  /-- Writes a CSR (R190) -/
  | csrw (n : BitVec 11) (a : XReg)
  /-- Sets bits of a CSR (R190) -/
  | csrs (n : BitVec 11) (a : XReg)
  /-- Clears bits of a CSR (R190) -/
  | csrc (n : BitVec 11) (a : XReg)
  /-- Raises a TRAP fault with a code (R191) -/
  | trap (code : BitVec 11)
  /-- Ends the trap handler and resumes at EPC (R351) -/
  | tret
  /-- Waits for the event bit with an optional limit (R192) -/
  | wfe (t : BitVec 11)
  /-- Waits until CYC reaches xa (R193) -/
  | sleepc (a : XReg)
  /-- Raises a BREAK fault with a code (R191) -/
  | brk (code : BitVec 11)
  /-- Does nothing (R194) -/
  | nop
  /-- Ends the context instance after its waits, passing tokens to the root (R60) -/
  | fin
  /-- Closes a vector-fetch block and retires with no effect (R209) -/
  | vstop
  /-- Raises BREAK when it reaches execution (R209) -/
  | vbrk (code : BitVec 11)
  /-- Element-wise add, vector operand (R210) -/
  | vaddVr (o : VVop)
  /-- Element-wise add, scalar operand (R210) -/
  | vaddSc (o : VXop)
  /-- Element-wise add, immediate operand (R210) -/
  | vaddIm (o : VIop)
  /-- Element-wise subtract, vector operand (R210) -/
  | vsubVr (o : VVop)
  /-- Element-wise subtract, scalar operand (R210) -/
  | vsubSc (o : VXop)
  /-- Reverse subtract, scalar operand (R210) -/
  | vrsubSc (o : VXop)
  /-- Reverse subtract, immediate operand (R210) -/
  | vrsubIm (o : VIop)
  /-- Element-wise multiply, vector operand (R210) -/
  | vmulVr (o : VVop)
  /-- Element-wise multiply, scalar operand (R210) -/
  | vmulSc (o : VXop)
  /-- Signed high multiply, vector operand (R210) -/
  | vmulhVr (o : VVop)
  /-- Signed high multiply, scalar operand (R210) -/
  | vmulhSc (o : VXop)
  /-- Unsigned high multiply, vector operand (R210) -/
  | vmulhnVr (o : VVop)
  /-- Unsigned high multiply, scalar operand (R210) -/
  | vmulhnSc (o : VXop)
  /-- Multiply-accumulate, vector operand (R210) -/
  | vmaccVr (o : VVop)
  /-- Multiply-accumulate, scalar operand (R210) -/
  | vmaccSc (o : VXop)
  /-- Multiply-subtract from destination, vector operand (R210) -/
  | vnmsacVr (o : VVop)
  /-- Multiply-subtract from destination, scalar operand (R210) -/
  | vnmsacSc (o : VXop)
  /-- Signed divide, vector operand (R210) -/
  | vdivVr (o : VVop)
  /-- Signed divide, scalar operand (R210) -/
  | vdivSc (o : VXop)
  /-- Unsigned divide, vector operand (R210) -/
  | vdivnVr (o : VVop)
  /-- Unsigned divide, scalar operand (R210) -/
  | vdivnSc (o : VXop)
  /-- Signed remainder, vector operand (R210) -/
  | vremVr (o : VVop)
  /-- Signed remainder, scalar operand (R210) -/
  | vremSc (o : VXop)
  /-- Unsigned remainder, vector operand (R210) -/
  | vremnVr (o : VVop)
  /-- Unsigned remainder, scalar operand (R210) -/
  | vremnSc (o : VXop)
  /-- Signed minimum, vector operand (R210) -/
  | vminVr (o : VVop)
  /-- Signed minimum, scalar operand (R210) -/
  | vminSc (o : VXop)
  /-- Signed maximum, vector operand (R210) -/
  | vmaxVr (o : VVop)
  /-- Signed maximum, scalar operand (R210) -/
  | vmaxSc (o : VXop)
  /-- Unsigned minimum, vector operand (R210) -/
  | vminnVr (o : VVop)
  /-- Unsigned minimum, scalar operand (R210) -/
  | vminnSc (o : VXop)
  /-- Unsigned maximum, vector operand (R210) -/
  | vmaxnVr (o : VVop)
  /-- Unsigned maximum, scalar operand (R210) -/
  | vmaxnSc (o : VXop)
  /-- Bitwise AND, vector operand (R210) -/
  | vandVr (o : VVop)
  /-- Bitwise AND, scalar operand (R210) -/
  | vandSc (o : VXop)
  /-- Bitwise AND, immediate operand (R210) -/
  | vandIm (o : VIop)
  /-- Bitwise OR, vector operand (R210) -/
  | vorVr (o : VVop)
  /-- Bitwise OR, scalar operand (R210) -/
  | vorSc (o : VXop)
  /-- Bitwise OR, immediate operand (R210) -/
  | vorIm (o : VIop)
  /-- Bitwise XOR, vector operand (R210) -/
  | vxorVr (o : VVop)
  /-- Bitwise XOR, scalar operand (R210) -/
  | vxorSc (o : VXop)
  /-- Bitwise XOR, immediate operand (R210) -/
  | vxorIm (o : VIop)
  /-- Logical left shift, vector operand (R210) -/
  | vsllVr (o : VVop)
  /-- Logical left shift, scalar operand (R210) -/
  | vsllSc (o : VXop)
  /-- Logical left shift, immediate operand (R210) -/
  | vsllIm (o : VIop)
  /-- Logical right shift, vector operand (R210) -/
  | vsrlVr (o : VVop)
  /-- Logical right shift, scalar operand (R210) -/
  | vsrlSc (o : VXop)
  /-- Logical right shift, immediate operand (R210) -/
  | vsrlIm (o : VIop)
  /-- Arithmetic right shift, vector operand (R210) -/
  | vsraVr (o : VVop)
  /-- Arithmetic right shift, scalar operand (R210) -/
  | vsraSc (o : VXop)
  /-- Arithmetic right shift, immediate operand (R210) -/
  | vsraIm (o : VIop)
  /-- Narrowing logical right shift, vector amount (R211) -/
  | vshrnVr (o : VVop)
  /-- Narrowing logical right shift, immediate amount (R211) -/
  | vshrnIm (o : VIop)
  /-- Narrowing arithmetic right shift, vector amount (R211) -/
  | vsarnVr (o : VVop)
  /-- Narrowing arithmetic right shift, immediate amount (R211) -/
  | vsarnIm (o : VIop)
  /-- Widening signed add (R212) -/
  | vwadd (o : VVop)
  /-- Widening unsigned add (R212) -/
  | vwaddn (o : VVop)
  /-- Widening signed multiply (R212) -/
  | vwmul (o : VVop)
  /-- Widening unsigned multiply (R212) -/
  | vwmuln (o : VVop)
  /-- Saturating signed add, vector operand (R213) -/
  | vsaddVr (o : VVop)
  /-- Saturating signed add, scalar operand (R213) -/
  | vsaddSc (o : VXop)
  /-- Saturating unsigned add, vector operand (R213) -/
  | vsaddnVr (o : VVop)
  /-- Saturating unsigned add, scalar operand (R213) -/
  | vsaddnSc (o : VXop)
  /-- Saturating signed subtract, vector operand (R213) -/
  | vssubVr (o : VVop)
  /-- Saturating signed subtract, scalar operand (R213) -/
  | vssubSc (o : VXop)
  /-- Saturating unsigned subtract, vector operand (R213) -/
  | vssubnVr (o : VVop)
  /-- Saturating unsigned subtract, scalar operand (R213) -/
  | vssubnSc (o : VXop)
  /-- Narrowing signed rounding shift with saturation (R213) -/
  | vclip (o : VSHop)
  /-- Narrowing unsigned rounding shift with saturation (R213) -/
  | vclipn (o : VSHop)
  /-- Floating add, vector operand (R214) -/
  | vfaddVr (o : VVop)
  /-- Floating add, scalar operand (R214) -/
  | vfaddSc (o : VXop)
  /-- Floating subtract, vector operand (R214) -/
  | vfsubVr (o : VVop)
  /-- Floating subtract, scalar operand (R214) -/
  | vfsubSc (o : VXop)
  /-- Floating multiply, vector operand (R214) -/
  | vfmulVr (o : VVop)
  /-- Floating multiply, scalar operand (R214) -/
  | vfmulSc (o : VXop)
  /-- Fused multiply-add into destination, vector operand (R214) -/
  | vfmaccVr (o : VVop)
  /-- Fused multiply-add into destination, scalar operand (R214) -/
  | vfmaccSc (o : VXop)
  /-- Floating divide, vector operand (R214) -/
  | vfdivVr (o : VVop)
  /-- Floating divide, scalar operand (R214) -/
  | vfdivSc (o : VXop)
  /-- Floating minimum, vector operand (R214) -/
  | vfminVr (o : VVop)
  /-- Floating minimum, scalar operand (R214) -/
  | vfminSc (o : VXop)
  /-- Floating maximum, vector operand (R214) -/
  | vfmaxVr (o : VVop)
  /-- Floating maximum, scalar operand (R214) -/
  | vfmaxSc (o : VXop)
  /-- Sign copy, vector operand (R214) -/
  | vfcpsVr (o : VVop)
  /-- Sign copy, scalar operand (R214) -/
  | vfcpsSc (o : VXop)
  /-- Inverted sign copy, vector operand (R214) -/
  | vfcpsnVr (o : VVop)
  /-- Inverted sign copy, scalar operand (R214) -/
  | vfcpsnSc (o : VXop)
  /-- XOR sign copy, vector operand (R214) -/
  | vfcpsxVr (o : VVop)
  /-- XOR sign copy, scalar operand (R214) -/
  | vfcpsxSc (o : VXop)
  /-- Floating square root (R214) -/
  | vfsqrt (o : VUop)
  /-- Base-2 exponential rounded by RNE (R215) -/
  | vfexp2 (o : VUop)
  /-- Reciprocal rounded by RNE (R215) -/
  | vfrcp (o : VUop)
  /-- Reciprocal square root rounded by RNE (R215) -/
  | vfrsq (o : VUop)
  /-- Base-2 logarithm rounded by RNE (R215) -/
  | vflog2 (o : VUop)
  /-- Converts signed integers to floating (R216) -/
  | vfcvtFI (o : VUop)
  /-- Converts unsigned integers to floating (R216) -/
  | vfcvtFN (o : VUop)
  /-- Converts floating to signed integers (R216) -/
  | vfcvtIF (o : VUop)
  /-- Converts floating to unsigned integers (R216) -/
  | vfcvtNF (o : VUop)
  /-- Narrows FP32 to BF16 (R216) -/
  | vfcvtBfF (o : VUop)
  /-- Widens BF16 to FP32 (R216) -/
  | vfcvtFBf (o : VUop)
  /-- Packs FP32 into DXB8 blocks (R216) -/
  | vfcvtDxb8F (o : VGAPop)
  /-- Packs FP32 into DXB4 blocks (R216) -/
  | vfcvtDxb4F (o : VGAPop)
  /-- Unpacks DXB8 blocks to FP32 (R216) -/
  | vfcvtFDxb8 (o : VUop)
  /-- Unpacks DXB4 blocks to FP32 (R216) -/
  | vfcvtFDxb4 (o : VUop)
  /-- Compare equal into a mask, vector operand (R217) -/
  | vceqVr (o : CVop)
  /-- Compare equal into a mask, scalar operand (R217) -/
  | vceqSc (o : CXop)
  /-- Compare not equal, vector operand (R217) -/
  | vcneVr (o : CVop)
  /-- Compare not equal, scalar operand (R217) -/
  | vcneSc (o : CXop)
  /-- Signed less-than compare, vector operand (R217) -/
  | vcltVr (o : CVop)
  /-- Signed less-than compare, scalar operand (R217) -/
  | vcltSc (o : CXop)
  /-- Unsigned less-than compare, vector operand (R217) -/
  | vcltnVr (o : CVop)
  /-- Unsigned less-than compare, scalar operand (R217) -/
  | vcltnSc (o : CXop)
  /-- Signed less-or-equal compare, vector operand (R217) -/
  | vcleVr (o : CVop)
  /-- Signed less-or-equal compare, scalar operand (R217) -/
  | vcleSc (o : CXop)
  /-- Unsigned less-or-equal compare, vector operand (R217) -/
  | vclenVr (o : CVop)
  /-- Unsigned less-or-equal compare, scalar operand (R217) -/
  | vclenSc (o : CXop)
  /-- Signed greater-than compare, scalar operand (R217) -/
  | vcgtSc (o : CXop)
  /-- Unsigned greater-than compare, scalar operand (R217) -/
  | vcgtnSc (o : CXop)
  /-- Floating equal compare, vector operand (R218) -/
  | vfceqVr (o : CVop)
  /-- Floating equal compare, scalar operand (R218) -/
  | vfceqSc (o : CXop)
  /-- Floating not-equal compare, vector operand (R218) -/
  | vfcneVr (o : CVop)
  /-- Floating not-equal compare, scalar operand (R218) -/
  | vfcneSc (o : CXop)
  /-- Floating less-than compare, vector operand (R218) -/
  | vfcltVr (o : CVop)
  /-- Floating less-than compare, scalar operand (R218) -/
  | vfcltSc (o : CXop)
  /-- Floating less-or-equal compare, vector operand (R218) -/
  | vfcleVr (o : CVop)
  /-- Floating less-or-equal compare, scalar operand (R218) -/
  | vfcleSc (o : CXop)
  /-- Mask AND (R219) -/
  | kand (o : KKop)
  /-- Mask OR (R219) -/
  | kor (o : KKop)
  /-- Mask XOR (R219) -/
  | kxor (o : KKop)
  /-- Mask NOT (R219) -/
  | knot (o : KNop)
  /-- Returns the first set mask bit below VL through the read queue (R220) -/
  | kffs (o : KXop)
  /-- Returns the count of set mask bits below VL (R220) -/
  | kpopc (o : KXop)
  /-- Returns 64 bits of a mask register (R220) -/
  | kmvx (o : KMop)
  /-- Selects elements by mask, vector operand (R221) -/
  | vmergeVr (o : VVop)
  /-- Selects elements by mask, scalar operand (R221) -/
  | vmergeSc (o : VXop)
  /-- Selects elements by mask, immediate operand (R221) -/
  | vmergeIm (o : VIop)
  /-- Integer sum reduction (R222) -/
  | vsumr (o : VVop)
  /-- Signed maximum reduction (R222) -/
  | vmaxr (o : VVop)
  /-- Unsigned maximum reduction (R222) -/
  | vmaxnr (o : VVop)
  /-- Signed minimum reduction (R222) -/
  | vminr (o : VVop)
  /-- Unsigned minimum reduction (R222) -/
  | vminnr (o : VVop)
  /-- Floating sum reduction (R222) -/
  | vfsumr (o : VVop)
  /-- Floating maximum reduction (R222) -/
  | vfmaxr (o : VVop)
  /-- Floating minimum reduction (R222) -/
  | vfminr (o : VVop)
  /-- Slides elements up by a scalar offset (R224) -/
  | vslideupSc (o : VXop)
  /-- Slides elements up by an immediate offset (R224) -/
  | vslideupIm (o : VIop)
  /-- Slides elements down by a scalar offset (R224) -/
  | vslidednSc (o : VXop)
  /-- Slides elements down by an immediate offset (R224) -/
  | vslidednIm (o : VIop)
  /-- Slides up by one, inserting a scalar at element 0 (R224) -/
  | vslide1up (o : VXop)
  /-- Gathers elements by index (R225) -/
  | vrgather (o : VVop)
  /-- Packs active elements to the bottom (R226) -/
  | vcompress (o : VUop)
  /-- Transposes units held row-major (R227) -/
  | vreshp (o : RSHop)
  /-- Writes an arithmetic index sequence (R228) -/
  | vidx (o : MVIop)
  /-- Moves a vector to the destination (R223) -/
  | vmvVr (o : VUop)
  /-- Broadcasts a scalar (R223) -/
  | vmvSc (o : MVXop)
  /-- Broadcasts an immediate (R223) -/
  | vmvIm (o : MVIop)
  /-- Returns element 0 to an x register through the read queue (R220) -/
  | vmvxs (o : MVXSop)
  /-- Writes an x register into element 0 (R223) -/
  | vmvsx (o : MVSXop)
  /-- Unit-stride vector load (R231) -/
  | vld (o : VMop)
  /-- Strided vector load (R231) -/
  | vlds (o : VMSop)
  /-- Indexed vector load (R231) -/
  | vldx (o : VMXop)
  /-- Fault-only-first load that trims VL (R232) -/
  | vldff (o : VMop)
  /-- Segment load of records into field groups (R233) -/
  | vldseg (o : VSGop)
  /-- Unit-stride vector store (R231) -/
  | vst (o : VMop)
  /-- Strided vector store (R231) -/
  | vsts (o : VMSop)
  /-- Indexed vector store (R231) -/
  | vstx (o : VMXop)
  /-- Segment store of field groups as records (R233) -/
  | vstseg (o : VSGop)
  /-- Gather-atomic add per element (R234) -/
  | vaadd (o : VATop)
  /-- Gather-atomic AND per element (R234) -/
  | vaand (o : VATop)
  /-- Gather-atomic OR per element (R234) -/
  | vaor (o : VATop)
  /-- Gather-atomic XOR per element (R234) -/
  | vaxor (o : VATop)
  /-- Gather-atomic minimum per element (R234) -/
  | vamin (o : VATop)
  /-- Gather-atomic maximum per element (R234) -/
  | vamax (o : VATop)
  /-- Gather-atomic swap per element (R234) -/
  | vaswap (o : VATop)
  /-- Gather-atomic compare-and-swap per element (R234) -/
  | vacas (o : VATop)
  /-- Sets PREC from an x register (R246) -/
  | mprec (xa : XReg) (fa : Bool)
  /-- Requests the matrix slice claim (R247) -/
  | mclaim
  /-- Ends the slice claim after earlier matrix words (R247) -/
  | mrel
  /-- Loads 6 KiB into an operand slot (R248) -/
  | mldb (o : MLDop)
  /-- Clears the accumulators and FSET and SAT (R247) -/
  | mzero
  /-- Integer bit-serial multiply-accumulate (R249) -/
  | mma (o : MMop)
  /-- Floating multiply-accumulate into FP32 (R250) -/
  | mmaf (o : MMop)
  /-- Integer by ternary multiply-accumulate (R249) -/
  | mmat (o : MMop)
  /-- Scales accumulators by row and column scales (R251) -/
  | mscale (o : MSCop)
  /-- Converts accumulators into a register group (R252) -/
  | mcvt (o : MCVop)
  /-- Ends the microprogram (R260) -/
  | endOp
  /-- Copies a row (R260) -/
  | rcpy (o : MRCop)
  /-- Triple-row majority into three rows and a destination (R260) -/
  | tra (o : MTRop)
  /-- Triple-row majority with the destination receiving its complement (R260) -/
  | tran (o : MTRop)
  /-- Writes the complement of a row through n0 (R260) -/
  | negr (o : MRCop)
  /-- Shifts a row up across lanes by 2^K (R260) -/
  | shl (o : MSHop)
  /-- Shifts a row down across lanes by 2^K (R260) -/
  | shr (o : MSHop)
  /-- Writes zeros to a row (R260) -/
  | clr (dst : BitVec 9)
  /-- Writes ones to a row (R260) -/
  | set (dst : BitVec 9)
  /-- Writes correct check bits for a C row (R266) -/
  | seal (dst : BitVec 9)
  /-- Broadcasts a bit of a constant as a uniform row (R260) -/
  | brd (o : MBRDop)
  /-- Counts a loop, stepping and resetting index registers (R261) -/
  | loopc (o : MLOOPop)
  /-- Branches forward when a row is zero, otherwise setting a response flag (R261) -/
  | brz (o : MBRZop)
  /-- Places a quantum boundary (R263) -/
  | yield
  /-- Places a boundary only when refresh or an access waits (R263) -/
  | sync
  /-- A scalar word whose encoding R161 does not assign, or that breaks a field rule, reaches issue and raises ILLEGAL (R164) -/
  | unassignedEncoding (w : BitVec 32)
  /-- A capability handle commit or fetch started through HSEL completes, setting DONE to 1, after which the commit applies to checks (R102) -/
  | hselDone (vi : Nat)
  /-- A DRAM die falling back to 85 °C or below returns its refresh interval from 78 rc to 156 rc (R336) -/
  | dramBelow85c (stack : Nat)
  deriving DecidableEq, Repr

end Sys2Proof
end

