-- ==== Sys2Proof/WellFormed.lean ====
section
/-! DEFINITION. Which operand values an encoding admits: the field rules of R156, R157, R164, R217, R219, R221, R226, R227, R244, R245
that the fields of one word decide. A word that breaks one raises ILLEGAL; conditions that need the state are checked by the machine. -/
namespace Sys2Proof

/-- KM = 0 with KP = 1 is unassigned (R157). -/
def VMask.wf (m : VMask) : Bool := m.km != 0 || !m.kp

/-- A modifier has REP = 1 or is 0 in all its bits (R156). -/
def modWf (m : BitVec 3) : Bool := m == 0 || m.getLsbD 2

/-- SCOPE 5 to 7 is unassigned (R153). -/
def scopeWf (s : BitVec 3) : Bool := s.toNat ≤ 4

/-- Operand slots are b0 to b47 (R244). -/
def slotWf (s : BitVec 6) : Bool := s.toNat ≤ 47

/-- OFMT 9 to 15 is refused; n is 0 for formats 5 and 6, and a gap code of three bits for formats 7 and 8 (R244, R252). -/
def mcvtWf (o : MCVop) : Bool :=
  o.ofmt.toNat ≤ 8 && (if o.ofmt.toNat = 5 ∨ o.ofmt.toNat = 6 then o.n == 0 else if o.ofmt.toNat ≥ 7 then o.n.toNat ≤ 7 else true)

/-- The field rules of one instruction. The steps of the device have no fields of a word, and no rule here. -/
def Instr.wf (i : Instr) : Bool :=
  match i with
  | .lpktLatch _ _ _ _ => true
  | .launchSubmit _ _ _ => true
  | .rcptRead _ _ => true
  | .trootWrite _ _ => true
  | .tinvWrite _ _ => true
  | .tinvComplete _ => true
  | .tsyncRead _ => true
  | .handleCommit _ _ => true
  | .handleFetch _ _ => true
  | .give _ _ => true
  | .home _ _ => true
  | .unhome _ _ => true
  | .carve _ => true
  | .carveDelete _ => true
  | .vschedWrite _ _ => true
  | .hdmbWrite _ _ => true
  | .modidWrite _ => true
  | .routeWrite _ _ => true
  | .mrootWrite _ => true
  | .serviceModeRequest _ => true
  | .svnRaise _ => true
  | .svnFuseDone => true
  | .scanctlWrite _ => true
  | .cestatWrite _ _ => true
  | .spareWrite _ _ => true
  | .checkpoint _ => true
  | .quiesceTimeout => true
  | .checkpointDone _ => true
  | .restore _ => true
  | .restoreDone _ => true
  | .registerWrite _ _ _ _ => true
  | .getVersion _ => true
  | .getCapabilities _ => true
  | .negotiateAlgorithms _ => true
  | .getDigests _ => true
  | .getCertificate _ => true
  | .challenge _ => true
  | .getMeasurements _ => true
  | .unsupportedRequest _ => true
  | .hostMemRead _ _ _ _ => true
  | .hostMemWrite _ _ _ _ => true
  | .remoteAccessRequest _ => true
  | .remoteCopyCheck _ => true
  | .remoteCopyWrite _ => true
  | .flitCrcFail _ => true
  | .linkRetrain _ _ => true
  | .moduleUnreachable _ => true
  | .remotePromiseMissed _ => true
  | .schedulerTick => true
  | .place _ => true
  | .lockGroupTake _ => true
  | .preempt _ => true
  | .preemptionComplete _ => true
  | .preload _ => true
  | .dealreq _ => true
  | .stealreq _ => true
  | .deal _ => true
  | .done _ => true
  | .cost _ => true
  | .cmdAck _ _ => true
  | .launchComplete _ _ => true
  | .schedulerFailover => true
  | .moduleStop => true
  | .powerWindow _ _ => true
  | .dramOver85c _ => true
  | .thermalShutdown => true
  | .resetRelease => true
  | .functionLevelReset _ => true
  | .cxlLinkLoss _ => true
  | .reclamation _ => true
  | .quadRetire _ => true
  | .vaultRetire _ => true
  | .frameRelocate _ _ => true
  | .rowSpare _ => true
  | .patrolScrub _ => true
  | .refreshDue _ => true
  | .autoSeal _ => true
  | .scanTest => true
  | .scanTestEnd _ => true
  | .targetAccess _ => true
  | .registerFill _ => true
  | .homeAtomic _ => true
  | .homeBarInit _ => true
  | .homeCredit _ => true
  | .homeDebit _ => true
  | .homeWait _ => true
  | .laneGrant _ => true
  | .claimGrant _ => true
  | .sleepcExpiry _ => true
  | .wfeTimeout _ => true
  | .trapEntry _ => true
  | .leaseExpiry _ => true
  | .lockGrant _ => true
  | .sequencerTurn _ _ => true
  | .quantumBoundary _ => true
  | .commandResponse _ => true
  | .slotLoadDone _ => true
  | .slotInvalidateDone _ => true
  | .copyAccept _ => true
  | .chunkDebit _ _ => true
  | .operationComplete _ => true
  | .drainEnd _ => true
  | .tokenOpComplete _ => true
  | .recheck _ _ => true
  | .stripRewind _ => true
  | .add _ => true
  | .sub _ => true
  | .and _ => true
  | .or _ => true
  | .xor _ => true
  | .andn _ => true
  | .orn _ => true
  | .sll _ => true
  | .srl _ => true
  | .sra _ => true
  | .rotl _ => true
  | .rotr _ => true
  | .min _ => true
  | .max _ => true
  | .minn _ => true
  | .maxn _ => true
  | .slt _ => true
  | .sltn _ => true
  | .clz _ => true
  | .ctz _ => true
  | .popc _ => true
  | .bext _ => true
  | .bins _ => true
  | .mul _ => true
  | .mulh _ => true
  | .mulhn _ => true
  | .div _ => true
  | .divn _ => true
  | .rem _ => true
  | .remn _ => true
  | .addi _ => true
  | .andi _ => true
  | .ori _ => true
  | .xori _ => true
  | .slti _ => true
  | .sltni _ => true
  | .slli _ => true
  | .srli _ => true
  | .srai _ => true
  | .ldhi _ => true
  | .addpc _ => true
  | .bexti _ => true
  | .binsi _ => true
  | .jalr _ => true
  | .jal _ => true
  | .beq _ => true
  | .bne _ => true
  | .blt _ => true
  | .bltn _ => true
  | .bge _ => true
  | .bgen _ => true
  | .vstrip _ => true
  | .vfetch _ => true
  | .vfetchr _ _ => true
  | .ldbC _ => true
  | .ldbnC _ => true
  | .ldhC _ => true
  | .ldhnC _ => true
  | .ldwC _ => true
  | .ldwnC _ => true
  | .lddC _ => true
  | .stbC _ => true
  | .sthC _ => true
  | .stwC _ => true
  | .stdC _ => true
  | .ldb _ => true
  | .ldbn _ => true
  | .ldh _ => true
  | .ldhn _ => true
  | .ldw _ => true
  | .ldwn _ => true
  | .ldd _ => true
  | .stb _ => true
  | .sth _ => true
  | .stw _ => true
  | .std _ => true
  | .aaddWC o => scopeWf o.sc
  | .aandWC o => scopeWf o.sc
  | .aorWC o => scopeWf o.sc
  | .axorWC o => scopeWf o.sc
  | .aminWC o => scopeWf o.sc
  | .amaxWC o => scopeWf o.sc
  | .aswapWC o => scopeWf o.sc
  | .acasWC o => scopeWf o.sc
  | .aaddDC o => scopeWf o.sc
  | .aandDC o => scopeWf o.sc
  | .aorDC o => scopeWf o.sc
  | .axorDC o => scopeWf o.sc
  | .aminDC o => scopeWf o.sc
  | .amaxDC o => scopeWf o.sc
  | .aswapDC o => scopeWf o.sc
  | .acasDC o => scopeWf o.sc
  | .aaddW o => scopeWf o.sc
  | .aandW o => scopeWf o.sc
  | .aorW o => scopeWf o.sc
  | .axorW o => scopeWf o.sc
  | .aminW o => scopeWf o.sc
  | .amaxW o => scopeWf o.sc
  | .aswapW o => scopeWf o.sc
  | .acasW o => scopeWf o.sc
  | .aaddD o => scopeWf o.sc
  | .aandD o => scopeWf o.sc
  | .aorD o => scopeWf o.sc
  | .axorD o => scopeWf o.sc
  | .aminD o => scopeWf o.sc
  | .amaxD o => scopeWf o.sc
  | .aswapD o => scopeWf o.sc
  | .acasD o => scopeWf o.sc
  | .fenceC _ => true
  | .fenceS sc => scopeWf sc
  | .feSet _ => true
  | .feClr _ => true
  | .vsetl _ _ _ => true
  | .vckm _ => true
  | .vrel => true
  | .cpy _ => true
  | .cpyg _ => true
  | .cpyr _ => true
  | .cpyk _ => true
  | .wmark _ => true
  | .tmv _ => true
  | .tflip _ => true
  | .barInit _ => true
  | .barArrive _ => true
  | .barWait o => o.exp || (o.b == 0 && !o.fb)
  | .own _ => true
  | .lend _ => true
  | .ret _ => true
  | .split _ => true
  | .merge _ => true
  | .rshare _ => true
  | .rdrop _ => true
  | .tq _ => true
  | .bkx _ => true
  | .bkseal _ => true
  | .bklock _ => true
  | .bkunlock _ _ => true
  | .bkfence => true
  | .bkload _ => true
  | .bkinv _ => true
  | .bkst _ => true
  | .bkclone _ => true
  | .bkred _ => true
  | .csrr _ _ => true
  | .csrw _ _ => true
  | .csrs _ _ => true
  | .csrc _ _ => true
  | .trap _ => true
  | .tret => true
  | .wfe _ => true
  | .sleepc _ => true
  | .brk _ => true
  | .nop => true
  | .fin => true
  | .vstop => true
  | .vbrk _ => true
  | .vaddVr o => o.m.wf && modWf o.ma && modWf o.mb
  | .vaddSc o => o.m.wf && modWf o.ma
  | .vaddIm o => o.m.wf && modWf o.ma
  | .vsubVr o => o.m.wf && modWf o.ma && modWf o.mb
  | .vsubSc o => o.m.wf && modWf o.ma
  | .vrsubSc o => o.m.wf && modWf o.ma
  | .vrsubIm o => o.m.wf && modWf o.ma
  | .vmulVr o => o.m.wf && modWf o.ma && modWf o.mb
  | .vmulSc o => o.m.wf && modWf o.ma
  | .vmulhVr o => o.m.wf && modWf o.ma && modWf o.mb
  | .vmulhSc o => o.m.wf && modWf o.ma
  | .vmulhnVr o => o.m.wf && modWf o.ma && modWf o.mb
  | .vmulhnSc o => o.m.wf && modWf o.ma
  | .vmaccVr o => o.m.wf && modWf o.ma && modWf o.mb
  | .vmaccSc o => o.m.wf && modWf o.ma
  | .vnmsacVr o => o.m.wf && modWf o.ma && modWf o.mb
  | .vnmsacSc o => o.m.wf && modWf o.ma
  | .vdivVr o => o.m.wf && modWf o.ma && modWf o.mb
  | .vdivSc o => o.m.wf && modWf o.ma
  | .vdivnVr o => o.m.wf && modWf o.ma && modWf o.mb
  | .vdivnSc o => o.m.wf && modWf o.ma
  | .vremVr o => o.m.wf && modWf o.ma && modWf o.mb
  | .vremSc o => o.m.wf && modWf o.ma
  | .vremnVr o => o.m.wf && modWf o.ma && modWf o.mb
  | .vremnSc o => o.m.wf && modWf o.ma
  | .vminVr o => o.m.wf && modWf o.ma && modWf o.mb
  | .vminSc o => o.m.wf && modWf o.ma
  | .vmaxVr o => o.m.wf && modWf o.ma && modWf o.mb
  | .vmaxSc o => o.m.wf && modWf o.ma
  | .vminnVr o => o.m.wf && modWf o.ma && modWf o.mb
  | .vminnSc o => o.m.wf && modWf o.ma
  | .vmaxnVr o => o.m.wf && modWf o.ma && modWf o.mb
  | .vmaxnSc o => o.m.wf && modWf o.ma
  | .vandVr o => o.m.wf && modWf o.ma && modWf o.mb
  | .vandSc o => o.m.wf && modWf o.ma
  | .vandIm o => o.m.wf && modWf o.ma
  | .vorVr o => o.m.wf && modWf o.ma && modWf o.mb
  | .vorSc o => o.m.wf && modWf o.ma
  | .vorIm o => o.m.wf && modWf o.ma
  | .vxorVr o => o.m.wf && modWf o.ma && modWf o.mb
  | .vxorSc o => o.m.wf && modWf o.ma
  | .vxorIm o => o.m.wf && modWf o.ma
  | .vsllVr o => o.m.wf && modWf o.ma && modWf o.mb
  | .vsllSc o => o.m.wf && modWf o.ma
  | .vsllIm o => o.m.wf && modWf o.ma
  | .vsrlVr o => o.m.wf && modWf o.ma && modWf o.mb
  | .vsrlSc o => o.m.wf && modWf o.ma
  | .vsrlIm o => o.m.wf && modWf o.ma
  | .vsraVr o => o.m.wf && modWf o.ma && modWf o.mb
  | .vsraSc o => o.m.wf && modWf o.ma
  | .vsraIm o => o.m.wf && modWf o.ma
  | .vshrnVr o => o.m.wf && modWf o.ma && modWf o.mb
  | .vshrnIm o => o.m.wf && modWf o.ma
  | .vsarnVr o => o.m.wf && modWf o.ma && modWf o.mb
  | .vsarnIm o => o.m.wf && modWf o.ma
  | .vwadd o => o.m.wf && modWf o.ma && modWf o.mb
  | .vwaddn o => o.m.wf && modWf o.ma && modWf o.mb
  | .vwmul o => o.m.wf && modWf o.ma && modWf o.mb
  | .vwmuln o => o.m.wf && modWf o.ma && modWf o.mb
  | .vsaddVr o => o.m.wf && modWf o.ma && modWf o.mb
  | .vsaddSc o => o.m.wf && modWf o.ma
  | .vsaddnVr o => o.m.wf && modWf o.ma && modWf o.mb
  | .vsaddnSc o => o.m.wf && modWf o.ma
  | .vssubVr o => o.m.wf && modWf o.ma && modWf o.mb
  | .vssubSc o => o.m.wf && modWf o.ma
  | .vssubnVr o => o.m.wf && modWf o.ma && modWf o.mb
  | .vssubnSc o => o.m.wf && modWf o.ma
  | .vclip o => o.m.wf && modWf o.ma
  | .vclipn o => o.m.wf && modWf o.ma
  | .vfaddVr o => o.m.wf && modWf o.ma && modWf o.mb
  | .vfaddSc o => o.m.wf && modWf o.ma
  | .vfsubVr o => o.m.wf && modWf o.ma && modWf o.mb
  | .vfsubSc o => o.m.wf && modWf o.ma
  | .vfmulVr o => o.m.wf && modWf o.ma && modWf o.mb
  | .vfmulSc o => o.m.wf && modWf o.ma
  | .vfmaccVr o => o.m.wf && modWf o.ma && modWf o.mb
  | .vfmaccSc o => o.m.wf && modWf o.ma
  | .vfdivVr o => o.m.wf && modWf o.ma && modWf o.mb
  | .vfdivSc o => o.m.wf && modWf o.ma
  | .vfminVr o => o.m.wf && modWf o.ma && modWf o.mb
  | .vfminSc o => o.m.wf && modWf o.ma
  | .vfmaxVr o => o.m.wf && modWf o.ma && modWf o.mb
  | .vfmaxSc o => o.m.wf && modWf o.ma
  | .vfcpsVr o => o.m.wf && modWf o.ma && modWf o.mb
  | .vfcpsSc o => o.m.wf && modWf o.ma
  | .vfcpsnVr o => o.m.wf && modWf o.ma && modWf o.mb
  | .vfcpsnSc o => o.m.wf && modWf o.ma
  | .vfcpsxVr o => o.m.wf && modWf o.ma && modWf o.mb
  | .vfcpsxSc o => o.m.wf && modWf o.ma
  | .vfsqrt o => o.m.wf && modWf o.ma
  | .vfexp2 o => o.m.wf && modWf o.ma
  | .vfrcp o => o.m.wf && modWf o.ma
  | .vfrsq o => o.m.wf && modWf o.ma
  | .vflog2 o => o.m.wf && modWf o.ma
  | .vfcvtFI o => o.m.wf && modWf o.ma
  | .vfcvtFN o => o.m.wf && modWf o.ma
  | .vfcvtIF o => o.m.wf && modWf o.ma
  | .vfcvtNF o => o.m.wf && modWf o.ma
  | .vfcvtBfF o => o.m.wf && modWf o.ma
  | .vfcvtFBf o => o.m.wf && modWf o.ma
  | .vfcvtDxb8F o => modWf o.ma
  | .vfcvtDxb4F o => modWf o.ma
  | .vfcvtFDxb8 o => o.m.wf && modWf o.ma
  | .vfcvtFDxb4 o => o.m.wf && modWf o.ma
  | .vceqVr o => o.m.wf && modWf o.ma && modWf o.mb && o.kd != 0
  | .vceqSc o => o.m.wf && modWf o.ma && o.kd != 0
  | .vcneVr o => o.m.wf && modWf o.ma && modWf o.mb && o.kd != 0
  | .vcneSc o => o.m.wf && modWf o.ma && o.kd != 0
  | .vcltVr o => o.m.wf && modWf o.ma && modWf o.mb && o.kd != 0
  | .vcltSc o => o.m.wf && modWf o.ma && o.kd != 0
  | .vcltnVr o => o.m.wf && modWf o.ma && modWf o.mb && o.kd != 0
  | .vcltnSc o => o.m.wf && modWf o.ma && o.kd != 0
  | .vcleVr o => o.m.wf && modWf o.ma && modWf o.mb && o.kd != 0
  | .vcleSc o => o.m.wf && modWf o.ma && o.kd != 0
  | .vclenVr o => o.m.wf && modWf o.ma && modWf o.mb && o.kd != 0
  | .vclenSc o => o.m.wf && modWf o.ma && o.kd != 0
  | .vcgtSc o => o.m.wf && modWf o.ma && o.kd != 0
  | .vcgtnSc o => o.m.wf && modWf o.ma && o.kd != 0
  | .vfceqVr o => o.m.wf && modWf o.ma && modWf o.mb && o.kd != 0
  | .vfceqSc o => o.m.wf && modWf o.ma && o.kd != 0
  | .vfcneVr o => o.m.wf && modWf o.ma && modWf o.mb && o.kd != 0
  | .vfcneSc o => o.m.wf && modWf o.ma && o.kd != 0
  | .vfcltVr o => o.m.wf && modWf o.ma && modWf o.mb && o.kd != 0
  | .vfcltSc o => o.m.wf && modWf o.ma && o.kd != 0
  | .vfcleVr o => o.m.wf && modWf o.ma && modWf o.mb && o.kd != 0
  | .vfcleSc o => o.m.wf && modWf o.ma && o.kd != 0
  | .kand o => o.kd != 0
  | .kor o => o.kd != 0
  | .kxor o => o.kd != 0
  | .knot o => o.kd != 0
  | .kffs _ => true
  | .kpopc _ => true
  | .kmvx _ => true
  | .vmergeVr o => o.m.km != 0 && modWf o.ma && modWf o.mb
  | .vmergeSc o => o.m.km != 0 && modWf o.ma
  | .vmergeIm o => o.m.km != 0 && modWf o.ma
  | .vsumr o => o.m.wf && modWf o.ma && modWf o.mb
  | .vmaxr o => o.m.wf && modWf o.ma && modWf o.mb
  | .vmaxnr o => o.m.wf && modWf o.ma && modWf o.mb
  | .vminr o => o.m.wf && modWf o.ma && modWf o.mb
  | .vminnr o => o.m.wf && modWf o.ma && modWf o.mb
  | .vfsumr o => o.m.wf && modWf o.ma && modWf o.mb
  | .vfmaxr o => o.m.wf && modWf o.ma && modWf o.mb
  | .vfminr o => o.m.wf && modWf o.ma && modWf o.mb
  | .vslideupSc o => o.m.wf && modWf o.ma
  | .vslideupIm o => o.m.wf && modWf o.ma
  | .vslidednSc o => o.m.wf && modWf o.ma
  | .vslidednIm o => o.m.wf && modWf o.ma
  | .vslide1up o => o.m.wf && modWf o.ma
  | .vrgather o => o.m.wf && modWf o.ma && modWf o.mb
  | .vcompress o => o.m.km != 0 && modWf o.ma
  | .vreshp o => modWf o.ma && o.u != 3
  | .vidx o => o.m.wf
  | .vmvVr o => o.m.wf && modWf o.ma
  | .vmvSc o => o.m.wf
  | .vmvIm o => o.m.wf
  | .vmvxs o => modWf o.ma
  | .vmvsx _ => true
  | .vld o => o.m.wf
  | .vlds o => o.m.wf
  | .vldx o => o.m.wf && modWf o.mb
  | .vldff o => o.m.wf
  | .vldseg o => o.m.wf
  | .vst o => o.m.wf
  | .vsts o => o.m.wf
  | .vstx o => o.m.wf && modWf o.mb
  | .vstseg o => o.m.wf
  | .vaadd o => o.m.wf && modWf o.mb && scopeWf o.sc
  | .vaand o => o.m.wf && modWf o.mb && scopeWf o.sc
  | .vaor o => o.m.wf && modWf o.mb && scopeWf o.sc
  | .vaxor o => o.m.wf && modWf o.mb && scopeWf o.sc
  | .vamin o => o.m.wf && modWf o.mb && scopeWf o.sc
  | .vamax o => o.m.wf && modWf o.mb && scopeWf o.sc
  | .vaswap o => o.m.wf && modWf o.mb && scopeWf o.sc
  | .vacas o => o.m.wf && modWf o.mb && scopeWf o.sc
  | .mprec _ _ => true
  | .mclaim => true
  | .mrel => true
  | .mldb o => slotWf o.slot
  | .mzero => true
  | .mma o => slotWf o.slot
  | .mmaf o => slotWf o.slot
  | .mmat o => slotWf o.slot
  | .mscale _ => true
  | .mcvt o => mcvtWf o
  | .endOp => true
  | .rcpy _ => true
  | .tra _ => true
  | .tran _ => true
  | .negr _ => true
  | .shl _ => true
  | .shr _ => true
  | .clr _ => true
  | .set _ => true
  | .seal _ => true
  | .brd _ => true
  | .loopc _ => true
  | .brz _ => true
  | .yield => true
  | .sync => true
  | .unassignedEncoding _ => true
  | .hselDone _ => true
  | .dramBelow85c _ => true

end Sys2Proof
end

