-- ==== Sys2Proof/Decode.lean ====
section
/-! DEFINITION. The decoder of the three kinds of S1 words and the encoder, from R152 to R164, R245, R259 and R260.

A word is read in two stages. The candidate stage selects the instruction by the operation fields and takes its operand
fields. The second stage accepts the candidate only when its operands obey the field rules (Instr.wf) and when encoding it gives
back the very word, that is, when every bit the instruction does not use is 0 (R164). Every refusal has a name.

The section is noncomputable only because Lean's run time lays out at most 244 constructors with fields, and Instr has more; the
kernel evaluates every definition here. -/
namespace Sys2Proof

noncomputable section

/-- Why a word is not an instruction. Every reason makes the word raise ILLEGAL (R164); safe: the hardware does the same. -/
inductive Reject where
  /-- An unassigned scalar major opcode (R164). -/
  | major
  /-- An unassigned OP or SFN value (R164). -/
  | function
  /-- Shift kind 3 (R164). -/
  | shiftKind
  /-- An unassigned VOP (R164). -/
  | vop
  /-- An unassigned FN of `vfcvt` (R164). -/
  | conversion
  /-- An unassigned micro-op code (R160). -/
  | micro
  /-- An operand field that breaks a field rule: SCOPE 5-7, a modifier against R156, KM = 0 with KP = 1, kd = k0, and so on. -/
  | fieldRule
  /-- A bit that the instruction does not use and that is not 0 (R164). -/
  | unusedBit
  deriving DecidableEq, Repr

/-- What a word decodes to: an instruction, or a refusal by name. -/
inductive Decoded where
  | ok (i : Instr)
  | error (r : Reject)
  deriving DecidableEq, Repr

/-- The instruction of a decoded word, if any. -/
def Decoded.toOption (x : Decoded) : Option Instr :=
  match x with
  | .ok i => some i
  | .error _ => none

/-- The field of `n` bits of word `w` whose lowest bit is `lo`. -/
def fld (w lo n : Nat) : Nat := w / 2 ^ lo % 2 ^ n

/-- Bit `lo` of word `w`. -/
def bt (w lo : Nat) : Bool := w / 2 ^ lo % 2 == 1

/-- A field as a bit vector. -/
abbrev bv (n v : Nat) : BitVec n := BitVec.ofNat n v

/-- A bit as a number. -/
def b2n (b : Bool) : Nat := if b then 1 else 0

/-! ### Words built from fields (R152, R155) -/

/-- RR form (R152). -/
def packRR (maj op d a b : Nat) (fa fb : Bool) (arg : Nat) : Nat :=
  maj * 67108864 + d * 2097152 + a * 65536 + b * 2048 + b2n fa * 1024 + b2n fb * 512 + op * 16 + arg

/-- RR-A form (R152). -/
def packAT (maj aop d a b : Nat) (fa fb : Bool) (sc c : Nat) : Nat :=
  maj * 67108864 + d * 2097152 + a * 65536 + b * 2048 + b2n fa * 1024 + b2n fb * 512 + aop * 128 + sc * 16 + c

/-- RI form, and BR form with xa, xb, off16 in the same places (R152). -/
def packRI (maj d a imm : Nat) : Nat := maj * 67108864 + d * 2097152 + a * 65536 + imm

/-- MEM form (R152). -/
def packMEM (maj r a c p : Nat) : Nat := maj * 67108864 + r * 2097152 + a * 65536 + c * 4096 + p

/-- J form (R152). -/
def packJ (maj off : Nat) : Nat := maj * 67108864 + off

/-- VF form (R152). -/
def packVF (maj a off : Nat) : Nat := maj * 67108864 + a * 2097152 + off

/-- SYS form (R152). -/
def packSys (sfn d a imm : Nat) : Nat := 63 * 67108864 + d * 2097152 + a * 65536 + sfn * 2048 + imm

/-- A vector word (R155). -/
def packV (vop vd va vb vc ma mb km : Nat) (kp : Bool) (fn : Nat) (fa fb dc : Bool) (imm : Nat) : Nat :=
  vop * 72057594037927936 + vd * 2251799813685248 + va * 70368744177664 + vb * 2199023255552 + vc * 68719476736 +
    ma * 8589934592 + mb * 1073741824 + km * 134217728 + b2n kp * 67108864 + fn * 4194304 + b2n fa * 2097152 +
    b2n fb * 1048576 + b2n dc * 262144 + imm

/-- FN of a memory or atomic word: its class, or 0 under DC = 1 (R155). -/
def clsFn (c : Option (BitVec 4)) : Nat := (c.getD 0).toNat

/-- DC of a memory or atomic word (R155). -/
def clsDc (c : Option (BitVec 4)) : Bool := c.isNone

/-! ### Operand fields of a word (R152 to R156) -/

/-- RR form with two sources. -/
def rdRR (w : Nat) : RRop :=
  { d := bv 5 (fld w 21 5), a := bv 5 (fld w 16 5), b := bv 5 (fld w 11 5), fa := bt w 10, fb := bt w 9 }

/-- RR form with one source. -/
def rdRA (w : Nat) : RAop :=
  { d := bv 5 (fld w 21 5), a := bv 5 (fld w 16 5), fa := bt w 10 }

/-- RI form. -/
def rdRI (w : Nat) : RIop :=
  { d := bv 5 (fld w 21 5), a := bv 5 (fld w 16 5), i := bv 16 (fld w 0 16) }

/-- Shift immediate. -/
def rdSH (w : Nat) : SHop :=
  { d := bv 5 (fld w 21 5), a := bv 5 (fld w 16 5), sh := bv 6 (fld w 0 6) }

/-- RI form without a source. -/
def rdRDI (w : Nat) : RDIop :=
  { d := bv 5 (fld w 21 5), i := bv 16 (fld w 0 16) }

/-- Bit-field immediate. -/
def rdBF (w : Nat) : BFop :=
  { d := bv 5 (fld w 21 5), a := bv 5 (fld w 16 5), off := bv 7 (fld w 0 7), wid := bv 7 (fld w 7 7) }

/-- BR form. -/
def rdBR (w : Nat) : BRop :=
  { a := bv 5 (fld w 21 5), b := bv 5 (fld w 16 5), off := bv 16 (fld w 0 16) }

/-- MEM form with a class. -/
def rdMEMC (w : Nat) : MEMCop :=
  { r := bv 5 (fld w 21 5), a := bv 5 (fld w 16 5), c := bv 4 (fld w 12 4), p := bv 12 (fld w 0 12) }

/-- MEM form without a class. -/
def rdMEM (w : Nat) : MEMop :=
  { r := bv 5 (fld w 21 5), a := bv 5 (fld w 16 5), p := bv 12 (fld w 0 12) }

/-- RR-A form with a class. -/
def rdATC (w : Nat) : ATCop :=
  { d := bv 5 (fld w 21 5), a := bv 5 (fld w 16 5), b := bv 5 (fld w 11 5), fa := bt w 10, fb := bt w 9, sc := bv 3 (fld w 4 3), c := bv 4 (fld w 0 4) }

/-- RR-A form without a class. -/
def rdAT (w : Nat) : ATop :=
  { d := bv 5 (fld w 21 5), a := bv 5 (fld w 16 5), b := bv 5 (fld w 11 5), fa := bt w 10, fb := bt w 9, sc := bv 3 (fld w 4 3) }

/-- `cpy`, `cpyg`, `cpyr`. -/
def rdCP (w : Nat) : CPop :=
  { d := bv 5 (fld w 21 5), a := bv 5 (fld w 16 5), fa := bt w 10, n := bv 3 (fld w 0 3) }

/-- `tmv`. -/
def rdTM (w : Nat) : TMop :=
  { d := bv 5 (fld w 21 5), a := bv 5 (fld w 16 5), b := bv 5 (fld w 11 5), fa := bt w 10, fb := bt w 9, n := bv 3 (fld w 0 3), ret := bt w 3 }

/-- `bar.init`, `bar.arrive`. -/
def rdBA (w : Nat) : BAop :=
  { d := bv 5 (fld w 21 5), a := bv 5 (fld w 16 5), b := bv 5 (fld w 11 5), fa := bt w 10, fb := bt w 9, c := bv 4 (fld w 0 4) }

/-- `bar.wait`. -/
def rdBW (w : Nat) : BWop :=
  { d := bv 5 (fld w 21 5), a := bv 5 (fld w 16 5), b := bv 5 (fld w 11 5), fa := bt w 10, fb := bt w 9, exp := bt w 0 }

/-- Token instruction with one operand. -/
def rdTKA (w : Nat) : TKAop :=
  { d := bv 5 (fld w 21 5), a := bv 5 (fld w 16 5), fa := bt w 10, x := bt w 0 }

/-- Token instruction with two operands. -/
def rdTK (w : Nat) : TKop :=
  { d := bv 5 (fld w 21 5), a := bv 5 (fld w 16 5), b := bv 5 (fld w 11 5), fa := bt w 10, fb := bt w 9, x := bt w 0 }

/-- KM and KP of a vector word. -/
def rdMask (w : Nat) : VMask := { km := bv 3 (fld w 27 3), kp := bt w 26 }

/-- The class of a memory or atomic word: none when DC = 1 (R155). -/
def rdCls (w : Nat) : Option (BitVec 4) := if bt w 18 then none else some (bv 4 (fld w 22 4))

/-- Two vector sources. -/
def rdVV (w : Nat) : VVop :=
  { vd := bv 5 (fld w 51 5), va := bv 5 (fld w 46 5), vb := bv 5 (fld w 41 5), ma := bv 3 (fld w 33 3), mb := bv 3 (fld w 30 3), m := rdMask w, fa := bt w 21, fb := bt w 20 }

/-- A vector source and an x register. -/
def rdVX (w : Nat) : VXop :=
  { vd := bv 5 (fld w 51 5), va := bv 5 (fld w 46 5), xb := bv 5 (fld w 41 5), ma := bv 3 (fld w 33 3), m := rdMask w, fa := bt w 21, fb := bt w 20 }

/-- A vector source and IMM. -/
def rdVI (w : Nat) : VIop :=
  { vd := bv 5 (fld w 51 5), va := bv 5 (fld w 46 5), imm := bv 18 (fld w 0 18), ma := bv 3 (fld w 33 3), m := rdMask w, fa := bt w 21 }

/-- One vector source. -/
def rdVU (w : Nat) : VUop :=
  { vd := bv 5 (fld w 51 5), va := bv 5 (fld w 46 5), ma := bv 3 (fld w 33 3), m := rdMask w, fa := bt w 21 }

/-- A clip. -/
def rdVSH (w : Nat) : VSHop :=
  { vd := bv 5 (fld w 51 5), va := bv 5 (fld w 46 5), sh := bv 6 (fld w 0 6), ma := bv 3 (fld w 33 3), m := rdMask w, fa := bt w 21 }

/-- A packing conversion. -/
def rdVGAP (w : Nat) : VGAPop :=
  { vd := bv 5 (fld w 51 5), va := bv 5 (fld w 46 5), gap := bv 3 (fld w 0 3), ma := bv 3 (fld w 33 3), fa := bt w 21 }

/-- A compare of two vectors. -/
def rdCV (w : Nat) : CVop :=
  { kd := bv 3 (fld w 51 3), va := bv 5 (fld w 46 5), vb := bv 5 (fld w 41 5), ma := bv 3 (fld w 33 3), mb := bv 3 (fld w 30 3), m := rdMask w, fa := bt w 21, fb := bt w 20 }

/-- A compare with an x register. -/
def rdCX (w : Nat) : CXop :=
  { kd := bv 3 (fld w 51 3), va := bv 5 (fld w 46 5), xb := bv 5 (fld w 41 5), ma := bv 3 (fld w 33 3), m := rdMask w, fa := bt w 21, fb := bt w 20 }

/-- A mask operation of two masks. -/
def rdKK (w : Nat) : KKop :=
  { kd := bv 3 (fld w 51 3), ka := bv 3 (fld w 46 3), kb := bv 3 (fld w 41 3) }

/-- `knot`. -/
def rdKN (w : Nat) : KNop :=
  { kd := bv 3 (fld w 51 3), ka := bv 3 (fld w 46 3) }

/-- `kffs`, `kpopc`. -/
def rdKX (w : Nat) : KXop :=
  { xd := bv 5 (fld w 51 5), ka := bv 3 (fld w 46 3) }

/-- `kmvx`. -/
def rdKM (w : Nat) : KMop :=
  { xd := bv 5 (fld w 51 5), ka := bv 3 (fld w 46 3), j := bv 6 (fld w 0 6) }

/-- `vmvxs`. -/
def rdMVXS (w : Nat) : MVXSop :=
  { xd := bv 5 (fld w 51 5), va := bv 5 (fld w 46 5), ma := bv 3 (fld w 33 3), fa := bt w 21 }

/-- `vmvsx`. -/
def rdMVSX (w : Nat) : MVSXop :=
  { vd := bv 5 (fld w 51 5), xa := bv 5 (fld w 46 5), fa := bt w 21 }

/-- `vmv` of an x register. -/
def rdMVX (w : Nat) : MVXop :=
  { vd := bv 5 (fld w 51 5), xb := bv 5 (fld w 41 5), m := rdMask w, fb := bt w 20 }

/-- `vmv` of an immediate, `vidx`. -/
def rdMVI (w : Nat) : MVIop :=
  { vd := bv 5 (fld w 51 5), imm := bv 18 (fld w 0 18), m := rdMask w }

/-- `vreshp`. -/
def rdRSH (w : Nat) : RSHop :=
  { vd := bv 5 (fld w 51 5), va := bv 5 (fld w 46 5), xb := bv 5 (fld w 41 5), u := bv 2 (fld w 0 2), ma := bv 3 (fld w 33 3), fa := bt w 21, fb := bt w 20 }

/-- Unit-stride memory word. -/
def rdVM (w : Nat) : VMop :=
  { vd := bv 5 (fld w 51 5), xa := bv 5 (fld w 46 5), m := rdMask w, fa := bt w 21, cls := rdCls w }

/-- Strided memory word. -/
def rdVMS (w : Nat) : VMSop :=
  { vd := bv 5 (fld w 51 5), xa := bv 5 (fld w 46 5), xb := bv 5 (fld w 41 5), m := rdMask w, fa := bt w 21, fb := bt w 20, cls := rdCls w }

/-- Indexed memory word. -/
def rdVMX (w : Nat) : VMXop :=
  { vd := bv 5 (fld w 51 5), xa := bv 5 (fld w 46 5), vb := bv 5 (fld w 41 5), sc := bv 2 (fld w 0 2), mb := bv 3 (fld w 30 3), m := rdMask w, fa := bt w 21, fb := bt w 20, cls := rdCls w }

/-- Segment memory word. -/
def rdVSG (w : Nat) : VSGop :=
  { vd := bv 5 (fld w 51 5), xa := bv 5 (fld w 46 5), xb := bv 5 (fld w 41 5), nf := bv 3 (fld w 0 3), fw := bv 2 (fld w 3 2), ext := bt w 5, m := rdMask w, fa := bt w 21, fb := bt w 20, cls := rdCls w }

/-- Gather-atomic word. -/
def rdVAT (w : Nat) : VATop :=
  { vd := bv 5 (fld w 51 5), xa := bv 5 (fld w 46 5), vb := bv 5 (fld w 41 5), vc := bv 5 (fld w 36 5), sc := bv 3 (fld w 0 3), mb := bv 3 (fld w 30 3), m := rdMask w, fa := bt w 21, fb := bt w 20, cls := rdCls w }

/-- `mldb`. -/
def rdMLD (w : Nat) : MLDop :=
  { xa := bv 5 (fld w 46 5), slot := bv 6 (fld w 0 6), fa := bt w 21, cls := rdCls w }

/-- `mma`, `mmaf`, `mmat`. -/
def rdMM (w : Nat) : MMop :=
  { va := bv 5 (fld w 46 5), slot := bv 6 (fld w 0 6), fa := bt w 21 }

/-- `mscale`. -/
def rdMSC (w : Nat) : MSCop :=
  { va := bv 5 (fld w 46 5), vb := bv 5 (fld w 41 5), src := bt w 0, sfmt := bt w 1, fa := bt w 21, fb := bt w 20 }

/-- `mcvt`. -/
def rdMCV (w : Nat) : MCVop :=
  { vd := bv 5 (fld w 51 5), ofmt := bv 4 (fld w 0 4), n := bv 6 (fld w 4 6) }

/-- RCPY, NEGR. -/
def rdMRC (w : Nat) : MRCop :=
  { dst := bv 9 (fld w 18 9), src := bv 9 (fld w 9 9) }

/-- TRA, TRAN. -/
def rdMTR (w : Nat) : MTRop :=
  { dst := bv 9 (fld w 18 9), ta := bv 4 (fld w 14 4), tb := bv 4 (fld w 10 4), tc := bv 4 (fld w 6 4) }

/-- SHL, SHR. -/
def rdMSH (w : Nat) : MSHop :=
  { dst := bv 9 (fld w 18 9), src := bv 9 (fld w 9 9), k := bv 4 (fld w 5 4) }

/-- BRD. -/
def rdMBRD (w : Nat) : MBRDop :=
  { dst := bv 9 (fld w 18 9), ksel := bv 2 (fld w 16 2), x := bt w 15, off := bv 5 (fld w 10 5) }

/-- LOOPC. -/
def rdMLOOP (w : Nat) : MLOOPop :=
  { n := bt w 26, inc := bv 2 (fld w 24 2), rst := bv 2 (fld w 22 2), target := bv 6 (fld w 0 6) }

/-- BRZ. -/
def rdMBRZ (w : Nat) : MBRZop :=
  { row := bv 9 (fld w 18 9), flg := bv 3 (fld w 15 3), target := bv 6 (fld w 0 6) }

/-! ### The candidate of a word -/

/-- The integer group, by OP (R161). -/
def candInt (w : Nat) : Decoded :=
  match fld w 4 5 with
  | 0 => .ok (.add (rdRR w))
  | 1 => .ok (.sub (rdRR w))
  | 2 => .ok (.and (rdRR w))
  | 3 => .ok (.or (rdRR w))
  | 4 => .ok (.xor (rdRR w))
  | 5 => .ok (.andn (rdRR w))
  | 6 => .ok (.orn (rdRR w))
  | 7 => .ok (.sll (rdRR w))
  | 8 => .ok (.srl (rdRR w))
  | 9 => .ok (.sra (rdRR w))
  | 10 => .ok (.rotl (rdRR w))
  | 11 => .ok (.rotr (rdRR w))
  | 12 => .ok (.min (rdRR w))
  | 13 => .ok (.max (rdRR w))
  | 14 => .ok (.minn (rdRR w))
  | 15 => .ok (.maxn (rdRR w))
  | 16 => .ok (.slt (rdRR w))
  | 17 => .ok (.sltn (rdRR w))
  | 18 => .ok (.clz (rdRA w))
  | 19 => .ok (.ctz (rdRA w))
  | 20 => .ok (.popc (rdRA w))
  | 21 => .ok (.bext (rdRR w))
  | 22 => .ok (.bins (rdRR w))
  | _ => .error .function

/-- The multiply group, by OP (R161). -/
def candMul (w : Nat) : Decoded :=
  match fld w 4 5 with
  | 0 => .ok (.mul (rdRR w))
  | 1 => .ok (.mulh (rdRR w))
  | 2 => .ok (.mulhn (rdRR w))
  | 3 => .ok (.div (rdRR w))
  | 4 => .ok (.divn (rdRR w))
  | 5 => .ok (.rem (rdRR w))
  | 6 => .ok (.remn (rdRR w))
  | _ => .error .function

/-- The control group, by OP (R161). -/
def candControl (w : Nat) : Decoded :=
  match fld w 4 5 with
  | 0 => .ok (.fenceS (bv 3 (fld w 0 3)))
  | 1 => .ok (.feSet (bv 5 (fld w 21 5)))
  | 2 => .ok (.feClr (bv 5 (fld w 21 5)))
  | 3 => .ok (.vsetl (bv 5 (fld w 21 5)) (bv 2 (fld w 0 2)) (bv 2 (fld w 2 2)))
  | 4 => .ok (.vckm (rdRA w))
  | 5 => .ok (.vrel)
  | _ => .error .function

/-- The copy and synchronisation group, by OP (R161). -/
def candCopy (w : Nat) : Decoded :=
  match fld w 4 5 with
  | 0 => .ok (.cpy (rdCP w))
  | 1 => .ok (.cpyg (rdCP w))
  | 2 => .ok (.cpyr (rdCP w))
  | 3 => .ok (.cpyk (rdRA w))
  | 4 => .ok (.wmark (rdRA w))
  | 5 => .ok (.tmv (rdTM w))
  | 6 => .ok (.tflip (rdRA w))
  | 7 => .ok (.barInit (rdBA w))
  | 8 => .ok (.barArrive (rdBA w))
  | 9 => .ok (.barWait (rdBW w))
  | _ => .error .function

/-- The token group, by OP (R161). -/
def candToken (w : Nat) : Decoded :=
  match fld w 4 5 with
  | 0 => .ok (.own (rdTKA w))
  | 1 => .ok (.lend (rdTK w))
  | 2 => .ok (.ret (rdTKA w))
  | 3 => .ok (.split (rdTK w))
  | 4 => .ok (.merge (rdTK w))
  | 5 => .ok (.rshare (rdTK w))
  | 6 => .ok (.rdrop (rdTKA w))
  | 7 => .ok (.tq (rdTK w))
  | _ => .error .function

/-- The near-bank group, by OP (R161). -/
def candNearBank (w : Nat) : Decoded :=
  match fld w 4 5 with
  | 0 => .ok (.bkx (rdRA w))
  | 1 => .ok (.bkseal (rdRA w))
  | 2 => .ok (.bklock (rdRR w))
  | 3 => .ok (.bkunlock (bv 5 (fld w 16 5)) (bt w 10))
  | 4 => .ok (.bkfence)
  | 5 => .ok (.bkload (rdRR w))
  | 6 => .ok (.bkinv (rdRA w))
  | 7 => .ok (.bkst (rdRA w))
  | 8 => .ok (.bkclone (rdRR w))
  | 9 => .ok (.bkred (rdRR w))
  | _ => .error .function

/-- The system group, by SFN (R161). -/
def candSys (w : Nat) : Decoded :=
  match fld w 11 5 with
  | 0 => .ok (.csrr (bv 5 (fld w 21 5)) (bv 11 (fld w 0 11)))
  | 1 => .ok (.csrw (bv 11 (fld w 0 11)) (bv 5 (fld w 16 5)))
  | 2 => .ok (.csrs (bv 11 (fld w 0 11)) (bv 5 (fld w 16 5)))
  | 3 => .ok (.csrc (bv 11 (fld w 0 11)) (bv 5 (fld w 16 5)))
  | 4 => .ok (.trap (bv 11 (fld w 0 11)))
  | 5 => .ok (.tret)
  | 6 => .ok (.wfe (bv 11 (fld w 0 11)))
  | 7 => .ok (.sleepc (bv 5 (fld w 16 5)))
  | 8 => .ok (.brk (bv 11 (fld w 0 11)))
  | 9 => .ok (.nop)
  | 10 => .ok (.fin)
  | _ => .error .function

/-- The shift immediates, by kind imm16[7:6] (R161, R181). -/
def candShift (w : Nat) : Decoded :=
  match fld w 6 2 with
  | 0 => .ok (.slli (rdSH w))
  | 1 => .ok (.srli (rdSH w))
  | 2 => .ok (.srai (rdSH w))
  | _ => .error .shiftKind

/-- Atomics of major 0x0F, by AOP (R161). -/
def candAt0F (w : Nat) : Decoded :=
  match fld w 7 2 with
  | 0 => .ok (.aaddWC (rdATC w))
  | 1 => .ok (.aandWC (rdATC w))
  | 2 => .ok (.aorWC (rdATC w))
  | _ => .ok (.axorWC (rdATC w))

/-- Atomics of major 0x19, by AOP (R161). -/
def candAt19 (w : Nat) : Decoded :=
  match fld w 7 2 with
  | 0 => .ok (.aminWC (rdATC w))
  | 1 => .ok (.amaxWC (rdATC w))
  | 2 => .ok (.aswapWC (rdATC w))
  | _ => .ok (.acasWC (rdATC w))

/-- Atomics of major 0x1A, by AOP (R161). -/
def candAt1A (w : Nat) : Decoded :=
  match fld w 7 2 with
  | 0 => .ok (.aaddDC (rdATC w))
  | 1 => .ok (.aandDC (rdATC w))
  | 2 => .ok (.aorDC (rdATC w))
  | _ => .ok (.axorDC (rdATC w))

/-- Atomics of major 0x1B, by AOP (R161). -/
def candAt1B (w : Nat) : Decoded :=
  match fld w 7 2 with
  | 0 => .ok (.aminDC (rdATC w))
  | 1 => .ok (.amaxDC (rdATC w))
  | 2 => .ok (.aswapDC (rdATC w))
  | _ => .ok (.acasDC (rdATC w))

/-- Atomics of major 0x1C, by AOP (R161). -/
def candAt1C (w : Nat) : Decoded :=
  match fld w 7 2 with
  | 0 => .ok (.aaddW (rdAT w))
  | 1 => .ok (.aandW (rdAT w))
  | 2 => .ok (.aorW (rdAT w))
  | _ => .ok (.axorW (rdAT w))

/-- Atomics of major 0x1D, by AOP (R161). -/
def candAt1D (w : Nat) : Decoded :=
  match fld w 7 2 with
  | 0 => .ok (.aminW (rdAT w))
  | 1 => .ok (.amaxW (rdAT w))
  | 2 => .ok (.aswapW (rdAT w))
  | _ => .ok (.acasW (rdAT w))

/-- Atomics of major 0x1E, by AOP (R161). -/
def candAt1E (w : Nat) : Decoded :=
  match fld w 7 2 with
  | 0 => .ok (.aaddD (rdAT w))
  | 1 => .ok (.aandD (rdAT w))
  | 2 => .ok (.aorD (rdAT w))
  | _ => .ok (.axorD (rdAT w))

/-- Atomics of major 0x1F, by AOP (R161). -/
def candAt1F (w : Nat) : Decoded :=
  match fld w 7 2 with
  | 0 => .ok (.aminD (rdAT w))
  | 1 => .ok (.amaxD (rdAT w))
  | 2 => .ok (.aswapD (rdAT w))
  | _ => .ok (.acasD (rdAT w))

/-- The instruction a scalar word selects by its major opcode (R161). -/
def candScalar (w : Nat) : Decoded :=
  match fld w 26 6 with
  | 0x00 => candInt w
  | 0x01 => candMul w
  | 0x02 => .ok (.addi (rdRI w))
  | 0x03 => .ok (.andi (rdRI w))
  | 0x04 => .ok (.ori (rdRI w))
  | 0x05 => .ok (.xori (rdRI w))
  | 0x06 => .ok (.slti (rdRI w))
  | 0x07 => .ok (.sltni (rdRI w))
  | 0x08 => candShift w
  | 0x09 => .ok (.ldhi (rdRDI w))
  | 0x0A => .ok (.addpc (rdRDI w))
  | 0x0B => .ok (.bexti (rdBF w))
  | 0x0C => .ok (.binsi (rdBF w))
  | 0x0D => .ok (.jalr (rdRI w))
  | 0x0E => .ok (.jal (bv 26 (fld w 0 26)))
  | 0x0F => candAt0F w
  | 0x10 => .ok (.beq (rdBR w))
  | 0x11 => .ok (.bne (rdBR w))
  | 0x12 => .ok (.blt (rdBR w))
  | 0x13 => .ok (.bltn (rdBR w))
  | 0x14 => .ok (.bge (rdBR w))
  | 0x15 => .ok (.bgen (rdBR w))
  | 0x16 => .ok (.vstrip (bv 16 (fld w 0 16)))
  | 0x17 => .ok (.vfetch (bv 21 (fld w 0 21)))
  | 0x18 => .ok (.vfetchr (bv 5 (fld w 21 5)) (bv 21 (fld w 0 21)))
  | 0x19 => candAt19 w
  | 0x1A => candAt1A w
  | 0x1B => candAt1B w
  | 0x1C => candAt1C w
  | 0x1D => candAt1D w
  | 0x1E => candAt1E w
  | 0x1F => candAt1F w
  | 0x20 => .ok (.ldbC (rdMEMC w))
  | 0x21 => .ok (.ldbnC (rdMEMC w))
  | 0x22 => .ok (.ldhC (rdMEMC w))
  | 0x23 => .ok (.ldhnC (rdMEMC w))
  | 0x24 => .ok (.ldwC (rdMEMC w))
  | 0x25 => .ok (.ldwnC (rdMEMC w))
  | 0x26 => .ok (.lddC (rdMEMC w))
  | 0x27 => .ok (.stbC (rdMEMC w))
  | 0x28 => .ok (.sthC (rdMEMC w))
  | 0x29 => .ok (.stwC (rdMEMC w))
  | 0x2A => .ok (.stdC (rdMEMC w))
  | 0x2B => .ok (.fenceC (bv 16 (fld w 0 16)))
  | 0x2C => candControl w
  | 0x2D => candCopy w
  | 0x2E => candToken w
  | 0x2F => candNearBank w
  | 0x30 => .ok (.ldb (rdMEM w))
  | 0x31 => .ok (.ldbn (rdMEM w))
  | 0x32 => .ok (.ldh (rdMEM w))
  | 0x33 => .ok (.ldhn (rdMEM w))
  | 0x34 => .ok (.ldw (rdMEM w))
  | 0x35 => .ok (.ldwn (rdMEM w))
  | 0x36 => .ok (.ldd (rdMEM w))
  | 0x37 => .ok (.stb (rdMEM w))
  | 0x38 => .ok (.sth (rdMEM w))
  | 0x39 => .ok (.stw (rdMEM w))
  | 0x3A => .ok (.std (rdMEM w))
  | 0x3F => candSys w
  | _ => .error .major

/-- The conversions of `vfcvt`, by FN (R162). -/
def candCvt (w : Nat) : Decoded :=
  match fld w 22 4 with
  | 0 => .ok (.vfcvtFI (rdVU w))
  | 1 => .ok (.vfcvtFN (rdVU w))
  | 2 => .ok (.vfcvtIF (rdVU w))
  | 3 => .ok (.vfcvtNF (rdVU w))
  | 4 => .ok (.vfcvtBfF (rdVU w))
  | 5 => .ok (.vfcvtFBf (rdVU w))
  | 6 => .ok (.vfcvtDxb8F (rdVGAP w))
  | 7 => .ok (.vfcvtDxb4F (rdVGAP w))
  | 8 => .ok (.vfcvtFDxb8 (rdVU w))
  | 9 => .ok (.vfcvtFDxb4 (rdVU w))
  | _ => .error .conversion

/-- The instruction a vector word selects by VOP (R162). -/
def candVector (w : Nat) : Decoded :=
  match fld w 56 8 with
  | 0x00 => .ok (.vstop)
  | 0x01 => .ok (.vbrk (bv 11 (fld w 0 11)))
  | 0x02 => .ok (.vaddVr (rdVV w))
  | 0x03 => .ok (.vaddSc (rdVX w))
  | 0x04 => .ok (.vaddIm (rdVI w))
  | 0x05 => .ok (.vsubVr (rdVV w))
  | 0x06 => .ok (.vsubSc (rdVX w))
  | 0x07 => .ok (.vrsubSc (rdVX w))
  | 0x08 => .ok (.vrsubIm (rdVI w))
  | 0x09 => .ok (.vmulVr (rdVV w))
  | 0x0A => .ok (.vmulSc (rdVX w))
  | 0x0B => .ok (.vmulhVr (rdVV w))
  | 0x0C => .ok (.vmulhSc (rdVX w))
  | 0x0D => .ok (.vmulhnVr (rdVV w))
  | 0x0E => .ok (.vmulhnSc (rdVX w))
  | 0x0F => .ok (.vmaccVr (rdVV w))
  | 0x10 => .ok (.vmaccSc (rdVX w))
  | 0x11 => .ok (.vnmsacVr (rdVV w))
  | 0x12 => .ok (.vnmsacSc (rdVX w))
  | 0x13 => .ok (.vdivVr (rdVV w))
  | 0x14 => .ok (.vdivSc (rdVX w))
  | 0x15 => .ok (.vdivnVr (rdVV w))
  | 0x16 => .ok (.vdivnSc (rdVX w))
  | 0x17 => .ok (.vremVr (rdVV w))
  | 0x18 => .ok (.vremSc (rdVX w))
  | 0x19 => .ok (.vremnVr (rdVV w))
  | 0x1A => .ok (.vremnSc (rdVX w))
  | 0x1B => .ok (.vminVr (rdVV w))
  | 0x1C => .ok (.vminSc (rdVX w))
  | 0x1D => .ok (.vmaxVr (rdVV w))
  | 0x1E => .ok (.vmaxSc (rdVX w))
  | 0x1F => .ok (.vminnVr (rdVV w))
  | 0x20 => .ok (.vminnSc (rdVX w))
  | 0x21 => .ok (.vmaxnVr (rdVV w))
  | 0x22 => .ok (.vmaxnSc (rdVX w))
  | 0x23 => .ok (.vandVr (rdVV w))
  | 0x24 => .ok (.vandSc (rdVX w))
  | 0x25 => .ok (.vandIm (rdVI w))
  | 0x26 => .ok (.vorVr (rdVV w))
  | 0x27 => .ok (.vorSc (rdVX w))
  | 0x28 => .ok (.vorIm (rdVI w))
  | 0x29 => .ok (.vxorVr (rdVV w))
  | 0x2A => .ok (.vxorSc (rdVX w))
  | 0x2B => .ok (.vxorIm (rdVI w))
  | 0x2C => .ok (.vsllVr (rdVV w))
  | 0x2D => .ok (.vsllSc (rdVX w))
  | 0x2E => .ok (.vsllIm (rdVI w))
  | 0x2F => .ok (.vsrlVr (rdVV w))
  | 0x30 => .ok (.vsrlSc (rdVX w))
  | 0x31 => .ok (.vsrlIm (rdVI w))
  | 0x32 => .ok (.vsraVr (rdVV w))
  | 0x33 => .ok (.vsraSc (rdVX w))
  | 0x34 => .ok (.vsraIm (rdVI w))
  | 0x35 => .ok (.vshrnVr (rdVV w))
  | 0x36 => .ok (.vshrnIm (rdVI w))
  | 0x37 => .ok (.vsarnVr (rdVV w))
  | 0x38 => .ok (.vsarnIm (rdVI w))
  | 0x39 => .ok (.vwadd (rdVV w))
  | 0x3A => .ok (.vwaddn (rdVV w))
  | 0x3B => .ok (.vwmul (rdVV w))
  | 0x3C => .ok (.vwmuln (rdVV w))
  | 0x3D => .ok (.vsaddVr (rdVV w))
  | 0x3E => .ok (.vsaddSc (rdVX w))
  | 0x3F => .ok (.vsaddnVr (rdVV w))
  | 0x40 => .ok (.vsaddnSc (rdVX w))
  | 0x41 => .ok (.vssubVr (rdVV w))
  | 0x42 => .ok (.vssubSc (rdVX w))
  | 0x43 => .ok (.vssubnVr (rdVV w))
  | 0x44 => .ok (.vssubnSc (rdVX w))
  | 0x45 => .ok (.vclip (rdVSH w))
  | 0x46 => .ok (.vclipn (rdVSH w))
  | 0x50 => .ok (.vfaddVr (rdVV w))
  | 0x51 => .ok (.vfaddSc (rdVX w))
  | 0x52 => .ok (.vfsubVr (rdVV w))
  | 0x53 => .ok (.vfsubSc (rdVX w))
  | 0x54 => .ok (.vfmulVr (rdVV w))
  | 0x55 => .ok (.vfmulSc (rdVX w))
  | 0x56 => .ok (.vfmaccVr (rdVV w))
  | 0x57 => .ok (.vfmaccSc (rdVX w))
  | 0x58 => .ok (.vfdivVr (rdVV w))
  | 0x59 => .ok (.vfdivSc (rdVX w))
  | 0x5A => .ok (.vfminVr (rdVV w))
  | 0x5B => .ok (.vfminSc (rdVX w))
  | 0x5C => .ok (.vfmaxVr (rdVV w))
  | 0x5D => .ok (.vfmaxSc (rdVX w))
  | 0x5E => .ok (.vfcpsVr (rdVV w))
  | 0x5F => .ok (.vfcpsSc (rdVX w))
  | 0x60 => .ok (.vfcpsnVr (rdVV w))
  | 0x61 => .ok (.vfcpsnSc (rdVX w))
  | 0x62 => .ok (.vfcpsxVr (rdVV w))
  | 0x63 => .ok (.vfcpsxSc (rdVX w))
  | 0x64 => .ok (.vfsqrt (rdVU w))
  | 0x65 => .ok (.vfexp2 (rdVU w))
  | 0x66 => .ok (.vfrcp (rdVU w))
  | 0x67 => .ok (.vfrsq (rdVU w))
  | 0x68 => .ok (.vflog2 (rdVU w))
  | 0x6F => candCvt w
  | 0x70 => .ok (.vceqVr (rdCV w))
  | 0x71 => .ok (.vceqSc (rdCX w))
  | 0x72 => .ok (.vcneVr (rdCV w))
  | 0x73 => .ok (.vcneSc (rdCX w))
  | 0x74 => .ok (.vcltVr (rdCV w))
  | 0x75 => .ok (.vcltSc (rdCX w))
  | 0x76 => .ok (.vcltnVr (rdCV w))
  | 0x77 => .ok (.vcltnSc (rdCX w))
  | 0x78 => .ok (.vcleVr (rdCV w))
  | 0x79 => .ok (.vcleSc (rdCX w))
  | 0x7A => .ok (.vclenVr (rdCV w))
  | 0x7B => .ok (.vclenSc (rdCX w))
  | 0x7C => .ok (.vcgtSc (rdCX w))
  | 0x7D => .ok (.vcgtnSc (rdCX w))
  | 0x80 => .ok (.vfceqVr (rdCV w))
  | 0x81 => .ok (.vfceqSc (rdCX w))
  | 0x82 => .ok (.vfcneVr (rdCV w))
  | 0x83 => .ok (.vfcneSc (rdCX w))
  | 0x84 => .ok (.vfcltVr (rdCV w))
  | 0x85 => .ok (.vfcltSc (rdCX w))
  | 0x86 => .ok (.vfcleVr (rdCV w))
  | 0x87 => .ok (.vfcleSc (rdCX w))
  | 0x90 => .ok (.kand (rdKK w))
  | 0x91 => .ok (.kor (rdKK w))
  | 0x92 => .ok (.kxor (rdKK w))
  | 0x93 => .ok (.knot (rdKN w))
  | 0x94 => .ok (.kffs (rdKX w))
  | 0x95 => .ok (.kpopc (rdKX w))
  | 0x96 => .ok (.kmvx (rdKM w))
  | 0x97 => .ok (.vmergeVr (rdVV w))
  | 0x98 => .ok (.vmergeSc (rdVX w))
  | 0x99 => .ok (.vmergeIm (rdVI w))
  | 0xA0 => .ok (.vsumr (rdVV w))
  | 0xA1 => .ok (.vmaxr (rdVV w))
  | 0xA2 => .ok (.vmaxnr (rdVV w))
  | 0xA3 => .ok (.vminr (rdVV w))
  | 0xA4 => .ok (.vminnr (rdVV w))
  | 0xA5 => .ok (.vfsumr (rdVV w))
  | 0xA6 => .ok (.vfmaxr (rdVV w))
  | 0xA7 => .ok (.vfminr (rdVV w))
  | 0xB0 => .ok (.vslideupSc (rdVX w))
  | 0xB1 => .ok (.vslideupIm (rdVI w))
  | 0xB2 => .ok (.vslidednSc (rdVX w))
  | 0xB3 => .ok (.vslidednIm (rdVI w))
  | 0xB4 => .ok (.vslide1up (rdVX w))
  | 0xB5 => .ok (.vrgather (rdVV w))
  | 0xB6 => .ok (.vcompress (rdVU w))
  | 0xB7 => .ok (.vreshp (rdRSH w))
  | 0xB8 => .ok (.vidx (rdMVI w))
  | 0xB9 => .ok (.vmvVr (rdVU w))
  | 0xBA => .ok (.vmvSc (rdMVX w))
  | 0xBB => .ok (.vmvIm (rdMVI w))
  | 0xBC => .ok (.vmvxs (rdMVXS w))
  | 0xBD => .ok (.vmvsx (rdMVSX w))
  | 0xC0 => .ok (.vld (rdVM w))
  | 0xC1 => .ok (.vlds (rdVMS w))
  | 0xC2 => .ok (.vldx (rdVMX w))
  | 0xC3 => .ok (.vldff (rdVM w))
  | 0xC4 => .ok (.vldseg (rdVSG w))
  | 0xC8 => .ok (.vst (rdVM w))
  | 0xC9 => .ok (.vsts (rdVMS w))
  | 0xCA => .ok (.vstx (rdVMX w))
  | 0xCB => .ok (.vstseg (rdVSG w))
  | 0xD0 => .ok (.vaadd (rdVAT w))
  | 0xD1 => .ok (.vaand (rdVAT w))
  | 0xD2 => .ok (.vaor (rdVAT w))
  | 0xD3 => .ok (.vaxor (rdVAT w))
  | 0xD4 => .ok (.vamin (rdVAT w))
  | 0xD5 => .ok (.vamax (rdVAT w))
  | 0xD6 => .ok (.vaswap (rdVAT w))
  | 0xD7 => .ok (.vacas (rdVAT w))
  | 0xE0 => .ok (.mprec (bv 5 (fld w 46 5)) (bt w 21))
  | 0xE1 => .ok (.mclaim)
  | 0xE2 => .ok (.mrel)
  | 0xE3 => .ok (.mldb (rdMLD w))
  | 0xE4 => .ok (.mzero)
  | 0xE5 => .ok (.mma (rdMM w))
  | 0xE6 => .ok (.mmaf (rdMM w))
  | 0xE7 => .ok (.mmat (rdMM w))
  | 0xE8 => .ok (.mscale (rdMSC w))
  | 0xE9 => .ok (.mcvt (rdMCV w))
  | _ => .error .vop

/-- The micro-op a word selects by its code (R160). -/
def candMicro (w : Nat) : Decoded :=
  match fld w 27 5 with
  | 0 => .ok (.endOp)
  | 1 => .ok (.rcpy (rdMRC w))
  | 2 => .ok (.tra (rdMTR w))
  | 3 => .ok (.tran (rdMTR w))
  | 4 => .ok (.negr (rdMRC w))
  | 5 => .ok (.shl (rdMSH w))
  | 6 => .ok (.shr (rdMSH w))
  | 7 => .ok (.clr (bv 9 (fld w 18 9)))
  | 8 => .ok (.set (bv 9 (fld w 18 9)))
  | 9 => .ok (.seal (bv 9 (fld w 18 9)))
  | 10 => .ok (.brd (rdMBRD w))
  | 11 => .ok (.loopc (rdMLOOP w))
  | 12 => .ok (.brz (rdMBRZ w))
  | 13 => .ok (.yield)
  | 14 => .ok (.sync)
  | _ => .error .micro

/-! ### The encoder -/

/-- The words of instructions: a scalar word, a vector word or a micro-op word; the steps of the device have none. -/
inductive Code where
  | scalar (w : Nat)
  | vector (w : Nat)
  | micro (w : Nat)
  | none
  deriving DecidableEq, Repr

/-- The word of an instruction, from the encoding tables of R152, R155, R161, R162, R245 and R260. -/
def encode (i : Instr) : Code :=
  match i with
  | .lpktLatch _ _ _ _ => .none
  | .launchSubmit _ _ _ => .none
  | .rcptRead _ _ => .none
  | .trootWrite _ _ => .none
  | .tinvWrite _ _ => .none
  | .tinvComplete _ => .none
  | .tsyncRead _ => .none
  | .handleCommit _ _ => .none
  | .handleFetch _ _ => .none
  | .give _ _ => .none
  | .home _ _ => .none
  | .unhome _ _ => .none
  | .carve _ => .none
  | .carveDelete _ => .none
  | .vschedWrite _ _ => .none
  | .hdmbWrite _ _ => .none
  | .modidWrite _ => .none
  | .routeWrite _ _ => .none
  | .mrootWrite _ => .none
  | .serviceModeRequest _ => .none
  | .svnRaise _ => .none
  | .svnFuseDone => .none
  | .scanctlWrite _ => .none
  | .cestatWrite _ _ => .none
  | .spareWrite _ _ => .none
  | .checkpoint _ => .none
  | .quiesceTimeout => .none
  | .checkpointDone _ => .none
  | .restore _ => .none
  | .restoreDone _ => .none
  | .registerWrite _ _ _ _ => .none
  | .getVersion _ => .none
  | .getCapabilities _ => .none
  | .negotiateAlgorithms _ => .none
  | .getDigests _ => .none
  | .getCertificate _ => .none
  | .challenge _ => .none
  | .getMeasurements _ => .none
  | .unsupportedRequest _ => .none
  | .hostMemRead _ _ _ _ => .none
  | .hostMemWrite _ _ _ _ => .none
  | .remoteAccessRequest _ => .none
  | .remoteCopyCheck _ => .none
  | .remoteCopyWrite _ => .none
  | .flitCrcFail _ => .none
  | .linkRetrain _ _ => .none
  | .moduleUnreachable _ => .none
  | .remotePromiseMissed _ => .none
  | .schedulerTick => .none
  | .place _ => .none
  | .lockGroupTake _ => .none
  | .preempt _ => .none
  | .preemptionComplete _ => .none
  | .preload _ => .none
  | .dealreq _ => .none
  | .stealreq _ => .none
  | .deal _ => .none
  | .done _ => .none
  | .cost _ => .none
  | .cmdAck _ _ => .none
  | .launchComplete _ _ => .none
  | .schedulerFailover => .none
  | .moduleStop => .none
  | .powerWindow _ _ => .none
  | .dramOver85c _ => .none
  | .thermalShutdown => .none
  | .resetRelease => .none
  | .functionLevelReset _ => .none
  | .cxlLinkLoss _ => .none
  | .reclamation _ => .none
  | .quadRetire _ => .none
  | .vaultRetire _ => .none
  | .frameRelocate _ _ => .none
  | .rowSpare _ => .none
  | .patrolScrub _ => .none
  | .refreshDue _ => .none
  | .autoSeal _ => .none
  | .scanTest => .none
  | .scanTestEnd _ => .none
  | .targetAccess _ => .none
  | .registerFill _ => .none
  | .homeAtomic _ => .none
  | .homeBarInit _ => .none
  | .homeCredit _ => .none
  | .homeDebit _ => .none
  | .homeWait _ => .none
  | .laneGrant _ => .none
  | .claimGrant _ => .none
  | .sleepcExpiry _ => .none
  | .wfeTimeout _ => .none
  | .trapEntry _ => .none
  | .leaseExpiry _ => .none
  | .lockGrant _ => .none
  | .sequencerTurn _ _ => .none
  | .quantumBoundary _ => .none
  | .commandResponse _ => .none
  | .slotLoadDone _ => .none
  | .slotInvalidateDone _ => .none
  | .copyAccept _ => .none
  | .chunkDebit _ _ => .none
  | .operationComplete _ => .none
  | .drainEnd _ => .none
  | .tokenOpComplete _ => .none
  | .recheck _ _ => .none
  | .stripRewind _ => .none
  | .add o => .scalar (packRR 0 0 o.d.toNat o.a.toNat o.b.toNat o.fa o.fb 0)
  | .sub o => .scalar (packRR 0 1 o.d.toNat o.a.toNat o.b.toNat o.fa o.fb 0)
  | .and o => .scalar (packRR 0 2 o.d.toNat o.a.toNat o.b.toNat o.fa o.fb 0)
  | .or o => .scalar (packRR 0 3 o.d.toNat o.a.toNat o.b.toNat o.fa o.fb 0)
  | .xor o => .scalar (packRR 0 4 o.d.toNat o.a.toNat o.b.toNat o.fa o.fb 0)
  | .andn o => .scalar (packRR 0 5 o.d.toNat o.a.toNat o.b.toNat o.fa o.fb 0)
  | .orn o => .scalar (packRR 0 6 o.d.toNat o.a.toNat o.b.toNat o.fa o.fb 0)
  | .sll o => .scalar (packRR 0 7 o.d.toNat o.a.toNat o.b.toNat o.fa o.fb 0)
  | .srl o => .scalar (packRR 0 8 o.d.toNat o.a.toNat o.b.toNat o.fa o.fb 0)
  | .sra o => .scalar (packRR 0 9 o.d.toNat o.a.toNat o.b.toNat o.fa o.fb 0)
  | .rotl o => .scalar (packRR 0 10 o.d.toNat o.a.toNat o.b.toNat o.fa o.fb 0)
  | .rotr o => .scalar (packRR 0 11 o.d.toNat o.a.toNat o.b.toNat o.fa o.fb 0)
  | .min o => .scalar (packRR 0 12 o.d.toNat o.a.toNat o.b.toNat o.fa o.fb 0)
  | .max o => .scalar (packRR 0 13 o.d.toNat o.a.toNat o.b.toNat o.fa o.fb 0)
  | .minn o => .scalar (packRR 0 14 o.d.toNat o.a.toNat o.b.toNat o.fa o.fb 0)
  | .maxn o => .scalar (packRR 0 15 o.d.toNat o.a.toNat o.b.toNat o.fa o.fb 0)
  | .slt o => .scalar (packRR 0 16 o.d.toNat o.a.toNat o.b.toNat o.fa o.fb 0)
  | .sltn o => .scalar (packRR 0 17 o.d.toNat o.a.toNat o.b.toNat o.fa o.fb 0)
  | .clz o => .scalar (packRR 0 18 o.d.toNat o.a.toNat 0 o.fa false 0)
  | .ctz o => .scalar (packRR 0 19 o.d.toNat o.a.toNat 0 o.fa false 0)
  | .popc o => .scalar (packRR 0 20 o.d.toNat o.a.toNat 0 o.fa false 0)
  | .bext o => .scalar (packRR 0 21 o.d.toNat o.a.toNat o.b.toNat o.fa o.fb 0)
  | .bins o => .scalar (packRR 0 22 o.d.toNat o.a.toNat o.b.toNat o.fa o.fb 0)
  | .mul o => .scalar (packRR 1 0 o.d.toNat o.a.toNat o.b.toNat o.fa o.fb 0)
  | .mulh o => .scalar (packRR 1 1 o.d.toNat o.a.toNat o.b.toNat o.fa o.fb 0)
  | .mulhn o => .scalar (packRR 1 2 o.d.toNat o.a.toNat o.b.toNat o.fa o.fb 0)
  | .div o => .scalar (packRR 1 3 o.d.toNat o.a.toNat o.b.toNat o.fa o.fb 0)
  | .divn o => .scalar (packRR 1 4 o.d.toNat o.a.toNat o.b.toNat o.fa o.fb 0)
  | .rem o => .scalar (packRR 1 5 o.d.toNat o.a.toNat o.b.toNat o.fa o.fb 0)
  | .remn o => .scalar (packRR 1 6 o.d.toNat o.a.toNat o.b.toNat o.fa o.fb 0)
  | .addi o => .scalar (packRI 2 o.d.toNat o.a.toNat o.i.toNat)
  | .andi o => .scalar (packRI 3 o.d.toNat o.a.toNat o.i.toNat)
  | .ori o => .scalar (packRI 4 o.d.toNat o.a.toNat o.i.toNat)
  | .xori o => .scalar (packRI 5 o.d.toNat o.a.toNat o.i.toNat)
  | .slti o => .scalar (packRI 6 o.d.toNat o.a.toNat o.i.toNat)
  | .sltni o => .scalar (packRI 7 o.d.toNat o.a.toNat o.i.toNat)
  | .slli o => .scalar (packRI 8 o.d.toNat o.a.toNat (o.sh.toNat + 64 * 0))
  | .srli o => .scalar (packRI 8 o.d.toNat o.a.toNat (o.sh.toNat + 64 * 1))
  | .srai o => .scalar (packRI 8 o.d.toNat o.a.toNat (o.sh.toNat + 64 * 2))
  | .ldhi o => .scalar (packRI 9 o.d.toNat 0 o.i.toNat)
  | .addpc o => .scalar (packRI 10 o.d.toNat 0 o.i.toNat)
  | .bexti o => .scalar (packRI 11 o.d.toNat o.a.toNat (o.off.toNat + 128 * o.wid.toNat))
  | .binsi o => .scalar (packRI 12 o.d.toNat o.a.toNat (o.off.toNat + 128 * o.wid.toNat))
  | .jalr o => .scalar (packRI 13 o.d.toNat o.a.toNat o.i.toNat)
  | .jal off => .scalar (packJ 14 off.toNat)
  | .beq o => .scalar (packRI 16 o.a.toNat o.b.toNat o.off.toNat)
  | .bne o => .scalar (packRI 17 o.a.toNat o.b.toNat o.off.toNat)
  | .blt o => .scalar (packRI 18 o.a.toNat o.b.toNat o.off.toNat)
  | .bltn o => .scalar (packRI 19 o.a.toNat o.b.toNat o.off.toNat)
  | .bge o => .scalar (packRI 20 o.a.toNat o.b.toNat o.off.toNat)
  | .bgen o => .scalar (packRI 21 o.a.toNat o.b.toNat o.off.toNat)
  | .vstrip off => .scalar (packRI 22 0 0 off.toNat)
  | .vfetch off => .scalar (packVF 23 0 off.toNat)
  | .vfetchr a off => .scalar (packVF 24 a.toNat off.toNat)
  | .ldbC o => .scalar (packMEM 32 o.r.toNat o.a.toNat o.c.toNat o.p.toNat)
  | .ldbnC o => .scalar (packMEM 33 o.r.toNat o.a.toNat o.c.toNat o.p.toNat)
  | .ldhC o => .scalar (packMEM 34 o.r.toNat o.a.toNat o.c.toNat o.p.toNat)
  | .ldhnC o => .scalar (packMEM 35 o.r.toNat o.a.toNat o.c.toNat o.p.toNat)
  | .ldwC o => .scalar (packMEM 36 o.r.toNat o.a.toNat o.c.toNat o.p.toNat)
  | .ldwnC o => .scalar (packMEM 37 o.r.toNat o.a.toNat o.c.toNat o.p.toNat)
  | .lddC o => .scalar (packMEM 38 o.r.toNat o.a.toNat o.c.toNat o.p.toNat)
  | .stbC o => .scalar (packMEM 39 o.r.toNat o.a.toNat o.c.toNat o.p.toNat)
  | .sthC o => .scalar (packMEM 40 o.r.toNat o.a.toNat o.c.toNat o.p.toNat)
  | .stwC o => .scalar (packMEM 41 o.r.toNat o.a.toNat o.c.toNat o.p.toNat)
  | .stdC o => .scalar (packMEM 42 o.r.toNat o.a.toNat o.c.toNat o.p.toNat)
  | .ldb o => .scalar (packMEM 48 o.r.toNat o.a.toNat 0 o.p.toNat)
  | .ldbn o => .scalar (packMEM 49 o.r.toNat o.a.toNat 0 o.p.toNat)
  | .ldh o => .scalar (packMEM 50 o.r.toNat o.a.toNat 0 o.p.toNat)
  | .ldhn o => .scalar (packMEM 51 o.r.toNat o.a.toNat 0 o.p.toNat)
  | .ldw o => .scalar (packMEM 52 o.r.toNat o.a.toNat 0 o.p.toNat)
  | .ldwn o => .scalar (packMEM 53 o.r.toNat o.a.toNat 0 o.p.toNat)
  | .ldd o => .scalar (packMEM 54 o.r.toNat o.a.toNat 0 o.p.toNat)
  | .stb o => .scalar (packMEM 55 o.r.toNat o.a.toNat 0 o.p.toNat)
  | .sth o => .scalar (packMEM 56 o.r.toNat o.a.toNat 0 o.p.toNat)
  | .stw o => .scalar (packMEM 57 o.r.toNat o.a.toNat 0 o.p.toNat)
  | .std o => .scalar (packMEM 58 o.r.toNat o.a.toNat 0 o.p.toNat)
  | .aaddWC o => .scalar (packAT 15 0 o.d.toNat o.a.toNat o.b.toNat o.fa o.fb o.sc.toNat o.c.toNat)
  | .aandWC o => .scalar (packAT 15 1 o.d.toNat o.a.toNat o.b.toNat o.fa o.fb o.sc.toNat o.c.toNat)
  | .aorWC o => .scalar (packAT 15 2 o.d.toNat o.a.toNat o.b.toNat o.fa o.fb o.sc.toNat o.c.toNat)
  | .axorWC o => .scalar (packAT 15 3 o.d.toNat o.a.toNat o.b.toNat o.fa o.fb o.sc.toNat o.c.toNat)
  | .aminWC o => .scalar (packAT 25 0 o.d.toNat o.a.toNat o.b.toNat o.fa o.fb o.sc.toNat o.c.toNat)
  | .amaxWC o => .scalar (packAT 25 1 o.d.toNat o.a.toNat o.b.toNat o.fa o.fb o.sc.toNat o.c.toNat)
  | .aswapWC o => .scalar (packAT 25 2 o.d.toNat o.a.toNat o.b.toNat o.fa o.fb o.sc.toNat o.c.toNat)
  | .acasWC o => .scalar (packAT 25 3 o.d.toNat o.a.toNat o.b.toNat o.fa o.fb o.sc.toNat o.c.toNat)
  | .aaddDC o => .scalar (packAT 26 0 o.d.toNat o.a.toNat o.b.toNat o.fa o.fb o.sc.toNat o.c.toNat)
  | .aandDC o => .scalar (packAT 26 1 o.d.toNat o.a.toNat o.b.toNat o.fa o.fb o.sc.toNat o.c.toNat)
  | .aorDC o => .scalar (packAT 26 2 o.d.toNat o.a.toNat o.b.toNat o.fa o.fb o.sc.toNat o.c.toNat)
  | .axorDC o => .scalar (packAT 26 3 o.d.toNat o.a.toNat o.b.toNat o.fa o.fb o.sc.toNat o.c.toNat)
  | .aminDC o => .scalar (packAT 27 0 o.d.toNat o.a.toNat o.b.toNat o.fa o.fb o.sc.toNat o.c.toNat)
  | .amaxDC o => .scalar (packAT 27 1 o.d.toNat o.a.toNat o.b.toNat o.fa o.fb o.sc.toNat o.c.toNat)
  | .aswapDC o => .scalar (packAT 27 2 o.d.toNat o.a.toNat o.b.toNat o.fa o.fb o.sc.toNat o.c.toNat)
  | .acasDC o => .scalar (packAT 27 3 o.d.toNat o.a.toNat o.b.toNat o.fa o.fb o.sc.toNat o.c.toNat)
  | .aaddW o => .scalar (packAT 28 0 o.d.toNat o.a.toNat o.b.toNat o.fa o.fb o.sc.toNat 0)
  | .aandW o => .scalar (packAT 28 1 o.d.toNat o.a.toNat o.b.toNat o.fa o.fb o.sc.toNat 0)
  | .aorW o => .scalar (packAT 28 2 o.d.toNat o.a.toNat o.b.toNat o.fa o.fb o.sc.toNat 0)
  | .axorW o => .scalar (packAT 28 3 o.d.toNat o.a.toNat o.b.toNat o.fa o.fb o.sc.toNat 0)
  | .aminW o => .scalar (packAT 29 0 o.d.toNat o.a.toNat o.b.toNat o.fa o.fb o.sc.toNat 0)
  | .amaxW o => .scalar (packAT 29 1 o.d.toNat o.a.toNat o.b.toNat o.fa o.fb o.sc.toNat 0)
  | .aswapW o => .scalar (packAT 29 2 o.d.toNat o.a.toNat o.b.toNat o.fa o.fb o.sc.toNat 0)
  | .acasW o => .scalar (packAT 29 3 o.d.toNat o.a.toNat o.b.toNat o.fa o.fb o.sc.toNat 0)
  | .aaddD o => .scalar (packAT 30 0 o.d.toNat o.a.toNat o.b.toNat o.fa o.fb o.sc.toNat 0)
  | .aandD o => .scalar (packAT 30 1 o.d.toNat o.a.toNat o.b.toNat o.fa o.fb o.sc.toNat 0)
  | .aorD o => .scalar (packAT 30 2 o.d.toNat o.a.toNat o.b.toNat o.fa o.fb o.sc.toNat 0)
  | .axorD o => .scalar (packAT 30 3 o.d.toNat o.a.toNat o.b.toNat o.fa o.fb o.sc.toNat 0)
  | .aminD o => .scalar (packAT 31 0 o.d.toNat o.a.toNat o.b.toNat o.fa o.fb o.sc.toNat 0)
  | .amaxD o => .scalar (packAT 31 1 o.d.toNat o.a.toNat o.b.toNat o.fa o.fb o.sc.toNat 0)
  | .aswapD o => .scalar (packAT 31 2 o.d.toNat o.a.toNat o.b.toNat o.fa o.fb o.sc.toNat 0)
  | .acasD o => .scalar (packAT 31 3 o.d.toNat o.a.toNat o.b.toNat o.fa o.fb o.sc.toNat 0)
  | .fenceC mask => .scalar (packRI 43 0 0 mask.toNat)
  | .fenceS sc => .scalar (packRR 44 0 0 0 0 false false sc.toNat)
  | .feSet d => .scalar (packRR 44 1 d.toNat 0 0 false false 0)
  | .feClr d => .scalar (packRR 44 2 d.toNat 0 0 false false 0)
  | .vsetl d sew grp => .scalar (packRR 44 3 d.toNat 0 0 false false (sew.toNat + 4 * grp.toNat))
  | .vckm o => .scalar (packRR 44 4 o.d.toNat o.a.toNat 0 o.fa false 0)
  | .vrel => .scalar (packRR 44 5 0 0 0 false false 0)
  | .cpy o => .scalar (packRR 45 0 o.d.toNat o.a.toNat 0 o.fa false o.n.toNat)
  | .cpyg o => .scalar (packRR 45 1 o.d.toNat o.a.toNat 0 o.fa false o.n.toNat)
  | .cpyr o => .scalar (packRR 45 2 o.d.toNat o.a.toNat 0 o.fa false o.n.toNat)
  | .cpyk o => .scalar (packRR 45 3 o.d.toNat o.a.toNat 0 o.fa false 0)
  | .wmark o => .scalar (packRR 45 4 o.d.toNat o.a.toNat 0 o.fa false 0)
  | .tmv o => .scalar (packRR 45 5 o.d.toNat o.a.toNat o.b.toNat o.fa o.fb (o.n.toNat + 8 * b2n o.ret))
  | .tflip o => .scalar (packRR 45 6 o.d.toNat o.a.toNat 0 o.fa false 0)
  | .barInit o => .scalar (packRR 45 7 o.d.toNat o.a.toNat o.b.toNat o.fa o.fb o.c.toNat)
  | .barArrive o => .scalar (packRR 45 8 o.d.toNat o.a.toNat o.b.toNat o.fa o.fb o.c.toNat)
  | .barWait o => .scalar (packRR 45 9 o.d.toNat o.a.toNat o.b.toNat o.fa o.fb (b2n o.exp))
  | .own o => .scalar (packRR 46 0 o.d.toNat o.a.toNat 0 o.fa false (b2n o.x))
  | .lend o => .scalar (packRR 46 1 o.d.toNat o.a.toNat o.b.toNat o.fa o.fb (b2n o.x))
  | .ret o => .scalar (packRR 46 2 o.d.toNat o.a.toNat 0 o.fa false (b2n o.x))
  | .split o => .scalar (packRR 46 3 o.d.toNat o.a.toNat o.b.toNat o.fa o.fb (b2n o.x))
  | .merge o => .scalar (packRR 46 4 o.d.toNat o.a.toNat o.b.toNat o.fa o.fb (b2n o.x))
  | .rshare o => .scalar (packRR 46 5 o.d.toNat o.a.toNat o.b.toNat o.fa o.fb (b2n o.x))
  | .rdrop o => .scalar (packRR 46 6 o.d.toNat o.a.toNat 0 o.fa false (b2n o.x))
  | .tq o => .scalar (packRR 46 7 o.d.toNat o.a.toNat o.b.toNat o.fa o.fb (b2n o.x))
  | .bkx o => .scalar (packRR 47 0 o.d.toNat o.a.toNat 0 o.fa false 0)
  | .bkseal o => .scalar (packRR 47 1 o.d.toNat o.a.toNat 0 o.fa false 0)
  | .bklock o => .scalar (packRR 47 2 o.d.toNat o.a.toNat o.b.toNat o.fa o.fb 0)
  | .bkunlock a fa => .scalar (packRR 47 3 0 a.toNat 0 fa false 0)
  | .bkfence => .scalar (packRR 47 4 0 0 0 false false 0)
  | .bkload o => .scalar (packRR 47 5 o.d.toNat o.a.toNat o.b.toNat o.fa o.fb 0)
  | .bkinv o => .scalar (packRR 47 6 o.d.toNat o.a.toNat 0 o.fa false 0)
  | .bkst o => .scalar (packRR 47 7 o.d.toNat o.a.toNat 0 o.fa false 0)
  | .bkclone o => .scalar (packRR 47 8 o.d.toNat o.a.toNat o.b.toNat o.fa o.fb 0)
  | .bkred o => .scalar (packRR 47 9 o.d.toNat o.a.toNat o.b.toNat o.fa o.fb 0)
  | .csrr d n => .scalar (packSys 0 d.toNat 0 n.toNat)
  | .csrw n a => .scalar (packSys 1 0 a.toNat n.toNat)
  | .csrs n a => .scalar (packSys 2 0 a.toNat n.toNat)
  | .csrc n a => .scalar (packSys 3 0 a.toNat n.toNat)
  | .trap code => .scalar (packSys 4 0 0 code.toNat)
  | .tret => .scalar (packSys 5 0 0 0)
  | .wfe t => .scalar (packSys 6 0 0 t.toNat)
  | .sleepc a => .scalar (packSys 7 0 a.toNat 0)
  | .brk code => .scalar (packSys 8 0 0 code.toNat)
  | .nop => .scalar (packSys 9 0 0 0)
  | .fin => .scalar (packSys 10 0 0 0)
  | .vstop => .vector (packV 0 0 0 0 0 0 0 0 false 0 false false false 0)
  | .vbrk code => .vector (packV 1 0 0 0 0 0 0 0 false 0 false false false code.toNat)
  | .vaddVr o => .vector (packV 2 o.vd.toNat o.va.toNat o.vb.toNat 0 o.ma.toNat o.mb.toNat o.m.km.toNat o.m.kp 0 o.fa o.fb false 0)
  | .vaddSc o => .vector (packV 3 o.vd.toNat o.va.toNat o.xb.toNat 0 o.ma.toNat 0 o.m.km.toNat o.m.kp 0 o.fa o.fb false 0)
  | .vaddIm o => .vector (packV 4 o.vd.toNat o.va.toNat 0 0 o.ma.toNat 0 o.m.km.toNat o.m.kp 0 o.fa false false o.imm.toNat)
  | .vsubVr o => .vector (packV 5 o.vd.toNat o.va.toNat o.vb.toNat 0 o.ma.toNat o.mb.toNat o.m.km.toNat o.m.kp 0 o.fa o.fb false 0)
  | .vsubSc o => .vector (packV 6 o.vd.toNat o.va.toNat o.xb.toNat 0 o.ma.toNat 0 o.m.km.toNat o.m.kp 0 o.fa o.fb false 0)
  | .vrsubSc o => .vector (packV 7 o.vd.toNat o.va.toNat o.xb.toNat 0 o.ma.toNat 0 o.m.km.toNat o.m.kp 0 o.fa o.fb false 0)
  | .vrsubIm o => .vector (packV 8 o.vd.toNat o.va.toNat 0 0 o.ma.toNat 0 o.m.km.toNat o.m.kp 0 o.fa false false o.imm.toNat)
  | .vmulVr o => .vector (packV 9 o.vd.toNat o.va.toNat o.vb.toNat 0 o.ma.toNat o.mb.toNat o.m.km.toNat o.m.kp 0 o.fa o.fb false 0)
  | .vmulSc o => .vector (packV 10 o.vd.toNat o.va.toNat o.xb.toNat 0 o.ma.toNat 0 o.m.km.toNat o.m.kp 0 o.fa o.fb false 0)
  | .vmulhVr o => .vector (packV 11 o.vd.toNat o.va.toNat o.vb.toNat 0 o.ma.toNat o.mb.toNat o.m.km.toNat o.m.kp 0 o.fa o.fb false 0)
  | .vmulhSc o => .vector (packV 12 o.vd.toNat o.va.toNat o.xb.toNat 0 o.ma.toNat 0 o.m.km.toNat o.m.kp 0 o.fa o.fb false 0)
  | .vmulhnVr o => .vector (packV 13 o.vd.toNat o.va.toNat o.vb.toNat 0 o.ma.toNat o.mb.toNat o.m.km.toNat o.m.kp 0 o.fa o.fb false 0)
  | .vmulhnSc o => .vector (packV 14 o.vd.toNat o.va.toNat o.xb.toNat 0 o.ma.toNat 0 o.m.km.toNat o.m.kp 0 o.fa o.fb false 0)
  | .vmaccVr o => .vector (packV 15 o.vd.toNat o.va.toNat o.vb.toNat 0 o.ma.toNat o.mb.toNat o.m.km.toNat o.m.kp 0 o.fa o.fb false 0)
  | .vmaccSc o => .vector (packV 16 o.vd.toNat o.va.toNat o.xb.toNat 0 o.ma.toNat 0 o.m.km.toNat o.m.kp 0 o.fa o.fb false 0)
  | .vnmsacVr o => .vector (packV 17 o.vd.toNat o.va.toNat o.vb.toNat 0 o.ma.toNat o.mb.toNat o.m.km.toNat o.m.kp 0 o.fa o.fb false 0)
  | .vnmsacSc o => .vector (packV 18 o.vd.toNat o.va.toNat o.xb.toNat 0 o.ma.toNat 0 o.m.km.toNat o.m.kp 0 o.fa o.fb false 0)
  | .vdivVr o => .vector (packV 19 o.vd.toNat o.va.toNat o.vb.toNat 0 o.ma.toNat o.mb.toNat o.m.km.toNat o.m.kp 0 o.fa o.fb false 0)
  | .vdivSc o => .vector (packV 20 o.vd.toNat o.va.toNat o.xb.toNat 0 o.ma.toNat 0 o.m.km.toNat o.m.kp 0 o.fa o.fb false 0)
  | .vdivnVr o => .vector (packV 21 o.vd.toNat o.va.toNat o.vb.toNat 0 o.ma.toNat o.mb.toNat o.m.km.toNat o.m.kp 0 o.fa o.fb false 0)
  | .vdivnSc o => .vector (packV 22 o.vd.toNat o.va.toNat o.xb.toNat 0 o.ma.toNat 0 o.m.km.toNat o.m.kp 0 o.fa o.fb false 0)
  | .vremVr o => .vector (packV 23 o.vd.toNat o.va.toNat o.vb.toNat 0 o.ma.toNat o.mb.toNat o.m.km.toNat o.m.kp 0 o.fa o.fb false 0)
  | .vremSc o => .vector (packV 24 o.vd.toNat o.va.toNat o.xb.toNat 0 o.ma.toNat 0 o.m.km.toNat o.m.kp 0 o.fa o.fb false 0)
  | .vremnVr o => .vector (packV 25 o.vd.toNat o.va.toNat o.vb.toNat 0 o.ma.toNat o.mb.toNat o.m.km.toNat o.m.kp 0 o.fa o.fb false 0)
  | .vremnSc o => .vector (packV 26 o.vd.toNat o.va.toNat o.xb.toNat 0 o.ma.toNat 0 o.m.km.toNat o.m.kp 0 o.fa o.fb false 0)
  | .vminVr o => .vector (packV 27 o.vd.toNat o.va.toNat o.vb.toNat 0 o.ma.toNat o.mb.toNat o.m.km.toNat o.m.kp 0 o.fa o.fb false 0)
  | .vminSc o => .vector (packV 28 o.vd.toNat o.va.toNat o.xb.toNat 0 o.ma.toNat 0 o.m.km.toNat o.m.kp 0 o.fa o.fb false 0)
  | .vmaxVr o => .vector (packV 29 o.vd.toNat o.va.toNat o.vb.toNat 0 o.ma.toNat o.mb.toNat o.m.km.toNat o.m.kp 0 o.fa o.fb false 0)
  | .vmaxSc o => .vector (packV 30 o.vd.toNat o.va.toNat o.xb.toNat 0 o.ma.toNat 0 o.m.km.toNat o.m.kp 0 o.fa o.fb false 0)
  | .vminnVr o => .vector (packV 31 o.vd.toNat o.va.toNat o.vb.toNat 0 o.ma.toNat o.mb.toNat o.m.km.toNat o.m.kp 0 o.fa o.fb false 0)
  | .vminnSc o => .vector (packV 32 o.vd.toNat o.va.toNat o.xb.toNat 0 o.ma.toNat 0 o.m.km.toNat o.m.kp 0 o.fa o.fb false 0)
  | .vmaxnVr o => .vector (packV 33 o.vd.toNat o.va.toNat o.vb.toNat 0 o.ma.toNat o.mb.toNat o.m.km.toNat o.m.kp 0 o.fa o.fb false 0)
  | .vmaxnSc o => .vector (packV 34 o.vd.toNat o.va.toNat o.xb.toNat 0 o.ma.toNat 0 o.m.km.toNat o.m.kp 0 o.fa o.fb false 0)
  | .vandVr o => .vector (packV 35 o.vd.toNat o.va.toNat o.vb.toNat 0 o.ma.toNat o.mb.toNat o.m.km.toNat o.m.kp 0 o.fa o.fb false 0)
  | .vandSc o => .vector (packV 36 o.vd.toNat o.va.toNat o.xb.toNat 0 o.ma.toNat 0 o.m.km.toNat o.m.kp 0 o.fa o.fb false 0)
  | .vandIm o => .vector (packV 37 o.vd.toNat o.va.toNat 0 0 o.ma.toNat 0 o.m.km.toNat o.m.kp 0 o.fa false false o.imm.toNat)
  | .vorVr o => .vector (packV 38 o.vd.toNat o.va.toNat o.vb.toNat 0 o.ma.toNat o.mb.toNat o.m.km.toNat o.m.kp 0 o.fa o.fb false 0)
  | .vorSc o => .vector (packV 39 o.vd.toNat o.va.toNat o.xb.toNat 0 o.ma.toNat 0 o.m.km.toNat o.m.kp 0 o.fa o.fb false 0)
  | .vorIm o => .vector (packV 40 o.vd.toNat o.va.toNat 0 0 o.ma.toNat 0 o.m.km.toNat o.m.kp 0 o.fa false false o.imm.toNat)
  | .vxorVr o => .vector (packV 41 o.vd.toNat o.va.toNat o.vb.toNat 0 o.ma.toNat o.mb.toNat o.m.km.toNat o.m.kp 0 o.fa o.fb false 0)
  | .vxorSc o => .vector (packV 42 o.vd.toNat o.va.toNat o.xb.toNat 0 o.ma.toNat 0 o.m.km.toNat o.m.kp 0 o.fa o.fb false 0)
  | .vxorIm o => .vector (packV 43 o.vd.toNat o.va.toNat 0 0 o.ma.toNat 0 o.m.km.toNat o.m.kp 0 o.fa false false o.imm.toNat)
  | .vsllVr o => .vector (packV 44 o.vd.toNat o.va.toNat o.vb.toNat 0 o.ma.toNat o.mb.toNat o.m.km.toNat o.m.kp 0 o.fa o.fb false 0)
  | .vsllSc o => .vector (packV 45 o.vd.toNat o.va.toNat o.xb.toNat 0 o.ma.toNat 0 o.m.km.toNat o.m.kp 0 o.fa o.fb false 0)
  | .vsllIm o => .vector (packV 46 o.vd.toNat o.va.toNat 0 0 o.ma.toNat 0 o.m.km.toNat o.m.kp 0 o.fa false false o.imm.toNat)
  | .vsrlVr o => .vector (packV 47 o.vd.toNat o.va.toNat o.vb.toNat 0 o.ma.toNat o.mb.toNat o.m.km.toNat o.m.kp 0 o.fa o.fb false 0)
  | .vsrlSc o => .vector (packV 48 o.vd.toNat o.va.toNat o.xb.toNat 0 o.ma.toNat 0 o.m.km.toNat o.m.kp 0 o.fa o.fb false 0)
  | .vsrlIm o => .vector (packV 49 o.vd.toNat o.va.toNat 0 0 o.ma.toNat 0 o.m.km.toNat o.m.kp 0 o.fa false false o.imm.toNat)
  | .vsraVr o => .vector (packV 50 o.vd.toNat o.va.toNat o.vb.toNat 0 o.ma.toNat o.mb.toNat o.m.km.toNat o.m.kp 0 o.fa o.fb false 0)
  | .vsraSc o => .vector (packV 51 o.vd.toNat o.va.toNat o.xb.toNat 0 o.ma.toNat 0 o.m.km.toNat o.m.kp 0 o.fa o.fb false 0)
  | .vsraIm o => .vector (packV 52 o.vd.toNat o.va.toNat 0 0 o.ma.toNat 0 o.m.km.toNat o.m.kp 0 o.fa false false o.imm.toNat)
  | .vshrnVr o => .vector (packV 53 o.vd.toNat o.va.toNat o.vb.toNat 0 o.ma.toNat o.mb.toNat o.m.km.toNat o.m.kp 0 o.fa o.fb false 0)
  | .vshrnIm o => .vector (packV 54 o.vd.toNat o.va.toNat 0 0 o.ma.toNat 0 o.m.km.toNat o.m.kp 0 o.fa false false o.imm.toNat)
  | .vsarnVr o => .vector (packV 55 o.vd.toNat o.va.toNat o.vb.toNat 0 o.ma.toNat o.mb.toNat o.m.km.toNat o.m.kp 0 o.fa o.fb false 0)
  | .vsarnIm o => .vector (packV 56 o.vd.toNat o.va.toNat 0 0 o.ma.toNat 0 o.m.km.toNat o.m.kp 0 o.fa false false o.imm.toNat)
  | .vwadd o => .vector (packV 57 o.vd.toNat o.va.toNat o.vb.toNat 0 o.ma.toNat o.mb.toNat o.m.km.toNat o.m.kp 0 o.fa o.fb false 0)
  | .vwaddn o => .vector (packV 58 o.vd.toNat o.va.toNat o.vb.toNat 0 o.ma.toNat o.mb.toNat o.m.km.toNat o.m.kp 0 o.fa o.fb false 0)
  | .vwmul o => .vector (packV 59 o.vd.toNat o.va.toNat o.vb.toNat 0 o.ma.toNat o.mb.toNat o.m.km.toNat o.m.kp 0 o.fa o.fb false 0)
  | .vwmuln o => .vector (packV 60 o.vd.toNat o.va.toNat o.vb.toNat 0 o.ma.toNat o.mb.toNat o.m.km.toNat o.m.kp 0 o.fa o.fb false 0)
  | .vsaddVr o => .vector (packV 61 o.vd.toNat o.va.toNat o.vb.toNat 0 o.ma.toNat o.mb.toNat o.m.km.toNat o.m.kp 0 o.fa o.fb false 0)
  | .vsaddSc o => .vector (packV 62 o.vd.toNat o.va.toNat o.xb.toNat 0 o.ma.toNat 0 o.m.km.toNat o.m.kp 0 o.fa o.fb false 0)
  | .vsaddnVr o => .vector (packV 63 o.vd.toNat o.va.toNat o.vb.toNat 0 o.ma.toNat o.mb.toNat o.m.km.toNat o.m.kp 0 o.fa o.fb false 0)
  | .vsaddnSc o => .vector (packV 64 o.vd.toNat o.va.toNat o.xb.toNat 0 o.ma.toNat 0 o.m.km.toNat o.m.kp 0 o.fa o.fb false 0)
  | .vssubVr o => .vector (packV 65 o.vd.toNat o.va.toNat o.vb.toNat 0 o.ma.toNat o.mb.toNat o.m.km.toNat o.m.kp 0 o.fa o.fb false 0)
  | .vssubSc o => .vector (packV 66 o.vd.toNat o.va.toNat o.xb.toNat 0 o.ma.toNat 0 o.m.km.toNat o.m.kp 0 o.fa o.fb false 0)
  | .vssubnVr o => .vector (packV 67 o.vd.toNat o.va.toNat o.vb.toNat 0 o.ma.toNat o.mb.toNat o.m.km.toNat o.m.kp 0 o.fa o.fb false 0)
  | .vssubnSc o => .vector (packV 68 o.vd.toNat o.va.toNat o.xb.toNat 0 o.ma.toNat 0 o.m.km.toNat o.m.kp 0 o.fa o.fb false 0)
  | .vclip o => .vector (packV 69 o.vd.toNat o.va.toNat 0 0 o.ma.toNat 0 o.m.km.toNat o.m.kp 0 o.fa false false o.sh.toNat)
  | .vclipn o => .vector (packV 70 o.vd.toNat o.va.toNat 0 0 o.ma.toNat 0 o.m.km.toNat o.m.kp 0 o.fa false false o.sh.toNat)
  | .vfaddVr o => .vector (packV 80 o.vd.toNat o.va.toNat o.vb.toNat 0 o.ma.toNat o.mb.toNat o.m.km.toNat o.m.kp 0 o.fa o.fb false 0)
  | .vfaddSc o => .vector (packV 81 o.vd.toNat o.va.toNat o.xb.toNat 0 o.ma.toNat 0 o.m.km.toNat o.m.kp 0 o.fa o.fb false 0)
  | .vfsubVr o => .vector (packV 82 o.vd.toNat o.va.toNat o.vb.toNat 0 o.ma.toNat o.mb.toNat o.m.km.toNat o.m.kp 0 o.fa o.fb false 0)
  | .vfsubSc o => .vector (packV 83 o.vd.toNat o.va.toNat o.xb.toNat 0 o.ma.toNat 0 o.m.km.toNat o.m.kp 0 o.fa o.fb false 0)
  | .vfmulVr o => .vector (packV 84 o.vd.toNat o.va.toNat o.vb.toNat 0 o.ma.toNat o.mb.toNat o.m.km.toNat o.m.kp 0 o.fa o.fb false 0)
  | .vfmulSc o => .vector (packV 85 o.vd.toNat o.va.toNat o.xb.toNat 0 o.ma.toNat 0 o.m.km.toNat o.m.kp 0 o.fa o.fb false 0)
  | .vfmaccVr o => .vector (packV 86 o.vd.toNat o.va.toNat o.vb.toNat 0 o.ma.toNat o.mb.toNat o.m.km.toNat o.m.kp 0 o.fa o.fb false 0)
  | .vfmaccSc o => .vector (packV 87 o.vd.toNat o.va.toNat o.xb.toNat 0 o.ma.toNat 0 o.m.km.toNat o.m.kp 0 o.fa o.fb false 0)
  | .vfdivVr o => .vector (packV 88 o.vd.toNat o.va.toNat o.vb.toNat 0 o.ma.toNat o.mb.toNat o.m.km.toNat o.m.kp 0 o.fa o.fb false 0)
  | .vfdivSc o => .vector (packV 89 o.vd.toNat o.va.toNat o.xb.toNat 0 o.ma.toNat 0 o.m.km.toNat o.m.kp 0 o.fa o.fb false 0)
  | .vfminVr o => .vector (packV 90 o.vd.toNat o.va.toNat o.vb.toNat 0 o.ma.toNat o.mb.toNat o.m.km.toNat o.m.kp 0 o.fa o.fb false 0)
  | .vfminSc o => .vector (packV 91 o.vd.toNat o.va.toNat o.xb.toNat 0 o.ma.toNat 0 o.m.km.toNat o.m.kp 0 o.fa o.fb false 0)
  | .vfmaxVr o => .vector (packV 92 o.vd.toNat o.va.toNat o.vb.toNat 0 o.ma.toNat o.mb.toNat o.m.km.toNat o.m.kp 0 o.fa o.fb false 0)
  | .vfmaxSc o => .vector (packV 93 o.vd.toNat o.va.toNat o.xb.toNat 0 o.ma.toNat 0 o.m.km.toNat o.m.kp 0 o.fa o.fb false 0)
  | .vfcpsVr o => .vector (packV 94 o.vd.toNat o.va.toNat o.vb.toNat 0 o.ma.toNat o.mb.toNat o.m.km.toNat o.m.kp 0 o.fa o.fb false 0)
  | .vfcpsSc o => .vector (packV 95 o.vd.toNat o.va.toNat o.xb.toNat 0 o.ma.toNat 0 o.m.km.toNat o.m.kp 0 o.fa o.fb false 0)
  | .vfcpsnVr o => .vector (packV 96 o.vd.toNat o.va.toNat o.vb.toNat 0 o.ma.toNat o.mb.toNat o.m.km.toNat o.m.kp 0 o.fa o.fb false 0)
  | .vfcpsnSc o => .vector (packV 97 o.vd.toNat o.va.toNat o.xb.toNat 0 o.ma.toNat 0 o.m.km.toNat o.m.kp 0 o.fa o.fb false 0)
  | .vfcpsxVr o => .vector (packV 98 o.vd.toNat o.va.toNat o.vb.toNat 0 o.ma.toNat o.mb.toNat o.m.km.toNat o.m.kp 0 o.fa o.fb false 0)
  | .vfcpsxSc o => .vector (packV 99 o.vd.toNat o.va.toNat o.xb.toNat 0 o.ma.toNat 0 o.m.km.toNat o.m.kp 0 o.fa o.fb false 0)
  | .vfsqrt o => .vector (packV 100 o.vd.toNat o.va.toNat 0 0 o.ma.toNat 0 o.m.km.toNat o.m.kp 0 o.fa false false 0)
  | .vfexp2 o => .vector (packV 101 o.vd.toNat o.va.toNat 0 0 o.ma.toNat 0 o.m.km.toNat o.m.kp 0 o.fa false false 0)
  | .vfrcp o => .vector (packV 102 o.vd.toNat o.va.toNat 0 0 o.ma.toNat 0 o.m.km.toNat o.m.kp 0 o.fa false false 0)
  | .vfrsq o => .vector (packV 103 o.vd.toNat o.va.toNat 0 0 o.ma.toNat 0 o.m.km.toNat o.m.kp 0 o.fa false false 0)
  | .vflog2 o => .vector (packV 104 o.vd.toNat o.va.toNat 0 0 o.ma.toNat 0 o.m.km.toNat o.m.kp 0 o.fa false false 0)
  | .vfcvtFI o => .vector (packV 111 o.vd.toNat o.va.toNat 0 0 o.ma.toNat 0 o.m.km.toNat o.m.kp 0 o.fa false false 0)
  | .vfcvtFN o => .vector (packV 111 o.vd.toNat o.va.toNat 0 0 o.ma.toNat 0 o.m.km.toNat o.m.kp 1 o.fa false false 0)
  | .vfcvtIF o => .vector (packV 111 o.vd.toNat o.va.toNat 0 0 o.ma.toNat 0 o.m.km.toNat o.m.kp 2 o.fa false false 0)
  | .vfcvtNF o => .vector (packV 111 o.vd.toNat o.va.toNat 0 0 o.ma.toNat 0 o.m.km.toNat o.m.kp 3 o.fa false false 0)
  | .vfcvtBfF o => .vector (packV 111 o.vd.toNat o.va.toNat 0 0 o.ma.toNat 0 o.m.km.toNat o.m.kp 4 o.fa false false 0)
  | .vfcvtFBf o => .vector (packV 111 o.vd.toNat o.va.toNat 0 0 o.ma.toNat 0 o.m.km.toNat o.m.kp 5 o.fa false false 0)
  | .vfcvtDxb8F o => .vector (packV 111 o.vd.toNat o.va.toNat 0 0 o.ma.toNat 0 0 false 6 o.fa false false o.gap.toNat)
  | .vfcvtDxb4F o => .vector (packV 111 o.vd.toNat o.va.toNat 0 0 o.ma.toNat 0 0 false 7 o.fa false false o.gap.toNat)
  | .vfcvtFDxb8 o => .vector (packV 111 o.vd.toNat o.va.toNat 0 0 o.ma.toNat 0 o.m.km.toNat o.m.kp 8 o.fa false false 0)
  | .vfcvtFDxb4 o => .vector (packV 111 o.vd.toNat o.va.toNat 0 0 o.ma.toNat 0 o.m.km.toNat o.m.kp 9 o.fa false false 0)
  | .vceqVr o => .vector (packV 112 o.kd.toNat o.va.toNat o.vb.toNat 0 o.ma.toNat o.mb.toNat o.m.km.toNat o.m.kp 0 o.fa o.fb false 0)
  | .vceqSc o => .vector (packV 113 o.kd.toNat o.va.toNat o.xb.toNat 0 o.ma.toNat 0 o.m.km.toNat o.m.kp 0 o.fa o.fb false 0)
  | .vcneVr o => .vector (packV 114 o.kd.toNat o.va.toNat o.vb.toNat 0 o.ma.toNat o.mb.toNat o.m.km.toNat o.m.kp 0 o.fa o.fb false 0)
  | .vcneSc o => .vector (packV 115 o.kd.toNat o.va.toNat o.xb.toNat 0 o.ma.toNat 0 o.m.km.toNat o.m.kp 0 o.fa o.fb false 0)
  | .vcltVr o => .vector (packV 116 o.kd.toNat o.va.toNat o.vb.toNat 0 o.ma.toNat o.mb.toNat o.m.km.toNat o.m.kp 0 o.fa o.fb false 0)
  | .vcltSc o => .vector (packV 117 o.kd.toNat o.va.toNat o.xb.toNat 0 o.ma.toNat 0 o.m.km.toNat o.m.kp 0 o.fa o.fb false 0)
  | .vcltnVr o => .vector (packV 118 o.kd.toNat o.va.toNat o.vb.toNat 0 o.ma.toNat o.mb.toNat o.m.km.toNat o.m.kp 0 o.fa o.fb false 0)
  | .vcltnSc o => .vector (packV 119 o.kd.toNat o.va.toNat o.xb.toNat 0 o.ma.toNat 0 o.m.km.toNat o.m.kp 0 o.fa o.fb false 0)
  | .vcleVr o => .vector (packV 120 o.kd.toNat o.va.toNat o.vb.toNat 0 o.ma.toNat o.mb.toNat o.m.km.toNat o.m.kp 0 o.fa o.fb false 0)
  | .vcleSc o => .vector (packV 121 o.kd.toNat o.va.toNat o.xb.toNat 0 o.ma.toNat 0 o.m.km.toNat o.m.kp 0 o.fa o.fb false 0)
  | .vclenVr o => .vector (packV 122 o.kd.toNat o.va.toNat o.vb.toNat 0 o.ma.toNat o.mb.toNat o.m.km.toNat o.m.kp 0 o.fa o.fb false 0)
  | .vclenSc o => .vector (packV 123 o.kd.toNat o.va.toNat o.xb.toNat 0 o.ma.toNat 0 o.m.km.toNat o.m.kp 0 o.fa o.fb false 0)
  | .vcgtSc o => .vector (packV 124 o.kd.toNat o.va.toNat o.xb.toNat 0 o.ma.toNat 0 o.m.km.toNat o.m.kp 0 o.fa o.fb false 0)
  | .vcgtnSc o => .vector (packV 125 o.kd.toNat o.va.toNat o.xb.toNat 0 o.ma.toNat 0 o.m.km.toNat o.m.kp 0 o.fa o.fb false 0)
  | .vfceqVr o => .vector (packV 128 o.kd.toNat o.va.toNat o.vb.toNat 0 o.ma.toNat o.mb.toNat o.m.km.toNat o.m.kp 0 o.fa o.fb false 0)
  | .vfceqSc o => .vector (packV 129 o.kd.toNat o.va.toNat o.xb.toNat 0 o.ma.toNat 0 o.m.km.toNat o.m.kp 0 o.fa o.fb false 0)
  | .vfcneVr o => .vector (packV 130 o.kd.toNat o.va.toNat o.vb.toNat 0 o.ma.toNat o.mb.toNat o.m.km.toNat o.m.kp 0 o.fa o.fb false 0)
  | .vfcneSc o => .vector (packV 131 o.kd.toNat o.va.toNat o.xb.toNat 0 o.ma.toNat 0 o.m.km.toNat o.m.kp 0 o.fa o.fb false 0)
  | .vfcltVr o => .vector (packV 132 o.kd.toNat o.va.toNat o.vb.toNat 0 o.ma.toNat o.mb.toNat o.m.km.toNat o.m.kp 0 o.fa o.fb false 0)
  | .vfcltSc o => .vector (packV 133 o.kd.toNat o.va.toNat o.xb.toNat 0 o.ma.toNat 0 o.m.km.toNat o.m.kp 0 o.fa o.fb false 0)
  | .vfcleVr o => .vector (packV 134 o.kd.toNat o.va.toNat o.vb.toNat 0 o.ma.toNat o.mb.toNat o.m.km.toNat o.m.kp 0 o.fa o.fb false 0)
  | .vfcleSc o => .vector (packV 135 o.kd.toNat o.va.toNat o.xb.toNat 0 o.ma.toNat 0 o.m.km.toNat o.m.kp 0 o.fa o.fb false 0)
  | .kand o => .vector (packV 144 o.kd.toNat o.ka.toNat o.kb.toNat 0 0 0 0 false 0 false false false 0)
  | .kor o => .vector (packV 145 o.kd.toNat o.ka.toNat o.kb.toNat 0 0 0 0 false 0 false false false 0)
  | .kxor o => .vector (packV 146 o.kd.toNat o.ka.toNat o.kb.toNat 0 0 0 0 false 0 false false false 0)
  | .knot o => .vector (packV 147 o.kd.toNat o.ka.toNat 0 0 0 0 0 false 0 false false false 0)
  | .kffs o => .vector (packV 148 o.xd.toNat o.ka.toNat 0 0 0 0 0 false 0 false false false 0)
  | .kpopc o => .vector (packV 149 o.xd.toNat o.ka.toNat 0 0 0 0 0 false 0 false false false 0)
  | .kmvx o => .vector (packV 150 o.xd.toNat o.ka.toNat 0 0 0 0 0 false 0 false false false o.j.toNat)
  | .vmergeVr o => .vector (packV 151 o.vd.toNat o.va.toNat o.vb.toNat 0 o.ma.toNat o.mb.toNat o.m.km.toNat o.m.kp 0 o.fa o.fb false 0)
  | .vmergeSc o => .vector (packV 152 o.vd.toNat o.va.toNat o.xb.toNat 0 o.ma.toNat 0 o.m.km.toNat o.m.kp 0 o.fa o.fb false 0)
  | .vmergeIm o => .vector (packV 153 o.vd.toNat o.va.toNat 0 0 o.ma.toNat 0 o.m.km.toNat o.m.kp 0 o.fa false false o.imm.toNat)
  | .vsumr o => .vector (packV 160 o.vd.toNat o.va.toNat o.vb.toNat 0 o.ma.toNat o.mb.toNat o.m.km.toNat o.m.kp 0 o.fa o.fb false 0)
  | .vmaxr o => .vector (packV 161 o.vd.toNat o.va.toNat o.vb.toNat 0 o.ma.toNat o.mb.toNat o.m.km.toNat o.m.kp 0 o.fa o.fb false 0)
  | .vmaxnr o => .vector (packV 162 o.vd.toNat o.va.toNat o.vb.toNat 0 o.ma.toNat o.mb.toNat o.m.km.toNat o.m.kp 0 o.fa o.fb false 0)
  | .vminr o => .vector (packV 163 o.vd.toNat o.va.toNat o.vb.toNat 0 o.ma.toNat o.mb.toNat o.m.km.toNat o.m.kp 0 o.fa o.fb false 0)
  | .vminnr o => .vector (packV 164 o.vd.toNat o.va.toNat o.vb.toNat 0 o.ma.toNat o.mb.toNat o.m.km.toNat o.m.kp 0 o.fa o.fb false 0)
  | .vfsumr o => .vector (packV 165 o.vd.toNat o.va.toNat o.vb.toNat 0 o.ma.toNat o.mb.toNat o.m.km.toNat o.m.kp 0 o.fa o.fb false 0)
  | .vfmaxr o => .vector (packV 166 o.vd.toNat o.va.toNat o.vb.toNat 0 o.ma.toNat o.mb.toNat o.m.km.toNat o.m.kp 0 o.fa o.fb false 0)
  | .vfminr o => .vector (packV 167 o.vd.toNat o.va.toNat o.vb.toNat 0 o.ma.toNat o.mb.toNat o.m.km.toNat o.m.kp 0 o.fa o.fb false 0)
  | .vslideupSc o => .vector (packV 176 o.vd.toNat o.va.toNat o.xb.toNat 0 o.ma.toNat 0 o.m.km.toNat o.m.kp 0 o.fa o.fb false 0)
  | .vslideupIm o => .vector (packV 177 o.vd.toNat o.va.toNat 0 0 o.ma.toNat 0 o.m.km.toNat o.m.kp 0 o.fa false false o.imm.toNat)
  | .vslidednSc o => .vector (packV 178 o.vd.toNat o.va.toNat o.xb.toNat 0 o.ma.toNat 0 o.m.km.toNat o.m.kp 0 o.fa o.fb false 0)
  | .vslidednIm o => .vector (packV 179 o.vd.toNat o.va.toNat 0 0 o.ma.toNat 0 o.m.km.toNat o.m.kp 0 o.fa false false o.imm.toNat)
  | .vslide1up o => .vector (packV 180 o.vd.toNat o.va.toNat o.xb.toNat 0 o.ma.toNat 0 o.m.km.toNat o.m.kp 0 o.fa o.fb false 0)
  | .vrgather o => .vector (packV 181 o.vd.toNat o.va.toNat o.vb.toNat 0 o.ma.toNat o.mb.toNat o.m.km.toNat o.m.kp 0 o.fa o.fb false 0)
  | .vcompress o => .vector (packV 182 o.vd.toNat o.va.toNat 0 0 o.ma.toNat 0 o.m.km.toNat o.m.kp 0 o.fa false false 0)
  | .vreshp o => .vector (packV 183 o.vd.toNat o.va.toNat o.xb.toNat 0 o.ma.toNat 0 0 false 0 o.fa o.fb false o.u.toNat)
  | .vidx o => .vector (packV 184 o.vd.toNat 0 0 0 0 0 o.m.km.toNat o.m.kp 0 false false false o.imm.toNat)
  | .vmvVr o => .vector (packV 185 o.vd.toNat o.va.toNat 0 0 o.ma.toNat 0 o.m.km.toNat o.m.kp 0 o.fa false false 0)
  | .vmvSc o => .vector (packV 186 o.vd.toNat 0 o.xb.toNat 0 0 0 o.m.km.toNat o.m.kp 0 false o.fb false 0)
  | .vmvIm o => .vector (packV 187 o.vd.toNat 0 0 0 0 0 o.m.km.toNat o.m.kp 0 false false false o.imm.toNat)
  | .vmvxs o => .vector (packV 188 o.xd.toNat o.va.toNat 0 0 o.ma.toNat 0 0 false 0 o.fa false false 0)
  | .vmvsx o => .vector (packV 189 o.vd.toNat o.xa.toNat 0 0 0 0 0 false 0 o.fa false false 0)
  | .vld o => .vector (packV 192 o.vd.toNat o.xa.toNat 0 0 0 0 o.m.km.toNat o.m.kp (clsFn o.cls) o.fa false (clsDc o.cls) 0)
  | .vlds o => .vector (packV 193 o.vd.toNat o.xa.toNat o.xb.toNat 0 0 0 o.m.km.toNat o.m.kp (clsFn o.cls) o.fa o.fb (clsDc o.cls) 0)
  | .vldx o => .vector (packV 194 o.vd.toNat o.xa.toNat o.vb.toNat 0 0 o.mb.toNat o.m.km.toNat o.m.kp (clsFn o.cls) o.fa o.fb (clsDc o.cls) o.sc.toNat)
  | .vldff o => .vector (packV 195 o.vd.toNat o.xa.toNat 0 0 0 0 o.m.km.toNat o.m.kp (clsFn o.cls) o.fa false (clsDc o.cls) 0)
  | .vldseg o => .vector (packV 196 o.vd.toNat o.xa.toNat o.xb.toNat 0 0 0 o.m.km.toNat o.m.kp (clsFn o.cls) o.fa o.fb (clsDc o.cls) (o.nf.toNat + 8 * o.fw.toNat + 32 * b2n o.ext))
  | .vst o => .vector (packV 200 o.vd.toNat o.xa.toNat 0 0 0 0 o.m.km.toNat o.m.kp (clsFn o.cls) o.fa false (clsDc o.cls) 0)
  | .vsts o => .vector (packV 201 o.vd.toNat o.xa.toNat o.xb.toNat 0 0 0 o.m.km.toNat o.m.kp (clsFn o.cls) o.fa o.fb (clsDc o.cls) 0)
  | .vstx o => .vector (packV 202 o.vd.toNat o.xa.toNat o.vb.toNat 0 0 o.mb.toNat o.m.km.toNat o.m.kp (clsFn o.cls) o.fa o.fb (clsDc o.cls) o.sc.toNat)
  | .vstseg o => .vector (packV 203 o.vd.toNat o.xa.toNat o.xb.toNat 0 0 0 o.m.km.toNat o.m.kp (clsFn o.cls) o.fa o.fb (clsDc o.cls) (o.nf.toNat + 8 * o.fw.toNat + 32 * b2n o.ext))
  | .vaadd o => .vector (packV 208 o.vd.toNat o.xa.toNat o.vb.toNat o.vc.toNat 0 o.mb.toNat o.m.km.toNat o.m.kp (clsFn o.cls) o.fa o.fb (clsDc o.cls) o.sc.toNat)
  | .vaand o => .vector (packV 209 o.vd.toNat o.xa.toNat o.vb.toNat o.vc.toNat 0 o.mb.toNat o.m.km.toNat o.m.kp (clsFn o.cls) o.fa o.fb (clsDc o.cls) o.sc.toNat)
  | .vaor o => .vector (packV 210 o.vd.toNat o.xa.toNat o.vb.toNat o.vc.toNat 0 o.mb.toNat o.m.km.toNat o.m.kp (clsFn o.cls) o.fa o.fb (clsDc o.cls) o.sc.toNat)
  | .vaxor o => .vector (packV 211 o.vd.toNat o.xa.toNat o.vb.toNat o.vc.toNat 0 o.mb.toNat o.m.km.toNat o.m.kp (clsFn o.cls) o.fa o.fb (clsDc o.cls) o.sc.toNat)
  | .vamin o => .vector (packV 212 o.vd.toNat o.xa.toNat o.vb.toNat o.vc.toNat 0 o.mb.toNat o.m.km.toNat o.m.kp (clsFn o.cls) o.fa o.fb (clsDc o.cls) o.sc.toNat)
  | .vamax o => .vector (packV 213 o.vd.toNat o.xa.toNat o.vb.toNat o.vc.toNat 0 o.mb.toNat o.m.km.toNat o.m.kp (clsFn o.cls) o.fa o.fb (clsDc o.cls) o.sc.toNat)
  | .vaswap o => .vector (packV 214 o.vd.toNat o.xa.toNat o.vb.toNat o.vc.toNat 0 o.mb.toNat o.m.km.toNat o.m.kp (clsFn o.cls) o.fa o.fb (clsDc o.cls) o.sc.toNat)
  | .vacas o => .vector (packV 215 o.vd.toNat o.xa.toNat o.vb.toNat o.vc.toNat 0 o.mb.toNat o.m.km.toNat o.m.kp (clsFn o.cls) o.fa o.fb (clsDc o.cls) o.sc.toNat)
  | .mprec xa fa => .vector (packV 224 0 xa.toNat 0 0 0 0 0 false 0 fa false false 0)
  | .mclaim => .vector (packV 225 0 0 0 0 0 0 0 false 0 false false false 0)
  | .mrel => .vector (packV 226 0 0 0 0 0 0 0 false 0 false false false 0)
  | .mldb o => .vector (packV 227 0 o.xa.toNat 0 0 0 0 0 false (clsFn o.cls) o.fa false (clsDc o.cls) o.slot.toNat)
  | .mzero => .vector (packV 228 0 0 0 0 0 0 0 false 0 false false false 0)
  | .mma o => .vector (packV 229 0 o.va.toNat 0 0 0 0 0 false 0 o.fa false false o.slot.toNat)
  | .mmaf o => .vector (packV 230 0 o.va.toNat 0 0 0 0 0 false 0 o.fa false false o.slot.toNat)
  | .mmat o => .vector (packV 231 0 o.va.toNat 0 0 0 0 0 false 0 o.fa false false o.slot.toNat)
  | .mscale o => .vector (packV 232 0 o.va.toNat o.vb.toNat 0 0 0 0 false 0 o.fa o.fb false (b2n o.src + 2 * b2n o.sfmt))
  | .mcvt o => .vector (packV 233 o.vd.toNat 0 0 0 0 0 0 false 0 false false false (o.ofmt.toNat + 16 * o.n.toNat))
  | .endOp => .micro (0 * 134217728)
  | .rcpy o => .micro (1 * 134217728 + o.dst.toNat * 262144 + o.src.toNat * 512)
  | .tra o => .micro (2 * 134217728 + o.dst.toNat * 262144 + o.ta.toNat * 16384 + o.tb.toNat * 1024 + o.tc.toNat * 64)
  | .tran o => .micro (3 * 134217728 + o.dst.toNat * 262144 + o.ta.toNat * 16384 + o.tb.toNat * 1024 + o.tc.toNat * 64)
  | .negr o => .micro (4 * 134217728 + o.dst.toNat * 262144 + o.src.toNat * 512)
  | .shl o => .micro (5 * 134217728 + o.dst.toNat * 262144 + o.src.toNat * 512 + o.k.toNat * 32)
  | .shr o => .micro (6 * 134217728 + o.dst.toNat * 262144 + o.src.toNat * 512 + o.k.toNat * 32)
  | .clr dst => .micro (7 * 134217728 + dst.toNat * 262144)
  | .set dst => .micro (8 * 134217728 + dst.toNat * 262144)
  | .seal dst => .micro (9 * 134217728 + dst.toNat * 262144)
  | .brd o => .micro (10 * 134217728 + o.dst.toNat * 262144 + o.ksel.toNat * 65536 + b2n o.x * 32768 + o.off.toNat * 1024)
  | .loopc o => .micro (11 * 134217728 + b2n o.n * 67108864 + o.inc.toNat * 16777216 + o.rst.toNat * 4194304 + o.target.toNat)
  | .brz o => .micro (12 * 134217728 + o.row.toNat * 262144 + o.flg.toNat * 32768 + o.target.toNat)
  | .yield => .micro (13 * 134217728)
  | .sync => .micro (14 * 134217728)
  | .unassignedEncoding _ => .none
  | .hselDone _ => .none
  | .dramBelow85c _ => .none

/-! ### The decoder -/

/-- Accepts a candidate for the word whose code is `c`: its operands obey the field rules and it encodes back to that word. -/
def accept (c : Code) (x : Decoded) : Decoded :=
  match x with
  | .error r => .error r
  | .ok i => if !i.wf then .error .fieldRule else if encode i = c then .ok i else .error .unusedBit

/-- The scalar instruction of a 32-bit word (R161, R164). -/
def decodeScalar (w : Nat) : Decoded := accept (.scalar w) (candScalar w)

/-- The vector or matrix instruction of a 64-bit word (R162, R164). -/
def decodeVector (w : Nat) : Decoded := accept (.vector w) (candVector w)

/-- The micro-op of a 32-bit word of a microprogram (R160). -/
def decodeMicro (w : Nat) : Decoded := accept (.micro w) (candMicro w)

/-- A word as the machine lays it out: `n` bytes, least significant first (R2). -/
def wordBytes : Nat → Nat → List Byte
  | 0, _ => []
  | n + 1, w => bv 8 (w % 256) :: wordBytes n (w / 256)

/-- The word of bytes stored least significant first (R2). -/
def bytesWord : List Byte → Nat
  | [] => 0
  | b :: bs => b.toNat + 256 * bytesWord bs

/-- The instruction this decoder reads from an instruction of the opcode table's numbering: vector words are 64 bits; a 32-bit word is
read as the scalar stream reads it, and as a micro-op where no scalar word is assigned. Rows without an encoding answer none. -/
def decodeTableWord (nbits w : Nat) : Option Instr :=
  if nbits = 32 then
    let v := bytesWord (wordBytes 4 w)
    match decodeScalar v with
    | .ok i => some i
    | .error _ => (decodeMicro v).toOption
  else if nbits = 64 then (decodeVector (bytesWord (wordBytes 8 w))).toOption
  else none

end

end Sys2Proof
end

