-- ==== Sys2Proof/Machine/Bits.lean ====
section
/-! DEFINITION. Bit-field, sign-extension and byte helpers over numbers (R2 to R6). -/
namespace Sys2Proof.Machine

/-- sext(v, w): the low `w` bits of `v` read as two's complement (R4). -/
def sx (w v : Nat) : Int :=
  let u := v % 2 ^ w
  if w = 0 then 0 else if u < 2 ^ (w - 1) then (u : Int) else (u : Int) - (2 ^ w : Nat)

/-- trunc(v, w) of an integer: its low `w` bits as a number (R4). -/
def tr (w : Nat) (v : Int) : Nat := (v % ((2 ^ w : Nat) : Int)).toNat

/-- A 64-bit word from an integer (trunc(v, 64)). -/
def wI (v : Int) : Word := BitVec.ofInt 64 v

/-- A 64-bit word from a number. -/
def wN (v : Nat) : Word := BitVec.ofNat 64 v

/-- Bit `i` of a number. -/
def bitN (v i : Nat) : Bool := v / 2 ^ i % 2 == 1

/-- Replaces the `n`-bit field at `lo` of `w` by the low bits of `v`. -/
def putFld (w lo n v : Nat) : Nat := w - fld w lo n * 2 ^ lo + v % 2 ^ n * 2 ^ lo

/-- The element of `w` bits with index `i` of a bit string (R131). -/
def elemN (s w i : Nat) : Nat := fld s (w * i) w

/-- Quotient rounded up. -/
def cdiv (a b : Nat) : Nat := (a + b - 1) / b

/-- floor(log2 v), 0 for v = 0. -/
def log2N (v : Nat) : Nat := Nat.log2 v

/-- The number of 1 bits among the lowest `n` bits. -/
def popN (v : Nat) : Nat → Nat
  | 0 => 0
  | n + 1 => popN v n + b2n (bitN v n)

/-- Bytes as a number, and a number as bytes (R2). -/
def bytesOf (n v : Nat) : List Byte := wordBytes n v

/-- The numbers 0 to n - 1. -/
abbrev upto (n : Nat) : List Nat := List.range n

/-- The first number of `l` that meets `p`. -/
def firstOf (l : List Nat) (p : Nat → Bool) : Option Nat := l.find? p

/-- Integer rounding mode codes of RMODE (R138): 0 RNE, 1 RDN, 2 RUP, 3 RTZ. `rshr` of R140. -/
def rshr (x : Int) (s : Nat) (m : Nat) : Int :=
  let p : Int := (2 ^ s : Nat)
  let q := x / p
  let f := x - q * p
  if f = 0 then q
  else if m = 0 then (if 2 * f > p ∨ (2 * f = p ∧ q % 2 = 1) then q + 1 else q)
  else if m = 3 then (if x < 0 then q + 1 else q)
  else if m = 1 then q
  else q + 1

/-- sat(x, w) of R140. -/
def satI (x : Int) (w : Nat) : Int := min (max x (-(2 ^ (w - 1) : Nat))) ((2 ^ (w - 1) : Nat) - 1)

/-- usat(x, w) of R140. -/
def usatI (x : Int) (w : Nat) : Int := min (max x 0) ((2 ^ w : Nat) - 1)

/-- The quotient toward zero of R178; division by zero gives −1. -/
def divT (a b : Int) : Int := if b = 0 then -1 else Int.tdiv a b

/-- The remainder with the sign of the dividend; by zero, the dividend. -/
def remT (a b : Int) : Int := if b = 0 then a else Int.tmod a b

end Sys2Proof.Machine
end

