-- ==== Sys2Proof/Machine/Tbl.lean ====
section
/-! DEFINITION. Tables: sparse data by number, in one canonical form, and memory as the table of bytes.

A table lists (number, value) pairs with strictly rising numbers and lists no pair whose value is the default. -/
namespace Sys2Proof.Machine

/-- Sparse data by number. -/
abbrev Tbl (α : Type) := List (Nat × α)

/-- The value at `k`; a number that is not listed holds the default `d`. -/
def tget {α : Type} (d : α) : Tbl α → Nat → α
  | [], _ => d
  | p :: t, k => if p.1 = k then p.2 else tget d t k

/-- Puts `v` at `k`, keeping the numbers in rising order. -/
def tins {α : Type} (k : Nat) (v : α) : Tbl α → Tbl α
  | [] => [(k, v)]
  | p :: t => if k < p.1 then (k, v) :: p :: t else if p.1 = k then (k, v) :: t else p :: tins k v t

/-- Removes number `k`. -/
def tdel {α : Type} (k : Nat) : Tbl α → Tbl α
  | [] => []
  | p :: t => if p.1 = k then tdel k t else p :: tdel k t

/-- Writes `v` at `k`; writing the default removes the entry. -/
def tset {α : Type} [DecidableEq α] (d : α) (t : Tbl α) (k : Nat) (v : α) : Tbl α :=
  if v = d then tdel k t else tins k v t

/-- Changes the value at `k` by `f`. -/
def tupd {α : Type} [DecidableEq α] (d : α) (t : Tbl α) (k : Nat) (f : α → α) : Tbl α := tset d t k (f (tget d t k))

/-- The canonical form: rising numbers, no default listed. -/
abbrev Tbl.Wf {α : Type} (d : α) (t : Tbl α) : Prop :=
  (t.map Prod.fst).Pairwise (· < ·) ∧ ∀ p ∈ t, p.2 ≠ d

/-! ### Memory: bytes by physical address (R2, R25 to R27) -/

/-- What a byte that nothing has written reads as: 0 (log 5; R331 gives 0 for the scratchpads). -/
def memDefault : Byte := 0

/-- The byte at physical address `a`. -/
def mget (m : List Host.Cell) (a : Nat) : Byte := tget memDefault m a

/-- Writes one byte. -/
def mput (m : List Host.Cell) (a : Nat) (b : Byte) : List Host.Cell := tset memDefault m a b

/-- The `n` bytes at `a` as a number, least significant byte first (R2). -/
def bytesAt (m : List Host.Cell) (a : Nat) : Nat → Nat
  | 0 => 0
  | n + 1 => (mget m a).toNat + 256 * bytesAt m (a + 1) n

/-- `bytesAt`, looking only at the cells of those bytes. -/
def mread (m : List Host.Cell) (a n : Nat) : Nat := bytesAt (m.filter (fun c => a ≤ c.1 ∧ c.1 < a + n)) a n

/-- The bytes of `v` from address `a` on that are not 0, as cells. -/
def cellsOf (a : Nat) : Nat → Nat → List Host.Cell
  | 0, _ => []
  | n + 1, v => if v % 256 = 0 then cellsOf (a + 1) n (v / 256) else (a, BitVec.ofNat 8 (v % 256)) :: cellsOf (a + 1) n (v / 256)

/-- The cells of `n` bytes from `a` on, as a number: `bytesAt` in one pass over a canonical memory. -/
def mreadFast (m : List Host.Cell) (a n : Nat) : Nat :=
  m.foldl (fun acc c => if a ≤ c.1 ∧ c.1 < a + n then acc + c.2.toNat * 256 ^ (c.1 - a) else acc) 0

/-- Writes the low `n` bytes of `v` at `a`, least significant byte first (R2). -/
def mwrite (m : List Host.Cell) (a n v : Nat) : List Host.Cell :=
  m.filter (fun c => c.1 < a) ++ cellsOf a n v ++ m.filter (fun c => a + n ≤ c.1)

/-- Memory in canonical form. -/
abbrev Memory.wf (m : List Host.Cell) : Prop := Tbl.Wf memDefault m

end Sys2Proof.Machine
end

