-- ==== Sys2Proof/Machine/State.lean ====
section
/-! DEFINITION. The state of an S1 module as plain data, and the state at the release of reset.

Every structure names the rules that give its fields. Fields marked "model" are this model's own (log entries 1 to 4).
Registers whose reset value the spec does not give hold the value that log entry 6 names. -/
namespace Sys2Proof.Machine

/-- Why a step stops with a fault. -/
inductive Fault where
  /-- A step was asked of a module that has stopped (R336, R416): every agent is off and only reset recovers it. Raised by `step`
  alone; safe, since the hardware does nothing either. -/
  | stopped
  deriving DecidableEq, Repr

/-- Why a step has no meaning. -/
inductive Refusal where
  /-- An instruction whose meaning is not written. Raised by no arm of `exec` in this model; safe. -/
  | notModelled (mnemonic : String)
  deriving DecidableEq, Repr

/-! ### Faults and marks -/

/-- A fault record before it is packed into FREC0 to FREC3 (R347), with the ESTART it sets. -/
structure FRec where
  code : Nat := 0
  cls : Nat := 0
  vec : Bool := false
  bpr : Bool := false
  aux : Nat := 0
  reg : Nat := 0
  vqpos : Nat := 0
  vqn : Nat := 0
  slot : Nat := 0
  origin : Nat := 0
  addr : Nat := 0
  index : Nat := 0
  stack : Nat := 0
  okind : Nat := 0
  estart : Nat := 0
  deriving DecidableEq, Repr

/-- A waiting fault of class D or A (R349): its record and the serial number of the instruction charged, or of its arrival. -/
structure PFault where
  fr : FRec
  ord : Nat
  deriving DecidableEq, Repr

/-- A completion mark (R278). -/
structure Mark where
  count : Nat := 0
  prom : Nat := 0
  err : Nat := 0
  flg : Nat := 0
  deriving DecidableEq, Repr

/-! ### Accesses -/

/-- Where an access goes: a byte of this module by PA, or the remote aperture (R313). -/
inductive Target where
  | loc (pa : Nat)
  | rem (mod : Nat) (ctl : Bool) (off : Nat)
  deriving DecidableEq, Repr

/-- What an access does. -/
inductive AccKind where
  | load
  | store
  | atomic
  | barInit
  | barArrive
  | barWait
  /-- The checks of an access at a remote module: of a vector element before any element of its word performs (R364), or of a store that enters the strip
  store buffer (R361). `op` is 8 for a load, 9 for a store, else the atomic. -/
  | probe
  deriving DecidableEq, Repr

/-- An access issued and not yet performed (R110, R61). `id` is its place in program order, `ser` its own serial number. -/
structure Access where
  id : Nat
  ser : Nat := 0
  vlc : Nat
  kind : AccKind
  op : Nat := 0
  va : Nat := 0
  tgt : Target
  size : Nat
  cls : Nat
  dev : Bool := false
  cc : Bool := false
  data : Nat := 0
  cmp : Nat := 0
  reg : Nat := 0
  sgn : Bool := false
  origin : Nat := 0
  /-- Destination element of a gather-atomic: register, element; for a probe, its key. -/
  vdst : Option (Nat × Nat) := none
  /-- EPOCH sampled at the home (R109). -/
  e0 : Option Nat := none
  /-- CYC by which a remote access completes (R308). -/
  due : Nat := 0
  /-- Whether its missed promise has been reported (R405). -/
  missed : Bool := false
  /-- Whether its strip has been rewound or its context has ended, so that its result is dropped (R352). -/
  dead : Bool := false
  /-- Bytes of a load found in the strip store buffer at issue, and which bytes they are (R57, R115). -/
  fwd : Nat := 0
  fmask : Nat := 0
  /-- No target check is made as it performs: a load of the context's own argument block (R49), or a check made before (R361, R364). -/
  chk : Bool := false
  /-- A store of a flushed buffer that follows one to another module: every later access of its VLC waits for it (R115). -/
  seqd : Bool := false
  /-- For an access to another module, the VI whose space it names there and the link by which it leaves (R310, R312). -/
  rvi : Nat := 0
  link : Nat := 0
  /-- The PA that its checks found at that module, where they have been made (R361, R370). -/
  rpa : Option Nat := none
  /-- A younger access of its VLC to DEV memory has performed, so that it has not itself met DEV memory at its module (R81). -/
  plain : Bool := false
  /-- A store of a vector word that performs directly (R202). -/
  vec : Bool := false
  deriving DecidableEq, Repr

/-- A result on its way to an x register, or to a vector element (R175, R204). -/
structure Fill where
  vlc : Nat
  reg : Nat
  val : Nat
  vdst : Option (Nat × Nat) := none
  size : Nat := 8
  /-- A read-queue result; these fill in order (R63). -/
  rq : Bool := false
  deriving DecidableEq, Repr

/-- A store in a strip store buffer, or an element store of a vector word not yet retired (R57, R372). -/
structure Buf where
  id : Nat
  tgt : Target
  va : Nat
  size : Nat
  data : Nat
  cls : Nat
  dev : Bool := false
  cc : Bool := false
  /-- PC of a scalar store, block address of a vector one. -/
  origin : Nat := 0
  /-- The PA that its checks found at another module (R361). -/
  rpa : Option Nat := none
  deriving DecidableEq, Repr

/-! ### Vector instruction queue and recheck queue -/

/-- A vector word in a VIQ (R63): the word, its place, and what it read at entry (R158). -/
structure VEntry where
  id : Nat
  vlc : Nat
  instr : Instr
  word : Nat
  blk : Nat
  slot : Nat
  xa : Word := 0
  xb : Word := 0
  vl : Nat := 0
  sew : Nat := 0
  grp : Nat := 0
  rm : Nat := 0
  cls : Nat := 0
  /-- First element still to run of a word that has taken effect in part (R203). -/
  start : Nat := 0
  /-- Whether a vector breakpoint is to be skipped once (R356). -/
  bskip : Bool := false
  /-- A held word whose dword in the save area is no longer what was saved: it is decoded when it resumes (R355). -/
  raw : Bool := false
  /-- A word that reads its x registers when it resumes: it faulted at entry before reading them, or it was refetched. -/
  reread : Bool := false
  /-- What remote modules have answered, by element × 8 + field: to the checks, code + 1, the PA there and whether it is DEV memory; and to the loads, code + 1
  and data (R364). -/
  answers : Tbl (Nat × Nat × Bool) := []
  got : Tbl (Nat × Nat) := []
  /-- A held word that has resumed: no new word enters before it has executed (R348). -/
  resumed : Bool := false
  /-- Scope misses of the elements of a gather-atomic below its start (R106), and flags that its elements below its start have raised (R139, R373). -/
  smm : Nat := 0
  flags : Nat := 0
  deriving DecidableEq, Repr

/-- A word that has executed and waits for its recheck (R371): its entry and what retirement still does. -/
structure REntry where
  core : Nat
  e : VEntry
  flags : Nat := 0
  stores : List Buf := []
  atoms : List Access := []
  /-- SMM to be written when a gather-atomic completes (R106). -/
  smm : Option Nat := none
  /-- A fault to raise once the elements below it have been sent (R364). -/
  fault : Option FRec := none
  /-- The elements of its result. -/
  els : List Nat := []
  /-- What the word replaced: vector and mask registers, VL, accumulators and operand slots (R371, R373). -/
  undoV : Tbl VReg := []
  undoK : Tbl VReg := []
  undoE : Tbl Bool := []
  undoVl : Nat := 0
  undoC : Tbl (BitVec 32) := []
  undoB : Tbl (BitVec 49152) := []
  /-- The data delivered to a load: element, field, value. -/
  data : List (Nat × Nat × Nat) := []
  /-- The first result: vector and mask registers and VL after the word, and a read-queue value with its register. -/
  newV : Tbl VReg := []
  newK : Tbl VReg := []
  newVl : Nat := 0
  fill : Option (Nat × Nat) := none
  deriving DecidableEq, Repr

/-- A gather-atomic that has retired and whose results have not all returned (R106, R204, R391). -/
structure Gather where
  e : VEntry
  left : Nat
  smm : Option Nat := none
  fault : Option FRec := none
  /-- Whether a check stopped it before its last element, and the lowest element found with a data error (R364, R391). -/
  cut : Bool := false
  ue : Option Nat := none
  deriving DecidableEq, Repr

/-! ### Contexts -/

/-- What a VLC is doing. -/
inductive Status where
  /-- No instance. -/
  | free
  /-- An instance that may issue. -/
  | running
  /-- `fin` has executed; the instance waits for its marks (R60 step 4). -/
  | finishing
  /-- The instance ends on a fault (R352). -/
  | ending
  /-- Pre-emption in progress (R64). -/
  | draining
  /-- Restore in progress (R67). -/
  | restoring
  deriving DecidableEq, Repr

/-- Why an instance that runs does not issue (R61), beyond conditions that are re-tested at each attempt. -/
inductive Wait where
  | none
  /-- `vsetl` in its core's lane queue (R55). -/
  | lanes
  /-- `wfe`, until CYC `limit`; 0: without limit (R192). -/
  | event (limit : Nat)
  /-- `sleepc`, until CYC `target` (R193). -/
  | sleep (target : Nat)
  /-- An engine operation that is not yet accepted (R279). -/
  | engine (op : Nat)
  /-- A barrier instruction at the home (R298). -/
  | barrier (acc : Nat)
  /-- A token operation: 0 own, 1 lend, 2 ret, 3 split, 4 merge, 5 rshare, 6 rdrop, 7 tq; the entry, a second value, whether the
  drain has ended, and the destination register with its value (R97, R299). -/
  | token (op : Nat) (entry : Nat) (arg : Nat) (drained : Bool) (reg : Nat) (val : Nat)
  /-- `cpyk` until its operations have stopped: mask, count, destination (R293). -/
  | cancel (mask : Nat) (n : Nat) (reg : Nat)
  deriving DecidableEq, Repr

/-- A fence in force (R117, R118): accesses of the mask later than `id` wait for those earlier; `scope` 4 covers every target. -/
structure FenceRec where
  id : Nat
  mask : BitVec 16
  scope : Nat
  deriving DecidableEq, Repr

/-- A load that has performed before it issues: its VA, PA, size and class, and the value read (R116). -/
structure Early where
  va : Nat
  pa : Nat
  size : Nat
  cls : Nat
  val : Nat
  deriving DecidableEq, Repr

/-- One vector loop context (R50, R51, R52, R65, R167). -/
structure Vlc where
  status : Status := .free
  vi : Nat := 0
  seq : Nat := 0
  slotNo : Nat := 0
  agent : Nat := 0
  savep : Nat := 0
  msavep : Nat := 0
  resident : Bool := false
  pc : Word := 0
  x : Tbl Word := []
  empty : BitVec 32 := 0
  pend : BitVec 32 := 0
  sc : Word := 0
  sb : Word := 0
  prc : Word := 0
  ckm : BitVec 32 := 0
  vl : Nat := 0
  /-- VL as the last `vsetl` granted it (R363). -/
  vlGrant : Nat := 0
  vcfg : BitVec 4 := 0
  lanes : Bool := false
  sopen : Bool := false
  np : Bool := false
  sbfull : Bool := false
  devs : Bool := false
  estart : Word := 0
  ocdef : BitVec 4 := 0
  rmode : BitVec 2 := 0
  fflags : BitVec 6 := 0
  smm : Word := 0
  tvec : Word := 0
  epc : Word := 0
  frec : Tbl Word := []
  bpa : Tbl Word := []
  scPend : Option Word := none
  ckp : Tbl Word := []
  ckmask : BitVec 32 := 0
  spc : Word := 0
  cksb : Word := 0
  rwd : Bool := false
  /-- An error was consumed and the strip is to be rewound (R380, R381). -/
  rewind : Bool := false
  irrev : Bool := false
  event : Bool := false
  hnd : Bool := false
  hndAt : Nat := 0
  /-- EPC resumes at a word stopped by a breakpoint (R356). -/
  brk : Bool := false
  /-- A scalar word is not to be matched again, and its pc (R356). -/
  bskip : Bool := false
  bskipPc : Nat := 0
  /-- Vector-fetch position while a block feeds: block address and next slot (R63). -/
  feed : Option (Nat × Nat) := none
  /-- Behind a class V fault that waits, the feed cannot go on before its trap (R348; model). -/
  feedStop : Bool := false
  sbuf : List Buf := []
  /-- Held words (R348), oldest first. -/
  held : List VEntry := []
  /-- Block and slot of a `vbrk` that is fetched again at `tret` (R356). -/
  refetch : Option (Nat × Nat) := none
  marks : Tbl Mark := []
  wait : Wait := .none
  /-- A class S fault found at issue that waits for older vector words (R351), with its EPC. -/
  sfault : Option (FRec × Nat) := none
  /-- Class V faults (R348) waiting for their traps: more than one when a word that is removed faults behind another. -/
  vfaults : List PFault := []
  faults : List PFault := []
  /-- Faults that have not reached the VLC because 16 wait (R349). -/
  late : List PFault := []
  /-- The bit that a waiting `tflip` found first (R87). -/
  flip : Option Bool := none
  /-- Words fetched ahead of issue along the sequential path: VA, word, and the error met, 0 none, 1 corrected, 2 uncorrectable (R357). -/
  ahead : List (Nat × Nat × Nat) := []
  /-- Loads that have performed before they issue, in the order in which they performed (R116). -/
  early : List Early := []
  fences : List FenceRec := []
  v : Tbl VReg := []
  k : Tbl VReg := []
  /-- Gather-atomics under way. -/
  gath : List Gather := []
  /-- Empty vector elements, by register × 384 + byte (R204). -/
  vempty : Tbl Bool := []
  /-- Cost units of scalar and vector issue not yet reported (R302). -/
  cost : Nat := 0
  /-- The fault an ending instance ended on (R352). -/
  endRec : FRec := {}
  mheld : Bool := false
  mpend : Bool := false
  /-- Whether a restore has taken the row locks of the context, and then reloaded its state (R67). -/
  grouped : Bool := false
  loaded : Bool := false
  /-- A pre-emption has been requested while the context is restored (R301; model). -/
  recalled : Bool := false
  /-- CYC of the pre-emption request, whether a long command of the context ran then, and CYC at which its last issued command ended (R308). -/
  drainAt : Nat := 0
  drainLong : Bool := false
  cmdEnd : Nat := 0
  deriving DecidableEq, Repr

/-- One scalar core with its VIQ and its lanes (R55, R61, R63). -/
structure Core where
  /-- VLC slot of the last issuer of a scalar word; slot 0 is the first to issue (R61). -/
  last : Nat := 3
  holder : Option Nat := none
  queue : List Nat := []
  viq : List VEntry := []
  deriving DecidableEq, Repr

/-- A matrix slice (R236, R237). -/
structure Slice where
  holder : Option Nat := none
  queue : List Nat := []
  c : Tbl (BitVec 32) := []
  b : Tbl (BitVec 49152) := []
  prec : Word := 0x00080008
  mstat : Word := 0
  /-- The residue of each accumulator (R374). -/
  rho : Tbl (BitVec 2) := []
  /-- An error that strikes the integer datapath of the next `mma` or `mmat` (R375; model input): place (0 the exact sum, 1 the main shifter, 2 the final
  adder), accumulator, and what it adds. -/
  slip : Option (Nat × Nat × Int) := none
  deriving DecidableEq, Repr

/-- An entry of an unsealed-row table (R266, R376): the frame, the map U, the seal history H, the two residue planes and the CYC
of the last write. -/
structure Unsealed where
  frame : Nat
  u : BitVec 256
  h : BitVec 256 := 0
  r0 : Row := 0
  r1 : Row := 0
  touched : Nat := 0
  deriving DecidableEq, Repr

/-- One vault complex (R19, R53, R266, R371). -/
structure Vault where
  lpr : Nat := 2
  rq : List REntry := []
  slice : Slice := {}
  unsealed : List Unsealed := []
  /-- CYC + 1 at which core 1 last wrote LPR, and last requested the claim: core 0 comes first in a cycle (R168, R237; model). -/
  lprAt : Nat := 0
  claimAt : Nat := 0
  deriving DecidableEq, Repr

/-! ### Stack blocks -/

/-- A microprogram slot (R276). -/
structure Slot where
  valid : Bool := false
  vi : Nat := 0
  words : List Nat := []
  mask : Nat := 0
  use : Nat := 0
  deriving DecidableEq, Repr

/-- One stack: frame limit of R335, the over-85 °C flag (R336), rotation of its threads (R256). -/
structure Stack where
  limit : Nat := 8
  hot : Bool := false
  slots : Tbl Slot := []
  /-- Threads whose last step was a check, so that acceptance is next. -/
  turn : Tbl Bool := []
  deriving DecidableEq, Repr

/-- A token table entry (R92); BASE and PAGES in pages. -/
structure Tok where
  kind : Nat := 0
  suspect : Bool := false
  shares : Nat := 0
  parent : Nat := 0
  base : Nat := 0
  pages : Nat := 0
  owner : Nat := 0
  lender : Nat := 0
  /-- The serial number at which SUSPECT was last set (R402; model). -/
  since : Nat := 0
  deriving DecidableEq, Repr

/-- A capability handle (R101); BASE in pages. -/
structure Handle where
  v : Bool := false
  rd : Bool := false
  wr : Bool := false
  nb : Bool := false
  vi : Nat := 0
  base : Nat := 0
  pages : Nat := 0
  token : Nat := 0
  deriving DecidableEq, Repr

/-- A scratchpad tile: owner bit and engine use count (R85, R87). -/
structure Tile where
  own : Bool := false
  use : Nat := 0
  deriving DecidableEq, Repr

/-- A translation held in a translation buffer (R75): VI, first VA, size, leaf entry; for a 32 GiB group its 32 entries (R74). -/
structure TlbE where
  vi : Nat
  base : Nat
  size : Nat
  leaf : Nat
  group : List Nat := []
  deriving DecidableEq, Repr

/-- A condition of a 64-bit word under SEC-DED (R14, R377, R391); a word not listed is good. -/
inductive Ecc where
  | good
  | single
  | bad
  deriving DecidableEq, Repr

/-! ### Near-bank commands and locks -/

/-- What holds banks or is answered: the near-bank commands (R270), poisoning and automatic seals. -/
inductive CmdKind where
  | bkx
  | seal
  | lock
  | load
  | inv
  | st
  | clone
  | red
  /-- No command: the poisoning of a frame, which holds its banks as a command does (R377). -/
  | poison
  /-- No command: rows that a vault complex seals on its own initiative, as a command would (R393). -/
  | autoSeal
  deriving DecidableEq, Repr

/-- Stages of a command (R256 to R258). -/
inductive CmdStage where
  | sent
  | queued
  | running
  | ended
  | withdrawn
  deriving DecidableEq, Repr

/-- A near-bank command (R254, R256, R260, R263). -/
structure Cmd where
  id : Nat
  vlc : Nat
  agent : Nat
  vi : Nat
  kind : CmdKind
  stage : CmdStage := .sent
  stack : Nat
  homeVault : Nat := 0
  va : Nat := 0
  pa : Nat := 0
  xa : Nat := 0
  xb : Nat := 0
  reg : Nat := 0
  origin : Nat := 0
  /-- The eight dwords of the block, read at acceptance (R257). -/
  block : List Nat := []
  /-- The words and the use mask of its slot when it is issued, or the words a load brings (R258, R276). -/
  words : List Nat := []
  mask : Nat := 0
  /-- Acceptance order, and the thread that accepted it (R256). -/
  ord : Nat := 0
  thread : Nat := 0
  /-- Bases of its frames (R255). -/
  frames : List Nat := []
  upc : Nat := 0
  lc0 : Nat := 0
  lc1 : Nat := 0
  i0 : Nat := 0
  i1 : Nat := 0
  rc : Nat := 0
  quantum : Nat := 0
  /-- rc at the last row write (R267); the banks that have served an access in the present step of the boundary under way, whether that step is step 3, and
  the serial number from which accesses arrived during step 2 (R264). -/
  last : Nat := 0
  served : List Nat := []
  third : Bool := false
  since : Nat := 0
  /-- The banks whose slot for walk reads has served one in step 1 of the boundary under way (R32, R398). -/
  walked : List Nat := []
  /-- The banks at which an access of the host waited at step 1 (R264). -/
  cxl : List Nat := []
  /-- Use number of the free values of its compute rows (R15; log 4). -/
  free : Nat := 0
  flags : Nat := 0
  /-- Whether a quantum boundary must run before the next micro-op (R263). -/
  boundary : Bool := false
  /-- C rows written, for the sealing pass; rows still to seal, copy or sum. -/
  written : BitVec 256 := 0
  todo : List Nat := []
  sealing : Bool := false
  ended : Bool := false
  /-- Worst-case run in rc (R306), and the CYC of issue. -/
  worst : Nat := 0
  issued : Nat := 0
  /-- What the response fills, or the rejection. -/
  result : Nat := 0
  tiles : List Nat := []
  dropped : Bool := false
  /-- `bkred` has read an uncorrectable word (R391). -/
  ue : Bool := false
  deriving DecidableEq, Repr

/-- A row lock, granted or requested (R268, R269). -/
structure Lock where
  id : Nat
  vlc : Nat
  agent : Nat
  num : Nat
  stack : Nat
  frame : Nat
  row0 : Nat
  count : Nat
  desc : Nat
  granted : Bool := false
  /-- CYC at which the lease runs out when granted; length in cycles when pending. -/
  until_ : Nat
  cmd : Nat := 0
  /-- Whether the request has passed its checks and waits at the lock table, and its arrival (R268, R369). -/
  queued : Bool := false
  arr : Nat := 0
  deriving DecidableEq, Repr

/-! ### Accesses of the host -/

/-- A CXL.mem request that a decoder has claimed and that has not performed (R320, R321, R396): its bytes for a write. -/
structure HostReq where
  id : Nat
  port : Nat
  vi : Nat
  va : Nat
  size : Nat
  data : Option (List Byte) := none
  tag : Nat
  /-- CYC of its arrival. -/
  arr : Nat
  deriving DecidableEq, Repr

/-! ### What waits at banks (R263, R264, R268, R395 to R398) -/

/-- What waits at a bank: an access in flight, a vector word, the stores of a word that retires, the scalar word at a pc, an engine operation,
a request of the host or of a peer, a launch's own access, the preload of a vault, or the leaf controller on behalf of a VLC. -/
inductive Waiter where
  | acc (ser : Nat)
  | word (vlc id : Nat)
  | retire (vlc id : Nat)
  | scalar (vlc pc : Nat)
  | op (id : Nat)
  | host (id : Nat)
  | peer (id : Nat)
  | root (vi seq : Nat)
  | preload (vault : Nat)
  | area (vlc : Nat)
  deriving DecidableEq, Repr

/-- One that waits: since when, by serial number, as which agent, at which PAs for its accesses, and at which for reads of page tables. -/
structure Waiting where
  who : Waiter
  arr : Nat
  agent : Nat
  pas : List Nat
  walk : List Nat := []
  deriving DecidableEq, Repr

/-- What a peer has asked for that waits at a bank here: an access, the check of a copy with its credit, or a chunk of a copy (R292, R314). -/
inductive PeerAsk where
  | access (r : RemoteReq)
  | check (r : RemoteCheck)
  | write (r : RemoteChunk)
  deriving DecidableEq, Repr

/-- Such a request with its serial number. -/
structure PeerReq where
  id : Nat
  ask : PeerAsk
  deriving DecidableEq, Repr

/-! ### Copy operations -/

/-- The engine operations (R279). -/
inductive OpKind where
  | cpy
  | cpyg
  | cpyr
  | tmv
  deriving DecidableEq, Repr

/-- An operation of a copy engine, waiting or accepted (R279, R290). -/
structure Op where
  id : Nat
  vlc : Nat
  agent : Nat
  vi : Nat
  /-- SEQ of the launch of the instance that issued it. -/
  seq : Nat := 0
  quad : Nat
  kind : OpKind
  mark : Nat
  rm : Nat := 0
  reg : Nat := 0
  origin : Nat := 0
  va : Nat := 0
  pa : Nat := 0
  /-- The 32 dwords of the descriptor; for `tmv`, destination and source VA. -/
  desc : List Nat := []
  ret : Bool := false
  accepted : Bool := false
  prom : Nat := 0
  /-- Number of units; those that have not moved, as ranges; the unit from which the next chunk is taken (model input); data units moved, and destination
  bytes performed. -/
  total : Nat := 0
  left : List (Nat × Nat) := []
  from_ : Nat := 0
  done : Nat := 0
  moved : Nat := 0
  /-- Bytes performed whose debit has still to perform, and what the words that it has written held before (R285, R290). -/
  owed : Nat := 0
  old : Tbl (Option Nat) := []
  tiles : List Nat := []
  err : Nat := 0
  flg : Nat := 0
  bar : Option Nat := none
  /-- The serial number at its acceptance: it can clear a SUSPECT that was set before (R402). -/
  accAt : Nat := 0
  stopped : Bool := false
  dead : Bool := false
  /-- Whether its credit has performed (R108). -/
  credited : Bool := false
  /-- A remote copy: whether the receiver has been asked, its answer (0 accepts), chunks sent and acknowledged; with ROUTE = 1, whether the zero-length read
  has been sent, and its completion (R292). -/
  asked : Bool := false
  reply : Option Nat := none
  sentN : Nat := 0
  acked : Nat := 0
  /-- Runs of its next chunk whose comparison fails (R378; model input). -/
  bad : Nat := 0
  deriving DecidableEq, Repr

/-- A peer's copy that this module has accepted and that has not completed (R289, R292, R402): its descriptor, the tiles that it writes here, and the serial
number at acceptance. -/
structure Inbound where
  mod : Nat
  vi : Nat
  rvi : Nat
  tag : Nat
  desc : List Nat
  tiles : List Nat
  accAt : Nat
  deriving DecidableEq, Repr

/-! ### Virtual interfaces, launches, scheduler -/

/-- A submission port (R316): LPKT latch, receipts of (RCPT, RBOUND), RBOUND. -/
structure Port where
  lpkt : Tbl Byte := []
  fifo : List (Word × Word) := []
  rbound : Word := 0
  deriving DecidableEq, Repr

/-- One virtual interface (R34, R37, R70, R101, R102, R310, R353, R405). -/
structure Vi where
  host : Port := {}
  fab : Port := {}
  seq : Nat := 0
  troot : Word := 0
  tinv : List (Nat × Nat) := []
  /-- Memory as the last invalidations left it in effect for the walks of this space; none before the first (R75, R370). -/
  tview : Option (List Host.Cell) := none
  hsel : Word := 0x8000000000000000
  /-- The commit or fetch under way (R102): the entry, with the handle to be written by a commit. -/
  hjob : Option (Nat × Option Handle) := none
  hdat0 : Word := 0
  hdat1 : Word := 0
  vctl : Word := 0
  preld : Word := 0
  tkop : Word := 0
  tkres : Nat := 0
  /-- Whether the entry of a busy TKOP has changed (R97). -/
  tkDrained : Bool := false
  lflt : Word := 0
  lrec : Tbl Word := []
  pmiss : Nat := 0
  deficit : Int := 0
  cost : Nat := 0
  floor : Nat := 0
  quant : Nat := 1
  failed : Bool := false
  deriving DecidableEq, Repr

/-- A saved context with its locks, withdrawn commands and claim (R64, R65). -/
structure Saved where
  slotNo : Nat
  vlcNo : Nat
  ctx : Vlc
  locks : List Lock := []
  cmds : List Cmd := []
  slice : Option Slice := none
  lpr : Nat := 2
  deriving DecidableEq, Repr

/-- State of one slot of a launch (R46, R60). -/
inductive SlotState where
  | unplaced
  | waiting
  | running
  | done
  deriving DecidableEq, Repr

/-- A launch accepted by a VI (R35 to R48, R307). -/
structure Launch where
  vi : Nat
  seq : Nat
  /-- The eight dwords of the packet. -/
  pkt : List Nat
  /-- The sixteen dwords of the record, once read. -/
  recd : List Nat := []
  rel : Bool
  bound : Nat
  /-- CYC of the event from which a relative bound counts. -/
  ready : Option Nat
  /-- e0 of the BARV wait, once begun (R109). -/
  e0 : Option Nat := none
  barPa : Nat := 0
  /-- Whether that wait ended as it began, having found PEND = 0 (R109). -/
  passed : Bool := false
  started : Bool := false
  /-- Undealt range of each stack: lo, hi. -/
  undealt : Tbl (Nat × Nat) := []
  slots : List Nat := []
  state : Tbl SlotState := []
  ranges : Tbl (Nat × Nat) := []
  saved : List Saved := []
  /-- Vaults on which the record's LPR is still to be written (R54). -/
  lprTodo : List Nat := []
  fault : Option FRec := none
  /-- With level D0: the modules of the list, those that have reported DONE, and, of a launch submitted on another module, that module (R317). -/
  mods : List Nat := []
  modsDone : List Nat := []
  origin : Option Nat := none
  deriving DecidableEq, Repr

/-- A preload made and not yet used (R309, R358): launch, vault, tiles written (PA). -/
structure Preload where
  vi : Nat
  seq : Nat
  vault : Nat
  tiles : List Nat
  deriving DecidableEq, Repr

/-- A candidate of a VLC (R301): launch and slot. -/
structure Cand where
  vi : Nat
  seq : Nat
  slotNo : Nat
  deriving DecidableEq, Repr

/-- The messages of the command links (R300). -/
inductive Msg where
  | place (vlc : Nat) (c : Cand)
  | preempt (vlc : Nat)
  | preload (vault : Nat) (c : Cand)
  | deal (c : Cand) (range : Option (Nat × Nat))
  | dealreq (c : Cand)
  | stealreq (c : Cand)
  | done (vlc : Nat) (c : Cand)
  | cost (vi : Nat) (units : Nat)
  deriving DecidableEq, Repr

/-- One direction of a command link: messages sent and not acted on, permits held, acknowledgements owed. -/
structure Link where
  queue : List Msg := []
  permits : Nat := 8
  acks : Nat := 0
  deriving DecidableEq, Repr

/-- What the standby scheduler has of the last tick: the ranked candidates, the floor counts, the number of the tick, and of each VI the deficit and the units
reported (R415). -/
structure SchedCopy where
  ranks : Tbl (List Cand) := []
  floorK : Tbl Nat := []
  lastTick : Nat := 0
  vis : Tbl (Int × Nat) := []
  deriving DecidableEq, Repr

/-- The global scheduler (R300, R301, R303, R307, R415). -/
structure Sched where
  down : Tbl Link := []
  up : Tbl Link := []
  /-- Ranked candidates of each VLC from the last tick. -/
  ranks : Tbl (List Cand) := []
  preloads : List Preload := []
  active : Nat := 0
  /-- Whether the active scheduler has failed and the standby has not yet taken over, whether a standby works, and what it holds (R415, R416). -/
  failed : Bool := false
  standby : Bool := true
  copy : SchedCopy := {}
  /-- Placements that a leaf controller holds until their VLC is free (R301). -/
  pend : Tbl (Option Cand) := []
  /-- Slots placed on a VLC that wait there for their deal (R46). -/
  awaits : Tbl (Option Cand) := []
  /-- VLCs on which each VI with a floor had a candidate or a context at the last tick (R304, R308). -/
  floorK : Tbl Nat := []
  /-- Cost units not yet reported, by quad × 256 + VI (R302). -/
  leafCost : Tbl Nat := []
  /-- Number of the last tick. -/
  lastTick : Nat := 0
  /-- Messages waiting for a permit, by quad. -/
  waitDown : Tbl (List Msg) := []
  waitUp : Tbl (List Msg) := []
  deriving DecidableEq, Repr

/-! ### Management block, fabric, platform -/

/-- An entry of the error log (R388). -/
structure ElogE where
  d0 : Word
  d1 : Word
  d2 : Word
  d3 : Word
  deriving DecidableEq, Repr

/-- A checkpoint image (R410): what a restore brings back. -/
structure Image where
  mem : List Host.Cell
  ecc : Tbl Ecc
  tiles : Tbl Tile
  toks : Tbl Tok
  hands : Tbl Handle
  stackTbl : Tbl Stack
  lprs : Tbl Nat
  vis : Tbl Vi
  launches : List Launch
  sched : Sched
  cyc : Nat
  ser : Word
  /-- What says of which frames it holds records: the spare ranges, retired vaults, lost and relocated frames of its module (R410, R411). -/
  spare : Tbl Word := []
  retv : BitVec 192 := 0
  lost : List Nat := []
  redirect : Tbl Nat := []
  pinned : List Nat := []
  deriving DecidableEq, Repr

/-- An image where a checkpoint has streamed it, outside the module: the targets that hold its records, each with its number, MOD and BASE, and the use number
that says how the records were dealt to them (R410). -/
structure Stored where
  image : Image
  targets : List (Nat × Nat × Nat)
  use : Nat
  deriving DecidableEq, Repr

/-- The management block (R305, R322, R332, R384, R387, R389, R408, R410, R412). -/
structure Mgmt where
  modid : Nat := 0
  carve0 : Word := 0
  carve1 : Word := 0
  hdmb : Tbl Word := []
  route : Tbl Word := []
  scanEn : Bool := true
  scanInt : Nat := 600
  nextq : Nat := 0
  scanlog : Word := 0
  scan : Option Nat := none
  /-- CYC at which the next test falls due, and at which service mode was entered (R385). -/
  scanDue : Nat := 0
  scanFrom : Nat := 0
  ckstate : Nat := 0
  ckcode : Nat := 0
  ckdir : Bool := false
  ckser : Word := 0
  /-- CYC at which the checkpoint began, and CYC + 1 at which it was first seen to have quiesced (R409). -/
  ckAt : Nat := 0
  ckQuiet : Nat := 0
  /-- The images that the targets hold: they lie outside the module (R410, R411). -/
  stored : List Stored := []
  elogNext : Nat := 0
  elogLost : Nat := 0
  /-- Entries of the log that the host has not read (R387). -/
  elogUnread : BitVec 128 := 0
  elog : Tbl ElogE := []
  retq : BitVec 48 := 0
  retv : BitVec 192 := 0
  ce : Tbl Word := []
  spare : Tbl Word := []
  cktgt : Tbl Word := []
  deriving DecidableEq, Repr

/-- The Catric links and host links (R312, R400, R406, R407). -/
structure Fabric where
  linkup : BitVec 24 := 0
  retries : Tbl Nat := []
  /-- CYC since which a module is unreachable. -/
  downSince : Tbl Nat := []
  unreachable : List Nat := []
  /-- CYC until which the shares of each outgoing link, and of the CXL ports from 24 on, are reserved (R318). -/
  linkFree : Tbl Nat := []
  /-- Modules whose ROUTE entry was cleared, and the remote agents with tokens that had failed when their module could be reached again (R400). -/
  cleared : List Nat := []
  failed : List Nat := []
  deriving DecidableEq, Repr

/-- Repair and refresh state (R264, R390, R392, R395, R412, R414). -/
structure Repair where
  debt : Tbl Nat := []
  /-- CYC at which the refresh, or the sparing of a row, under way at a bank ends (R392, R395). -/
  busy : Tbl Nat := []
  defer : Tbl Nat := []
  /-- CYC at which the last refresh of each bank fell due (R395). -/
  refAt : Tbl Nat := []
  /-- CYC of the corrected errors of a row since it was last spared, those of the last 24 hours; no more are noted once there are four (R392). -/
  ceRow : Tbl (List Nat) := []
  spareUsed : Tbl Nat := []
  spared : List Nat := []
  /-- The spare frame to which a frame has been relocated, plus 1 (R412). -/
  redirect : Tbl Nat := []
  pinned : List Nat := []
  lost : List Nat := []
  /-- Context instances that have failed with their quad (R400, R413): agent, VI and SEQ of the launch. -/
  failed : List (Nat × Nat × Nat) := []
  deriving DecidableEq, Repr

/-- The answers of the SPDM responder (R330); contents that SPDM gives and this manual does not are numbers. -/
inductive SpdmReply where
  /-- VERSION: SPDM 1.3. -/
  | version (major minor : Nat)
  | capabilities (c : Nat)
  /-- ALGORITHMS: SHA3-512 and ML-DSA-87, and nothing else. -/
  | algorithms
  | digests (c : Nat)
  | certificate (c : Nat)
  /-- CHALLENGE_AUTH, signed with ML-DSA-87. -/
  | challengeAuth (c : Nat)
  /-- MEASUREMENTS 1 to 5 (R329). -/
  | measurements (m : List (BitVec 512))
  /-- ERROR with Busy. -/
  | busy
  /-- ERROR with UnsupportedRequest. -/
  | unsupported
  deriving DecidableEq, Repr

/-- What the module has sent to the outside: model outputs. -/
structure Out where
  /-- CXL.mem read data or poison, by tag (R320). -/
  reads : List (Nat × Option Nat) := []
  /-- Replies to remote modules, by tag: 0 or a fault code, data, and whether the access has met DEV memory here (R314). -/
  remote : List (Nat × Nat × Nat × Bool) := []
  /-- MSI-X signals: function and vector (R353, R388). -/
  msix : List (Nat × Nat) := []
  /-- SPDM answers by port (R330). -/
  spdm : List (Nat × SpdmReply) := []
  /-- Values that register reads returned to the host. -/
  regs : List Word := []
  /-- CXL.io writes of `cpyr` with ROUTE = 1: port, requester ID (the virtual function), address, size and value; and the zero-length reads that flush
  them: port, requester ID, address (R292, R319). -/
  cxlWrites : List (Nat × Nat × Nat × Nat × Nat) := []
  cxlFlush : List (Nat × Nat × Nat) := []
  /-- What checkpoints have written to their targets (true) and restores have read from them (R319, R410, R411). -/
  transfers : List (Bool × Stored) := []
  /-- What remote copies have sent: the checks asked for with their module and link, and the chunks with their module and the link of each write (R292,
  R312). -/
  checks : List (Nat × Nat × RemoteCheck) := []
  chunks : List (Nat × List Nat × RemoteChunk) := []
  /-- Launches with level D0 sent to the other modules of their list: module, VI, SEQ, packet; and the DONE of shares run for another module: that module,
  VI, SEQ (R317). -/
  launches : List (Nat × Nat × Nat × List Nat) := []
  dones : List (Nat × Nat × Nat) := []
  deriving DecidableEq, Repr

/-- Platform and security state (R325 to R336). -/
structure Plat where
  released : Bool := false
  stopped : Bool := false
  service : Bool := false
  code : Nat := 0
  err : Bool := false
  resDone : Bool := false
  mroot : Word := 0
  /-- Memory as the last write of MROOT left it in effect for the resident program's walks (R75, R332). -/
  mview : Option (List Host.Cell) := none
  svnKind : Nat := 0
  svnNew : Nat := 0
  svnState : Nat := 0
  svnMin : Tbl Nat := []
  /-- Measurements 1 to 5 (R329). -/
  meas : Tbl (BitVec 512) := []
  /-- The firmware images in the boot flash, by kind (R326), the retired quads and vaults kept there (R414), and the fused key hash (R327). -/
  flash : Tbl (List Byte) := []
  flashRetq : BitVec 48 := 0
  flashRetv : BitVec 192 := 0
  keyHash : BitVec 512 := 0
  /-- SVN of the images that run, by kind. -/
  runSvn : Tbl Nat := []
  /-- Stack of the active security core: 0, or 11 after a takeover. -/
  security : Nat := 0
  /-- What fails at start-up (model input): bit 0 the self-test of security core 0, bit 1 that of the standby, bit 3 phase 3, bit 5 phase 5. -/
  bootFault : Nat := 0
  /-- Ports that are answering a request (R330). -/
  doeBusy : Tbl Bool := []
  /-- Dwords of MBOX with CYC + 1 of the host's last write: loads of the same cycle come first (R333; model). -/
  mboxAt : Tbl Nat := []
  deriving DecidableEq, Repr

/-! ### The module -/

/-- A move: which agent acts next, or an input from outside (model; log 1). -/
inductive Move where
  /-- The VLC of this module number issues its next scalar word, or its block feeds one word. -/
  | vlc (n : Nat)
  /-- The core of this module number executes its oldest unexecuted vector word. -/
  | viq (core : Nat)
  /-- The running command executes its next micro-op. -/
  | micro (cmd : Nat)
  /-- A step of the device, the host or the environment. -/
  | event (i : Instr)
  /-- Cycles pass (R22). -/
  | tick (n : Nat)
  /-- The next stage of an ending, finishing, draining or restoring context. -/
  | settle (vlc : Nat)
  /-- The SEC-DED condition of the word at this PA changes: an error in the storage (R391). -/
  | ecc (pa : Nat) (c : Ecc)
  /-- One stored bit flips. -/
  | flip (pa : Nat) (bit : Nat)
  /-- An error strikes the integer datapath of a vault's matrix slice: place, accumulator, and what it adds (R375). -/
  | slip (vault stage acc : Nat) (err : Int)
  /-- A translation buffer takes, or drops, the translation of a VA (R75). -/
  | tlbFill (vi : Nat) (va : Nat)
  | tlbDrop (n : Nat)
  /-- A peer's answer to the remote access of this serial number: 0 and data, or a fault code; and whether it met DEV memory there. -/
  | reply (acc : Nat) (code : Nat) (data : Nat) (dev : Bool)
  /-- A peer's answer to the remote copy of this serial number: refusal code or acceptance, or a chunk acknowledged. -/
  | peer (op : Nat) (code : Nat)
  /-- A launch with level D0 arrives from the module it was submitted on, with its VI, SEQ and packet; a module of a list reports DONE (R317). -/
  | peerLaunch (mod vi seq : Nat) (pkt : List Nat)
  | peerDone (mod vi seq : Nat)
  /-- An engine takes the next chunk of an operation from a unit on (R290). -/
  | copyNext (op unit : Nat)
  /-- A core fetches the next 32-byte group of the sequential path of a VLC ahead of issue (R357). -/
  | fetchAhead (vlc : Nat)
  /-- A load of a VLC performs before it issues: VA, size, class (R116). -/
  | early (vlc va size cls : Nat)
  /-- The two datapaths of a copy engine disagree on the next chunk of an operation (R378). -/
  | copySlip (op : Nat)
  /-- A waiting access of the host performs (R320). -/
  | host (req : Nat)
  /-- A waiting request of a peer is served (R314). -/
  | peerReq (req : Nat)
  /-- A launch's own access that waits at a bank is made (R49, R263). -/
  | root (vi seq : Nat)
  /-- The active scheduler, or the standby, fails (R415); where no other works, the module stops (R416). -/
  | schedFail (standby : Bool)
  /-- The host resets the module (R416). -/
  | reset
  /-- Another module has streamed an image to targets that this one can read (R411, R416). -/
  | bringImage (x : Stored)
  /-- The host reads a register of the management block or of a VI (R34, R305). -/
  | regRead (mgmt : Bool) (vi : Nat) (off : Nat)
  deriving DecidableEq, Repr

/-- The state of the module. -/
structure State where
  agenda : List Move
  fresh : Nat
  nextId : Nat
  cur : Nat
  curCmd : Nat
  cyc : Nat
  plat : Plat
  mem : List Host.Cell
  ecc : Tbl Ecc
  /-- Rows t0 to t11, n0 and n1 that the running command of a subarray has written (R15). -/
  comp : Tbl (Option Row)
  tiles : Tbl Tile
  toks : Tbl Tok
  hands : Tbl Handle
  tlb : List TlbE
  vlcs : Tbl Vlc
  cores : Tbl Core
  vaults : Tbl Vault
  stackTbl : Tbl Stack
  net : List Access
  fills : List Fill
  cmds : List Cmd
  locks : List Lock
  ops : List Op
  vis : Tbl Vi
  launches : List Launch
  hostq : List HostReq
  peerq : List PeerReq
  inbound : List Inbound
  waits : List Waiting
  sched : Sched
  mgmt : Mgmt
  fabric : Fabric
  repair : Repair
  out : Out
  deriving DecidableEq, Repr

/-- The module at the release of reset (CYC = 0, R22), before the start-up phases of R325. -/
def State.reset : State :=
  { agenda := [], fresh := 0, nextId := 1, cur := 0, curCmd := 0, cyc := 0, plat := {}, mem := [], ecc := [], comp := [],
    tiles := [], toks := [], hands := [], tlb := [], vlcs := [], cores := [], vaults := [], stackTbl := [], net := [], fills := [],
    cmds := [], locks := [], ops := [], vis := [], launches := [], hostq := [], peerq := [], inbound := [], waits := [], sched := {}, mgmt := {}, fabric := {}, repair := {}, out := {} }

end Sys2Proof.Machine
end

