-- ==== Sys2Proof/Machine/Ops.lean ====
section
/-! DEFINITION. The named operations over contexts and registers: access to a VLC, x registers with their full/empty state, issue of a
scalar word, taking an exception and returning from one. -/
namespace Sys2Proof.Machine

/-- What a meaning answers. -/
abbrev Result := Host.Outcome State Fault Refusal

/-! ### Parts of the state by number (R12, R91) -/

/-- VLC of module number `n`. -/
def getVlc (s : State) (n : Nat) : Vlc := tget {} s.vlcs n

/-- Changes one VLC. -/
def updVlc (n : Nat) (f : Vlc → Vlc) (s : State) : State := { s with vlcs := tupd {} s.vlcs n f }

/-- The VLC whose word is executing. -/
def State.me (s : State) : Vlc := getVlc s s.cur

/-- Changes the VLC whose word is executing. -/
def updMe (f : Vlc → Vlc) (s : State) : State := updVlc s.cur f s

/-- Core, vault and stack of a VLC, and quad of a vault (R11, R12, R91). -/
def coreOf (n : Nat) : Nat := n / 4
def vaultOf (n : Nat) : Nat := n / 8
def stackOf (n : Nat) : Nat := n / 128
def quadInStack (v : Nat) : Nat := 2 * ((v % 16 / 4) / 2) + (v % 16 % 4) / 2
def quadOf (v : Nat) : Nat := 4 * (v / 16) + quadInStack v

/-- The hub vault of a module quad (R11). -/
def hubVault (q : Nat) : Nat := 16 * (q / 4) + (match q % 4 with | 0 => 5 | 1 => 6 | 2 => 9 | _ => 10)

def getCore (s : State) (c : Nat) : Core := tget {} s.cores c
def updCore (c : Nat) (f : Core → Core) (s : State) : State := { s with cores := tupd {} s.cores c f }
def getVault (s : State) (v : Nat) : Vault := tget {} s.vaults v
def updVault (v : Nat) (f : Vault → Vault) (s : State) : State := { s with vaults := tupd {} s.vaults v f }
def getStack (s : State) (k : Nat) : Stack := tget {} s.stackTbl k
def updStack (k : Nat) (f : Stack → Stack) (s : State) : State := { s with stackTbl := tupd {} s.stackTbl k f }
def getVi (s : State) (v : Nat) : Vi := tget {} s.vis v
def updVi (v : Nat) (f : Vi → Vi) (s : State) : State := { s with vis := tupd {} s.vis v f }

/-- A fresh serial number: places in program order and arrival orders are compared by it (log 1). -/
def bump (s : State) : State := { s with nextId := s.nextId + 1 }

/-- The next free value (log 4). -/
def takeFree (s : State) : Word × State := (Config.freeWord s.fresh, { s with fresh := s.fresh + 1 })

/-! ### Lanes (R53) -/

/-- Lanes of core `c` (0 or 1) under PART `p` (R53). -/
def lanesOf (p c : Nat) : Nat :=
  let a := match p with | 0 => 16 | 1 => 12 | 2 => 8 | 3 => 4 | _ => 0
  if c = 0 then a else 16 - a

/-- VLEN of the core of VLC `n`: 192 bits a lane (R53). -/
def vlenOf (s : State) (n : Nat) : Nat := 192 * lanesOf (getVault s (vaultOf n)).lpr (coreOf n % 2)

/-! ### x registers (R165, R175) -/

/-- The value of an x register; x0 reads 0. -/
def Vlc.rx (v : Vlc) (r : Nat) : Word := if r = 0 then 0 else tget 0 v.x r

/-- Bit `r` of a register set. -/
def has (m : BitVec 32) (r : Nat) : Bool := m.getLsbD r

/-- Sets or clears bit `r` of a register set. -/
def mark (m : BitVec 32) (r : Nat) (b : Bool) : BitVec 32 :=
  if b then m ||| BitVec.ofNat 32 (2 ^ r) else m &&& ~~~ BitVec.ofNat 32 (2 ^ r)

/-- Whether register `r` is empty; x0 never is (R175). -/
def Vlc.isEmpty (v : Vlc) (r : Nat) : Bool := r != 0 && has v.empty r

/-- Whether register `r` awaits a fill. -/
def Vlc.isPend (v : Vlc) (r : Nat) : Bool := r != 0 && has v.pend r

/-- Writes register `r` and marks it full; a write to x0 is discarded (R175). -/
def Vlc.wx (v : Vlc) (r : Nat) (w : Word) : Vlc :=
  if r = 0 then v else { v with x := tset 0 v.x r w, empty := mark v.empty r false }

/-- Marks register `r` empty until its fill arrives (R175). -/
def Vlc.drainX (v : Vlc) (r : Nat) : Vlc :=
  if r = 0 then v else { v with empty := mark v.empty r true, pend := mark v.pend r true }

/-- A fill arrives: the register is written and full, and the event bit is set (R175, R192). -/
def Vlc.fillX (v : Vlc) (r : Nat) (w : Word) : Vlc :=
  if r = 0 then { v with event := true }
  else { v with x := tset 0 v.x r w, empty := mark v.empty r false, pend := mark v.pend r false, event := true }

/-! ### Vector words of a VLC that have not finished -/

/-- The unexecuted entries of a core that belong to VLC `n`. -/
def viqOf (s : State) (n : Nat) : List VEntry := (getCore s (coreOf n)).viq.filter (fun e => e.vlc == n)

/-- The executed words of VLC `n` that wait for their recheck. -/
def rqOf (s : State) (n : Nat) : List REntry := (getVault s (vaultOf n)).rq.filter (fun e => e.e.vlc == n)

/-- Gather-atomics of VLC `n` whose results have not all returned. -/
def gathOf (s : State) (n : Nat) : List Gather := (getVlc s n).gath

/-- Whether some vector word of VLC `n` older than `id` has neither retired nor become held. -/
def vecBusyBefore (s : State) (n id : Nat) : Bool :=
  (viqOf s n).any (fun e => e.id < id) || (rqOf s n).any (fun e => e.e.id < id) || (gathOf s n).any (fun g => g.e.id < id)

/-- Whether any vector word of VLC `n` has not retired, or has results to come. -/
def vecBusy (s : State) (n : Nat) : Bool :=
  !(viqOf s n).isEmpty || !(rqOf s n).isEmpty || !(gathOf s n).isEmpty || s.fills.any (fun f => f.vlc == n && f.vdst.isSome)

/-! ### The error log (R388) and corrected-error statistics (R389) -/

/-- Writes a log entry and signals MSI-X vector 1 of the physical function of port 0 (R388). -/
def elog (evt code stack vault agent addr index : Nat) (s : State) : State :=
  let m := s.mgmt
  let e : ElogE := {
    d0 := wN (code % 256 + evt % 16 * 2 ^ 8 + stack % 16 * 2 ^ 16 + vault % 16 * 2 ^ 20 + agent % 2 ^ 32 * 2 ^ 32),
    d1 := wN addr, d2 := wN s.cyc, d3 := wN (index % 65536) }
  let lost := if m.elogUnread.getLsbD m.elogNext then min (m.elogLost + 1) (2 ^ 32 - 1) else m.elogLost
  { s with
           mgmt := { m with elog := tset ⟨0, 0, 0, 0⟩ m.elog m.elogNext e, elogNext := (m.elogNext + 1) % 128, elogLost := lost, elogUnread := m.elogUnread ||| BitVec.ofNat 128 (2 ^ m.elogNext) },
           out := { s.out with msix := s.out.msix ++ [(0, 1)] } }

/-- Adds 1 to the field at `lo` of `n` bits of dword `d` of CESTAT `k`, saturating (R389). -/
def countCe (k d lo n : Nat) (s : State) : State :=
  let w := (tget 0 s.mgmt.ce (2 * k + d)).toNat
  let v := fld w lo n
  if v = 2 ^ n - 1 then s
  else { s with mgmt := { s.mgmt with ce := tset 0 s.mgmt.ce (2 * k + d) (wN (putFld w lo n (v + 1))) } }

/-- The words that VLC `n` has fetched ahead are discarded: an error met on one of them is counted in FCE (R357). -/
def discardAhead (n : Nat) (s : State) : State :=
  let v := getVlc s n
  if v.ahead.isEmpty then s
  else ((v.ahead.filter (fun w => w.2.2 = 1 ∨ w.2.2 = 2)).map (fun w => w.1 / 8)).eraseDups.foldl (fun s _ => countCe (stackOf n) 1 16 16 s) (updVlc n (fun v => { v with ahead := [] }) s)

/-! ### Fault codes (R346) -/

def cILLEGAL : Nat := 1
def cALIGN : Nat := 2
def cTRANSLATION : Nat := 3
def cPROTECTION : Nat := 4
def cBOUND : Nat := 5
def cFRAME_CROSS : Nat := 6
def cHANDLE : Nat := 7
def cCMD_INVALID : Nat := 8
def cUNOWNED : Nat := 9
def cSHARE_WRITE : Nat := 10
def cTOKEN_STATE : Nat := 11
def cTILE_OWNER : Nat := 12
def cSCOPE : Nat := 13
def cDESC_INVALID : Nat := 14
def cBAR_RANGE : Nat := 15
def cFE_EMPTY : Nat := 16
def cTRAP : Nat := 17
def cBREAK : Nat := 18
def cNO_PROGRESS : Nat := 19
def cLEASE_EXPIRED : Nat := 20
def cPROMISE_MISSED : Nat := 21
def cUE_CONSUMED : Nat := 22
def cRECHECK : Nat := 23
def cTOKEN_LOST : Nat := 24
def cSUSPECT : Nat := 25
def cFABRIC : Nat := 26
def cLAUNCH_INVALID : Nat := 27
def cDOUBLE_FAULT : Nat := 28
def cKILLED : Nat := 29

/-- FREC0 to FREC3 of a record (R347). -/
def FRec.word0 (r : FRec) : Word :=
  wN (r.code % 256 + r.cls % 8 * 2 ^ 8 + b2n r.vec * 2 ^ 11 + b2n r.bpr * 2 ^ 12 + r.aux % 2 ^ 11 * 2 ^ 16 + r.reg % 32 * 2 ^ 27 +
    r.vqpos % 32 * 2 ^ 32 + r.vqn % 64 * 2 ^ 37 + r.slot % 64 * 2 ^ 43)
def FRec.word1 (r : FRec) : Word := wN r.origin
def FRec.word2 (r : FRec) : Word := wN r.addr
def FRec.word3 (r : FRec) : Word := wN (r.index % 65536 + r.stack % 16 * 2 ^ 16 + r.okind % 4 * 2 ^ 20)

/-- The bits of FREC0 and FREC3 that are not RSV (R347). -/
def frecMask0 : Word := 0x0001FFFFFFFF1FFF
def frecMask3 : Word := 0x00000000003FFFFF

/-- The record that four words hold. -/
def FRec.ofWords (a b c d : Nat) : FRec :=
  {
    code := fld a 0 8, cls := fld a 8 3, vec := bitN a 11, bpr := bitN a 12, aux := fld a 16 11, reg := fld a 27 5, vqpos := fld a 32 5, vqn := fld a 37 6,
    slot := fld a 43 6, origin := b, addr := c, index := fld d 0 16, stack := fld d 16 4, okind := fld d 20 2 }

/-- The four record words as a table. -/
def FRec.words (r : FRec) : Tbl Word := tset 0 (tset 0 (tset 0 (tset 0 [] 0 r.word0) 1 r.word1) 2 r.word2) 3 r.word3

/-! ### Preloads (R358) -/

/-- The ranked candidates without those of launches whose preload on a vault has gone: a tick chooses them again (R358). -/
def unrank (vault : Nat) (ps : List Preload) (r : Tbl (List Cand)) : Tbl (List Cand) :=
  (r.map (fun p => if vaultOf p.1 == vault then (p.1, p.2.filter (fun c => !ps.any (fun x => x.vi == c.vi && x.seq == c.seq))) else p)).filter
    (fun p => !p.2.isEmpty)

/-- Discards the preloads of a vault: their tiles are cleared and their owner bits left 0, and their launches are placed there after the next tick at the
earliest. -/
def dropPreloads (vault : Nat) (s : State) : State :=
  let ps := s.sched.preloads.filter (fun p => p.vault == vault)
  let s1 := ps.foldl (fun s p => p.tiles.foldl (fun s t =>
      { s with mem := mwrite s.mem t 4096 0, ecc := s.ecc.filter (fun e => e.1 / 512 != t / 4096), tiles := tupd {} s.tiles (t / 4096) (fun x => { x with own := false }) }) s) s
  { s1 with sched := { s1.sched with preloads := s1.sched.preloads.filter (fun p => p.vault != vault), ranks := unrank vault ps s1.sched.ranks } }

/-! ### What waits at banks -/

/-- The entry of one that waits. -/
def waitingOf (s : State) (who : Waiter) : Option Waiting := s.waits.find? (fun w => w.who == who)

/-- `who` has been served, or waits no longer. -/
def endWait (who : Waiter) (s : State) : State :=
  if (waitingOf s who).isNone then s else { s with waits := s.waits.filter (fun w => w.who != who) }

/-! ### Engine use counts (R87) -/

def useTile (t : Nat) (s : State) : State := { s with tiles := tupd {} s.tiles t (fun x => { x with use := x.use + 1 }) }
def unuseTile (t : Nat) (s : State) : State := { s with tiles := tupd {} s.tiles t (fun x => { x with use := x.use - 1 }) }

/-! ### Ending a context (R352) -/

/-- Removes VLC `n` from every queue in which it waits (R55, R237). -/
def leaveQueues (n : Nat) (s : State) : State :=
  let s1 := updCore (coreOf n) (fun c => { c with queue := c.queue.filter (· != n) }) s
  updVault (vaultOf n) (fun v => { v with slice := { v.slice with queue := v.slice.queue.filter (· != n) } }) s1

/-- Whether an operation belongs to the instance on VLC `n`. -/
def mineOp (s : State) (n : Nat) (o : Op) : Bool := o.vlc == n && o.agent == (getVlc s n).agent && o.seq == (getVlc s n).seq

/-- Cancels the operations of VLC `n` under the marks of `mask`: they issue no further access (R293). -/
def cancelOps (n mask : Nat) (s : State) : State :=
  { s with ops := s.ops.map (fun o => if mineOp s n o && !o.dead && bitN mask o.mark then { o with dead := true, stopped := true, owed := 0 } else o) }

/-- The receiver of a remote copy over the fabric, if it has been asked, learns that the copy has ended (R289, R292; how is the
model's: DESIGN CHOICE, log 81). -/
def noticeEnd (o : Op) (bad : Bool) (s : State) : State :=
  let r := o.desc.getD 5 0
  if o.kind == .cpyr && o.asked && fld r 24 2 == 0 then
    { s with out := { s.out with chunks := s.out.chunks ++
        [(fld r 0 16, [], { mod := s.mgmt.modid, vi := o.vi, rvi := fld r 16 8, writes := [], bar := 0, debit := 0, tag := o.id, fin := some bad })] } }
  else s

/-- Operations that have not been accepted are withdrawn. -/
def dropOps (p : Op → Bool) (s : State) : State :=
  (s.ops.filter p).foldl (fun s o => noticeEnd o true s) { s with ops := s.ops.filter (fun o => !p o) }

/-- Starts the end of one instance on fault `f`: steps 1 to 4 of R352. Waiting accesses finish with their results dropped, queued
commands, requests for locks and withdrawn commands are dropped, running ones go on to END. -/
def endOne (n : Nat) (f : FRec) (s : State) : State :=
  let v := getVlc s n
  if v.status = .free ∨ v.status = .ending then s
  else
    let s1 := updVlc n (fun v => { v with
      status := .ending, endRec := f, wait := .none, feed := none, feedStop := false, held := [], refetch := none,
      sfault := none, vfaults := [], faults := [], late := [], flip := none, fences := [], gath := [] }) (discardAhead n s)
    let s2 := updCore (coreOf n) (fun c => { c with viq := c.viq.filter (fun e => e.vlc != n) }) (leaveQueues n s1)
    let drop (c : Cmd) : Bool := c.vlc == n && (c.stage == .sent || c.stage == .queued || c.stage == .withdrawn || (c.kind == .lock && c.stage == .running))
    let gone := s2.cmds.filter drop
    let s3 := gone.foldl (fun s c => c.tiles.foldl (fun s t => unuseTile t s) s) s2
    let s4 := { s3 with
      cmds := (s3.cmds.filter (fun c => !drop c)).map
        (fun c => if c.vlc == n then { c with dropped := true } else c),
      locks := s3.locks.filter (fun l => !(l.vlc == n && !l.granted)),
      net := (s3.net.filter (fun a => !(a.vlc == n && a.kind == .barWait))).map (fun a => if a.vlc == n then { a with dead := true } else a),
      fills := s3.fills.filter (fun l => l.vlc != n) }
    cancelOps n 0xFF (dropOps (fun o => mineOp s3 n o && !o.accepted) s4)

/-- An instance ends with KILLED: a task preloaded on its vault is discarded (R352, R358). -/
def killOne (m : Nat) (s : State) : State := dropPreloads (vaultOf m) (endOne m { code := cKILLED, cls := 3 } s)

/-- The launch of an instance. -/
def sameLaunch (l : Launch) (v : Vlc) : Bool := l.vi == v.vi && l.seq == v.seq

/-- A saved context that ends: it is not restored first (R352). -/
def killSaved (x : Saved) : Saved := { x with ctx := { x.ctx with status := .ending, endRec := { code := cKILLED, cls := 3 } } }

/-- Whether an operation belongs to a saved context of the launch of `v`. -/
def savedOp (s : State) (v : Vlc) (o : Op) : Bool :=
  s.launches.any (fun l => sameLaunch l v && l.saved.any (fun x => x.vlcNo == o.vlc && x.ctx.agent == o.agent && x.ctx.seq == o.seq))

/-- Ends instance `n` on fault `f`; every other instance of its launch ends with KILLED, its saved contexts end, and the launch takes no
further deals (R352, R353). -/
def endCtx (n : Nat) (f : FRec) (s : State) : State :=
  let v := getVlc s n
  let s1 := dropPreloads (vaultOf n) (endOne n f s)
  if v.resident then s1
  else
    let one (l : Launch) : Launch :=
      if sameLaunch l v then { l with fault := some (l.fault.getD f), undealt := [], saved := l.saved.map killSaved } else l
    let s2 := {
      s1 with
      launches := s1.launches.map one,
      ops := s1.ops.map (fun o => if savedOp s1 v o then { o with dead := true, stopped := true, owed := 0 } else o) }
    let others := (s2.vlcs.filter (fun p => p.1 != n && p.2.vi == v.vi && p.2.seq == v.seq && !p.2.resident)).map Prod.fst
    others.foldl (fun s m => killOne m s) s2

/-! ### Taking an exception and returning from one (R350, R351) -/

/-- The record of a fault as it is taken: that of a class V fault counts the held words (R347), apart from the older ones that a pre-emption holds behind a
waiting `mclaim` (R238). -/
def withHeld (v : Vlc) (f : FRec) : FRec := if f.cls = 1 then { f with vqn := (v.held.filter (fun e => !e.resumed)).length } else f

/-- Trap entry: the record and ESTART are written, EPC takes the resume address, the handler state is
set and the pc goes to TVEC; a task preloaded on the vault is discarded (R347, R351, R358). -/
def enterTrap (n : Nat) (f : FRec) (epc : Nat) (s : State) : State :=
  dropPreloads (vaultOf n) (updVlc n (fun v => { v with
    frec := (withHeld v f).words, estart := wN f.estart, epc := wN epc, hnd := true,
    hndAt := s.nextId, pc := v.tvec, wait := .none, sfault := none, flip := none, early := [], feedStop := false, brk := f.bpr,
    bskipPc := if f.bpr && !f.vec then f.origin else v.bskipPc }) s)

/-- `trap` and a `vstrip` without progress have issued when their fault lands: they are charged a unit as any scalar word (R302, R350). -/
def chargeFault (n : Nat) (f : FRec) (s : State) : State :=
  if f.cls = 0 ∧ (f.code = cTRAP ∨ f.code = cNO_PROGRESS) then updVlc n (fun v => { v with cost := v.cost + 1 }) s else s

/-- A fault that lands on VLC `n` at an instruction boundary, every older vector word having finished (R351). -/
def landFault (n : Nat) (f : FRec) (epc : Nat) (s0 : State) : State :=
  let s := chargeFault n f s0
  let v := getVlc s n
  if v.hnd then endCtx n { f with code := cDOUBLE_FAULT } s
  else if v.tvec = 0 then endCtx n (withHeld v f) s
  else enterTrap n f epc s

/-- A class S fault of the word that VLC `cur` issues: it lands at once in a handler or without one, and otherwise waits for older vector
words (R348, R351). -/
def raiseAt (f : FRec) (epc : Nat) (s : State) : State :=
  if vecBusy s s.cur && !s.me.hnd && s.me.tvec != 0 then updMe (fun v => { v with sfault := some (f, epc) }) s
  else landFault s.cur f epc s

/-- A vector word of VLC `n` faults: the words `first`, every word younger than `ord` in the VIQ, and the words held already, become held words; the
fault waits for the trap. A younger word that is held raises its fault again when it resumes; the fault of one that was removed stays (R348, R351). -/
def holdWords (n : Nat) (first : List VEntry) (ord : Nat) (f : FRec) (s : State) : State :=
  let mine := first ++ (viqOf s n).filter (fun e => ord < e.id && !first.any (fun x => x.id == e.id))
  let s1 := updCore (coreOf n) (fun c => { c with viq := c.viq.filter (fun e => !(e.vlc == n && (ord < e.id || first.any (fun x => x.id == e.id)))) }) s
  updVlc n (fun v => { v with
    held := mine ++ v.held, vfaults := v.vfaults.filter (fun p => !(ord < p.ord && v.held.any (fun e => e.id == p.ord))) ++ [⟨f, ord⟩] }) s1

/-- A class S fault whose resume address is the pc of the word (R350). -/
def raise (code : Nat) (addr : Nat) (s : State) : State :=
  raiseAt { code := code, origin := s.me.pc.toNat, addr := addr } s.me.pc.toNat s

/-- A class S fault that names an entry: 1 a token entry, 2 a handle (R347). -/
def raiseEntry (code addr kind stack index : Nat) (s : State) : State :=
  raiseAt { code := code, origin := s.me.pc.toNat, addr := addr, okind := kind, stack := stack, index := index } s.me.pc.toNat s

def raiseIllegal (s : State) : State := raise cILLEGAL 0 s

/-- Whether a word of serial number `id` comes before every class V fault that waits. -/
def Vlc.clearOf (v : Vlc) (id : Nat) : Bool := v.vfaults.all (fun p => id < p.ord)

/-- `tret`: the handler ends and execution continues at EPC; held words resume in order, the first at ESTART, but for those behind a class V fault
still to be taken; after a breakpoint the matched word is not matched again (R351, R348, R356). -/
def returnTrap (s : State) : State :=
  let n := s.cur
  let v := s.me
  let vtrap := fld (tget 0 v.frec 0).toNat 8 3 == 1
  let h := (v.held.filter (fun e => v.clearOf e.id)).mapIdx (fun i e =>
    { e with start := if i = 0 && vtrap then v.estart.toNat else e.start, bskip := i == 0 && v.brk && e.bskip, resumed := true })
  let s1 := updMe (fun v => {
    v with
    hnd := false, pc := v.epc, bskip := v.bskip || (v.brk && v.held.isEmpty), brk := false, held := v.held.filter (fun e => !v.clearOf e.id),
    cost := v.cost + 1,
    estart := if vtrap && !h.isEmpty then 0 else v.estart }) s
  updCore (coreOf n) (fun c => { c with viq := c.viq.filter (fun e => e.vlc != n) ++ h ++ c.viq.filter (fun e => e.vlc == n) }) s1

/-- A waiting fault of class D or A reaches VLC `n`; at most 16 wait, and another has not reached it until one is taken (R349). -/
def queueFault (n : Nat) (f : FRec) (ord : Nat) (s : State) : State :=
  updVlc n (fun v => if v.status = .free ∨ v.status = .ending then v
    else if v.faults.length ≥ 16 then { v with late := v.late ++ [⟨f, ord⟩] }
    else { v with faults := v.faults ++ [⟨f, ord⟩] }) s

/-- Faults reach VLC `n` as far as 16 may wait. -/
def reachFaults (v : Vlc) : Vlc := { v with faults := v.faults ++ v.late.take (16 - v.faults.length), late := v.late.drop (16 - v.faults.length) }

/-! ### Issue of a scalar word (R61, R154, R175, R359) -/

/-- A source of a scalar word: register number, and whether reading it empty traps (R154). -/
abbrev Src := Nat × Bool

/-- Whether VLC `n` may issue a scalar word now: it runs, feeds no block and waits for nothing (R61). -/
def Vlc.ready (v : Vlc) : Bool := v.status == .running && v.wait == .none && v.sfault.isNone && !v.rewind &&
  ((v.feed.isNone && v.refetch.isNone && v.vfaults.isEmpty) || v.hnd)

/-- Stage 4 of R359 for a list of sources in order: the first trapping read of an empty register raises FE_EMPTY; else any empty source, or
a pending fill of the destination, makes the word wait (R154, R175); else the word goes on. Waiting leaves the state as it is. -/
def withSources (srcs : List Src) (dst : Nat) (k : State → State) (s : State) : State :=
  match srcs.find? (fun r => s.me.isEmpty r.1 && r.2) with
  | some r => raiseAt { code := cFE_EMPTY, origin := s.me.pc.toNat, reg := r.1 } s.me.pc.toNat s
  | none => if srcs.any (fun r => s.me.isEmpty r.1) || s.me.isPend dst then s else k s

/-- A scalar word: nothing happens while its VLC may not issue; stage 3 refusals come before the sources are read (R359). -/
def issue (illegal : State → Bool) (srcs : List Src) (dst : Nat) (k : State → State) (s : State) : State :=
  if !s.me.ready then s
  else if illegal s then raiseIllegal s
  else withSources srcs dst k s

/-- BSKIP after the word at the pc has issued: only the matched word clears it, outside a handler (R356). -/
def Vlc.skipOn (v : Vlc) : Bool := v.bskip && (v.hnd || v.pc.toNat != v.bskipPc)

/-- The word ends: the pc moves on by 4, and one unit of scalar issue is charged (R302). -/
def advance (s : State) : State := updMe (fun v => { v with pc := v.pc + 4, bskip := v.skipOn, cost := v.cost + 1 }) s

/-- The word ends with a result in xd. -/
def finishX (d : Nat) (w : Word) (s : State) : State :=
  updMe (fun v => { v.wx d w with pc := v.pc + 4, bskip := v.skipOn, cost := v.cost + 1 }) s

/-- No stage 3 refusal. -/
def noIll (_ : State) : Bool := false

end Sys2Proof.Machine
end

