-- ==== Sys2Proof/Machine/Mem.lean ====
section
/-! DEFINITION. Memory: the physical map, translation, the checks of an access, owner tokens, SEC-DED and unsealed rows (R25 to R27,
R69 to R83, R85 to R94, R101, R266, R376, R391). -/
namespace Sys2Proof.Machine

/-! ### The physical map (R25 to R27) -/

def paStack (pa : Nat) : Nat := pa / 137438953472
def paVault (pa : Nat) : Nat := pa / 8589934592 % 16
/-- Module vault of a PA (R12). -/
def paMVault (pa : Nat) : Nat := 16 * paStack pa + paVault pa
def paOff (pa : Nat) : Nat := pa % 8589934592
/-- End of DRAM in a vault (R26). -/
def dramEnd : Nat := 0x180000000
def paDram (pa : Nat) : Bool := paOff pa < dramEnd
/-- PA of offset `o` in module vault `v`. -/
def vaultPa (v o : Nat) : Nat := v / 16 * 137438953472 + v % 16 * 8589934592 + o
def isVs (pa : Nat) : Bool := dramEnd ≤ paOff pa && paOff pa < dramEnd + 0x100000
def isIstore (pa : Nat) : Bool := dramEnd + 0x100000 ≤ paOff pa && paOff pa < dramEnd + 0x140000
def isQs (pa : Nat) : Bool :=
  dramEnd + 0x1000000 ≤ paOff pa && paOff pa < dramEnd + 0x1800000 && [5, 6, 9, 10].contains (paVault pa)
def isSs (pa : Nat) : Bool := dramEnd + 0x2000000 ≤ paOff pa && paOff pa < dramEnd + 0x4000000 && paVault pa == 5
/-- A scratchpad byte (R85). -/
def isScratch (pa : Nat) : Bool := isVs pa || isQs pa || isSs pa

/-- PA of the first byte of the frame that holds `pa`, and its frame number in the vault (R26). -/
def frameBase (pa : Nat) : Nat := pa / 2097152 * 2097152
def frameNo (pa : Nat) : Nat := paOff pa / 2097152
/-- Die region of a frame number (R26). -/
def frameDie (f : Nat) : Nat := f % 16
/-- d-row of a PA within its frame (R29). -/
def paRow (pa : Nat) : Nat := pa / 8192 % 256

/-- Whether `[a, a+n)` meets an enabled spare range (R412). -/
def inSpare (s : State) (a n : Nat) : Bool :=
  s.mgmt.spare.any (fun p => let w := p.2.toNat
    bitN w 0 && a < fld w 21 20 * 2097152 + fld w 41 12 * 2097152 && fld w 21 20 * 2097152 < a + n)

/-- Whether every byte of the aligned range `[a, a+n)` is backed (R27). -/
def backed (s : State) (a n : Nat) : Bool :=
  a + n ≤ 2199023255552 && paStack a < 12 && !inSpare s a n &&
    (paOff a + n ≤ dramEnd || (n ≤ 4096 && (isScratch a || isIstore a)))

/-- Bytes of the frame marked for near-bank compute: a valid handle with NB covers it (R80). -/
def nbMarked (s : State) (pa : Nat) : Bool :=
  paDram pa && s.hands.any (fun p => p.1 / 16384 == paStack pa && p.2.v && p.2.nb && p.2.base * 4096 == frameBase pa)

/-! ### Rows, unsealed rows and SEC-DED (R14, R266, R376, R377, R391) -/

/-- The 65,536 bits of the d-row whose first byte is at `pa` (R29). -/
def readRow (s : State) (pa : Nat) : Row := BitVec.ofNat 65536 (mreadFast s.mem pa 8192)

/-- The unsealed entry of a frame number in a vault. -/
def unsealedOf (s : State) (vault frame : Nat) : Option Unsealed := (getVault s vault).unsealed.find? (fun e => e.frame == frame)

/-- Whether the row of a PA is unsealed (R266). -/
def rowUnsealed (s : State) (pa : Nat) : Bool :=
  paDram pa && (match unsealedOf s (paMVault pa) (frameNo pa) with | some e => e.u.getLsbD (paRow pa) | none => false)

/-- Adds 1 to the residues of the lanes of `m`, modulo 3: planes r0 (one) and r1 (two). -/
def resAdd1 (r : Row × Row) (m : Row) : Row × Row :=
  let z := ~~~(r.1 ||| r.2)
  ((r.1 &&& ~~~m) ||| (z &&& m), (r.2 &&& ~~~m) ||| (r.1 &&& m))

/-- Adds `w` (0, 1 or 2) to the residues of the lanes of `m`. -/
def resAdd (r : Row × Row) (m : Row) : Nat → Row × Row
  | 0 => r
  | w + 1 => resAdd1 (resAdd r m w) m

/-- The weight w(d) of a d-row (R376). -/
def rowWeight (d : Nat) : Nat := if d % 2 = 0 then 1 else 2

/-- The update of R376 when row `d` in U goes from `old` to `new` (old = 0 when the row enters U). -/
def resChange (r : Row × Row) (d : Nat) (old new : Row) : Row × Row :=
  resAdd (resAdd r (new &&& ~~~old) (rowWeight d)) (old &&& ~~~new) (3 - rowWeight d)

/-- Records a write of an unsealed row, or a row that becomes unsealed: `old` is 0 for a row that was sealed (R376). -/
def noteUnsealed (pa : Nat) (old new : Row) (s : State) : State :=
  let vault := paMVault pa
  let f := frameNo pa
  let d := paRow pa
  let e := (unsealedOf s vault f).getD { frame := f, u := 0 }
  let o := if e.u.getLsbD d then old else 0
  let r := resChange (e.r0, e.r1) d o new
  let e' := { e with u := e.u ||| BitVec.ofNat 256 (2 ^ d), r0 := r.1, r1 := r.2, touched := s.cyc }
  updVault vault (fun v => { v with unsealed := v.unsealed.filter (fun x => x.frame != f) ++ [e'] }) s

/-- Condition of the 64-bit word that holds `pa`; a word of an unsealed row has no check (R266). -/
def eccAt (s : State) (pa : Nat) : Ecc := if rowUnsealed s pa then .good else tget .good s.ecc (pa / 8)

def setEcc (pa : Nat) (e : Ecc) (s : State) : State := { s with ecc := tset .good s.ecc (pa / 8) e }

/-- Whether the frame of a PA is lost (R414). -/
def isLost (s : State) (pa : Nat) : Bool := paDram pa && s.repair.lost.contains (frameBase pa)

/-- The corrected errors of a row with one more: those of the last 24 hours, 285,120,000,000,000 cycles (R22, R392). -/
def ceTimes (s : State) (row : Nat) : List Nat :=
  let l := tget [] s.repair.ceRow row
  if l.length ≥ 4 then l else l.filter (fun t => s.cyc < t + 285120000000000) ++ [s.cyc]

/-- Counts a corrected error of its row; a row is spared after four (R392). -/
def noteCorrected (pa : Nat) (s : State) : State :=
  if paDram pa then
    let s1 := countCe (paStack pa) 0 0 32 s
    { s1 with repair := { s1.repair with ceRow := tset [] s1.repair.ceRow (pa / 8192) (ceTimes s1 (pa / 8192)) } }
  else countCe (paStack pa) 0 32 32 s

/-- Whether some word of `[pa, pa+n)` cannot be corrected. -/
def ueIn (s : State) (pa n : Nat) : Bool :=
  isLost s pa || (upto ((n + pa % 8 + 7) / 8)).any (fun i => eccAt s (pa / 8 * 8 + 8 * i) == .bad)

/-- Corrects, counts and writes back the single errors of `[pa, pa+n)` (R390). -/
def correctIn (pa n : Nat) (s : State) : State :=
  (upto ((n + pa % 8 + 7) / 8)).foldl (fun s i =>
    let a := pa / 8 * 8 + 8 * i
    if eccAt s a = .single then noteCorrected a (setEcc a .good s) else s) s

/-! ### Row locks and running commands met at the target (R264, R268) -/

/-- Whether another agent's granted lock covers the row of a PA. -/
def lockedAgainst (s : State) (agent pa : Nat) : Bool :=
  paDram pa && s.locks.any (fun l => l.granted && l.agent != agent && l.frame == frameBase pa && l.row0 ≤ paRow pa && paRow pa < l.row0 + l.count)

/-- Where the bytes of a PA are stored: at the PA, or in the spare frame to which its frame has been relocated (R412). -/
def realPa (s : State) (pa : Nat) : Nat :=
  match tget 0 s.repair.redirect (pa / 2097152) with
  | 0 => pa
  | k + 1 => k * 2097152 + pa % 2097152

/-- The die region that stores a PA, by number: vault × 16 + die region (R16, R17, R26). -/
def dieOf (s : State) (pa : Nat) : Nat := paMVault (realPa s pa) * 16 + frameDie (frameNo (realPa s pa))

/-- The running command that holds the die region of a PA (R17, R263). -/
def cmdOver (s : State) (pa : Nat) : Option Cmd :=
  if paDram pa then s.cmds.find? (fun c => c.stage == .running && c.frames.any (fun f => dieOf s f == dieOf s pa)) else none

/-- Bank of a PA, by number: die region × 8 + bank (R16, R26). -/
def bankOf (s : State) (pa : Nat) : Nat := dieOf s pa * 8 + pa % 8192 / 1024

/-- A bank that no command holds begins one of the refreshes that it owes: it serves nothing for 4 rc, 330 cycles (R22, R395). -/
def payRefresh (b : Nat) (s : State) : State :=
  { s with repair := { s.repair with debt := tset 0 s.repair.debt b (tget 0 s.repair.debt b - 1), busy := tset 0 s.repair.busy b (s.cyc + 330) } }

/-- Whether a bank is between two refreshes that it owes: it serves one access before the next (R395). -/
def owesNext (s : State) (pa : Nat) : Bool :=
  paDram pa && decide (tget 0 s.repair.debt (bankOf s pa) > 0) && decide (tget 0 s.repair.busy (bankOf s pa) ≤ s.cyc)

/-- A bank serves an access: at a quantum boundary that is its access of the step (R264); after a command the next refresh that it owes begins (R395). -/
def noteServed (pa : Nat) (s : State) : State :=
  match cmdOver s pa with
  | some c => { s with cmds := s.cmds.map (fun d => if d.id == c.id then { d with served := bankOf s pa :: d.served } else d) }
  | none => if owesNext s pa then payRefresh (bankOf s pa) s else s

/-- A bank serves a walk read at a quantum boundary: in step 1 in the slot for walk reads (R32, R264, R398). -/
def noteWalked (pa : Nat) (s : State) : State :=
  match cmdOver s pa with
  | some c =>
    if c.third then noteServed pa s
    else { s with cmds := s.cmds.map (fun d => if d.id == c.id then { d with walked := bankOf s pa :: d.walked } else d) }
  | none => noteServed pa s

/-! ### Translation (R69 to R75) -/

/-- What a translation gives: the PA and the attributes of the leaf (R72). -/
structure Page where
  pa : Nat
  rd : Bool
  wr : Bool
  cc : Bool := false
  dev : Bool := false
  pin : Bool := false
  deriving DecidableEq, Repr

/-- Bytes mapped by a leaf at a level (R71). -/
def levelSize (l : Nat) : Nat := 4096 * 512 ^ l
/-- Index of a VA at a level (R71). -/
def levelIndex (va l : Nat) : Nat := if l = 4 then va / levelSize 4 % 256 else va / levelSize l % 512

/-- Whether an entry is invalid on its own (R73, R79). -/
def entryBad (s : State) (l w : Nat) : Bool :=
  let pa := fld w 12 29 * 4096
  let leaf := bitN w 1
  let sz := levelSize l
  !bitN w 0 || fld w 41 23 != 0 ||
  (if leaf then
    decide (l ≥ 3) || fld w 8 4 != 0 || pa % sz != 0 || !backed s pa sz || (!paDram pa && bitN w 4) ||
      (bitN w 4 && (l != 1 || !bitN w 6 || bitN w 5)) || (bitN w 7 && (l != 2 || bitN w 4))
  else l == 0 || fld w 2 10 != 0 || !backed s pa 4096 || nbMarked s pa)

/-- The fields that the members of a 32 GiB span share: RD, WR, DEV, PIN, CC, SPAN (R74). -/
def spanKey (w : Nat) : Nat := fld w 1 7

/-- A page-table word as a walk reads it in the tables `m`: single errors are corrected; an uncorrectable word reads as an invalid entry (R14; DESIGN CHOICE,
log 48). -/
def tableWord (s : State) (m : List Host.Cell) (pa : Nat) : Nat := if ueIn s pa 8 then 0 else mread m pa 8

/-- The 32 L2 entries of the group that holds entry `idx` of a table (R74). -/
def spanWords (s : State) (m : List Host.Cell) (table idx : Nat) : List Nat := (upto 32).map (fun j => tableWord s m (table + 8 * (idx / 32 * 32 + j)))

/-- Whether the group of 32 L2 entries that holds `idx` breaks R74: it has a member with SPAN and its members are not all alike. A member that is invalid
for a reason of its own makes the group invalid too (DESIGN CHOICE, log 49). -/
def spanBad (s : State) (m : List Host.Cell) (table idx : Nat) : Bool :=
  let ws := spanWords s m table idx
  ws.any (fun w => bitN w 0 && bitN w 1 && bitN w 7) &&
    !(ws.all (fun w => !entryBad s 2 w && bitN w 7 && spanKey w == spanKey (ws.headD 0)))

/-- What a walk ends at: the leaf, its level, and the table that holds it. -/
structure Leaf where
  word : Nat
  level : Nat
  table : Nat
  deriving DecidableEq, Repr

/-- Reads of a table level by level: the leaf, or none at the first invalid entry (R71, R360). -/
def walk (s : State) (m : List Host.Cell) (va table : Nat) : Nat → Option Leaf
  | 0 =>
    let w := tableWord s m (table + 8 * levelIndex va 0)
    if entryBad s 0 w then none else some ⟨w, 0, table⟩
  | l + 1 =>
    let w := tableWord s m (table + 8 * levelIndex va (l + 1))
    if entryBad s (l + 1) w || (l == 1 && spanBad s m table (levelIndex va 2)) then none
    else if bitN w 1 then some ⟨w, l + 1, table⟩
    else walk s m va (fld w 12 29 * 4096) l

/-- PAs of the table words that a walk reads: one a level, and at L2 the group of a member of a span. -/
def walkWords (s : State) (m : List Host.Cell) (va table : Nat) : Nat → List Nat
  | 0 => [table + 8 * levelIndex va 0]
  | l + 1 =>
    let a := table + 8 * levelIndex va (l + 1)
    let w := tableWord s m a
    if l == 1 && bitN w 1 && bitN w 7 then (upto 32).map (fun j => table + 8 * (levelIndex va 2 / 32 * 32 + j))
    else if bitN w 0 && !bitN w 1 then a :: walkWords s m va (fld w 12 29 * 4096) l
    else [a]

/-- The page of a leaf. A scratchpad or an I-store is IDEM whatever DEV says (R78). -/
def leafPage (w sz va : Nat) : Page :=
  let pa := fld w 12 29 * 4096 + va % sz
  { pa := pa, rd := bitN w 2, wr := bitN w 3, cc := bitN w 4, dev := bitN w 5 && paDram pa, pin := bitN w 6 }

/-- The page of a VA under a translation held in a translation buffer; a 32 GiB group is held as one (R74). -/
def heldPage (e : TlbE) (va : Nat) : Page :=
  if e.group = [] then leafPage e.leaf e.size va else leafPage (e.group.getD (va / levelSize 2 % 32) 0) (levelSize 2) va

/-- The translation held for a VA (R75). -/
def heldFor (s : State) (vi va : Nat) : Option TlbE := s.tlb.find? (fun e => e.vi == vi && e.base ≤ va && va < e.base + e.size)

/-- The VI number under which the resident program's translations are held. -/
def resVi : Nat := 256

/-- The root register of an address space: TROOT of a VI, or MROOT (R70, R332). -/
def rootOf (s : State) (vi : Nat) : Nat := if vi = resVi then s.plat.mroot.toNat else (getVi s vi).troot.toNat

/-- The tables of an address space as they are in effect: memory as it was when the last invalidations completed, so that a change of an entry applies only
after its sequence (R75, R370). -/
def tablesOf (s : State) (vi : Nat) : List Host.Cell := (if vi = resVi then s.plat.mview else (getVi s vi).tview).getD s.mem

/-- Translation of a VA below the aperture through the tables of `vi`: through a translation buffer that holds it, else by a walk (R71,
R75); while MROOT.EN = 0 the resident program's addresses map one for one (R331). -/
def translate (s : State) (vi va : Nat) : Option Page :=
  let root := rootOf s vi
  match heldFor s vi va with
  | some e => some (heldPage e va)
  | none =>
    if !bitN root 0 then
      if vi = resVi && va < 2199023255552 && backed s (va / 4096 * 4096) 4096 then some { pa := va, rd := true, wr := true, pin := true }
      else none
    else if nbMarked s (fld root 12 29 * 4096) || !backed s (fld root 12 29 * 4096) 4096 then none
    else match walk s (tablesOf s vi) va (fld root 12 29 * 4096) 4 with
      | none => none
      | some l => some (leafPage l.word (levelSize l.level) va)

/-- The translation of a VA as a translation buffer takes it, when none is held and a walk gives one (R74, R75). -/
def madeFor (s : State) (vi va : Nat) : Option TlbE :=
  let root := rootOf s vi
  if va ≥ 0xFE000000000000 || (heldFor s vi va).isSome || !bitN root 0 || nbMarked s (fld root 12 29 * 4096) ||
      !backed s (fld root 12 29 * 4096) 4096 then none
  else match walk s (tablesOf s vi) va (fld root 12 29 * 4096) 4 with
    | none => none
    | some l =>
      let span : Bool := l.level = 2 ∧ bitN l.word 7 = true
      let sz := if span then 32 * levelSize 2 else levelSize l.level
      some { vi := vi, base := va / sz * sz, size := sz, leaf := l.word, group := if span then spanWords s (tablesOf s vi) l.table (levelIndex va 2) else [] }

/-- A translation is kept in a translation buffer (R75). -/
def holdTlb (e : Option TlbE) (s : State) : State := match e with | some e => { s with tlb := s.tlb ++ [e] } | none => s

/-- Whether a translation is in a translation buffer already: the walk of an access that was checked before is then not made again. -/
def isHeld (e : Option TlbE) (s : State) : Bool := match e with | some e => s.tlb.contains e | none => false

/-- PAs of the table words that translating a VA reads: none where a translation buffer holds it, or no table is used. -/
def tableReads (s : State) (vi va : Nat) : List Nat :=
  let root := rootOf s vi
  if va ≥ 0xFE000000000000 || (heldFor s vi va).isSome || !bitN root 0 || nbMarked s (fld root 12 29 * 4096) ||
      !backed s (fld root 12 29 * 4096) 4096 then []
  else walkWords s (tablesOf s vi) va (fld root 12 29 * 4096) 4

/-- Every uncorrectable word of `[pa, pa+n)` that an agent meets is logged (R391, EVT 0). -/
def logUe (pa n agent : Nat) (s : State) : State :=
  ((upto ((n + pa % 8 + 7) / 8)).map (fun i => pa / 8 * 8 + 8 * i)).foldl (fun t a =>
    if eccAt s a = .bad then elog 0 cUE_CONSUMED (paStack a) (paVault a) agent a 0 t else t) s

/-- A walk corrects, counts and writes back single errors of the words it reads, and logs the others (R14, R390, R391). -/
def noteWords (l : List Nat) (s : State) : State :=
  l.foldl (fun s a => if ueIn s a 8 then logUe a 8 0 s else noteWalked a (correctIn a 8 s)) s

/-- A walk is made, unless it has been made, and its translation is kept (R14, R75). -/
def takeWalk (l : List Nat) (e : Option TlbE) (s : State) : State := if isHeld e s then s else holdTlb e (noteWords l s)

/-- The local windows of a vault (R77); the I-store is read only. -/
def window (vault va : Nat) : Option Page :=
  let x := va % 0x1000000000000
  if x < 0x100000 then some { pa := vaultPa vault (dramEnd + x), rd := true, wr := true }
  else if x < 0x140000 then some { pa := vaultPa vault (dramEnd + x), rd := true, wr := false }
  else if 0x1000000 ≤ x ∧ x < 0x1800000 then some { pa := vaultPa (hubVault (quadOf vault)) (dramEnd + x), rd := true, wr := true }
  else if 0x2000000 ≤ x ∧ x < 0x4000000 then some { pa := vaultPa (vault / 16 * 16 + 5) (dramEnd + x), rd := true, wr := true }
  else none

/-- PA of an I-store VA of VLC `n` (R77). -/
def istorePa (n va : Nat) : Nat := vaultPa (vaultOf n) (dramEnd + va % 0x1000000000000)

/-- Whether a VA lies in the local windows, or in the remote aperture (R77, R313). -/
def inWindows (va : Nat) : Bool := va / 281474976710656 == 0xFF
def inAperture (va : Nat) : Bool := va / 281474976710656 == 0xFE

/-- Who translates: the VI (or `resVi`), and the vault of a context; agents without a vault have no windows (R49, R320). -/
structure Who where
  vi : Nat
  vault : Option Nat
  deriving DecidableEq, Repr

/-- The page of a VA for `w`, or none: TRANSLATION (R360 step 3). The remote aperture is not part of this. -/
def pageOf (s : State) (w : Who) (va : Nat) : Option Page :=
  if va ≥ 72057594037927936 then none
  else if inWindows va then (match w.vault with | some v => window v va | none => none)
  else if inAperture va then none
  else translate s w.vi va

/-- How VLC `n` translates. -/
def whoOf (s : State) (n : Nat) : Who :=
  { vi := if (getVlc s n).resident then resVi else (getVlc s n).vi, vault := some (vaultOf n) }

/-! ### Owner tokens (R90 to R94) -/

/-- What an access wants to do. -/
inductive Want where
  | read
  | write
  | atomic
  deriving DecidableEq, Repr

/-- The token entry of index `i` in stack `k`. -/
def getTok (s : State) (k i : Nat) : Tok := tget {} s.toks (k * 65536 + i)
def setTok (k i : Nat) (t : Tok) (s : State) : State := { s with toks := tset {} s.toks (k * 65536 + i) t }

/-- The region that holds a DRAM byte: its key and entry (R90). -/
def regionAt (s : State) (pa : Nat) : Option (Nat × Tok) :=
  s.toks.find? (fun p => p.1 / 65536 == paStack pa && p.2.kind == 1 && p.2.base ≤ pa / 4096 && pa / 4096 < p.2.base + p.2.pages)

/-- TYPE of an agent value, and the agents of R91. -/
def agentType (a : Nat) : Nat := a / 268435456 % 16
def ctxAgent (vlc vi : Nat) : Nat := 268435456 + vi * 2048 + vlc
def rootAgent (vi seq : Nat) : Nat := 2 * 268435456 + seq % 65536 * 256 + vi
def hostAgent (vi : Nat) : Nat := 3 * 268435456 + vi
def homeAgent (stack : Nat) : Nat := 4 * 268435456 + stack
def remAgent (mod vi : Nat) : Nat := 5 * 268435456 + vi * 65536 + mod
def sysAgent : Nat := 6 * 268435456

/-- Whether `agent` holds a read share of the region of key `key` (R93). -/
def holdsShare (s : State) (agent key : Nat) : Bool :=
  s.toks.any (fun p => p.1 / 65536 == key / 65536 && p.2.kind == 2 && p.2.parent == key % 65536 && p.2.owner == agent)

/-- The check of R93 against a region: a fault code, or none. `fine` says that the access is at most 8 bytes and aligned. -/
def regionCheck (s : State) (agent key : Nat) (e : Tok) (k : Want) (fine : Bool) : Option Nat :=
  if agentType e.owner = 4 then
    (if k = .atomic ∨ (k = .read ∧ fine = true) then none else some cUNOWNED)
  else if k = .atomic then some cUNOWNED
  else if e.owner = agent then (if k = .write ∧ e.shares > 0 then some cSHARE_WRITE else none)
  else if k = .read ∧ holdsShare s agent key = true then none
  else some cUNOWNED

/-- The whole target check of a DRAM byte: R93, then SUSPECT for reads and atomics (R402). -/
def tokenCheck (s : State) (agent pa : Nat) (k : Want) (fine : Bool) : Option Nat :=
  match regionAt s pa with
  | none => some cUNOWNED
  | some (key, e) =>
    match regionCheck s agent key e k fine with
    | some c => some c
    | none => if e.suspect && k != .write then some cSUSPECT else none

/-- Adds to a record the token entry that holds a byte (R347). -/
def withToken (s : State) (pa : Nat) (f : FRec) : FRec :=
  match regionAt s pa with
  | some (key, _) => { f with okind := 1, stack := key / 65536, index := key % 65536 }
  | none => f

/-! ### The checks of an address (R360) -/

/-- An address that has passed R360: its target and attributes. -/
structure Passed where
  tgt : Target
  dev : Bool
  cc : Bool
  /-- Whether its leaf pins its frame (R412). -/
  pin : Bool := false
  /-- PAs of the table words read for it, and the translation then kept (R75). -/
  walk : List Nat := []
  made : Option TlbE := none
  deriving DecidableEq, Repr

/-- An access that has passed is made: its walk is noted, its translation is kept until it is invalidated, and the first access through a leaf with
PIN = 1 pins its frame (R14, R75, R412). -/
def notePin (p : Passed) (s0 : State) : State :=
  let s := takeWalk p.walk p.made s0
  match p.tgt with
  | .loc pa =>
    if p.pin && !s.repair.pinned.contains (frameBase pa) then { s with repair := { s.repair with pinned := s.repair.pinned ++ [frameBase pa] } } else s
  | .rem _ _ _ => s

/-- The owner bit of the tile of a PA (R85). -/
def tileBit (s : State) (pa : Nat) : Bool := (tget {} s.tiles (pa / 4096)).own

/-- Whether a PA is in the mailbox tile in mailbox mode, whose bit is not checked (R333). -/
def isMbox (s : State) (pa : Nat) : Bool := !s.plat.service && pa / 4096 == vaultPa 5 (dramEnd + 0x3FFF000) / 4096

/-- Steps 4 and 5 of R360 for a program access to a page: a fault code, or none. -/
def pageCheck (s : State) (p : Page) (k : Want) : Option Nat :=
  if ((k == .read || k == .atomic) && !p.rd) || ((k == .write || k == .atomic) && !p.wr) then some cPROTECTION
  else if isIstore p.pa && k != .read then some cPROTECTION
  else if k == .atomic && isScratch p.pa then some cPROTECTION
  else if !p.cc && nbMarked s p.pa then some cPROTECTION
  else if isScratch p.pa && !isMbox s p.pa && tileBit s p.pa then some cTILE_OWNER
  else none

/-- The remote aperture (R313): the target, or a fault code. Only VIs with FAEN reach it, and only modules of the routing table; every other check is
made at the target (R361). The control aperture is accessed as DEV memory (DESIGN CHOICE, log 62). -/
def aperture (s : State) (vi va : Nat) : Except Nat Passed :=
  let mod := fld va 37 10
  let off := va % 137438953472
  if vi = resVi || !bitN (getVi s vi).vctl.toNat 1 || fld (tget 0 s.mgmt.route mod).toNat 0 24 == 0 then .error cTRANSLATION
  else .ok { tgt := .rem mod (bitN va 47) off, dev := bitN va 47, cc := false }

/-- An address of a local page that has passed. -/
def pagePassed (s : State) (w : Who) (va : Nat) (p : Page) : Passed :=
  { tgt := .loc p.pa, dev := p.dev, cc := p.cc, pin := p.pin && paDram p.pa, walk := tableReads s w.vi va, made := madeFor s w.vi va }

/-- The address checks of R360, in order, for an access aligned to `al`. -/
def addrCheck (s : State) (w : Who) (va al : Nat) (k : Want) : Except Nat Passed :=
  if va ≥ 72057594037927936 then .error cTRANSLATION
  else if va % al ≠ 0 then .error cALIGN
  else if inAperture va then aperture s w.vi va
  else match pageOf s w va with
    | none => .error cTRANSLATION
    | some p =>
      match pageCheck s p k with
      | some c => .error c
      | none => .ok (pagePassed s w va p)

/-- A context's own argument block is checked against page permissions only (R49). -/
def isArgBlock (v : Vlc) (va size : Nat) : Bool :=
  !v.resident && v.savep + v.slotNo * 32768 + 0x6800 ≤ va && va + size ≤ v.savep + v.slotNo * 32768 + 0x6880

/-- A PA at which the refusal of an access is found: that which its VA names, and else 0 (R388; DESIGN CHOICE, log 72). -/
def foundAt (s : State) (w : Who) (va : Nat) : Nat := match pageOf s w va with | some p => p.pa | none => 0

/-- Pins the frame of a VA that an engine or a command reaches through a leaf with PIN = 1 (R412). -/
def notePinVa (w : Who) (va : Nat) (s : State) : State :=
  match pageOf s w va with
  | some p => notePin (pagePassed s w va p) s
  | none => noteWords (tableReads s w.vi va) s

/-- Whether a load must let the cycle of a host write of the same dword of MBOX pass (R333). -/
def mboxWaits (s : State) (pa size : Nat) : Bool :=
  isMbox s pa && (upto (cdiv (pa % 8 + size) 8)).any (fun i => tget 0 s.plat.mboxAt (pa / 8 + i) == s.cyc + 1)

/-- Whether an access is of 1, 2, 4 or 8 bytes and aligned to its size (R93). -/
def fineAt (pa size : Nat) : Bool := [1, 2, 4, 8].contains size && pa % size == 0

/-- Whether an earlier request of the same port to the same line waits (R321). -/
def lineWaits (s : State) (r : HostReq) : Bool := s.hostq.any (fun q => q.id < r.id && q.port == r.port && q.vi == r.vi && q.va / 64 == r.va / 64)

/-- The bank at which a host access waits, where no lock holds it back. -/
def hostBank (s : State) (r : HostReq) : Option Nat :=
  match pageOf s { vi := r.vi, vault := none } r.va with
  | some p => if paDram p.pa && !lockedAgainst s (hostAgent r.vi) p.pa then some (bankOf s p.pa) else none
  | none => none

/-- The host accesses that a bank may serve in the present step of the boundary of a command: in step 3 those that have arrived during step 2 (R264). -/
def hostAt (s : State) (c : Cmd) (bank : Nat) : List HostReq := s.hostq.filter (fun r => (!c.third || r.id ≥ c.since) && hostBank s r == some bank)

/-- Whether a bank that no command holds is refreshing, or a row of its die region is being spared (R392, R395). -/
def bankBusy (s : State) (pa : Nat) : Bool := paDram pa && decide (s.cyc < tget 0 s.repair.busy (bankOf s pa))

/-- Whether an access of `agent` to `pa` may perform now as far as locks, commands and refreshes go: when no command holds the die region, or at a quantum
boundary, while its bank has served no other access in this step and no access of the host waits there before it (R263, R264, R395). What one step of the
model does at a bank counts as one access (DESIGN CHOICE, log 57). -/
def bankFree (s : State) (agent pa : Nat) : Bool :=
  !lockedAgainst s agent pa &&
    (match cmdOver s pa with
      | some c => c.boundary && !c.served.contains (bankOf s pa) && (agentType agent == 3 || (hostAt s c (bankOf s pa)).isEmpty)
      | none => !bankBusy s pa)

/-- Whether a walk waits: a table word lies in banks that a running command holds, and it is not served at a boundary. A walk waits for no lock; at step 1 of
a boundary each bank has a slot for it beside its other access (R32, R264, R398). -/
def walkWaits (s : State) (l : List Nat) : Bool :=
  l.any (fun a => match cmdOver s a with
    | some c => !c.boundary || (if c.third then c.served else c.walked).contains (bankOf s a)
    | none => bankBusy s a)

/-! ### Reads and writes through the base die -/

/-- A read of `n` bytes through the base die: its value, or none when a word is uncorrectable (R390, R391; the error is logged, EVT 0). -/
def readMem (pa n agent : Nat) (s : State) : Option Nat × State :=
  if ueIn s pa n then (none, logUe pa n agent s)
  else (some (mread s.mem pa n), noteServed pa (correctIn pa n s))

/-- A write of at most 8 aligned bytes through the base die (R14, R266, R376, R391): a whole word gets fresh check bits; a narrow write of an
uncorrectable word leaves it poisoned; a write of an unsealed row keeps the row unsealed and its residues current. -/
def writeMem (pa n v : Nat) (s : State) : State :=
  if rowUnsealed s pa then
    let row := pa / 8192 * 8192
    let old := readRow s row
    let s1 := noteServed pa { s with mem := mwrite s.mem pa n v }
    noteUnsealed row old (readRow s1 row) s1
  else
    let s1 := noteServed pa { s with mem := mwrite s.mem pa n v }
    match eccAt s pa with
    | .good => s1
    | .single => if n ≥ 8 then setEcc pa .good s1 else noteCorrected pa (setEcc pa .good s1)
    | .bad => if n ≥ 8 then setEcc pa .good s1 else s1

/-- A write of `n` bytes, 8 at a time (R112). -/
def writeWide (pa n v : Nat) (s : State) : State :=
  (upto (cdiv n 8)).foldl (fun s i => writeMem (pa + 8 * i) (min 8 n) (fld v (64 * i) (8 * min 8 n)) s) s

/-- A write of any number of bytes, by aligned 8-byte words (R112). -/
def writeBytes (pa : Nat) : List Byte → State → State
  | [], s => s
  | b :: bs, s =>
    -- whole aligned words at once, other bytes singly
    if pa % 8 = 0 ∧ bs.length ≥ 7 then writeWords pa (b :: bs) s
    else writeBytes (pa + 1) bs (writeMem pa 1 b.toNat s)
where
  /-- Whole words from an aligned address on. -/
  writeWords (pa : Nat) (l : List Byte) (s : State) : State :=
    let n := l.length / 8
    let s1 := (upto n).foldl (fun s i => writeMem (pa + 8 * i) 8 (bytesWord ((l.drop (8 * i)).take 8)) s) s
    (upto (l.length % 8)).foldl (fun s i => writeMem (pa + 8 * n + i) 1 ((l.getD (8 * n + i) 0).toNat) s) s1

end Sys2Proof.Machine
end

