-- ==== Sys2Proof/Machine/Operands.lean ====
section
/-! DEFINITION. Operand forms: sources and results of scalar words (R152 to R154), registers, groups, elements and masks of vector
words (R155 to R158, R195 to R197). -/
namespace Sys2Proof.Machine

/-! ### Scalar forms -/

/-- RR form: two sources under FEA and FEB, a result in xd (R154, R177). -/
def rrExec (o : RRop) (f : Word → Word → Word) (s : State) : State :=
  issue noIll [(o.a.toNat, o.fa), (o.b.toNat, o.fb)] o.d.toNat
    (fun s => finishX o.d.toNat (f (s.me.rx o.a.toNat) (s.me.rx o.b.toNat)) s) s

/-- RR form with one source. -/
def raExec (o : RAop) (f : Word → Word) (s : State) : State :=
  issue noIll [(o.a.toNat, o.fa)] o.d.toNat (fun s => finishX o.d.toNat (f (s.me.rx o.a.toNat)) s) s

/-- sext(imm16, 16) and zext(imm16, 16) as 64-bit words (R179). -/
def immS (i : BitVec 16) : Word := i.signExtend 64
def immZ (i : BitVec 16) : Word := i.zeroExtend 64

/-- RI form: one source that always waits, and an immediate (R154, R179). -/
def riExec (o : RIop) (f : Word → BitVec 16 → Word) (s : State) : State :=
  issue noIll [(o.a.toNat, false)] o.d.toNat (fun s => finishX o.d.toNat (f (s.me.rx o.a.toNat) o.i) s) s

/-! ### Vector registers, groups and elements (R131, R195) -/

/-- Element widths and groupings of their codes (R51). -/
def sewBits (c : Nat) : Nat := 8 * 2 ^ (c % 4)
def grpN (c : Nat) : Nat := 2 ^ (c % 4)

/-- The bit string of the group of `g` registers at `r`, VLEN = `vlen` (R195). -/
def groupN (v : Vlc) (vlen r : Nat) : Nat → Nat
  | 0 => 0
  | g + 1 => (tget 0 v.v r).toNat % 2 ^ vlen + 2 ^ vlen * groupN v vlen (r + 1) g

/-- Writes the bit string of a group. -/
def setGroupN (vlen r : Nat) : Nat → Nat → Vlc → Vlc
  | 0, _, v => v
  | g + 1, n, v => setGroupN vlen (r + 1) g (n / 2 ^ vlen) { v with v := tset 0 v.v r (BitVec.ofNat 3072 (n % 2 ^ vlen)) }

/-- Bit `i` of a mask register; k0 as a mask source reads as all ones (R196). -/
def kbit (v : Vlc) (k i : Nat) : Bool := k == 0 || (tget 0 v.k k).getLsbD i

/-- Whether element `i` is active (R196). -/
def active (v : Vlc) (m : VMask) (i : Nat) : Bool := m.km == 0 || kbit v m.km.toNat i == !m.kp

/-- The unit of replication in bits: an element, or 64, 128, 256 bits (R156). -/
def repUnit (sew : Nat) (m : BitVec 3) : Nat :=
  match m.toNat % 4 with
  | 0 => sew
  | 1 => 64
  | 2 => 128
  | _ => 256

/-- Element `i` of a source bit string under its modifier (R156). -/
def srcElem (str sew : Nat) (m : BitVec 3) (i : Nat) : Nat :=
  if m.getLsbD 2 then fld str (sew * i % repUnit sew m) sew else elemN str sew i

/-- The whole source string under its modifier, over `vl` elements. -/
def srcString (str sew vl : Nat) (m : BitVec 3) : Nat :=
  if m.getLsbD 2 then (upto vl).foldr (fun i acc => acc * 2 ^ sew + srcElem str sew m i) 0 else str

/-- Replaces the elements `i` for which `f i` gives a value, `w` bits each, below `n`. -/
def mapElems (str w n : Nat) (f : Nat → Option Nat) : Nat :=
  (upto n).foldl (fun acc i => match f i with | some v => putFld acc (w * i) w v | none => acc) str

/-! ### Empty elements (R204) -/

/-- The first and last byte places of element `i` of a group at `r`: register × 384 + byte within the register. -/
def elemBytes (vlen r w i : Nat) : List Nat :=
  (upto (w / 8)).map (fun j => let b := i * (w / 8) + j; (r + b / (vlen / 8)) * 384 + b % (vlen / 8))

/-- Whether element `i` of the group at `r` is empty. -/
def elemEmpty (v : Vlc) (vlen r w i : Nat) : Bool := (elemBytes vlen r w i).any (fun k => tget false v.vempty k)

/-- Marks element `i` of the group at `r` empty or full. -/
def markElem (vlen r w i : Nat) (e : Bool) (v : Vlc) : Vlc :=
  { v with vempty := (elemBytes vlen r w i).foldl (fun t k => tset false t k e) v.vempty }

/-- Whether one of the bytes of the group at `r` that `read` names, by their places in its bit string, is empty. -/
def bytesEmpty (v : Vlc) (vlen r : Nat) (read : Nat → Bool) : Bool :=
  v.vempty.any (fun p => r ≤ p.1 / 384 && read ((p.1 / 384 - r) * (vlen / 8) + p.1 % 384))

end Sys2Proof.Machine
end

