-- ==== Sys2Proof/Machine/Access.lean ====
section
/-! DEFINITION. Accesses in flight: their order (R110 to R118, R202), the strip store buffer (R57, R115), and what happens when one performs
at its target or at the far-atomic home (R93, R104, R108, R349, R380, R391). -/
namespace Sys2Proof.Machine

/-! ### Order (R81, R114, R116) -/

/-- Whether two byte ranges meet. -/
def rangesMeet (a n b m : Nat) : Bool := a < b + m && b < a + n

/-- Whether two accesses touch a common byte. -/
def sameByte (t : Target) (n : Nat) (u : Target) (m : Nat) : Bool :=
  match t, u with
  | .loc a, .loc b => rangesMeet a n b m
  | .rem x c a, .rem y d b => x == y && c == d && rangesMeet a n b m
  | _, _ => false

/-- Whether program order is kept between two accesses of one VLC: one class, a common byte, or both DEV (R81, R114, R116). -/
def keeps (c : Nat) (t : Target) (n : Nat) (dev : Bool) (c' : Nat) (t' : Target) (n' : Nat) (dev' : Bool) : Bool :=
  c == c' || (dev && dev') || sameByte t n t' n'

/-- Whether the vault of a target lies in the unit of scope `sc` of VLC `n` (R105, R118). -/
def inScope (n sc : Nat) (t : Target) : Bool :=
  match t with
  | .rem _ _ _ => decide (sc ≥ 4)
  | .loc pa =>
    match sc with
    | 0 => paMVault pa == vaultOf n
    | 1 => quadOf (paMVault pa) == quadOf (vaultOf n)
    | 2 => paStack pa == stackOf n
    | _ => true

/-- Whether an access in flight is one for order: the check of a store that has entered the buffer is none (R361). -/
def Access.counts (a : Access) : Bool := a.kind != .probe || a.vdst.isSome

/-- An older access of VLC `n` that has not performed and comes before an access of class `c` to `t`: in flight, or a store or atomic of a
vector word that has not retired. Elements of one word keep the order of `ser` where they are DEV, or stores of one byte (R81, R113). -/
def blockedBy (s : State) (n id ser c : Nat) (t : Target) (size : Nat) (dev : Bool) : Bool :=
  s.net.any (fun a => a.vlc == n && a.counts &&
    ((a.id < id && (a.seqd || keeps a.cls a.tgt a.size a.dev c t size dev)) ||
     (a.id == id && a.ser < ser && (a.seqd || (a.dev && dev) || (a.kind == .store && sameByte a.tgt a.size t size))))) ||
  (rqOf s n).any (fun r => r.e.id < id &&
    (r.stores.any (fun b => keeps b.cls b.tgt b.size b.dev c t size dev) || r.atoms.any (fun b => keeps b.cls b.tgt b.size b.dev c t size dev)))

/-- A fence of VLC `n` older than `id` that covers this access, with an older access of its mask and scope still to perform (R117, R118). -/
def fenced (s : State) (n id c : Nat) (t : Target) : Bool :=
  (getVlc s n).fences.any (fun f => f.id < id && f.mask.getLsbD c && inScope n f.scope t &&
    (s.net.any (fun a => a.vlc == n && a.counts && a.id < f.id && f.mask.getLsbD a.cls && inScope n f.scope a.tgt) ||
     (rqOf s n).any (fun r => r.e.id < f.id && (r.stores.any (fun b => f.mask.getLsbD b.cls && inScope n f.scope b.tgt) ||
       r.atoms.any (fun b => f.mask.getLsbD b.cls && inScope n f.scope b.tgt)))))

/-! ### What waits at banks (R263, R264, R268, R395 to R398) -/

/-- Whether a checkpoint keeps new commands and operations from being accepted (R409). -/
def closed (s : State) : Bool := s.mgmt.ckstate == 1 && !s.mgmt.ckdir

/-- Whether what waits still does: its access, word, operation, request or context is there, and its word is the one that would go on. -/
def waitLive (s : State) (w : Waiting) : Bool :=
  match w.who with
  | .acc n => s.net.any (fun a => a.ser == n && !blockedBy s a.vlc a.id a.ser a.cls a.tgt a.size a.dev)
  | .word n id => (viqOf s n).any (fun e => e.id == id) && decide ((getVlc s n).faults.length < 16)
  | .retire n id => (rqOf s n).any (fun r => r.e.id == id)
  | .scalar n pc => let v := getVlc s n; v.status == .running && v.wait == .none && v.pc.toNat == pc && decide (v.faults.length < 16)
  | .op id => s.ops.any (fun o => o.id == id && !o.dead && (!o.stopped || decide (o.owed > 0)) && (o.accepted || !closed s))
  | .host id => s.hostq.any (fun r => r.id == id && !lineWaits s r)
  | .peer id => s.peerq.any (fun r => r.id == id)
  | .root vi seq => s.launches.any (fun l => l.vi == vi && l.seq == seq)
  | .preload v => match (tget {} s.sched.down (quadOf v)).queue with | .preload u _ :: _ => u == v | _ => false
  | .area n => (getVlc s n).status == .draining || (getVlc s n).status == .restoring || (tget none s.sched.pend n).isSome || (tget none s.sched.awaits n).isSome

/-- Whether it waits for a host access. -/
def Waiter.isHost : Waiter → Bool
  | .host _ => true
  | _ => false

/-- Whether a bank may serve `who` in the present step of a boundary: in step 3 what has arrived during step 2 (R264). -/
def inStep (s : State) (who : Waiter) (pa : Nat) : Bool :=
  match cmdOver s pa with
  | some c => !c.third || (match waitingOf s who with | some w => decide (w.arr ≥ c.since) | none => true)
  | none => true

/-- Whether the banks could serve all of what one waits for now. -/
def Waiting.able (s : State) (w : Waiting) : Bool := w.pas.all (fun a => bankFree s w.agent a && inStep s w.who a) && !walkWaits s w.walk

/-- Whether two lists of PAs meet at a bank. -/
def sharesBank (s : State) (l m : List Nat) : Bool := l.any (fun a => paDram a && m.any (fun b => paDram b && bankOf s a == bankOf s b))

/-- Whether something waits at a bank of `pas` that the bank serves before `who`: what arrived there before it, and the host's accesses before all others
(R264, R396, R397). What a lock or another bank still holds back holds up nothing behind it. -/
def behindOther (s : State) (who : Waiter) (pas : List Nat) : Bool :=
  let before (w : Waiting) : Bool := match waitingOf s who with | some x => decide (w.arr < x.arr) | none => true
  s.waits.any (fun w => w.who != who && (if who.isHost then w.who.isHost && before w else w.who.isHost || before w) && waitLive s w &&
    sharesBank s w.pas pas && w.able s)

/-- Whether the banks of `pas` serve `who` now: each is free, it has no other access to serve first, and no lock is in the way (R263, R264, R268, R396). -/
def bankTurn (s : State) (who : Waiter) (agent : Nat) (pas : List Nat) : Bool :=
  pas.all (fun pa => bankFree s agent pa && inStep s who pa) && !behindOther s who pas

/-- `who` waits at the banks of `pas`, and of the table words `walk`, from now on; or goes on waiting. -/
def awaitTurn (who : Waiter) (agent : Nat) (pas walk : List Nat) (s : State) : State :=
  let new (n : Nat) : Waiting := { who := who, arr := n, agent := agent, pas := pas, walk := walk }
  if (pas ++ walk).all (fun a => !paDram a) then s
  else match waitingOf s who with
  | some w => if w = new w.arr then s else { s with waits := s.waits.map (fun x => if x.who == who then new x.arr else x) }
  | none => bump { s with waits := s.waits.filter (waitLive s) ++ [new s.nextId] }

/-- Those of the walks of `l` that their banks serve now are made, and their translations kept, though the accesses still wait (R75, R398). -/
def walkAhead (l : List Passed) (s : State) : State :=
  l.foldl (fun s p => if p.walk.isEmpty || isHeld p.made s || walkWaits s p.walk then s else takeWalk p.walk p.made s) s

/-- The target of an access that is in this module. -/
def Target.here : Target → List Nat
  | .loc pa => [pa]
  | .rem _ _ _ => []

/-- `who` waits for accesses that have passed their checks: walks go on by themselves (R398). -/
def awaitPassed (who : Waiter) (agent : Nat) (l : List Passed) (s : State) : State :=
  let t := walkAhead l s
  awaitTurn who agent (l.flatMap (fun p => p.tgt.here)) ((l.flatMap (fun p => p.walk)).filter (fun a => walkWaits s [a])) t

/-- The scalar word of VLC `n`, as one that waits. -/
def scalarWaiter (s : State) (n : Nat) : Waiter := .scalar n (getVlc s n).pc.toNat

/-- The scalar word of the current VLC waits for the walk reads `l` that find their banks held. -/
def awaitBanks (l : List Nat) (s : State) : State :=
  if walkWaits s l then awaitTurn (scalarWaiter s s.cur) s.me.agent [] (l.filter (fun a => walkWaits s [a])) s else s

/-! ### Accesses to other modules (R308, R310, R312) -/

/-- The link by which a request to module `m` leaves: of its mask's links that are up, the one that VA[15:12] of its target selects (R312, R406);
while all are down, of the whole mask. -/
def linkFor (s : State) (m va : Nat) : Nat :=
  let mask := fld (tget 0 s.mgmt.route m).toNat 0 24
  let all := (upto 24).filter (fun i => bitN mask i)
  let on := all.filter (fun i => s.fabric.linkup.getLsbD i)
  let ls := if on.isEmpty then all else on
  ls.getD (fld va 12 4 % max 1 ls.length) 0

/-- Whether every link of a module's mask is down, so that requests to it wait (R407). -/
def maskDown (s : State) (m : Nat) : Bool :=
  let mask := fld (tget 0 s.mgmt.route m).toNat 0 24
  mask != 0 && (upto 24).all (fun i => !(bitN mask i && s.fabric.linkup.getLsbD i))

/-- A flit has been delivered on a link: its failures no longer count (R406). -/
def noteFlit (link : Nat) (s : State) : State := { s with fabric := { s.fabric with retries := tset 0 s.fabric.retries link 0 } }

/-- Promised cycles of a remote access (R308): 3,300 + 6,600 h. -/
def remoteDue (s : State) (t : Target) : Nat :=
  match t with
  | .rem m _ _ => s.cyc + 3300 + 6600 * fld (tget 0 s.mgmt.route m).toNat 24 4
  | .loc _ => 0

/-- What an access to another module carries: the VI that VCTL.FRVI names, its link, and its promise. -/
def routed (s : State) (a : Access) : Access :=
  match a.tgt with
  | .rem m _ _ => { a with rvi := fld (getVi s (getVlc s a.vlc).vi).vctl.toNat 8 8, link := linkFor s m a.va, due := remoteDue s a.tgt }
  | .loc _ => a

/-- An access goes in flight. -/
def sendNet (a : Access) (s : State) : State := bump { s with net := s.net ++ [routed s { a with ser := s.nextId }] }

/-! ### Consumed errors (R379, R380) -/

/-- Whether the open strip of a context is rewindable (R379). -/
def Vlc.rewindable (v : Vlc) : Bool := v.sopen && !v.sbfull && !v.devs && !v.irrev && !v.rwd && !v.hnd

/-- An event of R379 that cannot be undone happens in the open strip. -/
def noteIrrev (n : Nat) (s : State) : State := updVlc n (fun v => if v.sopen then { v with irrev := true } else v) s

/-- An access that fails with `code` at its target: class D, and a code of the token table names the entry (R347); its register is filled with 0
(R349). The entry that another module's check has met is not named: it lies in no table of this module (R314; DESIGN CHOICE, log 73). -/
def deferFault (a : Access) (code : Nat) (s : State) : State :=
  let f : FRec := { code := code, cls := 2, reg := a.reg, origin := a.origin, addr := a.va }
  let f := match a.tgt with | .loc pa => if paDram pa && [cUNOWNED, cSHARE_WRITE, cSUSPECT].contains code then withToken s pa f else f | _ => f
  let s1 := match a.kind with
    | .store => s
    | _ => updVlc a.vlc (fun v => v.fillX a.reg 0) s
  queueFault a.vlc f a.id s1

/-- Removes an access that has performed. -/
def dropAcc (ser : Nat) (s : State) : State := { s with net := s.net.filter (fun a => a.ser != ser) }

/-- An access of VLC `n` to DEV memory performs: the older ones that are still on their way to other modules have not met DEV memory there (R81). -/
def settleDev (n id ser : Nat) (s : State) : State :=
  { s with net := s.net.map (fun b => if b.vlc == n && (decide (b.id < id) || (b.id == id && decide (b.ser < ser))) then { b with plain := true } else b) }

/-- The same for an access that performs, if it is one to DEV memory. -/
def noteDone (a : Access) (s : State) : State := if a.dev then settleDev a.vlc a.id a.ser (dropAcc a.ser s) else dropAcc a.ser s

/-- Sends a result on its way (R175). -/
def sendFill (a : Access) (v : Nat) (s : State) : State :=
  if a.dead then s else { s with fills := s.fills ++ [{ vlc := a.vlc, reg := a.reg, val := v, vdst := a.vdst, size := a.size }] }

/-- A scalar load that consumes an uncorrectable word: its strip is rewound, or UE_CONSUMED, class D (R380). -/
def consumeLoad (a : Access) (s : State) : State :=
  if (getVlc s a.vlc).rewindable then
    updVlc a.vlc (fun v => { v.fillX a.reg 0 with rewind := true }) s
  else deferFault a cUE_CONSUMED s

/-- A value sign- or zero-extended from `n` bytes (R183). -/
def extend (sgn : Bool) (n v : Nat) : Nat := if sgn then (wI (sx (8 * n) v)).toNat else v

/-- Replaces the bytes of `v` that `m` names by those of `f` (R57). -/
def mergeBytes (n v f m : Nat) : Nat :=
  (upto n).foldl (fun acc i => if bitN m i then putFld acc (8 * i) 8 (fld f (8 * i) 8) else acc) v

/-- Whether an access may perform now: nothing before it is in flight, and its bank serves it (R114, R263, R264, R268). -/
def mayPerform (s : State) (a : Access) : Bool :=
  !blockedBy s a.vlc a.id a.ser a.cls a.tgt a.size a.dev &&
  (match a.tgt with
    | .loc pa => bankTurn s (.acc a.ser) (getVlc s a.vlc).agent [pa] && !(a.kind == .load && mboxWaits s pa a.size)
    | .rem _ _ _ => true)

/-- An access that may not perform yet waits at its bank, once nothing before it is in flight. -/
def awaitAcc (a : Access) (pa : Nat) (s : State) : State :=
  if blockedBy s a.vlc a.id a.ser a.cls a.tgt a.size a.dev then s else awaitTurn (.acc a.ser) (getVlc s a.vlc).agent [pa] [] s

/-- The target check of an access of a context to DRAM: R93, then SUSPECT; none for scratchpads and I-stores (R78). -/
def targetCheck (s : State) (a : Access) (k : Want) (pa : Nat) : Option Nat :=
  if !paDram pa || a.chk then none else tokenCheck s (getVlc s a.vlc).agent pa k (a.size ≤ 8 && pa % a.size == 0)

/-- A load or store performs at its target vault complex (R93, R110, R349, R391). -/
def performAt (a : Access) (pa : Nat) (s : State) : State :=
  let s := noteDone a s
  match a.kind with
  | .store =>
    match targetCheck s a .write pa with
    | some c => if a.dead then s else deferFault a c s
    | none => if isLost s pa then (if a.dead then s else deferFault a cUE_CONSUMED s) else writeWide pa a.size a.data s
  | _ =>
    match targetCheck s a .read pa with
    | some c => if a.dead then s else deferFault a c s
    | none =>
      match readMem pa a.size (getVlc s a.vlc).agent s with
      | (none, s1) => if a.dead then s1 else consumeLoad a s1
      | (some v, s1) => sendFill a (extend a.sgn a.size (mergeBytes a.size v a.fwd a.fmask)) s1

/-- The word an atomic leaves (R185): operations 0 to 7 are aadd, aand, aor, axor, amin, amax, aswap, acas. -/
def atomicNew (op w old b d : Nat) : Nat :=
  match op with
  | 0 => (old + b) % 2 ^ w
  | 1 => old &&& (b % 2 ^ w)
  | 2 => old ||| (b % 2 ^ w)
  | 3 => old ^^^ (b % 2 ^ w)
  | 4 => if sx w old ≤ sx w b then old else b % 2 ^ w
  | 5 => if sx w old ≥ sx w b then old else b % 2 ^ w
  | 6 => b % 2 ^ w
  | _ => if old = d % 2 ^ w then b % 2 ^ w else old

/-- The home's check of a word: the home rules, SUSPECT, then uncorrectable data (R93, R391, R402). -/
def homeCheck (s : State) (agent pa size : Nat) : Option Nat :=
  if !paDram pa then some cUNOWNED
  else match tokenCheck s agent pa .atomic (pa % size == 0) with
    | some c => some c
    | none => if ueIn s pa size then some cUE_CONSUMED else none

/-- A gather-atomic has received its last result: SMM is written when nothing failed; otherwise its fault is raised, class V, and it and the
younger words are held (R106, R348, R391). -/
def gatherEnd (n : Nat) (g : Gather) (s : State) : State :=
  match g.fault with
  | some f => holdWords n [g.e] g.e.id f s
  | none => updVlc n (fun v => match g.smm with | some m => { v with smm := wN m } | none => v) s

/-- The fault record of a word that faults after it has left the VIQ. -/
def wordRec (e : VEntry) (f : FRec) : FRec := { f with cls := 1, vec := true, slot := e.slot, origin := e.blk }

/-- One result of the gather-atomic of an element access has come back; `bad` is the fault code of an element that failed, with its address. The lowest
such element is reported, with ESTART = VL where every element was sent (R391), and else with that element (R364). -/
def gatherDone (a : Access) (bad : Option (Nat × Nat)) (s : State) : State :=
  match (getVlc s a.vlc).gath.find? (fun g => g.e.id == a.id) with
  | none => s
  | some g =>
    let i := (a.vdst.getD (0, 0)).2
    let lower : Bool := match g.ue with | some k => i < k | none => true
    let g0 := match bad with
      | some (c, va) => if lower then { g with ue := some i, fault := some (wordRec g.e { code := c, addr := va, estart := if g.cut then i else g.e.vl }) } else g
      | none => g
    let g1 := { g0 with left := g.left - 1 }
    if g1.left = 0 then
      gatherEnd a.vlc g1 (updVlc a.vlc (fun v => { v with gath := v.gath.filter (fun x => x.e.id != a.id) }) s)
    else updVlc a.vlc (fun v => { v with gath := v.gath.map (fun x => if x.e.id == a.id then g1 else x) }) s

/-- A gather-atomic element that meets an uncorrectable word, or a module that cannot be reached: its element is 0 and full (R391, R407). -/
def elementBad (code : Nat) (a : Access) (s : State) : State :=
  gatherDone a (some (code, a.va)) { s with fills := s.fills ++ [{ vlc := a.vlc, reg := a.reg, val := 0, vdst := a.vdst, size := a.size }] }

/-- A far atomic performs at its home: read and write are one event (R104, R110, R185). The elements of a gather-atomic were checked when it
executed (R364, R370). -/
def atomicAt (a : Access) (pa : Nat) (s : State) : State :=
  let s := noteDone a s
  match (if a.chk then (if ueIn s pa a.size then some cUE_CONSUMED else none) else homeCheck s (getVlc s a.vlc).agent pa a.size) with
  | some c =>
    let s := if c = cUE_CONSUMED then logUe pa a.size (getVlc s a.vlc).agent s else s
    if a.dead then s
    else if a.vdst.isSome then elementBad c a s
    else deferFault a c s
  | none =>
    let s1 := correctIn pa a.size s
    let old := mread s1.mem pa a.size
    let s2 := writeMem pa a.size (atomicNew a.op (8 * a.size) old a.data a.cmp) s1
    if a.vdst.isSome then gatherDone a none (sendFill a old s2) else sendFill a (wI (sx (8 * a.size) old)).toNat s2

/-! ### Barrier words (R107, R108) -/

def barPend (w : Nat) : Nat := fld w 0 24
def barEpoch (w : Nat) : Nat := fld w 32 32

/-- Sets PEND, and advances EPOCH when it goes from a non-zero value to 0 (R108). -/
def barSet (w p : Nat) : Nat :=
  let w1 := putFld w 0 24 p
  if barPend w ≠ 0 ∧ p = 0 then putFld w1 32 32 (barEpoch w + 1) else w1

/-- Init, credit and debit (R108). -/
def barInit (w n : Nat) : Nat := putFld (barSet w n) 24 1 0
def barCredit (w b : Nat) : Option Nat := if barPend w + b > 16777215 then none else some (barSet w (barPend w + b))
def barDebit (w b : Nat) : Nat := if b > barPend w then putFld (barSet w 0) 24 1 1 else barSet w (barPend w - b)

/-- Writes a register of VLC `n`, ends its wait and moves its pc on: an instruction that writes xd before the VLC issues again (R175, R298). -/
def answer (n reg : Nat) (w : Word) (s : State) : State :=
  updVlc n (fun v => { v.wx reg w with pc := v.pc + 4, wait := .none, cost := v.cost + 1 }) s

/-- The word after the barrier operation of an access. -/
def barNew (a : Access) (old : Nat) : Nat := if a.kind = .barInit then barInit old a.data else barDebit old a.data

/-- `bar.init` or `bar.arrive` at the home: the word before the operation answers (R108, R298, R391). -/
def barrierAt (a : Access) (pa : Nat) (s : State) : State :=
  let s := noteDone a s
  if ueIn s pa 8 then
    let s := logUe pa 8 (getVlc s a.vlc).agent s
    if a.dead then s
    else queueFault a.vlc { code := cUE_CONSUMED, cls := 2, reg := a.reg, origin := a.origin, addr := a.va } a.id (answer a.vlc a.reg 0 s)
  else
    let s1 := correctIn pa 8 s
    let old := mread s1.mem pa 8
    let s2 := writeMem pa 8 (barNew a old) s1
    if a.dead then s2 else answer a.vlc a.reg (wN old) s2

/-- Sets the event bits of the other VLCs of the core of `n` (R192). -/
def wakeCore (n : Nat) (s : State) : State :=
  (upto 4).foldl (fun s j =>
    let m := coreOf n * 4 + j
    if m = n ∨ (getVlc s m).status = .free then s else updVlc m (fun v => { v with event := true }) s) s

/-- Whether the home accesses the word of a `bar.wait`: as the wait arrives, and later when what the word holds ends the wait. -/
def homeLooks (s : State) (a : Access) (pa : Nat) : Bool :=
  let w := mread s.mem pa 8
  ueIn s pa 8 || (match a.e0 with | none => true | some e => barPend w == 0 || barEpoch w != e)

/-- `bar.wait` at the home: samples EPOCH when it arrives, ends when PEND = 0 or EPOCH ≠ e0; a single error is corrected and counted (R109, R298, R390). -/
def waitAt (a : Access) (pa : Nat) (s : State) : State :=
  if ueIn s pa 8 then
    queueFault a.vlc { code := cUE_CONSUMED, cls := 2, reg := a.reg, origin := a.origin, addr := a.va } a.id
      (answer a.vlc a.reg 0 (logUe pa 8 (getVlc s a.vlc).agent (dropAcc a.ser s)))
  else
    let s1 := noteServed pa (correctIn pa 8 s)
    let w := mread s.mem pa 8
    let e0 := a.e0.getD (barEpoch w)
    if barPend w = 0 ∨ barEpoch w ≠ e0 then wakeCore a.vlc (answer a.vlc a.reg (wN w) (dropAcc a.ser s1))
    else { s1 with net := s1.net.map (fun b => if b.ser == a.ser then { b with e0 := some e0 } else b) }

/-! ### Events of accesses in flight -/

/-- The access of serial number `id`. -/
def findAcc (s : State) (id : Nat) : Option Access := s.net.find? (fun a => a.ser == id)

/-- TARGET_ACCESS: the load or store of serial number `n` performs; not enabled while it must wait (R110). -/
def execTargetAccess (n : Nat) (s : State) : Result :=
  .next (match findAcc s n with
    | some a =>
      match a.kind, a.tgt with
      | .load, .loc pa => if mayPerform s a then performAt a pa s else awaitAcc a pa s
      | .store, .loc pa => if mayPerform s a then performAt a pa s else awaitAcc a pa s
      | _, _ => s
    | none => s)

/-- HOME_ATOMIC: the far atomic of serial number `n` performs at its home (R104). -/
def execHomeAtomic (n : Nat) (s : State) : Result :=
  .next (match findAcc s n with
    | some a =>
      match a.kind, a.tgt with
      | .atomic, .loc pa => if mayPerform s a then atomicAt a pa s else awaitAcc a pa s
      | _, _ => s
    | none => s)

/-- HOME_BAR_INIT: the `bar.init` of serial number `n` performs at the home (R108). -/
def execHomeBarInit (n : Nat) (s : State) : Result :=
  .next (match findAcc s n with
    | some a =>
      match a.kind, a.tgt with
      | .barInit, .loc pa => if mayPerform s a then barrierAt a pa s else awaitAcc a pa s
      | _, _ => s
    | none => s)

/-- HOME_DEBIT: the debit of the `bar.arrive` of serial number `n` performs at the home (R108). -/
def execHomeDebit (n : Nat) (s : State) : Result :=
  .next (match findAcc s n with
    | some a =>
      match a.kind, a.tgt with
      | .barArrive, .loc pa => if mayPerform s a then barrierAt a pa s else awaitAcc a pa s
      | _, _ => s
    | none => s)

/-- HOME_WAIT: the home looks at the word of the `bar.wait` of serial number `n` (R109). -/
def execHomeWait (n : Nat) (s : State) : Result :=
  .next (match findAcc s n with
    | some a =>
      match a.kind, a.tgt with
      | .barWait, .loc pa =>
        if !homeLooks s a pa then s
        else if bankTurn s (.acc a.ser) (getVlc s a.vlc).agent [pa] then waitAt a pa s
        else awaitTurn (.acc a.ser) (getVlc s a.vlc).agent [pa] [] s
      | _, _ => s
    | none => s)

/-- REGISTER_FILL: the result in place `n` of those on their way fills its register, or its vector element (R175, R204). -/
def execRegisterFill (n : Nat) (s : State) : Result :=
  .next (match s.fills[n]? with
    | some f =>
      if f.rq && ((s.fills.take n).any (fun g => g.rq && g.vlc == f.vlc) || (getVlc s f.vlc).rewind) then s else
      let s1 := { s with fills := s.fills.eraseIdx n }
      match f.vdst with
      | none => updVlc f.vlc (fun v => if f.rq && !v.isPend f.reg then { v with event := true } else v.fillX f.reg (wN f.val)) s1
      | some (r, i) =>
        let w := 8 * f.size
        let vlen := vlenOf s f.vlc
        updVlc f.vlc (fun v =>
          let k := w * i / vlen
          let old := (tget 0 v.v (r + k)).toNat
          markElem vlen r w i false { v with v := tset 0 v.v (r + k) (BitVec.ofNat 3072 (putFld old (w * i % vlen) w f.val)) }) s1
    | none => s)

/-- The answer for a vector element is kept with its word: to its checks the code, the PA and whether it is DEV memory; to its load the code and data
(R364). -/
def keepAnswer (a : Access) (code data : Nat) (dev : Bool) (s : State) : State :=
  match a.vdst with
  | some (_, key) => updCore (coreOf a.vlc) (fun c => { c with
      viq := c.viq.map (fun e =>
        if e.id == a.id && e.vlc == a.vlc then
          (if a.kind == .load then { e with got := tset (0, 0) e.got key (code + 1, data) } else { e with answers := tset (0, 0, false) e.answers key (code + 1, data, dev) })
        else e) }) s
  | none => s

/-- The answer to the check of a store that has entered the strip buffer: a store that fails is removed, class D; one that passes is not checked again
(R361); one to DEV memory performs directly and sets DEVS (R57, R81). -/
def bufferAnswer (a : Access) (code data : Nat) (dev : Bool) (s : State) : State :=
  let mine (b : Buf) : Bool := b.id == a.id && b.va == a.va
  if code ≠ 0 then deferFault { a with kind := .store, op := 0 } code (updVlc a.vlc (fun v => { v with sbuf := v.sbuf.filter (fun b => !mine b) }) s)
  else if dev then
    match (getVlc s a.vlc).sbuf.find? mine with
    | some b =>
      sendNet { a with kind := .store, op := 0, data := b.data, dev := true, chk := true, rpa := some data } (updVlc a.vlc (fun v => { v with sbuf := v.sbuf.filter (fun b => !mine b), devs := true }) s)
    | none => s
  else updVlc a.vlc (fun v => { v with sbuf := v.sbuf.map (fun b => if mine b then { b with rpa := some data } else b) }) s

/-- Whether a peer may answer an access so: an access performs after those that come before it (R81, R114); one has not met DEV memory once a younger access
to DEV memory has performed (R81); one whose checks have been made fails none of them (R370); and none comes while the module cannot be reached (R407). -/
def mayAnswer (s : State) (a : Access) (code : Nat) (dev : Bool) : Bool :=
  !(match a.tgt with | .rem m _ _ => maskDown s m | .loc _ => false) && !(dev && a.plain) && (a.kind == .probe || !blockedBy s a.vlc a.id a.ser a.cls a.tgt a.size (a.dev || dev)) &&
    (a.rpa.isNone || code == 0 || code == cUE_CONSUMED || code == cFABRIC)

/-- The answer of a peer to a remote access: data, or a fault of the target, class D (R314, R349); `dev` says that the access has met DEV memory there, which
an open strip notes (R57). -/
def remoteReply (ser code data : Nat) (dev : Bool) (s0 : State) : State :=
  match findAcc s0 ser with
  | some a =>
    match a.tgt with
    | .loc _ => s0
    | .rem _ _ _ =>
      if !mayAnswer s0 a code dev then s0
      else
      let s0 := noteFlit a.link s0
      let s1 := if a.kind = .probe then dropAcc ser s0
        else noteDone { a with dev := a.dev || dev } (if dev && !a.dead then updVlc a.vlc (fun v => if v.sopen then { v with devs := true } else v) s0 else s0)
      if a.dead then s1
      else if a.kind = .probe then (if a.vdst.isSome then keepAnswer a code data dev s1 else bufferAnswer a code data dev s1)
      else if a.vdst.isSome && a.kind = .load then keepAnswer a code data dev s1
      else if a.vdst.isSome then
        (if code ≠ 0 then elementBad code a s1 else gatherDone a none (sendFill a data s1))
      else if code ≠ 0 then deferFault a code s1
      else if a.kind = .store then s1
      else sendFill a (if a.kind = .load then extend a.sgn a.size (mergeBytes a.size data a.fwd a.fmask) else (wI (sx (8 * a.size) data)).toNat) s1
  | none => s0

/-! ### The strip store buffer (R57, R89, R115) -/

/-- Bytes held in a strip store buffer. -/
def bufBytes (b : List Buf) : Nat := b.foldl (fun n x => n + x.size) 0

/-- Whether nothing but banks keeps the buffered stores from performing: accesses and stores of retiring words before them have performed, and their checks at
other modules are answered. -/
def flushOpen (s : State) (n : Nat) : Bool :=
  !s.net.any (fun a => a.vlc == n && !a.counts) && (getVlc s n).sbuf.all (fun b => !blockedBy s n b.id 0 b.cls b.tgt b.size b.dev)

/-- PAs of the buffered stores in this module. -/
def flushPas (s : State) (n : Nat) : List Nat := (getVlc s n).sbuf.flatMap (fun b => b.tgt.here)

/-- Whether the buffered stores may perform for `who`, the scalar word of the VLC unless it is a word that retires: nothing is before them, and their banks
serve them. -/
def mayFlush (s : State) (n : Nat) (who : Waiter := scalarWaiter s n) : Bool := flushOpen s n && bankTurn s who (getVlc s n).agent (flushPas s n)

/-- One store performs at memory, or leaves for a peer; its checks were made when it was issued (R361). -/
def performStore (n : Nat) (b : Buf) (s : State) : State :=
  match b.tgt with
  | .loc pa => writeWide pa b.size b.data s
  | .rem _ _ _ =>
    sendNet { id := b.id, vlc := n, kind := .store, va := b.va, tgt := b.tgt, size := b.size, cls := b.cls, dev := b.dev, data := b.data, origin := b.origin,
              chk := true, rpa := b.rpa } s

/-- One store of a flushed buffer: once a store of the sequence has left for a peer, it and those behind it are in flight in their order (R115). -/
def flushStore (n : Nat) (b : Buf) (s : State) : State :=
  match b.tgt with
  | .loc pa =>
    if s.net.any (fun a => a.vlc == n && a.seqd) then
      sendNet { id := b.id, vlc := n, kind := .store, va := b.va, tgt := .loc pa, size := b.size, cls := b.cls, data := b.data, origin := b.origin, chk := true,
                seqd := true } s
    else performStore n b s
  | .rem _ _ _ =>
    sendNet { id := b.id, vlc := n, kind := .store, va := b.va, tgt := b.tgt, size := b.size, cls := b.cls, dev := b.dev, data := b.data, origin := b.origin,
              chk := true, rpa := b.rpa, seqd := true } s

/-- A store that performs directly behind a flushed buffer: while a store of the flush is still in flight, so is this one, behind it (R57, R115). -/
def directStore (n : Nat) (b : Buf) (s : State) : State :=
  let a : Access := { id := b.id, vlc := n, kind := .store, va := b.va, tgt := b.tgt, size := b.size, cls := b.cls, dev := b.dev, data := b.data,
                      origin := b.origin, chk := true, rpa := b.rpa, vec := true }
  match b.tgt with
  | .loc _ => if s.net.any (fun x => x.vlc == n && x.seqd && x.id < b.id) then sendNet a s else performStore n b (if b.dev then settleDev n b.id 0 s else s)
  | .rem _ _ _ => sendNet a s

/-- The current word waits for its flush, at the banks of its buffered stores once nothing else keeps them (R263). -/
def awaitFlush (s : State) : State :=
  if flushOpen s s.cur && !mayFlush s s.cur then awaitTurn (scalarWaiter s s.cur) s.me.agent (flushPas s s.cur) [] s else s

/-- The buffered stores perform as one sequence in program order, and the buffer is empty; no load that performed before stands for one after (R115). -/
def flushBuf (n : Nat) (s : State) : State :=
  updVlc n (fun v => { v with sbuf := [], early := [] }) ((getVlc s n).sbuf.foldl (fun s b => flushStore n b s) s)

/-- A flush inside an open strip: the buffer performs and SBFULL becomes 1 (R89, R115). -/
def stripFlush (n : Nat) (s : State) : State :=
  let s1 := flushBuf n s
  updVlc n (fun v => if v.sopen then { v with sbfull := true } else v) s1

/-- Latest buffered value of the bytes of a load, with the set of bytes found (R57). -/
def forwarded (b : List Buf) (t : Target) (n : Nat) : Nat × Nat :=
  b.foldl (fun acc x =>
    (upto n).foldl (fun acc i =>
      let hit := match t, x.tgt with
        | .loc a, .loc c => if c ≤ a + i ∧ a + i < c + x.size then some (a + i - c) else none
        | .rem m c a, .rem m' c' a' => if m = m' ∧ c = c' ∧ a' ≤ a + i ∧ a + i < a' + x.size then some (a + i - a') else none
        | _, _ => none
      match hit with
      | some k => (putFld acc.1 (8 * i) 8 (fld x.data (8 * k) 8), if bitN acc.2 i then acc.2 else acc.2 + 2 ^ i)
      | none => acc) acc) (0, 0)

end Sys2Proof.Machine
end

