-- ==== Sys2Proof/Machine/Bank.lean ====
section
/-! DEFINITION. Rows, unsealed rows and the micro-ops of a running near-bank command (R15, R254, R259 to R266, R376, R377). -/
namespace Sys2Proof.Machine

/-! ### Command blocks (R254) -/

/-- An operand of a command block. -/
structure Opnd where
  there : Bool
  h : Nat
  org : Nat
  w : Nat
  frac : Nat
  uns : Bool
  t2 : Bool
  deriving DecidableEq, Repr

/-- The fields of a command block. -/
structure Blk where
  slot : Nat
  fcnt : Nat
  sealIt : Bool
  ovm : Bool
  ops : Nat
  nl : Nat
  a : Opnd
  b : Opnd
  c : Opnd
  lci0 : Nat
  lci1 : Nat
  k : Nat
  rsv : Bool
  deriving DecidableEq, Repr

/-- Dword `i` of a block. -/
def bw (l : List Nat) (i : Nat) : Nat := l.getD i 0

/-- Reads the fields of the eight dwords. -/
def readBlk (l : List Nat) : Blk :=
  let d0 := bw l 0
  let d1 := bw l 1
  let d2 := bw l 2
  {
    slot := fld d0 0 8, fcnt := fld d0 8 4, sealIt := bitN d0 12, ovm := bitN d0 13, ops := fld d0 14 3, nl := fld d0 32 17,
    a := { there := bitN d0 14, h := fld d1 0 14, org := fld d2 0 8, w := fld d2 24 5, frac := fld d2 39 5, uns := bitN d0 17, t2 := bitN d0 20 },
    b := { there := bitN d0 15, h := fld d1 16 14, org := fld d2 8 8, w := fld d2 29 5, frac := fld d2 44 5, uns := bitN d0 18, t2 := bitN d0 21 },
    c := { there := bitN d0 16, h := fld d1 32 14, org := fld d2 16 8, w := fld d2 34 5, frac := fld d2 49 5, uns := bitN d0 19, t2 := false },
    lci0 := fld (bw l 3) 0 16, lci1 := fld (bw l 3) 16 16, k := bw l 4,
    rsv := fld d0 22 10 != 0 || fld d0 49 15 != 0 || fld d1 14 2 != 0 || fld d1 30 2 != 0 || fld d1 46 18 != 0 || fld d2 54 10 != 0 ||
      fld (bw l 3) 32 32 != 0 || bw l 5 != 0 || bw l 6 != 0 || bw l 7 != 0 }

/-- The operands of a block in order. -/
def Blk.opnds (b : Blk) : List Opnd := [b.a, b.b, b.c]

/-! ### Commands -/

def getCmd (s : State) (id : Nat) : Option Cmd := s.cmds.find? (fun c => c.id == id)
def updCmd (id : Nat) (f : Cmd → Cmd) (s : State) : State := { s with cmds := s.cmds.map (fun c => if c.id == id then f c else c) }

/-- The banks of the die region of a frame: 8 for each die of a vault (R16, R263). -/
def frameBanks (s : State) (f : Nat) : List Nat := (upto 8).map (fun b => dieOf s f * 8 + b)

/-- The banks that a command holds. -/
def cmdBanks (s : State) (c : Cmd) : List Nat := c.frames.flatMap (frameBanks s)

/-- Whether two frames are stored in one die region of one vault (R17). -/
def sameRegion (s : State) (f g : Nat) : Bool := dieOf s f == dieOf s g

/-- Whether it is the vault complex that acts, and no command: nothing was accepted, and nothing is answered (R377, R393). -/
def CmdKind.own : CmdKind → Bool
  | .poison => true
  | .autoSeal => true
  | _ => false

/-- Whether no bank of the die region of a frame is refreshing, or owes a refresh (R395). -/
def banksIdle (s : State) (f : Nat) : Bool := (frameBanks s f).all (fun b => tget 0 s.repair.debt b == 0 && decide (tget 0 s.repair.busy b ≤ s.cyc))

/-- Work of the vault complex in the die region of a frame: it holds the banks as a command does, at once or when those that run there have ended and their
refreshes have been paid (log 38). -/
def startOwn (c : Cmd) (s : State) : State :=
  let f := c.frames.headD 0
  bump { s with cmds := s.cmds ++ [{ c with
           id := s.nextId, vlc := 1536, agent := 0, stack := paStack f, stage := if (cmdOver s f).isSome || !banksIdle s f then .queued else .running,
           dropped := true }] }

/-! ### Row ranges and handles (R103, R270) -/

def rrHandle (x : Nat) : Nat := fld x 0 14
def rrRow0 (x : Nat) : Nat := fld x 14 8
def rrCount (x : Nat) : Nat := fld x 22 9

def getHandle (s : State) (stack h : Nat) : Handle := if h < 16384 then tget {} s.hands (stack * 16384 + h) else {}

/-- Whether a handle is valid for a VI. -/
def handleFor (s : State) (stack vi h : Nat) : Bool := (getHandle s stack h).v && (getHandle s stack h).vi == vi

/-- An operand of a command in one frame: handle, first row, rows, and how it is used. -/
structure RowUse where
  h : Nat
  row : Nat
  n : Nat
  want : Want
  deriving DecidableEq, Repr

/-- The operands of a command, frame by frame. `bkst` of KIND 3 is checked as a read of the first row of the handle (DESIGN CHOICE, log 59). -/
def cmdUses (c : Cmd) : List (List RowUse) :=
  match c.kind with
  | .bkx =>
    let b := readBlk c.block
    let one (o : Opnd) (k : Want) (f : Nat) : List RowUse := if o.there then [⟨o.h + f, o.org, o.w, k⟩] else []
    (upto b.fcnt).map (fun f => one b.a .read f ++ one b.b .read f ++ one b.c .write f)
  | .seal => [[⟨rrHandle c.xa, rrRow0 c.xa, rrCount c.xa, .write⟩]]
  | .lock => [[⟨rrHandle c.xa, rrRow0 c.xa, rrCount c.xa, .write⟩]]
  | .red => [[⟨rrHandle c.xa, rrRow0 c.xa, rrCount c.xa, .read⟩]]
  | .clone => [[⟨rrHandle c.xa, rrRow0 c.xa, rrCount c.xa, .read⟩], [⟨rrHandle c.xb, rrRow0 c.xb, rrCount c.xb, .write⟩]]
  | .st => if c.xa % 4 = 3 then [[⟨c.xa / 4, 0, 1, .read⟩]] else []
  | _ => []

/-- The base of the frame that a handle covers. -/
def handleFrame (s : State) (c : Cmd) (h : Nat) : Nat := frameBase ((getHandle s c.stack h).base * 4096)

/-- The frames of a command as its valid handles give them now. -/
def cmdFrames (s : State) (c : Cmd) : List Nat :=
  (cmdUses c).filterMap (fun us => (us.find? (fun u => handleFor s c.stack c.vi u.h)).map (fun u => handleFrame s c u.h))

/-- The rows of the operands of a command, by frame, first row and number: of a running command in the frames it was issued to, of a request for a lock in the
frame it names, else in those of its handles now (R96, R121). -/
def cmdRows (s : State) (c : Cmd) : List (Nat × Nat × Nat) :=
  (cmdUses c).zipIdx.flatMap (fun p => p.1.map (fun u =>
    (match c.frames[p.2]? with
      | some f => f
      | none => match s.locks.find? (fun l => l.cmd == c.id && l.queued) with
        | some l => l.frame
        | none => handleFrame s c u.h, u.row, u.n)))

/-! ### Rows of DRAM -/

/-- PA of d-row `d` of the frame at `f`. -/
def rowPa (f d : Nat) : Nat := f + 8192 * d

/-- The 64 bits of word `w` of a row replaced by those of another. -/
def rowWord (r f : Row) (w : Nat) : Row :=
  let m := BitVec.ofNat 65536 ((2 ^ 64 - 1) * 2 ^ (64 * w))
  (r &&& ~~~m) ||| (f &&& m)

/-- A row as the banks hold it: words of a sealed row that hold an error have no known bits (R391). -/
def rawRow (s : State) (use pa : Nat) : Row :=
  if rowUnsealed s pa then readRow s pa
  else (s.ecc.filter (fun p => p.1 / 1024 == pa / 8192)).foldl (fun r p => rowWord r (Config.freeRow use (2 ^ 40 + pa / 8192)) (p.1 % 1024)) (readRow s pa)

/-- Drops the conditions of the words of a row: its check bits are fresh, or it is unsealed. -/
def cleanRow (pa : Nat) (s : State) : State := { s with ecc := s.ecc.filter (fun p => p.1 / 1024 != pa / 8192) }

/-- A micro-op or a copy of raw bits writes a row, which is then unsealed (R259, R266, R376). -/
def writeRow (pa : Nat) (new : Row) (s : State) : State :=
  let old := readRow s pa
  noteUnsealed pa old new (cleanRow pa { s with mem := mwrite s.mem pa 8192 new.toNat })

/-- The poisoning of a frame whose residues are not 0 when its last row is sealed: in every row of `h`, the words that hold a lane of `bad` (R377). -/
def startPoison (f : Nat) (h : BitVec 256) (bad : Row) (s : State) : State :=
  startOwn {
    id := 0, vlc := 0, agent := 0, vi := 0, kind := .poison, stack := 0, frames := [f], todo := (upto 256).filter (fun d => h.getLsbD d),
    words := (upto 1024).filter (fun w => (bad >>> (64 * w)).setWidth 64 != (0 : BitVec 64)) } s

/-- Poison check bits in the words of row `d` (R377). -/
def poisonRow (c : Cmd) (d : Nat) (s : State) : State := c.words.foldl (fun s w => setEcc (rowPa (c.frames.headD 0) d + 8 * w) .bad s) s

/-- Seals a row: fresh check bits over its data, its bits leave the residues, and when the last row of its frame is sealed every lane is
tested (R377). A sealed row stays as it is (R266). -/
def sealRow (f d : Nat) (s : State) : State :=
  match unsealedOf s (paMVault f) (frameNo f) with
  | none => s
  | some e =>
    if !e.u.getLsbD d then s
    else
      let data := readRow s (rowPa f d)
      let r := resAdd (e.r0, e.r1) data (3 - rowWeight d)
      let u := e.u &&& ~~~ BitVec.ofNat 256 (2 ^ d)
      let h := e.h ||| BitVec.ofNat 256 (2 ^ d)
      let s1 := cleanRow (rowPa f d) s
      let put (l : List Unsealed) (s : State) : State :=
        updVault (paMVault f) (fun v => { v with unsealed := v.unsealed.filter (fun x => x.frame != frameNo f) ++ l }) s
      if u = 0 then
        let s2 := put [] s1
        if r.1 ||| r.2 = 0 then s2
        else elog 1 0 (paStack f) (paVault f) 0 f (popN h.toNat 256) (startPoison f h (r.1 ||| r.2) s2)
      else put [{ e with u := u, h := h, r0 := r.1, r1 := r.2 }] s1

/-- A vault complex begins to seal the rows of the entry of a frame, in ascending order (R393, EVT 11). -/
def startSeal (f : Nat) (e : Unsealed) (s : State) : State :=
  elog 11 0 (paStack f) (paVault f) 0 f 0
    (startOwn { id := 0, vlc := 0, agent := 0, vi := 0, kind := .autoSeal, stack := 0, frames := [f], todo := (upto 256).filter (fun d => e.u.getLsbD d) } s)

/-! ### Compute rows (R15) -/

/-- Number of a subarray: the vault and die region that store it, and its place there (R15, R17). -/
def subarrayNo (f : Nat) : Nat := (paMVault f * 16 + frameDie (frameNo f)) * 48 + frameNo f / 64

/-- Number of a compute row: the subarray that stores its frame, and its code (R15, R17, R412). -/
def compKey (s : State) (f code : Nat) : Nat := subarrayNo (realPa s f) * 16 + code

/-- A fixed row: c0, c1, OVM, or a row that holds what the command last wrote there; before that its value is free. -/
def fixedRow (s : State) (c : Cmd) (ovm : Bool) (f code : Nat) : Row :=
  if code = 14 then 0
  else if code = 15 then BitVec.allOnes 65536
  else if code = 16 then (if ovm then BitVec.allOnes 65536 else 0)
  else match tget none s.comp (compKey s f code) with
    | some r => r
    | none => Config.freeRow c.free (compKey s f code)

def setFixed (f code : Nat) (r : Row) (s : State) : State := { s with comp := tset none s.comp (compKey s f code) (some r) }

/-! ### Row specifiers (R259) -/

def rsBase (rs : Nat) : Nat := rs / 128 % 4
def rsX (rs : Nat) : Bool := bitN rs 6
def rsAln (rs : Nat) : Bool := bitN rs 5

/-- I[X] + OFF. -/
def rsIdx (c : Cmd) (rs : Nat) : Nat := (if rsX rs then c.i1 else c.i0) + rs % 32

/-- Plane of operand row j, or none where the row reads as zeros; planes above the width repeat the sign (R147, R259). -/
def planeOf (o : Opnd) (j : Int) : Option Nat :=
  if j < 0 then none
  else if j.toNat ≥ o.w then (if o.uns && !o.t2 then none else some (o.w - 1))
  else some j.toNat

/-- read(RS, f) of R259. -/
def readRs (s : State) (c : Cmd) (b : Blk) (f rs : Nat) : Row :=
  let operand (o : Opnd) (al : Bool) : Row :=
    let j : Int := (rsIdx c rs : Int) - (if rsAln rs && al then (b.c.frac : Int) - (o.frac : Int) else 0)
    match planeOf o j with
    | none => 0
    | some p =>
      if o.t2 && p == 1 then rawRow s c.free (rowPa f (o.org + 1)) &&& rawRow s c.free (rowPa f o.org)
      else rawRow s c.free (rowPa f (o.org + p))
  match rsBase rs with
  | 0 => operand b.a true
  | 1 => operand b.b true
  | 2 => operand b.c false
  | _ => fixedRow s c b.ovm f (rs % 128)

/-- The lanes below n. -/
def lanesBelow (n : Nat) : Row := BitVec.ofNat 65536 (2 ^ n - 1)

/-- The d-row that a write names: a C row below WC. -/
def writtenRow (c : Cmd) (b : Blk) (rs : Nat) : Option Nat :=
  if rsBase rs = 2 ∧ rsIdx c rs < b.c.w then some (b.c.org + rsIdx c rs) else none

/-- A write of `v` (R259): a temporary, a negation row, which holds the complement, or the lanes below n of a C row. -/
def writeRs (c : Cmd) (b : Blk) (f rs : Nat) (v : Row) (s : State) : State :=
  if rsBase rs = 3 then setFixed f (rs % 128) (if rs % 128 ≥ 12 then ~~~v else v) s
  else match writtenRow c b rs with
    | none => s
    | some d =>
      let m := lanesBelow b.nl
      writeRow (rowPa f d) ((rawRow s c.free (rowPa f d) &&& ~~~m) ||| (v &&& m)) s

/-! ### The micro-op counter (R260, R263) -/

/-- A micro-op of cost `cost` of the running command: a boundary falls first when its cost would take the quantum past 32 rc; otherwise
it acts, and its cost is counted. `row` says that it writes rows. -/
def microOp (cost : Nat) (row : Bool) (k : Cmd → Blk → State → State) (s : State) : State :=
  match getCmd s s.curCmd with
  | none => s
  | some c =>
    if c.stage ≠ .running ∨ c.kind ≠ .bkx ∨ c.boundary = true ∨ c.sealing = true then s
    else if c.quantum + cost > 32 then updCmd c.id (fun c => { c with boundary := true }) s
    else
      updCmd c.id (fun c => { c with quantum := c.quantum + cost, rc := c.rc + cost, last := if row then c.rc + cost else c.last })
        (k c (readBlk c.block) s)

/-- The next micro-op. -/
def microNext (c : Cmd) (s : State) : State := updCmd c.id (fun c => { c with upc := c.upc + 1 }) s

/-- Records a C row that the command has written, for the sealing pass (R266). -/
def noteWritten (c : Cmd) (b : Blk) (rs : Nat) (s : State) : State :=
  match writtenRow c b rs with
  | some d => updCmd c.id (fun c => { c with written := c.written ||| BitVec.ofNat 256 (2 ^ d) }) s
  | none => s

/-- A row operation: in every frame, `k` makes the value and writes it. One whose write to C is discarded still counts as the last row write for RC
(R267; DESIGN CHOICE, log 71). -/
def rowOp (cost dst : Nat) (k : Cmd → Blk → Nat → State → State) (s : State) : State :=
  microOp cost true (fun c b s => microNext c (noteWritten c b dst (c.frames.foldl (fun s f => k c b f s) s))) s

/-- MAJ of three rows. -/
def maj3 (a b c : Row) : Row := (a &&& b) ||| (a &&& c) ||| (b &&& c)

/-- The three rows of TRA and TRAN take the majority of the three. -/
def triple (c : Cmd) (b : Blk) (f : Nat) (o : MTRop) (s : State) : Row × State :=
  let g (t : BitVec 4) : Row := fixedRow s c b.ovm f t.toNat
  let m := maj3 (g o.ta) (g o.tb) (g o.tc)
  (m, setFixed f o.tc.toNat m (setFixed f o.tb.toNat m (setFixed f o.ta.toNat m s)))

/-! ### The end of a run -/

/-- Work of a vault complex that waits begins once no command runs in its die region and its banks owe no refresh (R377, R393, R395). -/
def nextOwn (f : Nat) (s : State) : State :=
  match s.cmds.find? (fun c => c.kind.own && c.stage == .queued && sameRegion s f (c.frames.headD 0)) with
  | some c =>
    if (cmdOver s f).isNone && banksIdle s f then
      { s with cmds := s.cmds.map (fun d => if d.id == c.id && d.kind.own then { d with stage := .running } else d) }
    else s
  | none => s

/-- A bank pays a refresh, if it owes one. -/
def payFirst (s : State) (b : Nat) : State := if tget 0 s.repair.debt b = 0 then s else payRefresh b s

/-- Work of vault complexes that waits begins where it may. -/
def wakeOwn (s : State) : State :=
  (s.cmds.filter (fun c => c.kind.own && c.stage == .queued)).foldl (fun s c => nextOwn (c.frames.headD 0) s) s

/-- A command leaves its banks: they begin to pay the refreshes that they owe, one after another (R395). Work of the vault complex has no response. -/
def leaveBanks (c : Cmd) (s : State) : State :=
  let bs := cmdBanks s c
  let s0 := bs.foldl payFirst s
  let s1 := updCmd c.id (fun c => { c with stage := .ended, sealing := false, boundary := false })
    { s0 with repair := { s0.repair with defer := bs.foldl (fun t b => tset 0 t b 0) s.repair.defer } }
  let s2 := if c.kind.own then { s1 with cmds := s1.cmds.filter (fun d => d.id != c.id) } else s1
  c.frames.foldl (fun s f => nextOwn f s) s2

/-- END: the slot's use count falls, and the sealing pass follows when SEAL = 1 (R258, R266). -/
def execEndOp (s : State) : Result :=
  .next (microOp 0 false (fun c b s =>
    let s1 := updStack c.stack (fun k => { k with slots := tupd {} k.slots b.slot (fun x => { x with use := x.use - 1 }) }) s
    if b.sealIt && c.written != 0 then
      updCmd c.id (fun c => { c with ended := true, sealing := true, todo := (upto 256).filter (fun d => c.written.getLsbD d) }) s1
    else leaveBanks c (updCmd c.id (fun c => { c with ended := true }) s1)) s)

/-! ### Row operations (R260) -/

/-- `rcpy`. -/
def execRcpy (o : MRCop) (s : State) : Result :=
  .next (rowOp 1 o.dst.toNat (fun c b f s => writeRs c b f o.dst.toNat (readRs s c b f o.src.toNat) s) s)

/-- `tra`. -/
def execTra (o : MTRop) (s : State) : Result :=
  .next (rowOp 1 o.dst.toNat (fun c b f s => let r := triple c b f o s; writeRs c b f o.dst.toNat r.1 r.2) s)

/-- `tran`. -/
def execTran (o : MTRop) (s : State) : Result :=
  .next (rowOp 1 o.dst.toNat (fun c b f s => let r := triple c b f o s; writeRs c b f o.dst.toNat (~~~r.1) r.2) s)

/-- `negr`: n0 takes the complement of the source, and the destination takes n0. -/
def execNegr (o : MRCop) (s : State) : Result :=
  .next (rowOp 2 o.dst.toNat (fun c b f s =>
    let v := ~~~readRs s c b f o.src.toNat
    writeRs c b f o.dst.toNat v (setFixed f 12 v s)) s)

/-- `shl`: lane k takes lane k − 2^K. -/
def execShl (o : MSHop) (s : State) : Result :=
  .next (rowOp 1 o.dst.toNat (fun c b f s =>
    writeRs c b f o.dst.toNat ((readRs s c b f o.src.toNat &&& lanesBelow b.nl) <<< (2 ^ o.k.toNat) &&& lanesBelow b.nl) s) s)

/-- `shr`: lane k takes lane k + 2^K. -/
def execShr (o : MSHop) (s : State) : Result :=
  .next (rowOp 1 o.dst.toNat (fun c b f s =>
    writeRs c b f o.dst.toNat ((readRs s c b f o.src.toNat &&& lanesBelow b.nl) >>> (2 ^ o.k.toNat)) s) s)

/-- `clr`. -/
def execClr (dst : BitVec 9) (s : State) : Result := .next (rowOp 1 dst.toNat (fun c b f s => writeRs c b f dst.toNat 0 s) s)

/-- `set`. -/
def execSet (dst : BitVec 9) (s : State) : Result :=
  .next (rowOp 1 dst.toNat (fun c b f s => writeRs c b f dst.toNat (BitVec.allOnes 65536) s) s)

/-- `seal`: a row write of correct check bits; a row at or beyond WC is left alone (R259, R260, R266). -/
def execSeal (dst : BitVec 9) (s : State) : Result :=
  .next (microOp 1 true (fun c b s =>
    microNext c (noteWritten c b dst.toNat (match writtenRow c b dst.toNat with
      | some d => c.frames.foldl (fun s f => sealRow f d s) s
      | none => s))) s)

/-- `brd`: a uniform row from a bit of a constant. -/
def execBrd (o : MBRDop) (s : State) : Result :=
  .next (rowOp 1 o.dst.toNat (fun c b f s =>
    let i := min ((if o.x then c.i1 else c.i0) + o.off.toNat) 15
    writeRs c b f o.dst.toNat (if bitN b.k (16 * o.ksel.toNat + i) then BitVec.allOnes 65536 else 0) s) s)

/-! ### Control (R261, R263) -/

/-- The state of the counters after a LOOPC. -/
def loopStep (o : MLOOPop) (b : Blk) (c : Cmd) : Cmd :=
  let j0 := if o.inc.getLsbD 0 then (c.i0 + 1) % 65536 else c.i0
  let j1 := if o.inc.getLsbD 1 then (c.i1 + 1) % 65536 else c.i1
  let n := if o.n then c.lc1 else c.lc0
  if n ≥ 2 then
    { c with i0 := j0, i1 := j1, upc := o.target.toNat, lc0 := if o.n then c.lc0 else n - 1, lc1 := if o.n then n - 1 else c.lc1 }
  else
    {
      c with
      i0 := if o.rst.getLsbD 0 then 0 else j0, i1 := if o.rst.getLsbD 1 then 0 else j1, upc := c.upc + 1,
      lc0 := if o.n then c.lc0 else b.lci0, lc1 := if o.n then b.lci1 else c.lc1 }

/-- `loopc`. -/
def execLoopc (o : MLOOPop) (s : State) : Result := .next (microOp 0 false (fun c b s => updCmd c.id (loopStep o b) s) s)

/-- `brz`: taken when the row is 0 below n in every frame; otherwise its flag is set (R261, R267). -/
def execBrz (o : MBRZop) (s : State) : Result :=
  .next (microOp 1 false (fun c b s =>
    let z := c.frames.all (fun f => readRs s c b f o.row.toNat &&& lanesBelow b.nl == 0)
    updCmd c.id (fun c => {
      c with
      upc := if z then o.target.toNat else c.upc + 1,
      flags := if !z && o.flg != 0 then c.flags ||| 2 ^ (o.flg.toNat - 1) else c.flags }) s) s)

/-- `yield`: a quantum boundary. -/
def execYield (s : State) : Result := .next (microOp 0 false (fun c _ s => updCmd c.id (fun c => { c with upc := c.upc + 1, boundary := true }) s) s)

end Sys2Proof.Machine
end

