-- ==== Sys2Proof/Machine/Control.lean ====
section
/-! DEFINITION. Branches and jumps, full/empty control, fences, `nop`, `trap`, `brk`, `tret` (R184, R186 to R188, R191, R194). -/
namespace Sys2Proof.Machine

/-- First address of the I-store window and the address after it (R77). -/
def istoreLo : Nat := 0xFF000000100000
def istoreHi : Nat := 0xFF000000140000

/-- Whether a VA lies in the I-store window (R77, R184). -/
def inIstore (a : Nat) : Bool := istoreLo ≤ a && a < istoreHi

/-- Transfers control to `t`, or faults TRANSLATION with nothing written (R184). -/
def jumpTo (t : Word) (link : Option (Nat × Word)) (s : State) : State :=
  if inIstore t.toNat then
    updMe (fun v => { (match link with | some l => v.wx l.1 l.2 | none => v) with pc := t, bskip := v.skipOn, cost := v.cost + 1 }) s
  else raise cTRANSLATION t.toNat s

/-- A conditional branch (R184). -/
def branch (o : BRop) (c : Word → Word → Bool) (s : State) : State :=
  issue noIll [(o.a.toNat, false), (o.b.toNat, false)] 0 (fun s =>
    if c (s.me.rx o.a.toNat) (s.me.rx o.b.toNat) then jumpTo (s.me.pc + wI (o.off.toInt * 4)) none s else advance s) s

/-- `beq` (R184). -/
def execBeq (o : BRop) (s : State) : Result := .next (branch o (fun a b => a == b) s)

/-- `bne` (R184). -/
def execBne (o : BRop) (s : State) : Result := .next (branch o (fun a b => a != b) s)

/-- `blt` (R184). -/
def execBlt (o : BRop) (s : State) : Result := .next (branch o (fun a b => a.toInt < b.toInt) s)

/-- `bltn` (R184). -/
def execBltn (o : BRop) (s : State) : Result := .next (branch o (fun a b => a.toNat < b.toNat) s)

/-- `bge` (R184). -/
def execBge (o : BRop) (s : State) : Result := .next (branch o (fun a b => a.toInt ≥ b.toInt) s)

/-- `bgen` (R184). -/
def execBgen (o : BRop) (s : State) : Result := .next (branch o (fun a b => a.toNat ≥ b.toNat) s)

/-- `jal` writes the link in x31 (R184). -/
def execJal (off : BitVec 26) (s : State) : Result :=
  .next (issue noIll [] 31 (fun s => jumpTo (s.me.pc + wI (off.toInt * 4)) (some (31, s.me.pc + 4)) s) s)

/-- `jalr`: a target that is not a multiple of 4 faults ALIGN (R184). -/
def execJalr (o : RIop) (s : State) : Result :=
  .next (issue noIll [(o.a.toNat, false)] o.d.toNat (fun s =>
    let t := s.me.rx o.a.toNat + immS o.i
    if t.toNat % 4 ≠ 0 then raise cALIGN t.toNat s else jumpTo t (some (o.d.toNat, s.me.pc + 4)) s) s)

/-- `nop` (R194). -/
def execNop (s : State) : Result := .next (issue noIll [] 0 advance s)

/-- `fe.set`: waits until xd has no pending fill, then marks it full (R188). -/
def execFeSet (d : BitVec 5) (s : State) : Result :=
  .next (issue noIll [] d.toNat (fun s =>
    advance (updMe (fun v => if d = 0 then v else { v with empty := mark v.empty d.toNat false }) s)) s)

/-- `fe.clr`: waits until any pending fill of xd has arrived, then marks it empty (R188). -/
def execFeClr (d : BitVec 5) (s : State) : Result :=
  .next (issue noIll [] d.toNat (fun s =>
    advance (updMe (fun v => if d = 0 then v else { v with empty := mark v.empty d.toNat true }) s)) s)

/-- Puts a fence in force; one that no older access can need any more is forgotten (R117, R118). -/
def addFence (mask : BitVec 16) (scope : Nat) (s : State) : State :=
  let live := s.me.fences.filter (fun f => s.net.any (fun a => a.vlc == s.cur && a.id < f.id) || vecBusyBefore s s.cur f.id ||
    s.me.held.any (fun e => e.id < f.id))
  bump (updMe (fun v => { v with fences := live ++ [⟨s.nextId, mask, scope⟩] }) s)

/-- `fence.c`; a mask of 0 has no effect (R117, R186). -/
def execFenceC (mask : BitVec 16) (s : State) : Result :=
  .next (issue noIll [] 0 (fun s => advance (if mask = 0 then s else addFence mask 4 s)) s)

/-- `fence.s` (R118, R187). -/
def execFenceS (sc : BitVec 3) (s : State) : Result :=
  .next (issue noIll [] 0 (fun s => advance (addFence 0xFFFF sc.toNat s)) s)

/-- `trap`: code TRAP, EPC after the word (R191, R350). -/
def execTrap (code : BitVec 11) (s : State) : Result :=
  .next (issue noIll [] 0 (fun s =>
    raiseAt { code := cTRAP, aux := code.toNat, origin := s.me.pc.toNat } (s.me.pc.toNat + 4) s) s)

/-- `brk`: code BREAK, EPC at the word (R191, R350). -/
def execBrk (code : BitVec 11) (s : State) : Result :=
  .next (issue noIll [] 0 (fun s =>
    raiseAt { code := cBREAK, aux := code.toNat, origin := s.me.pc.toNat } s.me.pc.toNat s) s)

/-- `tret`; outside a handler it raises ILLEGAL (R191, R351). -/
def execTret (s : State) : Result := .next (issue (fun s => !s.me.hnd) [] 0 returnTrap s)

/-- A scalar word whose encoding is not assigned raises ILLEGAL when it would issue (R164). -/
def execUnassignedEncoding (_w : BitVec 32) (s : State) : Result := .next (if s.me.ready then raiseIllegal s else s)

end Sys2Proof.Machine
end

