-- ==== Sys2Proof/Machine/Flags.lean ====
section
/-! DEFINITION. Flags: the sticky bits of FFLAGS and how arithmetic raises them (R139, R140). -/
namespace Sys2Proof.Machine

/-- The bits of FFLAGS (R139). -/
def fNV : Nat := 1
def fDZ : Nat := 2
def fOF : Nat := 4
def fUF : Nat := 8
def fNX : Nat := 16
def fSX : Nat := 32

/-- A result of `w` bits or less with the flags it raises. -/
abbrev FRes := Nat × Nat

/-- A flag when a condition holds. -/
def flagIf (b : Bool) (f : Nat) : Nat := if b then f else 0

/-- sat(x, w) as a `w`-bit pattern, with SX when it changes the value (R140, R213). -/
def satF (x : Int) (w : Nat) : FRes := (tr w (satI x w), flagIf (satI x w != x) fSX)

/-- usat(x, w) as a `w`-bit pattern, with SX when it changes the value (R140, R213). -/
def usatF (x : Int) (w : Nat) : FRes := (tr w (usatI x w), flagIf (usatI x w != x) fSX)

/-- Flags enter FFLAGS when a word retires (R139). -/
def addFlags (n f : Nat) (s : State) : State := updVlc n (fun v => { v with fflags := v.fflags ||| BitVec.ofNat 6 f }) s

end Sys2Proof.Machine
end

