-- ==== Sys2Proof/Machine/Float.lean ====
section
/-! DEFINITION. FP32, BF16 and DXB arithmetic (R134 to R137, R141 to R143, R148, R214, R215, R218).

A finite number is a sign, a magnitude and a power of 2. A result is found from a comparison of the exact magnitude with dyadic numbers, so
that division, roots, exponentials and logarithms round as exactly as sums do. A format is named by its number of fraction bits: 23 for FP32, 7
for BF16; both have 8 exponent bits and bias 127. -/
namespace Sys2Proof.Machine

/-- A floating value: NaN (signalling or not), infinity, or (−1)^neg × m × 2^e. -/
inductive FV where
  | nan (sig : Bool)
  | inf (neg : Bool)
  | fin (neg : Bool) (m : Nat) (e : Int)
  deriving DecidableEq, Repr

/-- The value of an encoding (R134). -/
def decF (mb n : Nat) : FV :=
  let s := bitN n (mb + 8)
  let ex := fld n mb 8
  let fr := fld n 0 mb
  if ex = 255 then (if fr = 0 then .inf s else .nan (!bitN fr (mb - 1)))
  else if ex = 0 then .fin s fr (-126 - (mb : Int))
  else .fin s (2 ^ mb + fr) ((ex : Int) - 127 - mb)

/-- The canonical quiet NaN (R135). -/
def canonNan (mb : Nat) : Nat := 255 * 2 ^ mb + 2 ^ (mb - 1)

/-- The encodings of a signed infinity and of a signed zero. -/
def infEnc (mb : Nat) (s : Bool) : Nat := b2n s * 2 ^ (mb + 8) + 255 * 2 ^ mb
def zeroEnc (mb : Nat) (s : Bool) : Nat := b2n s * 2 ^ (mb + 8)

/-- The magnitude of an encoding without its sign, continued by the same formula at and above the encoding of infinity. -/
def magOf (mb k : Nat) : Nat × Int :=
  if k / 2 ^ mb = 0 then (k, -126 - (mb : Int)) else (2 ^ mb + k % 2 ^ mb, ((k / 2 ^ mb : Nat) : Int) - 127 - mb)

/-- Order of m × 2^e and m' × 2^e'. -/
def cmpDy (m : Nat) (e : Int) (m' : Nat) (e' : Int) : Ordering :=
  let k := min e e'
  compare (m * 2 ^ (e - k).toNat) (m' * 2 ^ (e' - k).toNat)

/-- How dyadic numbers compare with an exact magnitude: `c m e` is the order of m × 2^e and the magnitude. -/
abbrev MagCmp := Nat → Int → Ordering

/-- The greatest finite encoding whose magnitude does not exceed the exact one: its bits are tried from the highest down. -/
def floorEnc (mb : Nat) (c : MagCmp) : Nat :=
  (upto (mb + 8)).reverse.foldl (fun acc b =>
    let k := acc + 2 ^ b
    let d := magOf mb k
    if k < 255 * 2 ^ mb ∧ c d.1 d.2 ≠ .gt then k else acc) 0

/-- Rounds an exact magnitude with a sign (R134, R138): NX, OF with the mode's overflow result, and UF when the value is tiny after rounding and
inexact. -/
def roundMag (mb : Nat) (neg : Bool) (mode : Nat) (c : MagCmp) : FRes :=
  let k := floorEnc mb c
  let d := magOf mb k
  let sgn := zeroEnc mb neg
  if c d.1 d.2 = .eq then (sgn + k, 0)
  else
    let mid := c (2 * d.1 + 1) (d.2 - 1)
    let up : Bool := match mode with
      | 0 => mid == .lt || (mid == .eq && k % 2 == 1)
      | 1 => neg
      | 2 => !neg
      | _ => false
    let r := if up then k + 1 else k
    let huge : Bool := r == 255 * 2 ^ mb || c 1 128 != .gt
    let away : Bool := (mode == 1 && neg) || (mode == 2 && !neg)
    let below := c 1 (-126) == .gt
    let upTo : Bool := if mode = 0 then c (2 ^ (mb + 2) - 1) (-128 - (mb : Int)) != .gt
      else if away then c (2 ^ (mb + 1) - 1) (-127 - (mb : Int)) == .lt else false
    (sgn + r, fNX + flagIf huge fOF + flagIf (below && !upTo) fUF)

/-- Rounds an exact value into a format. -/
def encF (mb mode : Nat) : FV → FRes
  | .nan _ => (canonNan mb, 0)
  | .inf s => (infEnc mb s, 0)
  | .fin s m e => if m = 0 then (zeroEnc mb s, 0) else roundMag mb s mode (fun a b => cmpDy a b m e)

/-- Whether a value is a NaN, or a signalling one. -/
def FV.isNan : FV → Bool
  | .nan _ => true
  | _ => false
def FV.isSig : FV → Bool
  | .nan s => s
  | _ => false

/-- The sign of a value that is not a NaN. -/
def FV.neg : FV → Bool
  | .nan _ => false
  | .inf s => s
  | .fin s _ _ => s

/-- A value with its sign inverted. -/
def FV.flip : FV → FV
  | .nan s => .nan s
  | .inf s => .inf (!s)
  | .fin s m e => .fin (!s) m e

/-- The integer ±m × 2^(e − k) for k ≤ e. -/
def FV.scaled (k : Int) : FV → Int
  | .fin s m e => let v : Int := ((m * 2 ^ (e - k).toNat : Nat) : Int); if s then -v else v
  | _ => 0

/-- The exact sum of two values, with the sign IEEE 754 gives an exact zero; NV for Inf − Inf and for signalling NaNs. -/
def addV (mode : Nat) (a b : FV) : FV × Nat :=
  match a, b with
  | .nan x, _ => (.nan false, flagIf (x || b.isSig) fNV)
  | _, .nan y => (.nan false, flagIf y fNV)
  | .inf x, .inf y => if x = y then (.inf x, 0) else (.nan false, fNV)
  | .inf x, _ => (.inf x, 0)
  | _, .inf y => (.inf y, 0)
  | .fin x m e, .fin y m' e' =>
    let k := min e e'
    let v := FV.scaled k a + FV.scaled k b
    if v = 0 then (.fin (if m = 0 ∧ m' = 0 ∧ x = y then x else mode == 1) 0 0, 0)
    else (.fin (v < 0) v.natAbs k, 0)

/-- The exact product of two values; NV for 0 × Inf and for signalling NaNs. -/
def mulV (a b : FV) : FV × Nat :=
  match a, b with
  | .nan x, _ => (.nan false, flagIf (x || b.isSig) fNV)
  | _, .nan y => (.nan false, flagIf y fNV)
  | .inf x, .inf y => (.inf (x != y), 0)
  | .inf x, .fin y m _ => if m = 0 then (.nan false, fNV) else (.inf (x != y), 0)
  | .fin x m _, .inf y => if m = 0 then (.nan false, fNV) else (.inf (x != y), 0)
  | .fin x m e, .fin y m' e' => (.fin (x != y) (m * m') (e + e'), 0)

/-- Joins the flags of an exact step with those of its rounding. -/
def withFlags (mb mode : Nat) (r : FV × Nat) : FRes := let q := encF mb mode r.1; (q.1, q.2 ||| r.2)

/-! ### The operations of R214 -/

def fAdd (mb mode a b : Nat) : FRes := withFlags mb mode (addV mode (decF mb a) (decF mb b))
def fSub (mb mode a b : Nat) : FRes := withFlags mb mode (addV mode (decF mb a) (decF mb b).flip)
def fMul (mb mode a b : Nat) : FRes := withFlags mb mode (mulV (decF mb a) (decF mb b))

/-- a × b + c, rounded once. Whether 0 × Inf + quiet NaN raises NV is the implementation's choice (log 4). -/
def fMac (mb mode a b c : Nat) : FRes :=
  let x := decF mb a
  let y := decF mb b
  let z := decF mb c
  let p := mulV x y
  if z.isNan && !x.isNan && !y.isNan then (canonNan mb, flagIf (z.isSig || (p.2 != 0 && Config.fmaInvalid)) fNV)
  else
    let r := addV mode p.1 z
    withFlags mb mode (r.1, r.2 ||| p.2)

/-- a ÷ b: NV for 0 ÷ 0 and Inf ÷ Inf, DZ for a finite dividend over 0. -/
def fDiv (mb mode a b : Nat) : FRes :=
  let x := decF mb a
  let y := decF mb b
  match x, y with
  | .nan p, _ => (canonNan mb, flagIf (p || y.isSig) fNV)
  | _, .nan q => (canonNan mb, flagIf q fNV)
  | .inf _, .inf _ => (canonNan mb, fNV)
  | .inf s, .fin t _ _ => (infEnc mb (s != t), 0)
  | .fin s _ _, .inf t => (zeroEnc mb (s != t), 0)
  | .fin s m e, .fin t m' e' =>
    if m' = 0 then (if m = 0 then (canonNan mb, fNV) else (infEnc mb (s != t), fDZ))
    else if m = 0 then (zeroEnc mb (s != t), 0)
    else roundMag mb (s != t) mode (fun k f => cmpDy (k * m') (f + e') m e)

/-- √a: √−0 = −0; a < 0 gives NaN and NV. -/
def fSqrt (mb mode a : Nat) : FRes :=
  match decF mb a with
  | .nan p => (canonNan mb, flagIf p fNV)
  | .inf s => if s then (canonNan mb, fNV) else (infEnc mb false, 0)
  | .fin s m e =>
    if m = 0 then (zeroEnc mb s, 0)
    else if s then (canonNan mb, fNV)
    else roundMag mb false mode (fun k f => cmpDy (k * k) (2 * f) m e)

/-- Order of two values that are not NaNs; −0 and +0 are equal. -/
def cmpV (a b : FV) : Ordering :=
  match a, b with
  | .inf x, .inf y => if x = y then .eq else if x then .lt else .gt
  | .inf x, _ => if x then .lt else .gt
  | _, .inf y => if y then .gt else .lt
  | .fin _ _ e, .fin _ _ e' => let k := min e e'; compare (FV.scaled k a) (FV.scaled k b)
  | _, _ => .eq

/-- Minimum (`lt = true`) and maximum of R135: −0 below +0, the other operand for one NaN. -/
def fMinMax (isMin : Bool) (mb a b : Nat) : FRes :=
  let x := decF mb a
  let y := decF mb b
  let f := flagIf (x.isSig || y.isSig) fNV
  if x.isNan && y.isNan then (canonNan mb, f)
  else if x.isNan then (b, f)
  else if y.isNan then (a, f)
  else match cmpV x y with
    | .lt => (if isMin then a else b, f)
    | .gt => (if isMin then b else a, f)
    | .eq => (if x.neg == isMin then a else b, f)

/-- Sign copies: `k` 0 the sign of b, 1 its inverse, 2 the exclusive or (R214). -/
def fCps (k mb a b : Nat) : FRes :=
  let sa := bitN a (mb + 8)
  let sb := bitN b (mb + 8)
  (a % 2 ^ (mb + 8) + b2n (match k with | 0 => sb | 1 => !sb | _ => sa != sb) * 2 ^ (mb + 8), 0)

/-! ### Special functions (R215) -/

/-- Order of m × 2^e and 2^p. -/
def cmpTwo (m : Nat) (e p : Int) : Ordering :=
  if m = 0 then .lt
  else
    let l : Int := (log2N m : Nat) + e
    if l < p then .lt else if l > p then .gt else if m = 2 ^ log2N m then .eq else .gt

/-- `q` squarings of an interval [lo, hi] × 2^e kept to about `w` bits. -/
def squares (w : Nat) : Nat → Nat → Nat → Int → Nat × Nat × Int
  | 0, lo, hi, e => (lo, hi, e)
  | q + 1, lo, hi, e =>
    let h := hi * hi
    let k := log2N h - w
    squares w q (lo * lo / 2 ^ k) (if k = 0 then h else h / 2 ^ k + 1) (2 * e + k)

/-- Order of (m × 2^e)^(2^q) and 2^p. The interval decides when it lies on one side of 2^p; otherwise the powers are compared. -/
def cmpPow (m : Nat) (e : Int) (q : Nat) (p : Int) : Ordering :=
  if m = 0 then .lt
  else if m = 2 ^ log2N m then compare (((log2N m : Nat) + e) * (2 ^ q : Nat)) p
  else
    let r := squares (q + 256) q m m e
    if cmpTwo r.2.1 r.2.2 p = .lt then .lt
    else if cmpTwo r.1 r.2.2 p = .gt then .gt
    else cmpTwo (m ^ 2 ^ q) (e * (2 ^ q : Nat)) p

/-- 2^a, by RNE. -/
def fExp2 (mb a : Nat) : FRes :=
  match decF mb a with
  | .nan p => (canonNan mb, flagIf p fNV)
  | .inf s => if s then (zeroEnc mb false, 0) else (infEnc mb false, 0)
  | .fin s m e =>
    let sg : Int := if s then -1 else 1
    roundMag mb false 0 (fun k f => if e < 0 then cmpPow k f (-e).toNat (sg * m) else cmpTwo k f (sg * (m * 2 ^ e.toNat : Nat)))

/-- 1 ÷ a, by RNE. -/
def fRcp (mb a : Nat) : FRes :=
  match decF mb a with
  | .nan p => (canonNan mb, flagIf p fNV)
  | .inf s => (zeroEnc mb s, 0)
  | .fin s m e => if m = 0 then (infEnc mb s, fDZ) else roundMag mb s 0 (fun k f => cmpDy (k * m) (f + e) 1 0)

/-- 1 ÷ √a, by RNE. -/
def fRsq (mb a : Nat) : FRes :=
  match decF mb a with
  | .nan p => (canonNan mb, flagIf p fNV)
  | .inf s => if s then (canonNan mb, fNV) else (zeroEnc mb false, 0)
  | .fin s m e =>
    if m = 0 then (infEnc mb s, fDZ)
    else if s then (canonNan mb, fNV)
    else roundMag mb false 0 (fun k f => cmpDy (k * k * m) (2 * f + e) 1 0)

/-- log2 a, by RNE. -/
def fLog2 (mb a : Nat) : FRes :=
  match decF mb a with
  | .nan p => (canonNan mb, flagIf p fNV)
  | .inf s => if s then (canonNan mb, fNV) else (infEnc mb false, 0)
  | .fin s m e =>
    if m = 0 then (infEnc mb true, fDZ)
    else if s then (canonNan mb, fNV)
    else
      match cmpTwo m e 0 with
      | .eq => (zeroEnc mb false, 0)
      | .gt => roundMag mb false 0 (fun k f => (if f < 0 then cmpPow m e (-f).toNat k else cmpTwo m e (k * 2 ^ f.toNat : Nat)).swap)
      | .lt => roundMag mb true 0 (fun k f => if f < 0 then cmpPow m e (-f).toNat (-(k : Int)) else cmpTwo m e (-((k * 2 ^ f.toNat : Nat) : Int)))

/-! ### Compares (R218) -/

/-- `vfceq`, `vfcne`, `vfclt`, `vfcle` as codes 0 to 3: the bit and the flags. -/
def fCmp (k mb a b : Nat) : Bool × Nat :=
  let x := decF mb a
  let y := decF mb b
  let n := x.isNan || y.isNan
  let c := cmpV x y
  let f := flagIf (if k < 2 then x.isSig || y.isSig else n) fNV
  (match k with
    | 0 => !n && c == .eq
    | 1 => n || c != .eq
    | 2 => !n && c == .lt
    | _ => !n && c != .gt, f)

/-! ### Conversions (R137) -/

/-- ±m × 2^e divided by 2^k and rounded to an integer, with whether that is inexact (R140, R143). -/
def roundInt (neg : Bool) (m : Nat) (e : Int) (mode : Nat) : Int × Bool :=
  let v : Int := if neg then -(m : Int) else m
  if e ≥ 0 then (v * (2 ^ e.toNat : Nat), false)
  else (rshr v (-e).toNat mode, m % 2 ^ (-e).toNat != 0)

/-- Floating to an integer of `w` bits, signed or not. -/
def fToInt (sgn : Bool) (w mb mode a : Nat) : FRes :=
  let lo : Int := if sgn then -(2 ^ (w - 1) : Nat) else 0
  let hi : Int := if sgn then (2 ^ (w - 1) : Nat) - 1 else (2 ^ w : Nat) - 1
  match decF mb a with
  | .nan _ => (0, fNV)
  | .inf s => (tr w (if s then lo else hi), fNV)
  | .fin s m e =>
    let r := roundInt s m e mode
    if r.1 < lo then (tr w lo, fNV) else if r.1 > hi then (tr w hi, fNV) else (tr w r.1, flagIf r.2 fNX)

/-- An integer to floating. -/
def fOfInt (mb mode : Nat) (v : Int) : FRes := encF mb mode (.fin (v < 0) v.natAbs 0)

/-- FP32 to BF16 and back: a NaN becomes canonical, NV for a signalling one. -/
def fNarrow (mode a : Nat) : FRes := let x := decF 23 a; let r := encF 7 mode x; (r.1, r.2 ||| flagIf x.isSig fNV)
def fWiden (a : Nat) : FRes := let x := decF 7 a; let r := encF 23 0 x; (r.1, r.2 ||| flagIf x.isSig fNV)

/-! ### Dual-exponent blocks (R141 to R143) -/

/-- Elements of a block, element bits, fraction scale q, block bits: DXB8 when `four` is false. -/
def dxbPer (four : Bool) : Nat := if four then 30 else 31
def dxbW (four : Bool) : Nat := if four then 4 else 8
def dxbQ (four : Bool) : Nat := if four then 1 else 5
def dxbBits (four : Bool) : Nat := if four then 128 else 256

/-- The exact value of element `j` of a block held as a bit string. -/
def dxbElem (four : Bool) (blk j : Nat) : FV :=
  let sb := fld blk 0 8
  let hi : Int := (fld sb 3 5 : Nat) - 15
  let w := dxbW four
  let el := elemN blk w (if four then j + 2 else j + 1)
  let m := fld el 0 (w - 2)
  let e := if bitN el (w - 1) then hi else hi - ((fld sb 0 3 + 1 : Nat) : Int)
  if m = 0 then .fin false 0 0 else .fin (bitN el (w - 2)) m (e - dxbQ four)

/-- Order of two finite magnitudes. -/
def magLe (a b : FV) : Bool :=
  match a, b with
  | .fin _ m e, .fin _ m' e' => cmpDy m e m' e' != .gt
  | _, _ => true

/-- Packs one block of values with gap `g` (R143): its bits and flags. -/
def dxbPack (four : Bool) (g mode : Nat) (xs : List FV) : FRes :=
  let q : Int := dxbQ four
  let mmax : Int := (2 ^ (dxbQ four + 1) : Nat) - 1
  let anyInf := xs.any (fun x => match x with | .inf _ => true | _ => false)
  let big := xs.foldl (fun a x => match x with | .fin _ m e => if magLe x a then a else .fin false m e | _ => a) (.fin false 0 0)
  let h : Nat := match big with
    | .fin _ m e =>
      if anyInf then 31
      else if m = 0 then 0
      else
        let l : Int := (log2N m : Nat) + e
        let l' := if (roundInt false m (e - (l - q)) mode).1 > mmax then l + 1 else l
        (min (max (l' + 15) 0) 31).toNat
    | _ => 0
  let ehi : Int := (h : Int) - 15
  let elo := ehi - g
  let w := dxbW four
  let one (x : FV) : FRes :=
    match x with
    | .nan _ => (0, fNV)
    | .inf s => (2 ^ (w - 1) + b2n s * 2 ^ (w - 2) + mmax.toNat, fOF + fNX)
    | .fin s m e =>
      let neg := s && m != 0
      let lo := roundInt s m (e - (elo - q)) mode
      if (lo.1.natAbs : Int) ≤ mmax then
        (b2n neg * 2 ^ (w - 2) + lo.1.natAbs, flagIf lo.2 fNX + flagIf (m != 0 && lo.1 == 0) fUF)
      else
        let hi := roundInt s m (e - (ehi - q)) mode
        if (hi.1.natAbs : Int) > mmax then (2 ^ (w - 1) + b2n neg * 2 ^ (w - 2) + mmax.toNat, fOF + fNX)
        else (2 ^ (w - 1) + b2n neg * 2 ^ (w - 2) + hi.1.natAbs, flagIf hi.2 fNX + flagIf (hi.1 == 0) fUF)
  let base := if four then 2 else 1
  xs.foldl (fun acc x =>
    let r := one x
    ((acc.1.1 + r.1 * 2 ^ (w * (base + acc.2)), acc.1.2 ||| r.2), acc.2 + 1)) ((h * 8 + (g - 1), 0), 0) |>.1

/-! ### Sums (R148) -/

/-- The tree that an instruction uses for `n` terms; left to right where the implementation's choice does not name every term once. -/
def sumOrder (op n vl sew grp lanes : Nat) : Config.SumTree :=
  let t := Config.sumTree op n vl sew grp lanes
  if t.leaves.length = n ∧ (upto n).all (fun i => t.leaves.contains i) = true then t
  else (upto (n - 1)).foldl (fun t i => .node true t (.leaf (i + 1))) (.leaf 0)

/-- The value of a tree of additions over `terms`: sums that round do so to FP32; the flags of all its steps. -/
def treeSum (mode : Nat) (terms : List FV) : Config.SumTree → FV × Nat
  | .leaf i => let x := terms.getD i (.fin false 0 0); (if x.isNan then .nan false else x, flagIf x.isSig fNV)
  | .node r a b =>
    let x := treeSum mode terms a
    let y := treeSum mode terms b
    let z := addV mode x.1 y.1
    let f := x.2 ||| y.2 ||| z.2
    if r then
      let q := encF 23 mode z.1
      (decF 23 q.1, q.2 ||| f)
    else (z.1, f)

/-- A floating sum rounded into a format. -/
def fSum (op mb mode vl sew grp lanes : Nat) (terms : List FV) : FRes :=
  withFlags mb mode (treeSum mode terms (sumOrder op terms.length vl sew grp lanes))

end Sys2Proof.Machine
end

