-- ==== Sys2Proof/Machine/VecAddr.lean ====
section
/-! DEFINITION. What a vector memory word names: its addressing, its elements and their addresses (R230 to R234, R248). -/
namespace Sys2Proof.Machine

/-- How the address of an element is formed (R231, R233, R234). -/
inductive Addressing where
  | unit
  | stride
  | index (vb : Nat) (mb : BitVec 3) (sc : Nat)
  | segment (nf fw : Nat) (packed ext : Bool)
  | slot (b : Nat)
  deriving DecidableEq, Repr

/-- The shape of a vector memory word. -/
structure MemWord where
  store : Bool := false
  atomic : Option Nat := none
  first : Bool := false
  vd : Nat := 0
  vc : Nat := 0
  scope : Nat := 0
  m : VMask := { km := 0, kp := false }
  fa : Bool := false
  fb : Bool := false
  mode : Addressing := .unit
  cls : Option (BitVec 4) := none
  deriving DecidableEq, Repr

def vmWord (o : VMop) (store first : Bool) : MemWord :=
  { store := store, first := first, vd := o.vd.toNat, m := o.m, fa := o.fa, mode := .unit, cls := o.cls }
def vmsWord (o : VMSop) (store : Bool) : MemWord :=
  { store := store, vd := o.vd.toNat, m := o.m, fa := o.fa, fb := o.fb, mode := .stride, cls := o.cls }
def vmxWord (o : VMXop) (store : Bool) : MemWord :=
  { store := store, vd := o.vd.toNat, m := o.m, fa := o.fa, fb := o.fb, mode := .index o.vb.toNat o.mb o.sc.toNat, cls := o.cls }
def vsgWord (o : VSGop) (store : Bool) : MemWord :=
  {
    store := store, vd := o.vd.toNat, m := o.m, fa := o.fa, fb := o.fb, cls := o.cls,
    mode := .segment (o.nf.toNat + 1) (8 * 2 ^ o.fw.toNat) (o.xb == 0) o.ext }
def vatWord (o : VATop) (op : Nat) : MemWord :=
  {
    atomic := some op, vd := o.vd.toNat, vc := o.vc.toNat, scope := o.sc.toNat, m := o.m, fa := o.fa, fb := o.fb,
    mode := .index o.vb.toNat o.mb 0, cls := o.cls }

/-- The shape of a memory, gather-atomic or `mldb` word; none for every other instruction. -/
def memWordOf (i : Instr) : Option MemWord :=
  match i with
  | .vld o => some (vmWord o false false)
  | .vldff o => some (vmWord o false true)
  | .vst o => some (vmWord o true false)
  | .vlds o => some (vmsWord o false)
  | .vsts o => some (vmsWord o true)
  | .vldx o => some (vmxWord o false)
  | .vstx o => some (vmxWord o true)
  | .vldseg o => some (vsgWord o false)
  | .vstseg o => some (vsgWord o true)
  | .vaadd o => some (vatWord o 0)
  | .vaand o => some (vatWord o 1)
  | .vaor o => some (vatWord o 2)
  | .vaxor o => some (vatWord o 3)
  | .vamin o => some (vatWord o 4)
  | .vamax o => some (vatWord o 5)
  | .vaswap o => some (vatWord o 6)
  | .vacas o => some (vatWord o 7)
  | .mldb o => some { mode := .slot o.slot.toNat, fa := o.fa, cls := o.cls }
  | _ => none

/-- An access of a vector word: element or record, field, VA, size. -/
structure ElemAcc where
  i : Nat
  f : Nat
  va : Nat
  size : Nat
  deriving DecidableEq, Repr

/-- Address arithmetic wraps at 64 bits (R231). -/
def wrap64 (a : Int) : Nat := tr 64 a

/-- The accesses of element or record `i` of a word, in field order; `idx` is the index element (R231, R233, R234). -/
def elemAccs (w : MemWord) (xa xb : Word) (sew i idx : Nat) : List ElemAcc :=
  let a : Int := xa.toNat
  match w.mode with
  | .unit => [⟨i, 0, wrap64 (a + (i * (sew / 8) : Nat)), sew / 8⟩]
  | .stride => [⟨i, 0, wrap64 (a + i * xb.toInt), sew / 8⟩]
  | .index _ _ sc => [⟨i, 0, wrap64 (a + (idx * 2 ^ sc : Nat)), sew / 8⟩]
  | .segment nf fw packed _ =>
    let st : Int := if packed then (nf * (fw / 8) : Nat) else xb.toInt
    (upto nf).map (fun f => ⟨i, f, wrap64 (a + i * st + (f * (fw / 8) : Nat)), fw / 8⟩)
  | .slot _ => (upto 768).map (fun j => ⟨j, 0, wrap64 (a + (8 * j : Nat)), 8⟩)

/-- The classes of a word's accesses: its own, or OCDEF as captured at entry (R162, R168). -/
def wordClass (w : MemWord) (e : VEntry) : Nat := match w.cls with | some c => c.toNat | none => e.cls

/-- The local or remote target of a VA without its permission checks, with its DEV attribute; none when it does not translate. -/
def targetOf (s : State) (n va : Nat) : Option (Target × Bool) :=
  if inAperture va then some (.rem (fld va 37 10) (bitN va 47) (va % 137438953472), bitN va 47)
  else (pageOf s (whoOf s n) va).map (fun p => (.loc p.pa, p.dev))

/-- Every access an unexecuted word may make: none when its addresses depend on registers that are still to be read. -/
def mayAccess (e : VEntry) : Option (List ElemAcc) :=
  match memWordOf e.instr with
  | none => some []
  | some w =>
    if e.reread then none
    else match w.mode with
    | .index _ _ _ => none
    | .slot _ => some (elemAccs w e.xa e.xb (sewBits e.sew) 0 0)
    | _ => some ((upto e.vl).flatMap (fun i => elemAccs w e.xa e.xb (sewBits e.sew) i 0))

/-- Whether an unexecuted vector word of VLC `n` comes before an access of class `c` to `t` (R202): one class, both DEV, or a byte that both
may touch. -/
def viqBlocks (s : State) (n c : Nat) (t : Target) (size : Nat) (dev : Bool) : Bool :=
  (viqOf s n).any (fun e =>
    match memWordOf e.instr with
    | none => false
    | some w =>
      wordClass w e == c ||
      (match mayAccess e with
       | none => true
       | some l => l.any (fun x => match targetOf s n x.va with
         | some (u, d) => keeps (wordClass w e) u x.size d c t size dev
         | none => false)))

/-- Whether an executed vector word of VLC `n` has stores that have not entered the buffer or performed, or atomics that have not performed, which come
before an access of class `c` to `t` (R202). -/
def doneBlocks (s : State) (n c : Nat) (t : Target) (size : Nat) (dev : Bool) : Bool :=
  (rqOf s n).any (fun r => r.stores.any (fun b => keeps b.cls b.tgt b.size b.dev c t size dev) ||
    r.atoms.any (fun b => keeps b.cls b.tgt b.size b.dev c t size dev)) ||
  s.net.any (fun a => a.vlc == n && (a.vec || a.vdst.isSome) && keeps a.cls a.tgt a.size a.dev c t size dev)

/-- Whether a word in the VIQ may make an access in the unit of scope `sc` (R118). -/
def wordInScope (s : State) (sc : Nat) (e : VEntry) : Bool :=
  match mayAccess e with
  | none => true
  | some l => l.any (fun x => match targetOf s e.vlc x.va with | some (u, _) => inScope e.vlc sc u | none => false)

/-- Whether word `e` has accesses that fence `f` orders before those after it (R117, R118). -/
def FenceRec.over (f : FenceRec) (s : State) (e : VEntry) : Bool :=
  e.id < f.id && (match memWordOf e.instr with | some w => f.mask.getLsbD (wordClass w e) | none => false) && wordInScope s f.scope e

/-- Whether a fence holds an access back for an unexecuted vector word older than the fence (R117). -/
def viqFenced (s : State) (n c : Nat) (t : Target) : Bool :=
  (getVlc s n).fences.any (fun f => f.mask.getLsbD c && inScope n f.scope t && (viqOf s n).any (f.over s))

/-- Whether a scalar access must wait at issue (R117, R202, R349). -/
def mustWait (s : State) (n c : Nat) (t : Target) (size : Nat) (dev : Bool) : Bool :=
  viqBlocks s n c t size dev || doneBlocks s n c t size dev || viqFenced s n c t || fenced s n s.nextId c t || (getVlc s n).faults.length ≥ 16

/-- Whether an access that has passed its checks must wait at issue: as above, or its walk waits for banks (R263). -/
def heldBack (s : State) (n c : Nat) (p : Passed) (size : Nat) : Bool :=
  mustWait s n c p.tgt size p.dev || walkWaits s p.walk

end Sys2Proof.Machine
end

