-- ==== Sys2Proof/Machine/ScalarMem.lean ====
section
/-! DEFINITION. Scalar loads, stores and far atomics at issue (R183, R185), and the barrier instructions (R298). -/
namespace Sys2Proof.Machine

/-- The class of a scalar access: the suffix, or OCDEF (R114). -/
def classOf (c : Option (BitVec 4)) (s : State) : Nat := (c.getD s.me.ocdef).toNat

/-- The effective address of a MEM form (R183). -/
def memVa (s : State) (a : Nat) (p : BitVec 12) (size : Nat) : Nat := (s.me.rx a + wI (p.toInt * size)).toNat

/-- Sends an access: it takes its place in program order and is in flight. -/
def sendAcc (a : Access) (s : State) : State := sendNet { a with id := s.nextId } s

/-- An access to DEV memory in an open strip sets DEVS (R57); its walk is noted, and a pinning leaf pins its frame (R14, R412). -/
def noteDev (p : Passed) (s : State) : State := updMe (fun v => if p.dev && v.sopen then { v with devs := true } else v) (notePin p s)

/-- A class S fault of an address check: a walk that it made is noted (R14, R360). -/
def raiseAddr (code va : Nat) (s : State) : State :=
  raise code va (if code = cALIGN then s else noteWords (tableReads s (whoOf s s.cur).vi va) s)

/-- Whether a load that has performed early comes in program order before another of `va` to `pa`: one class, or a common byte (R114, R116). -/
def Early.before (e : Early) (pa size c : Nat) : Bool := e.cls == c || rangesMeet e.pa e.size pa size

/-- The first load that has performed before it issues and may stand for a load of this VA, PA, size and class: none that comes before it in program order
has performed earlier and still waits to issue, and the context may still read it (R114, R116). -/
def earlyFor (s : State) (va size c : Nat) (p : Passed) : Option Early :=
  match p.tgt with
  | .loc pa =>
    match s.me.early.find? (fun e => e.before pa size c) with
    | some e =>
      if e.va == va && e.pa == pa && e.size == size && e.cls == c && !p.dev &&
          (!paDram pa || (tokenCheck s s.me.agent pa .read (fineAt pa size)).isNone) then some e else none
    | none => none
  | .rem _ _ _ => none

/-- Whether VLC `n` may have a load perform early: it runs its program, and no word is to be fetched again. -/
def Vlc.speculates (v : Vlc) : Bool := v.status == .running && v.wait == .none && !v.hnd && v.vfaults.isEmpty && v.refetch.isNone

/-- A load of VLC `n` performs before the words ahead of it have issued: where nothing issued before it holds it back, so that what R116 leaves unordered
may come in either order. It stands for the load until a word issues, or enters the VIQ, that comes before it in order (log 61). -/
def earlyLoad (n va size c : Nat) (s0 : State) : State :=
  let s := { s0 with cur := n }
  let v := s.me
  if v.speculates = false ∨ size ≠ 1 ∧ size ≠ 2 ∧ size ≠ 4 ∧ size ≠ 8 then s0
  else match addrCheck s (whoOf s n) va size .read with
    | .ok p =>
      match p.tgt with
      | .loc pa =>
        let a : Access := { id := s.nextId, ser := s.nextId, vlc := n, kind := .load, va := va, tgt := p.tgt, size := size, cls := c }
        if p.dev || heldBack s n c p size || !mayPerform s a || (forwarded v.sbuf p.tgt size).2 ≠ 0 || (targetCheck s a .read pa).isSome || ueIn s pa size then s0
        else match readMem pa size v.agent s0 with
          | (some w, s1) => updVlc n (fun v => { v with early := v.early ++ [{ va := va, pa := pa, size := size, cls := c, val := w }] }) s1
          | (none, _) => s0
      | .rem _ _ _ => s0
    | .error _ => s0

/-- Whether a load that performed early still stands after a word has issued or entered the VIQ: nothing that now comes before it has still to perform,
and no byte of it stands in the strip store buffer (R57, R114, R116). -/
def Early.stands (e : Early) (s : State) (n : Nat) : Bool :=
  !blockedBy s n s.nextId s.nextId e.cls (.loc e.pa) e.size false && !viqBlocks s n e.cls (.loc e.pa) e.size false &&
    (forwarded (getVlc s n).sbuf (.loc e.pa) e.size).2 == 0

/-- The loads of VLC `n` that performed early and no longer stand are dropped. -/
def keepEarly (n : Nat) (s : State) : State :=
  if (getVlc s n).early.isEmpty then s else updVlc n (fun v => { v with early := v.early.filter (fun e => e.stands s n) }) s

/-- A word that orders what follows it: no load that performed before it stands for one after (R117 to R127). -/
def dropEarly (n : Nat) (s : State) : State :=
  if (getVlc s n).early.isEmpty then s else updVlc n (fun v => { v with early := [] }) s

/-- A load at issue: R360 at issue, then it waits for what comes before it, then it is sent and its register is empty (R183). -/
def loadAt (r va size : Nat) (sgn : Bool) (c : Nat) (s : State) : State :=
  match addrCheck s (whoOf s s.cur) va size .read with
  | .error f => raiseAddr f va s
  | .ok p =>
    if heldBack s s.cur c p size then awaitBanks p.walk s
    else
      let fw := if s.me.sopen && !p.dev then forwarded s.me.sbuf p.tgt size else (0, 0)
      let s1 := noteDev p s
      let fill (w : Nat) : State := advance { updMe (fun v => v.drainX r) s1 with fills := s1.fills ++ [{ vlc := s1.cur, reg := r, val := extend sgn size w }] }
      if fw.2 = 2 ^ size - 1 then fill fw.1
      else match earlyFor s va size c p with
      | some e => updMe (fun v => { v with early := v.early.erase e }) (fill e.val)
      | none =>
        let a : Access := {
          id := 0, vlc := s.cur, kind := .load, va := va, tgt := p.tgt, size := size, cls := c, dev := p.dev, cc := p.cc, reg := r,
          sgn := sgn, origin := s.me.pc.toNat, fwd := fw.1, fmask := fw.2, chk := isArgBlock s.me va size }
        advance (updMe (fun v => v.drainX r) (sendAcc a s1))

/-- A store's place in the strip store buffer: behind every store before it in program order (R115). -/
def putBuf (b : Buf) (l : List Buf) : List Buf := l.filter (fun x => x.id ≤ b.id) ++ b :: l.filter (fun x => b.id < x.id)

/-- The access of a buffered store as it goes to another module for its checks (R361). -/
def bufProbe (n : Nat) (b : Buf) : Access :=
  { id := b.id, vlc := n, kind := .probe, op := 9, va := b.va, tgt := b.tgt, size := b.size, cls := b.cls, cc := b.cc, origin := b.origin }

/-- Enters a store in the strip store buffer after its target checks; a store that fails them is removed, class D; one to another module is sent there
for them (R57, R361). -/
def bufferStore (b : Buf) (s : State) : State :=
  let fail := match b.tgt with
    | .loc pa => if paDram pa then (match tokenCheck s s.me.agent pa .write true with
        | some c => some c
        | none => if isLost s pa then some cUE_CONSUMED else none) else none
    | .rem _ _ _ => none
  match fail with
  | some c => deferFault { bufProbe s.cur b with kind := .store, op := 0 } c s
  | none =>
    let s1 := updMe (fun v => { v with sbuf := putBuf b v.sbuf }) s
    match b.tgt with
    | .loc _ => s1
    | .rem _ _ _ => sendNet (bufProbe s.cur b) s1

/-- Issues a store whose address has passed: buffered in an open strip, or sent; none while it must wait. A store that would take the buffer past
8 KiB makes it perform and sets SBFULL (R57, R183). -/
def storeSend (p : Passed) (va size data c : Nat) (s : State) : Option State :=
  if heldBack s s.cur c p size then none
  else
    let a : Access := {
      id := 0, vlc := s.cur, kind := .store, va := va, tgt := p.tgt, size := size, cls := c, dev := p.dev, cc := p.cc,
      data := data % 2 ^ (8 * size), origin := s.me.pc.toNat }
    if s.me.sopen && !s.me.sbfull && !p.dev then
      if bufBytes s.me.sbuf + size > 8192 then
        if mayFlush s s.cur then some (sendAcc a (stripFlush s.cur (notePin p s))) else none
      else
        some (bufferStore {
          id := s.nextId, tgt := p.tgt, va := va, size := size, data := data % 2 ^ (8 * size), cls := c, cc := p.cc, origin := s.me.pc.toNat }
          (bump (notePin p s)))
    else some (sendAcc a (noteDev p s))

/-- A store at issue: R360, then it is issued, and the word ends (R183). -/
def storeAt (va size data c : Nat) (s : State) : State :=
  match addrCheck s (whoOf s s.cur) va size .write with
  | .error f => raiseAddr f va s
  | .ok p =>
    match storeSend p va size data c s with
    | none => awaitBanks p.walk (awaitFlush s)
    | some s1 => advance s1

/-- A load with the class `c` (R183). -/
def loadForm (r a : XReg) (c : Option (BitVec 4)) (p : BitVec 12) (size : Nat) (sgn : Bool) (s : State) : State :=
  issue noIll [(a.toNat, false)] r.toNat (fun s => loadAt r.toNat (memVa s a.toNat p size) size sgn (classOf c s) s) s

/-- A store with the class `c`; its data register is a source (R183). -/
def storeForm (r a : XReg) (c : Option (BitVec 4)) (p : BitVec 12) (size : Nat) (s : State) : State :=
  issue noIll [(a.toNat, false), (r.toNat, false)] 0
    (fun s => storeAt (memVa s a.toNat p size) size (s.me.rx r.toNat).toNat (classOf c s) s) s

/-- A far atomic at issue: address, then scope, then it is sent (R185, R362). `acas` reads xd as a source. -/
def atomicForm (op size : Nat) (d a b : XReg) (fa fb : Bool) (sc : BitVec 3) (c : Option (BitVec 4)) (s : State) : State :=
  issue noIll ([(a.toNat, fa), (b.toNat, fb)] ++ (if op = 7 then [(d.toNat, false)] else [])) d.toNat (fun s =>
    let va := (s.me.rx a.toNat).toNat
    match addrCheck s (whoOf s s.cur) va size .atomic with
    | .error f => raiseAddr f va s
    | .ok p =>
      if !inScope s.cur sc.toNat p.tgt then raise cSCOPE va s
      else if heldBack s s.cur (classOf c s) p size then awaitBanks p.walk s
      else
        let acc : Access := {
          id := 0, vlc := s.cur, kind := .atomic, op := op, va := va, tgt := p.tgt, size := size, cls := classOf c s, dev := p.dev,
          cc := p.cc, data := (s.me.rx b.toNat).toNat, cmp := (s.me.rx d.toNat).toNat, reg := d.toNat, origin := s.me.pc.toNat }
        advance (updMe (fun v => v.drainX d.toNat) (noteIrrev s.cur (sendAcc acc (noteDev p s))))) s

/-- The check of a barrier word before anything is sent: R360 as a load, the home rule, then SUSPECT (R298, R367). A failure beyond R360 comes with the
byte whose token entry it concerns. -/
def barrierCheck (s : State) (va : Nat) : Except (Nat × Option Nat) Passed :=
  match addrCheck s (whoOf s s.cur) va 8 .read with
  | .error f => .error (f, none)
  | .ok p =>
    match p.tgt with
    | .rem _ _ _ => .error (cUNOWNED, none)
    | .loc pa => if !paDram pa then .error (cUNOWNED, none)
      else match tokenCheck s s.me.agent pa .atomic true with
        | some c => .error (c, some pa)
        | none => .ok p

/-- The class S fault of a barrier word: it names the token entry involved (R347). -/
def raiseWord (f : Nat × Option Nat) (va : Nat) (s : State) : State :=
  match f.2 with
  | some pa => raiseAt (withToken s pa { code := f.1, origin := s.me.pc.toNat, addr := va }) s.me.pc.toNat s
  | none => raiseAddr f.1 va s

/-- Whether every earlier load, store and atomic of VLC `n` has performed (R121, R127). -/
def allPerformed (s : State) (n : Nat) : Bool :=
  !s.net.any (fun a => a.vlc == n) && !(viqOf s n).any (fun e => (memWordOf e.instr).isSome) &&
    !(rqOf s n).any (fun r => !r.stores.isEmpty || !r.atoms.isEmpty) && (gathOf s n).isEmpty

/-- `bar.init` and `bar.arrive` at issue: for an arrival the flush of R127, which has happened whatever the checks find (R367); word checks, limit, for an
arrival the wait of R127; then the operation is sent and the VLC waits for the home (R298). -/
def barrierForm (o : BAop) (kind : AccKind) (s : State) : State :=
  issue noIll [(o.a.toNat, o.fa), (o.b.toNat, o.fb)] o.d.toNat (fun s =>
    let va := (s.me.rx o.a.toNat).toNat
    if kind = .barArrive && !(mayFlush s s.cur) then awaitFlush s
    else
      let s1 := if kind = .barArrive then stripFlush s.cur s else s
      match barrierCheck s1 va with
      | .error f => raiseWord f va s1
      | .ok p =>
        let x := (s.me.rx o.b.toNat).toNat
        if x > 16777215 then raise cBAR_RANGE va s1
        else if kind = .barArrive && !allPerformed s1 s.cur then s1
        else if heldBack s1 s.cur o.c.toNat p 8 then awaitBanks p.walk s1
        else
          let acc : Access := {
            id := 0, vlc := s.cur, kind := kind, va := va, tgt := p.tgt, size := 8, cls := o.c.toNat, dev := p.dev, data := x,
            reg := o.d.toNat, origin := s.me.pc.toNat }
          updMe (fun v => { v with wait := .barrier s1.nextId }) (noteIrrev s.cur (sendAcc acc (noteDev p s1)))) s

/-- `bar.init` (R298). -/
def execBarInit (o : BAop) (s : State) : Result := .next (barrierForm o .barInit s)

/-- `bar.arrive` (R127, R298). -/
def execBarArrive (o : BAop) (s : State) : Result := .next (barrierForm o .barArrive s)

/-- `bar.wait`: with EXP = 1 the expected EPOCH is x[xb][31:0] (R298). It orders nothing before itself; with 16 faults waiting it does not issue (R349). -/
def execBarWait (o : BWop) (s : State) : Result :=
  .next (issue noIll ([(o.a.toNat, o.fa)] ++ (if o.exp then [(o.b.toNat, o.fb)] else [])) o.d.toNat (fun s =>
    let va := (s.me.rx o.a.toNat).toNat
    match barrierCheck s va with
    | .error f => raiseWord f va s
    | .ok p =>
      if s.me.faults.length ≥ 16 || walkWaits s p.walk then awaitBanks p.walk s
      else
        let acc : Access := {
          id := 0, vlc := s.cur, kind := .barWait, va := va, tgt := p.tgt, size := 8, cls := s.me.ocdef.toNat, reg := o.d.toNat,
          origin := s.me.pc.toNat, e0 := if o.exp then some (fld (s.me.rx o.b.toNat).toNat 0 32) else none }
        updMe (fun v => { v with wait := .barrier s.nextId }) (noteIrrev s.cur (sendAcc acc (noteDev p s)))) s)

/-- `ldb` with an explicit class (R183). -/
def execLdbC (o : MEMCop) (s : State) : Result := .next (loadForm o.r o.a (some o.c) o.p 1 true s)

/-- `ldbn` with an explicit class (R183). -/
def execLdbnC (o : MEMCop) (s : State) : Result := .next (loadForm o.r o.a (some o.c) o.p 1 false s)

/-- `ldh` with an explicit class (R183). -/
def execLdhC (o : MEMCop) (s : State) : Result := .next (loadForm o.r o.a (some o.c) o.p 2 true s)

/-- `ldhn` with an explicit class (R183). -/
def execLdhnC (o : MEMCop) (s : State) : Result := .next (loadForm o.r o.a (some o.c) o.p 2 false s)

/-- `ldw` with an explicit class (R183). -/
def execLdwC (o : MEMCop) (s : State) : Result := .next (loadForm o.r o.a (some o.c) o.p 4 true s)

/-- `ldwn` with an explicit class (R183). -/
def execLdwnC (o : MEMCop) (s : State) : Result := .next (loadForm o.r o.a (some o.c) o.p 4 false s)

/-- `ldd` with an explicit class (R183). -/
def execLddC (o : MEMCop) (s : State) : Result := .next (loadForm o.r o.a (some o.c) o.p 8 false s)

/-- `stb` with an explicit class (R183). -/
def execStbC (o : MEMCop) (s : State) : Result := .next (storeForm o.r o.a (some o.c) o.p 1 s)

/-- `sth` with an explicit class (R183). -/
def execSthC (o : MEMCop) (s : State) : Result := .next (storeForm o.r o.a (some o.c) o.p 2 s)

/-- `stw` with an explicit class (R183). -/
def execStwC (o : MEMCop) (s : State) : Result := .next (storeForm o.r o.a (some o.c) o.p 4 s)

/-- `std` with an explicit class (R183). -/
def execStdC (o : MEMCop) (s : State) : Result := .next (storeForm o.r o.a (some o.c) o.p 8 s)

/-- `ldb`, class OCDEF (R183). -/
def execLdb (o : MEMop) (s : State) : Result := .next (loadForm o.r o.a none o.p 1 true s)

/-- `ldbn`, class OCDEF (R183). -/
def execLdbn (o : MEMop) (s : State) : Result := .next (loadForm o.r o.a none o.p 1 false s)

/-- `ldh`, class OCDEF (R183). -/
def execLdh (o : MEMop) (s : State) : Result := .next (loadForm o.r o.a none o.p 2 true s)

/-- `ldhn`, class OCDEF (R183). -/
def execLdhn (o : MEMop) (s : State) : Result := .next (loadForm o.r o.a none o.p 2 false s)

/-- `ldw`, class OCDEF (R183). -/
def execLdw (o : MEMop) (s : State) : Result := .next (loadForm o.r o.a none o.p 4 true s)

/-- `ldwn`, class OCDEF (R183). -/
def execLdwn (o : MEMop) (s : State) : Result := .next (loadForm o.r o.a none o.p 4 false s)

/-- `ldd`, class OCDEF (R183). -/
def execLdd (o : MEMop) (s : State) : Result := .next (loadForm o.r o.a none o.p 8 false s)

/-- `stb`, class OCDEF (R183). -/
def execStb (o : MEMop) (s : State) : Result := .next (storeForm o.r o.a none o.p 1 s)

/-- `sth`, class OCDEF (R183). -/
def execSth (o : MEMop) (s : State) : Result := .next (storeForm o.r o.a none o.p 2 s)

/-- `stw`, class OCDEF (R183). -/
def execStw (o : MEMop) (s : State) : Result := .next (storeForm o.r o.a none o.p 4 s)

/-- `std`, class OCDEF (R183). -/
def execStd (o : MEMop) (s : State) : Result := .next (storeForm o.r o.a none o.p 8 s)

/-- `aadd.w` with an explicit class (R185). -/
def execAaddWC (o : ATCop) (s : State) : Result := .next (atomicForm 0 4 o.d o.a o.b o.fa o.fb o.sc (some o.c) s)

/-- `aand.w` with an explicit class (R185). -/
def execAandWC (o : ATCop) (s : State) : Result := .next (atomicForm 1 4 o.d o.a o.b o.fa o.fb o.sc (some o.c) s)

/-- `aor.w` with an explicit class (R185). -/
def execAorWC (o : ATCop) (s : State) : Result := .next (atomicForm 2 4 o.d o.a o.b o.fa o.fb o.sc (some o.c) s)

/-- `axor.w` with an explicit class (R185). -/
def execAxorWC (o : ATCop) (s : State) : Result := .next (atomicForm 3 4 o.d o.a o.b o.fa o.fb o.sc (some o.c) s)

/-- `amin.w` with an explicit class (R185). -/
def execAminWC (o : ATCop) (s : State) : Result := .next (atomicForm 4 4 o.d o.a o.b o.fa o.fb o.sc (some o.c) s)

/-- `amax.w` with an explicit class (R185). -/
def execAmaxWC (o : ATCop) (s : State) : Result := .next (atomicForm 5 4 o.d o.a o.b o.fa o.fb o.sc (some o.c) s)

/-- `aswap.w` with an explicit class (R185). -/
def execAswapWC (o : ATCop) (s : State) : Result := .next (atomicForm 6 4 o.d o.a o.b o.fa o.fb o.sc (some o.c) s)

/-- `acas.w` with an explicit class (R185). -/
def execAcasWC (o : ATCop) (s : State) : Result := .next (atomicForm 7 4 o.d o.a o.b o.fa o.fb o.sc (some o.c) s)

/-- `aadd.w`, class OCDEF (R185). -/
def execAaddW (o : ATop) (s : State) : Result := .next (atomicForm 0 4 o.d o.a o.b o.fa o.fb o.sc none s)

/-- `aand.w`, class OCDEF (R185). -/
def execAandW (o : ATop) (s : State) : Result := .next (atomicForm 1 4 o.d o.a o.b o.fa o.fb o.sc none s)

/-- `aor.w`, class OCDEF (R185). -/
def execAorW (o : ATop) (s : State) : Result := .next (atomicForm 2 4 o.d o.a o.b o.fa o.fb o.sc none s)

/-- `axor.w`, class OCDEF (R185). -/
def execAxorW (o : ATop) (s : State) : Result := .next (atomicForm 3 4 o.d o.a o.b o.fa o.fb o.sc none s)

/-- `amin.w`, class OCDEF (R185). -/
def execAminW (o : ATop) (s : State) : Result := .next (atomicForm 4 4 o.d o.a o.b o.fa o.fb o.sc none s)

/-- `amax.w`, class OCDEF (R185). -/
def execAmaxW (o : ATop) (s : State) : Result := .next (atomicForm 5 4 o.d o.a o.b o.fa o.fb o.sc none s)

/-- `aswap.w`, class OCDEF (R185). -/
def execAswapW (o : ATop) (s : State) : Result := .next (atomicForm 6 4 o.d o.a o.b o.fa o.fb o.sc none s)

/-- `acas.w`, class OCDEF (R185). -/
def execAcasW (o : ATop) (s : State) : Result := .next (atomicForm 7 4 o.d o.a o.b o.fa o.fb o.sc none s)

/-- `aadd.d` with an explicit class (R185). -/
def execAaddDC (o : ATCop) (s : State) : Result := .next (atomicForm 0 8 o.d o.a o.b o.fa o.fb o.sc (some o.c) s)

/-- `aand.d` with an explicit class (R185). -/
def execAandDC (o : ATCop) (s : State) : Result := .next (atomicForm 1 8 o.d o.a o.b o.fa o.fb o.sc (some o.c) s)

/-- `aor.d` with an explicit class (R185). -/
def execAorDC (o : ATCop) (s : State) : Result := .next (atomicForm 2 8 o.d o.a o.b o.fa o.fb o.sc (some o.c) s)

/-- `axor.d` with an explicit class (R185). -/
def execAxorDC (o : ATCop) (s : State) : Result := .next (atomicForm 3 8 o.d o.a o.b o.fa o.fb o.sc (some o.c) s)

/-- `amin.d` with an explicit class (R185). -/
def execAminDC (o : ATCop) (s : State) : Result := .next (atomicForm 4 8 o.d o.a o.b o.fa o.fb o.sc (some o.c) s)

/-- `amax.d` with an explicit class (R185). -/
def execAmaxDC (o : ATCop) (s : State) : Result := .next (atomicForm 5 8 o.d o.a o.b o.fa o.fb o.sc (some o.c) s)

/-- `aswap.d` with an explicit class (R185). -/
def execAswapDC (o : ATCop) (s : State) : Result := .next (atomicForm 6 8 o.d o.a o.b o.fa o.fb o.sc (some o.c) s)

/-- `acas.d` with an explicit class (R185). -/
def execAcasDC (o : ATCop) (s : State) : Result := .next (atomicForm 7 8 o.d o.a o.b o.fa o.fb o.sc (some o.c) s)

/-- `aadd.d`, class OCDEF (R185). -/
def execAaddD (o : ATop) (s : State) : Result := .next (atomicForm 0 8 o.d o.a o.b o.fa o.fb o.sc none s)

/-- `aand.d`, class OCDEF (R185). -/
def execAandD (o : ATop) (s : State) : Result := .next (atomicForm 1 8 o.d o.a o.b o.fa o.fb o.sc none s)

/-- `aor.d`, class OCDEF (R185). -/
def execAorD (o : ATop) (s : State) : Result := .next (atomicForm 2 8 o.d o.a o.b o.fa o.fb o.sc none s)

/-- `axor.d`, class OCDEF (R185). -/
def execAxorD (o : ATop) (s : State) : Result := .next (atomicForm 3 8 o.d o.a o.b o.fa o.fb o.sc none s)

/-- `amin.d`, class OCDEF (R185). -/
def execAminD (o : ATop) (s : State) : Result := .next (atomicForm 4 8 o.d o.a o.b o.fa o.fb o.sc none s)

/-- `amax.d`, class OCDEF (R185). -/
def execAmaxD (o : ATop) (s : State) : Result := .next (atomicForm 5 8 o.d o.a o.b o.fa o.fb o.sc none s)

/-- `aswap.d`, class OCDEF (R185). -/
def execAswapD (o : ATop) (s : State) : Result := .next (atomicForm 6 8 o.d o.a o.b o.fa o.fb o.sc none s)

/-- `acas.d`, class OCDEF (R185). -/
def execAcasD (o : ATop) (s : State) : Result := .next (atomicForm 7 8 o.d o.a o.b o.fa o.fb o.sc none s)

end Sys2Proof.Machine
end

