-- ==== Sys2Proof/Machine/Strip.lean ====
section
/-! DEFINITION. Strip and lane control, vector fetch, CSR instructions, waits and `fin` (R53 to R60, R167, R168, R189 to R194, R205 to R208). -/
namespace Sys2Proof.Machine

/-! ### Lanes (R55) -/

/-- VLC `n` takes the lanes of its core: v0 to v31 and k1 to k7 are 0. -/
def takeLanes (n : Nat) (s : State) : State :=
  updCore (coreOf n) (fun c => { c with holder := some n, queue := c.queue.filter (· != n) })
    (updVlc n (fun v => { v with lanes := true, v := [], k := [], vempty := [], wait := .none }) s)

/-- The claim of the slice ends when `n` holds it; its state is dead (R237). -/
def endClaim (n : Nat) (s : State) : State :=
  updVault (vaultOf n) (fun v => if v.slice.holder = some n then { v with slice := { queue := v.slice.queue } } else v) s

/-- VLC `n` gives up its lanes and any claim (R59, R237). -/
def releaseLanes (n : Nat) (s : State) : State :=
  let s1 := endClaim n s
  let s2 := updCore (coreOf n) (fun c => if c.holder = some n then { c with holder := none } else c) s1
  updVlc n (fun v => { v with lanes := false, vl := 0, vlGrant := 0, v := [], k := [], vempty := [] }) s2

/-- LANE_GRANT: the free lanes of a core pass to the first VLC waiting for them (R55). -/
def execLaneGrant (core : Nat) (s : State) : Result :=
  .next (let c := getCore s core
    match c.holder, c.queue with
    | none, n :: _ =>
      if (getVlc s n).status = .restoring then updCore core (fun c => { c with holder := some n, queue := c.queue.filter (· != n) }) s
      else takeLanes n s
    | _, _ => s)

/-! ### Strips (R56 to R58) -/

/-- VLMAX of VLC `n` under the codes of SEW and GRP (R53). -/
def vlmax (s : State) (n sew grp : Nat) : Nat := vlenOf s n * grpN grp / sewBits sew

/-- The checkpoint of the registers that CKM names (R56). -/
def checkpoint (v : Vlc) : Tbl Word :=
  (upto 32).foldl (fun t i => if has v.ckm i && i != 0 then tset 0 t i (v.rx i) else t) []

/-- The grant of `vsetl` to a VLC that holds the lanes (R56). -/
def grantStrip (d : XReg) (sew grp : Nat) (s : State) : State :=
  let v := s.me
  let vmax := vlmax s s.cur sew grp
  let cfg := BitVec.ofNat 4 (sew + 4 * grp)
  if v.sopen then finishX d.toNat (wN v.vl) (updMe (fun v => { v with vcfg := cfg, vlGrant := v.vl }) s)
  else
    let vl := min v.sc.toNat vmax
    finishX d.toNat (wN vl) (updMe (fun v => {
      v with
      vl := vl, vlGrant := vl, prc := v.sc, ckp := checkpoint v, ckmask := v.ckm, spc := v.pc, cksb := v.sb, sopen := true, sbfull := false, devs := false,
      irrev := false, vcfg := cfg }) s)

/-- Whether a `vldff` of VLC `n` has not executed, so that VL may still be trimmed (R200). -/
def vldffOut (s : State) (n : Nat) : Bool := (viqOf s n).any (fun e => match memWordOf e.instr with | some w => w.first | none => false)

/-- `vsetl` (R56, R200, R205): it waits for an older unexecuted `vldff` before it looks at VL. -/
def execVsetl (d : XReg) (sew grp : BitVec 2) (s : State) : Result :=
  .next (issue (fun s => lanesOf (getVault s (vaultOf s.cur)).lpr (coreOf s.cur % 2) == 0 || s.me.hnd ||
      (s.me.sopen && !vldffOut s s.cur && s.me.vl > vlmax s s.cur sew.toNat grp.toNat)) [] d.toNat (fun s =>
    if vldffOut s s.cur then s
    else if s.me.lanes then grantStrip d sew.toNat grp.toNat s
    else
      let c := getCore s (coreOf s.cur)
      if c.holder.isNone && c.queue.isEmpty then grantStrip d sew.toNat grp.toNat (takeLanes s.cur s)
      else updCore (coreOf s.cur) (fun c => { c with queue := c.queue ++ [s.cur] }) (updMe (fun v => { v with wait := .lanes }) s)) s)

/-- `vckm` (R206). -/
def execVckm (o : RAop) (s : State) : Result :=
  .next (issue noIll [(o.a.toNat, o.fa)] o.d.toNat (fun s =>
    finishX o.d.toNat (s.me.ckm.zeroExtend 64)
      (updMe (fun v => { v with ckm := (v.rx o.a.toNat).truncate 32 &&& 0xFFFFFFFE }) s)) s)

/-- `vrel` (R59, R207). -/
def execVrel (s : State) : Result :=
  .next (issue (fun s => s.me.sopen || s.me.hnd) [] 0 (fun s =>
    if vecBusy s s.cur then s else advance (releaseLanes s.cur s)) s)

/-- Whether a scalar load of VLC `n` has not filled its register (R381). -/
def loadsOut (s : State) (n : Nat) : Bool :=
  s.net.any (fun a => a.vlc == n && a.kind == .load && a.vdst.isNone) || s.fills.any (fun f => f.vlc == n && f.vdst.isNone && !f.rq)

/-- `vstrip` closes the strip (R58, R190, R208, R381). -/
def execVstrip (off : BitVec 16) (s : State) : Result :=
  .next (issue (fun s => !s.me.lanes || !s.me.sopen || s.me.hnd) [] 0 (fun s =>
    if vecBusy s s.cur || loadsOut s s.cur || !mayFlush s s.cur then awaitFlush s
    else
      let v := s.me
      let sc := (v.scPend.getD v.sc).toNat
      let new := if v.vl ≥ sc then 0 else sc - v.vl
      let tgt := if new > 0 then v.pc + wI (off.toInt * 4) else v.pc + 4
      let progress : Bool := new = 0 || new < v.prc.toNat
      let s1 := updMe (fun v => {
        v with
        sb := v.sb + wN v.vl, sc := wN new, scPend := none, sopen := false, rwd := false, irrev := false,
        np := if progress then false else v.np }) (flushBuf s.cur s)
      if !progress && v.np then
        raiseAt { code := cNO_PROGRESS, origin := v.pc.toNat } tgt.toNat s1
      else updMe (fun v => { v with np := !progress, pc := tgt, bskip := v.skipOn, cost := v.cost + 1 }) s1) s)

/-! ### Vector fetch (R158, R159, R189) -/

/-- Feeds the block at `blk`: ALIGN, then TRANSLATION outside the I-store window (R189). -/
def fetchBlock (blk : Word) (s : State) : State :=
  if blk.toNat % 8 ≠ 0 then raise cALIGN blk.toNat s
  else if !inIstore blk.toNat then raise cTRANSLATION blk.toNat s
  else advance (updMe (fun v => { v with feed := some (blk.toNat, 0) }) s)

/-- `vfetch` (R153, R189). -/
def execVfetch (off : BitVec 21) (s : State) : Result :=
  .next (issue (fun s => !s.me.lanes || s.me.hnd) [] 0
    (fun s => fetchBlock ((s.me.pc &&& ~~~4) + wI (off.toInt * 8)) s) s)

/-- `vfetchr` (R153, R189). -/
def execVfetchr (a : XReg) (off : BitVec 21) (s : State) : Result :=
  .next (issue (fun s => !s.me.lanes || s.me.hnd) [(a.toNat, false)] 0
    (fun s => fetchBlock (s.me.rx a.toNat + wI (off.toInt * 8)) s) s)

/-! ### CSRs (R51, R167, R168, R190) -/

/-- CTXID of VLC `n` (R51). -/
def ctxid (s : State) (n : Nat) : Word :=
  wN ((getVlc s n).slotNo % 2048 + vaultOf n % 16 * 2 ^ 12 + stackOf n * 2 ^ 16 + coreOf n % 2 * 2 ^ 20 + n % 4 * 2 ^ 21)

/-- VSTAT of a context (R51). -/
def vstat (v : Vlc) : Word := wN (b2n v.lanes + 2 * b2n v.sopen + 4 * b2n v.np + 8 * b2n v.sbfull + 16 * b2n v.devs)

/-- The slice of VLC `n`. -/
def sliceOf (s : State) (n : Nat) : Slice := (getVault s (vaultOf n)).slice

/-- Whether VLC `n` holds the claim of its slice. -/
def holdsClaim (s : State) (n : Nat) : Bool := (sliceOf s n).holder == some n

/-- The value of a CSR; none for a number that R167 does not list. -/
def csrRead (s : State) (n : Nat) (c : Nat) : Option Word :=
  let v := getVlc s n
  match c with
  | 0x000 => some (wN s.cyc)
  | 0x001 => some (ctxid s n)
  | 0x010 => some (v.scPend.getD v.sc)
  | 0x011 => some v.sb
  | 0x012 => some v.prc
  | 0x013 => some (v.ckm.zeroExtend 64)
  | 0x014 => some (wN v.vl)
  | 0x015 => some (v.vcfg.zeroExtend 64)
  | 0x016 => some (vstat v)
  | 0x017 => some v.estart
  | 0x020 => some (v.ocdef.zeroExtend 64)
  | 0x021 => some (v.rmode.zeroExtend 64)
  | 0x022 => some (v.fflags.zeroExtend 64)
  | 0x023 => some v.smm
  | 0x030 => some (wN (getVault s (vaultOf n)).lpr)
  | 0x040 => some (sliceOf s n).prec
  | 0x041 => some (sliceOf s n).mstat
  | 0x100 => some v.tvec
  | 0x101 => some v.epc
  | 0x102 => some (tget 0 v.frec 0)
  | 0x103 => some (tget 0 v.frec 1)
  | 0x104 => some (tget 0 v.frec 2)
  | 0x105 => some (tget 0 v.frec 3)
  | 0x110 => some (tget 0 v.bpa 0)
  | 0x111 => some (tget 0 v.bpa 1)
  | 0x112 => some (tget 0 v.bpa 2)
  | 0x113 => some (tget 0 v.bpa 3)
  | _ => none

/-- CSRs whose Access is R (R167). -/
def csrReadOnly (c : Nat) : Bool := [0x000, 0x001, 0x012, 0x014, 0x015, 0x016, 0x102, 0x103, 0x104, 0x105].contains c

/-- CSRs on which an instruction waits until every older vector and matrix instruction has retired (R139, R168). -/
def csrWaits (c : Nat) : Bool := [0x014, 0x015, 0x016, 0x017, 0x022, 0x023, 0x040, 0x041].contains c

/-- CSRs of the slice, reachable only under the claim (R168). -/
def csrSlice (c : Nat) : Bool := c == 0x040 || c == 0x041

/-- Values of PREC that R144 refuses. -/
def precBad (w : Nat) : Bool :=
  fld w 0 5 == 0 || fld w 0 5 > 16 || fld w 16 5 == 0 || fld w 16 5 > 16 || fld w 32 2 == 3 || fld w 11 5 != 0 || fld w 27 5 != 0 || fld w 34 30 != 0

/-- Values of a breakpoint register that R356 refuses. -/
def bpaBad (w : Nat) : Bool := if bitN w 1 then bitN w 2 else fld w 56 6 != 0

/-- Whether a write of LPR is refused (R54): a reserved PART, a VLC of the vault that holds lanes, or a changed lane count of a core with a
saved context that holds lanes. -/
def lprRefused (s : State) (vault p : Nat) : Bool :=
  p ≥ 5 || (upto 8).any (fun j => (getVlc s (8 * vault + j)).lanes) ||
    s.launches.any (fun l => l.saved.any (fun x => x.ctx.lanes && vaultOf x.vlcNo == vault &&
      lanesOf p (coreOf x.vlcNo % 2) != lanesOf (getVault s vault).lpr (coreOf x.vlcNo % 2)))

/-- Whether a value that a write would leave in a CSR is refused (R54, R144, R168, R190, R356). -/
def csrRefused (s : State) (c : Nat) (w : Word) : Bool :=
  match c with
  | 0x030 => lprRefused s (vaultOf s.cur) (fld w.toNat 0 3)
  | 0x040 => precBad w.toNat
  | 0x041 => fld w.toNat 0 7 != fld (sliceOf s s.cur).mstat.toNat 0 7
  | 0x110 => bpaBad w.toNat
  | 0x111 => bpaBad w.toNat
  | 0x112 => bpaBad w.toNat
  | 0x113 => bpaBad w.toNat
  | _ => false

/-- Writes a CSR; RSV bits ignore the value written; SC in an open strip is held pending (R190). -/
def csrPut (c : Nat) (w : Word) (s : State) : State :=
  match c with
  | 0x010 => updMe (fun v => if v.sopen then { v with scPend := some w } else { v with sc := w }) s
  | 0x011 => updMe (fun v => { v with sb := w }) s
  | 0x013 => updMe (fun v => { v with ckm := w.truncate 32 &&& 0xFFFFFFFE }) s
  | 0x017 => updMe (fun v => { v with estart := w }) s
  | 0x020 => updMe (fun v => { v with ocdef := w.truncate 4 }) s
  | 0x021 => updMe (fun v => { v with rmode := w.truncate 2 }) s
  | 0x022 => updMe (fun v => { v with fflags := w.truncate 6 }) s
  | 0x023 => updMe (fun v => { v with smm := w }) s
  | 0x030 => updVault (vaultOf s.cur) (fun v => { v with lpr := fld w.toNat 0 3, lprAt := if coreOf s.cur % 2 = 1 then s.cyc + 1 else v.lprAt }) s
  | 0x040 => updVault (vaultOf s.cur) (fun v => { v with slice := { v.slice with prec := w } }) s
  | 0x041 => updVault (vaultOf s.cur) (fun v => { v with slice := { v.slice with mstat := wN (putFld v.slice.mstat.toNat 7 1 (fld w.toNat 7 1)) } }) s
  | 0x100 => updMe (fun v => { v with tvec := w }) s
  | 0x101 => updMe (fun v => { v with epc := w }) s
  | 0x110 => updMe (fun v => { v with bpa := tset 0 v.bpa 0 (w &&& 0x3FFFFFFFFFFFFFFF) }) s
  | 0x111 => updMe (fun v => { v with bpa := tset 0 v.bpa 1 (w &&& 0x3FFFFFFFFFFFFFFF) }) s
  | 0x112 => updMe (fun v => { v with bpa := tset 0 v.bpa 2 (w &&& 0x3FFFFFFFFFFFFFFF) }) s
  | 0x113 => updMe (fun v => { v with bpa := tset 0 v.bpa 3 (w &&& 0x3FFFFFFFFFFFFFFF) }) s
  | _ => s

/-- `csrr` (R168, R190). -/
def execCsrr (d : XReg) (n : BitVec 11) (s : State) : Result :=
  .next (issue (fun s => (csrRead s s.cur n.toNat).isNone) [] d.toNat (fun s =>
    if csrWaits n.toNat && vecBusy s s.cur then s
    else if csrSlice n.toNat && !holdsClaim s s.cur then raiseIllegal s
    else finishX d.toNat ((csrRead s s.cur n.toNat).getD 0) s) s)

/-- Whether a write of LPR by core 0 counts for the next cycle, since core 1 has written it in this one: core 0 comes first in a cycle (R168). -/
def lprTurn (s : State) (c : Nat) : Bool :=
  c == 0x030 && coreOf s.cur % 2 == 0 && (getVault s (vaultOf s.cur)).lprAt == s.cyc + 1

/-- A write of LPR by core 1, whether refused or not, is checked after one of core 0 in the same cycle (R168). -/
def noteLpr (c : Nat) (s : State) : State :=
  if c = 0x030 ∧ coreOf s.cur % 2 = 1 then updVault (vaultOf s.cur) (fun v => { v with lprAt := s.cyc + 1 }) s else s

/-- A CSR write: `f` makes the new value from the old one and xa (R168, R190). -/
def csrWrite (n : BitVec 11) (a : XReg) (f : Word → Word → Word) (s : State) : State :=
  issue (fun s => (csrRead s s.cur n.toNat).isNone || csrReadOnly n.toNat || (n.toNat == 0x100 && s.me.hnd)) [(a.toNat, false)] 0 (fun s =>
    if (csrWaits n.toNat && vecBusy s s.cur) || lprTurn s n.toNat then s
    else if csrSlice n.toNat && !holdsClaim s s.cur then raiseIllegal s
    else
      let w := f ((csrRead s s.cur n.toNat).getD 0) (s.me.rx a.toNat)
      if csrRefused s n.toNat w then raiseIllegal (noteLpr n.toNat s) else advance (csrPut n.toNat w s)) s

/-- `csrw` (R190). -/
def execCsrw (n : BitVec 11) (a : XReg) (s : State) : Result := .next (csrWrite n a (fun _ x => x) s)

/-- `csrs` (R190). -/
def execCsrs (n : BitVec 11) (a : XReg) (s : State) : Result := .next (csrWrite n a (fun c x => c ||| x) s)

/-- `csrc` (R190). -/
def execCsrc (n : BitVec 11) (a : XReg) (s : State) : Result := .next (csrWrite n a (fun c x => c &&& ~~~x) s)

/-! ### Waits (R192, R193) -/

/-- `wfe`: completes at once when the event bit is 1, else waits (R192). -/
def execWfe (t : BitVec 11) (s : State) : Result :=
  .next (issue noIll [] 0 (fun s =>
    if s.me.event then advance (updMe (fun v => { v with event := false }) s)
    else updMe (fun v => { v with wait := .event (if t = 0 then 0 else s.cyc + t.toNat * 256) }) s) s)

/-- A waiting `wfe` whose event bit is set completes and clears it (R192). -/
def wfeDone (n : Nat) (s : State) : State :=
  updVlc n (fun v => { v with wait := .none, event := false, pc := v.pc + 4, bskip := v.skipOn, cost := v.cost + 1 }) s

/-- WFE_TIMEOUT: the limit of a waiting `wfe` has passed (R192). -/
def execWfeTimeout (vlc : Nat) (s : State) : Result :=
  .next (match (getVlc s vlc).status, (getVlc s vlc).wait with
    | .running, .event limit => if limit ≠ 0 ∧ s.cyc ≥ limit then wfeDone vlc s else s
    | _, _ => s)

/-- `sleepc` (R193). -/
def execSleepc (a : XReg) (s : State) : Result :=
  .next (issue noIll [(a.toNat, false)] 0 (fun s =>
    if s.cyc ≥ (s.me.rx a.toNat).toNat then advance s
    else updMe (fun v => { v with wait := .sleep (v.rx a.toNat).toNat }) s) s)

/-- SLEEPC_EXPIRY: CYC has reached the value of a waiting `sleepc` (R193). -/
def execSleepcExpiry (vlc : Nat) (s : State) : Result :=
  .next (match (getVlc s vlc).status, (getVlc s vlc).wait with
    | .running, .sleep t => if s.cyc ≥ t then updVlc vlc (fun v => { v with wait := .none, pc := v.pc + 4, bskip := v.skipOn, cost := v.cost + 1 }) s else s
    | _, _ => s)

/-! ### The end of an instance (R60) -/

/-- `fin`, steps 1 to 3 of R60; the instance then waits for its marks. -/
def execFin (s : State) : Result :=
  .next (issue (fun s => s.me.sopen || s.me.hnd) [] 0 (fun s =>
    if vecBusy s s.cur || s.me.empty != 0 || s.cmds.any (fun c => c.vlc == s.cur) then s
    else
      let s1 := releaseLanes s.cur s
      updMe (fun v => { v with status := .finishing, cost := v.cost + 1 })
        <| discardAhead s.cur { s1 with locks := s1.locks.filter (fun l => l.vlc != s1.cur) }) s)

end Sys2Proof.Machine
end

