-- ==== Sys2Proof/Machine/VecShape.lean ====
section
/-! DEFINITION. What a vector word names and reads: its registers and groups, and the checks at VIQ entry (R195, R198, R199, R214, R216, R234,
R244, R363). -/
namespace Sys2Proof.Machine

/-- The operands of a vector word: x registers read with their FE bits, the x register filled, the destination and source groups as
(register, size), where size 0 is a single register, 1 a group and 2 a double group, and what limits the word. -/
structure VShape where
  xa : Option (Nat × Bool) := none
  xb : Option (Nat × Bool) := none
  xd : Option Nat := none
  dst : Option (Nat × Nat) := none
  srcs : List (Nat × Nat) := []
  kd : Option Nat := none
  /-- The destination may overlap no source (R198). -/
  strict : Bool := false
  /-- Widening or narrowing (R199). -/
  wide : Bool := false
  red : Bool := false
  gather : Bool := false
  matrix : Bool := false
  /-- The element widths the word accepts; empty: every one. -/
  sews : List Nat := []
  needMask : Option Nat := none
  /-- Fields of a segment word (R233). -/
  fields : Nat := 1
  deriving DecidableEq, Repr

def shVV (o : VVop) : VShape := { dst := some (o.vd.toNat, 1), srcs := [(o.va.toNat, 1), (o.vb.toNat, 1)] }
def shVX (o : VXop) : VShape := { dst := some (o.vd.toNat, 1), srcs := [(o.va.toNat, 1)], xb := some (o.xb.toNat, o.fb) }
def shVI (o : VIop) : VShape := { dst := some (o.vd.toNat, 1), srcs := [(o.va.toNat, 1)] }
def shVU (o : VUop) : VShape := { dst := some (o.vd.toNat, 1), srcs := [(o.va.toNat, 1)] }
def shVSH (o : VSHop) : VShape := { dst := some (o.vd.toNat, 1), srcs := [(o.va.toNat, 1)] }
def shVGAP (o : VGAPop) : VShape := { dst := some (o.vd.toNat, 1), srcs := [(o.va.toNat, 1)] }
def shCV (o : CVop) : VShape := { kd := some o.kd.toNat, srcs := [(o.va.toNat, 1), (o.vb.toNat, 1)] }
def shCX (o : CXop) : VShape := { kd := some o.kd.toNat, srcs := [(o.va.toNat, 1)], xb := some (o.xb.toNat, o.fb) }
def shRSH (o : RSHop) : VShape := { dst := some (o.vd.toNat, 1), srcs := [(o.va.toNat, 1)], xb := some (o.xb.toNat, o.fb) }
def shMVX (o : MVXop) : VShape := { dst := some (o.vd.toNat, 1), xb := some (o.xb.toNat, o.fb) }
def shMVI (o : MVIop) : VShape := { dst := some (o.vd.toNat, 1) }

/-- The operands of each vector word. -/
def shapeOf (i : Instr) : VShape :=
  match i with
  | .vaddVr o => shVV o
  | .vaddSc o => shVX o
  | .vaddIm o => shVI o
  | .vsubVr o => shVV o
  | .vsubSc o => shVX o
  | .vrsubSc o => shVX o
  | .vrsubIm o => shVI o
  | .vmulVr o => shVV o
  | .vmulSc o => shVX o
  | .vmulhVr o => shVV o
  | .vmulhSc o => shVX o
  | .vmulhnVr o => shVV o
  | .vmulhnSc o => shVX o
  | .vmaccVr o => shVV o
  | .vmaccSc o => shVX o
  | .vnmsacVr o => shVV o
  | .vnmsacSc o => shVX o
  | .vdivVr o => shVV o
  | .vdivSc o => shVX o
  | .vdivnVr o => shVV o
  | .vdivnSc o => shVX o
  | .vremVr o => shVV o
  | .vremSc o => shVX o
  | .vremnVr o => shVV o
  | .vremnSc o => shVX o
  | .vminVr o => shVV o
  | .vminSc o => shVX o
  | .vmaxVr o => shVV o
  | .vmaxSc o => shVX o
  | .vminnVr o => shVV o
  | .vminnSc o => shVX o
  | .vmaxnVr o => shVV o
  | .vmaxnSc o => shVX o
  | .vandVr o => shVV o
  | .vandSc o => shVX o
  | .vandIm o => shVI o
  | .vorVr o => shVV o
  | .vorSc o => shVX o
  | .vorIm o => shVI o
  | .vxorVr o => shVV o
  | .vxorSc o => shVX o
  | .vxorIm o => shVI o
  | .vsllVr o => shVV o
  | .vsllSc o => shVX o
  | .vsllIm o => shVI o
  | .vsrlVr o => shVV o
  | .vsrlSc o => shVX o
  | .vsrlIm o => shVI o
  | .vsraVr o => shVV o
  | .vsraSc o => shVX o
  | .vsraIm o => shVI o
  | .vshrnVr o => { shVV o with wide := true, strict := true, srcs := [(o.va.toNat, 2), (o.vb.toNat, 1)] }
  | .vshrnIm o => { shVI o with wide := true, strict := true, srcs := [(o.va.toNat, 2)] }
  | .vsarnVr o => { shVV o with wide := true, strict := true, srcs := [(o.va.toNat, 2), (o.vb.toNat, 1)] }
  | .vsarnIm o => { shVI o with wide := true, strict := true, srcs := [(o.va.toNat, 2)] }
  | .vwadd o => { shVV o with wide := true, strict := true, dst := some (o.vd.toNat, 2) }
  | .vwaddn o => { shVV o with wide := true, strict := true, dst := some (o.vd.toNat, 2) }
  | .vwmul o => { shVV o with wide := true, strict := true, dst := some (o.vd.toNat, 2) }
  | .vwmuln o => { shVV o with wide := true, strict := true, dst := some (o.vd.toNat, 2) }
  | .vsaddVr o => shVV o
  | .vsaddSc o => shVX o
  | .vsaddnVr o => shVV o
  | .vsaddnSc o => shVX o
  | .vssubVr o => shVV o
  | .vssubSc o => shVX o
  | .vssubnVr o => shVV o
  | .vssubnSc o => shVX o
  | .vclip o => { shVSH o with wide := true, strict := true, srcs := [(o.va.toNat, 2)] }
  | .vclipn o => { shVSH o with wide := true, strict := true, srcs := [(o.va.toNat, 2)] }
  | .vfaddVr o => { shVV o with sews := [16, 32] }
  | .vfaddSc o => { shVX o with sews := [16, 32] }
  | .vfsubVr o => { shVV o with sews := [16, 32] }
  | .vfsubSc o => { shVX o with sews := [16, 32] }
  | .vfmulVr o => { shVV o with sews := [16, 32] }
  | .vfmulSc o => { shVX o with sews := [16, 32] }
  | .vfmaccVr o => { shVV o with sews := [16, 32] }
  | .vfmaccSc o => { shVX o with sews := [16, 32] }
  | .vfdivVr o => { shVV o with sews := [16, 32] }
  | .vfdivSc o => { shVX o with sews := [16, 32] }
  | .vfminVr o => { shVV o with sews := [16, 32] }
  | .vfminSc o => { shVX o with sews := [16, 32] }
  | .vfmaxVr o => { shVV o with sews := [16, 32] }
  | .vfmaxSc o => { shVX o with sews := [16, 32] }
  | .vfcpsVr o => { shVV o with sews := [16, 32] }
  | .vfcpsSc o => { shVX o with sews := [16, 32] }
  | .vfcpsnVr o => { shVV o with sews := [16, 32] }
  | .vfcpsnSc o => { shVX o with sews := [16, 32] }
  | .vfcpsxVr o => { shVV o with sews := [16, 32] }
  | .vfcpsxSc o => { shVX o with sews := [16, 32] }
  | .vfsqrt o => { shVU o with sews := [16, 32] }
  | .vfexp2 o => { shVU o with sews := [16, 32] }
  | .vfrcp o => { shVU o with sews := [16, 32] }
  | .vfrsq o => { shVU o with sews := [16, 32] }
  | .vflog2 o => { shVU o with sews := [16, 32] }
  | .vfcvtFI o => { shVU o with sews := [16, 32] }
  | .vfcvtFN o => { shVU o with sews := [16, 32] }
  | .vfcvtIF o => { shVU o with sews := [16, 32] }
  | .vfcvtNF o => { shVU o with sews := [16, 32] }
  | .vfcvtBfF o => { shVU o with wide := true, strict := true, srcs := [(o.va.toNat, 2)], sews := [16] }
  | .vfcvtFBf o => { shVU o with wide := true, strict := true, dst := some (o.vd.toNat, 2), sews := [16] }
  | .vfcvtDxb8F o => { shVGAP o with strict := true, sews := [32] }
  | .vfcvtDxb4F o => { shVGAP o with strict := true, sews := [32] }
  | .vfcvtFDxb8 o => { shVU o with strict := true, sews := [32] }
  | .vfcvtFDxb4 o => { shVU o with strict := true, sews := [32] }
  | .vceqVr o => shCV o
  | .vceqSc o => shCX o
  | .vcneVr o => shCV o
  | .vcneSc o => shCX o
  | .vcltVr o => shCV o
  | .vcltSc o => shCX o
  | .vcltnVr o => shCV o
  | .vcltnSc o => shCX o
  | .vcleVr o => shCV o
  | .vcleSc o => shCX o
  | .vclenVr o => shCV o
  | .vclenSc o => shCX o
  | .vcgtSc o => shCX o
  | .vcgtnSc o => shCX o
  | .vfceqVr o => { shCV o with sews := [16, 32] }
  | .vfceqSc o => { shCX o with sews := [16, 32] }
  | .vfcneVr o => { shCV o with sews := [16, 32] }
  | .vfcneSc o => { shCX o with sews := [16, 32] }
  | .vfcltVr o => { shCV o with sews := [16, 32] }
  | .vfcltSc o => { shCX o with sews := [16, 32] }
  | .vfcleVr o => { shCV o with sews := [16, 32] }
  | .vfcleSc o => { shCX o with sews := [16, 32] }
  | .kand o => { kd := some o.kd.toNat }
  | .kor o => { kd := some o.kd.toNat }
  | .kxor o => { kd := some o.kd.toNat }
  | .knot o => { kd := some o.kd.toNat }
  | .kffs o => { xd := some o.xd.toNat }
  | .kpopc o => { xd := some o.xd.toNat }
  | .kmvx o => { xd := some o.xd.toNat }
  | .vmergeVr o => { shVV o with needMask := some o.m.km.toNat }
  | .vmergeSc o => { shVX o with needMask := some o.m.km.toNat }
  | .vmergeIm o => { shVI o with needMask := some o.m.km.toNat }
  | .vsumr o => { shVV o with red := true, dst := some (o.vd.toNat, 0), srcs := [(o.va.toNat, 1), (o.vb.toNat, 0)] }
  | .vmaxr o => { shVV o with red := true, dst := some (o.vd.toNat, 0), srcs := [(o.va.toNat, 1), (o.vb.toNat, 0)] }
  | .vmaxnr o => { shVV o with red := true, dst := some (o.vd.toNat, 0), srcs := [(o.va.toNat, 1), (o.vb.toNat, 0)] }
  | .vminr o => { shVV o with red := true, dst := some (o.vd.toNat, 0), srcs := [(o.va.toNat, 1), (o.vb.toNat, 0)] }
  | .vminnr o => { shVV o with red := true, dst := some (o.vd.toNat, 0), srcs := [(o.va.toNat, 1), (o.vb.toNat, 0)] }
  | .vfsumr o => { shVV o with red := true, dst := some (o.vd.toNat, 0), srcs := [(o.va.toNat, 1), (o.vb.toNat, 0)], sews := [16, 32] }
  | .vfmaxr o => { shVV o with red := true, dst := some (o.vd.toNat, 0), srcs := [(o.va.toNat, 1), (o.vb.toNat, 0)], sews := [16, 32] }
  | .vfminr o => { shVV o with red := true, dst := some (o.vd.toNat, 0), srcs := [(o.va.toNat, 1), (o.vb.toNat, 0)], sews := [16, 32] }
  | .vslideupSc o => { shVX o with strict := true }
  | .vslideupIm o => { shVI o with strict := true }
  | .vslidednSc o => { shVX o with strict := true }
  | .vslidednIm o => { shVI o with strict := true }
  | .vslide1up o => { shVX o with strict := true }
  | .vrgather o => { shVV o with strict := true }
  | .vcompress o => { shVU o with strict := true, needMask := some o.m.km.toNat }
  | .vreshp o => { shRSH o with strict := true }
  | .vidx o => shMVI o
  | .vmvVr o => shVU o
  | .vmvSc o => shMVX o
  | .vmvIm o => shMVI o
  | .vmvxs o => { xd := some o.xd.toNat, srcs := [(o.va.toNat, 0)] }
  | .vmvsx o => { dst := some (o.vd.toNat, 0), xa := some (o.xa.toNat, o.fa) }
  | .vld o => { xa := some (o.xa.toNat, o.fa), dst := some (o.vd.toNat, 1) }
  | .vlds o => { xa := some (o.xa.toNat, o.fa), xb := some (o.xb.toNat, o.fb), dst := some (o.vd.toNat, 1) }
  | .vldx o => { xa := some (o.xa.toNat, o.fa), dst := some (o.vd.toNat, 1), srcs := [(o.vb.toNat, 1)], strict := true }
  | .vldff o => { xa := some (o.xa.toNat, o.fa), dst := some (o.vd.toNat, 1) }
  | .vldseg o => { xa := some (o.xa.toNat, o.fa), xb := some (o.xb.toNat, o.fb), fields := o.nf.toNat + 1, dst := some (o.vd.toNat, 1) }
  | .vst o => { xa := some (o.xa.toNat, o.fa), srcs := [(o.vd.toNat, 1)] }
  | .vsts o => { xa := some (o.xa.toNat, o.fa), xb := some (o.xb.toNat, o.fb), srcs := [(o.vd.toNat, 1)] }
  | .vstx o => { xa := some (o.xa.toNat, o.fa), srcs := [(o.vd.toNat, 1), (o.vb.toNat, 1)] }
  | .vstseg o => { xa := some (o.xa.toNat, o.fa), xb := some (o.xb.toNat, o.fb), fields := o.nf.toNat + 1, srcs := [(o.vd.toNat, 1)] }
  | .vaadd o => { xa := some (o.xa.toNat, o.fa), dst := some (o.vd.toNat, 1), srcs := [(o.vb.toNat, 1), (o.vc.toNat, 1)], strict := true, sews := [32, 64], gather := true }
  | .vaand o => { xa := some (o.xa.toNat, o.fa), dst := some (o.vd.toNat, 1), srcs := [(o.vb.toNat, 1), (o.vc.toNat, 1)], strict := true, sews := [32, 64], gather := true }
  | .vaor o => { xa := some (o.xa.toNat, o.fa), dst := some (o.vd.toNat, 1), srcs := [(o.vb.toNat, 1), (o.vc.toNat, 1)], strict := true, sews := [32, 64], gather := true }
  | .vaxor o => { xa := some (o.xa.toNat, o.fa), dst := some (o.vd.toNat, 1), srcs := [(o.vb.toNat, 1), (o.vc.toNat, 1)], strict := true, sews := [32, 64], gather := true }
  | .vamin o => { xa := some (o.xa.toNat, o.fa), dst := some (o.vd.toNat, 1), srcs := [(o.vb.toNat, 1), (o.vc.toNat, 1)], strict := true, sews := [32, 64], gather := true }
  | .vamax o => { xa := some (o.xa.toNat, o.fa), dst := some (o.vd.toNat, 1), srcs := [(o.vb.toNat, 1), (o.vc.toNat, 1)], strict := true, sews := [32, 64], gather := true }
  | .vaswap o => { xa := some (o.xa.toNat, o.fa), dst := some (o.vd.toNat, 1), srcs := [(o.vb.toNat, 1), (o.vc.toNat, 1)], strict := true, sews := [32, 64], gather := true }
  | .vacas o => { xa := some (o.xa.toNat, o.fa), dst := some (o.vd.toNat, 1), srcs := [(o.vb.toNat, 1), (o.vc.toNat, 1)], strict := true, sews := [32, 64], gather := true }
  | .mprec xa fa => { xa := some (xa.toNat, fa), matrix := true }
  | .mclaim => { matrix := true }
  | .mrel => { matrix := true }
  | .mldb o => { xa := some (o.xa.toNat, o.fa), matrix := true }
  | .mzero => { matrix := true }
  | .mma o => { srcs := [(o.va.toNat, 1)], matrix := true }
  | .mmaf o => { srcs := [(o.va.toNat, 1)], matrix := true }
  | .mmat o => { srcs := [(o.va.toNat, 1)], matrix := true }
  | .mscale o => { srcs := [(o.va.toNat, 1), (o.vb.toNat, 1)], matrix := true }
  | .mcvt o => { dst := some (o.vd.toNat, 1), matrix := true }
  | _ => {}

/-! ### The checks at VIQ entry, stages 2 to 5 of R363 -/

/-- Registers of an operand: first register and how many. -/
def operandRegs (g : Nat) (p : Nat × Nat) : Nat × Nat := (p.1, if p.2 = 0 then 1 else p.2 * g)

/-- Alignment of an operand (R195). -/
def aligned (g : Nat) (p : Nat × Nat) : Bool := p.1 % (if p.2 = 2 then 2 * g else g) == 0

/-- Whether two operands overlap, and whether they coincide (R198). -/
def overlaps (g : Nat) (p q : Nat × Nat) : Bool :=
  let a := operandRegs g p
  let b := operandRegs g q
  a.1 < b.1 + b.2 && b.1 < a.1 + a.2
def coincide (g : Nat) (p q : Nat × Nat) : Bool := operandRegs g p == operandRegs g q

/-- Whether a word breaks the overlap rules (R198). -/
def overlapBad (g : Nat) (h : VShape) : Bool :=
  (match h.dst with
    | none => false
    | some d => !h.matrix && h.srcs.any (fun q => overlaps g d q && (h.strict || !coincide g d q))) ||
  (h.red && g > 1 && (match h.srcs with | [a, b] => overlaps g a b | _ => false))

/-- Whether a word fails a check of stages 2 to 5 of R363, or the matrix entry checks of R244 that do not need the claim. -/
def entryIllegal (s : State) (n : Nat) (i : Instr) : Bool :=
  let v := getVlc s n
  let h := shapeOf i
  let g := grpN (fld v.vcfg.toNat 2 2)
  let sew := sewBits (fld v.vcfg.toNat 0 2)
  (h.dst.toList ++ h.srcs).any (fun p => !aligned g p) ||
  (h.wide && (sew == 64 || g == 8)) ||
  (!h.sews.isEmpty && !h.sews.contains sew) ||
  overlapBad g h ||
  h.kd == some 0 ||
  h.needMask == some 0 ||
  (h.fields > 1 && (h.dst.toList ++ h.srcs).any (fun p => p.1 + h.fields * g > 32)) ||
  (h.gather && v.vlGrant > 64) ||
  (i == .mclaim && v.msavep == 0 && !v.resident)

/-! ### Occupancy of the vector unit (R235, R302) -/

/-- Cycles for which an instruction occupies its unit for each element group (R235). -/
def groupRate (i : Instr) (sew : Nat) : Nat :=
  match i with
  | .vmulVr _ | .vmulSc _ | .vmulhVr _ | .vmulhSc _ | .vmulhnVr _ | .vmulhnSc _ | .vmaccVr _ | .vmaccSc _ | .vnmsacVr _ | .vnmsacSc _ | .vwmul _ | .vwmuln _ =>
    if sew = 64 then 2 else 1
  | .vdivVr _ | .vdivSc _ | .vdivnVr _ | .vdivnSc _ | .vremVr _ | .vremSc _ | .vremnVr _ | .vremnSc _ => sew / 2
  | .vfdivVr _ | .vfdivSc _ | .vfsqrt _ => 8
  | .vfexp2 _ | .vfrcp _ | .vfrsq _ | .vflog2 _ => 2
  | _ => 1

/-- Cycles for which a vector word occupies its unit over `m` elements: groups of n × 64 bits at its rate; for strided, indexed, segment and gather-atomic
accesses n elements a cycle; one for a word of the read queue (R235). An access of any vault in unit stride counts as one of the issuing VS, each field of a
segment as an element, elements under a mask of 0 like the others, and `vmvsx` as a move of one element; a word that starts at ESTART, or ends at a fault, is
charged for the elements between (DESIGN CHOICE, log 50). -/
def wordCycles (s : State) (e : VEntry) (m : Nat) : Nat :=
  let n := lanesOf (getVault s (vaultOf e.vlc)).lpr (coreOf e.vlc % 2)
  let h := shapeOf e.instr
  let w := sewBits e.sew * (if h.wide then 2 else 1)
  let groups := cdiv (m * w) (max 1 (n * 64)) * groupRate e.instr (sewBits e.sew)
  if h.xd.isSome then 1
  else match (memWordOf e.instr).map MemWord.mode with
    | some .unit => groups
    | some (.segment nf _ _ _) => cdiv (m * nf) (max 1 n)
    | some _ => cdiv m (max 1 n)
    | none => match e.instr with
      | .vmvsx _ => min m 1
      | _ => groups

end Sys2Proof.Machine
end

