-- ==== Sys2Proof/Machine/Vector.lean ====
section
/-! DEFINITION. How a vector word enters the VIQ and runs: entry, element-wise words, words that take effect whole, empty elements, faults and
the recheck queue (R63, R158, R159, R196, R197, R200 to R204, R348, R356, R363, R371). -/
namespace Sys2Proof.Machine

/-! ### Faults of vector words -/

/-- A class V fault of a word (R345, R347, R348): `drop` when the word is removed from the held words. -/
def vecFault (e : VEntry) (f : FRec) (drop : Bool) (s : State) : State :=
  let pos := (getCore s (coreOf e.vlc)).viq.findIdx (fun x => x.id == e.id)
  let f' := { f with cls := 1, vec := true, slot := e.slot, origin := e.blk, vqpos := pos }
  holdWords e.vlc (if drop then [] else [{ e with start := f.estart }]) e.id f'
    (updCore (coreOf e.vlc) (fun c => { c with viq := c.viq.filter (fun x => x.id != e.id) }) s)

/-- Takes a word out of the VIQ. -/
def dropWord (e : VEntry) (s : State) : State :=
  updCore (coreOf e.vlc) (fun c => { c with viq := c.viq.filter (fun x => x.id != e.id) }) s

/-! ### Entry (R158, R363) -/

/-- What reading an x register gives a vector word. -/
inductive XRead where
  | val (w : Word)
  | wait
  | trap (r : Nat)
  deriving DecidableEq, Repr

/-- Reads an x register under its FE bit (R154, R158); a word that names none reads 0. -/
def readX (v : Vlc) : Option (Nat × Bool) → XRead
  | none => .val 0
  | some (r, fe) => if v.isEmpty r then (if fe then .trap r else .wait) else .val (v.rx r)

/-- Reads the x registers of a word, VA first. -/
def readXs (v : Vlc) (h : VShape) : Except XRead (Word × Word) :=
  match readX v h.xa with
  | .val a =>
    match readX v h.xb with
    | .val b => .ok (a, b)
    | r => .error r
  | .wait => (match readX v h.xb with | .trap r => .error (.trap r) | _ => .error .wait)
  | r => .error r

/-- A word enters the VIQ with the x values it read (R158); a read-queue word marks its destination empty (R220). -/
def enterWord (e : VEntry) (s : State) : State :=
  let s1 := updVlc e.vlc (fun v => match (shapeOf e.instr).xd with | some d => v.drainX d | none => v) s
  updCore (coreOf e.vlc) (fun c => { c with viq := c.viq ++ [e] }) s1

/-- The entry record of a word of VLC `n` at a block and slot. -/
def newEntry (s : State) (n : Nat) (i : Instr) (w blk slot : Nat) : VEntry :=
  let v := getVlc s n
  {
    id := s.nextId, vlc := n, instr := i, word := w, blk := blk, slot := slot, vl := v.vl, sew := fld v.vcfg.toNat 0 2,
    grp := fld v.vcfg.toNat 2 2, rm := v.rmode.toNat, cls := v.ocdef.toNat }

/-- The feed goes on to the next slot, or ends after a `vstop` or slot 63 (R159). -/
def nextSlot (n : Nat) (last : Bool) (s : State) : State :=
  updVlc n (fun v => { v with feed := match v.feed with
    | some (b, k) => if last ∨ k ≥ 63 then none else some (b, k + 1)
    | none => none }) s

/-- Words of VLC `n` that the VIQ and the held words hold together; 32 is the most (R63, R355). -/
def wordsIn (s : State) (n : Nat) : Nat := (getCore s (coreOf n)).viq.length + (getVlc s n).held.length

/-- Whether the feed takes no word now: 32 are held, or a held word has resumed and not yet entered execution (R63, R348). -/
def feedFull (s : State) (n : Nat) : Bool := decide (wordsIn s n ≥ 32) || (viqOf s n).any (fun e => e.resumed)

/-- A word behind a class V fault joins the held words as it enters, with the x values it read (R158, R348). -/
def holdEntry (e : VEntry) (s : State) : State :=
  updVlc e.vlc (fun v =>
    let v1 := if e.reread then v else match (shapeOf e.instr).xd with | some d => v.drainX d | none => v
    { v1 with held := v1.held ++ [e] }) s

/-- A word that has passed its entry checks goes to the VIQ; behind a class V fault it is held. -/
def placeEntry (e : VEntry) (s : State) : State := if (getVlc s e.vlc).vfaults.isEmpty then enterWord e s else holdEntry e s

/-- Whether a feed behind a class V fault cannot go on before the trap: 32 words are held, or its next word waits for an x register that a held word is to
fill. -/
def feedStuck (s : State) (n : Nat) (h : VShape) : Bool :=
  let v := getVlc s n
  let needs (r : Nat) : Bool := v.isPend r && v.held.any (fun e => (shapeOf e.instr).xd == some r)
  !v.vfaults.isEmpty && (decide (wordsIn s n ≥ 32) || (match h.xa with | some p => needs p.1 | none => false) ||
    (match h.xb with | some p => needs p.1 | none => false) || (match h.xd with | some d => needs d | none => false))

/-- The next word of a block does not enter now; behind a class V fault the trap may come first. -/
def feedWaits (n : Nat) (h : VShape) (s : State) : State := if feedStuck s n h then updVlc n (fun v => { v with feedStop := true }) s else s

/-- The word at the vector-fetch position of VLC `n` tries to enter: `i` is its decoding, none for a word that breaks stage 1 (R363). Behind a class V
fault that waits, a word that reads an empty register under FE is held and reads its registers again when it resumes. -/
def feedWord (n : Nat) (i : Option Instr) (w : Nat) (s : State) : State :=
  let v := getVlc s n
  match v.feed with
  | none => s
  | some (blk, slot) =>
    if feedFull s n then feedWaits n {} s
    else
      match i with
      | none => bump (nextSlot n false (vecFault (newEntry s n .vstop w blk slot) { code := cILLEGAL } true s))
      | some i =>
        let e := newEntry s n i w blk slot
        if entryIllegal s n i || (slot == 63 && i != .vstop) then bump (nextSlot n false (vecFault e { code := cILLEGAL } true s))
        else
          match readXs v (shapeOf i) with
          | .error (.trap _) =>
            bump (nextSlot n (i == .vstop) (if v.vfaults.isEmpty then vecFault { e with reread := true } { code := cFE_EMPTY } false s
              else holdEntry { e with reread := true } s))
          | .error _ => feedWaits n (shapeOf i) s
          | .ok (a, b) =>
            if (match (shapeOf i).xd with | some d => v.isPend d | none => false) then feedWaits n (shapeOf i) s
            else if (match i with | .mprec _ _ => precBad a.toNat | _ => false) then
              bump (nextSlot n false (vecFault e { code := cILLEGAL } true s))
            else bump (nextSlot n (i == .vstop) (placeEntry { e with xa := a, xb := b } s))

/-! ### Execution -/

/-- The oldest unexecuted word of the core of VLC `cur`. -/
def headWord (s : State) : Option VEntry := (getCore s (coreOf s.cur)).viq.head?

/-- The recheck queue of the vault of a word. -/
def rqLen (s : State) (n : Nat) : Nat := (getVault s (vaultOf n)).rq.length

/-- Whether word `e` may execute: its VLC has an instance, no rewind or refetch holds its words back, and no class V fault of an older word waits. -/
def wordsRun (s : State) (e : VEntry) : Bool :=
  let v := getVlc s e.vlc
  (v.status == .running || v.status == .draining || v.status == .restoring) && v.clearOf e.id && !v.rewind && v.refetch.isNone &&
    !(rqOf s e.vlc).any (fun r => r.fault.isSome)

/-- The breakpoint register that matches a word (R356). -/
def vecBreak (v : Vlc) (e : VEntry) : Option Nat :=
  if e.bskip then none
  else firstOf (upto 4) (fun k =>
    let w := (tget 0 v.bpa k).toNat
    bitN w 0 && bitN w 1 && fld w 2 54 == e.blk / 4 && fld w 56 6 == e.slot)

/-- Entry checks that a word makes when it resumes, if it could not make them at entry: its x registers are read, its destination is marked empty, and a
refused PREC is ILLEGAL (R158, R363). -/
def resumeEntry (e : VEntry) (k : VEntry → State → State) (s : State) : State :=
  if !e.reread then k e s
  else match readXs (getVlc s e.vlc) (shapeOf e.instr) with
    | .error (.trap _) => vecFault e { code := cFE_EMPTY } false s
    | .error _ => s
    | .ok (a, b) =>
      if (match e.instr with | .mprec _ _ => precBad a.toNat | _ => false) then vecFault e { code := cILLEGAL } true s
      else k { e with xa := a, xb := b, reread := false }
        (updVlc e.vlc (fun v => match (shapeOf e.instr).xd with | some d => v.drainX d | none => v) s)

/-- Runs `k` on the oldest word of the core when it may execute: its place in the recheck queue must be free, entry checks that were put off come first, and
then a breakpoint stops it (R356, R363, R371). -/
def withWord (needRq : Bool) (k : VEntry → State → State) (s : State) : State :=
  match headWord s with
  | none => s
  | some e =>
    let s := { s with cur := e.vlc }
    if !wordsRun s e || (needRq && rqLen s e.vlc ≥ 16) then s
    else resumeEntry e (fun e s =>
      match vecBreak (getVlc s e.vlc) e with
      | some b => vecFault { e with bskip := true } { code := cBREAK, bpr := true, aux := b } false s
      | none => k e s) s

/-- The element at which a word starts: ESTART, which is 0 in normal execution, or where a word that took effect in part goes on (R203). -/
def firstEl (v : Vlc) (e : VEntry) : Nat := if v.estart.toNat ≠ 0 then v.estart.toNat else e.start

/-- What a recheck entry keeps of the state before its word (R371). -/
def reEntry (s : State) (e : VEntry) (flags : Nat) : REntry :=
  let v := getVlc s e.vlc
  let sl := (getVault s (vaultOf e.vlc)).slice
  {
    core := coreOf e.vlc, e := { e with start := firstEl v e }, flags := flags ||| e.flags, els := upto e.vl, undoV := v.v, undoK := v.k, undoE := v.vempty, undoVl := v.vl,
    undoC := if sl.holder = some e.vlc then sl.c else [], undoB := if sl.holder = some e.vlc then sl.b else [] }

/-- The word has executed: it leaves the VIQ and enters the recheck queue with its first result; ESTART becomes 0, and `cost` units are charged
(R203, R302, R371). -/
def wordDone (r : REntry) (cost : Nat) (f : Vlc → Vlc) (s : State) : State :=
  let n := r.e.vlc
  let w := f (getVlc s n)
  updVault (vaultOf n) (fun v => { v with rq := v.rq ++ [{ r with newV := w.v, newK := w.k, newVl := w.vl }] })
    (dropWord r.e (updVlc n (fun v => { f v with estart := 0, cost := v.cost + cost }) s))

/-! ### What a word reads (R204) -/

/-- A vector source: register, element width, whether reading it empty traps, and the element read for element `i`. -/
structure VRead where
  r : Nat
  w : Nat
  fe : Bool := false
  ix : Nat → Option Nat := some

/-- Element read for element `i` under a modifier (R156): with a unit of more than one element, the element within the unit. -/
def modIx (sew : Nat) (m : BitVec 3) (i : Nat) : Option Nat := some (if m.getLsbD 2 then i % max 1 (repUnit sew m / sew) else i)

/-- The first element of `l` that finds a source empty, and whether the read traps. -/
def firstEmpty (v : Vlc) (vlen : Nat) (l : List Nat) (rs : List VRead) : Option (Nat × Bool) :=
  if v.vempty.isEmpty then none
  else l.findSome? (fun i =>
    let hit := rs.filter (fun r => match r.ix i with | some j => elemEmpty v vlen r.r r.w j | none => false)
    if hit.isEmpty then none else some (i, hit.any (fun r => r.fe)))

/-! ### Element-wise words (R196, R197, R203) -/

/-- The setting of a word: its context, its lanes and the widths of its place. -/
structure VCtx where
  v : Vlc
  e : VEntry
  vlen : Nat
  sew : Nat
  g : Nat

def vctx (s : State) (e : VEntry) : VCtx :=
  { v := getVlc s e.vlc, e := e, vlen := vlenOf s e.vlc, sew := sewBits e.sew, g := grpN e.grp }

/-- The bit string of a source group of `k` registers. -/
def VCtx.str (c : VCtx) (r k : Nat) : Nat := groupN c.v c.vlen r k

/-- An element-wise operation: destination register and its group size, element width, whether the destination is a mask register, mask, reads, and
the value and flags of element `i`. -/
structure ElOp where
  d : Nat
  k : Nat
  w : Nat
  toMask : Bool := false
  m : VMask
  reads : List VRead
  fn : Nat → FRes

/-- Applies elements `lo` to `hi − 1` of an operation: the context after, and the flags raised. -/
def applyEl (c : VCtx) (o : ElOp) (lo hi : Nat) : Vlc × Nat :=
  let on := (upto hi).filter (fun i => lo ≤ i && active c.v o.m i)
  let res := on.map (fun i => (i, o.fn i))
  let fl := res.foldl (fun f r => f ||| r.2.2) 0
  if o.toMask then
    let old := (tget 0 c.v.k o.d).toNat
    let new := res.foldl (fun a r => putFld a r.1 1 r.2.1) old
    ({ c.v with k := tset 0 c.v.k o.d (BitVec.ofNat 3072 new) }, fl)
  else
    let old := c.str o.d o.k
    let new := res.foldl (fun a r => putFld a (o.w * r.1) o.w r.2.1) old
    (if on.isEmpty then c.v else setGroupN c.vlen o.d o.k new c.v, fl)

/-- An element-wise word executes (R196, R203, R204): it starts at ESTART; an empty source element makes it wait, or raises FE_EMPTY once the
elements below have taken effect and been rechecked, and these alone are charged (log 50); a destination element whose result is still to come makes it wait. -/
def runEl (mk : VCtx → ElOp) (s : State) : State :=
  withWord true (fun e s =>
    let c := vctx s e
    let o := mk c
    let lo := firstEl c.v e
    let on := (upto e.vl).filter (fun i => lo ≤ i && active c.v o.m i)
    let dst : List VRead := if o.toMask then [] else [{ r := o.d, w := o.w }]
    match firstEmpty c.v c.vlen on (o.reads ++ dst) with
    | some (i, true) =>
      let r := applyEl c o lo i
      wordDone { reEntry s e r.2 with els := on.filter (· < i), fault := some { code := cFE_EMPTY, estart := i } } (wordCycles s e (i - lo)) (fun _ => r.1) s
    | some (_, false) => s
    | none =>
      let r := applyEl c o lo e.vl
      wordDone { reEntry s e r.2 with els := on } (wordCycles s e (e.vl - lo)) (fun _ => r.1) s) s

/-! ### Words that take effect whole -/

/-- A word that takes effect whole: its reads with the elements they cover, and its effect on the context. -/
structure WOp where
  reads : List (VRead × List Nat) := []
  eff : Vlc → Vlc × Nat

/-- A whole word executes: an empty source makes it wait or raises FE_EMPTY with no effect (R203, R204). -/
def runWhole (mk : VCtx → WOp) (fill : VCtx → Option (Nat × Nat)) (s : State) : State :=
  withWord true (fun e s =>
    let c := vctx s e
    let o := mk c
    let hits := o.reads.filter (fun p => (firstEmpty c.v c.vlen p.2 [p.1]).isSome)
    if hits.any (fun p => p.1.fe) then vecFault e { code := cFE_EMPTY } false s
    else if !hits.isEmpty then s
    else
      let r := o.eff c.v
      let s1 := wordDone { reEntry s e r.2 with fill := fill c } (wordCycles s e e.vl) (fun _ => r.1) s
      match fill c with
      | some (d, w) => if d = 0 then s1 else { s1 with fills := s1.fills ++ [{ vlc := e.vlc, reg := d, val := w, rq := true }] }
      | none => s1) s

/-- No read-queue result. -/
def noFill (_ : VCtx) : Option (Nat × Nat) := none

/-- `vstop`: retires with no effect (R209). R235 gives it no cycles, and it is charged none (DESIGN CHOICE, log 50). -/
def execVstop (s : State) : Result := .next (withWord false (fun e s => dropWord e s) s)

/-- `vbrk`: BREAK with its code; the word is removed and its slot is refetched at `tret` (R209, R348, R356). Like `vstop` it is charged nothing (log 50). -/
def execVbrk (code : BitVec 11) (s : State) : Result :=
  .next (withWord false (fun e s =>
    updVlc e.vlc (fun v => { v with refetch := some (e.blk, e.slot) }) (vecFault e { code := cBREAK, aux := code.toNat } true s)) s)

end Sys2Proof.Machine
end

