-- ==== Sys2Proof/Machine/VecElem.lean ====
section
/-! DEFINITION. Element-wise vector instructions: integer, floating, conversions, compares, merges and moves (R210 to R218, R221, R223, R228). -/
namespace Sys2Proof.Machine

/-! ### Operand forms (R156, R197, R199)

`f` takes the setting, the first and second operand and the old destination element, as patterns of their widths. -/

/-- What one element computes. -/
abbrev ElFn := VCtx → Nat → Nat → Nat → FRes

/-- The immediate operand (R197). -/
def immElem (sew : Nat) (imm : BitVec 18) : Nat := tr sew imm.toInt

/-- Destination of `dw` bits in `dk` registers, first source of `aw` bits in `ak` registers, second source `b` with its reads. -/
def elForm (vd va : BitVec 5) (ma : BitVec 3) (m : VMask) (fa : Bool) (dw dk aw ak : Nat) (b : Nat → Nat) (rb : List VRead) (f : ElFn) (c : VCtx) : ElOp :=
  let a := c.str va.toNat ak
  let d := c.str vd.toNat dk
  {
    d := vd.toNat, k := dk, w := dw, m := m, reads := { r := va.toNat, w := aw, fe := fa, ix := modIx aw ma } :: rb,
    fn := fun i => f c (srcElem a aw ma i) (b i) (elemN d dw i) }

/-- The second operand of a `.vr` form and its reads. -/
def vecB (c : VCtx) (vb : BitVec 5) (mb : BitVec 3) (fb : Bool) : (Nat → Nat) × List VRead :=
  let b := c.str vb.toNat c.g
  (fun i => srcElem b c.sew mb i, [{ r := vb.toNat, w := c.sew, fe := fb, ix := modIx c.sew mb }])

def elVV (o : VVop) (f : ElFn) (c : VCtx) : ElOp :=
  let b := vecB c o.vb o.mb o.fb
  elForm o.vd o.va o.ma o.m o.fa c.sew c.g c.sew c.g b.1 b.2 f c
def elVX (o : VXop) (f : ElFn) (c : VCtx) : ElOp :=
  elForm o.vd o.va o.ma o.m o.fa c.sew c.g c.sew c.g (fun _ => c.e.xb.toNat % 2 ^ c.sew) [] f c
def elVI (o : VIop) (f : ElFn) (c : VCtx) : ElOp :=
  elForm o.vd o.va o.ma o.m o.fa c.sew c.g c.sew c.g (fun _ => immElem c.sew o.imm) [] f c
def elVU (o : VUop) (f : ElFn) (c : VCtx) : ElOp := elForm o.vd o.va o.ma o.m o.fa c.sew c.g c.sew c.g (fun _ => 0) [] f c

/-- Narrowing: the first source is a double group at 2 × SEW (R199). -/
def elNV (o : VVop) (f : ElFn) (c : VCtx) : ElOp :=
  let b := vecB c o.vb o.mb o.fb
  elForm o.vd o.va o.ma o.m o.fa c.sew c.g (2 * c.sew) (2 * c.g) b.1 b.2 f c
def elNI (o : VIop) (f : ElFn) (c : VCtx) : ElOp :=
  elForm o.vd o.va o.ma o.m o.fa c.sew c.g (2 * c.sew) (2 * c.g) (fun _ => immElem c.sew o.imm) [] f c
def elNS (o : VSHop) (f : ElFn) (c : VCtx) : ElOp :=
  elForm o.vd o.va o.ma o.m o.fa c.sew c.g (2 * c.sew) (2 * c.g) (fun _ => o.sh.toNat) [] f c
def elNU (o : VUop) (f : ElFn) (c : VCtx) : ElOp := elForm o.vd o.va o.ma o.m o.fa c.sew c.g (2 * c.sew) (2 * c.g) (fun _ => 0) [] f c

/-- Widening: the destination is a double group at 2 × SEW (R199). -/
def elWV (o : VVop) (f : ElFn) (c : VCtx) : ElOp :=
  let b := vecB c o.vb o.mb o.fb
  elForm o.vd o.va o.ma o.m o.fa (2 * c.sew) (2 * c.g) c.sew c.g b.1 b.2 f c
def elWU (o : VUop) (f : ElFn) (c : VCtx) : ElOp := elForm o.vd o.va o.ma o.m o.fa (2 * c.sew) (2 * c.g) c.sew c.g (fun _ => 0) [] f c

/-- Compares write bit i of a mask register (R217). -/
def elCV (o : CVop) (f : ElFn) (c : VCtx) : ElOp :=
  let b := vecB c o.vb o.mb o.fb
  { elForm 0 o.va o.ma o.m o.fa c.sew c.g c.sew c.g b.1 b.2 f c with d := o.kd.toNat, toMask := true }
def elCX (o : CXop) (f : ElFn) (c : VCtx) : ElOp :=
  {
    elForm 0 o.va o.ma o.m o.fa c.sew c.g c.sew c.g (fun _ => c.e.xb.toNat % 2 ^ c.sew) [] f c with
    d := o.kd.toNat, toMask := true }

/-! ### Element functions -/

/-- A result truncated to SEW, with no flag. -/
def wrapE (f : Nat → Nat → Nat → Nat → Int) : ElFn := fun c a b d => (tr c.sew (f c.sew a b d), 0)

/-- A truth value, with no flag. -/
def bitE (f : Nat → Nat → Nat → Bool) : ElFn := fun c a b _ => (b2n (f c.sew a b), 0)

def vAdd : ElFn := wrapE (fun _ a b _ => (a : Int) + b)
def vSub : ElFn := wrapE (fun _ a b _ => (a : Int) - b)
def vRsub : ElFn := wrapE (fun _ a b _ => (b : Int) - a)
def vMul : ElFn := wrapE (fun _ a b _ => (a : Int) * b)
def vMulh : ElFn := wrapE (fun w a b _ => sx w a * sx w b / (2 ^ w : Nat))
def vMulhn : ElFn := wrapE (fun w a b _ => (a : Int) * b / (2 ^ w : Nat))
def vMacc : ElFn := wrapE (fun _ a b d => (d : Int) + a * b)
def vNmsac : ElFn := wrapE (fun _ a b d => (d : Int) - a * b)
def vDiv : ElFn := wrapE (fun w a b _ => divT (sx w a) (sx w b))
def vDivn : ElFn := wrapE (fun _ a b _ => divT a b)
def vRem : ElFn := wrapE (fun w a b _ => remT (sx w a) (sx w b))
def vRemn : ElFn := wrapE (fun _ a b _ => remT a b)
def vMin : ElFn := wrapE (fun w a b _ => min (sx w a) (sx w b))
def vMax : ElFn := wrapE (fun w a b _ => max (sx w a) (sx w b))
def vMinn : ElFn := wrapE (fun _ a b _ => min (a : Int) b)
def vMaxn : ElFn := wrapE (fun _ a b _ => max (a : Int) b)
def vAnd : ElFn := fun _ a b _ => (a &&& b, 0)
def vOr : ElFn := fun _ a b _ => (a ||| b, 0)
def vXor : ElFn := fun _ a b _ => (a ^^^ b, 0)
def vSll : ElFn := wrapE (fun w a b _ => ((a * 2 ^ (b % w) : Nat) : Int))
def vSrl : ElFn := wrapE (fun w a b _ => ((a / 2 ^ (b % w) : Nat) : Int))
def vSra : ElFn := wrapE (fun w a b _ => sx w a / (2 ^ (b % w) : Nat))
def vShrn : ElFn := wrapE (fun w a b _ => ((a / 2 ^ (b % (2 * w)) : Nat) : Int))
def vSarn : ElFn := wrapE (fun w a b _ => sx (2 * w) a / (2 ^ (b % (2 * w)) : Nat))

/-- A result truncated to 2 × SEW (R212). -/
def wideE (f : Nat → Nat → Nat → Int) : ElFn := fun c a b _ => (tr (2 * c.sew) (f c.sew a b), 0)
def vWadd : ElFn := wideE (fun w a b => sx w a + sx w b)
def vWaddn : ElFn := wideE (fun _ a b => (a : Int) + b)
def vWmul : ElFn := wideE (fun w a b => sx w a * sx w b)
def vWmuln : ElFn := wideE (fun _ a b => (a : Int) * b)

def vSadd : ElFn := fun c a b _ => satF (sx c.sew a + sx c.sew b) c.sew
def vSaddn : ElFn := fun c a b _ => usatF ((a : Int) + b) c.sew
def vSsub : ElFn := fun c a b _ => satF (sx c.sew a - sx c.sew b) c.sew
def vSsubn : ElFn := fun c a b _ => usatF ((a : Int) - b) c.sew
def vClip : ElFn := fun c a b _ => satF (rshr (sx (2 * c.sew) a) b c.e.rm) c.sew
def vClipn : ElFn := fun c a b _ => usatF (rshr a b c.e.rm) c.sew

def vEq : ElFn := bitE (fun _ a b => a == b)
def vNe : ElFn := bitE (fun _ a b => a != b)
def vLt : ElFn := bitE (fun w a b => sx w a < sx w b)
def vLtn : ElFn := bitE (fun _ a b => a < b)
def vLe : ElFn := bitE (fun w a b => sx w a ≤ sx w b)
def vLen : ElFn := bitE (fun _ a b => a ≤ b)
def vGt : ElFn := bitE (fun w a b => sx w a > sx w b)
def vGtn : ElFn := bitE (fun _ a b => a > b)

/-- Fraction bits of the floating format at an element width (R214). -/
def fracBits (sew : Nat) : Nat := if sew = 32 then 23 else 7

def vFadd : ElFn := fun c a b _ => fAdd (fracBits c.sew) c.e.rm a b
def vFsub : ElFn := fun c a b _ => fSub (fracBits c.sew) c.e.rm a b
def vFmul : ElFn := fun c a b _ => fMul (fracBits c.sew) c.e.rm a b
def vFmacc : ElFn := fun c a b d => fMac (fracBits c.sew) c.e.rm a b d
def vFdiv : ElFn := fun c a b _ => fDiv (fracBits c.sew) c.e.rm a b
def vFmin : ElFn := fun c a b _ => fMinMax true (fracBits c.sew) a b
def vFmax : ElFn := fun c a b _ => fMinMax false (fracBits c.sew) a b
def vFcps : ElFn := fun c a b _ => fCps 0 (fracBits c.sew) a b
def vFcpsn : ElFn := fun c a b _ => fCps 1 (fracBits c.sew) a b
def vFcpsx : ElFn := fun c a b _ => fCps 2 (fracBits c.sew) a b
def vFsqrt : ElFn := fun c a _ _ => fSqrt (fracBits c.sew) c.e.rm a
def vFexp2 : ElFn := fun c a _ _ => fExp2 (fracBits c.sew) a
def vFrcp : ElFn := fun c a _ _ => fRcp (fracBits c.sew) a
def vFrsq : ElFn := fun c a _ _ => fRsq (fracBits c.sew) a
def vFlog2 : ElFn := fun c a _ _ => fLog2 (fracBits c.sew) a
def vFofI : ElFn := fun c a _ _ => fOfInt (fracBits c.sew) c.e.rm (sx c.sew a)
def vFofN : ElFn := fun c a _ _ => fOfInt (fracBits c.sew) c.e.rm a
def vItoF : ElFn := fun c a _ _ => fToInt true c.sew (fracBits c.sew) c.e.rm a
def vNtoF : ElFn := fun c a _ _ => fToInt false c.sew (fracBits c.sew) c.e.rm a
def vNarrow : ElFn := fun c a _ _ => fNarrow c.e.rm a
def vWiden : ElFn := fun _ a _ _ => fWiden a

/-- A floating compare (R218). -/
def vFcmp (k : Nat) : ElFn := fun c a b _ => let r := fCmp k (fracBits c.sew) a b; (b2n r.1, r.2)

/-! ### The instructions -/

/-- `vadd`: element-wise add, vector operand (R210). -/
def execVaddVr (o : VVop) (s : State) : Result := .next (runEl (elVV o vAdd) s)

/-- `vadd`: element-wise add, scalar operand (R210). -/
def execVaddSc (o : VXop) (s : State) : Result := .next (runEl (elVX o vAdd) s)

/-- `vadd`: element-wise add, immediate operand (R210). -/
def execVaddIm (o : VIop) (s : State) : Result := .next (runEl (elVI o vAdd) s)

/-- `vsub`: element-wise subtract, vector operand (R210). -/
def execVsubVr (o : VVop) (s : State) : Result := .next (runEl (elVV o vSub) s)

/-- `vsub`: element-wise subtract, scalar operand (R210). -/
def execVsubSc (o : VXop) (s : State) : Result := .next (runEl (elVX o vSub) s)

/-- `vrsub`: reverse subtract, scalar operand (R210). -/
def execVrsubSc (o : VXop) (s : State) : Result := .next (runEl (elVX o vRsub) s)

/-- `vrsub`: reverse subtract, immediate operand (R210). -/
def execVrsubIm (o : VIop) (s : State) : Result := .next (runEl (elVI o vRsub) s)

/-- `vmul`: element-wise multiply, vector operand (R210). -/
def execVmulVr (o : VVop) (s : State) : Result := .next (runEl (elVV o vMul) s)

/-- `vmul`: element-wise multiply, scalar operand (R210). -/
def execVmulSc (o : VXop) (s : State) : Result := .next (runEl (elVX o vMul) s)

/-- `vmulh`: signed high multiply, vector operand (R210). -/
def execVmulhVr (o : VVop) (s : State) : Result := .next (runEl (elVV o vMulh) s)

/-- `vmulh`: signed high multiply, scalar operand (R210). -/
def execVmulhSc (o : VXop) (s : State) : Result := .next (runEl (elVX o vMulh) s)

/-- `vmulhn`: unsigned high multiply, vector operand (R210). -/
def execVmulhnVr (o : VVop) (s : State) : Result := .next (runEl (elVV o vMulhn) s)

/-- `vmulhn`: unsigned high multiply, scalar operand (R210). -/
def execVmulhnSc (o : VXop) (s : State) : Result := .next (runEl (elVX o vMulhn) s)

/-- `vmacc`: multiply-accumulate, vector operand (R210). -/
def execVmaccVr (o : VVop) (s : State) : Result := .next (runEl (elVV o vMacc) s)

/-- `vmacc`: multiply-accumulate, scalar operand (R210). -/
def execVmaccSc (o : VXop) (s : State) : Result := .next (runEl (elVX o vMacc) s)

/-- `vnmsac`: multiply-subtract from destination, vector operand (R210). -/
def execVnmsacVr (o : VVop) (s : State) : Result := .next (runEl (elVV o vNmsac) s)

/-- `vnmsac`: multiply-subtract from destination, scalar operand (R210). -/
def execVnmsacSc (o : VXop) (s : State) : Result := .next (runEl (elVX o vNmsac) s)

/-- `vdiv`: signed divide, vector operand (R210). -/
def execVdivVr (o : VVop) (s : State) : Result := .next (runEl (elVV o vDiv) s)

/-- `vdiv`: signed divide, scalar operand (R210). -/
def execVdivSc (o : VXop) (s : State) : Result := .next (runEl (elVX o vDiv) s)

/-- `vdivn`: unsigned divide, vector operand (R210). -/
def execVdivnVr (o : VVop) (s : State) : Result := .next (runEl (elVV o vDivn) s)

/-- `vdivn`: unsigned divide, scalar operand (R210). -/
def execVdivnSc (o : VXop) (s : State) : Result := .next (runEl (elVX o vDivn) s)

/-- `vrem`: signed remainder, vector operand (R210). -/
def execVremVr (o : VVop) (s : State) : Result := .next (runEl (elVV o vRem) s)

/-- `vrem`: signed remainder, scalar operand (R210). -/
def execVremSc (o : VXop) (s : State) : Result := .next (runEl (elVX o vRem) s)

/-- `vremn`: unsigned remainder, vector operand (R210). -/
def execVremnVr (o : VVop) (s : State) : Result := .next (runEl (elVV o vRemn) s)

/-- `vremn`: unsigned remainder, scalar operand (R210). -/
def execVremnSc (o : VXop) (s : State) : Result := .next (runEl (elVX o vRemn) s)

/-- `vmin`: signed minimum, vector operand (R210). -/
def execVminVr (o : VVop) (s : State) : Result := .next (runEl (elVV o vMin) s)

/-- `vmin`: signed minimum, scalar operand (R210). -/
def execVminSc (o : VXop) (s : State) : Result := .next (runEl (elVX o vMin) s)

/-- `vmax`: signed maximum, vector operand (R210). -/
def execVmaxVr (o : VVop) (s : State) : Result := .next (runEl (elVV o vMax) s)

/-- `vmax`: signed maximum, scalar operand (R210). -/
def execVmaxSc (o : VXop) (s : State) : Result := .next (runEl (elVX o vMax) s)

/-- `vminn`: unsigned minimum, vector operand (R210). -/
def execVminnVr (o : VVop) (s : State) : Result := .next (runEl (elVV o vMinn) s)

/-- `vminn`: unsigned minimum, scalar operand (R210). -/
def execVminnSc (o : VXop) (s : State) : Result := .next (runEl (elVX o vMinn) s)

/-- `vmaxn`: unsigned maximum, vector operand (R210). -/
def execVmaxnVr (o : VVop) (s : State) : Result := .next (runEl (elVV o vMaxn) s)

/-- `vmaxn`: unsigned maximum, scalar operand (R210). -/
def execVmaxnSc (o : VXop) (s : State) : Result := .next (runEl (elVX o vMaxn) s)

/-- `vand`: bitwise AND, vector operand (R210). -/
def execVandVr (o : VVop) (s : State) : Result := .next (runEl (elVV o vAnd) s)

/-- `vand`: bitwise AND, scalar operand (R210). -/
def execVandSc (o : VXop) (s : State) : Result := .next (runEl (elVX o vAnd) s)

/-- `vand`: bitwise AND, immediate operand (R210). -/
def execVandIm (o : VIop) (s : State) : Result := .next (runEl (elVI o vAnd) s)

/-- `vor`: bitwise OR, vector operand (R210). -/
def execVorVr (o : VVop) (s : State) : Result := .next (runEl (elVV o vOr) s)

/-- `vor`: bitwise OR, scalar operand (R210). -/
def execVorSc (o : VXop) (s : State) : Result := .next (runEl (elVX o vOr) s)

/-- `vor`: bitwise OR, immediate operand (R210). -/
def execVorIm (o : VIop) (s : State) : Result := .next (runEl (elVI o vOr) s)

/-- `vxor`: bitwise XOR, vector operand (R210). -/
def execVxorVr (o : VVop) (s : State) : Result := .next (runEl (elVV o vXor) s)

/-- `vxor`: bitwise XOR, scalar operand (R210). -/
def execVxorSc (o : VXop) (s : State) : Result := .next (runEl (elVX o vXor) s)

/-- `vxor`: bitwise XOR, immediate operand (R210). -/
def execVxorIm (o : VIop) (s : State) : Result := .next (runEl (elVI o vXor) s)

/-- `vsll`: logical left shift, vector operand (R210). -/
def execVsllVr (o : VVop) (s : State) : Result := .next (runEl (elVV o vSll) s)

/-- `vsll`: logical left shift, scalar operand (R210). -/
def execVsllSc (o : VXop) (s : State) : Result := .next (runEl (elVX o vSll) s)

/-- `vsll`: logical left shift, immediate operand (R210). -/
def execVsllIm (o : VIop) (s : State) : Result := .next (runEl (elVI o vSll) s)

/-- `vsrl`: logical right shift, vector operand (R210). -/
def execVsrlVr (o : VVop) (s : State) : Result := .next (runEl (elVV o vSrl) s)

/-- `vsrl`: logical right shift, scalar operand (R210). -/
def execVsrlSc (o : VXop) (s : State) : Result := .next (runEl (elVX o vSrl) s)

/-- `vsrl`: logical right shift, immediate operand (R210). -/
def execVsrlIm (o : VIop) (s : State) : Result := .next (runEl (elVI o vSrl) s)

/-- `vsra`: arithmetic right shift, vector operand (R210). -/
def execVsraVr (o : VVop) (s : State) : Result := .next (runEl (elVV o vSra) s)

/-- `vsra`: arithmetic right shift, scalar operand (R210). -/
def execVsraSc (o : VXop) (s : State) : Result := .next (runEl (elVX o vSra) s)

/-- `vsra`: arithmetic right shift, immediate operand (R210). -/
def execVsraIm (o : VIop) (s : State) : Result := .next (runEl (elVI o vSra) s)

/-- `vshrn`: narrowing logical right shift, vector amount (R211). -/
def execVshrnVr (o : VVop) (s : State) : Result := .next (runEl (elNV o vShrn) s)

/-- `vshrn`: narrowing logical right shift, immediate amount (R211). -/
def execVshrnIm (o : VIop) (s : State) : Result := .next (runEl (elNI o vShrn) s)

/-- `vsarn`: narrowing arithmetic right shift, vector amount (R211). -/
def execVsarnVr (o : VVop) (s : State) : Result := .next (runEl (elNV o vSarn) s)

/-- `vsarn`: narrowing arithmetic right shift, immediate amount (R211). -/
def execVsarnIm (o : VIop) (s : State) : Result := .next (runEl (elNI o vSarn) s)

/-- `vwadd`: widening signed add (R212). -/
def execVwadd (o : VVop) (s : State) : Result := .next (runEl (elWV o vWadd) s)

/-- `vwaddn`: widening unsigned add (R212). -/
def execVwaddn (o : VVop) (s : State) : Result := .next (runEl (elWV o vWaddn) s)

/-- `vwmul`: widening signed multiply (R212). -/
def execVwmul (o : VVop) (s : State) : Result := .next (runEl (elWV o vWmul) s)

/-- `vwmuln`: widening unsigned multiply (R212). -/
def execVwmuln (o : VVop) (s : State) : Result := .next (runEl (elWV o vWmuln) s)

/-- `vsadd`: saturating signed add, vector operand (R213). -/
def execVsaddVr (o : VVop) (s : State) : Result := .next (runEl (elVV o vSadd) s)

/-- `vsadd`: saturating signed add, scalar operand (R213). -/
def execVsaddSc (o : VXop) (s : State) : Result := .next (runEl (elVX o vSadd) s)

/-- `vsaddn`: saturating unsigned add, vector operand (R213). -/
def execVsaddnVr (o : VVop) (s : State) : Result := .next (runEl (elVV o vSaddn) s)

/-- `vsaddn`: saturating unsigned add, scalar operand (R213). -/
def execVsaddnSc (o : VXop) (s : State) : Result := .next (runEl (elVX o vSaddn) s)

/-- `vssub`: saturating signed subtract, vector operand (R213). -/
def execVssubVr (o : VVop) (s : State) : Result := .next (runEl (elVV o vSsub) s)

/-- `vssub`: saturating signed subtract, scalar operand (R213). -/
def execVssubSc (o : VXop) (s : State) : Result := .next (runEl (elVX o vSsub) s)

/-- `vssubn`: saturating unsigned subtract, vector operand (R213). -/
def execVssubnVr (o : VVop) (s : State) : Result := .next (runEl (elVV o vSsubn) s)

/-- `vssubn`: saturating unsigned subtract, scalar operand (R213). -/
def execVssubnSc (o : VXop) (s : State) : Result := .next (runEl (elVX o vSsubn) s)

/-- `vclip`: narrowing signed rounding shift with saturation (R213). -/
def execVclip (o : VSHop) (s : State) : Result := .next (runEl (elNS o vClip) s)

/-- `vclipn`: narrowing unsigned rounding shift with saturation (R213). -/
def execVclipn (o : VSHop) (s : State) : Result := .next (runEl (elNS o vClipn) s)

/-- `vfadd`: floating add, vector operand (R214). -/
def execVfaddVr (o : VVop) (s : State) : Result := .next (runEl (elVV o vFadd) s)

/-- `vfadd`: floating add, scalar operand (R214). -/
def execVfaddSc (o : VXop) (s : State) : Result := .next (runEl (elVX o vFadd) s)

/-- `vfsub`: floating subtract, vector operand (R214). -/
def execVfsubVr (o : VVop) (s : State) : Result := .next (runEl (elVV o vFsub) s)

/-- `vfsub`: floating subtract, scalar operand (R214). -/
def execVfsubSc (o : VXop) (s : State) : Result := .next (runEl (elVX o vFsub) s)

/-- `vfmul`: floating multiply, vector operand (R214). -/
def execVfmulVr (o : VVop) (s : State) : Result := .next (runEl (elVV o vFmul) s)

/-- `vfmul`: floating multiply, scalar operand (R214). -/
def execVfmulSc (o : VXop) (s : State) : Result := .next (runEl (elVX o vFmul) s)

/-- `vfmacc`: fused multiply-add into destination, vector operand (R214). -/
def execVfmaccVr (o : VVop) (s : State) : Result := .next (runEl (elVV o vFmacc) s)

/-- `vfmacc`: fused multiply-add into destination, scalar operand (R214). -/
def execVfmaccSc (o : VXop) (s : State) : Result := .next (runEl (elVX o vFmacc) s)

/-- `vfdiv`: floating divide, vector operand (R214). -/
def execVfdivVr (o : VVop) (s : State) : Result := .next (runEl (elVV o vFdiv) s)

/-- `vfdiv`: floating divide, scalar operand (R214). -/
def execVfdivSc (o : VXop) (s : State) : Result := .next (runEl (elVX o vFdiv) s)

/-- `vfmin`: floating minimum, vector operand (R214). -/
def execVfminVr (o : VVop) (s : State) : Result := .next (runEl (elVV o vFmin) s)

/-- `vfmin`: floating minimum, scalar operand (R214). -/
def execVfminSc (o : VXop) (s : State) : Result := .next (runEl (elVX o vFmin) s)

/-- `vfmax`: floating maximum, vector operand (R214). -/
def execVfmaxVr (o : VVop) (s : State) : Result := .next (runEl (elVV o vFmax) s)

/-- `vfmax`: floating maximum, scalar operand (R214). -/
def execVfmaxSc (o : VXop) (s : State) : Result := .next (runEl (elVX o vFmax) s)

/-- `vfcps`: sign copy, vector operand (R214). -/
def execVfcpsVr (o : VVop) (s : State) : Result := .next (runEl (elVV o vFcps) s)

/-- `vfcps`: sign copy, scalar operand (R214). -/
def execVfcpsSc (o : VXop) (s : State) : Result := .next (runEl (elVX o vFcps) s)

/-- `vfcpsn`: inverted sign copy, vector operand (R214). -/
def execVfcpsnVr (o : VVop) (s : State) : Result := .next (runEl (elVV o vFcpsn) s)

/-- `vfcpsn`: inverted sign copy, scalar operand (R214). -/
def execVfcpsnSc (o : VXop) (s : State) : Result := .next (runEl (elVX o vFcpsn) s)

/-- `vfcpsx`: xOR sign copy, vector operand (R214). -/
def execVfcpsxVr (o : VVop) (s : State) : Result := .next (runEl (elVV o vFcpsx) s)

/-- `vfcpsx`: xOR sign copy, scalar operand (R214). -/
def execVfcpsxSc (o : VXop) (s : State) : Result := .next (runEl (elVX o vFcpsx) s)

/-- `vfsqrt`: floating square root (R214). -/
def execVfsqrt (o : VUop) (s : State) : Result := .next (runEl (elVU o vFsqrt) s)

/-- `vfexp2`: base-2 exponential rounded by RNE (R215). -/
def execVfexp2 (o : VUop) (s : State) : Result := .next (runEl (elVU o vFexp2) s)

/-- `vfrcp`: reciprocal rounded by RNE (R215). -/
def execVfrcp (o : VUop) (s : State) : Result := .next (runEl (elVU o vFrcp) s)

/-- `vfrsq`: reciprocal square root rounded by RNE (R215). -/
def execVfrsq (o : VUop) (s : State) : Result := .next (runEl (elVU o vFrsq) s)

/-- `vflog2`: base-2 logarithm rounded by RNE (R215). -/
def execVflog2 (o : VUop) (s : State) : Result := .next (runEl (elVU o vFlog2) s)

/-- `vfcvt_f_i`: converts signed integers to floating (R216). -/
def execVfcvtFI (o : VUop) (s : State) : Result := .next (runEl (elVU o vFofI) s)

/-- `vfcvt_f_n`: converts unsigned integers to floating (R216). -/
def execVfcvtFN (o : VUop) (s : State) : Result := .next (runEl (elVU o vFofN) s)

/-- `vfcvt_i_f`: converts floating to signed integers (R216). -/
def execVfcvtIF (o : VUop) (s : State) : Result := .next (runEl (elVU o vItoF) s)

/-- `vfcvt_n_f`: converts floating to unsigned integers (R216). -/
def execVfcvtNF (o : VUop) (s : State) : Result := .next (runEl (elVU o vNtoF) s)

/-- `vfcvt_bf_f`: narrows FP32 to BF16 (R216). -/
def execVfcvtBfF (o : VUop) (s : State) : Result := .next (runEl (elNU o vNarrow) s)

/-- `vfcvt_f_bf`: widens BF16 to FP32 (R216). -/
def execVfcvtFBf (o : VUop) (s : State) : Result := .next (runEl (elWU o vWiden) s)

/-- `vceq`: compare equal into a mask, vector operand (R217). -/
def execVceqVr (o : CVop) (s : State) : Result := .next (runEl (elCV o vEq) s)

/-- `vceq`: compare equal into a mask, scalar operand (R217). -/
def execVceqSc (o : CXop) (s : State) : Result := .next (runEl (elCX o vEq) s)

/-- `vcne`: compare not equal, vector operand (R217). -/
def execVcneVr (o : CVop) (s : State) : Result := .next (runEl (elCV o vNe) s)

/-- `vcne`: compare not equal, scalar operand (R217). -/
def execVcneSc (o : CXop) (s : State) : Result := .next (runEl (elCX o vNe) s)

/-- `vclt`: signed less-than compare, vector operand (R217). -/
def execVcltVr (o : CVop) (s : State) : Result := .next (runEl (elCV o vLt) s)

/-- `vclt`: signed less-than compare, scalar operand (R217). -/
def execVcltSc (o : CXop) (s : State) : Result := .next (runEl (elCX o vLt) s)

/-- `vcltn`: unsigned less-than compare, vector operand (R217). -/
def execVcltnVr (o : CVop) (s : State) : Result := .next (runEl (elCV o vLtn) s)

/-- `vcltn`: unsigned less-than compare, scalar operand (R217). -/
def execVcltnSc (o : CXop) (s : State) : Result := .next (runEl (elCX o vLtn) s)

/-- `vcle`: signed less-or-equal compare, vector operand (R217). -/
def execVcleVr (o : CVop) (s : State) : Result := .next (runEl (elCV o vLe) s)

/-- `vcle`: signed less-or-equal compare, scalar operand (R217). -/
def execVcleSc (o : CXop) (s : State) : Result := .next (runEl (elCX o vLe) s)

/-- `vclen`: unsigned less-or-equal compare, vector operand (R217). -/
def execVclenVr (o : CVop) (s : State) : Result := .next (runEl (elCV o vLen) s)

/-- `vclen`: unsigned less-or-equal compare, scalar operand (R217). -/
def execVclenSc (o : CXop) (s : State) : Result := .next (runEl (elCX o vLen) s)

/-- `vcgt`: signed greater-than compare, scalar operand (R217). -/
def execVcgtSc (o : CXop) (s : State) : Result := .next (runEl (elCX o vGt) s)

/-- `vcgtn`: unsigned greater-than compare, scalar operand (R217). -/
def execVcgtnSc (o : CXop) (s : State) : Result := .next (runEl (elCX o vGtn) s)

/-- `vfceq`: floating equal compare, vector operand (R218). -/
def execVfceqVr (o : CVop) (s : State) : Result := .next (runEl (elCV o (vFcmp 0)) s)

/-- `vfceq`: floating equal compare, scalar operand (R218). -/
def execVfceqSc (o : CXop) (s : State) : Result := .next (runEl (elCX o (vFcmp 0)) s)

/-- `vfcne`: floating not-equal compare, vector operand (R218). -/
def execVfcneVr (o : CVop) (s : State) : Result := .next (runEl (elCV o (vFcmp 1)) s)

/-- `vfcne`: floating not-equal compare, scalar operand (R218). -/
def execVfcneSc (o : CXop) (s : State) : Result := .next (runEl (elCX o (vFcmp 1)) s)

/-- `vfclt`: floating less-than compare, vector operand (R218). -/
def execVfcltVr (o : CVop) (s : State) : Result := .next (runEl (elCV o (vFcmp 2)) s)

/-- `vfclt`: floating less-than compare, scalar operand (R218). -/
def execVfcltSc (o : CXop) (s : State) : Result := .next (runEl (elCX o (vFcmp 2)) s)

/-- `vfcle`: floating less-or-equal compare, vector operand (R218). -/
def execVfcleVr (o : CVop) (s : State) : Result := .next (runEl (elCV o (vFcmp 3)) s)

/-- `vfcle`: floating less-or-equal compare, scalar operand (R218). -/
def execVfcleSc (o : CXop) (s : State) : Result := .next (runEl (elCX o (vFcmp 3)) s)

/-! ### Unpacking conversions (R216) -/

/-- Element i of the destination is the exact value of element i mod per of block i div per. The bytes a block occupies are its reads. -/
def elUnpack (four : Bool) (o : VUop) (c : VCtx) : ElOp :=
  let a := c.str o.va.toNat c.g
  let blk (i : Nat) : Nat :=
    if o.ma.getLsbD 2 then
      (upto (dxbBits four / 32)).foldr (fun j acc => acc * 2 ^ 32 + srcElem a 32 o.ma (i / dxbPer four * (dxbBits four / 32) + j)) 0
    else fld a (dxbBits four * (i / dxbPer four)) (dxbBits four)
  {
    d := o.vd.toNat, k := c.g, w := 32, m := o.m,
    reads := [
      { r := o.va.toNat, w := 32, fe := o.fa, ix := fun i => modIx 32 o.ma (i / dxbPer four * (dxbBits four / 32)) },
      {
        r := o.va.toNat, w := 32, fe := o.fa,
        ix := fun i => modIx 32 o.ma (i / dxbPer four * (dxbBits four / 32) + (if four then (2 + i % 30) / 8 else (1 + i % 31) / 4)) }],
    fn := fun i => encF 23 c.e.rm (dxbElem four (blk i) (i % dxbPer four)) }

/-- `vfcvt.f.dxb8` (R216). -/
def execVfcvtFDxb8 (o : VUop) (s : State) : Result := .next (runEl (elUnpack false o) s)

/-- `vfcvt.f.dxb4` (R216). -/
def execVfcvtFDxb4 (o : VUop) (s : State) : Result := .next (runEl (elUnpack true o) s)

/-! ### Merges, moves and indices (R221, R223, R228) -/

/-- A merge selects by its mask and writes every element below VL (R221). -/
def merge (m : VMask) (o : ElOp) (sel : Nat → Nat) (c : VCtx) : ElOp :=
  { o with m := { km := 0, kp := false }, fn := fun i => if active c.v m i then (sel i, 0) else o.fn i }

/-- The first operand unchanged. -/
def vFirst : ElFn := fun _ a _ _ => (a, 0)

/-- `vmerge`, vector operand (R221). -/
def execVmergeVr (o : VVop) (s : State) : Result :=
  .next (runEl (fun c => merge o.m (elVV o vFirst c) (vecB c o.vb o.mb o.fb).1 c) s)

/-- `vmerge`, scalar operand (R221). -/
def execVmergeSc (o : VXop) (s : State) : Result :=
  .next (runEl (fun c => merge o.m (elVX o vFirst c) (fun _ => c.e.xb.toNat % 2 ^ c.sew) c) s)

/-- `vmerge`, immediate operand (R221). -/
def execVmergeIm (o : VIop) (s : State) : Result :=
  .next (runEl (fun c => merge o.m (elVI o vFirst c) (fun _ => immElem c.sew o.imm) c) s)

/-- An element-wise word with no vector source. -/
def elNone (vd : BitVec 5) (m : VMask) (f : Nat → Nat) (c : VCtx) : ElOp :=
  { d := vd.toNat, k := c.g, w := c.sew, m := m, reads := [], fn := fun i => (f i, 0) }

/-- `vmv`, vector operand (R223). -/
def execVmvVr (o : VUop) (s : State) : Result := .next (runEl (elVU o vFirst) s)

/-- `vmv`, scalar operand (R223). -/
def execVmvSc (o : MVXop) (s : State) : Result :=
  .next (runEl (fun c => elNone o.vd o.m (fun _ => c.e.xb.toNat % 2 ^ c.sew) c) s)

/-- `vmv`, immediate operand (R223). -/
def execVmvIm (o : MVIop) (s : State) : Result := .next (runEl (fun c => elNone o.vd o.m (fun _ => immElem c.sew o.imm) c) s)

/-- `vidx`: st + i × sp, with st = sext(IMM[17:9], 9) and sp = sext(IMM[8:0], 9) (R228). -/
def execVidx (o : MVIop) (s : State) : Result :=
  .next (runEl (fun c => elNone o.vd o.m (fun i => tr c.sew (sx 9 (o.imm.toNat / 512) + i * sx 9 o.imm.toNat)) c) s)

end Sys2Proof.Machine
end

