-- ==== Sys2Proof/Machine/VecWhole.lean ====
section
/-! DEFINITION. Vector instructions that take effect whole: mask instructions, read-queue words, reductions, permutes, packing conversions (R216, R219,
R220, R222 to R227). -/
namespace Sys2Proof.Machine

/-! ### Writing elements -/

/-- Writes elements of `w` bits of a group of `k` registers at `d`. -/
def VCtx.put (c : VCtx) (d k w : Nat) (l : List (Nat × Nat)) (v : Vlc) : Vlc :=
  if l.isEmpty then v else setGroupN c.vlen d k (l.foldl (fun a p => putFld a (w * p.1) w p.2) (groupN v c.vlen d k)) v

/-- The active elements of a word. -/
def VCtx.on (c : VCtx) (m : VMask) : List Nat := (upto c.e.vl).filter (fun i => active c.v m i)

/-- A permute: destination group, the elements it writes with their values, and its reads. -/
def permute (c : VCtx) (d k w : Nat) (l : List (Nat × Nat)) (reads : List (VRead × List Nat)) : WOp :=
  { reads := reads ++ [({ r := d, w := w }, l.map Prod.fst)], eff := fun v => (c.put d k w l v, 0) }

/-! ### Mask instructions (R219) -/

/-- Writes bits 0 to VL − 1 of kd. -/
def maskOp (kd : BitVec 3) (f : Vlc → Nat → Bool) (c : VCtx) : WOp :=
  {
    eff := fun v =>
      let old := (tget 0 v.k kd.toNat).toNat
      ({ v with k := tset 0 v.k kd.toNat (BitVec.ofNat 3072 ((upto c.e.vl).foldl (fun a i => putFld a i 1 (b2n (f v i))) old)) }, 0) }

/-- `kand` (R219). -/
def execKand (o : KKop) (s : State) : Result :=
  .next (runWhole (maskOp o.kd (fun v i => kbit v o.ka.toNat i && kbit v o.kb.toNat i)) noFill s)

/-- `kor` (R219). -/
def execKor (o : KKop) (s : State) : Result :=
  .next (runWhole (maskOp o.kd (fun v i => kbit v o.ka.toNat i || kbit v o.kb.toNat i)) noFill s)

/-- `kxor` (R219). -/
def execKxor (o : KKop) (s : State) : Result :=
  .next (runWhole (maskOp o.kd (fun v i => kbit v o.ka.toNat i != kbit v o.kb.toNat i)) noFill s)

/-- `knot` (R219). -/
def execKnot (o : KNop) (s : State) : Result := .next (runWhole (maskOp o.kd (fun v i => !kbit v o.ka.toNat i)) noFill s)

/-! ### Read-queue words (R220) -/

/-- A word with no effect on the vector registers. -/
def noEff (_ : VCtx) : WOp := { eff := fun v => (v, 0) }

/-- `kffs`: the first set bit below VL, or 2^64 − 1 (R220). -/
def execKffs (o : KXop) (s : State) : Result :=
  .next (runWhole noEff (fun c => some (o.xd.toNat, (firstOf (upto c.e.vl) (fun i => kbit c.v o.ka.toNat i)).getD (2 ^ 64 - 1))) s)

/-- `kpopc` (R220). -/
def execKpopc (o : KXop) (s : State) : Result :=
  .next (runWhole noEff (fun c => some (o.xd.toNat, ((upto c.e.vl).filter (fun i => kbit c.v o.ka.toNat i)).length)) s)

/-- `kmvx`: 64 bits of a mask register, bits at VL and above as 0 (R220). -/
def execKmvx (o : KMop) (s : State) : Result :=
  .next (runWhole noEff (fun c => some (o.xd.toNat,
    (upto 64).foldr (fun i a => 2 * a + b2n (64 * o.j.toNat + i < c.e.vl && kbit c.v o.ka.toNat (64 * o.j.toNat + i))) 0)) s)

/-- `vmvxs`: element 0, sign-extended (R220). -/
def execVmvxs (o : MVXSop) (s : State) : Result :=
  .next (runWhole (fun c => { reads := [({ r := o.va.toNat, w := c.sew, fe := o.fa }, [0])], eff := fun v => (v, 0) })
    (fun c => some (o.xd.toNat, (wI (sx c.sew (elemN (c.str o.va.toNat 1) c.sew 0))).toNat)) s)

/-! ### Reductions (R222) -/

/-- A reduction: `f` combines vb[0] with the active elements of va; with no active element the result is vb[0]. -/
def reduce (o : VVop) (f : VCtx → Nat → List Nat → FRes) (c : VCtx) : WOp :=
  let on := c.on o.m
  let a := c.str o.va.toNat c.g
  let b := elemN (c.str o.vb.toNat 1) c.sew 0
  let r : FRes := if on.isEmpty then (b, 0) else f c b (on.map (fun i => srcElem a c.sew o.ma i))
  {
    reads := [({ r := o.va.toNat, w := c.sew, fe := o.fa, ix := modIx c.sew o.ma }, on), ({ r := o.vb.toNat, w := c.sew, fe := o.fb }, [0]),
      ({ r := o.vd.toNat, w := c.sew }, [0])],
    eff := fun v => (c.put o.vd.toNat 1 c.sew [(0, r.1)] v, r.2) }

/-- `vsumr` (R222). -/
def execVsumr (o : VVop) (s : State) : Result :=
  .next (runWhole (reduce o (fun c b l => (l.foldl (· + ·) b % 2 ^ c.sew, 0))) noFill s)

/-- `vmaxr` (R222). -/
def execVmaxr (o : VVop) (s : State) : Result :=
  .next (runWhole (reduce o (fun c b l => (l.foldl (fun x y => if sx c.sew x ≥ sx c.sew y then x else y) b, 0))) noFill s)

/-- `vmaxnr` (R222). -/
def execVmaxnr (o : VVop) (s : State) : Result := .next (runWhole (reduce o (fun _ b l => (l.foldl max b, 0))) noFill s)

/-- `vminr` (R222). -/
def execVminr (o : VVop) (s : State) : Result :=
  .next (runWhole (reduce o (fun c b l => (l.foldl (fun x y => if sx c.sew x ≤ sx c.sew y then x else y) b, 0))) noFill s)

/-- `vminnr` (R222). -/
def execVminnr (o : VVop) (s : State) : Result := .next (runWhole (reduce o (fun _ b l => (l.foldl min b, 0))) noFill s)

/-- `vfsumr`: the terms are the active elements and vb[0], in the order R148 leaves to the implementation (R148, R222). -/
def execVfsumr (o : VVop) (s : State) : Result :=
  .next (runWhole (reduce o (fun c b l =>
    let mb := fracBits c.sew
    fSum 0xA5 mb c.e.rm c.e.vl c.e.sew c.e.grp (c.vlen / 192) ((l ++ [b]).map (decF mb)))) noFill s)

/-- A chain of minima or maxima (R135, R222). -/
def fChain (isMin : Bool) (c : VCtx) (b : Nat) (l : List Nat) : FRes :=
  l.foldl (fun acc x => let r := fMinMax isMin (fracBits c.sew) acc.1 x; (r.1, acc.2 ||| r.2)) (b, 0)

/-- `vfmaxr` (R222). -/
def execVfmaxr (o : VVop) (s : State) : Result := .next (runWhole (reduce o (fChain false)) noFill s)

/-- `vfminr` (R222). -/
def execVfminr (o : VVop) (s : State) : Result := .next (runWhole (reduce o (fChain true)) noFill s)

/-! ### Permutes (R223 to R227) -/

/-- A permute whose active element i takes element `src i` of va, `some none` standing for 0 and `none` for undisturbed. -/
def gatherOp (vd va : BitVec 5) (ma : BitVec 3) (m : VMask) (fa : Bool) (src : Nat → Option (Option Nat)) (extra : List (VRead × List Nat)) (c : VCtx) : WOp :=
  let a := c.str va.toNat c.g
  let on := c.on m
  let l := on.filterMap (fun i => match src i with
    | some (some j) => some (i, srcElem a c.sew ma j)
    | some none => some (i, 0)
    | none => none)
  let js := on.filterMap (fun i => (src i).bind id)
  permute c vd.toNat c.g c.sew l (({ r := va.toNat, w := c.sew, fe := fa, ix := modIx c.sew ma }, js) :: extra)

/-- `vslideup` (R224). -/
def slideUp (vd va : BitVec 5) (ma : BitVec 3) (m : VMask) (fa : Bool) (off : Nat) (c : VCtx) : WOp :=
  gatherOp vd va ma m fa (fun i => if i ≥ off then some (some (i - off)) else none) [] c

/-- `vslidedn` (R224). -/
def slideDown (vd va : BitVec 5) (ma : BitVec 3) (m : VMask) (fa : Bool) (off : Nat) (c : VCtx) : WOp :=
  gatherOp vd va ma m fa (fun i => if i + off < c.e.vl then some (some (i + off)) else some none) [] c

/-- `vslideup`, scalar offset (R224). -/
def execVslideupSc (o : VXop) (s : State) : Result :=
  .next (runWhole (fun c => slideUp o.vd o.va o.ma o.m o.fa c.e.xb.toNat c) noFill s)

/-- `vslideup`, immediate offset (R224). -/
def execVslideupIm (o : VIop) (s : State) : Result :=
  .next (runWhole (fun c => slideUp o.vd o.va o.ma o.m o.fa o.imm.toNat c) noFill s)

/-- `vslidedn`, scalar offset (R224). -/
def execVslidednSc (o : VXop) (s : State) : Result :=
  .next (runWhole (fun c => slideDown o.vd o.va o.ma o.m o.fa c.e.xb.toNat c) noFill s)

/-- `vslidedn`, immediate offset (R224). -/
def execVslidednIm (o : VIop) (s : State) : Result :=
  .next (runWhole (fun c => slideDown o.vd o.va o.ma o.m o.fa o.imm.toNat c) noFill s)

/-- `vslide1up`: the scalar enters element 0 (R224). -/
def execVslide1up (o : VXop) (s : State) : Result :=
  .next (runWhole (fun c =>
    let a := c.str o.va.toNat c.g
    let on := c.on o.m
    permute c o.vd.toNat c.g c.sew
      (on.map (fun i => (i, if i = 0 then c.e.xb.toNat % 2 ^ c.sew else srcElem a c.sew o.ma (i - 1))))
      [({ r := o.va.toNat, w := c.sew, fe := o.fa, ix := modIx c.sew o.ma }, (on.filter (· ≠ 0)).map (· - 1))]) noFill s)

/-- `vrgather`: an index at or above VL gives 0 (R225). -/
def execVrgather (o : VVop) (s : State) : Result :=
  .next (runWhole (fun c =>
    let b := c.str o.vb.toNat c.g
    gatherOp o.vd o.va o.ma o.m o.fa (fun i => let j := srcElem b c.sew o.mb i; if j < c.e.vl then some (some j) else some none)
      [({ r := o.vb.toNat, w := c.sew, fe := o.fb, ix := modIx c.sew o.mb }, c.on o.m)] c) noFill s)

/-- `vcompress` (R226). -/
def execVcompress (o : VUop) (s : State) : Result :=
  .next (runWhole (fun c =>
    let a := c.str o.va.toNat c.g
    let on := c.on o.m
    permute c o.vd.toNat c.g c.sew (on.mapIdx (fun k i => (k, srcElem a c.sew o.ma i)))
      [({ r := o.va.toNat, w := c.sew, fe := o.fa, ix := modIx c.sew o.ma }, on)]) noFill s)

/-- `vreshp`: a transpose of units held row-major (R227). -/
def execVreshp (o : RSHop) (s : State) : Result :=
  .next (runWhole (fun c =>
    let u := match o.u.toNat with | 0 => c.sew | 1 => 256 | _ => 128
    let nu := c.e.vl * c.sew / u
    let l := c.e.xb.toNat
    let nr := if l = 0 ∨ l > nu then 0 else nu / l
    let a := srcString (c.str o.va.toNat c.g) c.sew c.e.vl o.ma
    let us := upto (nr * l)
    let w := min u 64
    permute c o.vd.toNat c.g u (us.map (fun i => (i % l * nr + i / l, elemN a u i)))
      [({ r := o.va.toNat, w := w, fe := o.fa, ix := modIx w o.ma }, upto (nr * l * u / w))]) noFill s)

/-- `vmvsx`: element 0, when VL ≥ 1 (R223). -/
def execVmvsx (o : MVSXop) (s : State) : Result :=
  .next (runWhole (fun c =>
    permute c o.vd.toNat 1 c.sew (if c.e.vl ≥ 1 then [(0, c.e.xa.toNat % 2 ^ c.sew)] else []) []) noFill s)

/-! ### Packing conversions (R143, R216) -/

/-- Packs va into blocks; positions at VL and above count as +0, and blocks past the last are undisturbed. -/
def packOp (four : Bool) (o : VGAPop) (c : VCtx) : WOp :=
  let a := c.str o.va.toNat c.g
  let per := dxbPer four
  let blks := (upto (cdiv c.e.vl per)).map (fun b =>
    dxbPack four (o.gap.toNat + 1) c.e.rm ((upto per).map (fun j =>
      if per * b + j < c.e.vl then decF 23 (srcElem a 32 o.ma (per * b + j)) else .fin false 0 0)))
  let w := dxbBits four
  {
    reads := [({ r := o.va.toNat, w := 32, fe := o.fa, ix := modIx 32 o.ma }, upto c.e.vl),
      ({ r := o.vd.toNat, w := 32 }, upto (blks.length * w / 32))],
    eff := fun v => (c.put o.vd.toNat c.g w (blks.mapIdx (fun b r => (b, r.1))) v, blks.foldl (fun f r => f ||| r.2) 0) }

/-- `vfcvt.dxb8.f` (R216). -/
def execVfcvtDxb8F (o : VGAPop) (s : State) : Result := .next (runWhole (packOp false o) noFill s)

/-- `vfcvt.dxb4.f` (R216). -/
def execVfcvtDxb4F (o : VGAPop) (s : State) : Result := .next (runWhole (packOp true o) noFill s)

end Sys2Proof.Machine
end

