-- ==== Sys2Proof/Machine/VecMem.lean ====
section
/-! DEFINITION. Vector loads, stores and gather-atomics (R202, R203, R230 to R234, R364). -/
namespace Sys2Proof.Machine

/-! ### The checks of one element (R360, R364) -/

/-- What the accesses of a word want to do. -/
def MemWord.want (w : MemWord) : Want := if w.atomic.isSome then .atomic else if w.store then .write else .read

/-- Key of an element's answer. -/
def ElemAcc.key (x : ElemAcc) : Nat := x.i * 8 + x.f

/-- Whether an access of a gather-atomic misses its scope; that is no fault (R106). -/
def scopeMiss (w : MemWord) (n : Nat) (t : Target) : Bool := w.atomic.isSome && !inScope n w.scope t

/-- The fault of an element. -/
def elemRec (code va : Nat) : FRec := { code := code, addr := va }

/-- The target check of a local element: R93, SUSPECT, and for a store a lost frame (R402, R414). -/
def elemTarget (s : State) (n : Nat) (w : MemWord) (x : ElemAcc) (pa : Nat) : Option Nat :=
  if !paDram pa || (w.want == .read && isArgBlock (getVlc s n) x.va x.size) then none
  else match tokenCheck s (getVlc s n).agent pa w.want true with
    | some c => some c
    | none => if w.want == .write && isLost s pa then some cUE_CONSUMED else none

/-- Bytes of an element that the strip store buffer holds, with the set of those bytes (R57). -/
def elemFwd (v : Vlc) (w : MemWord) (p : Passed) (size : Nat) : Nat × Nat :=
  if w.want == .read && v.sopen && !p.dev then forwarded v.sbuf p.tgt size else (0, 0)

/-- Every check of one access, in the order of R360 and R359. -/
def elemCheck (s : State) (e : VEntry) (w : MemWord) (x : ElemAcc) : Except FRec Passed :=
  match addrCheck s (whoOf s e.vlc) x.va x.size w.want with
  | .error c => .error (elemRec c x.va)
  | .ok p =>
    if scopeMiss w e.vlc p.tgt then .ok p
    else if (elemFwd (getVlc s e.vlc) w p x.size).2 == 2 ^ x.size - 1 then .ok p
    else match p.tgt with
      | .rem _ _ _ =>
        let a := tget (0, 0, false) e.answers x.key
        if a.1 > 1 then .error (elemRec (a.1 - 1) x.va) else .ok { p with dev := p.dev || a.2.2 }
      | .loc pa =>
        match elemTarget s e.vlc w x pa with
        | some c => .error (withToken s pa (elemRec c x.va))
        | none => .ok p

/-- An access that passed, with its target. -/
abbrev Elem := ElemAcc × Passed

/-- The checks of one element or record: its accesses, or the first fault. -/
def checkAll (s : State) (e : VEntry) (w : MemWord) : List ElemAcc → Except FRec (List Elem)
  | [] => .ok []
  | x :: xs =>
    match elemCheck s e w x with
    | .error f => .error f
    | .ok p =>
      match checkAll s e w xs with
      | .error f => .error f
      | .ok l => .ok ((x, p) :: l)

/-- Elements in ascending order with the accesses of each, up to the lowest that fails, and its fault. -/
def scanElems (s : State) (e : VEntry) (w : MemWord) : List (Nat × List ElemAcc) → List (Nat × List Elem) × Option (Nat × FRec)
  | [] => ([], none)
  | (i, xs) :: t =>
    match checkAll s e w xs with
    | .error f => ([], some (i, f))
    | .ok l => let r := scanElems s e w t; ((i, l) :: r.1, r.2)

/-- Whether the order of accesses holds an access back (R114, R117, R202, R333). -/
def elemHeld (s : State) (e : VEntry) (cls : Nat) (p : Elem) : Bool :=
  blockedBy s e.vlc e.id 0 cls p.2.tgt p.1.size p.2.dev || fenced s e.vlc e.id cls p.2.tgt ||
    (match p.2.tgt with | .loc pa => mboxWaits s pa p.1.size | .rem _ _ _ => false)

/-- Whether banks hold the accesses `l` of a word back, or the reads of its page tables (R263, R264, R268). -/
def elemsWait (s : State) (e : VEntry) (l : List Elem) : Bool :=
  l.any (fun p => walkWaits s p.2.walk) || !bankTurn s (.word e.vlc e.id) (getVlc s e.vlc).agent (l.flatMap (fun p => p.2.tgt.here))

/-! ### Elements at other modules (R314, R364) -/

/-- The accesses of a word that go to other modules; a load whose bytes the strip store buffer holds goes nowhere. -/
def remoteOf (s : State) (w : MemWord) (n : Nat) (l : List Elem) : List Elem :=
  l.filter (fun p => match p.2.tgt with
    | .rem _ _ _ => !scopeMiss w n p.2.tgt && (elemFwd (getVlc s n) w p.2 p.1.size).2 != 2 ^ p.1.size - 1
    | .loc _ => false)

/-- Sends the accesses `l` of a word to other modules, one for each element: the checks, or the loads once the checks of every element have passed. What is on
its way is not sent again. -/
def sendElems (e : VEntry) (cls : Nat) (kind : AccKind) (op : Nat) (l : List Elem) (s : State) : State :=
  (l.filter (fun p => !s.net.any (fun a => a.vlc == e.vlc && a.id == e.id && a.kind == kind && !a.dead && a.vdst == some (0, p.1.key)))).foldl (fun s p => sendNet {
    id := e.id, vlc := e.vlc, kind := kind, op := op, va := p.1.va, tgt := p.2.tgt, size := p.1.size, cls := cls, dev := p.2.dev, vdst := some (0, p.1.key),
    origin := e.blk, rpa := if kind = .load then some (tget (0, 0, false) e.answers p.1.key).2.1 else none } s) s

/-- The remote accesses whose checks, or whose loads, have not been answered. -/
def unchecked (e : VEntry) (l : List Elem) : List Elem := l.filter (fun p => (tget (0, 0, false) e.answers p.1.key).1 == 0)
def unloaded (e : VEntry) (l : List Elem) : List Elem := l.filter (fun p => (tget (0, 0) e.got p.1.key).1 == 0)

/-! ### Data -/

/-- The data error that an element of a load meets: an uncorrectable word, here or at its module, or a module that cannot be reached. -/
def elemErr (s : State) (e : VEntry) (w : MemWord) (p : Elem) : Option Nat :=
  if (elemFwd (getVlc s e.vlc) w p.2 p.1.size).2 == 2 ^ p.1.size - 1 then none
  else match p.2.tgt with
    | .loc pa => if ueIn s pa p.1.size then some cUE_CONSUMED else none
    | .rem _ _ _ => match (tget (0, 0) e.got p.1.key).1 with | 0 => none | c + 1 => if c = 0 then none else some c

/-- The uncorrectable words that the accesses of a word meet are logged (R391). -/
def logElems (c : VCtx) (l : List Elem) (s : State) : State :=
  l.foldl (fun t p => match p.2.tgt with | .loc pa => logUe pa p.1.size c.v.agent t | .rem _ _ _ => t) s

/-- The value of an element of a load, corrections counted and written back (R57, R390). -/
def elemValue (e : VEntry) (w : MemWord) (p : Elem) (s : State) : Nat × State :=
  let fw := elemFwd (getVlc s e.vlc) w p.2 p.1.size
  match p.2.tgt with
  | .loc pa => let r := readMem pa p.1.size (getVlc s e.vlc).agent s; (mergeBytes p.1.size (r.1.getD 0) fw.1 fw.2, r.2)
  | .rem _ _ _ => (mergeBytes p.1.size (tget (0, 0) e.got p.1.key).2 fw.1 fw.2, s)

/-- Reads a list of accesses: (element, field, value) of each. -/
def readElems (e : VEntry) (w : MemWord) : List Elem → State → List (Nat × Nat × Nat) × State
  | [], s => ([], s)
  | p :: ps, s =>
    let r := elemValue e w p (notePin p.2 s)
    let t := readElems e w ps r.2
    ((p.1.i, p.1.f, r.1) :: t.1, t.2)

/-- Number of fields of a word, and a field's value in its element (R233): extended or cut to SEW. -/
def MemWord.fields (w : MemWord) : Nat := match w.mode with | .segment nf _ _ _ => nf | _ => 1
def fieldIn (w : MemWord) (sew v : Nat) : Nat :=
  match w.mode with
  | .segment _ fw _ ext => if fw < sew then (if ext then tr sew (sx fw v) else v) else v % 2 ^ sew
  | _ => v
/-- A store's field from its element: cut to the field width, or extended by EXT. -/
def fieldOut (w : MemWord) (sew v : Nat) : Nat :=
  match w.mode with
  | .segment _ fw _ ext => if fw ≤ sew then v % 2 ^ fw else if ext then tr fw (sx sew v) else v
  | _ => v

/-- Writes loaded values into the field groups. -/
def putLoaded (c : VCtx) (w : MemWord) (l : List (Nat × Nat × Nat)) (v : Vlc) : Vlc :=
  (upto w.fields).foldl (fun v f =>
    c.put (w.vd + f * c.g) c.g c.sew ((l.filter (fun x => x.2.1 == f)).map (fun x => (x.1, fieldIn w c.sew x.2.2))) v) v

/-! ### The words -/

/-- Vector registers a word reads, and elements whose results must have come before it writes them (R204). -/
def memReads (c : VCtx) (w : MemWord) : List VRead :=
  (match w.mode with | .index vb mb _ => [{ r := vb, w := c.sew, fe := w.fb, ix := modIx c.sew mb }] | _ => []) ++
  (if w.atomic.isSome then [{ r := w.vc, w := c.sew }] else []) ++
  (upto w.fields).map (fun f => { r := w.vd + f * c.g, w := c.sew })

/-- The active elements of a word from its start, with their accesses. -/
def memElems (c : VCtx) (w : MemWord) : List (Nat × List ElemAcc) :=
  let lo := firstEl c.v c.e
  let idx := match w.mode with | .index vb _ _ => c.str vb c.g | _ => 0
  ((upto c.e.vl).filter (fun i => lo ≤ i && active c.v w.m i)).map (fun i =>
    (i, elemAccs w c.e.xa c.e.xb c.sew i (match w.mode with | .index _ mb _ => srcElem idx c.sew mb i | _ => 0)))

/-- The PA that the checks of an access have found at another module. -/
def VEntry.remotePa (e : VEntry) (p : Elem) : Option Nat :=
  match p.2.tgt with | .rem _ _ _ => some (tget (0, 0, false) e.answers p.1.key).2.1 | .loc _ => none

/-- The store of one access. -/
def storeOf (c : VCtx) (w : MemWord) (cls : Nat) (p : Elem) : Buf :=
  {
    id := c.e.id, tgt := p.2.tgt, va := p.1.va, size := p.1.size, cls := cls, dev := p.2.dev, cc := p.2.cc, origin := c.e.blk, rpa := c.e.remotePa p,
    data := fieldOut w c.sew (elemN (c.str (w.vd + p.1.f * c.g) c.g) c.sew p.1.i) }

/-- The atomic of one element (R185, R234). -/
def atomOf (c : VCtx) (w : MemWord) (cls : Nat) (p : Elem) : Access :=
  {
    id := c.e.id, vlc := c.e.vlc, kind := .atomic, op := w.atomic.getD 0, va := p.1.va, tgt := p.2.tgt, size := p.1.size, cls := cls,
    dev := p.2.dev, cc := p.2.cc, data := elemN (c.str w.vc c.g) c.sew p.1.i, cmp := elemN (c.str w.vd c.g) c.sew p.1.i, reg := w.vd,
    origin := c.e.blk, vdst := some (w.vd, p.1.i), chk := true, rpa := c.e.remotePa p }

/-- An uncorrectable word reaches a vector or matrix word: the strip is rewound, or `k` raises UE_CONSUMED, class V (R380). -/
def consumeWord (e : VEntry) (k : State → State) (s : State) : State :=
  if (getVlc s e.vlc).rewindable then updVlc e.vlc (fun v => { v with rewind := true }) s else k s

/-- VL becomes `n` for the words of the VLC of `e` that are younger than it, in the VIQ and held (R200, R232). -/
def trimYounger (e : VEntry) (n : Nat) (s : State) : State :=
  let trim (x : VEntry) : VEntry := if x.id > e.id then { x with vl := min x.vl n } else x
  updVlc e.vlc (fun v => { v with held := v.held.map trim })
    (updCore (coreOf e.vlc) (fun c => { c with viq := c.viq.map (fun x => if x.vlc == e.vlc then trim x else x) }) s)

/-- DEVS is set by elements in DEV memory of an open strip (R57). -/
def devsIf (l : List Elem) (v : Vlc) : Vlc := if v.sopen && l.any (fun p => p.2.dev) then { v with devs := true } else v

/-- Elements of a load in DEV memory have performed (R81). -/
def devsDone (e : VEntry) (l : List Elem) (s : State) : State := if l.any (fun p => p.2.dev) then settleDev e.vlc e.id 0 s else s

/-- A load: the elements below the fault are loaded, VL is trimmed to `stop`, and a data error among them comes first (R232, R364). The word takes its
effect through the recheck queue, with the data delivered to it (R371). -/
def finishLoad (c : VCtx) (w : MemWord) (ok : List (Nat × List Elem)) (bad : Option (Nat × FRec)) (stop : Option Nat) (s : State) : State :=
  let e := c.e
  let lo := firstEl c.v e
  let ue : Option (Nat × List Elem) := ok.find? (fun p => p.2.any (fun x => (elemErr s e w x).isSome))
  let below : List (Nat × List Elem) := match ue with | some (i, _) => ok.filter (fun p => p.1 < i) | none => ok
  let touched : List (Nat × List Elem) := match ue with | some (i, _) => ok.filter (fun p => p.1 ≤ i) | none => ok
  let r := readElems e w (below.flatMap (·.2)) s
  let s1 := devsDone e (touched.flatMap (·.2)) (updMe (devsIf (touched.flatMap (·.2))) r.2)
  match ue with
  | some (i, xs) =>
    let err := xs.findSome? (fun x => (elemErr s e w x).map (fun k => (k, x.1.va)))
    let f : FRec := { elemRec (err.getD (0, 0)).1 (err.getD (0, 0)).2 with estart := i }
    let fail (s : State) : State := wordDone { reEntry s e 0 with data := r.1, els := r.1.map Prod.fst, fault := some f } (wordCycles s e (i - lo)) (putLoaded c w r.1) s
    -- every frame that an access has reached through a pinning leaf stays pinned (R412)
    let s2 := logElems c (xs.filter (fun x => elemErr s e w x == some cUE_CONSUMED)) (xs.foldl (fun s p => notePin p.2 s) s1)
    if f.code = cUE_CONSUMED then consumeWord e fail s2 else fail s2
  | none =>
    let hi := match stop, bad with | some k, _ => k | none, some (i, _) => i | none, none => e.vl
    let trim (v : Vlc) : Vlc := match stop with | some k => { v with vl := k } | none => v
    let s2 := wordDone { reEntry s1 e 0 with data := r.1, els := r.1.map Prod.fst, fault := bad.map (fun b => { b.2 with estart := b.1 }) } (wordCycles s e (hi - lo))
      (fun v => trim (putLoaded c w r.1 v)) s1
    match stop with
    | some k => trimYounger e k s2
    | none => s2

/-- Elements that reach memory through pinning leaves pin their frames (R412). -/
def pinAll (l : List Elem) (s : State) : State := l.foldl (fun s p => notePin p.2 s) s

/-- A memory word waits at the banks of its accesses (R263). -/
def awaitWord (e : VEntry) (l : List Elem) (s : State) : State := awaitPassed (.word e.vlc e.id) (getVlc s e.vlc).agent (l.map Prod.snd) s

/-- A memory or gather-atomic word executes: every check of every active element first, then the elements below the lowest that fails (R364). Stores and
atomics leave at retirement (R372). -/
def runMem (w : MemWord) (s : State) : State :=
  withWord true (fun e s =>
    let c := vctx s e
    let cls := wordClass w e
    let els := memElems c w
    match firstEmpty c.v c.vlen (els.map Prod.fst) (memReads c w) with
    | some (_, false) => s
    | fe =>
      -- a trapping read of an empty element comes before the element checks; the elements below it that pass take effect (R354, R363; log 51)
      let r1 := scanElems s e w (match fe with | some (i, _) => els.filter (fun p => p.1 < i) | none => els)
      let r0 := (r1.1, match fe, r1.2 with
        | some (i, _), none => some (i, { code := cFE_EMPTY })
        | some _, some (j, _) => some (j, { code := cFE_EMPTY })
        | none, b => b)
      -- a fault-only-first load stops at the first element above 0 that fails or lies in DEV memory (R232)
      let stop := if w.first then
          (match r0.1.find? (fun p => p.1 > 0 && p.2.any (fun x => x.2.dev)) with
            | some p => some p.1
            | none => match r1.2 with | some (i, _) => if i > 0 then some i else none | none => none)
        else none
      let ok := match stop with | some k => r0.1.filter (fun p => p.1 < k) | none => r0.1
      let bad := if stop.isSome then none else r0.2
      let all := ok.flatMap (·.2)
      let acts := all.filter (fun p => !scopeMiss w e.vlc p.2.tgt)
      let rem := remoteOf s w e.vlc all
      let unch := unchecked e rem
      let unld := if w.want == .read then unloaded e rem else []
      let flt := bad.map (fun b => { b.2 with estart := b.1 })
      let cost := wordCycles s e ((match bad with | some (i, _) => i | none => e.vl) - firstEl c.v e)
      if acts.any (elemHeld s e cls) then s
      else if elemsWait s e acts then awaitWord e acts s
      else if !unch.isEmpty then sendElems e cls .probe (w.atomic.getD (if w.store then 9 else 8)) unch s
      else if !unld.isEmpty then sendElems e cls .load 0 unld s
      else if w.atomic.isSome then
        let smm := ok.foldl (fun m p => if p.2.any (fun x => scopeMiss w e.vlc x.2.tgt) then m ||| 2 ^ p.1 else m) e.smm
        let mark (v : Vlc) : Vlc := acts.foldl (fun v p => markElem c.vlen w.vd c.sew p.1.i true v) (devsIf acts v)
        wordDone { reEntry s e 0 with atoms := acts.map (atomOf c w cls), smm := some smm, fault := flt } cost mark (pinAll acts s)
      else if w.store then
        wordDone { reEntry s e 0 with stores := acts.map (storeOf c w cls), fault := flt } cost (devsIf acts) (pinAll acts s)
      else finishLoad c w ok bad stop s) s

/-- `vld`: unit-stride vector load (R231). -/
def execVld (o : VMop) (s : State) : Result := .next (runMem (vmWord o false false) s)

/-- `vldff`: fault-only-first load that trims VL (R232). -/
def execVldff (o : VMop) (s : State) : Result := .next (runMem (vmWord o false true) s)

/-- `vst`: unit-stride vector store (R231). -/
def execVst (o : VMop) (s : State) : Result := .next (runMem (vmWord o true false) s)

/-- `vlds`: strided vector load (R231). -/
def execVlds (o : VMSop) (s : State) : Result := .next (runMem (vmsWord o false) s)

/-- `vsts`: strided vector store (R231). -/
def execVsts (o : VMSop) (s : State) : Result := .next (runMem (vmsWord o true) s)

/-- `vldx`: indexed vector load (R231). -/
def execVldx (o : VMXop) (s : State) : Result := .next (runMem (vmxWord o false) s)

/-- `vstx`: indexed vector store (R231). -/
def execVstx (o : VMXop) (s : State) : Result := .next (runMem (vmxWord o true) s)

/-- `vldseg`: segment load of records into field groups (R233). -/
def execVldseg (o : VSGop) (s : State) : Result := .next (runMem (vsgWord o false) s)

/-- `vstseg`: segment store of field groups as records (R233). -/
def execVstseg (o : VSGop) (s : State) : Result := .next (runMem (vsgWord o true) s)

/-- `vaadd`: gather-atomic add per element (R234). -/
def execVaadd (o : VATop) (s : State) : Result := .next (runMem (vatWord o 0) s)

/-- `vaand`: gather-atomic AND per element (R234). -/
def execVaand (o : VATop) (s : State) : Result := .next (runMem (vatWord o 1) s)

/-- `vaor`: gather-atomic OR per element (R234). -/
def execVaor (o : VATop) (s : State) : Result := .next (runMem (vatWord o 2) s)

/-- `vaxor`: gather-atomic XOR per element (R234). -/
def execVaxor (o : VATop) (s : State) : Result := .next (runMem (vatWord o 3) s)

/-- `vamin`: gather-atomic minimum per element (R234). -/
def execVamin (o : VATop) (s : State) : Result := .next (runMem (vatWord o 4) s)

/-- `vamax`: gather-atomic maximum per element (R234). -/
def execVamax (o : VATop) (s : State) : Result := .next (runMem (vatWord o 5) s)

/-- `vaswap`: gather-atomic swap per element (R234). -/
def execVaswap (o : VATop) (s : State) : Result := .next (runMem (vatWord o 6) s)

/-- `vacas`: gather-atomic compare-and-swap per element (R234). -/
def execVacas (o : VATop) (s : State) : Result := .next (runMem (vatWord o 7) s)

end Sys2Proof.Machine
end

