-- ==== Sys2Proof/Machine/Matrix.lean ====
section
/-! DEFINITION. Matrix slice instructions (R144 to R146, R236 to R252, R374, R375). -/
namespace Sys2Proof.Machine

/-! ### The claim (R237, R244) -/

def updSlice (n : Nat) (f : Slice → Slice) (s : State) : State :=
  updVault (vaultOf n) (fun v => { v with slice := f v.slice }) s

/-- Whether a word of VLC `n` older than `id` that the slice rechecks has not retired, or any older word when `all` holds (R371). -/
def sliceBusy (s : State) (n : Nat) (all : Bool) : Bool :=
  (rqOf s n).any (fun r => all || (shapeOf r.e.instr).matrix)

/-- VLC `n` receives a fresh claim: slots and accumulators 0, PREC and MSTAT at their reset values (R237). -/
def takeClaim (n : Nat) (s : State) : State :=
  updSlice n (fun l => { holder := some n, queue := l.queue.filter (· != n) }) s

/-- Whether a saved context of the launch of VLC `n`, other than `n`'s own, holds a claim on its vault (R237). -/
def savedClaim (s : State) (n : Nat) : Bool :=
  let v := getVlc s n
  s.launches.any (fun l => l.vi == v.vi && l.seq == v.seq && !v.resident && l.saved.any (fun x => x.ctx.mheld && vaultOf x.vlcNo == vaultOf n))

/-- The first request of a vault that may be granted (R237). A context that is being restored with its claim is not held back by itself,
and a request that a saved claim holds back does not hold back those of other launches behind it (DESIGN CHOICE, log 66). -/
def nextClaim (s : State) (vault : Nat) : Option Nat :=
  let l := (getVault s vault).slice
  if l.holder.isSome then none else l.queue.find? (fun n => ((getVlc s n).status == .restoring && (getVlc s n).mheld) || !savedClaim s n)

/-- VLC `n` joins the requests for the claim of its vault (R237). -/
def askClaim (n : Nat) (s : State) : State :=
  updVault (vaultOf n) (fun v => { v with
    slice := { v.slice with queue := v.slice.queue ++ [n] }, claimAt := if coreOf n % 2 = 1 then s.cyc + 1 else v.claimAt }) s

/-- CLAIM_GRANT: a free slice passes to the first request that may be granted (R237). -/
def execClaimGrant (vault : Nat) (s : State) : Result :=
  .next (match nextClaim s vault with
    | some n => if (getVlc s n).status = .restoring then s else takeClaim n s
    | none => s)

/-- Runs a matrix word: without the claim it raises ILLEGAL (R244). It waits for the recheck of older words of the slice, or of every older word when
it retires as it executes. -/
def withClaim (all : Bool) (k : VEntry → State → State) (s : State) : State :=
  withWord (!all) (fun e s =>
    if !holdsClaim s e.vlc then vecFault e { code := cILLEGAL } true s
    else if sliceBusy s e.vlc all then s
    else k e s) s

/-- A word that retires as it executes leaves the VIQ; ESTART is 0, and its slice cycles are charged (R243, R253, R371). -/
def retireNow (e : VEntry) (cost : Nat) (s : State) : State :=
  dropWord e (updVlc e.vlc (fun v => { v with estart := 0, cost := v.cost + cost }) s)

/-- Slice cycles of a multiply-accumulate over `m` rows and `k` terms of widths `wa` and `wb` (R150). -/
def macCycles (m k wa wb : Nat) : Nat := cdiv (m * 32 * k * wa * wb) 65536

/-- The residue of an accumulator: its pattern read as `i32`, mod 3 (R374). -/
def resOf (w : BitVec 32) : BitVec 2 := BitVec.ofNat 2 (w.toInt % 3).toNat

/-- Writes accumulators with their residues (R374). -/
def putAccs (l : Slice) (ws : List (Nat × BitVec 32)) : Slice :=
  ws.foldl (fun l x => { l with c := tset 0 l.c x.1 x.2, rho := tset 0 l.rho x.1 (resOf x.2) }) l

/-- The accumulators become `c`, their residues computed again (R374). -/
def loadAccs (c : Tbl (BitVec 32)) (l : Slice) : Slice := { l with c := c, rho := c.foldr (fun p t => tset 0 t p.1 (resOf p.2)) [] }

/-- `mclaim` (R237, R247): the holder goes on, charged as for a grant (R253; DESIGN CHOICE, log 50); another VLC waits for its grant. A request of core 0 in a cycle in which core 1 has made one counts for the
next cycle. -/
def execMclaim (s : State) : Result :=
  .next (withWord false (fun e s =>
    let l := sliceOf s e.vlc
    if sliceBusy s e.vlc true then s
    else if l.holder = some e.vlc then retireNow e 96 s
    else if !l.queue.contains e.vlc && coreOf e.vlc % 2 == 0 && (getVault s (vaultOf e.vlc)).claimAt == s.cyc + 1 then s
    else
      let s1 := if l.queue.contains e.vlc then s else askClaim e.vlc s
      if nextClaim s1 (vaultOf e.vlc) = some e.vlc then retireNow e 96 (takeClaim e.vlc s1) else s1) s)

/-- `mrel`: waits for earlier matrix words, then ends the claim; without one it does nothing (R244, R247). -/
def execMrel (s : State) : Result :=
  .next (withWord false (fun e s => if sliceBusy s e.vlc true then s else retireNow e 1 (endClaim e.vlc s)) s)

/-- `mprec` (R246). -/
def execMprec (_xa : XReg) (_fa : Bool) (s : State) : Result :=
  .next (withClaim true (fun e s => retireNow e 1 (updSlice e.vlc (fun l => { l with prec := e.xa }) s)) s)

/-- MSTAT with FSET and SAT 0 (R146, R247). -/
def clearSet (m : Word) : Word := wN (putFld (putFld m.toNat 6 1 0) 7 1 0)

/-- `mzero` (R146, R247). -/
def execMzero (s : State) : Result :=
  .next (withClaim true (fun e s => retireNow e 4 (updSlice e.vlc (fun l => { l with c := [], rho := [], mstat := clearSet l.mstat }) s)) s)

/-! ### mldb (R248, R365) -/

/-- The store of a PA: 0 a VS, 1 a QS, 2 an SS, with its vault; none elsewhere. -/
def scratchOf (pa : Nat) : Option (Nat × Nat) :=
  if isVs pa then some (0, paMVault pa) else if isQs pa then some (1, paMVault pa) else if isSs pa then some (2, paMVault pa) else none

/-- The first byte of each page part of `[a, a+n)`. -/
def pageStarts (a n : Nat) : List Nat :=
  a :: ((upto ((a + n - 1) / 4096 - a / 4096)).map (fun j => (a / 4096 + j + 1) * 4096))

/-- The checks of an engine-side range in a scratchpad: translation of each page, one store, page permission `perm`, tile owner bits (R248, R288).
A range in the remote aperture has no translation (DESIGN CHOICE, log 67). -/
def scratchRange (s : State) (w : Who) (a n : Nat) (perm : Page → Bool) : Except (Nat × Nat) (List Page) :=
  let st := pageStarts a n
  let ps := st.map (fun x => (x, pageOf s w x))
  match ps.find? (fun p => p.2.isNone) with
  | some p => .error (cTRANSLATION, p.1)
  | none =>
    let pg := ps.filterMap (fun p => p.2.map (fun q => (p.1, q)))
    let first := pg.head?.map (fun p => scratchOf p.2.pa)
    match pg.find? (fun p => (scratchOf p.2.pa).isNone || some (scratchOf p.2.pa) != first) with
    | some p => .error (cPROTECTION, p.1)
    | none =>
      match pg.find? (fun p => !perm p.2) with
      | some p => .error (cPROTECTION, p.1)
      | none =>
        match pg.find? (fun p => !isMbox s p.2.pa && tileBit s p.2.pa) with
        | some p => .error (cTILE_OWNER, p.1)
        | none => .ok (pg.map Prod.snd)

/-- The checks of `mldb` in the order of R248. -/
def mldbCheck (s : State) (n a : Nat) : Except (Nat × Nat) (List Page) :=
  if a ≥ 72057594037927936 then .error (cTRANSLATION, a)
  else if a % 64 ≠ 0 then .error (cALIGN, a)
  else scratchRange s (whoOf s n) a 6144 (fun p => p.rd)

/-- `mldb` (R248): every check first, then slot S holds the 6,144 bytes. -/
def execMldb (o : MLDop) (s : State) : Result :=
  .next (withClaim false (fun e s =>
    let w : MemWord := { mode := .slot o.slot.toNat, fa := o.fa, cls := o.cls }
    match mldbCheck s e.vlc e.xa.toNat with
    | .error (c, a) => vecFault e { code := c, addr := if c = cALIGN then e.xa.toNat else a } false s
    | .ok _ =>
      let cls := wordClass w e
      let els := (elemAccs w e.xa e.xb 64 0 0).filterMap (fun x => (pageOf s (whoOf s e.vlc) x.va).map (fun p => (x, pagePassed s (whoOf s e.vlc) x.va p)))
      if els.any (elemHeld s e cls) then s
      else if elemsWait s e els then awaitWord e els s
      else
        match els.find? (fun x => (elemErr s e w x).isSome) with
        | some x =>
          let pa := match x.2.tgt with | .loc pa => pa | _ => 0
          consumeWord e (vecFault e { code := cUE_CONSUMED, addr := x.1.va } false)
            (logUe pa 8 (getVlc s e.vlc).agent s)
        | none =>
          let r := readElems e w els s
          let val := r.1.foldr (fun x a => a * 2 ^ 64 + x.2.2) 0
          wordDone { reEntry s e 0 with data := r.1 } 96 id (updSlice e.vlc (fun l => { l with b := tset 0 l.b o.slot.toNat (BitVec.ofNat 49152 val) }) r.2)) s)

/-! ### Tiles (R239 to R241) -/

/-- ext(v, w, u) of R241. -/
def extF (v w : Nat) (u : Bool) : Int := if u then (v % 2 ^ w : Nat) else sx w v

/-- The T2 value of a packed code (R132). -/
def t2Val (c : Nat) : Int := match c % 4 with | 1 => 1 | 3 => -1 | _ => 0

/-- Rows of A: 1,536-bit strings of the group named by `va`. -/
def rowStr (str r : Nat) : Nat := fld str (1536 * r) 1536

/-- Number of rows M of a word, none when VL × SEW is not a multiple of 1,536 (R239, R244). -/
def rowCount (e : VEntry) : Option Nat := let n := e.vl * sewBits e.sew; if n % 1536 = 0 then some (n / 1536) else none

/-- Accumulator C[r][c]. -/
def accN (l : Slice) (r c : Nat) : Nat := (tget 0 l.c (32 * r + c)).toNat

/-- A group that a matrix word reads or writes over M rows: its register, whether reading it empty traps, and the bytes of its bit string that the word
uses. -/
structure MRead where
  r : Nat
  fe : Bool := false
  uses : Slice → Nat → Nat → Bool

/-- Runs a matrix word that reads M rows: its VL must give whole rows (R244); an empty element among those it reads makes it wait or raises FE_EMPTY
(R204, R241). -/
def withRows (all : Bool) (reads : List MRead) (k : VEntry → Nat → VCtx → State → State) (s : State) : State :=
  withClaim all (fun e s =>
    match rowCount e with
    | none => vecFault e { code := cILLEGAL } true s
    | some m =>
      let c := vctx s e
      let hit := reads.filter (fun p => bytesEmpty c.v c.vlen p.r (p.uses (sliceOf s e.vlc) m))
      if hit.any (fun p => p.fe) then vecFault e { code := cFE_EMPTY } false s
      else if !hit.isEmpty then s
      else k e m c s) s

/-! ### Integer multiply-accumulate (R146, R249, R375) -/

/-- The alignment of R146 of an exact sum at fraction position `f` to `p`: the aligned sum, and whether it saturated. -/
def alignSum (q : Int) (f p : Nat) : Int × Bool :=
  if f > p then (rshr q (f - p) 0, false)
  else let x := q * (2 ^ (p - f) : Nat); (satI x 32, satI x 32 != x)

/-- Folds an aligned sum into an accumulator: the new pattern, and whether anything saturated (R146). -/
def foldAcc (old : Nat) (q : Int) (f p : Nat) : Nat × Bool :=
  let a := alignSum q f p
  let x := sx 32 old + a.1
  (tr 32 (satI x 32), a.2 || satI x 32 != x)

/-- The fields of an integer row or column. -/
def intFields (str w k : Nat) (u : Bool) : List Int := (upto k).map (fun j => extF (elemN str w j) w u)
def t2Fields (str k : Nat) : List Int := (upto k).map (fun j => t2Val (elemN str 2 j))

/-- Σ a × b. -/
def dot (a b : List Int) : Int := (List.zipWith (· * ·) a b).foldl (· + ·) 0

/-- What an error adds at place `k` of the datapath for accumulator `i`. -/
def slipAt (x : Option (Nat × Nat × Int)) (k i : Nat) : Int := match x with | some (p, j, e) => if p = k ∧ j = i then e else 0 | none => 0

/-- One accumulator of an integer multiply-accumulate. -/
structure AccStep where
  new : Nat
  sat : Bool
  good : Bool
  deriving DecidableEq, Repr

/-- The update of accumulator `i` by the row `a` and column `b`, with the three checks of R375: the exact sum by the residues of the fields, the main
shifter by its duplicate, and the new accumulator by its residue unless it saturated (R146, R375). -/
def accStep (l : Slice) (f pos i : Nat) (a b : List Int) : AccStep :=
  let q := dot a b + slipAt l.slip 0 i
  let dup := alignSum q f pos
  let main := dup.1 + slipAt l.slip 1 i
  let x := sx 32 (accN l (i / 32) (i % 32)) + main
  let new := BitVec.ofInt 32 (satI x 32 + slipAt l.slip 2 i)
  let sat := dup.2 || satI x 32 != x
  {
    new := new.toNat, sat := sat,
    good := q % 3 == dot (a.map (· % 3)) (b.map (· % 3)) % 3 && main == dup.1 &&
      (sat || (resOf new).toNat == ((tget 0 l.rho i).toNat + (main % 3).toNat) % 3) }

/-- Widths of A and B, the terms K and the fraction position f of an integer multiply-accumulate (R241, R249). -/
def mmaWa (l : Slice) : Nat := fld l.prec.toNat 0 5
def mmaWb (t2 : Bool) (l : Slice) : Nat := if t2 then 2 else fld l.prec.toNat 16 5
def mmaK (t2 : Bool) (l : Slice) : Nat := 1536 / max (mmaWa l) (mmaWb t2 l)
def mmaF (l : Slice) : Nat := fld l.prec.toNat 5 5 + fld l.prec.toNat 21 5
/-- The fraction position P of the accumulators during the word (R146). -/
def mmaPos (l : Slice) : Nat := if bitN l.mstat.toNat 6 then fld l.mstat.toNat 0 6 else mmaF l

/-- The accumulators of `mma` and `mmat`: M rows of A, slot `sl` (R241, R249). -/
def mmaSteps (t2 : Bool) (m str sl : Nat) (l : Slice) : List (Nat × AccStep) :=
  let p := l.prec.toNat
  let k := mmaK t2 l
  let bs := (tget 0 l.b sl).toNat
  let cols := (upto 32).map (fun c => let s := rowStr bs c; if t2 then t2Fields s k else intFields s (mmaWb t2 l) k (bitN p 26))
  let rows := (upto m).map (fun r => intFields (rowStr str r) (mmaWa l) k (bitN p 10))
  rows.zipIdx.flatMap (fun (a, r) => cols.zipIdx.map (fun (b, c) => (32 * r + c, accStep l (mmaF l) (mmaPos l) (32 * r + c) a b)))

/-- The slice after those updates: accumulators, residues and MSTAT (R146, R374). -/
def mmaSlice (res : List (Nat × AccStep)) (l : Slice) : Slice :=
  let ms := l.mstat.toNat
  { putAccs l (res.map (fun x => (x.1, BitVec.ofNat 32 x.2.new))) with
    slip := none, mstat := wN (putFld (putFld (putFld ms 0 6 (mmaPos l)) 6 1 1) 7 1 (b2n (res.any (fun x => x.2.sat) || bitN ms 7))) }

/-- An integer multiply-accumulate word. After a failed check the accumulators of its rows hold free values, and an error is consumed (R375, R380;
log 4). -/
def runMma (t2 : Bool) (o : MMop) (s : State) : State :=
  withRows true [{ r := o.va.toNat, fe := o.fa, uses := fun l m b => decide (b < 192 * m ∧ 8 * (b % 192) < mmaK t2 l * mmaWa l) }] (fun e m c s =>
    let l := sliceOf s e.vlc
    let res := mmaSteps t2 m (c.str o.va.toNat c.g) o.slot.toNat l
    if m = 0 then retireNow e 0 s
    else
      let s1 := updSlice e.vlc (mmaSlice res) s
      if res.all (fun x => x.2.good) then retireNow e (macCycles m (mmaK t2 l) (mmaWa l) (mmaWb t2 l)) s1
      else
        let s2 := updSlice e.vlc (fun l => putAccs l ((upto (32 * m)).map (fun i => (i, Config.freeAcc s.fresh (i / 32) (i % 32))))) s1
        consumeWord e (vecFault e { code := cUE_CONSUMED } false) { s2 with fresh := s2.fresh + 1 }) s

/-- `mma` (R249). -/
def execMma (o : MMop) (s : State) : Result := .next (runMma false o s)

/-- `mmat` (R249). -/
def execMmat (o : MMop) (s : State) : Result := .next (runMma true o s)

/-! ### Floating multiply-accumulate (R250) -/

/-- The values of a row or column under FMT (R241). -/
def fpFields (fmt str : Nat) : List FV :=
  match fmt with
  | 0 => (upto 96).map (fun k => decF 7 (elemN str 16 k))
  | 1 => (upto 186).map (fun k => dxbElem false (elemN str 256 (k / 31)) (k % 31))
  | _ => (upto 360).map (fun k => dxbElem true (elemN str 128 (k / 30)) (k % 30))

/-- Terms K of a row under FMT (R241). -/
def fpTerms (fmt : Nat) : Nat := match fmt with | 0 => 96 | 1 => 186 | _ => 360

/-- The new value of one accumulator: the sum of the old one and the products, in RMODE (R148, R250). -/
def mmafAcc (e : VEntry) (lanes old : Nat) (a b : List FV) : FRes :=
  let ps := List.zipWith mulV a b
  let r := fSum 0xE6 23 e.rm e.vl e.sew e.grp lanes (decF 23 old :: ps.map Prod.fst)
  (r.1, ps.foldl (fun f p => f ||| p.2) r.2)

/-- `mmaf` (R250). -/
def execMmaf (o : MMop) (s : State) : Result :=
  .next (withRows false [{ r := o.va.toNat, fe := o.fa, uses := fun _ m b => decide (b < 192 * m) }] (fun e m c s =>
    let l := sliceOf s e.vlc
    let fmt := fld l.prec.toNat 32 2
    let str := c.str o.va.toNat c.g
    let bs := (tget 0 l.b o.slot.toNat).toNat
    let cols := (upto 32).map (fun j => fpFields fmt (rowStr bs j))
    let res := (upto m).flatMap (fun r =>
      let a := fpFields fmt (rowStr str r)
      cols.zipIdx.map (fun (b, j) => (32 * r + j, mmafAcc e (c.vlen / 192) (accN l r j) a b)))
    let fl := res.foldl (fun f x => f ||| x.2.2) 0
    wordDone (reEntry s e fl) (macCycles m (fpTerms fmt) 8 8) id
      (updSlice e.vlc (fun l => putAccs l (res.map (fun x => (x.1, BitVec.ofNat 32 x.2.1)))) s)) s)

/-! ### Scaling and conversion (R251, R252) -/

/-- Scale `j` of a group: an FP32 word, or the 2^(H − 15) of a DXB scale byte (R251). -/
def scaleOf (sfmt : Bool) (str j : Nat) : FV :=
  if sfmt then .fin false 1 ((fld str (8 * j + 3) 5 : Nat) - 15) else decF 23 (elemN str 32 j)

/-- Bytes of a scale. -/
def scaleBytes (sfmt : Bool) : Nat := if sfmt then 1 else 4

/-- `mscale`: the exact product of accumulator, row scale and column scale, rounded once (R251). -/
def execMscale (o : MSCop) (s : State) : Result :=
  .next (withRows false [{ r := o.va.toNat, fe := o.fa, uses := fun _ m b => decide (b < scaleBytes o.sfmt * m) },
      { r := o.vb.toNat, fe := o.fb, uses := fun _ m b => decide (m ≠ 0 ∧ b < scaleBytes o.sfmt * 32) }] (fun e m c s =>
    let l := sliceOf s e.vlc
    let ra := c.str o.va.toNat c.g
    let rb := c.str o.vb.toNat c.g
    let res := (upto (32 * m)).map (fun i =>
      let old := accN l (i / 32) (i % 32)
      let x := if o.src then decF 23 old else .fin (sx 32 old < 0) (sx 32 old).natAbs (-(fld l.mstat.toNat 0 6 : Nat))
      let y := mulV x (scaleOf o.sfmt ra (i / 32))
      let z := mulV y.1 (scaleOf o.sfmt rb (i % 32))
      let q := withFlags 23 e.rm (z.1, z.2 ||| y.2)
      (i, q))
    wordDone (reEntry s e (res.foldl (fun f x => f ||| x.2.2) 0)) m id
      (updSlice e.vlc (fun l => putAccs l (res.map (fun x => (x.1, BitVec.ofNat 32 x.2.1)))) s)) s)

/-- Width of a field of `mcvt` under OFMT 0 to 6. -/
def mcvtWidth (f : Nat) : Nat := match f with | 0 => 8 | 3 => 8 | 1 => 16 | 4 => 16 | 5 => 16 | _ => 32

/-- One field of `mcvt` under OFMT 0 to 6 (R252). -/
def mcvtField (f n rm acc : Nat) : FRes :=
  match f with
  | 5 => fNarrow rm acc
  | 6 => (acc, 0)
  | 3 => usatF (rshr (sx 32 acc) n rm) 8
  | 4 => usatF (rshr (sx 32 acc) n rm) 16
  | _ => satF (rshr (sx 32 acc) n rm) (mcvtWidth f)

/-- The fields that `mcvt` writes, their width and the flags (R252). -/
def mcvtOut (l : Slice) (m f n rm : Nat) : List (Nat × FRes) × Nat :=
  if f < 7 then ((upto (32 * m)).map (fun i => (i, mcvtField f n rm (accN l (i / 32) (i % 32)))), mcvtWidth f)
  else
    let four := f == 8
    let per := dxbPer four
    ((upto (cdiv (32 * m) per)).map (fun b =>
      (b, dxbPack four (n + 1) rm ((upto per).map (fun j =>
        if per * b + j < 32 * m then decF 23 (accN l ((per * b + j) / 32) ((per * b + j) % 32)) else .fin false 0 0)))), dxbBits four)

/-- Bits of the destination that `mcvt` writes. -/
def mcvtBits (m f : Nat) : Nat := if f < 7 then 32 * m * mcvtWidth f else cdiv (32 * m) (dxbPer (f == 8)) * dxbBits (f == 8)

/-- `mcvt` (R252). -/
def execMcvt (o : MCVop) (s : State) : Result :=
  .next (withRows false [{ r := o.vd.toNat, uses := fun _ m b => decide (8 * b < mcvtBits m o.ofmt.toNat) }] (fun e m c s =>
    let r := mcvtOut (sliceOf s e.vlc) m o.ofmt.toNat o.n.toNat e.rm
    wordDone (reEntry s e (r.1.foldl (fun f x => f ||| x.2.2) 0)) m
      (c.put o.vd.toNat c.g r.2 (r.1.map (fun x => (x.1, x.2.1)))) s) s)

end Sys2Proof.Machine
end

