-- ==== Sys2Proof/Machine/CopyData.lean ====
section
/-! DEFINITION. Copies as data: the descriptor, the places of its positions, the conversions and the movement of one unit (R283 to R288, R291). -/
namespace Sys2Proof.Machine

/-! ### The descriptor (R283) -/

/-- One dimension of a descriptor. -/
structure Dim where
  sstr : Int
  dstr : Int
  bound : Nat
  lpad : Nat
  upad : Nat
  deriving DecidableEq, Repr

/-- A copy descriptor. -/
structure Desc where
  src : Nat
  dst : Nat
  fill : Nat
  sfmt : Nat
  dfmt : Nat
  slay : Bool
  dlay : Bool
  ret : Bool
  gap : Nat
  bar : Nat
  ben : Bool
  bcr : Bool
  idxlim : Nat
  mod : Nat
  rvi : Nat
  route : Nat
  port : Nat
  idx : Nat
  iw : Nat
  dupm : Nat
  ndim : Nat
  dims : List Dim
  deriving DecidableEq, Repr

/-- Dword `i` of a list of dwords. -/
def dw (l : List Nat) (i : Nat) : Nat := l.getD i 0

/-- The fields of the 32 dwords of a descriptor. -/
def readDesc (l : List Nat) : Desc :=
  let f := dw l 3
  let b := dw l 4
  let r := dw l 5
  {
    src := dw l 0, dst := dw l 1, fill := dw l 2, sfmt := fld f 0 4, dfmt := fld f 4 4, slay := bitN f 8, dlay := bitN f 9,
    ndim := fld f 10 3, ret := bitN f 13, gap := fld f 14 3, bar := fld b 0 56, ben := bitN b 56, bcr := bitN b 57,
    idxlim := fld r 0 32, mod := fld r 0 16, rvi := fld r 16 8, route := fld r 24 2, port := fld r 26 2, idx := fld (dw l 6) 0 56,
    iw := fld (dw l 6) 56 2, dupm := fld (dw l 7) 0 56,
    dims := (upto (fld f 10 3)).map (fun d =>
      { sstr := sx 64 (dw l (8 + 4 * d)), dstr := sx 64 (dw l (9 + 4 * d)), bound := fld (dw l (10 + 4 * d)) 0 32,
        lpad := fld (dw l (10 + 4 * d)) 32 16, upad := fld (dw l (10 + 4 * d)) 48 16 }) }

/-! ### Formats (R284, R286) -/

/-- Bytes of an element; of a block for DXB; of four elements for packed T2. -/
def fmtBytes (f : Nat) : Nat :=
  match f with
  | 0 => 1 | 1 => 2 | 2 => 4 | 3 => 8 | 4 => 1 | 5 => 2 | 6 => 4 | 7 => 2 | 8 => 4 | 9 => 32 | 10 => 16 | _ => 1

/-- Planes of a bank-striped element; 0: the format has none. -/
def fmtPlanes (f : Nat) : Nat :=
  match f with
  | 0 => 8 | 1 => 16 | 4 => 8 | 5 => 16 | 7 => 16 | 11 => 2 | _ => 0

def fmtInt (f : Nat) : Bool := f ≤ 6
def fmtSigned (f : Nat) : Bool := f == 4 || f == 5 || f == 6
def fmtFloat (f : Nat) : Bool := f == 7 || f == 8
def fmtDxb (f : Nat) : Bool := f == 9 || f == 10
/-- Mantissa bits of BF16 and FP32. -/
def fmtMant (f : Nat) : Nat := if f = 7 then 7 else 23
/-- Elements of a DXB block. -/
def fmtPer (f : Nat) : Nat := dxbPer (f == 10)

/-- Pairs that R286 lists. -/
def pairOk (s d : Nat) : Bool :=
  s ≤ 11 && d ≤ 11 &&
    (s == d || (fmtInt s && fmtInt d && s != 3 && d != 3) || (fmtInt s && fmtFloat d) || (fmtFloat s && fmtInt d) ||
      (fmtFloat s && fmtFloat d) || (fmtFloat s && fmtDxb d) || (fmtDxb s && fmtFloat d) || (s == 11 && fmtInt d) || (fmtInt s && d == 11))

/-- Saturates an integer to an integer format. -/
def satTo (f : Nat) (v : Int) : FRes := if fmtSigned f then satF v (8 * fmtBytes f) else usatF v (8 * fmtBytes f)

/-- convert() of R286 for an element that is not in a DXB block. Between equal formats every element keeps its bits, the code 0b10 of T2 among them
(DESIGN CHOICE, log 80: R132 has the device never write that code). -/
def convElem (s d rm raw : Nat) : FRes :=
  if s = d then (raw, 0)
  else if fmtInt s then
    let v : Int := if fmtSigned s then sx (8 * fmtBytes s) raw else (raw : Int)
    if fmtInt d then satTo d v
    else if fmtFloat d then fOfInt (fmtMant d) rm v
    else
      let c : Int := min (max v (-1)) 1
      (if c = 1 then 1 else if c = -1 then 3 else 0, flagIf (c != v) fSX)
  else if fmtFloat s then
    if fmtInt d then fToInt (fmtSigned d) (8 * fmtBytes d) (fmtMant s) rm raw
    else if s = 8 then fNarrow rm raw else fWiden raw
  else satTo d (t2Val raw)

/-! ### Positions (R285, R287) -/

/-- Positions of a dimension on the destination side. -/
def Dim.count (d : Dim) : Nat := d.lpad + d.bound + d.upad

/-- Number of destination positions. -/
def Desc.positions (d : Desc) : Nat := d.dims.foldl (fun n x => n * x.count) 1

/-- Coordinates of position `p` in linear order, c0 fastest. -/
def coordsOf : List Dim → Nat → List Nat
  | [], _ => []
  | d :: ds, p => p % max 1 d.count :: coordsOf ds (p / max 1 d.count)

/-- Source coordinates of a position, or none for a fill position. -/
def srcCoords (ds : List Dim) (c : List Nat) : Option (List Nat) :=
  if (ds.zip c).all (fun p => p.1.lpad ≤ p.2 && p.2 < p.1.lpad + p.1.bound) then some ((ds.zip c).map (fun p => p.2 - p.1.lpad)) else none

/-- Sum of x_d × STR_d. -/
def sumStr (strs : List Int) (xs : List Nat) : Int := (List.zipWith (fun (s : Int) (x : Nat) => s * x) strs xs).foldl (· + ·) 0

/-- Address of a position on a linear side: of its element, of its byte for T2, of its block for DXB. -/
def linAddr (f base : Nat) (strs : List Int) (xs : List Nat) : Int :=
  let x0 := xs.headD 0
  if f = 11 then base + sumStr strs.tail xs.tail + (x0 / 4 : Nat)
  else if fmtDxb f then base + sumStr strs.tail xs.tail + (x0 / fmtPer f * fmtBytes f : Nat)
  else base + sumStr strs xs

def Desc.sstrs (d : Desc) : List Int := d.dims.map Dim.sstr
def Desc.dstrs (d : Desc) : List Int := d.dims.map Dim.dstr

/-- Least and greatest value of a sum of strides over counts. -/
def spread (l : List (Int × Nat)) : Int × Int :=
  l.foldl (fun a p => let e := p.1 * ((p.2 - 1 : Nat) : Int); (a.1 + min e 0, a.2 + max e 0)) (0, 0)

/-- Extent of a linear side: least address and the address after the last byte (R288). -/
def linExtent (f base : Nat) (l : List (Int × Nat)) : Int × Int :=
  let b := fmtBytes f
  let t : Int × Int := if f = 11 ∨ fmtDxb f = true then
      let n := match l with | p :: _ => p.2 | [] => 1
      let u := if f = 11 then 4 else fmtPer f
      let r := spread l.tail
      (r.1, r.2 + (((n - 1) / u * b : Nat) : Int))
    else spread l
  ((base : Int) + t.1, (base : Int) + t.2 + (b : Int))

/-- Least and greatest lane of a striped side. -/
def laneRange (l : List (Int × Nat)) : Int × Int := spread l

def Desc.srcCounts (d : Desc) : List (Int × Nat) := d.dims.map (fun x => (x.sstr, x.bound))
def Desc.dstCounts (d : Desc) : List (Int × Nat) := d.dims.map (fun x => (x.dstr, x.count))

/-- Positions that one unit of movement covers: a packed byte, a block, or one element. -/
def Desc.per (d : Desc) : Nat := if d.dlay then 1 else if d.dfmt = 11 then 4 else if fmtDxb d.dfmt then fmtPer d.dfmt else 1

/-- Bits of the destination that a unit writes. -/
def Desc.unitBits (d : Desc) : Nat := if d.dlay then fmtPlanes d.dfmt else 8 * fmtBytes d.dfmt

/-- Units of data, and destination bytes of data. -/
def Desc.units (d : Desc) : Nat := d.positions / d.per
def Desc.dataBytes (d : Desc) : Nat := cdiv (d.units * d.unitBits) 8

/-- Bytes of the duplicate mask of a gather (R291). -/
def Desc.dupBytes (d : Desc) (gather : Bool) : Nat := if gather && d.dupm != 0 then cdiv ((d.dims.head?.map Dim.bound).getD 0) 8 else 0

/-- Destination size in bytes. -/
def Desc.destBytes (d : Desc) (gather : Bool) : Nat := d.dataBytes + d.dupBytes gather

/-- Destination bytes performed when `u` data units have moved. -/
def Desc.bytesAt (d : Desc) (u : Nat) : Nat := if u ≥ d.units then d.dataBytes else u * d.unitBits / 8

/-! ### Engine accesses (R78, R80, R83, R86, R93, R288) -/

/-- The checks of an engine access of `n` bytes as it performs: its PA, or a fault code. Copies never access DEV memory; a home region is read only by
aligned accesses of at most 8 bytes (R93). -/
def engCheck (s : State) (agent : Nat) (w : Who) (va n : Nat) (k : Want) (fine : Bool := true) : Except Nat Nat :=
  match pageOf s w va with
  | none => .error cTRANSLATION
  | some p =>
    if p.dev || (k == .read && !p.rd) || (k == .write && (!p.wr || isIstore p.pa)) || (!p.cc && nbMarked s p.pa) then .error cPROTECTION
    else if isScratch p.pa && !isMbox s p.pa && !tileBit s p.pa then .error cTILE_OWNER
    else if paDram p.pa then
      match (upto (cdiv n 8)).findSome? (fun i => tokenCheck s agent (p.pa + 8 * i) k (fine && fineAt p.pa n)) with
      | some c => .error c
      | none => if k == .write && isLost s p.pa then .error cUE_CONSUMED else .ok p.pa
    else .ok p.pa

/-- The parts of `n` bytes at a VA that lie in one tile or page each: an element of a gather may cross into the next (R291). -/
def pageParts (va n : Nat) : List (Nat × Nat) :=
  if va % 4096 + n ≤ 4096 then [(va, n)] else [(va, 4096 - va % 4096), (va / 4096 * 4096 + 4096, n - (4096 - va % 4096))]

/-- The checks of a read of `n` bytes, part by part: a fault code, or the VA, PA and size of each part. -/
def engParts (s : State) (agent : Nat) (w : Who) (va n : Nat) : Except Nat (List (Nat × Nat × Nat)) :=
  (pageParts va n).mapM (fun p => (engCheck s agent w p.1 p.2 .read (p.2 == n)).map (fun pa => (p.1, pa, p.2)))

/-- The frame of a bank-striped side and its plane origin, with the CC leaf's permissions checked. -/
def stripeBase (s : State) (w : Who) (base : Nat) (k : Want) : Except Nat (Nat × Nat) :=
  match pageOf s w base with
  | none => .error cTRANSLATION
  | some p =>
    if !p.cc || (k == .read && !p.rd) || (k == .write && !p.wr) then .error cPROTECTION
    else .ok (frameBase p.pa, p.pa % 2097152 / 8192)

/-- PA of the byte of lane `k` in row `r` of a frame (R84). -/
def laneByte (frame r k : Nat) : Nat := frame + r * 8192 + k / 8

/-- A free value of `n` bytes. -/
def freeBytes (s : State) (n : Nat) : Nat :=
  (upto (cdiv n 8)).foldr (fun i a => a * 2 ^ 64 + (Config.freeWord (s.fresh + i)).toNat) 0 % 2 ^ (8 * n)

/-- What an access gave: an error code, a value, or nothing yet: its banks do not serve it now. -/
inductive Got where
  | bad (code : Nat)
  | busy (at_ : List Passed)
  | val (v : Nat)
  deriving DecidableEq, Repr

/-- An operation as what waits at a bank: one of this module, or a request of a peer (R264). -/
def Op.waiter (o : Op) : Waiter := if o.vlc = 1536 then .peer o.id else .op o.id

/-- An access of an engine to `pa`, named by `va`, with the walk that it needs. -/
def engPassed (s : State) (w : Who) (va pa : Nat) : Passed := { tgt := .loc pa, dev := false, cc := false, walk := tableReads s w.vi va, made := madeFor s w.vi va }

/-- Whether accesses of an engine wait, as far as banks, locks and walks go (R263, R264, R268, R396). `g` is the state in which the chunk began: what the chunk
does at a bank counts as one access of it (log 57). -/
def engWaits (g : State) (o : Op) (l : List Passed) : Bool :=
  !bankTurn g o.waiter o.agent (l.flatMap (fun p => p.tgt.here)) || l.any (fun p => walkWaits g p.walk)

/-- The operation waits at the banks of `l`, and its walks go on (R263, R398). -/
def awaitEng (o : Op) (l : List Passed) (s : State) : State := awaitPassed o.waiter o.agent l s

/-- What an operation reads in words that it has written itself: of each 8-byte word the old value or the new one, and which is free (R285; log 4). -/
def ownRead (o : Op) (pa n v : Nat) (s : State) : Nat × State :=
  (upto (cdiv (pa % 8 + n) 8)).foldl (fun acc i =>
    let word := pa / 8 + i
    match tget none o.old word with
    | none => acc
    | some x =>
      let old := (upto n).foldl (fun a j => if (pa + j) / 8 = word then putFld a (8 * j) 8 (fld x (8 * ((pa + j) % 8)) 8) else a) acc.1
      (if bitN (Config.freeWord acc.2.fresh).toNat 0 then old else acc.1, { acc.2 with fresh := acc.2.fresh + 1 })) (v, s)

/-- Reads one part of an access that has passed its checks. -/
def partRead (o : Op) (w : Who) (va pa n : Nat) (s : State) : Got × State :=
  match readMem pa n o.agent (notePinVa w va s) with
  | (none, s1) => (.bad cUE_CONSUMED, s1)
  | (some v, s1) => let r := ownRead o pa n v s1; (.val r.1, r.2)

/-- Reads parts in turn, the lowest bytes first. -/
def readParts (o : Op) (w : Who) : List (Nat × Nat × Nat) → State → Got × State
  | [], s => (.val 0, s)
  | (va, pa, n) :: ps, s =>
    match partRead o w va pa n s with
    | (.val v, s1) =>
      (match readParts o w ps s1 with
       | (.val x, s2) => (.val (v + x * 2 ^ (8 * n)), s2)
       | r => r)
    | r => r

/-- Reads `n` bytes for an operation. -/
def engRead (g : State) (o : Op) (w : Who) (va n : Nat) (s : State) : Got × State :=
  match engParts s o.agent w va n with
  | .error c => (.bad c, s)
  | .ok ps =>
    let l := ps.map (fun p => engPassed s w p.1 p.2.1)
    if engWaits g o l then (.busy l, s) else readParts o w ps s

/-- Before an operation writes a word for the first time, its old value is kept for reads of the operation itself (R285). -/
def keepOld (id pa n : Nat) (s : State) : State :=
  { s with ops := s.ops.map (fun o => if o.id == id then
      { o with old := (upto (cdiv (pa % 8 + n) 8)).foldl (fun t i =>
          if (tget none t (pa / 8 + i)).isSome then t else tset none t (pa / 8 + i) (some (mread s.mem ((pa / 8 + i) * 8) 8))) o.old } else o) }

/-- Writes `n` bytes for an operation, unless the access waits. -/
def engWrite (g : State) (o : Op) (w : Who) (va n v : Nat) (s : State) : Got × State :=
  match engCheck s o.agent w va n .write with
  | .error c => (.bad c, s)
  | .ok pa =>
    let l := [engPassed s w va pa]
    if engWaits g o l then (.busy l, s)
    else (.val 0, writeWide pa n v (notePinVa w va (keepOld o.id pa n s)))

/-- Reads the bits of a striped element, each in its own row. -/
def stripeRead (g : State) (o : Op) (w : Who) (base planes k : Nat) (s : State) : Got × State :=
  match stripeBase s w base .read with
  | .error c => (.bad c, s)
  | .ok (f, p) =>
    let l := (upto planes).map (fun i => engPassed s w base (laneByte f (p + i) k))
    if engWaits g o l then (.busy l, s)
    else (upto planes).foldl (fun acc i =>
      match acc with
      | (.val v, s) =>
        let pa := laneByte f (p + i) k
        match tokenCheck s o.agent pa .read true with
        | some c => (.bad c, s)
        | none =>
          match readMem pa 1 o.agent (notePinVa w base s) with
          | (none, s1) => (.bad cUE_CONSUMED, s1)
          | (some b, s1) => let r := ownRead o pa 1 b s1; (.val (v + b2n (bitN r.1 (k % 8)) * 2 ^ i), r.2)
      | r => r) (.val 0, s)

/-- Writes the bits of a striped element through the base die (R287). -/
def stripeWrite (g : State) (o : Op) (w : Who) (base planes k v : Nat) (s : State) : Got × State :=
  match stripeBase s w base .write with
  | .error c => (.bad c, s)
  | .ok (f, p) =>
    let l := (upto planes).map (fun i => engPassed s w base (laneByte f (p + i) k))
    if engWaits g o l then (.busy l, s)
    else match (upto planes).findSome? (fun i => tokenCheck s o.agent (laneByte f (p + i) k) .write true) with
      | some c => (.bad c, s)
      | none =>
        if isLost s f then (.bad cUE_CONSUMED, s)
        else (.val 0, (upto planes).foldl (fun s i =>
          let pa := laneByte f (p + i) k
          writeMem pa 1 (putFld (mget s.mem pa).toNat (k % 8) 1 (b2n (bitN v i))) (keepOld o.id pa 1 s)) (notePinVa w base s))

/-! ### Values of positions (R285, R286, R291) -/

/-- How an operation translates: the issuing VLC's tables and windows; that of a peer has no windows (R292). -/
def opWho (o : Op) : Who := { vi := o.vi, vault := if o.vlc = 1536 then none else some (vaultOf o.vlc) }

/-- Reads index `i` of a gather. -/
def readIdx (g : State) (o : Op) (d : Desc) (i : Nat) (s : State) : Got × State :=
  engRead g o (opWho o) (d.idx + i * (2 ^ (d.iw + 1))) (2 ^ (d.iw + 1)) s

/-- The raw source element at source coordinates `x` (not of a DXB block). -/
def srcElement (g : State) (o : Op) (d : Desc) (x : List Nat) (s : State) : Got × State :=
  if d.slay then
    let k := sumStr d.sstrs x
    stripeRead g o (opWho o) d.src (fmtPlanes d.sfmt) k.toNat s
  else
    let va := tr 64 (linAddr d.sfmt d.src d.sstrs x)
    match engRead g o (opWho o) va (fmtBytes d.sfmt) s with
    | (.val v, s1) => (.val (if d.sfmt = 11 then fld v (2 * (x.headD 0 % 4)) 2 else v), s1)
    | r => r

/-- The value of position `p`: raw bits in the destination format with flags packed above 2^64, for destinations without blocks. -/
def positionValue (g : State) (o : Op) (d : Desc) (p : Nat) (s : State) : Got × State :=
  let wid := if d.dlay then fmtPlanes d.dfmt else if d.dfmt = 11 then 2 else 8 * fmtBytes d.dfmt
  let c := coordsOf d.dims p
  let fill : Got := .val (d.fill % 2 ^ wid)
  let done (raw : Nat) : Got := let r := convElem d.sfmt d.dfmt o.rm raw; .val (r.1 % 2 ^ 64 + r.2 * 2 ^ 64)
  match srcCoords d.dims c with
  | none => (fill, s)
  | some x =>
    if o.kind = .cpyg then
      match readIdx g o d p s with
      | (.val i, s1) =>
        if i ≥ d.idxlim then (fill, s1)
        else match engRead g o (opWho o) (tr 64 ((d.src : Int) + i * ((d.dims.head?.map Dim.sstr).getD 0))) (fmtBytes d.sfmt) s1 with
          | (.val v, s2) => (done v, s2)
          | r => r
      | r => r
    else if fmtDxb d.sfmt then
      match engRead g o (opWho o) (tr 64 (linAddr d.sfmt d.src d.sstrs x)) (fmtBytes d.sfmt) s with
      | (.val blk, s1) =>
        let r := encF (fmtMant d.dfmt) o.rm (dxbElem (d.sfmt == 10) blk (x.headD 0 % fmtPer d.sfmt))
        (.val (r.1 + r.2 * 2 ^ 64), s1)
      | r => r
    else match srcElement g o d x s with
      | (.val v, s1) => (done v, s1)
      | r => r

/-- Reads a list of values in turn, stopping at the first that cannot be read. -/
def readAll (f : Nat → State → Got × State) : List Nat → State → (List Nat × Option Got) × State
  | [], s => (([], none), s)
  | i :: is, s =>
    match f i s with
    | (.val v, s1) => let r := readAll f is s1; ((v :: r.1.1, r.1.2), r.2)
    | (g, s1) => (([], some g), s1)

/-- The source value of a position of a packing copy: its bits in the source format; a fill position counts as +0. -/
def packSource (g : State) (o : Op) (d : Desc) (p : Nat) (s : State) : Got × State :=
  match srcCoords d.dims (coordsOf d.dims p) with
  | none => (.val 0, s)
  | some x =>
    if o.kind = .cpyg then
      match readIdx g o d p s with
      | (.val i, s1) =>
        if i ≥ d.idxlim then (.val 0, s1)
        else engRead g o (opWho o) (tr 64 ((d.src : Int) + i * ((d.dims.head?.map Dim.sstr).getD 0))) (fmtBytes d.sfmt) s1
      | r => r
    else srcElement g o d x s

/-- A block moved with its format kept (R286): the bits unchanged where source and destination blocks coincide, +0 where every position is fill; where
the padding cuts blocks the manual states no bits, and the value is free (log 4). -/
def sameBlock (g : State) (o : Op) (d : Desc) (u : Nat) (s : State) : Got × State :=
  let per := fmtPer d.dfmt
  let xs := (upto per).map (fun j => srcCoords d.dims (coordsOf d.dims (u * per + j)))
  match xs.headD none with
  | some x =>
    if x.headD 0 % per = 0 ∧ xs.all Option.isSome = true then
      engRead g o (opWho o) (tr 64 (linAddr d.sfmt d.src d.sstrs x)) (fmtBytes d.sfmt) s
    else (.val (freeBytes s (fmtBytes d.dfmt)), { s with fresh := s.fresh + 4 })
  | none =>
    if xs.all Option.isNone then (.val (dxbPack (d.dfmt == 10) (d.gap + 1) o.rm ((upto per).map (fun _ => FV.fin false 0 0))).1, s)
    else (.val (freeBytes s (fmtBytes d.dfmt)), { s with fresh := s.fresh + 4 })

/-- The value of data unit `u`: its bits, and its flags. -/
def unitValue (g : State) (o : Op) (d : Desc) (u : Nat) (s : State) : (Got × Nat) × State :=
  if fmtDxb d.dfmt && !d.dlay then
    if d.sfmt = d.dfmt then (let r := sameBlock g o d u s; ((r.1, 0), r.2))
    else
      let per := fmtPer d.dfmt
      match readAll (fun j => packSource g o d (u * per + j)) (upto per) s with
      | ((vs, none), s1) =>
        let r := dxbPack (d.dfmt == 10) (d.gap + 1) o.rm (vs.map (decF (fmtMant d.sfmt)))
        ((.val r.1, r.2), s1)
      | ((_, some g), s1) => ((g, 0), s1)
  else if d.dfmt = 11 ∧ d.dlay = false then
    match readAll (fun j => positionValue g o d (4 * u + j)) (upto 4) s with
    | ((vs, none), s1) =>
      ((.val (vs.foldr (fun v a => a * 4 + v % 4) 0), vs.foldl (fun f v => f ||| (v / 2 ^ 64)) 0), s1)
    | ((_, some g), s1) => ((g, 0), s1)
  else match positionValue g o d u s with
    | (.val v, s1) => ((.val (v % 2 ^ 64), v / 2 ^ 64), s1)
    | (g, s1) => ((g, 0), s1)

/-- Coordinates of the first position of data unit `u`. -/
def Desc.unitCoords (d : Desc) (u : Nat) : List Nat := coordsOf d.dims (u * d.per)

/-- VA of a linear data unit, or the lane of a striped one. -/
def Desc.unitPlace (d : Desc) (u : Nat) : Int :=
  if d.dlay then sumStr d.dstrs (d.unitCoords u) else linAddr d.dfmt d.dst d.dstrs (d.unitCoords u)

/-- Byte `i` of the duplicate mask (R291). -/
def dupByte (g : State) (o : Op) (d : Desc) (i : Nat) (s : State) : Got × State :=
  let b := (d.dims.head?.map Dim.bound).getD 0
  match readAll (fun j => readIdx g o d j) (upto (min b (8 * i + 8))) s with
  | ((vs, none), s1) =>
    (.val ((upto 8).foldl (fun a j =>
      let k := 8 * i + j
      if k < b ∧ (vs.take k).contains (vs.getD k 0) then a + 2 ^ j else a) 0), s1)
  | ((_, some g), s1) => (g, s1)

/-! ### Bytes an operation touches -/

/-- PAs of the first byte of each 8-byte word that data unit `u`, or a byte of the mask, writes on this module. -/
def unitWords (s : State) (o : Op) (d : Desc) (u : Nat) : List Nat :=
  if u ≥ d.units then ((pageOf s (opWho o) (d.dupm + (u - d.units))).map (fun p => p.pa / 8)).toList
  else if d.dlay then
    match stripeBase s (opWho o) d.dst .write with
    | .ok (f, p) => (upto (fmtPlanes d.dfmt)).map (fun i => laneByte f (p + i) (d.unitPlace u).toNat / 8)
    | .error _ => []
  else match pageOf s (opWho o) (tr 64 (d.unitPlace u)) with
    | some p => (upto (cdiv (fmtBytes d.dfmt) 8)).map (fun i => p.pa / 8 + i)
    | none => []

/-- Raw index `i` of a gather as memory holds it. -/
def rawIdx (s : State) (o : Op) (d : Desc) (i : Nat) : Option Nat :=
  let n := 2 ^ (d.iw + 1)
  (pageOf s (opWho o) (d.idx + i * n)).map (fun p => mread s.mem p.pa n)

/-- The 8-byte words of `n` bytes at a VA on this module. -/
def wordsAt (s : State) (o : Op) (va n : Nat) : List Nat :=
  (pageParts va n).flatMap (fun x => match pageOf s (opWho o) x.1 with
    | some p => (upto (cdiv (p.pa % 8 + x.2) 8)).map (fun i => p.pa / 8 + i)
    | none => [])

/-- The 8-byte words of the indices that byte `i` of the duplicate mask compares (R281, R291). -/
def dupSources (s : State) (o : Op) (d : Desc) (i : Nat) : List Nat :=
  (upto (min ((d.dims.head?.map Dim.bound).getD 0) (8 * i + 8))).flatMap (fun j => wordsAt s o (d.idx + j * 2 ^ (d.iw + 1)) (2 ^ (d.iw + 1)))

/-- The 8-byte words that data unit `u` reads on this module. -/
def unitSources (s : State) (o : Op) (d : Desc) (u : Nat) : List Nat :=
  (upto d.per).flatMap (fun j =>
    match srcCoords d.dims (coordsOf d.dims (u * d.per + j)) with
    | none => []
    | some x =>
      let at_ (va : Nat) (n : Nat) : List Nat := wordsAt s o va n
      if o.kind = .cpyg then
        at_ (d.idx + (u * d.per + j) * 2 ^ (d.iw + 1)) (2 ^ (d.iw + 1)) ++
          (match rawIdx s o d (u * d.per + j) with
           | some i => if i ≥ d.idxlim then [] else at_ (tr 64 ((d.src : Int) + i * ((d.dims.head?.map Dim.sstr).getD 0))) (fmtBytes d.sfmt)
           | none => [])
      else if d.slay then
        match stripeBase s (opWho o) d.src .read with
        | .ok (f, p) => (upto (fmtPlanes d.sfmt)).map (fun i => laneByte f (p + i) (sumStr d.sstrs x).toNat / 8)
        | .error _ => []
      else at_ (tr 64 (linAddr d.sfmt d.src d.sstrs x)) (fmtBytes d.sfmt))

/-- The 8-byte words that unit `u` of an operation reads or writes on this module. -/
def opWords (s : State) (o : Op) (u : Nat) : List Nat :=
  match o.kind with
  | .tmv =>
    (upto 2).flatMap (fun i => match pageOf s (opWho o) (dw o.desc i + 8 * u) with | some p => [p.pa / 8] | none => [])
  | _ =>
    let d := readDesc o.desc
    (if u < d.units then unitSources s o d u else dupSources s o d (u - d.units)) ++ (if o.kind = .cpyr then [] else unitWords s o d u)

/-- Tile numbers of the scratchpad tiles among 8-byte words, each once. -/
def tilesOf (ws : List Nat) : List Nat := ((ws.filter (fun w => isScratch (8 * w))).map (fun w => w / 512)).eraseDups

end Sys2Proof.Machine
end

