-- ==== Sys2Proof/Machine/Copy.lean ====
section
/-! DEFINITION. The copy and synchronisation group: `cpy`, `cpyg`, `cpyr`, `cpyk`, `wmark`, `tmv`, `tflip`, and the steps of an engine operation
(R87 to R89, R120, R278 to R296, R318, R366, R367, R378, R402). -/
namespace Sys2Proof.Machine

/-! ### Checks of a descriptor at acceptance (R288, R366) -/

/-- The fields that are RSV in every descriptor or in this instruction's (R283). -/
def descRsv (k : OpKind) (l : List Nat) : Bool :=
  let d := readDesc l
  fld (dw l 3) 17 47 != 0 || fld (dw l 4) 58 6 != 0 ||
    (match k with
     | .cpyg => fld (dw l 5) 32 32 != 0 || fld (dw l 6) 58 6 != 0 || fld (dw l 7) 56 8 != 0
     | .cpyr => fld (dw l 5) 28 36 != 0 || dw l 6 != 0 || dw l 7 != 0
     | _ => dw l 5 != 0 || dw l 6 != 0 || dw l 7 != 0) ||
    (upto 6).any (fun i => if i < d.ndim then dw l (11 + 4 * i) != 0
      else dw l (8 + 4 * i) != 0 || dw l (9 + 4 * i) != 0 || dw l (10 + 4 * i) != 0 || dw l (11 + 4 * i) != 0)

/-- The first dimension. -/
def Desc.dim0 (d : Desc) : Dim := d.dims.headD { sstr := 0, dstr := 0, bound := 1, lpad := 0, upad := 0 }

/-- DESC_INVALID by the rules of R288 that bear on one side: formats, strides and counts. -/
def sideInvalid (f : Nat) (lay : Bool) (str : Int) (count : Nat) : Bool :=
  (lay && fmtPlanes f == 0) || (!lay && (f == 11 || fmtDxb f) && str != 0) || (!lay && fmtDxb f && count % fmtPer f != 0)

/-- DESC_INVALID (R288, R291, R292, R311). -/
def descInvalid (k : OpKind) (vi : Nat) (l : List Nat) : Bool :=
  let d := readDesc l
  descRsv k l || d.ndim == 0 || d.ndim == 7 || d.dims.any (fun x => x.bound == 0) || !pairOk d.sfmt d.dfmt ||
    sideInvalid d.sfmt d.slay d.dim0.sstr d.dim0.bound || sideInvalid d.dfmt d.dlay d.dim0.dstr d.dim0.count ||
    (!d.dlay && d.dfmt == 11 && d.dim0.count % 4 != 0) || d.destBytes (k == .cpyg) > 4294967296 || (!d.ben && d.bcr) ||
    (match k with
     | .cpyg => d.iw == 3 || d.ndim != 1 || d.dim0.lpad != 0 || d.dim0.upad != 0 || d.slay || d.sfmt == 11 || fmtDxb d.sfmt
     | .cpyr => d.route ≥ 2 || d.mod ≥ 1024 ||
        (d.route == 1 && (d.port != vi / 64 || d.mod != 0 || d.rvi != 0 || d.ben || d.bcr || d.dlay))
     | _ => false)

/-- Whether an extent has an address with [63:56] ≠ 0. -/
def extentBad (e : Int × Int) : Bool := e.1 < 0 || e.2 > 72057594037927936

/-- Source extents of a linear source, each from the lowest to the highest byte: of the positions, or for a gather of its indices and of the elements they
name (R288). -/
def srcExtents (s : State) (o : Op) (d : Desc) : List (Int × Int) :=
  if o.kind = .cpyg then
    let n := d.dim0.bound
    let is := ((upto n).filterMap (fun i => rawIdx s o d i)).filter (fun i => i < d.idxlim)
    let elems : List (Int × Int) := match is.map (fun (i : Nat) => (d.src : Int) + (i : Int) * d.dim0.sstr) with
      | [] => []
      | a :: as => [(as.foldl min a, as.foldl max a + (fmtBytes d.sfmt : Int))]
    ((d.idx : Int), (d.idx : Int) + (n * 2 ^ (d.iw + 1) : Nat)) :: elems
  else [linExtent d.sfmt d.src d.srcCounts]

/-- Destination extents of a linear destination, the mask of a gather included (R291). -/
def dstExtents (k : OpKind) (d : Desc) : List (Int × Int) :=
  (if d.dlay then [] else [linExtent d.dfmt d.dst d.dstCounts]) ++
    (if d.dupBytes (k == .cpyg) = 0 then [] else [((d.dupm : Int), (d.dupm : Int) + (d.dupBytes true : Int))])

/-- The tiles of the local windows within an extent that are scratchpads, by VA. -/
def windowTiles (e : Int × Int) : List Nat :=
  let lo := e.1.toNat / 4096
  let hi := cdiv e.2.toNat 4096
  ([(0xFF000000000, 256), (0xFF000001000, 2048), (0xFF000002000, 8192)] : List (Nat × Nat)).flatMap (fun r =>
    (upto r.2).filterMap (fun i => if lo ≤ r.1 + i ∧ r.1 + i < hi then some ((r.1 + i) * 4096) else none))

/-- A window tile of an extent with its owner bit 0 (R288). -/
def extentTile (s : State) (w : Who) (es : List (Int × Int)) : Bool :=
  es.any (fun e => (windowTiles e).any (fun va => match pageOf s w va with
    | some p => !isMbox s p.pa && !tileBit s p.pa
    | none => false))

/-- Alignment of a linear side (R288). -/
def linMisaligned (f base : Nat) (l : List (Int × Nat)) : Bool :=
  let b := fmtBytes f
  let rest := if f = 11 ∨ fmtDxb f = true then l.tail else l
  base % b != 0 || rest.any (fun p => p.2 > 1 && p.1 % (b : Int) != 0)

/-- The checks of one striped base: translation, then the CC leaf (R288). -/
def stripeTrans (s : State) (w : Who) (base : Nat) : Bool := base ≥ 72057594037927936 || (pageOf s w base).isNone
def stripeNotCc (s : State) (w : Who) (base : Nat) : Bool := match pageOf s w base with | some p => !p.cc | none => false
def stripeMisaligned (s : State) (w : Who) (base : Nat) : Bool := match pageOf s w base with | some p => p.pa % 8192 != 0 | none => false
def stripeCross (s : State) (w : Who) (f base : Nat) (l : List (Int × Nat)) : Bool :=
  match pageOf s w base with
  | some p => let r := laneRange l; r.1 < 0 || r.2 > 65535 || p.pa % 2097152 / 8192 + fmtPlanes f > 256
  | none => false

/-- Checks of a destination side after DESC_INVALID, in the order of R366 step 3. -/
def dstSide (s : State) (w : Who) (k : OpKind) (d : Desc) : List (Bool × Nat) :=
  [((dstExtents k d).any extentBad || (d.dlay && stripeTrans s w d.dst), cTRANSLATION), (d.dlay && stripeNotCc s w d.dst, cPROTECTION),
    ((!d.dlay && linMisaligned d.dfmt d.dst d.dstCounts) || (d.dlay && stripeMisaligned s w d.dst) || d.bar % 8 != 0, cALIGN),
    (d.dlay && stripeCross s w d.dfmt d.dst d.dstCounts, cFRAME_CROSS), (extentTile s w (dstExtents k d), cTILE_OWNER)]

/-- Checks of a source side. -/
def srcSide (s : State) (w : Who) (o : Op) (d : Desc) : List (Bool × Nat) :=
  let es := if d.slay then [] else srcExtents s o d
  [(es.any extentBad || (d.slay && stripeTrans s w d.src), cTRANSLATION), (d.slay && stripeNotCc s w d.src, cPROTECTION),
    ((!d.slay && linMisaligned d.sfmt d.src d.srcCounts) || (o.kind == .cpyg && d.idx % 2 ^ (d.iw + 1) != 0) ||
      (d.slay && stripeMisaligned s w d.src), cALIGN),
    (d.slay && stripeCross s w d.sfmt d.src d.srcCounts, cFRAME_CROSS), (extentTile s w es, cTILE_OWNER)]

/-- The failures of both sides, kind by kind, the source first. -/
def bothSides (a b : List (Bool × Nat)) : List (Bool × Nat) := (a.zip b).flatMap (fun p => [p.1, p.2])

/-- The first failure of a list of checks. -/
def firstFail (l : List (Bool × Nat)) : Option Nat := (l.find? (fun p => p.1)).map (fun p => p.2)

/-- The check of a barrier word before anything is sent: R360, the home rule, SUSPECT (R366 step 4). A failure of the home rule or of SUSPECT comes with the
byte whose token entry it concerns. -/
def barCheck (s : State) (w : Who) (agent va : Nat) : Except (Nat × Option Nat) Nat :=
  match addrCheck s w va 8 .read with
  | .error c => .error (c, none)
  | .ok p =>
    match p.tgt with
    | .rem _ _ _ => .error (cUNOWNED, none)
    | .loc pa =>
      if !paDram pa then .error (cUNOWNED, none)
      else match tokenCheck s agent pa .atomic true with
        | some c => .error (c, some pa)
        | none => .ok pa

/-- A refusal: its code, its address, and for the rules of R93 and R402 the byte whose token entry it concerns. -/
structure Refused where
  code : Nat
  addr : Nat
  tok : Option Nat := none
  deriving DecidableEq, Repr

/-- Steps 3 and 4 of R366 on this module: a refusal, or the PA of BAR. -/
def copyCheck (s : State) (o : Op) : Except Refused (Option Nat) :=
  let d := readDesc o.desc
  let w := opWho o
  let remote := o.kind == .cpyr
  let dst := if remote && d.route == 0 then (dstSide s w o.kind d).map (fun p => (false, p.2))
    else if remote then [(false, 0), (false, 0), (linMisaligned d.dfmt d.dst d.dstCounts || d.bar % 8 != 0, cALIGN), (false, 0), (false, 0)]
    else dstSide s w o.kind d
  if descInvalid o.kind o.vi o.desc then .error ⟨cDESC_INVALID, o.va, none⟩
  else match firstFail (bothSides (srcSide s w o d) dst) with
    | some c => .error ⟨c, o.va, none⟩
    | none =>
      if d.ben && !remote then
        match barCheck s w o.agent d.bar with
        | .error c => .error ⟨c.1, d.bar, c.2⟩
        | .ok pa => .ok (some pa)
      else .ok none

/-! ### Acceptance (R279 to R281) -/

def getOp (s : State) (id : Nat) : Option Op := s.ops.find? (fun o => o.id == id)
def updOp (id : Nat) (f : Op → Op) (s : State) : State := { s with ops := s.ops.map (fun o => if o.id == id then f o else o) }

/-- Whether an operation converts between formats, so that its two datapaths are compared (R378). -/
def converts (o : Op) : Bool := o.kind != .tmv && (readDesc o.desc).sfmt != (readDesc o.desc).dfmt

/-- Whether a fence of VLC `n` waits for an access of its mask and scope: no engine operation or near-bank command that follows it goes on before (R117,
R118, R186, R187). -/
def fencesOpen (s : State) (n : Nat) : Bool :=
  (getVlc s n).fences.any (fun f =>
    s.net.any (fun a => a.vlc == n && a.counts && a.id < f.id && f.mask.getLsbD a.cls && inScope n f.scope a.tgt) ||
    (rqOf s n).any (fun r => r.e.id < f.id && (r.stores.any (fun b => f.mask.getLsbD b.cls && inScope n f.scope b.tgt) ||
      r.atoms.any (fun b => f.mask.getLsbD b.cls && inScope n f.scope b.tgt))) ||
    (viqOf s n).any (f.over s))

/-- Whether an operation is the oldest that waits at its engine and has room there and under its VLC (R279). -/
def mayAccept (s : State) (o : Op) : Bool :=
  !o.accepted && !closed s && !fencesOpen s o.vlc && !s.ops.any (fun p => p.quad == o.quad && !p.accepted && p.id < o.id) &&
    (s.ops.filter (fun p => p.quad == o.quad && p.accepted)).length < 64 &&
    (s.ops.filter (fun p => p.vlc == o.vlc && p.accepted && !p.dead)).length < 16

/-- A refusal: the operation is gone and its fault is raised, class S (R279). Where a fault charged to an older instruction waits, that one is taken, and the
instruction has not issued (R351). -/
def refuseOp (o : Op) (r : Refused) (s : State) : State :=
  let s1 := { (updVlc o.vlc (fun v => { v with wait := .none }) { s with ops := s.ops.filter (fun p => p.id != o.id) }) with cur := o.vlc }
  if !s1.me.hnd && (s1.me.faults.any (fun p => p.fr.cls == 2) || !s1.me.vfaults.isEmpty) then s1
  else
    let f : FRec := { code := r.code, origin := s1.me.pc.toNat, addr := r.addr }
    raiseAt (match r.tok with | some pa => withToken s1 pa f | none => f) s1.me.pc.toNat s1

/-- Units of an operation, and its destination bytes. -/
def opUnits (o : Op) : Nat := match o.kind with | .tmv => 512 | _ => let d := readDesc o.desc; d.units + d.dupBytes (o.kind == .cpyg)
def opBytes (o : Op) : Nat := match o.kind with | .tmv => 4096 | _ => (readDesc o.desc).destBytes (o.kind == .cpyg)

/-- The outgoing link whose shares a remote copy takes: of the fabric, or from 24 on of a CXL port (R292, R318). -/
def shareLink (s : State) (d : Desc) : Nat := if d.route = 0 then linkFor s d.mod d.dst else 24 + d.port

/-- W: the wait until the link has granted the shares reserved before (R318; DEDUCED, log 11). -/
def shareWait (s : State) (link : Nat) : Nat := tget 0 s.fabric.linkFree link - s.cyc

/-- The longest remaining lease of the locks of other agents on rows that an operation reads or writes (R281). -/
def leaseOver (s : State) (o : Op) : Nat :=
  (s.locks.filter (fun l => l.granted && l.agent != o.agent && (upto (opUnits o)).any (fun u => (opWords s o u).any (fun w =>
    rangesMeet (8 * w) 8 (l.frame + 8192 * l.row0) (8192 * l.count))))).foldl (fun m l => max m (l.until_ - s.cyc)) 0

/-- The promised cycle (R280, R281; for `cpyr` R318; log 11). -/
def promiseOf (s : State) (o : Op) : Nat :=
  let b := opBytes o
  let d := readDesc o.desc
  match o.kind with
  | .cpyr =>
    s.cyc + 3300 + (if d.route = 0 then 1650 * fld (tget 0 s.mgmt.route d.mod).toNat 24 4 else 3300) + cdiv b 32 + shareWait s (shareLink s d)
  | _ => s.cyc + cdiv b (if o.kind != .tmv && d.dlay then 64 else 128) + leaseOver s o + Config.promiseSlack s.cyc b

/-- Acceptance of a remote copy reserves its shares of the link (R318). -/
def reserve (o : Op) (s : State) : State :=
  if o.kind = .cpyr then
    let l := shareLink s (readDesc o.desc)
    { s with fabric := { s.fabric with linkFree := tset 0 s.fabric.linkFree l (s.cyc + shareWait s l + cdiv (opBytes o) 32) } }
  else s

/-- Whether sums of strides fill every place: sorted strides, each within the span below it. -/
def fills (es : Nat) (l : List (Int × Nat)) : Bool :=
  let ds := ((l.filter (fun p => p.2 > 1)).map (fun p => (p.1.natAbs, p.2))).mergeSort (fun a b => a.1 ≤ b.1)
  (ds.foldl (fun (a : Bool × Nat) p => (a.1 && p.1 ≤ a.2, a.2 + p.1 * (p.2 - 1))) (true, es)).1

/-- VA ranges that an operation writes without a gap. -/
def solidRanges (o : Op) : List (Nat × Nat) :=
  match o.kind with
  | .tmv => [(dw o.desc 0, dw o.desc 0 + 4096)]
  | .cpyr => []
  | _ =>
    let d := readDesc o.desc
    let packed := d.dfmt == 11 || fmtDxb d.dfmt
    let e := linExtent d.dfmt d.dst d.dstCounts
    let unit := if packed then d.dim0.count / d.per * fmtBytes d.dfmt else fmtBytes d.dfmt
    (if d.dlay then
      let r := laneRange d.dstCounts
      if fills 1 d.dstCounts && r.1 % 8 == 0 && (r.2 + 1) % 8 == 0 then
        (upto (fmtPlanes d.dfmt)).map (fun i => (d.dst + i * 8192 + r.1.toNat / 8, d.dst + i * 8192 + (r.2.toNat + 1) / 8))
      else []
    else if fills unit (if packed then d.dstCounts.tail else d.dstCounts) then [(e.1.toNat, e.2.toNat)] else []) ++
    (if d.dupBytes (o.kind == .cpyg) = 0 then [] else [(d.dupm, d.dupm + d.dupBytes true)])

/-- Suspect regions of the issuer, marked before the operation was accepted, whose every byte it writes, by key (R402). -/
def clearsOf (s : State) (o : Op) : List Nat :=
  let covered (page : Nat) : Bool :=
    (solidRanges o).any (fun r => (upto (cdiv r.2 4096 - r.1 / 4096)).any (fun i =>
      let va := (r.1 / 4096 + i) * 4096
      r.1 ≤ va && va + 4096 ≤ r.2 && (match pageOf s (opWho o) va with | some p => p.pa / 4096 == page | none => false)))
  (s.toks.filter (fun p => p.2.kind == 1 && p.2.suspect && p.2.owner == o.agent && decide (p.2.since < o.accAt) && (upto p.2.pages).all (fun i => covered (p.2.base + i)))).map Prod.fst

/-- The operation is accepted: its mark, the promise in xd, the use counts of its tiles, its cost (R87, R279, R289, R302, R318). A size that is not a
multiple of 64 bytes is charged rounded up (DESIGN CHOICE, log 58). -/
def acceptOp (o : Op) (bar : Option Nat) (err : Nat) (s : State) : State :=
  let p := promiseOf s o
  let d := readDesc o.desc
  let ts := (o.tiles ++ (upto (opUnits o)).flatMap (fun u => tilesOf (opWords s o u))).eraseDups
  let o1 := { o with
              accepted := true, accAt := s.nextId, prom := p, total := opUnits o, left := [(0, opUnits o)], bar := bar, tiles := ts, err := err, stopped := err != 0,
              ret := if o.kind = .tmv then o.ret else d.ret }
  let s1 := ts.foldl (fun s t => useTile t s) (updOp o.id (fun _ => o1) s)
  let s2 := updVlc o.vlc (fun v => {
    v with
    marks := tupd {} v.marks o.mark (fun m => { m with count := m.count + 1, prom := max m.prom p }), cost := v.cost + cdiv (opBytes o) 64 }) s1
  answer o.vlc o.reg (wN p) (reserve o s2)

/-- The check that a remote copy asks of its receiver (R292). -/
def askPeer (s : State) (o : Op) : Nat × Nat × RemoteCheck :=
  let d := readDesc o.desc
  (d.mod, linkFor s d.mod d.dst, { mod := s.mgmt.modid, vi := o.vi, rvi := d.rvi, desc := o.desc.map wN, tag := o.id })

/-- Whether a module cannot be reached (R407). -/
def isUnreachable (s : State) (m : Nat) : Bool := s.fabric.unreachable.contains m

/-- PA of byte `i` of the descriptor, which may lie in two tiles. -/
def descPa (o : Op) (i : Nat) : Nat :=
  let off := o.pa % 4096 + i
  if off < 4096 then o.pa + i else o.tiles.getD 1 0 * 4096 + (off - 4096)

/-- The descriptor as the engine reads it: its 32 dwords, or an uncorrectable word. -/
def fetchDesc (o : Op) (s : State) : Got × List Nat :=
  if (upto 32).any (fun i => ueIn s (descPa o (8 * i)) 8) then (.bad cUE_CONSUMED, []) else (.val 0, (upto 32).map (fun i => mread s.mem (descPa o (8 * i)) 8))

/-- The uncorrectable words of a descriptor are logged as the engine reads it, and its single errors corrected and counted (R389, R390, R391). -/
def logDesc (o : Op) (s : State) : State := (upto 32).foldl (fun s i => logUe (descPa o (8 * i)) 8 o.agent s) s
def correctDesc (o : Op) (s : State) : State :=
  if o.kind = .tmv ∨ o.credited = true ∨ o.asked = true then s else (upto 32).foldl (fun s i => correctIn (descPa o (8 * i)) 8 s) s

/-- The descriptor enters the operation when the engine first looks at it. -/
def withDesc (o : Op) (s : State) : Except Nat Op :=
  if o.kind = .tmv ∨ o.credited = true ∨ o.asked = true then .ok o
  else match fetchDesc o s with
    | (.val _, l) => .ok { o with desc := l }
    | _ => .error cUE_CONSUMED

/-- HOME_CREDIT: the home performs the credit of the copy of serial number `op` before its acceptance, or refuses it (R108, R290). -/
def execHomeCredit (op : Nat) (s : State) : Result :=
  .next (match getOp s op with
    | none => s
    | some o0 =>
      match withDesc o0 s with
      | .error _ => s
      | .ok o =>
        let d := readDesc o.desc
        let l := fun pa => [engPassed s (opWho o) d.bar pa]
        if !mayAccept s o0 || o.credited || o.kind == .tmv || o.kind == .cpyr || !d.bcr then s
        else match copyCheck s o with
          | .error _ => s
          | .ok none => s
          | .ok (some pa) =>
            if engWaits s o (l pa) then awaitEng o (l pa) s
            else
            let s := correctDesc o0 (endWait o.waiter s)
            if ueIn s pa 8 then acceptOp o (some pa) cUE_CONSUMED (logUe pa 8 o.agent (notePinVa (opWho o) d.bar s))
            else
              let s1 := correctIn pa 8 (notePinVa (opWho o) d.bar s)
              match barCredit (mread s1.mem pa 8) (d.destBytes (o.kind == .cpyg)) with
              | none => refuseOp o ⟨cBAR_RANGE, d.bar, none⟩ s1
              | some w => updOp op (fun _ => { o with credited := true, bar := some pa }) (writeMem pa 8 w s1))

/-- COPY_ACCEPT: the engine accepts or refuses the operation of serial number `op` (R279, R290 to R292, R366). -/
def execCopyAccept (op : Nat) (s : State) : Result :=
  .next (match getOp s op with
    | none => s
    | some o0 =>
      if !mayAccept s o0 then s
      else if o0.kind = .tmv then acceptOp o0 none 0 s
      else match withDesc o0 s with
        | .error c => refuseOp o0 ⟨c, o0.va, none⟩ (logDesc o0 s)
        | .ok o =>
          let d := readDesc o.desc
          let s := correctDesc o0 s
          if o.credited then acceptOp o o.bar 0 s
          else if o.asked then
            (match o.reply with
             | none => if isUnreachable s d.mod then refuseOp o ⟨cFABRIC, o.va, none⟩ s else s
             | some 0 => acceptOp o none 0 s
             | some c => refuseOp o ⟨c, o.va, none⟩ s)
          else match copyCheck s o with
            | .error r => refuseOp o r s
            | .ok bar =>
              if o.kind = .cpyr ∧ d.route = 0 then
                (if isUnreachable s d.mod || fld (tget 0 s.mgmt.route d.mod).toNat 0 24 == 0 then refuseOp o ⟨cFABRIC, o.va, none⟩ s
                 else if maskDown s d.mod then s
                 else updOp op (fun _ => { o with asked := true }) { s with out := { s.out with checks := s.out.checks ++ [askPeer s o] } })
              else if d.bcr then s
              else acceptOp o bar 0 s)

/-! ### Movement (R280, R282, R290) -/

/-- An operation stops: no further access, and its first error is kept (R282). -/
def stopOp (id code : Nat) (s : State) : State := updOp id (fun o => { o with stopped := true, err := if o.err = 0 then code else o.err }) s

/-- The value of unit `u`: bits, and flags. -/
def readUnit (g : State) (o : Op) (u : Nat) (s : State) : (Got × Nat) × State :=
  let d := readDesc o.desc
  if o.kind = .tmv then (let r := engRead g o (opWho o) (dw o.desc 1 + 8 * u) 8 s; ((r.1, 0), r.2))
  else if u ≥ d.units then (let r := dupByte g o d (u - d.units) s; ((r.1, 0), r.2))
  else unitValue g o d u s

/-- Writes a word of the destination tile of a `tmv` (R295). -/
def writeWord (g : State) (o : Op) (va v : Nat) (s : State) : Got × State :=
  match pageOf s (opWho o) va with
  | some p => if isIstore p.pa then (.val 0, writeMem p.pa 8 v s) else engWrite g o (opWho o) va 8 v s
  | none => (.bad cTRANSLATION, s)

/-- Writes unit `u` on this module. -/
def writeUnit (g : State) (o : Op) (u v : Nat) (s : State) : Got × State :=
  let d := readDesc o.desc
  let w := opWho o
  match o.kind with
  | .tmv => writeWord g o (dw o.desc 0 + 8 * u) v s
  | .cpyr => (.val 0, s)
  | _ =>
    if u ≥ d.units then engWrite g o w (d.dupm + (u - d.units)) 1 v s
    else if d.dlay then stripeWrite g o w d.dst (fmtPlanes d.dfmt) (d.unitPlace u).toNat v s
    else engWrite g o w (tr 64 (d.unitPlace u)) (fmtBytes d.dfmt) v s

/-- The aligned 8-byte words that a unit writes, as a key: units of one key perform together, so that each word performs indivisibly (R112, R285). -/
def unitKey (o : Op) (u : Nat) : Nat :=
  let d := readDesc o.desc
  if o.kind = .tmv then 2 * u
  else if u ≥ d.units then 2 * ((d.dupm + (u - d.units)) / 8)
  else if d.dlay then 2 * ((d.unitPlace u).toNat / 64) + 1
  else 2 * (tr 64 (d.unitPlace u) / max 8 (fmtBytes d.dfmt))

/-- Bits of the destination that unit `u` writes. -/
def unitBitsOf (o : Op) (u : Nat) : Nat :=
  let d := readDesc o.desc
  if o.kind = .tmv then 64 else if u ≥ d.units then 8 else d.unitBits

/-- The units of a list of ranges, and the ranges without one of them. -/
def rangeUnits (l : List (Nat × Nat)) : List Nat := l.flatMap (fun p => (upto (p.2 - p.1)).map (p.1 + ·))
def dropUnit (u : Nat) (l : List (Nat × Nat)) : List (Nat × Nat) :=
  l.flatMap (fun p => if p.1 ≤ u ∧ u < p.2 then [(p.1, u), (u + 1, p.2)].filter (fun q => q.1 < q.2) else [p])

/-- The units of the next chunk: those of the next `k` units in linear order from `from_` on and those that share a word with one of them, by words, of at
most 4,096 bytes unless one word alone takes more (R290). -/
def chunkUnits (o : Op) (k : Nat) : List (List Nat) :=
  let us := (rangeUnits o.left).map (fun u => (unitKey o u, u))
  let seeds := (us.filter (fun p => o.from_ ≤ p.2) ++ us.filter (fun p => p.2 < o.from_)).take k
  (seeds.foldl (fun (a : List (List Nat) × Nat) p =>
    if a.2 > 32768 || a.1.any (fun l => l.contains p.2) then a
    else
      let l := (us.filter (fun q => q.1 == p.1)).map Prod.snd
      let bits := l.foldl (fun n x => n + unitBitsOf o x) 0
      if a.1.isEmpty || a.2 + bits ≤ 32768 then (a.1 ++ [l], a.2 + bits) else (a.1, 32769)) ([], 0)).1

/-- What moving units has come to: units moved with their values, and whether it goes on. -/
structure Moved where
  st : State
  vals : List (Nat × Nat) := []
  go : Bool := true
  /-- The accesses for which it has stopped: their banks do not serve them now. -/
  wait : List Passed := []
  deriving DecidableEq, Repr

/-- Moves the units of one word: every value is read and converted, then they are written in linear order, so that the last position of a byte stays
(R285). Flags are gathered; a unit that fails stops the operation (R282). -/
def moveWord (g : State) (o : Op) (us : List Nat) (s : State) : Moved :=
  let r := us.foldl (fun (m : Moved × Nat) u =>
    if !m.1.go then m
    else match readUnit g o u m.1.st with
      | ((.val v, fl), s1) => ({ st := s1, vals := m.1.vals ++ [(u, v)] }, m.2 ||| fl)
      | ((.busy l, _), _) => ({ st := s, go := false, wait := l }, 0)
      | ((.bad c, _), s1) => ({ st := stopOp o.id c s1, go := false }, 0)) ({ st := s }, 0)
  if !r.1.go then r.1
  else
    let s1 := updOp o.id (fun o => { o with flg := o.flg ||| r.2 }) r.1.st
    r.1.vals.foldl (fun m p =>
      if !m.go then m
      else match writeUnit g o p.1 p.2 m.st with
        | (.val _, s2) => { st := s2, vals := m.vals ++ [p] }
        | (.busy l, s2) => { m with st := if m.vals.isEmpty then s else s2, go := false, wait := l }
        | (.bad c, s2) => { m with st := stopOp o.id c s2, go := false }) { st := s1 }

/-- Moves the words of a chunk. -/
def moveChunk (g : State) (id : Nat) (ls : List (List Nat)) (s : State) : Moved :=
  ls.foldl (fun m us =>
    if !m.go then m
    else match getOp m.st id with
      | none => { m with go := false }
      | some o => let r := moveWord g o us m.st; { st := r.st, vals := m.vals ++ r.vals, go := r.go, wait := r.wait }) { st := s }

/-- Destination bytes performed when `u` data units and `m` bytes of the mask have moved. -/
def opBytesAt (o : Op) (u m : Nat) : Nat := match o.kind with | .tmv => 8 * u | _ => (readDesc o.desc).bytesAt u + m

/-- Units that have moved are no longer left; their bytes are performed, and are owed to the barrier. -/
def noteMoved (o : Op) (us : List Nat) (s : State) : State :=
  let units := if o.kind = .tmv then 512 else (readDesc o.desc).units
  updOp o.id (fun x =>
    let left := us.foldl (fun l u => dropUnit u l) x.left
    let done := x.done + (us.filter (fun u => u < units)).length
    let b := opBytesAt o done (x.total - units - ((rangeUnits left).filter (fun u => units ≤ u)).length)
    { x with left := left, done := done, moved := b, owed := if x.bar.isSome then x.owed + (b - x.moved) else 0, bad := 0 }) s

/-- The debit of `b` bytes at the home (R108, R391). -/
def debitBar (id pa agent b : Nat) (s : State) : State :=
  match tokenCheck s agent pa .atomic true with
  | some c => stopOp id c s
  | none =>
    if ueIn s pa 8 then stopOp id cUE_CONSUMED (logUe pa 8 agent s)
    else let s1 := correctIn pa 8 s; writeMem pa 8 (barDebit (mread s1.mem pa 8) b) s1

/-- Performs the debit that a chunk of an operation owes, at most 4,096 bytes, where the home can serve it; a debit that fails is not tried again. -/
def payDebit (id : Nat) (s : State) : State :=
  match getOp s id with
  | none => s
  | some o =>
    match o.bar with
    | none => s
    | some pa =>
      let va := (readDesc o.desc).bar
      let l := [engPassed s (opWho o) va pa]
      if o.owed = 0 then s
      else if engWaits s o l then awaitEng o l s
      else
        let b := min o.owed 4096
        let s1 := endWait o.waiter (debitBar id pa o.agent b (notePinVa (opWho o) va (updOp id (fun o => { o with owed := o.owed - b }) s)))
        updOp id (fun o => if o.stopped then { o with owed := 0 } else o) s1

/-- The zero-length read that a copy with ROUTE = 1 sends to DST behind the last of its writes, once, whether it has moved everything or has been stopped
(R292, R319). -/
def sendFlush (o : Op) (s : State) : State :=
  let d := readDesc o.desc
  updOp o.id (fun x => { x with asked := true }) { s with out := { s.out with cxlFlush := s.out.cxlFlush ++ [(d.port, o.vi % 64 + 1, d.dst)] } }

/-- Whether a copy has stopped with writes sent through a CXL port and no read behind them. -/
def owesFlush (o : Op) : Bool := o.kind == .cpyr && (readDesc o.desc).route == 1 && o.stopped && decide (o.sentN > 0) && !o.asked

/-- What a remote copy sends for units that have moved, of `b` bytes: one chunk with its debit over the fabric, or CXL.io writes (R292, R319). -/
def sendUnits (o : Op) (vals : List (Nat × Nat)) (b : Nat) (s : State) : State :=
  let d := readDesc o.desc
  if d.route = 1 then
    let w := s.out.cxlWrites ++ vals.map (fun p => (d.port, o.vi % 64 + 1, tr 64 (d.unitPlace p.1), fmtBytes d.dfmt, p.2))
    let t := updOp o.id (fun x => { x with sentN := x.sentN + 1, acked := x.acked + 1 }) { s with out := { s.out with cxlWrites := w } }
    if (getOp s o.id).any (fun x => x.left.isEmpty) then sendFlush o t else t
  else
    let ws : List CopyWrite := vals.map (fun p => {
      va := if d.dlay then d.dst else tr 64 (d.unitPlace p.1), bytes := if d.dlay then wordBytes 2 p.2 else wordBytes (fmtBytes d.dfmt) p.2,
      planes := if d.dlay then fmtPlanes d.dfmt else 0, lane := if d.dlay then (d.unitPlace p.1).toNat else 0 })
    let c : RemoteChunk := {
      mod := s.mgmt.modid, vi := o.vi, rvi := d.rvi, writes := ws, bar := if d.ben then d.bar else 0, debit := if d.ben then b else 0, tag := o.id }
    updOp o.id (fun o => { o with sentN := o.sentN + 1 })
      { s with out := { s.out with chunks := s.out.chunks ++ [(d.mod, ws.map (fun w => linkFor s d.mod w.va), c)] } }

/-- CHUNK_DEBIT: the operation of serial number `op` moves a chunk, and its barrier is debited by the bytes that have performed (R290). Which units a chunk
takes is the engine's choice: `k` units from `from_` on. While every link to its module is down, a remote copy sends nothing (R407). -/
def execChunkDebit (op : Nat) (k : Nat) (s : State) : Result :=
  .next (match getOp s op with
    | none => s
    | some o =>
      if !o.accepted then s
      else if owesFlush o then sendFlush o s
      else if o.stopped || o.left.isEmpty || k = 0 then payDebit op s
      else if o.kind = .cpyr ∧ (readDesc o.desc).route = 0 ∧ maskDown s (readDesc o.desc).mod = true then s
      else if o.bad ≥ 2 then stopOp op cUE_CONSUMED s
      else
        let m := moveChunk s op (chunkUnits o k) s
        if m.vals.isEmpty then payDebit op (if m.wait.isEmpty then m.st else awaitEng o m.wait m.st)
        else
          let s0 := endWait o.waiter m.st
          let s1 := noteMoved o (m.vals.map Prod.fst) (if m.wait.isEmpty then s0 else awaitEng o m.wait s0)
          let b := ((getOp s1 op).map (fun x => x.moved - o.moved)).getD 0
          if o.kind = .cpyr then sendUnits o m.vals b s1 else payDebit op s1)

/-! ### Completion (R280, R289, R405, R402) -/

/-- Clears the suspect marks of the regions that their owner has rewritten (R402). -/
def clearSuspect (o : Op) (s : State) : State :=
  (clearsOf s o).foldl (fun s k => { s with toks := tset {} s.toks k { tget {} s.toks k with suspect := false } }) s

/-- An operation gives its tiles back: their use counts, and with RET = 1 their owner bits (R289). -/
def leaveTiles (ts : List Nat) (ret : Bool) (s : State) : State :=
  let s1 := ts.foldl (fun s t => unuseTile t s) s
  if ret then ts.foldl (fun s t => { s with tiles := tupd {} s.tiles t (fun x => { x with own := false }) }) s1 else s1

/-- What completion does to the mark (R279, R282, R405). A fault code reaches ERR as the operation completes, so that of two faulted operations the one that
completes first is kept (DESIGN CHOICE, log 68). -/
def markDone (o : Op) (late : Bool) (m : Mark) : Mark :=
  if o.dead then { m with count := m.count - 1 }
  else { m with
         count := m.count - 1, flg := m.flg ||| o.flg,
         err := if m.err ≠ 0 ∧ ¬(m.err = cPROMISE_MISSED ∧ o.err = cFABRIC) then m.err else if o.err ≠ 0 then o.err else if late then cPROMISE_MISSED else 0 }

/-- `cpyk` ends once every operation under its mask has stopped: ERR and FLG of its marks are cleared (R293). -/
def cancelDone (n : Nat) (s : State) : State :=
  match (getVlc s n).wait with
  | .cancel mask cnt reg =>
    if s.ops.any (fun o => mineOp s n o && bitN mask o.mark && o.accepted) then s
    else
      answer n reg (wN cnt) (updVlc n (fun v => {
        v with
        marks := (upto 8).foldl (fun t i => if bitN mask i then tupd {} t i (fun m => { m with err := 0, flg := 0 }) else t) v.marks }) s)
  | _ => s

/-- Whether an operation has nothing more to perform. -/
def opFinished (o : Op) : Bool :=
  o.accepted && (o.stopped || o.left.isEmpty) && o.owed == 0 && (o.kind != .cpyr || o.acked ≥ o.sentN)

/-- Whether a mark of a VLC is quiescent, and whether every mark is. -/
def quiet (v : Vlc) (i : Nat) : Bool := (tget {} v.marks i).count == 0
def allQuiet (v : Vlc) : Bool := (upto 8).all (quiet v)

/-- The mark of an operation that has completed, on its VLC or in its saved context. -/
def finishMark (o : Op) (late : Bool) (s : State) : State :=
  let v := getVlc s o.vlc
  if mineOp s o.vlc o = true ∧ v.status ≠ .free then
    updVlc o.vlc (fun v =>
      let v1 := { v with marks := tupd {} v.marks o.mark (markDone o late) }
      if quiet v1 o.mark then { v1 with event := true } else v1) s
  else
    let one (x : Saved) : Saved :=
      if x.vlcNo = o.vlc ∧ x.ctx.agent = o.agent ∧ x.ctx.seq = o.seq then
        { x with ctx := { x.ctx with marks := tupd {} x.ctx.marks o.mark (markDone o late) } }
      else x
    { s with launches := s.launches.map (fun l => { l with saved := l.saved.map one }) }

/-- OPERATION_COMPLETE: the operation of serial number `op` completes (R280). A write through CXL.io has completed when the read that follows it has
(R292). -/
def execOperationComplete (op : Nat) (s : State) : Result :=
  .next (match getOp s op with
    | none => s
    | some o =>
      let d := readDesc o.desc
      if !opFinished o || (o.kind == .cpyr && d.route == 1 && o.reply.isNone && !(o.stopped && o.sentN == 0)) then s
      else
        let late := s.cyc > o.prom && o.err == 0 && !o.dead
        let s1 := noticeEnd o (o.dead || o.err != 0) { s with ops := s.ops.filter (fun p => p.id != op) }
        let s3 := leaveTiles o.tiles o.ret s1
        let s4 := if o.err = 0 && !o.dead then clearSuspect o s3 else s3
        let s5 := finishMark o late s4
        cancelDone o.vlc (if late then elog 8 cPROMISE_MISSED (stackOf o.vlc) (vaultOf o.vlc % 16) o.agent o.va o.mark s5 else s5))

/-- The answer of a peer to a remote copy: to the check before acceptance, or for a chunk; none comes while the module cannot be reached (R407). From a CXL
port, 0 completes the final read, 1 says that a write has failed, and another code that the read completes with an error (R292). -/
def peerReply (op code : Nat) (s : State) : State :=
  match getOp s op with
  | none => s
  | some o =>
    if o.kind != .cpyr then s
    else if (readDesc o.desc).route = 1 then
      (if !o.accepted || o.sentN == 0 then s
       else if code = 1 then stopOp op cFABRIC s
       else if !o.asked || o.reply.isSome then s
       else updOp op (fun o => { o with reply := some code }) (if code = 0 then s else stopOp op cFABRIC s))
    else if maskDown s (readDesc o.desc).mod then s
    else
    let s := noteFlit (linkFor s (readDesc o.desc).mod (readDesc o.desc).dst) s
    if !o.accepted then (if o.asked && o.reply.isNone then updOp op (fun o => { o with reply := some code }) s else s)
    else if o.acked < o.sentN then
      let s1 := updOp op (fun o => { o with acked := o.acked + 1 }) s
      if code ≠ 0 then stopOp op code s1 else s1
    else s

/-! ### cpy, cpyg, cpyr (R290, R366) -/

/-- A word of the remote aperture where a tile or a DRAM byte of this module is named: TRANSLATION where the aperture names no module, else PROTECTION
(R313, R360). -/
def notTile (s : State) (va : Nat) : Except Nat Nat :=
  match aperture s (getVlc s s.cur).vi va with
  | .error _ => .error cTRANSLATION
  | .ok _ => .error cPROTECTION

/-- The first checks of a descriptor address: a fault code, or its PA. -/
def descAddr (s : State) (va al : Nat) : Except Nat Nat :=
  if va ≥ 72057594037927936 then .error cTRANSLATION
  else if va % al ≠ 0 then .error cALIGN
  else if inAperture va then notTile s va
  else match pageOf s (whoOf s s.cur) va with
    | none => .error cTRANSLATION
    | some p =>
      if !p.rd || !isScratch p.pa || p.dev then .error cPROTECTION
      else if !isMbox s p.pa && !tileBit s p.pa then .error cTILE_OWNER
      else .ok p.pa

/-- The tiles of `n` bytes at a VA, each checked as a descriptor's tile, the lower first (R271, R276, R360): a fault code and its VA, or the PA of each
tile's part. -/
def tilesAt (s : State) (va n al : Nat) : Except (Nat × Nat) (List Nat) :=
  match descAddr s va al with
  | .error c => .error (c, va)
  | .ok pa =>
    if va % 4096 + n ≤ 4096 then .ok [pa]
    else match descAddr s (va / 4096 * 4096 + 4096) al with
      | .error c => .error (c, va / 4096 * 4096 + 4096)
      | .ok pb => .ok [pa, pb]

/-- The page-table words that the walk of an address named by the current word reads. -/
def walkOf (va : Nat) (s : State) : List Nat := tableReads s (whoOf s s.cur).vi va

/-- The state after the walk of an address named by the current word: what it read is noted, and its translation is kept (R14, R75). -/
def walked (va : Nat) (s : State) : State := takeWalk (walkOf va s) (madeFor s (whoOf s s.cur).vi va) s

/-- The current word names the address `va`: its walk waits for its banks, or is made (R75, R263). -/
def withWalk (va : Nat) (k : State → State) (s : State) : State :=
  if walkWaits s (walkOf va s) then awaitBanks (walkOf va s) s else k (walked va s)

/-- The walks of the pages of `n` bytes at a VA. -/
def withWalks (va n : Nat) (k : State → State) (s : State) : State :=
  withWalk va (if va % 4096 + n ≤ 4096 then k else withWalk (va / 4096 * 4096 + 4096) k) s

/-- Sends an operation to the copy engine of the issuing vault's quad; the VLC waits for its answer (R279). -/
def sendOp (o : Op) (s : State) : State :=
  let s1 := bump { s with ops := s.ops ++ [{ o with
                                             id := s.nextId, vlc := s.cur, agent := s.me.agent, vi := (whoOf s s.cur).vi, seq := s.me.seq,
                                             quad := quadOf (vaultOf s.cur), rm := s.me.rmode.toNat, origin := s.me.pc.toNat }] }
  noteIrrev s.cur (updMe (fun v => { v with wait := .engine s.nextId }) s1)

/-- `cpy`, `cpyg` and `cpyr` at issue. -/
def copyForm (k : OpKind) (o : CPop) (s : State) : State :=
  issue noIll [(o.a.toNat, o.fa)] o.d.toNat (fun s =>
    let va := (s.me.rx o.a.toNat).toNat
    withWalks va 256 (fun s =>
      match tilesAt s va 256 64 with
      | .error (c, a) => raise c a s
      | .ok ps =>
        if s.me.faults.length ≥ 16 || fencesOpen s s.cur then s
        else sendOp {
                      id := 0, vlc := 0, agent := 0, vi := 0, quad := 0, kind := k, mark := o.n.toNat, reg := o.d.toNat, va := va, pa := ps.headD 0,
                      tiles := ps.map (· / 4096) } s) s) s

/-- `cpy` (R290). -/
def execCpy (o : CPop) (s : State) : Result := .next (copyForm .cpy o s)

/-- `cpyg` (R291). -/
def execCpyg (o : CPop) (s : State) : Result := .next (copyForm .cpyg o s)

/-- `cpyr` (R292). -/
def execCpyr (o : CPop) (s : State) : Result := .next (copyForm .cpyr o s)

/-! ### tmv (R295, R367) -/

/-- The checks of one tile of a `tmv`: a fault code, or its PA. `dst` names the destination. -/
def tmvTile (s : State) (va : Nat) (dst : Bool) : Except Nat Nat :=
  if va ≥ 72057594037927936 then .error cTRANSLATION
  else if va % 4096 ≠ 0 then .error cALIGN
  else if inAperture va then notTile s va
  else match pageOf s (whoOf s s.cur) va with
    | none => .error cTRANSLATION
    | some p =>
      if dst then
        if inWindows va && isIstore p.pa then .ok p.pa
        else if !isScratch p.pa || !p.wr then .error cPROTECTION
        else if !isMbox s p.pa && !tileBit s p.pa then .error cTILE_OWNER
        else .ok p.pa
      else if !p.rd || !(isScratch p.pa || (paDram p.pa && !p.dev && (p.cc || !nbMarked s p.pa))) then .error cPROTECTION
      else if isScratch p.pa && !isMbox s p.pa && !tileBit s p.pa then .error cTILE_OWNER
      else .ok p.pa

/-- `tmv`: the source is checked before the destination (R295). -/
def execTmv (o : TMop) (s : State) : Result :=
  .next (issue noIll [(o.a.toNat, o.fa), (o.b.toNat, o.fb)] o.d.toNat (fun s =>
    let dst := (s.me.rx o.a.toNat).toNat
    let src := (s.me.rx o.b.toNat).toNat
    withWalk src (fun s =>
      match tmvTile s src false with
      | .error c => raise c src s
      | .ok _ =>
        withWalk dst (fun s =>
          match tmvTile s dst true with
          | .error c => raise c dst s
          | .ok _ =>
            if s.me.faults.length ≥ 16 || fencesOpen s s.cur then s
            else sendOp {
                          id := 0, vlc := 0, agent := 0, vi := 0, quad := 0, kind := .tmv, mark := o.n.toNat, reg := o.d.toNat, va := dst,
                          desc := [dst, src], ret := o.ret } s) s) s) s)

/-! ### cpyk and wmark (R293, R294) -/

/-- `cpyk` (R293). -/
def execCpyk (o : RAop) (s : State) : Result :=
  .next (issue noIll [(o.a.toNat, o.fa)] o.d.toNat (fun s =>
    let mask := fld (s.me.rx o.a.toNat).toNat 0 8
    let n := (s.ops.filter (fun p => mineOp s s.cur p && !p.dead && p.accepted && bitN mask p.mark)).length
    cancelDone s.cur (noteIrrev s.cur (updMe (fun v => { v with wait := .cancel mask n o.d.toNat }) (cancelOps s.cur mask s)))) s)

/-- `wmark` (R294): waits for its marks, then delivers the error of the lowest that has one, class E, or gathers and clears their flags. -/
def execWmark (o : RAop) (s : State) : Result :=
  .next (issue noIll [(o.a.toNat, o.fa)] o.d.toNat (fun s =>
    let mask := fld (s.me.rx o.a.toNat).toNat 0 8
    let ms := (upto 8).filter (fun i => bitN mask i)
    if ms.any (fun i => !quiet s.me i) then s
    else match ms.find? (fun i => (tget {} s.me.marks i).err ≠ 0) with
      | some i =>
        if vecBusy s s.cur && !s.me.hnd && s.me.tvec != 0 then s
        else
          let c := (tget {} s.me.marks i).err
          raiseAt { code := c, cls := 4, aux := i, origin := s.me.pc.toNat } s.me.pc.toNat
            (updMe (fun v => { v with marks := tupd {} v.marks i (fun m => { m with err := 0 }) }) s)
      | none =>
        let f := ms.foldl (fun a i => a ||| (tget {} s.me.marks i).flg) 0
        finishX o.d.toNat (wN f) (updMe (fun v => {
          v with
          marks := ms.foldl (fun t i => tupd {} t i (fun m => { m with flg := 0 })) v.marks }) (discardAhead s.cur s))) s)

/-! ### tflip (R87 to R89, R122, R296) -/

/-- Whether an earlier load or store of VLC `n` to the tile at PA `t` has still to perform. -/
def tileAwaited (s : State) (n t : Nat) : Bool :=
  s.net.any (fun a => a.vlc == n && (a.kind == .load || a.kind == .store) && sameByte a.tgt a.size (.loc t) 4096) ||
    viqBlocks s n 16 (.loc t) 4096 false ||
    (rqOf s n).any (fun r => r.stores.any (fun b => sameByte b.tgt b.size (.loc t) 4096))

/-- The steps of `tflip` on the tile `t` that holds `pa`, by the bit that it found first: 0, then the flush and the wait for earlier accesses, and the bit
becomes 1; or 1, then the wait for the engines, and the bit becomes 0 (R87, R122). -/
def flipTile (d t : Nat) (found : Bool) (s : State) : State :=
  if !found then
    if s.me.sopen && !mayFlush s s.cur then awaitFlush s
    else
      let s1 := if s.me.sopen then stripFlush s.cur s else s
      if tileAwaited s1 s.cur (t * 4096) then s1
      else finishX d 1 (noteIrrev s.cur (updMe (fun v => { v with flip := none }) { s1 with tiles := tupd {} s1.tiles t (fun x => { x with own := true }) }))
  else if (tget {} s.tiles t).use ≠ 0 then s
  else finishX d 0 (noteIrrev s.cur (updMe (fun v => { v with flip := none }) { s with tiles := tupd {} s.tiles t (fun x => { x with own := false }) }))

/-- `tflip` (R296): the new bit in xd. While it waits, the bit it found first decides what it does (R87). -/
def execTflip (o : RAop) (s : State) : Result :=
  .next (issue noIll [(o.a.toNat, o.fa)] o.d.toNat (fun s =>
    let va := (s.me.rx o.a.toNat).toNat
    withWalk va (fun s =>
      if va ≥ 72057594037927936 then raise cTRANSLATION va s
      else if inAperture va then (match notTile s va with | .error c => raise c va s | .ok _ => s)
      else match pageOf s (whoOf s s.cur) va with
        | none => raise cTRANSLATION va s
        | some p =>
          if !isScratch p.pa then raise cPROTECTION va s
          else
            let found := s.me.flip.getD (tileBit s p.pa)
            flipTile o.d.toNat (p.pa / 4096) found (updMe (fun v => { v with flip := some found }) s)) s) s)

end Sys2Proof.Machine
end

