-- ==== Sys2Proof/Machine/HostMem.lean ====
section
/-! DEFINITION. CXL.mem accesses of the host (R264, R268, R320, R321, R396, R404). -/
namespace Sys2Proof.Machine

/-- The checks of a host access, made when it is served: a fault code, or its PA (R93, R320, R402). The windows and the aperture name nothing
for the host. -/
def hostCheck (s : State) (r : HostReq) : Except Nat Passed :=
  let k : Want := if r.data.isSome then .write else .read
  if inAperture r.va || inWindows r.va then .error cTRANSLATION
  else match addrCheck s { vi := r.vi, vault := none } r.va 1 k with
    | .error c => .error c
    | .ok p =>
      match p.tgt with
      | .rem _ _ _ => .error cTRANSLATION
      | .loc pa =>
        if paDram pa then
          match (upto (cdiv (r.size + pa % 8) 8)).findSome? (fun i => tokenCheck s (hostAgent r.vi) (pa / 8 * 8 + 8 * i) k (fineAt pa r.size)) with
          | some c => .error c
          | none => .ok p
        else .ok p

/-- Read data, or poison, for the host. -/
def hostData (tag : Nat) (v : Option Nat) (s : State) : State := { s with out := { s.out with reads := s.out.reads ++ [(tag, v)] } }

/-- A refused access: a read returns poison, a write is dropped, and the refusal is logged with EVT 10, found where the access leads. -/
def hostRefuse (r : HostReq) (code : Nat) (s : State) : State :=
  let p := foundAt s { vi := r.vi, vault := none } r.va
  elog 10 code (paStack p) (paVault p) (hostAgent r.vi) r.va 0 (if r.data.isSome then s else hostData r.tag none s)

/-- A host access is served at the bank of `pa` at a boundary (R264). -/
def noteCxl (pa : Nat) (s : State) : State :=
  match cmdOver s pa with
  | some c => updCmd c.id (fun d => { d with cxl := bankOf s pa :: d.cxl, served := bankOf s pa :: d.served }) s
  | none => s

/-- The access performs; a lost frame gives poison and takes no write (R414). -/
def hostPerform (r : HostReq) (pa : Nat) (s : State) : State :=
  match r.data with
  | some bs => if isLost s pa then s else writeBytes pa bs s
  | none => let x := readMem pa r.size (hostAgent r.vi) s; hostData r.tag x.1 x.2

/-- An access served later than 33 rc after its arrival is counted (R396): 33 rc are 2,722.5 cycles. -/
def hostLate (r : HostReq) (pa : Nat) (s : State) : State := if s.cyc > r.arr + 2722 then countCe (paStack pa) 1 32 16 s else s

/-- Serves the waiting host access of serial number `id`; one that must wait for its line, its bank or a lock waits in its place of arrival (R264, R321,
R396). -/
def hostServe (id : Nat) (s : State) : State :=
  match s.hostq.find? (fun r => r.id == id) with
  | none => s
  | some r =>
    let s1 := endWait (.host id) { s with hostq := s.hostq.filter (fun q => q.id != id) }
    match hostCheck s r with
    | .error c => if lineWaits s r then s else hostRefuse r c s1
    | .ok p =>
      match p.tgt with
      | .rem _ _ _ => s
      | .loc pa =>
        if !lineWaits s r && bankTurn s (.host id) (hostAgent r.vi) [pa] && !walkWaits s p.walk then hostLate r pa (hostPerform r pa (noteCxl pa (notePin p s1)))
        else awaitPassed (.host id) (hostAgent r.vi) [p] s

/-- The decoder binding of number `dec` (R320). -/
def bindOn (s : State) (dec : Nat) : Bool := bitN (tget 0 s.mgmt.hdmb dec).toNat 0
def bindVi (s : State) (dec : Nat) : Nat := fld (tget 0 s.mgmt.hdmb dec).toNat 1 8
def bindVa (s : State) (dec off : Nat) : Nat := fld (tget 0 s.mgmt.hdmb dec).toNat 28 28 * 268435456 + off

/-- A host access arrives: it is served at once where nothing is in its way. A decoder that is not bound claims nothing; in mailbox mode an access is
refused (R331). -/
def hostArrive (dec off size : Nat) (data : Option (List Byte)) (tag : Nat) (s : State) : State :=
  if s.plat.stopped || dec ≥ 64 || !bindOn s dec || size = 0 || size > 64 - off % 64 then s
  else
    let r : HostReq := { id := s.nextId, port := dec / 16, vi := bindVi s dec, va := bindVa s dec off, size := size, data := data, tag := tag, arr := s.cyc }
    if !s.plat.service then hostRefuse r 0 s
    else hostServe r.id (bump { s with hostq := s.hostq ++ [r] })

/-- HOST_MEM_READ (R320). -/
def execHostMemRead (dec : Nat) (off : Nat) (size : Nat) (tag : Nat) (s : State) : Result := .next (hostArrive dec off size none tag s)

/-- HOST_MEM_WRITE (R320). -/
def execHostMemWrite (dec : Nat) (off : Nat) (bytes : List Byte) (tag : Nat) (s : State) : Result :=
  .next (hostArrive dec off bytes.length (some bytes) tag s)

end Sys2Proof.Machine
end

