-- ==== Sys2Proof/Machine/Token.lean ====
section
/-! DEFINITION. The token group: `own`, `lend`, `ret`, `split`, `merge`, `rshare`, `rdrop`, `tq`, with the drain and the completion of a token
operation (R89, R92, R95 to R97, R123, R299, R368). -/
namespace Sys2Proof.Machine

/-! ### Entries -/

/-- Key of an entry: its index, and its stack from bit 16 on, which is also its token reference (R299). -/
def tokAt (s : State) (k : Nat) : Tok := tget {} s.toks k
def putTok (k : Nat) (t : Tok) (s : State) : State := { s with toks := tset {} s.toks k t }

/-- The lowest number from `i` on that is not in a rising list. -/
def lowestFree : List Nat → Nat → Nat
  | [], i => i
  | k :: ks, i => if k < i then lowestFree ks i else if k = i then lowestFree ks (i + 1) else i

/-- The lowest free entry of a stack's table, if any. -/
def freeTok (s : State) (stack : Nat) : Option Nat :=
  let i := lowestFree ((s.toks.filter (fun p => p.1 / 65536 == stack && p.2.kind != 0)).map (fun p => p.1 % 65536)) 0
  if i < 65536 then some (stack * 65536 + i) else none

/-- The 32-byte image of an entry, as one number (R92). -/
def tokImage (t : Tok) : Nat :=
  (t.kind + b2n t.suspect * 4 + t.shares * 2 ^ 16 + t.parent * 2 ^ 32) + (t.base * 4096) * 2 ^ 64 + t.pages * 2 ^ 128 +
    (t.owner + t.lender * 2 ^ 32) * 2 ^ 192

/-- The launch root of an instance; the resident program has none (R91, R94). -/
def rootOfVlc (v : Vlc) : Option Nat := if v.resident then none else some (rootAgent v.vi v.seq)

/-- Whether a PA lies in the region of an entry. -/
def inRegion (t : Tok) (pa : Nat) : Bool := t.base ≤ pa / 4096 && pa / 4096 < t.base + t.pages

/-! ### Naming (R299, R368 steps 3 and 4) -/

/-- The PA that an address names, for the token group: a fault code, or a DRAM PA. -/
def tokPa (s : State) (va : Nat) : Except Nat Nat :=
  if va ≥ 72057594037927936 then .error cTRANSLATION
  else if inAperture va then notTile s va
  else match pageOf s (whoOf s s.cur) va with
    | none => .error cTRANSLATION
    | some p => if paDram p.pa then .ok p.pa else .error cPROTECTION

/-- The region entry that a register names: by address, or by reference to an entry of kind `k`. -/
def nameRegion (s : State) (x : Nat) (byRef : Bool) (k : Nat) : Except Nat Nat :=
  if byRef then
    if x ≥ 1048576 || x / 65536 ≥ 12 || (tokAt s x).kind != k then .error cTOKEN_STATE else .ok x
  else match tokPa s x with
    | .error c => .error c
    | .ok pa => match regionAt s pa with
      | some (key, _) => .ok key
      | none => .error cUNOWNED

/-- A register names an entry: where it does by address, the walk of the address comes first (R75, R263). -/
def withName (x : Nat) (byRef : Bool) (k : State → State) (s : State) : State := if byRef then k s else withWalk x k s

/-! ### Requirements (R95, R368 steps 5 and 6) -/

/-- Whether agent `b` is a context of the launch of `v`: that of a VLC on which it has a slot, whether or not an instance has started there (R95). -/
def launchContext (s : State) (v : Vlc) (b : Nat) : Bool :=
  !v.resident && s.launches.any (fun l => sameLaunch l v && l.slots.any (fun n => ctxAgent n l.vi == b))

/-- Whether R95 allows `lend` of a region of a stack to agent `b`. -/
def lendTo (s : State) (v : Vlc) (stack b : Nat) : Bool :=
  launchContext s v b || rootOfVlc v == some b || (!v.resident && b == hostAgent v.vi) || b == homeAgent stack ||
    (agentType b == 5 && b % 268435456 / 16777216 == 0)

/-- Whether a recipient has a TYPE that R368 refuses. -/
def badRecipient (b : Nat) : Bool := agentType b == 0 || agentType b ≥ 7

/-- Raises a fault of the token group: it names the entry once one is known (R347). -/
def tokFault (code x : Nat) (byRef : Bool) (key : Option Nat) (s : State) : State :=
  let addr := if byRef then 0 else x
  match key with
  | some k => raiseEntry code addr 1 (k / 65536) (k % 65536) s
  | none => raise code addr s

/-- The first failing requirement of a list of (fails, code). -/
def firstReq (l : List (Bool × Nat)) : Option Nat := firstFail l

/-! ### Waiting for the table (R97) -/

/-- The VLC waits until its operation completes: the drain has still to end, or has. -/
def waitToken (op key arg reg val : Nat) (drained : Bool) (s : State) : State :=
  noteIrrev s.cur (updMe (fun v => { v with wait := .token op key arg drained reg val }) s)

/-- A token instruction that names E and has requirements; `k` makes its effect (R368). -/
def tokForm (o : TKAop) (req : State → Nat → Tok → List (Bool × Nat)) (k : Nat → State → State) (s : State) : State :=
  issue noIll [(o.a.toNat, o.fa)] o.d.toNat (fun s =>
    let x := (s.me.rx o.a.toNat).toNat
    withName x o.x (fun s =>
      match nameRegion s x o.x 1 with
      | .error c => tokFault c x o.x none s
      | .ok key =>
        match firstReq (req s key (tokAt s key)) with
        | some c => tokFault c x o.x (some key) s
        | none => k key s) s) s

/-- A token instruction with a second operand. -/
def tokForm2 (o : TKop) (req : State → Nat → Tok → Nat → List (Bool × Nat)) (k : Nat → Nat → State → State) (s : State) : State :=
  issue noIll [(o.a.toNat, o.fa), (o.b.toNat, o.fb)] o.d.toNat (fun s =>
    let x := (s.me.rx o.a.toNat).toNat
    let y := (s.me.rx o.b.toNat).toNat
    withName x o.x (fun s =>
      match nameRegion s x o.x 1 with
      | .error c => tokFault c x o.x none s
      | .ok key =>
        match firstReq (req s key (tokAt s key) y) with
        | some c => tokFault c x o.x (some key) s
        | none => k key y s) s) s

/-- The flush of R89 in an open strip; the word waits while the buffer cannot perform. -/
def flushFirst (k : State → State) (s : State) : State :=
  if s.me.sopen then (if mayFlush s s.cur then k (stripFlush s.cur s) else awaitFlush s) else k s

/-! ### The instructions (R95) -/

/-- `own`. -/
def execOwn (o : TKAop) (s : State) : Result :=
  .next (tokForm o (fun s _ t => [(rootOfVlc s.me != some t.owner, cUNOWNED), (t.shares != 0, cTOKEN_STATE)])
    (fun key s => waitToken 0 key 0 o.d.toNat key true (putTok key { tokAt s key with owner := s.me.agent, lender := 0 } s)) s)

/-- `lend`: drain first. -/
def execLend (o : TKop) (s : State) : Result :=
  .next (tokForm2 o (fun s key t b =>
      [(b ≥ 4294967296 || badRecipient b || !lendTo s s.me (key / 65536) b, cTOKEN_STATE), (t.owner != s.me.agent, cUNOWNED),
        (t.shares != 0 || t.lender != 0, cTOKEN_STATE)])
    (fun key b => flushFirst (waitToken 1 key b o.d.toNat key false)) s)

/-- `ret`: drain first; a home region that the issuer lent comes back too. -/
def execRet (o : TKAop) (s : State) : Result :=
  .next (tokForm o (fun s _ t =>
      [(t.owner != s.me.agent && !(agentType t.owner == 4 && t.lender == s.me.agent), cUNOWNED), (t.owner == s.me.agent && t.shares != 0, cTOKEN_STATE)])
    (fun key => flushFirst (waitToken 2 key 0 o.d.toNat key false)) s)

/-- `split`: the new entry takes the range from the offset on. -/
def execSplit (o : TKop) (s : State) : Result :=
  .next (tokForm2 o (fun s key t y =>
      [(t.owner != s.me.agent, cUNOWNED),
        (t.shares != 0 || y % 4096 != 0 || y == 0 || y ≥ t.pages * 4096 || (freeTok s (key / 65536)).isNone, cTOKEN_STATE)])
    (fun key y s =>
      let t := tokAt s key
      let f := (freeTok s (key / 65536)).getD 0
      waitToken 3 key y o.d.toNat f true
        (putTok f { t with base := t.base + y / 4096, pages := t.pages - y / 4096, shares := 0, parent := 0 } (putTok key { t with pages := y / 4096 } s))) s)

/-- `merge`: F is named the same way as E, after it (R368 step 4). -/
def execMerge (o : TKop) (s : State) : Result :=
  .next (issue noIll [(o.a.toNat, o.fa), (o.b.toNat, o.fb)] o.d.toNat (fun s =>
    let x := (s.me.rx o.a.toNat).toNat
    let y := (s.me.rx o.b.toNat).toNat
    withName x o.x (fun s =>
      match nameRegion s x o.x 1 with
      | .error c => tokFault c x o.x none s
      | .ok e =>
        withName y o.x (fun s =>
          match nameRegion s y o.x 1 with
          | .error c => tokFault c y o.x none s
          | .ok f =>
            let a := tokAt s e
            let b := tokAt s f
            if a.owner != s.me.agent then tokFault cUNOWNED x o.x (some e) s
            else if b.owner != s.me.agent then tokFault cUNOWNED y o.x (some f) s
            else if f / 65536 != e / 65536 then tokFault cTOKEN_STATE y o.x (some f) s
            else if a.shares != 0 || b.shares != 0 || a.lender != b.lender || a.base + a.pages != b.base then tokFault cTOKEN_STATE x o.x (some e) s
            else
              waitToken 4 e f o.d.toNat e true
                (putTok f {} (putTok e { a with pages := a.pages + b.pages, suspect := a.suspect || b.suspect, since := max a.since b.since } s))) s) s) s)

/-- `rshare`: drain first. -/
def execRshare (o : TKop) (s : State) : Result :=
  .next (tokForm2 o (fun s key t b =>
      [(b ≥ 4294967296 || badRecipient b, cTOKEN_STATE), (t.owner != s.me.agent, cUNOWNED),
        (t.shares ≥ 65535 || (freeTok s (key / 65536)).isNone, cTOKEN_STATE)])
    (fun key b => flushFirst (waitToken 5 key b o.d.toNat 0 false)) s)

/-- The issuer's lowest share entry of a region. -/
def myShare (s : State) (key : Nat) : Option Nat :=
  (s.toks.find? (fun p => p.1 / 65536 == key / 65536 && p.2.kind == 2 && p.2.parent == key % 65536 && p.2.owner == s.me.agent)).map Prod.fst

/-- Whether accesses of VLC `n` of some kind to a region have still to perform; buffered stores are not counted. -/
def regionAwaited (s : State) (n : Nat) (t : Tok) (loads : Bool) : Bool :=
  s.net.any (fun a => a.vlc == n && (!loads || a.kind == .load) && sameByte a.tgt a.size (.loc (t.base * 4096)) (t.pages * 4096)) ||
    viqBlocks s n 16 (.loc (t.base * 4096)) (t.pages * 4096) false ||
    (!loads && (rqOf s n).any (fun r => r.stores.any (fun b => sameByte b.tgt b.size (.loc (t.base * 4096)) (t.pages * 4096)) ||
      r.atoms.any (fun b => sameByte b.tgt b.size (.loc (t.base * 4096)) (t.pages * 4096))))

/-- Frees a share entry and counts it off its region (R95). -/
def dropShare (k : Nat) (s : State) : State :=
  let t := tokAt s k
  let e := k / 65536 * 65536 + t.parent
  putTok k {} (putTok e { tokAt s e with shares := (tokAt s e).shares - 1 } s)

/-- `rdrop`: waits until the issuer's loads of the region have performed (R123). -/
def execRdrop (o : TKAop) (s : State) : Result :=
  .next (issue noIll [(o.a.toNat, o.fa)] o.d.toNat (fun s =>
    let x := (s.me.rx o.a.toNat).toNat
    withName x o.x (fun s =>
      match nameRegion s x o.x (if o.x then 2 else 1) with
      | .error c => tokFault c x o.x none s
      | .ok key =>
        match (if o.x then (if (tokAt s key).owner == s.me.agent then some key else none) else myShare s key) with
        | none => tokFault cUNOWNED x o.x (some key) s
        | some k => if regionAwaited s s.cur (tokAt s k) true then s else waitToken 6 k 0 o.d.toNat k true (dropShare k s)) s) s)

/-- The entry `tq` names: none when no region contains the address. -/
def tqEntry (s : State) (x : Nat) (byRef : Bool) : Except Nat (Option Nat) :=
  if byRef then (if x ≥ 1048576 || x / 65536 ≥ 12 then .error cTOKEN_STATE else .ok (some x))
  else match tokPa s x with
    | .error c => .error c
    | .ok pa => .ok ((regionAt s pa).map Prod.fst)

/-- `tq`: the entry and, with xb other than x0, its image in memory (R299, R368 step 7). -/
def execTq (o : TKop) (s : State) : Result :=
  .next (issue noIll [(o.a.toNat, o.fa), (o.b.toNat, o.fb)] o.d.toNat (fun s =>
    let x := (s.me.rx o.a.toNat).toNat
    let va := (s.me.rx o.b.toNat).toNat
    withName x o.x (fun s =>
      match tqEntry s x o.x with
      | .error c => tokFault c x o.x none s
      | .ok e =>
        let val := match e with | some k => k | none => 2 ^ 64 - 1
        let img := match e with | some k => tokImage (tokAt s k) | none => 0
        let fin (s : State) : State := updMe (fun v => { v with wait := .token 7 0 0 true o.d.toNat val }) s
        if o.b = 0 then fin s
        else if va % 32 ≠ 0 then raise cALIGN va s
        else match addrCheck s (whoOf s s.cur) va 32 .write with
          | .error c => raiseAddr c va s
          | .ok p =>
            match storeSend p va 32 img s.me.ocdef.toNat s with
            | none => awaitBanks p.walk s
            | some s1 => fin s1) s) s)

/-! ### The end of a drain and of an operation (R96, R97) -/

/-- Whether a near-bank command of VLC `n` has an operand in a region, or may have: its block is read at acceptance (R96, R257). -/
def cmdInRegion (s : State) (n : Nat) (t : Tok) : Bool :=
  s.cmds.any (fun c => c.vlc == n && !c.dropped &&
    (c.stage == .sent || (cmdRows s c).any (fun r => rangesMeet (rowPa r.1 r.2.1) (8192 * r.2.2) (t.base * 4096) (t.pages * 4096))))

/-- Whether an operation of VLC `n` still reads or writes a region. -/
def opInRegion (s : State) (n : Nat) (t : Tok) : Bool :=
  s.ops.any (fun o => mineOp s n o && o.accepted && (upto o.total).any (fun u => (opWords s o u).any (fun w => inRegion t (8 * w))))

/-- Whether an atomic or barrier operation on a region has still to perform at the home. -/
def homeAwaited (s : State) (t : Tok) : Bool :=
  s.net.any (fun a => (a.kind == .atomic || a.kind == .barInit || a.kind == .barArrive) &&
    (match a.tgt with | .loc pa => inRegion t pa | .rem _ _ _ => false))

/-- The four conditions of R96. -/
def drainOver (s : State) (n key : Nat) (home : Bool) : Bool :=
  let t := tokAt s key
  !regionAwaited s n t false && !cmdInRegion s n t && !opInRegion s n t && !(home && homeAwaited s t)

/-- The change of entry of a drained instruction (R95); none while a share finds no free entry. -/
def drainedChange (n op key arg : Nat) (s : State) : Option (State × Nat) :=
  let v := getVlc s n
  let t := tokAt s key
  match op with
  | 1 => some (putTok key { t with owner := arg, lender := v.agent } s, key)
  | 2 => some (putTok key { t with owner := if t.lender ≠ 0 ∧ agentType t.owner ≠ 4 then t.lender else if agentType t.owner = 4 then v.agent else (rootOfVlc v).getD v.agent, lender := 0 } s, key)
  | _ => (freeTok s (key / 65536)).map (fun f =>
      (putTok f { kind := 2, parent := key % 65536, base := t.base, pages := t.pages, owner := arg, lender := v.agent }
        (putTok key { t with shares := t.shares + 1 } s), f))

/-- Numbers from here on stand for the TKOP of a VI where a step names a VLC. -/
def viDrain : Nat := 1536

/-- No load that performed before the drain issues after it (R96). -/
def dropEarlies (s : State) : State :=
  if s.vlcs.any (fun p => !p.2.early.isEmpty) then { s with vlcs := s.vlcs.map (fun p => (p.1, { p.2 with early := [] })) } else s

/-- UNHOME's drain: it waits for the atomics accepted at the home (R323). -/
def unhomeEnd (vi : Nat) (s : State) : State :=
  let x := getVi s vi
  let key := fld x.tkop.toNat 18 4 * 65536 + fld x.tkop.toNat 2 16
  if x.tkres ≠ 1 ∨ fld x.tkop.toNat 0 2 ≠ 2 ∨ homeAwaited s (tokAt s key) = true then s
  else updVi vi (fun x => { x with tkDrained := true }) (putTok key { tokAt s key with owner := hostAgent vi, lender := 0 } (dropEarlies s))

/-- DRAIN_END: the drain of the token instruction of a VLC, or of an UNHOME, ends and the entry changes (R96). -/
def execDrainEnd (vlc : Nat) (s : State) : Result :=
  .next (
    if vlc ≥ viDrain then (if (getVi s (vlc - viDrain)).tkDrained then s else unhomeEnd (vlc - viDrain) s)
    else match (getVlc s vlc).wait with
      | .token op key arg false reg _ =>
        if !drainOver s vlc key (op == 2 && agentType (tokAt s key).owner == 4) then s
        else match drainedChange vlc op key arg s with
          | none => s
          | some (s1, val) => updVlc vlc (fun v => { v with wait := .token op key arg true reg val }) (dropEarlies s1)
      | _ => s)

/-- TOKEN_OP_COMPLETE: the table and every cache hold the new state; xd is written and the VLC issues again, or TKRES becomes done (R97, R323). -/
def execTokenOpComplete (vlc : Nat) (s : State) : Result :=
  .next (
    if vlc ≥ viDrain then
      updVi (vlc - viDrain) (fun x => if x.tkres = 1 ∧ x.tkDrained = true then { x with tkres := 2, tkDrained := false } else x) s
    else match (getVlc s vlc).wait with
      | .token _ _ _ true reg val => answer vlc reg (wN val) s
      | _ => s)

/-- Passes every token and share of an agent to another, as `fin` passes them (R60). -/
def passTokens (a b : Nat) (s : State) : State :=
  { s with toks := s.toks.map (fun p => if p.2.kind != 0 && p.2.owner == a then (p.1, { p.2 with owner := b }) else p) }

end Sys2Proof.Machine
end

