-- ==== Sys2Proof/Machine/NearBank.lean ====
section
/-! DEFINITION. The near-bank group at issue: checks of fields, descriptors and block addresses, and the sending of a command to the bank
sequencer (R62, R267, R270 to R277, R349, R369). -/
namespace Sys2Proof.Machine

/-! ### Row ranges (R270) -/

/-- The checks of a row-range descriptor at issue (R270, R369). -/
def rangeBad (x : Nat) : Option Nat :=
  if fld x 31 33 ≠ 0 then some cCMD_INVALID
  else if rrCount x = 0 ∨ rrRow0 x + rrCount x > 256 then some cFRAME_CROSS
  else none

/-! ### Sending a command (R62, R256, R267) -/

/-- Near-bank commands of VLC `n` that have not responded; a `bklock` counts until it is granted. -/
def cmdsOut (s : State) (n : Nat) : Nat := (s.cmds.filter (fun c => c.vlc == n && c.agent == (getVlc s n).agent && !c.dropped)).length

/-- The serial number of a command is its place in program order. The word waits while 8 commands are outstanding, 16 faults wait, or a fence before it is
open (R62, R186, R187, R349). -/
def sendCmd (d : Nat) (irrev : Bool) (c : Cmd) (k : Cmd → State → State) (s : State) : State :=
  if cmdsOut s s.cur ≥ 8 || s.me.faults.length ≥ 16 || fencesOpen s s.cur then s
  else
    let c1 := {
      c with
      id := s.nextId, vlc := s.cur, agent := s.me.agent, vi := (whoOf s s.cur).vi, stack := stackOf s.cur, homeVault := vaultOf s.cur, reg := d,
      origin := s.me.pc.toNat }
    let s1 := k c1 (c1.tiles.foldl (fun s t => useTile t s) (bump { s with cmds := s.cmds ++ [c1] }))
    advance (updMe (fun v => v.drainX d) (if irrev then noteIrrev s.cur s1 else s1))

/-- A command with nothing else to do when it is sent. -/
def noMore (_ : Cmd) (s : State) : State := s

/-- A command record before it is sent. -/
def newCmd (k : CmdKind) (xa xb : Nat) : Cmd := { id := 0, vlc := 0, agent := 0, vi := 0, kind := k, stack := 0, xa := xa, xb := xb }

/-! ### The instructions -/

/-- `bkx` (R271). -/
def execBkx (o : RAop) (s : State) : Result :=
  .next (issue noIll [(o.a.toNat, o.fa)] o.d.toNat (fun s =>
    let va := (s.me.rx o.a.toNat).toNat
    withWalks va 64 (fun s =>
      match tilesAt s va 64 64 with
      | .error (c, a) => raise c a s
      | .ok ps => sendCmd o.d.toNat true { newCmd .bkx va 0 with va := va, pa := ps.headD 0, tiles := ps.map (· / 4096) } noMore s) s) s)

/-- `bkseal` (R272). -/
def execBkseal (o : RAop) (s : State) : Result :=
  .next (issue noIll [(o.a.toNat, o.fa)] o.d.toNat (fun s =>
    let x := (s.me.rx o.a.toNat).toNat
    match rangeBad x with
    | some c => raise c 0 s
    | none => sendCmd o.d.toNat true (newCmd .seal x 0) noMore s) s)

/-- `bkclone` (R272). -/
def execBkclone (o : RRop) (s : State) : Result :=
  .next (issue noIll [(o.a.toNat, o.fa), (o.b.toNat, o.fb)] o.d.toNat (fun s =>
    let x := (s.me.rx o.a.toNat).toNat
    let y := (s.me.rx o.b.toNat).toNat
    match (rangeBad x).or (rangeBad y) with
    | some c => raise c 0 s
    | none => sendCmd o.d.toNat true (newCmd .clone x y) noMore s) s)

/-- `bkred` (R273). -/
def execBkred (o : RRop) (s : State) : Result :=
  .next (issue noIll [(o.a.toNat, o.fa), (o.b.toNat, o.fb)] o.d.toNat (fun s =>
    let x := (s.me.rx o.a.toNat).toNat
    let y := (s.me.rx o.b.toNat).toNat
    match rangeBad x with
    | some c => raise c 0 s
    | none =>
      if rrCount x > 16 ∨ fld y 0 17 = 0 ∨ fld y 0 17 > 65536 ∨ y ≥ 262144 then raise cCMD_INVALID 0 s
      else sendCmd o.d.toNat true (newCmd .red x y) noMore s) s)

/-- The locks of VLC `n`, held or pending. -/
def locksOf (s : State) (n : Nat) : List Lock := s.locks.filter (fun l => l.vlc == n && l.agent == (getVlc s n).agent)

/-- `bklock` (R274): its number is the lowest that no lock of the context uses; a fifth raises ILLEGAL before its sources are read (R369). -/
def execBklock (o : RRop) (s : State) : Result :=
  .next (issue (fun s => (locksOf s s.cur).length ≥ 4) [(o.a.toNat, o.fa), (o.b.toNat, o.fb)] o.d.toNat (fun s =>
    let x := (s.me.rx o.a.toNat).toNat
    let y := (s.me.rx o.b.toNat).toNat
    match rangeBad x with
    | some c => raise c 0 s
    | none =>
      if y = 0 ∨ y > 200 then raise cCMD_INVALID 0 s
      else
        let num := ((upto 4).find? (fun i => !(locksOf s s.cur).any (fun l => l.num == i))).getD 0
        sendCmd o.d.toNat true (newCmd .lock x y) (fun c s =>
          bump { s with locks := s.locks ++ [{
                          id := s.nextId, vlc := s.cur, agent := c.agent, num := num, stack := c.stack, frame := 0, row0 := rrRow0 x,
                          count := rrCount x, desc := x, until_ := y * 3300, cmd := c.id }] }) s) s)

/-- Whether an earlier access of VLC `n` to the rows of a lock has still to perform. -/
def rowsAwaited (s : State) (n : Nat) (l : Lock) : Bool :=
  let t : Target := .loc (rowPa l.frame l.row0)
  s.net.any (fun a => a.vlc == n && sameByte a.tgt a.size t (8192 * l.count)) || viqBlocks s n 16 t (8192 * l.count) false ||
    (rqOf s n).any (fun r => r.stores.any (fun b => sameByte b.tgt b.size t (8192 * l.count)) ||
      r.atoms.any (fun b => sameByte b.tgt b.size t (8192 * l.count)))

/-- Whether a command of VLC `n` other than `id` has an operand in a frame, or may have: its block is read at acceptance (R257, R274). -/
def frameAwaited (s : State) (n id f : Nat) : Bool :=
  s.cmds.any (fun c => c.vlc == n && c.id != id && !c.dropped && (c.stage == .sent || (cmdRows s c).any (fun r => r.1 == f)))

/-- `bkunlock` (R274): flush, wait for earlier accesses and commands, and for the grant; then the lock ends. A number the context does not hold does
nothing, but it is an event that keeps a strip from being rewound like any other of the group (R379). -/
def execBkunlock (a : XReg) (fa : Bool) (s : State) : Result :=
  .next (issue noIll [(a.toNat, fa)] 0 (fun s =>
    match (locksOf s s.cur).find? (fun l => l.num == fld (s.me.rx a.toNat).toNat 0 2) with
    | none => advance (noteIrrev s.cur s)
    | some _ =>
      let go (s : State) : State :=
        match (locksOf s s.cur).find? (fun l => l.num == fld (s.me.rx a.toNat).toNat 0 2) with
        | none => advance s
        | some l =>
          if !l.granted || rowsAwaited s s.cur l || frameAwaited s s.cur l.cmd l.frame then s
          else advance (noteIrrev s.cur { s with locks := s.locks.filter (fun k => k.id != l.id) })
      flushFirst go s) s)

/-- `bkfence` (R121). -/
def execBkfence (s : State) : Result :=
  .next (issue noIll [] 0 (fun s =>
    flushFirst (fun s => if !allPerformed s s.cur || cmdsOut s s.cur ≠ 0 then s else advance s) s) s)

/-- `bkload` (R276). -/
def execBkload (o : RRop) (s : State) : Result :=
  .next (issue noIll [(o.a.toNat, o.fa), (o.b.toNat, o.fb)] o.d.toNat (fun s =>
    let va := (s.me.rx o.a.toNat).toNat
    let y := (s.me.rx o.b.toNat).toNat
    let n := fld y 8 7
    if n = 0 ∨ n > 64 ∨ y ≥ 32768 then raise cCMD_INVALID 0 s
    else withWalks va (4 * n) (fun s =>
      match tilesAt s va (4 * n) 8 with
      | .error (c, a) => raise c a s
      | .ok ps =>
        sendCmd o.d.toNat true { newCmd .load va y with va := va, pa := ps.headD 0, todo := ps, tiles := ps.map (· / 4096) } noMore s) s) s)

/-- `bkinv` (R276). -/
def execBkinv (o : RAop) (s : State) : Result :=
  .next (issue noIll [(o.a.toNat, o.fa)] o.d.toNat (fun s =>
    let x := (s.me.rx o.a.toNat).toNat
    if x ≥ 256 then raise cCMD_INVALID 0 s else sendCmd o.d.toNat true (newCmd .inv 0 x) noMore s) s)

/-- Whether KIND and ARG of `bkst` are out of range (R277). -/
def bkstBad (x : Nat) : Bool :=
  x ≥ 65536 || (match x % 4 with | 0 => x / 4 != 0 | 1 => decide (x / 4 ≥ 256) | 2 => decide (x / 4 ≥ 4) | _ => false)

/-- `bkst` (R277). -/
def execBkst (o : RAop) (s : State) : Result :=
  .next (issue noIll [(o.a.toNat, o.fa)] o.d.toNat (fun s =>
    let x := (s.me.rx o.a.toNat).toNat
    if bkstBad x then raise cCMD_INVALID 0 s else sendCmd o.d.toNat false (newCmd .st x 0) noMore s) s)

end Sys2Proof.Machine
end

