-- ==== Sys2Proof/Machine/Sequencer.lean ====
section
/-! DEFINITION. The bank sequencer: acceptance, checks and issue of commands, quantum boundaries, responses, microprogram slots, row locks,
refresh and automatic seals (R17, R255 to R258, R263 to R269, R276, R281, R302, R306, R369, R393, R395 to R397). -/
namespace Sys2Proof.Machine

/-! ### Handles (R103, R369) -/

/-- The checks of R103 and R402 over rows `row` to `row + n − 1` of a handle: a fault code, or none. -/
def handleCheck (s : State) (c : Cmd) (h row n : Nat) (k : Want) : Option Nat :=
  let x := getHandle s c.stack h
  let first := x.base * 4096 + 8192 * row
  let last := first + 8192 * n - 1
  let key := c.stack * 65536 + x.token
  let e := tget {} s.toks key
  if !handleFor s c.stack c.vi h then some cHANDLE
  else if (k == .read && !x.rd) || (k == .write && !x.wr) || !x.nb then some cHANDLE
  else if last ≥ (x.base + x.pages) * 4096 then some cBOUND
  else if e.kind ≠ 1 ∨ inRegion e first = false then some cUNOWNED
  else match regionCheck s c.agent key e k false with
    | some f => some f
    | none => if e.suspect then some cSUSPECT else if inRegion e last then none else some cUNOWNED

/-! ### Checks at issue to frames (R255, R272, R369) -/

/-- The slot a command names. -/
def cmdSlot (c : Cmd) : Nat := match c.kind with | .bkx => (readBlk c.block).slot | _ => c.xb % 256

/-- Microprogram slot `i` of a stack. -/
def getSlot (s : State) (stack i : Nat) : Slot := tget {} (getStack s stack).slots i

/-- Whether a load or invalidation of the slot of a command, accepted earlier, is still waiting (R258, R276). -/
def slotPending (s : State) (c : Cmd) : Bool :=
  s.cmds.any (fun d => (d.kind == .load || d.kind == .inv) && d.stage == .queued && d.stack == c.stack && cmdSlot d == cmdSlot c && d.ord < c.ord)

/-- The first operand whose handle covers another frame than the first operand of its frame. -/
def strayUse (s : State) (c : Cmd) : Option Nat :=
  (cmdUses c).findSome? (fun us => match us with
    | [] => none
    | u :: t => (t.find? (fun x => handleFrame s c x.h != handleFrame s c u.h)).map (fun x => x.h))

/-- Whether the frames of a `bkx` break the rule of vaults and die regions, by where they are stored (R17, R255, R412). -/
def framesBad (s : State) (fs : List Nat) : Bool :=
  fs.any (fun f => dieOf s f / 16 != dieOf s (fs.headD 0) / 16) || !((fs.map (dieOf s)).Nodup)

/-- The first check that fails: its code, and the handle involved. -/
def issueCheck (s : State) (c : Cmd) : Option (Nat × Option Nat) :=
  match (cmdUses c).flatten.findSome? (fun u => (handleCheck s c u.h u.row u.n u.want).map (fun f => (f, u.h))) with
  | some (f, h) => some (f, some h)
  | none =>
    match c.kind with
    | .bkx =>
      match strayUse s c with
      | some h => some (cFRAME_CROSS, some h)
      | none =>
        if framesBad s (cmdFrames s c) then some (cCMD_INVALID, none)
        else if slotPending s c then none
        else
          let x := getSlot s c.stack (cmdSlot c)
          if !x.valid || x.vi != c.vi || (upto 3).any (fun i => bitN x.mask i && !bitN (readBlk c.block).ops i) then some (cCMD_INVALID, none) else none
    | .clone =>
      match cmdFrames s c with
      | [f, g] =>
        if rrCount c.xa ≠ rrCount c.xb ∨ dieOf s f / 16 ≠ dieOf s g / 16 ∨
            (f = g ∧ rangesMeet (rrRow0 c.xa) (rrCount c.xa) (rrRow0 c.xb) (rrCount c.xb) = true) then some (cCMD_INVALID, none) else none
      | _ => some (cCMD_INVALID, none)
    | _ => none

/-! ### Rejections (R255, R257, R349) -/

/-- The value xd takes when a command is rejected. -/
def rejected : Word := BitVec.allOnes 64

/-- A command is gone: the use counts of its tiles fall. -/
def dropCmd (c : Cmd) (s : State) : State :=
  c.tiles.foldl (fun s t => unuseTile t s) { s with cmds := s.cmds.filter (fun d => d.id != c.id) }

/-- A command is rejected: class D at the instruction that sent it; a request for a lock takes no number. -/
def rejectCmd (c : Cmd) (code : Nat) (h : Option Nat) (s : State) : State :=
  let s1 := dropCmd c { s with locks := s.locks.filter (fun l => l.cmd != c.id) }
  if c.dropped then s1
  else
    let f : FRec := { code := code, cls := 2, reg := c.reg, origin := c.origin, addr := c.va }
    let f := match h with | some i => { f with okind := 2, stack := c.stack, index := i } | none => f
    queueFault c.vlc f c.id (updVlc c.vlc (fun v => v.fillX c.reg rejected) s1)

/-! ### Words of a microprogram (R160, R262) -/

/-- What the sequencer needs of a word of an image: cost in rc, whether it is END, destination and source row specifiers, a loop's counter and target, a branch's
target, and whether the word passes R160 and R262 at place `i` of `n`. -/
structure Micro where
  ok : Bool
  cost : Nat := 1
  last : Bool := false
  dst : Option Nat := none
  src : Option Nat := none
  loop : Option (Bool × Nat) := none
  deriving DecidableEq, Repr

/-- Whether a source row specifier is assigned. -/
def rsOk (rs : Nat) : Bool := rsBase rs != 3 || rs % 128 ≤ 16

/-- Whether a destination row specifier is allowed. -/
def dstOk (rs : Nat) : Bool :=
  if rsBase rs = 3 then rs % 128 ≤ 13 else rsBase rs == 2 && !rsAln rs

/-- The three rows of TRA and TRAN. -/
def tripleOk (o : MTRop) : Bool :=
  o.ta.toNat ≤ 11 && o.tb.toNat ≤ 11 && o.tc.toNat ≤ 11 && o.ta != o.tb && o.ta != o.tc && o.tb != o.tc

/-- Whether the bits that the layout of a micro-op reserves are 0 (R160, R260). -/
def microBits (w : Nat) : Bool :=
  match fld w 27 5 with
  | 1 => fld w 0 9 == 0
  | 2 => fld w 0 6 == 0
  | 3 => fld w 0 6 == 0
  | 4 => fld w 0 9 == 0
  | 5 => fld w 0 5 == 0
  | 6 => fld w 0 5 == 0
  | 7 => fld w 0 18 == 0
  | 8 => fld w 0 18 == 0
  | 9 => fld w 0 18 == 0
  | 10 => fld w 0 10 == 0
  | 11 => fld w 6 16 == 0
  | 12 => fld w 6 9 == 0
  | _ => fld w 0 27 == 0

/-- Reads word `i` of an image of `n`. -/
def readMicro (i n w : Nat) : Micro :=
  let d := fld w 18 9
  let r := fld w 9 9
  let two (ok : Bool) (cost : Nat) : Micro := { ok := ok && microBits w && rsOk r && dstOk d, cost := cost, dst := some d, src := some r }
  let one (ok : Bool) : Micro := { ok := ok && microBits w && dstOk d, dst := some d }
  match fld w 27 5 with
  | 0 => { ok := microBits w, cost := 0, last := true }
  | 1 => two true 1
  | 2 => one (tripleOk (rdMTR w))
  | 3 => one (tripleOk (rdMTR w))
  | 4 => two (d != 3 * 128 + 12) 2
  | 5 => two true 1
  | 6 => two true 1
  | 7 => one true
  | 8 => one true
  | 9 => one (rsBase d == 2)
  | 10 => one true
  | 11 => { ok := microBits w && fld w 0 6 ≤ i, cost := 0, loop := some (bitN w 26, fld w 0 6) }
  | 12 => { ok := microBits w && rsOk d && fld w 15 3 != 7 && i < fld w 0 6 && fld w 0 6 < n, src := some d }
  | 13 => { ok := microBits w, cost := 0 }
  | 14 => { ok := microBits w, cost := 0 }
  | _ => { ok := false }

/-- The words of an image, read. -/
def readMicros (ws : List Nat) : List Micro := ws.mapIdx (fun i w => readMicro i ws.length w)

/-- Whether the words of an image pass (R160, R262): 1 to 64 of them, the last END. -/
def imageWordsOk (ws : List Nat) : Bool :=
  ws.length ≥ 1 && ws.length ≤ 64 && ws.getLastD 1 == 0 && (readMicros ws).all (fun m => m.ok)

/-- The use mask of an image: bit X is 1 if any word names BASE X (R262). -/
def useMask (ws : List Nat) : Nat :=
  let rs := (readMicros ws).flatMap (fun m => m.dst.toList ++ m.src.toList)
  (upto 3).foldl (fun a x => if rs.any (fun r => rsBase r == x) then a + 2 ^ x else a) 0

/-! ### The worst-case run (R306) -/

/-- The words that a run can reach with no branch taken: those up to the first END. -/
def reached : List Micro → List Micro
  | [] => []
  | m :: ms => if m.last then [m] else m :: reached ms

/-- How often word `i` runs: the product of the counts of the loops whose bodies hold it. -/
def timesRun (b : Blk) (ms : List Micro) (i : Nat) : Nat :=
  (ms.mapIdx (fun j m => (j, m))).foldl (fun t p => match p.2.loop with
    | some (n, target) => if target ≤ i ∧ i ≤ p.1 then t * max (if n then b.lci1 else b.lci0) 1 else t
    | none => t) 1

/-- The C row that a word writes, if any. -/
def Micro.rowOf (b : Blk) (c : Cmd) (m : Micro) : Option Nat := match m.dst with | some rs => writtenRow c b rs | none => none

/-- The C rows that a microprogram writes on the path on which no branch is taken: its counters run from their loads, a count beyond 17 counting as 17, since
by then the index of every row below 16 has been met (log 38). -/
def rowsWritten (b : Blk) (ws : List Nat) : (fuel : Nat) → Cmd → List Nat → List Nat
  | 0, _, l => l
  | fuel + 1, c, l =>
    let ms := readMicros ws
    match ms[c.upc]? with
    | none => l
    | some m =>
      if m.last then l
      else
        let l1 := match m.rowOf b c with | some d => if l.contains d then l else d :: l | none => l
        if m.loop.isSome then rowsWritten b ws fuel (loopStep (rdMLOOP (ws.getD c.upc 0)) b c) l1
        else rowsWritten b ws fuel { c with upc := c.upc + 1 } l1

/-- The worst-case run of a command: costs along the longest path, the sealing pass with one row for each C row written, and 6 rc for every 32. -/
def worstRun (c : Cmd) (b0 : Blk) (ws : List Nat) : Nat :=
  let ms := reached (readMicros ws)
  let run := (ms.mapIdx (fun i m => m.cost * timesRun b0 ms i)).foldl (· + ·) 0
  let b := { b0 with lci0 := min b0.lci0 17, lci1 := min b0.lci1 17 }
  let sum := run + (if b.sealIt then (rowsWritten b ws 20000 { c with upc := 0, i0 := 0, i1 := 0, lc0 := b.lci0, lc1 := b.lci1 } []).length else 0)
  sum + 6 * cdiv sum 32

/-! ### Acceptance (R255 to R257, R276, R277) -/

/-- The thread a command goes to: the vault of the frame it names, or that of the issuer. -/
def threadOf (s : State) (c : Cmd) : Nat :=
  let hs : List Nat := match c.kind with
    | .bkx =>
      let b := readBlk ((upto 8).map (fun i => mread s.mem (c.pa + 8 * i) 8))
      ((b.opnds.filter (fun o => o.there)).map (fun o => o.h)).take 1
    | .seal => [rrHandle c.xa]
    | .lock => [rrHandle c.xa]
    | .red => [rrHandle c.xa]
    | .clone => [rrHandle c.xa]
    | _ => []
  match hs with
  | h :: _ => if handleFor s c.stack c.vi h then paVault ((getHandle s c.stack h).base * 4096) else c.homeVault % 16
  | [] => c.homeVault % 16

/-- Block fields that make the sequencer reject a command when it reads the block: first CMD_INVALID, then FRAME_CROSS (R255, R369). -/
def blockBad (b : Blk) : Option Nat :=
  let there := b.opnds.filter (fun o => o.there)
  if b.rsv || b.fcnt == 0 || b.fcnt > 8 || b.ops == 0 || there.any (fun o => o.w == 0 || o.w > 16) || (b.a.t2 && b.a.w != 2) || (b.b.t2 && b.b.w != 2) then
    some cCMD_INVALID
  else if b.nl == 0 || b.nl > 65536 || there.any (fun o => o.org + o.w > 256) then some cFRAME_CROSS
  else none

/-- The 4-byte words of an image (R276): `ps` are the PAs of its parts. -/
def readImage (c : Cmd) (s : State) : Option (List Nat) × State :=
  let n := fld c.xb 8 7
  (upto n).foldl (fun acc i =>
    match acc.1 with
    | none => acc
    | some ws =>
      let off := c.pa % 4096 + 4 * i
      let pa := if off < 4096 then c.pa + 4 * i else (c.todo.getD 1 0) + (off - 4096)
      match readMem pa 4 c.agent acc.2 with
      | (some w, s1) => (some (ws ++ [w]), s1)
      | (none, s1) => (none, s1)) (some [], s)

/-- Remaining lease of a lock in ns: CYC runs at 3.3 GHz (R22). -/
def leaseNs (s : State) (l : Lock) : Nat := (if l.granted then l.until_ - s.cyc else l.until_) * 10 / 33

/-- The answer of `bkst` (R277). -/
def statusWord (s : State) (c : Cmd) : Nat :=
  let arg := c.xa / 4
  let mine := s.cmds.filter (fun d => d.vlc == c.vlc && d.agent == c.agent && !d.dropped)
  let locks := s.locks.filter (fun l => l.vlc == c.vlc && l.agent == c.agent)
  match c.xa % 4 with
  | 0 => mine.length % 16 + 16 * ((mine.filter (fun d => d.stage == .running && d.kind != .lock)).length % 16) +
      256 * (locks.filter (fun l => l.granted)).length + 4096 * (locks.filter (fun l => !l.granted)).length
  | 1 =>
    let x := getSlot s c.stack arg
    b2n x.valid + 2 * b2n (x.valid && x.vi == c.vi) + 256 * x.words.length + 65536 * (x.use % 65536)
  | 2 => match locks.find? (fun l => l.num == arg) with
    | some l => b2n l.granted + 2 * b2n (!l.granted) + 2 ^ 32 * leaseNs s l
    | none => 0
  | _ =>
    let f := handleFrame s c arg
    match unsealedOf s (paMVault f) (frameNo f) with
    | some e => popN e.u.toNat 256
    | none => 0

/-- A command enters the queue of its thread, looked up at acceptance, in acceptance order (R256). -/
def queueCmd (c : Cmd) (f : Cmd → Cmd) (s : State) : State :=
  bump (updCmd c.id (fun d => { f d with stage := .queued, ord := s.nextId, thread := threadOf s c }) s)

/-- The words that a command accepted now will run: those of the last load or invalidation of its slot that waits, else those of the slot (R276, R306). -/
def wordsFor (s : State) (c : Cmd) : List Nat :=
  match (s.cmds.filter (fun d => (d.kind == .load || d.kind == .inv) && d.stage == .queued && d.stack == c.stack && cmdSlot d == cmdSlot c)).getLast? with
  | some d => d.words
  | none => (getSlot s c.stack (cmdSlot c)).words

/-- A thread accepts a command. -/
def acceptCmd (c : Cmd) (s : State) : State :=
  match c.kind with
  | .bkx =>
    match readMem c.pa 64 c.agent s with
    | (none, s1) => rejectCmd c cUE_CONSUMED none s1
    | (some v, s1) =>
      let l := (upto 8).map (fun i => fld v (64 * i) 64)
      match blockBad (readBlk l) with
      | some f => rejectCmd c f none s1
      | none =>
        let c1 := { c with block := l }
        queueCmd c (fun d => { d with block := l, worst := worstRun c1 (readBlk l) (wordsFor s1 c1) }) s1
  | .load =>
    let x := getSlot s c.stack (cmdSlot c)
    if x.valid && x.vi != c.vi then rejectCmd c cCMD_INVALID none s
    else match readImage c s with
      | (none, s1) => rejectCmd c cUE_CONSUMED none s1
      | (some ws, s1) => if imageWordsOk ws then queueCmd c (fun d => { d with words := ws }) s1 else rejectCmd c cILLEGAL none s1
  | .inv =>
    let x := getSlot s c.stack (cmdSlot c)
    if x.valid && x.vi != c.vi then rejectCmd c cCMD_INVALID none s else queueCmd c id s
  | .st =>
    match issueCheck s c with
    | some (f, h) => rejectCmd c f h s
    | none => updCmd c.id (fun d => { d with stage := .ended, result := statusWord s c }) s
  | _ => queueCmd c id s

/-- The command that a thread may accept: the oldest sent to it, each VLC's in issue order, and none while a fence holds it back (R121). -/
def nextAccept (s : State) (stack thread : Nat) : Option Cmd :=
  if closed s then none else s.cmds.find? (fun c => c.stage == .sent && c.stack == stack && threadOf s c == thread && !fencesOpen s c.vlc &&
    !s.cmds.any (fun d => d.vlc == c.vlc && d.stage == .sent && d.id < c.id))

/-! ### Residency and issue (R258, R302, R306) -/

/-- Whether a row of the command is held by a lock of another agent. -/
def rowsLocked (s : State) (c : Cmd) : Bool :=
  (cmdUses c).flatten.any (fun u => s.locks.any (fun l => l.granted && l.agent != c.agent && l.frame == handleFrame s c u.h &&
    rangesMeet l.row0 l.count u.row u.n))

/-- The frames that compute. -/
def runningFrames (s : State) : List Nat := ((s.cmds.filter (fun d => d.stage == .running && !d.kind.own)).flatMap (fun d => d.frames)).eraseDups

/-- The frames that compute in a vault. -/
def runningIn (s : State) (vault : Nat) : List Nat := (runningFrames s).filter (fun f => dieOf s f / 16 == vault)

/-- Whether the vault complex works, or is to work, in the die region of `f` (R377, R393). -/
def ownWork (s : State) (f : Nat) : Bool := s.cmds.any (fun d => d.kind.own && sameRegion s f (d.frames.headD 0))

/-- Whether the banks of the frames are free, with no refresh to pay first, and their vault has room for them (R17, R335, R395). -/
def banksFree (s : State) (fs : List Nat) : Bool :=
  let r := runningIn s (dieOf s (fs.headD 0) / 16)
  fs.all (fun f => (cmdOver s f).isNone && !ownWork s f && banksIdle s f) &&
    r.length + fs.eraseDups.length ≤ min 8 (getStack s (dieOf s (fs.headD 0) / 256)).limit

/-- Whether the unsealed-row table has an entry, or room, for each frame, beside those that running commands may still take (R258, R266). -/
def tableRoom (s : State) (fs : List Nat) : Bool :=
  let v := paMVault (fs.headD 0)
  ((getVault s v).unsealed).length + (((runningFrames s).filter (fun f => paMVault f == v) ++ fs).eraseDups.filter (fun f => (unsealedOf s v (frameNo f)).isNone)).length ≤ 64

/-- A long command waits while an accepted launch has not started (R306). -/
def longHeld (s : State) (c : Cmd) : Bool := c.kind == .bkx && c.worst > 1500 && s.launches.any (fun l => !l.started)

/-- Whether a queued command is resident (R258). -/
def resident (s : State) (c : Cmd) : Bool :=
  let fs := cmdFrames s c
  c.kind == .lock ||
    (!rowsLocked s c && banksFree s fs && !(c.kind == .bkx && slotPending s c) && tableRoom s fs && !longHeld s c)

/-- Units charged for a command (R151, R302). -/
def cmdUnits (c : Cmd) : Nat :=
  match c.kind with
  | .bkx =>
    let b := readBlk c.block
    let w (o : Opnd) : Nat := if o.there then o.w else 1
    cdiv (w b.a * w b.b * b.nl * b.fcnt) 65536
  | .seal => rrCount c.xa
  | .clone => rrCount c.xa
  | .red => rrCount c.xa
  | _ => 0

/-- The compute rows of the subarray ends of the frames hold nothing that the new command may rely on (R15). -/
def freeRows (fs : List Nat) (s : State) : State :=
  { s with comp := s.comp.filter (fun p => !fs.any (fun f => compKey s f 0 == p.1 / 16 * 16)) }

/-- A request for a lock goes to the lock table. -/
def queueLock (c : Cmd) (s : State) : State :=
  bump { (updCmd c.id (fun d => { d with stage := .running }) s) with
           locks := s.locks.map (fun l => if l.cmd == c.id then { l with queued := true, arr := s.nextId, frame := handleFrame s c (rrHandle c.xa) } else l) }

/-- A command is issued to its frames (R258, R260). -/
def issueCmd (c : Cmd) (s : State) : State :=
  if c.kind = .lock then queueLock c s
  else
    let fs := cmdFrames s c
    let b := readBlk c.block
    let x := getSlot s c.stack (cmdSlot c)
    let start (d : Cmd) : Cmd := {
      d with
      stage := .running, frames := fs, issued := s.cyc, free := s.fresh, lc0 := b.lci0, lc1 := b.lci1,
      words := if c.kind = .bkx then x.words else [], mask := x.mask,
      todo := match c.kind with
        | .seal => (upto (rrCount c.xa)).map (rrRow0 c.xa + ·)
        | .clone => upto (rrCount c.xa)
        | _ => [] }
    let s1 := freeRows fs { (updCmd c.id start s) with fresh := s.fresh + 1 }
    let s2 := if c.kind = .bkx then updStack c.stack (fun k => { k with slots := tupd {} k.slots (cmdSlot c) (fun y => { y with use := y.use + 1 }) }) s1 else s1
    if c.dropped then s2 else updVlc c.vlc (fun v => { v with cost := v.cost + cmdUnits c }) s2

/-- Whether an older queued command is on one of the frames of a command (R121, R258). -/
def olderOnFrame (s : State) (c : Cmd) : Bool :=
  s.cmds.any (fun d => d.stage == .queued && d.stack == c.stack && d.ord < c.ord && (cmdFrames s d).any (fun f => (cmdFrames s c).contains f))

/-- The command that a thread deals with next: the oldest that is to be rejected or is resident, with no older one on its frames. -/
def nextIssue (s : State) (stack thread : Nat) : Option Cmd :=
  let mine := s.cmds.filter (fun c => c.stage == .queued && c.stack == stack && c.kind != .load && c.kind != .inv && !c.kind.own && c.thread == thread &&
    !olderOnFrame s c && ((issueCheck s c).isSome || resident s c))
  mine.foldl (fun b c => match b with | none => some c | some d => if c.ord < d.ord then some c else some d) none

/-- The thread checks a queued command, and issues it. -/
def checkCmd (c : Cmd) (s : State) : State :=
  match issueCheck s c with
  | some (f, h) => rejectCmd c f h s
  | none => issueCmd c s

/-- SEQUENCER_TURN: one step of one thread; acceptance and checks alternate when there is work for both (R256). -/
def execSequencerTurn (stack : Nat) (thread : Nat) (s : State) : Result :=
  .next (
    let turn (b : Bool) (s : State) : State := updStack stack (fun k => { k with turn := tset false k.turn thread b }) s
    match nextAccept s stack thread, nextIssue s stack thread with
    | none, none => s
    | some c, none => turn false (acceptCmd c s)
    | none, some d => turn true (checkCmd d s)
    | some c, some d => if tget false (getStack s stack).turn thread then turn false (acceptCmd c s) else turn true (checkCmd d s))

/-! ### Rows that are sealed, copied or summed (R266, R272, R273) -/

/-- Corrects the single errors of a sealed row, counting them. -/
def correctRow (pa : Nat) (s : State) : State :=
  ((s.ecc.filter (fun p => p.1 / 1024 == pa / 8192 && p.2 == .single)).map Prod.fst).foldl (fun s w => noteCorrected (8 * w) (setEcc (8 * w) .good s)) s

/-- Words of a row that cannot be corrected. -/
def badWords (s : State) (pa : Nat) : List Nat := ((s.ecc.filter (fun p => p.1 / 1024 == pa / 8192 && p.2 == .bad)).map (fun p => p.1 % 1024))

/-- The uncorrectable words of a row that an agent reads are logged (R391, EVT 0). -/
def logBad (pa agent : Nat) (s : State) : State :=
  (badWords s pa).foldl (fun s w => elog 0 cUE_CONSUMED (paStack pa) (paVault pa) agent (pa + 8 * w) 0 s) s

/-- Writes a row with check bits: the words of `bad` get poison. -/
def writeSealed (f d : Nat) (r : Row) (bad : List Nat) (s : State) : State :=
  let pa := rowPa f d
  let s1 := if rowUnsealed s pa then sealRow f d (writeRow pa r s) else cleanRow pa { s with mem := mwrite s.mem pa 8192 r.toNat }
  bad.foldl (fun s w => setEcc (pa + 8 * w) .bad s) s1

/-- Copies a row: an unsealed one raw, a sealed one with correction, its uncorrectable words staying so (R272). -/
def cloneRow (f d g e : Nat) (s : State) : State :=
  let pa := rowPa f d
  if rowUnsealed s pa then writeRow (rowPa g e) (readRow s pa) s
  else
    let bad := badWords s pa
    let s1 := correctRow pa s
    let s2 := logBad pa 0 s1
    writeSealed g e (readRow s2 pa) bad s2

/-- The sum of `bkred`: lanes below n of COUNT planes as integers (R273). -/
def planeSum (s : State) (f row cnt n : Nat) (uns : Bool) : Int :=
  (upto cnt).foldl (fun a i =>
    let ones : Int := popN (readRow s (rowPa f (row + i))).toNat n
    if i + 1 = cnt ∧ uns = false then a - ones * 2 ^ i else a + ones * 2 ^ i) 0

/-- `bkred` reads its rows: an uncorrectable word of a sealed row is consumed (R273, R391). -/
def runRed (c : Cmd) (s : State) : State :=
  let f := c.frames.headD 0
  let rows := (upto (rrCount c.xa)).map (rrRow0 c.xa + ·)
  let bad := rows.any (fun d => !rowUnsealed s (rowPa f d) && !(badWords s (rowPa f d)).isEmpty) || isLost s f
  let s1 := rows.foldl (fun s d => if rowUnsealed s (rowPa f d) then s else correctRow (rowPa f d) s) s
  let s2 := rows.foldl (fun s d => if rowUnsealed s (rowPa f d) then s else logBad (rowPa f d) c.agent s) s1
  leaveBanks c (updCmd c.id (fun d => {
    d with
    rc := d.rc + rrCount c.xa + 2, ue := bad, result := if bad then 0 else tr 64 (planeSum s f (rrRow0 c.xa) (rrCount c.xa) (fld c.xb 0 17) (bitN c.xb 17)) }) s2)

/-- The cost of the row `d` of a row-range command, a sealing pass or work of the vault complex: a copy within a die region takes 2 rc a row, one between two takes 1 rc
more than its rows, here with the first (R266, R272, R377). -/
def rowCost (s : State) (c : Cmd) (d : Nat) : Nat :=
  if c.kind = .clone ∧ (sameRegion s (c.frames.headD 0) (c.frames.getD 1 0) = true ∨ d = 0) then 2 else 1

/-- The next row of a sealing pass, of a row-range command, of a poisoning or of an automatic seal: a boundary falls first when the row would take the quantum past 32 rc. -/
def rowStep (id : Nat) (s : State) : State :=
  match getCmd s id with
  | none => s
  | some c =>
    if c.stage ≠ .running ∨ c.boundary = true ∨ c.kind = .lock ∨ (c.kind = .bkx ∧ c.sealing = false) then s
    else if c.kind = .red then runRed c s
    else match c.todo with
      | [] => leaveBanks c s
      | d :: rest =>
        let cost := rowCost s c d
        if c.quantum + cost > 32 then updCmd id (fun c => { c with boundary := true }) s
        else
          let s1 := match c.kind with
            | .clone => cloneRow (c.frames.headD 0) (rrRow0 c.xa + d) (c.frames.getD 1 0) (rrRow0 c.xb + d) s
            | .poison => poisonRow c d s
            | _ => c.frames.foldl (fun s f => sealRow f d s) s
          let s2 := updCmd id (fun c => { c with quantum := c.quantum + cost, rc := c.rc + cost, last := c.rc + cost, todo := rest }) s1
          if rest.isEmpty then leaveBanks c s2 else s2

/-! ### Boundaries and refresh (R264, R395, R396) -/

/-- Whether a PA lies in the banks that a command holds. -/
def inBanks (s : State) (c : Cmd) (pa : Nat) : Bool := paDram pa && c.frames.any (fun f => sameRegion s f pa)
def targetIn (s : State) (c : Cmd) (t : Target) : Bool := match t with | .loc pa => inBanks s c pa | .rem _ _ _ => false

/-- Whether an access in flight is one that waits at the home or target of `a` itself: a `bar.wait` only while its word is to be looked at. -/
def netWaits (s : State) (a : Access) : Bool :=
  !blockedBy s a.vlc a.id a.ser a.cls a.tgt a.size a.dev && (a.kind != .barWait || (match a.tgt with | .loc pa => homeLooks s a pa | .rem _ _ _ => false))

/-- Whether an access waits for the banks of a command (R263): one in flight, of the host, of an operation with units to move or a debit to perform, or
whatever else has been found to wait there. -/
def accessWaits (s : State) (c : Cmd) : Bool :=
  s.waits.any (fun w => waitLive s w && (w.pas ++ w.walk).any (inBanks s c)) ||
    s.net.any (fun a => targetIn s c a.tgt && netWaits s a) || s.hostq.any (fun r => (cmdBanks s c).any (fun b => hostBank s r == some b)) ||
    s.ops.any (fun o => o.accepted && ((!o.stopped && (rangeUnits o.left).any (fun u => (opWords s o u).any (fun w => inBanks s c (8 * w)))) ||
      (decide (o.owed > 0) && o.bar.any (inBanks s c))))

/-- Whether a refresh is due in the banks of a command, or an access waits for them (R263). -/
def bankWaits (s : State) (c : Cmd) : Bool :=
  (cmdBanks s c).any (fun b => tget 0 s.repair.debt b > 0) || accessWaits s c

/-- `sync`: a boundary only when something waits. -/
def execSync (s : State) : Result :=
  .next (microOp 0 false (fun c _ s => updCmd c.id (fun c => { c with upc := c.upc + 1, boundary := bankWaits s c }) s) s)

/-- Step 2 of a boundary for one bank: nothing, a deferral, or a refresh (R264, R395). -/
def refreshBank (waited : List Nat) (b : Nat) (s : State) : State × Bool :=
  let debt := tget 0 s.repair.debt b
  let def_ := tget 0 s.repair.defer b
  if debt = 0 then (s, false)
  else if waited.contains b ∧ debt < 8 ∧ def_ < 2 then ({ s with repair := { s.repair with defer := tset 0 s.repair.defer b (def_ + 1) } }, false)
  else
    let s1 := { s with repair := { s.repair with debt := tset 0 s.repair.debt b (debt - 1), defer := tset 0 s.repair.defer b 0 } }
    (if waited.contains b ∧ def_ ≥ 2 then countCe (b / 2048) 1 48 16 s1 else s1, true)

/-- Whether the present step of a boundary has still something to serve: what waits at a bank that could serve it, or a walk read (R264, R398). What a lock
or another bank keeps from going on does not keep the step open. -/
def stepOpen (s : State) (c : Cmd) : Bool :=
  s.waits.any (fun w => !w.who.isHost && (w.pas ++ w.walk).any (inBanks s c) && waitLive s w && (w.able s || (!w.walk.isEmpty && !walkWaits s w.walk)))

/-- The end of a step of a boundary in which accesses are served: 1 rc where any was (R264). -/
def servedCost (c : Cmd) : Nat := if c.served.isEmpty && c.walked.isEmpty then 0 else 1

/-- The host accesses of each bank that may be served in the present step: the oldest of each is (R264). -/
def serveHost (c : Cmd) (banks : List Nat) (s : State) : State :=
  banks.foldl (fun s b => match hostAt s c b with | r :: _ => hostServe r.id s | [] => s) s

/-- QUANTUM_BOUNDARY: the present step of a boundary ends. Step 1 has served one access of each bank, those of the host first; at step 2 the banks refresh;
step 3 serves those that arrived during step 2; then the next quantum begins (R263, R264). Accesses in flight perform in their own steps, and a step of the
boundary does not end while a bank could serve something that waits there. -/
def execQuantumBoundary (cmd : Nat) (s : State) : Result :=
  .next (match getCmd s cmd with
    | none => s
    | some c =>
      if c.stage ≠ .running ∨ c.boundary = false ∨ stepOpen s c = true then s
      else
        let banks := cmdBanks s c
        let waited := banks.filter (fun b => !(hostAt s c b).isEmpty || c.cxl.contains b)
        let s1 := serveHost c banks s
        let c1 := (getCmd s1 cmd).getD c
        let end_ (d : Cmd) : Cmd := { d with served := [], walked := [], cxl := [], third := false, quantum := 0, boundary := false }
        if c.third then updCmd cmd (fun d => end_ { d with rc := d.rc + servedCost c1 }) s1
        else
          let r := banks.foldl (fun acc b => let x := refreshBank waited b acc.1; (x.1, acc.2 || x.2)) (s1, false)
          if r.2 then updCmd cmd (fun d => { d with rc := d.rc + servedCost c1 + 4, served := [], walked := [], cxl := [], third := true, since := r.1.nextId }) r.1
          else updCmd cmd (fun d => end_ { d with rc := d.rc + servedCost c1 }) r.1)

/-- Cycles between two refreshes of a bank: 156 rc, or 78 rc while a die of its stack is above 85 °C (R336, R395); an rc is 82.5 cycles (R22). -/
def refreshInterval (s : State) (bank : Nat) : Nat := if (getStack s (bank / 2048)).hot then 6435 else 12870

/-- REFRESH_DUE: a refresh falls due at a bank, an interval after the one before: taken at once, for 4 rc, or owed while a command holds the bank or other
refreshes are still to be paid (R395). -/
def execRefreshDue (bank : Nat) (s : State) : Result :=
  .next (
    let due := tget 0 s.repair.refAt bank + refreshInterval s bank
    if s.cyc < due then s
    else
      let s1 := { s with repair := { s.repair with refAt := tset 0 s.repair.refAt bank due } }
      if s.cmds.any (fun c => c.stage == .running && (cmdBanks s c).contains bank) || tget 0 s.repair.debt bank > 0 || s.cyc < tget 0 s.repair.busy bank then
        { s1 with repair := { s1.repair with debt := tset 0 s1.repair.debt bank (min 8 (tget 0 s.repair.debt bank + 1)) } }
      else { s1 with repair := { s1.repair with busy := tset 0 s1.repair.busy bank (s.cyc + 330) } })

/-! ### Responses (R267) -/

/-- The response word: flags, SAT, and RC, which saturates. -/
def responseWord (c : Cmd) : Nat := c.flags % 64 + 256 * min c.last (2 ^ 24 - 1)

/-- COMMAND_RESPONSE: xd takes the response of a command that has ended; an uncorrectable word that `bkred` read is consumed: the open strip is rewound where it
is rewindable, and else UE_CONSUMED is raised, class D (R380). -/
def execCommandResponse (cmd : Nat) (s : State) : Result :=
  .next (match getCmd s cmd with
    | none => s
    | some c =>
      if c.stage ≠ .ended then s
      else
        let w := match c.kind with | .bkx => responseWord c | .seal => responseWord c | .clone => responseWord c | _ => c.result
        let s1 := dropCmd c s
        if c.dropped then s1
        else
          let s2 := updVlc c.vlc (fun v => { v.fillX c.reg (wN w) with cmdEnd := if v.status = .draining then s.cyc else v.cmdEnd, early := [] }) s1
          if c.ue && (getVlc s2 c.vlc).rewindable then updVlc c.vlc (fun v => { v with rewind := true }) s2
          else if c.ue then queueFault c.vlc { code := cUE_CONSUMED, cls := 2, reg := c.reg, origin := c.origin } c.id s2 else s2)

/-! ### Slots (R276) -/

/-- Whether a load or invalidation of a slot may act: its use count is 0, and every command accepted before it that names the slot has ended. -/
def slotIdle (s : State) (c : Cmd) : Bool :=
  (getSlot s c.stack (cmdSlot c)).use == 0 &&
    !s.cmds.any (fun d => d.stack == c.stack && d.ord < c.ord && d.stage == .queued && cmdSlot d == cmdSlot c &&
      (d.kind == .bkx || d.kind == .load || d.kind == .inv))

/-- A load or invalidation writes its slot and responds 0. -/
def setSlot (c : Cmd) (x : Slot) (s : State) : State :=
  updCmd c.id (fun d => { d with stage := .ended, result := 0, tiles := [] })
    (c.tiles.foldl (fun s t => unuseTile t s) (updStack c.stack (fun k => { k with slots := tset {} k.slots (cmdSlot c) x }) s))

/-- SLOT_LOAD_DONE. -/
def execSlotLoadDone (cmd : Nat) (s : State) : Result :=
  .next (match getCmd s cmd with
    | none => s
    | some c =>
      if c.kind ≠ .load ∨ c.stage ≠ .queued ∨ slotIdle s c = false then s
      else setSlot c { valid := true, vi := c.vi, words := c.words, mask := useMask c.words } s)

/-- SLOT_INVALIDATE_DONE. -/
def execSlotInvalidateDone (cmd : Nat) (s : State) : Result :=
  .next (match getCmd s cmd with
    | none => s
    | some c => if c.kind ≠ .inv ∨ c.stage ≠ .queued ∨ slotIdle s c = false then s else setSlot c {} s)

/-! ### Row locks (R268, R269, R281, R397) -/

/-- Whether two locks overlap in rows of one frame. -/
def lockMeets (l k : Lock) : Bool := l.frame == k.frame && rangesMeet l.row0 l.count k.row0 k.count

/-- Whether a running command of another context has rows in a lock (R268). -/
def cmdOnLock (s : State) (l : Lock) : Bool :=
  s.cmds.any (fun c => c.stage == .running && c.agent != l.agent && c.kind != .lock && (cmdUses c).zipIdx.any (fun p =>
    c.frames.getD p.2 0 == l.frame && p.1.any (fun u => rangesMeet u.row u.n l.row0 l.count)))

/-- Whether an accepted operation of another agent has still to access rows of a lock (R281). -/
def opOnLock (s : State) (l : Lock) : Bool :=
  s.ops.any (fun o => o.accepted && !o.stopped && o.agent != l.agent && (rangeUnits o.left).any (fun u =>
    (opWords s o u).any (fun w => rangesMeet (8 * w) 8 (rowPa l.frame l.row0) (8192 * l.count))))

/-- Whether nothing but the table holds a request back (R268). -/
def lockReady (s : State) (l : Lock) : Bool :=
  l.queued && !l.granted && !s.locks.any (fun k => k.granted && lockMeets l k) &&
    !s.locks.any (fun k => k.queued && !k.granted && k.arr < l.arr && lockMeets l k) && !cmdOnLock s l && !opOnLock s l

/-- Whether a request may be granted: free entries of its stack's table go to the requests that wait for one in arrival order (R268). -/
def mayGrant (s : State) (l : Lock) : Bool :=
  lockReady s l &&
    (s.locks.filter (fun k => k.stack == l.stack && (k.granted || (k.arr < l.arr && lockReady s k)))).length < 256

/-- LOCK_GRANT: the request of serial number `n` is granted; xd takes its number and its lease begins (R268, R274). -/
def execLockGrant (n : Nat) (s : State) : Result :=
  .next (match s.locks.find? (fun l => l.id == n) with
    | none => s
    | some l =>
      if !mayGrant s l then s
      else
        let s1 := { s with locks := s.locks.map (fun k => if k.id == n then { k with granted := true, until_ := s.cyc + k.until_ } else k) }
        match getCmd s l.cmd with
        | none => s1
        | some c => let s2 := dropCmd c s1; if c.dropped then s2 else updVlc c.vlc (fun v => { v.fillX c.reg (wN l.num) with early := [] }) s2)

/-- LEASE_EXPIRY: the lease of the lock of serial number `n` has run out (R397). -/
def execLeaseExpiry (n : Nat) (s : State) : Result :=
  .next (match s.locks.find? (fun l => l.id == n) with
    | none => s
    | some l =>
      if !l.granted || s.cyc < l.until_ then s
      else
        let s1 := { s with locks := s.locks.filter (fun k => k.id != n) }
        let f : FRec := { code := cLEASE_EXPIRED, cls := 3, aux := l.num, addr := l.desc, okind := 2, stack := l.stack, index := rrHandle l.desc }
        bump (queueFault l.vlc f s.nextId (elog 7 cLEASE_EXPIRED (paStack l.frame) (paVault l.frame) l.agent (rowPa l.frame l.row0) l.num s1)))

/-! ### Automatic seals (R393) -/

/-- AUTO_SEAL: the vault complex begins to seal the entry of a frame (number PA ÷ 2 MiB) that no write has touched for 1 ms, or any entry during a checkpoint,
once no command holds its banks (R393, R409). -/
def execAutoSeal (frame : Nat) (s : State) : Result :=
  .next (
    let f := frame * 2097152
    match unsealedOf s (paMVault f) (frameNo f) with
    | none => s
    | some e =>
      if (s.cyc < e.touched + 3300000 ∧ closed s = false) ∨ (cmdOver s f).isSome = true ∨ ownWork s f = true then s
      else startSeal f e s)

end Sys2Proof.Machine
end

