-- ==== Sys2Proof/Machine/Startup.lean ====
section
/-! DEFINITION. Start of a context instance, start-up, mailbox mode, security versions, attestation, power and temperature (R52, R325 to
R336, R394, R414). -/
namespace Sys2Proof.Machine

/-! ### The start of an instance (R52) -/

/-- VLC `n` starts an instance of the identity `v` with the state of R52: entry, first index and count of its range, argument block. -/
def startCtx (n : Nat) (v : Vlc) (entry start count arg oc : Nat) (s : State) : State :=
  let s1 := updVlc n (fun _ => v) s
  let x := tset 0 (tset 0 (tset 0 (tset 0 (tset 0 [] 1 (wN start)) 2 (wN count)) 3 (wN arg)) 4 (wN (vlenOf s n / 8))) 5 (ctxid s1 n)
  updVlc n (fun v => {
    v with
    status := .running, pc := wN entry, x := x, sb := wN start, sc := wN count, prc := wN count, ocdef := BitVec.ofNat 4 oc }) s1

/-! ### The resident program (R331) -/

/-- The first instruction, the argument block and the save area of the resident program. -/
def resEntry : Nat := 0xFF000000100000
def resArg : Nat := 0xFF0000000FE800
def resSave : Nat := 0xFF0000000F8000

/-- Offset of the argument block in the VS of vault 0. -/
def resArgPa : Nat := dramEnd + 0xFE800

/-- The regions of mailbox mode: entry v of each stack covers the DRAM of vault v and is owned by System. -/
def systemRegions : Tbl Tok :=
  (upto 192).map (fun i => (i / 16 * 65536 + i % 16,
    ({ kind := 1, base := vaultPa i 0 / 4096, pages := dramEnd / 4096, owner := sysAgent } : Tok)))

/-- The resident program starts on VLC 0 with all 16 lanes on core 0; `img` fills the I-store and the VS of vault 0 (R331). -/
def startResident (img : List Host.Cell) (s : State) : State :=
  let s1 := {
    s with
    mem := mwrite (mwrite img resArgPa 128 0) (resArgPa + 0x48) 8 resEntry, tiles := [], toks := systemRegions,
    plat := { s.plat with resDone := false } }
  startCtx 0 { agent := sysAgent, resident := true, savep := resSave } resEntry 0 0 resArg 0
    (updVault 0 (fun v => { v with lpr := 0 }) s1)

/-! ### Firmware images (R326, R327) -/

/-- Bytes `o` to `o + n - 1` of an image, least significant first. -/
def imgFld (b : List Byte) (o n : Nat) : Nat := bytesWord ((b.drop o).take n)

def imgLen (b : List Byte) : Nat := imgFld b 0x0C 4
def imgIlen (b : List Byte) : Nat := imgFld b 0x10 4
def imgSvn (b : List Byte) : Nat := imgFld b 0x08 4
def imgBody (b : List Byte) : List Byte := (b.drop 0x1D20).take (imgLen b)

/-- ILEN as R326 and R331 require. -/
def ilenOk (kind : Nat) (b : List Byte) : Bool :=
  if kind = 3 then imgIlen b % 8 == 0 && imgIlen b ≤ 0x40000 && imgIlen b ≤ imgLen b && imgLen b - imgIlen b ≤ 992 * 1024
  else imgIlen b == 0

/-- R327: whether the image of a kind passes. -/
def imageOk (s : State) (kind : Nat) (b : List Byte) : Bool :=
  let digest := Config.sha3 (b.take 0x40 ++ imgBody b)
  let pk := (b.drop 0x1300).take 2592
  b.length == 0x1D20 + imgLen b && imgLen b ≤ 0x1000000 && imgFld b 0 4 == 0x58494D47 && imgFld b 4 2 == kind && imgFld b 6 2 == 0 &&
    imgFld b 0x14 44 == 0 && ilenOk kind b && Config.sha3 pk == s.plat.keyHash && BitVec.ofNat 512 (imgFld b 0x40 64) == digest &&
    Config.mldsa ((b.drop 0x80).take 4627) digest pk && tget 0 s.plat.svnMin kind ≤ imgSvn b

/-- The image of a kind in the boot flash. -/
def flashImage (s : State) (kind : Nat) : List Byte := tget [] s.plat.flash kind

/-- Cells of a list of bytes from an address on. -/
def cellsFrom (a : Nat) : List Byte → List Host.Cell
  | [] => []
  | b :: t => if b = 0 then cellsFrom (a + 1) t else (a, b) :: cellsFrom (a + 1) t

/-- The memory that phase 4 leaves: ILEN bytes in the I-store of vault 0, the others in its VS from offset 0, every other scratchpad byte 0 (R331).
The VS lies below the I-store. -/
def placeImage (mem : List Host.Cell) (b : List Byte) : List Host.Cell :=
  let body := imgBody b
  mem.filter (fun c => c.1 < dramEnd) ++ cellsFrom dramEnd (body.drop (imgIlen b)) ++ cellsFrom (dramEnd + 0x100000) (body.take (imgIlen b)) ++
    mem.filter (fun c => dramEnd + 0x140000 ≤ c.1 && !isScratch c.1)

/-! ### Measurements (R329) -/

/-- The eight bytes of a register. -/
def regBytes (w : Word) : List Byte := wordBytes 8 w.toNat

/-- The register QUANT and FLOOR form of VSCHED (R305). -/
def vschedWord (v : Vi) : Word := wN (v.floor + v.quant * 65536)

/-- Index 5 is measured again: MODID, the routing table and the VSCHED registers. -/
def remeasure (s : State) : State :=
  let bytes := regBytes (wN s.mgmt.modid) ++ (upto 1024).flatMap (fun m => regBytes (tget 0 s.mgmt.route m)) ++
    (upto 256).flatMap (fun v => regBytes (vschedWord (getVi s v)))
  { s with plat := { s.plat with meas := tset 0 s.plat.meas 5 (Config.sha3 bytes) } }

/-- Records a measurement. -/
def measure (i : Nat) (d : BitVec 512) (s : State) : State := { s with plat := { s.plat with meas := tset 0 s.plat.meas i d } }

/-! ### RESET_RELEASE (R325, R394) -/

/-- Memory whose bytes at the addresses of `p` have no defined value. -/
def freeOver (p : Nat → Bool) (s : State) : List Host.Cell :=
  (Config.freeMem s.fresh).foldl (fun m c => if p c.1 then mput m c.1 c.2 else m) (s.mem.filter (fun c => !p c.1))

/-- After a reset, rows that were unsealed hold data without a defined value, under check bits that may be wrong; the tables are empty (R394). -/
def staleRows (s : State) : State :=
  if s.vaults.all (fun p => p.2.unsealed.isEmpty) then s
  else
    let ecc := (Config.freeBad s.fresh).foldl (fun t p => if rowUnsealed s (8 * p.1) then tset .good t p.1 (if p.2 then .single else .bad) else t) s.ecc
    let vaults := s.vaults.foldl (fun t p => tset {} t p.1 { p.2 with unsealed := [] }) s.vaults
    { s with mem := freeOver (rowUnsealed s) s, ecc := ecc, vaults := vaults, fresh := s.fresh + 1 }

/-- A failed phase: mailbox mode with CODE set and no later phase. -/
def bootFail (code : Nat) (s : State) : State := { s with plat := { s.plat with released := true, code := code } }

/-- The frames of the vaults of a mask: their DRAM, by number PA ÷ 2 MiB. -/
def framesOf (m : BitVec 192) : List Nat := ((upto 192).filter (fun v => m.getLsbD v)).flatMap (fun v => (upto 3072).map (fun i => vaultPa v 0 / 2097152 + i))

/-- Phase 3 applies the retirements that the boot flash keeps: no spare range is enabled yet, so that the frames of a retired vault are lost (R325, R414). -/
def applyRetired (s : State) : State :=
  { s with
    mgmt := { s.mgmt with retq := s.plat.flashRetq, retv := s.plat.flashRetv },
    repair := { s.repair with lost := (framesOf s.plat.flashRetv).map (· * 2097152) } }

/-- Phases 2 to 5 in order. -/
def bootPhases (s : State) : State :=
  if !imageOk s 0 (flashImage s 0) then bootFail 2 s
  else
    let s := applyRetired (measure 2 (Config.sha3 (flashImage s 0)) s)
    if bitN s.plat.bootFault 3 || !imageOk s 1 (flashImage s 1) || !imageOk s 2 (flashImage s 2) then bootFail 3 s
    else
      let s := measure 3 (Config.sha3 (flashImage s 1 ++ flashImage s 2)) s
      if !imageOk s 3 (flashImage s 3) then bootFail 4 s
      else
        let s := measure 4 (Config.sha3 (flashImage s 3)) s
        let s := startResident (placeImage s.mem (flashImage s 3)) s
        let s := { s with plat := { s.plat with runSvn := (upto 4).foldl (fun t k => tset 0 t k (imgSvn (flashImage s k))) [] } }
        if bitN s.plat.bootFault 5 then bootFail 5 s
        else remeasure { s with plat := { s.plat with released := true }, fabric := { s.fabric with linkup := 0xFFFFFF } }

/-- RESET_RELEASE: the phases of R325, once. When the self-test of security core 0 fails, the standby on stack 11 takes over. -/
def execResetRelease (s : State) : Result :=
  .next (
    if s.plat.released then s
    else
      let s1 := staleRows s
      if bitN s1.plat.bootFault 0 && bitN s1.plat.bootFault 1 then bootFail 1 s1
      else
        let core := if bitN s1.plat.bootFault 0 then 11 else 0
        bootPhases (measure 1 (Config.romDigest core) { s1 with plat := { s1.plat with security := core } }))

/-- The module is reset. What lies outside it or keeps its contents stays: flash and fuses, DRAM and scratchpads with their check bits, the spare rows in use, the
images at the targets. A frame that had been relocated is read where it was before, where its data has no defined value (R394, R414, R416; log 79). -/
def resetModule (s : State) : State :=
  let gone (a : Nat) : Bool := paDram a && tget 0 s.repair.redirect (a / 2097152) != 0
  { State.reset with
    agenda := s.agenda, fresh := s.fresh + 1, nextId := s.nextId, mem := freeOver gone s, ecc := s.ecc,
    vaults := s.vaults.map (fun p => (p.1, { unsealed := p.2.unsealed })),
    plat := { flash := s.plat.flash, flashRetq := s.plat.flashRetq, flashRetv := s.plat.flashRetv, keyHash := s.plat.keyHash, svnMin := s.plat.svnMin,
              bootFault := s.plat.bootFault },
    mgmt := { stored := s.mgmt.stored },
    repair := { ceRow := [], spareUsed := s.repair.spareUsed, spared := s.repair.spared },
    out := s.out }

/-! ### Registers of the management block (R328, R331, R332, R334) -/

/-- Keeps EN and the page number of a root register; the other bits are RSV (R6, R70). -/
def rootBits (v : Word) : Word := wN (fld v.toNat 0 1 + fld v.toNat 12 29 * 4096)

/-- Drops the translations of an address space held in translation buffers (R75). -/
def dropTlb (vi : Nat) (s : State) : State := { s with tlb := s.tlb.filter (fun e => e.vi != vi) }

/-- MROOT_WRITE: the root of the resident program's tables, in mailbox mode (R331, R332). -/
def execMrootWrite (v : Word) (s : State) : Result :=
  .next (if s.plat.service then s else dropTlb resVi { s with plat := { s.plat with mroot := rootBits v, mview := some s.mem } })

/-- Clears every scratchpad byte and its error (R334). -/
def clearScratch (s : State) : State :=
  { s with mem := s.mem.filter (fun c => !isScratch c.1), ecc := s.ecc.filter (fun p => !isScratch (8 * p.1)), tiles := [] }

/-- SERVICE_MODE_REQUEST: a write of MREQ (R332, R334). -/
def execServiceModeRequest (v : Word) (s : State) : Result :=
  .next (
    if !bitN v.toNat 0 || s.plat.service then s
    else if !s.plat.resDone then { s with plat := { s.plat with err := true } }
    else
      let s1 := clearScratch { s with toks := [], repair := { s.repair with pinned := [] } }
      { s1 with plat := { s1.plat with service := true, err := false }, mgmt := { s1.mgmt with scanFrom := s1.cyc, scanDue := s1.cyc + s1.mgmt.scanInt * 3300000000 } })

/-- SVN_RAISE: a write of SVNREQ with GO = 1 (R328): 1 busy, 3 refused. -/
def execSvnRaise (v : Word) (s : State) : Result :=
  .next (
    let k := fld v.toNat 0 2
    let n := fld v.toNat 4 16
    if !bitN v.toNat 2 || s.plat.svnState = 1 then s
    else if n ≤ tget 0 s.plat.svnMin k ∨ n > tget 0 s.plat.runSvn k then
      { s with plat := { s.plat with svnKind := k, svnNew := n, svnState := 3 } }
    else { s with plat := { s.plat with svnKind := k, svnNew := n, svnState := 1 } })

/-- SVN_FUSE_DONE: the fuses are programmed (R328). -/
def execSvnFuseDone (s : State) : Result :=
  .next (
    if s.plat.svnState = 1 then
      { s with plat := { s.plat with svnState := 2, svnMin := tset 0 s.plat.svnMin s.plat.svnKind s.plat.svnNew } }
    else s)

/-! ### SPDM (R330) -/

/-- A request on the DOE mailbox of a port: answered once phase 5 has made SPDM available; while another is being answered, ERROR with Busy. -/
def spdmAsk (port : Nat) (r : State → SpdmReply) (s : State) : State :=
  if !s.plat.released || s.plat.code != 0 || s.plat.stopped || port ≥ 4 then s
  else if tget false s.plat.doeBusy port then { s with out := { s.out with spdm := s.out.spdm ++ [(port, .busy)] } }
  else { s with
           plat := { s.plat with doeBusy := tset false s.plat.doeBusy port true },
           out := { s.out with spdm := s.out.spdm ++ [(port, r s)] }, fresh := s.fresh + 1 }

/-- GET_VERSION: SPDM 1.3 (R330). -/
def execGetVersion (port : Nat) (s : State) : Result := .next (spdmAsk port (fun _ => .version 1 3) s)

/-- GET_CAPABILITIES (R330). -/
def execGetCapabilities (port : Nat) (s : State) : Result :=
  .next (spdmAsk port (fun s => .capabilities (Config.spdmAnswer 1 s.fresh)) s)

/-- NEGOTIATE_ALGORITHMS (R330). -/
def execNegotiateAlgorithms (port : Nat) (s : State) : Result := .next (spdmAsk port (fun _ => .algorithms) s)

/-- GET_DIGESTS (R330). -/
def execGetDigests (port : Nat) (s : State) : Result := .next (spdmAsk port (fun s => .digests (Config.spdmAnswer 2 s.fresh)) s)

/-- GET_CERTIFICATE (R330). -/
def execGetCertificate (port : Nat) (s : State) : Result :=
  .next (spdmAsk port (fun s => .certificate (Config.spdmAnswer 3 s.fresh)) s)

/-- CHALLENGE (R330). -/
def execChallenge (port : Nat) (s : State) : Result :=
  .next (spdmAsk port (fun s => .challengeAuth (Config.spdmAnswer 4 s.fresh)) s)

/-- GET_MEASUREMENTS (R329, R330). -/
def execGetMeasurements (port : Nat) (s : State) : Result :=
  .next (spdmAsk port (fun s => .measurements ((upto 5).map (fun i => tget 0 s.plat.meas (i + 1)))) s)

/-- Any other request (R330). -/
def execUnsupportedRequest (port : Nat) (s : State) : Result := .next (spdmAsk port (fun _ => .unsupported) s)

/-! ### Power and temperature (R335, R336, R416) -/

/-- POWER_WINDOW: the average of the last 1 ms window, in mW, sets the frame limit of a stack's vaults (R335). -/
def execPowerWindow (stack : Nat) (mw : Nat) (s : State) : Result :=
  .next (if stack ≥ 12 then s else updStack stack (fun k => { k with limit := if mw > 138000 then 2 else if mw > 133000 then 4 else 8 }) s)

/-- DRAM_OVER_85C: the refresh interval of the stack is halved (R336). -/
def execDramOver85c (stack : Nat) (s : State) : Result := .next (if stack ≥ 12 then s else updStack stack (fun k => { k with hot := true }) s)

/-- DRAM_BELOW_85C: the refresh interval of the stack is 156 rc again (R336). -/
def execDramBelow85c (stack : Nat) (s : State) : Result := .next (if stack ≥ 12 then s else updStack stack (fun k => { k with hot := false }) s)

/-- The module stops: no issue, every link down (R336, R416). -/
def stopModule (s : State) : State := { s with plat := { s.plat with stopped := true }, fabric := { s.fabric with linkup := 0 } }

/-- THERMAL_SHUTDOWN (R336). -/
def execThermalShutdown (s : State) : Result := .next (stopModule s)

/-- MODULE_STOP (R416). -/
def execModuleStop (s : State) : Result := .next (stopModule s)

end Sys2Proof.Machine
end

