-- ==== Sys2Proof/Machine/Host.lean ====
section
/-! DEFINITION. What the host writes and reads: submission ports, translation roots, capability handles, regions, and the registers of the
management block (R34 to R39, R70, R75, R101, R102, R305, R307, R310, R316, R320, R322, R323, R384, R389, R412). -/
namespace Sys2Proof.Machine

/-! ### Submission ports (R35, R37, R316) -/

def getPort (v : Vi) (fab : Bool) : Port := if fab then v.fab else v.host
def updPort (vi : Nat) (fab : Bool) (f : Port → Port) (s : State) : State :=
  updVi vi (fun v => if fab then { v with fab := f v.fab } else { v with host := f v.host }) s

/-- Latches bytes in the launch packet window. -/
def latch (off : Nat) (bytes : List Byte) (p : Port) : Port :=
  { p with lpkt := (bytes.mapIdx (fun i b => (off + i, b))).foldl (fun t x => if x.1 < 64 then tset 0 t x.1 x.2 else t) p.lpkt }

/-- Dword `i` of the latched packet. -/
def pktWord (p : Port) (i : Nat) : Nat := (upto 8).foldr (fun j a => (tget 0 p.lpkt (8 * i + j)).toNat + 256 * a) 0

/-- LPKT_LATCH (R35). -/
def execLpktLatch (vi : Nat) (fab : Bool) (off : Nat) (bytes : List Byte) (s : State) : Result :=
  .next (if vi ≥ 256 then s else updPort vi fab (latch off bytes) s)

/-! ### Packets and launches (R35, R36, R38, R39, R307) -/

def pktEntry (p : List Nat) : Nat := fld (dw p 0) 0 56
def pktPrio (p : List Nat) : Nat := fld (dw p 0) 56 8
def pktN (p : List Nat) : Nat := dw p 1
def pktRecord (p : List Nat) : Nat := fld (dw p 2) 0 56
def pktArgc (p : List Nat) : Nat := fld (dw p 2) 56 4
def pktBarv (p : List Nat) : Bool := bitN (dw p 2) 60
def pktSer (p : List Nat) : Bool := bitN (dw p 2) 61
def pktBarrier (p : List Nat) : Nat := fld (dw p 3) 0 56

/-- MALFORMED (R36). -/
def malformed (p : List Nat) : Bool :=
  pktEntry p % 4 != 0 || pktRecord p % 64 != 0 || pktArgc p > 8 || (pktBarv p && pktBarrier p % 8 != 0) || fld (dw p 2) 62 2 != 0

/-- Launches submitted to a VI of this module that have not started, in queue order. -/
def queuedOf (s : State) (vi : Nat) : List Launch :=
  s.launches.filter (fun l => l.vi == vi && !l.started && l.fault.isNone && l.origin.isNone)

/-- Whether acceptance control refuses with FULL (R307, R331, R409). -/
def isFull (s : State) (vi : Nat) (p : List Nat) : Bool :=
  !s.plat.service || s.plat.stopped || (s.mgmt.ckstate == 1 && !s.mgmt.ckdir) || (getVi s vi).failed || (queuedOf s vi).length ≥ 64 ||
    (s.launches.filter (fun l => !l.started && l.fault.isNone && l.origin.isNone)).length ≥ 1024 ||
    (!pktBarv p && !pktSer p && (queuedOf s vi).any (fun l => pktBarv l.pkt || pktSer l.pkt))

/-- E of R307: the longest remaining worst-case run of the long commands that run, in cycles (an rc is 82.5 cycles). -/
def longTail (s : State) : Nat :=
  s.cmds.foldl (fun e c => if c.stage = .running ∧ c.kind = .bkx ∧ c.worst > 1500 then max e (cdiv (c.worst * 165) 2 - (s.cyc - c.issued)) else e) 0

/-- The bound of an accepted packet (R307). -/
def startBound (s : State) (vi : Nat) (rel : Bool) : Nat :=
  if rel then 330000 + longTail s
  else
    let b := s.cyc + 330000 + longTail s
    match ((queuedOf s vi).filter (fun l => !l.rel)).getLast? with
    | some l => max b (l.bound + 33000)
    | none => b

/-! ### A launch's own accesses (R49) -/

/-- The checks of an access made for a launch: a fault code, or its PA. -/
def rootCheck (s : State) (l : Launch) (va size : Nat) (k : Want) : Except Nat Nat :=
  if inWindows va || inAperture va then .error cTRANSLATION
  else match addrCheck s { vi := l.vi, vault := none } va 1 k with
    | .error c => .error c
    | .ok p =>
      match p.tgt with
      | .rem _ _ _ => .error cTRANSLATION
      | .loc pa =>
        if paDram pa then
          match tokenCheck s (rootAgent l.vi l.seq) pa k (fineAt pa size) with
          | some c => .error c
          | none => if isLost s pa then .error cUE_CONSUMED else .ok pa
        else .ok pa

/-- Accesses of a launch to the words at `vas`, those that pass their checks. -/
def rootPassed (s : State) (l : Launch) (size : Nat) (k : Want) (vas : List Nat) : List Passed :=
  vas.flatMap (fun va => match rootCheck s l va size k with
    | .ok pa => [engPassed s { vi := l.vi, vault := none } va pa]
    | .error _ => [])

/-- Whether banks, locks or walks keep accesses of a launch from being made (R263, R264, R268). What one step makes of them at a bank counts as one access
(log 57). -/
def rootWaits (s : State) (who : Waiter) (l : Launch) (ps : List Passed) : Bool :=
  !bankTurn s who (rootAgent l.vi l.seq) (ps.flatMap (fun p => p.tgt.here)) || ps.any (fun p => walkWaits s p.walk)

/-- They wait there. -/
def rootAwait (who : Waiter) (l : Launch) (ps : List Passed) (s : State) : State := awaitPassed who (rootAgent l.vi l.seq) ps s

/-- Accesses of a launch are made once their banks serve them. -/
def rootTurn (who : Waiter) (l : Launch) (ps : List Passed) (k : State → State) (s : State) : State :=
  if rootWaits s who l ps then rootAwait who l ps s else k (endWait who s)

/-- Reads `n` dwords for a launch; none when an access fails. -/
def rootRead (l : Launch) (va : Nat) : Nat → State → Option (List Nat) × State
  | 0, s => (some [], s)
  | n + 1, s =>
    match rootCheck s l va 8 .read with
    | .error _ => (none, s)
    | .ok pa =>
      match readMem pa 8 (rootAgent l.vi l.seq) (notePinVa { vi := l.vi, vault := none } va s) with
      | (none, s1) => (none, s1)
      | (some v, s1) =>
        match rootRead l (va + 8) n s1 with
        | (none, s2) => (none, s2)
        | (some t, s2) => (some (v :: t), s2)

/-- Writes dwords for a launch; none when an access fails. -/
def rootWrite (l : Launch) (va : Nat) : List Nat → State → Option State
  | [], s => some s
  | v :: t, s =>
    match rootCheck s l va 8 .write with
    | .error _ => none
    | .ok pa => rootWrite l (va + 8) t (writeMem pa 8 v (notePinVa { vi := l.vi, vault := none } va s))

def updLaunch (vi seq : Nat) (f : Launch → Launch) (s : State) : State :=
  { s with launches := s.launches.map (fun l => if l.vi == vi && l.seq == seq then f l else l) }

/-- The fault of a launch that ends with LAUNCH_INVALID (R40, R49): its record words are 0. -/
def invalidRec : FRec := { code := cLAUNCH_INVALID }

/-- A launch ends with LAUNCH_INVALID; instances that have started end with KILLED (R49, R352). -/
def killLaunch (vi seq : Nat) (f : FRec) (s : State) : State :=
  let one (l : Launch) : Launch :=
    if l.vi == vi && l.seq == seq then { l with fault := some (l.fault.getD f), undealt := [], saved := l.saved.map killSaved } else l
  let savedIn (o : Op) : Bool := s.launches.any (fun l => l.vi == vi && l.seq == seq &&
    l.saved.any (fun x => x.vlcNo == o.vlc && x.ctx.agent == o.agent && x.ctx.seq == o.seq))
  let stop (o : Op) : Op := if savedIn o then { o with dead := true, stopped := true } else o
  let s1 := { s with launches := s.launches.map one, ops := s.ops.map stop }
  let live := (s1.vlcs.filter (fun p => p.2.vi == vi && p.2.seq == seq && !p.2.resident)).map Prod.fst
  live.foldl (fun s m => killOne m s) (endWait (.root vi seq) s1)

/-- A barrier word that a launch cannot wait on because it is uncorrectable is logged (R391). -/
def logBarrier (l : Launch) (code : Nat) (s : State) : State :=
  if code = cUE_CONSUMED then logUe (foundAt s { vi := l.vi, vault := none } (pktBarrier l.pkt)) 8 (rootAgent l.vi l.seq) s else s

/-- The barrier word of the launch at the head of a queue: PA of an aligned home word (R38, R49). -/
def barWord (s : State) (l : Launch) : Except Nat Nat :=
  let va := pktBarrier l.pkt
  if inWindows va || inAperture va then .error cTRANSLATION
  else match addrCheck s { vi := l.vi, vault := none } va 8 .read with
    | .error c => .error c
    | .ok p =>
      match p.tgt with
      | .rem _ _ _ => .error cTRANSLATION
      | .loc pa => match homeCheck s (rootAgent l.vi l.seq) pa 8 with
        | some c => .error c
        | none => .ok pa

/-- The launches at the head of their queues begin their waits: EPOCH is sampled; a wait that fails ends its launch, and the next is at the head
(R49, R109). -/
def headWaits (vi : Nat) : Nat → State → State
  | 0, s => s
  | n + 1, s =>
    match (queuedOf s vi).head? with
    | none => s
    | some l =>
      if !pktBarv l.pkt || l.e0.isSome then s
      else match barWord s l with
        | .error c => headWaits vi n (killLaunch vi l.seq invalidRec (logBarrier l c s))
        | .ok pa =>
          let w := mread s.mem pa 8
          rootTurn (.root vi l.seq) l [engPassed s { vi := vi, vault := none } (pktBarrier l.pkt) pa] (fun s =>
            updLaunch vi l.seq (fun l => { l with e0 := some (barEpoch w), barPa := pa, passed := barPend w == 0 })
              (noteServed pa (correctIn pa 8 (notePinVa { vi := vi, vault := none } (pktBarrier l.pkt) s)))) s

/-- Whether what the barrier word of a launch holds has ended its wait: PEND is 0, or EPOCH has changed (R109). -/
def barEnded (s : State) (l : Launch) : Bool :=
  match l.e0 with
  | some e => let w := mread s.mem l.barPa 8; barPend w == 0 || barEpoch w != e
  | none => false

/-- Whether the barrier of a launch has passed: once its wait has ended, that stays so, whatever becomes of the word (R109). -/
def barPassed (l : Launch) : Bool := !pktBarv l.pkt || l.passed

/-- Whether a launch may start: it is at the head of its queue, its barrier has passed, and under SER every earlier launch has completed (R38, R39). The share
of a launch submitted on another module may start when it arrives (R317). -/
def mayStart (s : State) (l : Launch) : Bool :=
  !l.started && l.fault.isNone && (l.origin.isSome || (queuedOf s l.vi).head?.map (fun h => h.seq) == some l.seq &&
      (l.ready.isSome || (barPassed l && (!pktSer l.pkt || !s.launches.any (fun k => k.vi == l.vi && k.seq < l.seq)))))

/-- The wait of a launch on its barrier word ends when the word says so, its single error then corrected and counted; a word that is uncorrectable, or lies in
no home region or a suspect one, ends the launch (R49, R109, R390, R402). -/
def watchBarrier (l : Launch) (s : State) : State :=
  if l.started || l.fault.isSome || l.e0.isNone || l.passed then s
  else if barEnded s l then
    rootTurn (.root l.vi l.seq) l [{ tgt := .loc l.barPa, dev := false, cc := false }] (fun s =>
      updLaunch l.vi l.seq (fun l => { l with passed := true }) (noteServed l.barPa (correctIn l.barPa 8 s))) s
  else match homeCheck s (rootAgent l.vi l.seq) l.barPa 8 with
    | some c => headWaits l.vi 64 (killLaunch l.vi l.seq invalidRec (logBarrier l c s))
    | none => s

/-- Records the CYC at which launches become ready: from there a relative bound counts (R38). -/
def noteReady (s : State) : State :=
  let s1 := s.launches.foldl (fun s l => watchBarrier l s) s
  { s1 with launches := s1.launches.map (fun l => if l.ready.isNone && mayStart s1 l then { l with ready := some s1.cyc } else l) }

/-- LAUNCH_SUBMIT: the dword at `0x38` is latched; unless the receipt FIFO is full, the packet is checked and answered by one receipt (R35, R36, R307, R316).
The bound latched beside the receipt of a refused packet is 0 (DESIGN CHOICE, log 63). -/
def execLaunchSubmit (vi : Nat) (fab : Bool) (w : Word) (s : State) : Result :=
  .next (
    if vi ≥ 256 then s
    else
      let s1 := updPort vi fab (latch 0x38 (regBytes w)) s
      let v := getVi s1 vi
      let port := getPort v fab
      if port.fifo.length ≥ 64 then s1
      else
        let p := (upto 8).map (pktWord port)
        let rel := pktBarv p || pktSer p
        let receipt (st : Nat) (r : Bool) (b : Nat) (s : State) : State :=
          updVi vi (fun v => { v with seq := v.seq + 1 })
            (updPort vi fab (fun q => { q with fifo := q.fifo ++ [(wN (st + 4 * b2n r + v.seq * 65536), wN b)] }) s)
        if !s1.plat.service then receipt 2 false 0 s1
        else if malformed p then receipt 3 false 0 s1
        else if isFull s1 vi p then receipt 2 false 0 s1
        else
          let b := startBound s1 vi rel
          let l : Launch := { vi := vi, seq := v.seq, pkt := p, rel := rel, bound := b, ready := if rel then none else some s1.cyc }
          noteReady (headWaits vi 64 (receipt 1 rel b { s1 with launches := s1.launches ++ [l] })))

/-- The reader takes a value of a register. -/
def regOut (w : Word) (s : State) : State := { s with out := { s.out with regs := s.out.regs ++ [w] } }

/-- RCPT_READ: the oldest receipt of the port, which is popped; its bound goes to RBOUND (R37). -/
def execRcptRead (vi : Nat) (fab : Bool) (s : State) : Result :=
  .next (
    if vi ≥ 256 then s
    else match (getPort (getVi s vi) fab).fifo with
      | [] => regOut 0 s
      | (r, b) :: t => regOut r (updPort vi fab (fun p => { p with fifo := t, rbound := b }) s))

/-! ### Translation roots and invalidation (R70, R75) -/

/-- The table words of `view` at `as` become those of `m`. -/
def copyWords (m : List Host.Cell) (as : List Nat) (view : List Host.Cell) : List Host.Cell := as.foldl (fun t a => mwrite t a 8 (mread m a 8)) view

/-- The tables below an entry `w` of a level come into effect. -/
def takeTables (m : List Host.Cell) (w : Nat) : Nat → List Host.Cell → List Host.Cell
  | 0, view => view
  | l + 1, view =>
    if !bitN w 0 || bitN w 1 then view
    else
      let as := (upto 512).map (fun i => fld w 12 29 * 4096 + 8 * i)
      as.foldl (fun t a => takeTables m (mread m a 8) l t) (copyWords m as view)

/-- The entries on the path of a VA from a table of level `l` on come into effect, down to level `stop` and what lies below; at L2 with the group of a member
of a span (R74). -/
def takePath (m : List Host.Cell) (va stop table : Nat) : Nat → List Host.Cell → List Host.Cell
  | 0, view => copyWords m [table + 8 * levelIndex va 0] view
  | l + 1, view =>
    let a := table + 8 * levelIndex va (l + 1)
    let w := mread m a 8
    let span : Bool := l = 1 ∧ (bitN w 7 || bitN (mread view a 8) 7) = true
    let v1 := copyWords m (if span then (upto 32).map (fun j => table + 8 * (levelIndex va 2 / 32 * 32 + j)) else [a]) view
    if l + 1 ≤ stop then takeTables m w (l + 1) v1
    else if bitN w 0 && !bitN w 1 then takePath m va stop (fld w 12 29 * 4096) l v1
    else v1

/-- What an invalidation of a VA and size brings into effect of the tables at `root` (R75). -/
def takeRange (m : List Host.Cell) (root : Nat) (p : Nat × Nat) (view : List Host.Cell) : List Host.Cell :=
  if p.2 = 3 then m else takePath m p.1 p.2 (fld root 12 29 * 4096) 4 view

/-- TROOT_WRITE: the new root, and an invalidation of the whole address space. -/
def execTrootWrite (vi : Nat) (v : Word) (s : State) : Result :=
  .next (if vi ≥ 256 then s else updVi vi (fun x => { x with troot := rootBits v, tinv := x.tinv ++ [(0, 3)], tview := none }) s)

/-- TINV_WRITE: an invalidation starts. -/
def execTinvWrite (vi : Nat) (v : Word) (s : State) : Result :=
  .next (if vi ≥ 256 then s else updVi vi (fun x => { x with tinv := x.tinv ++ [(fld v.toNat 12 44 * 4096, fld v.toNat 0 2)] }) s)

/-- Whether an invalidation covers a translation. -/
def invCovers (p : Nat × Nat) (e : TlbE) : Bool :=
  let sz := levelSize p.2
  p.2 == 3 || rangesMeet (p.1 / sz * sz) sz e.base e.size

/-- TINV_COMPLETE: the invalidations of a VI complete in every translation buffer, and the changes of tables that they cover come into effect. -/
def execTinvComplete (vi : Nat) (s : State) : Result :=
  .next (if vi ≥ 256 then s else
    let ps := (getVi s vi).tinv
    updVi vi (fun x => { x with
        tinv := [], tview := if x.tview.isNone && !ps.any (fun p => p.2 == 3) then none else some (ps.foldl (fun t p => takeRange s.mem x.troot.toNat p t) (tablesOf s vi)) })
      { s with tlb := s.tlb.filter (fun e => !(e.vi == vi && ps.any (fun p => invCovers p e))) })

/-- TSYNC_READ: DONE. -/
def execTsyncRead (vi : Nat) (s : State) : Result :=
  .next (if vi ≥ 256 then s else regOut (if (getVi s vi).tinv.isEmpty then 1 else 0) s)

/-! ### Capability handles (R101, R102) -/

/-- Dwords of a handle entry, and an entry from its dwords. -/
def handleWord0 (h : Handle) : Word := wN (b2n h.v + 2 * b2n h.rd + 4 * b2n h.wr + 8 * b2n h.nb + h.vi * 16 + h.base * 4096)
def handleWord1 (h : Handle) : Word := wN (h.pages + h.token * 2 ^ 20)
def wordsHandle (vi : Nat) (a b : Word) : Handle :=
  {
    v := bitN a.toNat 0, rd := bitN a.toNat 1, wr := bitN a.toNat 2, nb := bitN a.toNat 3, vi := vi, base := fld a.toNat 12 29,
    pages := fld b.toNat 0 20, token := fld b.toNat 20 16 }

/-- Whether a commit is refused (R102). -/
def commitBad (s : State) (vi stack idx : Nat) (h : Handle) : Bool :=
  let e := tget {} s.hands (stack * 16384 + idx)
  stack ≥ 12 || (e.v && e.vi != vi) || (h.v && h.pages == 0) ||
    (h.v && !(backed s (h.base * 4096) (h.pages * 4096) && paStack (h.base * 4096) == stack && paOff (h.base * 4096) + h.pages * 4096 ≤ dramEnd)) ||
    (h.nb && !(h.base % 512 == 0 && h.pages == 512))

/-- A write of HSEL begins: INDEX and STACK are stored; a refusal sets ERR at once, and otherwise DONE = 0 until the job ends. A write while a job is
under way is not taken. -/
def hselStart (vi : Nat) (v : Word) (bad : Bool) (job : Nat × Option Handle) (s : State) : State :=
  updVi vi (fun x =>
    let sel := fld v.toNat 0 18
    if x.hjob.isSome then x
    else if bad then { x with hsel := wN (sel + 2 ^ 62 + 2 ^ 63) }
    else { x with hsel := wN sel, hjob := some job }) s

/-- HANDLE_COMMIT: DIR = 1 (R102). -/
def execHandleCommit (vi : Nat) (v : Word) (s : State) : Result :=
  .next (
    if vi ≥ 256 then s
    else
      let x := getVi s vi
      let stack := fld v.toNat 14 4
      let h := wordsHandle vi x.hdat0 x.hdat1
      hselStart vi v (commitBad s vi stack (fld v.toNat 0 14) h) (stack * 16384 + fld v.toNat 0 14, some h) s)

/-- HANDLE_FETCH: DIR = 0; another VI's valid entry, or a stack that does not exist, is refused (R102). -/
def execHandleFetch (vi : Nat) (v : Word) (s : State) : Result :=
  .next (
    if vi ≥ 256 then s
    else
      let k := fld v.toNat 14 4 * 16384 + fld v.toNat 0 14
      let e := tget {} s.hands k
      hselStart vi v (fld v.toNat 14 4 ≥ 12 || (e.v && e.vi != vi)) (k, none) s)

/-- HSEL_DONE: DONE = 1; the commit applies, unless another commit has meanwhile made it one that is refused, which sets ERR; or the entry is in HDAT0 and
HDAT1 (R102). -/
def execHselDone (vi : Nat) (s : State) : Result :=
  .next (match (getVi s vi).hjob with
    | none => s
    | some (k, job) =>
      let s1 := updVi vi (fun x => { x with hjob := none, hsel := x.hsel ||| wN (2 ^ 63) }) s
      match job with
      | some h =>
        if commitBad s1 vi (k / 16384) (k % 16384) h then updVi vi (fun x => { x with hsel := x.hsel ||| wN (2 ^ 62) }) s1
        else { s1 with hands := tset {} s1.hands k h }
      | none =>
        let e := tget {} s1.hands k
        updVi vi (fun x => { x with hdat0 := handleWord0 e, hdat1 := handleWord1 e }) s1)

/-! ### Regions of the host (R322, R323) -/

/-- A frame stays pinned until every region over it is freed (R412). -/
def unpinFree (s : State) : State :=
  { s with repair := { s.repair with pinned := s.repair.pinned.filter (fun f => s.toks.any (fun p => p.2.kind == 1 && p.1 / 65536 == paStack f &&
      rangesMeet (p.2.base * 4096) (p.2.pages * 4096) f 2097152)) } }

/-- A host token operation: refused, or the entry changes and the operation is busy until every token cache holds the new state (R97, R323). UNHOME
waits for its drain first. -/
def tkStart (vi : Nat) (op : Nat) (v : Word) (s : State) : State :=
  let x := getVi s vi
  let stack := fld v.toNat 18 4
  let key := stack * 65536 + fld v.toNat 2 16
  let t := tokAt s key
  let mine := t.owner == hostAgent vi && t.shares == 0
  let l := s.launches.find? (fun l => l.vi == vi && l.seq % 65536 == fld v.toNat 22 16)
  let ok := s.plat.service && stack < 12 && t.kind == 1 && (match op with
    | 0 => mine && l.isSome
    | 1 => mine
    | _ => t.owner == homeAgent stack && t.lender == hostAgent vi)
  if vi ≥ 256 || x.tkres == 1 then s
  else if !ok then updVi vi (fun x => { x with tkop := v, tkres := 3 }) s
  else
    let busy (drained : Bool) (s : State) : State := updVi vi (fun x => { x with tkop := v, tkres := 1, tkDrained := drained }) s
    match op with
    | 0 => busy true (putTok key { t with owner := rootAgent vi (fld v.toNat 22 16), lender := hostAgent vi } s)
    | 1 => busy true (putTok key { t with owner := homeAgent stack, lender := hostAgent vi } s)
    | _ => busy false s

/-- GIVE (R323). -/
def execGive (vi : Nat) (v : Word) (s : State) : Result := .next (tkStart vi 0 v s)

/-- HOME (R323). -/
def execHome (vi : Nat) (v : Word) (s : State) : Result := .next (tkStart vi 1 v s)

/-- UNHOME (R323). -/
def execUnhome (vi : Nat) (v : Word) (s : State) : Result := .next (tkStart vi 2 v s)

/-- CARVE1 as it reads after an operation: GO cleared, ERR as given. -/
def carveReg (v : Word) (err : Bool) : Word := wN (fld v.toNat 0 34 + 2 ^ 35 * b2n err)

/-- BASE of CARVE0, as a PA. -/
def carveBase (s : State) : Nat := fld s.mgmt.carve0.toNat 12 29 * 4096

/-- CARVE: a region owned by Host VI (R322). -/
def execCarve (v : Word) (s : State) : Result :=
  .next (
    let base := carveBase s
    let pages := fld v.toNat 0 25
    let bad := !s.plat.service || pages == 0 || !backed s base (pages * 4096) || paOff base + pages * 4096 > dramEnd ||
      s.toks.any (fun p => p.2.kind == 1 && p.1 / 65536 == paStack base && rangesMeet (p.2.base * 4096) (p.2.pages * 4096) base (pages * 4096)) ||
      (freeTok s (paStack base)).isNone
    let s1 := { s with mgmt := { s.mgmt with carve1 := carveReg v bad } }
    if bad then s1
    else putTok ((freeTok s (paStack base)).getD 0) { kind := 1, base := base / 4096, pages := pages, owner := hostAgent (fld v.toNat 25 8) } s1)

/-- CARVE_DELETE: frees the host's region that starts at BASE (R322). -/
def execCarveDelete (v : Word) (s : State) : Result :=
  .next (
    let base := carveBase s
    match s.toks.find? (fun p => p.2.kind == 1 && p.2.base == base / 4096 && p.2.owner == hostAgent (fld v.toNat 25 8) && p.2.shares == 0) with
    | some (k, _) =>
      if s.plat.service then unpinFree (putTok k {} { s with mgmt := { s.mgmt with carve1 := carveReg v false } })
      else { s with mgmt := { s.mgmt with carve1 := carveReg v true } }
    | none => { s with mgmt := { s.mgmt with carve1 := carveReg v true } })

/-! ### Registers of the management block -/

/-- VSCHED_WRITE (R305): ignored if the floors would pass 1,000 or QUANT is 0. -/
def execVschedWrite (vi : Nat) (v : Word) (s : State) : Result :=
  .next (
    let fl := fld v.toNat 0 10
    let others := s.vis.foldl (fun a p => if p.1 = vi then a else a + p.2.floor) 0
    if vi ≥ 256 || fl + others > 1000 || fld v.toNat 16 16 == 0 then s
    else remeasure (updVi vi (fun x => { x with floor := fl, quant := fld v.toNat 16 16 }) s))

/-- HDMB_WRITE (R320): dword 0 of binding `n`. -/
def execHdmbWrite (n : Nat) (v : Word) (s : State) : Result :=
  .next (
    if n ≥ 64 || (bitN v.toNat 0 && fld v.toNat 1 8 / 64 != n / 16) then s
    else { s with mgmt := { s.mgmt with hdmb := tset 0 s.mgmt.hdmb n (wN (fld v.toNat 0 9 + fld v.toNat 28 28 * 2 ^ 28)) } })

/-- MODID_WRITE (R305, R329). -/
def execModidWrite (v : Word) (s : State) : Result := .next (remeasure { s with mgmt := { s.mgmt with modid := fld v.toNat 0 10 } })

/-- SCANCTL_WRITE (R384): ignored if INTERVAL is out of range. -/
def execScanctlWrite (v : Word) (s : State) : Result :=
  .next (
    let i := fld v.toNat 8 17
    if i < 60 ∨ i > 86400 then s
    else
      -- tests fall due every INTERVAL seconds from entry into service mode; one that is due already stays so (R385)
      let t := i * 3300000000
      let due := s.mgmt.scanFrom + t * ((s.cyc - s.mgmt.scanFrom) / t + 1)
      { s with mgmt := { s.mgmt with scanEn := bitN v.toNat 0, scanInt := i, scanDue := if s.mgmt.scanDue ≤ s.cyc then s.mgmt.scanDue else due } })

/-- CESTAT_WRITE (R389): the dword is cleared. -/
def execCestatWrite (n : Nat) (hi : Bool) (s : State) : Result :=
  .next (if n ≥ 12 then s else { s with mgmt := { s.mgmt with ce := tset 0 s.mgmt.ce (2 * n + b2n hi) 0 } })

/-- SPARE_WRITE (R412): ignored if it would designate bytes that lie in a region. -/
def execSpareWrite (n : Nat) (v : Word) (s : State) : Result :=
  .next (
    let base := fld v.toNat 21 20 * 2097152
    let len := fld v.toNat 41 12 * 2097152
    if n ≥ 16 || (bitN v.toNat 0 && s.toks.any (fun p => p.2.kind == 1 && rangesMeet (p.2.base * 4096) (p.2.pages * 4096) base len)) then s
    else { s with mgmt := { s.mgmt with spare := tset 0 s.mgmt.spare n (wN (fld v.toNat 0 1 + fld v.toNat 21 32 * 2 ^ 21)) } })

/-- Registers of a VI's block that only hold their value: HDAT0, HDAT1, VCTL and PRELD. -/
def viWrite (off : Nat) (v : Word) (x : Vi) : Vi :=
  match off with
  | 0x078 => { x with hdat0 := wN (fld v.toNat 0 4 + fld v.toNat 12 29 * 4096) }
  | 0x080 => { x with hdat1 := wN (fld v.toNat 0 36) }
  | 0x088 => { x with vctl := wN (fld v.toNat 0 2 + fld v.toNat 8 8 * 256) }
  | 0x090 => { x with preld := wN (fld v.toNat 0 1 + fld v.toNat 6 50 * 64) }
  | _ => x

/-- Registers of the management block that only hold their value: CARVE0, CARVE1 written with GO = 0, CKSER and the checkpoint targets. -/
def mgmtWrite (off : Nat) (v : Word) (m : Mgmt) : Mgmt :=
  if off = 0x0800 then { m with carve0 := wN (fld v.toNat 12 29 * 4096) }
  else if off = 0x0808 then (if bitN v.toNat 34 then m else { m with carve1 := carveReg v (bitN m.carve1.toNat 35) })
  else if off = 0x3038 then { m with ckser := v }
  else if 0x7000 ≤ off ∧ off < 0x7000 + 16 * 28 ∧ off % 16 = 0 then { m with cktgt := tset 0 m.cktgt ((off - 0x7000) / 8) (wN (fld v.toNat 0 11)) }
  else if 0x7000 ≤ off ∧ off < 0x7000 + 16 * 28 ∧ off % 16 = 8 then { m with cktgt := tset 0 m.cktgt ((off - 0x7000) / 8) v }
  else m

/-- REGISTER_WRITE: a register with no behaviour of its own stores its value, RSV bits ignored (R6); the mailbox tile is written in mailbox mode (R332, R333). -/
def execRegisterWrite (mgmt : Bool) (vi : Nat) (off : Nat) (v : Word) (s : State) : Result :=
  .next (
    if mgmt then
      if 0x8000 ≤ off ∧ off < 0x9000 then
        (if s.plat.service || off % 8 != 0 then s
         else
          let pa := vaultPa 5 (dramEnd + 0x3FFF000) + (off - 0x8000)
          writeMem pa 8 v.toNat { s with plat := { s.plat with mboxAt := tset 0 s.plat.mboxAt (pa / 8) (s.cyc + 1) } })
      else { s with mgmt := mgmtWrite off v s.mgmt }
    else if vi ≥ 256 then s else updVi vi (viWrite off v) s)

end Sys2Proof.Machine
end

