-- ==== Sys2Proof/Machine/Registers.lean ====
section
/-! DEFINITION. What a read of a host register returns: the register block of a VI and the management block (R34, R37, R70, R101, R102, R305, R310,
R320, R322, R328, R332, R333, R353, R384, R387 to R389, R405, R408, R410, R412). RSV bits, and registers that are only written, read as 0 (R6). -/
namespace Sys2Proof.Machine

/-- Queue depth of a VI (R34). -/
def queueDepth (s : State) (vi : Nat) : Nat := (queuedOf s vi).length % 128

/-- The value of a register of a VI's block, other than RCPT and TSYNC (R34, R70, R310, R353, R405). -/
def viReg (s : State) (vi off : Nat) : Word :=
  let x := getVi s vi
  match off with
  | 0x048 => x.host.rbound
  | 0x050 => wN (queueDepth s vi)
  | 0x058 => x.troot
  | 0x070 => x.hsel
  | 0x078 => x.hdat0
  | 0x080 => x.hdat1
  | 0x088 => x.vctl
  | 0x090 => x.preld
  | 0x0A0 => wN x.tkres
  | 0x0B0 => x.lflt
  | 0x0B8 => tget 0 x.lrec 0
  | 0x0C0 => tget 0 x.lrec 1
  | 0x0C8 => tget 0 x.lrec 2
  | 0x0D0 => tget 0 x.lrec 3
  | 0x0D8 => wN x.pmiss
  | _ => 0

/-- Dword `d` of an entry of the error log (R388). -/
def elogWord (e : ElogE) (d : Nat) : Word :=
  match d with
  | 0 => e.d0
  | 1 => e.d1
  | 2 => e.d2
  | _ => e.d3

/-- The registers of the platform and of the failures chapter, at `0x3000` to `0x3078` (R328, R332, R384, R387, R408). -/
def platReg (s : State) (off : Nat) : Word :=
  let m := s.mgmt
  let p := s.plat
  match off with
  | 0x3000 => wN (b2n (!p.service) + p.code * 256 + b2n p.err * 65536)
  | 0x3010 => p.mroot
  | 0x3018 => wN (b2n m.scanEn + m.scanInt * 256 + m.nextq * 2 ^ 25)
  | 0x3020 => m.scanlog
  | 0x3030 => wN (m.ckstate + m.ckcode * 256)
  | 0x3038 => m.ckser
  | 0x3040 => wN (m.elogNext + m.elogLost * 2 ^ 32)
  | 0x3048 => wN s.fabric.linkup.toNat
  | 0x3050 => wN m.retq.toNat
  | 0x3058 => wN (fld m.retv.toNat 0 64)
  | 0x3060 => wN (fld m.retv.toNat 64 64)
  | 0x3068 => wN (fld m.retv.toNat 128 64)
  | 0x3070 => wN (p.svnState * 2 ^ 20)
  | 0x3078 => wN ((upto 4).foldl (fun a k => a + tget 0 p.svnMin k % 65536 * 2 ^ (16 * k)) 0)
  | _ => 0

/-- The value of a register of the management block (R305, R320, R322, R332, R333, R384, R387 to R389, R410, R412). -/
def mgmtReg (s : State) (off : Nat) : Word :=
  let m := s.mgmt
  if off = 0 then wN m.modid
  else if off = 0x0800 then m.carve0
  else if off = 0x0808 then m.carve1
  else if 0x1000 ≤ off ∧ off < 0x1800 then vschedWord (getVi s ((off - 0x1000) / 8))
  else if 0x2000 ≤ off ∧ off < 0x2400 then (if off % 16 = 0 then tget 0 m.hdmb ((off - 0x2000) / 16) else 0)
  else if 0x3000 ≤ off ∧ off < 0x3080 then platReg s off
  else if 0x3100 ≤ off ∧ off < 0x31C0 then tget 0 m.ce ((off - 0x3100) / 8)
  else if 0x3200 ≤ off ∧ off < 0x3280 then tget 0 m.spare ((off - 0x3200) / 8)
  else if 0x4000 ≤ off ∧ off < 0x6000 then tget 0 m.route ((off - 0x4000) / 8)
  else if 0x7000 ≤ off ∧ off < 0x71C0 then tget 0 m.cktgt ((off - 0x7000) / 8)
  else if 0x8000 ≤ off ∧ off < 0x9000 then wN (mread s.mem (vaultPa 5 (dramEnd + 0x3FFF000) + (off - 0x8000)) 8)
  else if 0x9000 ≤ off ∧ off < 0xA000 then elogWord (tget ⟨0, 0, 0, 0⟩ m.elog ((off - 0x9000) / 32)) (off / 8 % 4)
  else 0

/-- The host has read an entry of the error log (R387). -/
def elogSeen (n : Nat) (s : State) : State :=
  { s with mgmt := { s.mgmt with elogUnread := s.mgmt.elogUnread &&& ~~~ BitVec.ofNat 128 (2 ^ n) } }

/-- The host reads an aligned dword of a register block: RCPT is popped (R37), TSYNC answers DONE (R75), an entry of the log counts as read (R387),
and every other register is only read. -/
def regRead (mgmt : Bool) (vi off : Nat) (s : State) : State :=
  let done (r : Result) : State := match r with | .next t => t | _ => s
  if off % 8 ≠ 0 then s
  else if mgmt then regOut (mgmtReg s off) (if 0x9000 ≤ off ∧ off < 0xA000 then elogSeen ((off - 0x9000) / 32) s else s)
  else if vi ≥ 256 then s
  else if off = 0x040 then done (execRcptRead vi false s)
  else if off = 0x068 then done (execTsyncRead vi s)
  else regOut (viReg s vi off) s

end Sys2Proof.Machine
end

