-- ==== Sys2Proof/Machine/Fabric.lean ====
section
/-! DEFINITION. The Catric fabric: inbound accesses and copies, links and modules that cannot be reached (R292, R311 to R316, R400, R405 to R407). -/
namespace Sys2Proof.Machine

/-! ### Inbound accesses (R314, R315) -/

/-- The reply to a peer: its tag, 0 or a fault code, data, and whether the access has met DEV memory here. -/
def replyTo (tag code data : Nat) (s : State) (dev : Bool := false) : State :=
  { s with out := { s.out with remote := s.out.remote ++ [(tag, code, data, dev)] } }

/-- What a remote agent may not do in the space of VI `rvi` is refused, and logged with EVT 10, found where the access leads (R388, R404); a word that it cannot
read is no refusal. -/
def refusePeer (mod vi rvi tag va code : Nat) (s : State) : State :=
  let p := foundAt s { vi := rvi, vault := none } va
  if code = cUE_CONSUMED then replyTo tag code 0 s else elog 10 code (paStack p) (paVault p) (remAgent mod vi) va 0 (replyTo tag code 0 s)

/-- An access of a remote agent is refused. -/
def refuseRemote (r : RemoteReq) (code : Nat) (s : State) : State := refusePeer r.mod r.vi r.rvi r.tag r.va code s

/-- An access through the control aperture: LPKT is written, RCPT, RBOUND and QDEPTH are read; or the checks alone of such an access of a vector element
(R315, R364). -/
def controlAccess (r : RemoteReq) (s : State) : State :=
  let vi := fld r.va 12 8
  let off := fld r.va 0 12
  let refuse := refuseRemote r cPROTECTION s
  if (r.pa.isNone && !bitN (getVi s vi).vctl.toNat 0) || r.size ≠ 8 || r.va % 8 ≠ 0 || fld r.va 20 17 ≠ 0 then refuse
  else if (r.op = 9 ∧ off < 0x40) ∨ (r.op = 8 ∧ 0x40 ≤ off ∧ off < 0x58) then replyTo r.tag 0 0 s
  else if r.op = 1 ∧ off = 0x38 then
    match execLaunchSubmit vi true r.data s with
    | .next s1 => replyTo r.tag 0 0 s1
    | _ => s
  else if r.op = 1 ∧ off < 0x38 then replyTo r.tag 0 0 (updPort vi true (latch off (regBytes r.data)) s)
  else if r.op = 0 ∧ off = 0x40 then
    match (getVi s vi).fab.fifo with
    | [] => replyTo r.tag 0 0 s
    | (w, b) :: t => replyTo r.tag 0 w.toNat (updPort vi true (fun p => { p with fifo := t, rbound := b }) s)
  else if r.op = 0 ∧ off = 0x48 then replyTo r.tag 0 (getVi s vi).fab.rbound.toNat s
  else if r.op = 0 ∧ off = 0x50 then replyTo r.tag 0 (queueDepth s vi) s
  else refuse

/-- What an inbound request wants: 0 a load, 1 a store, 2 an atomic; 8, 9 and 10 the checks of a load, of a store and of an atomic, as a vector element or a
buffered store asks for them (R361, R364). -/
def reqWant (r : RemoteReq) : Want := match r.op with | 0 => .read | 8 => .read | 1 => .write | 9 => .write | _ => .atomic

/-- The access performs at this module's target under the remote agent (R314); `dev` says that it is DEV memory. What asks for checks alone is answered with
the PA that they found. -/
def remotePerform (r : RemoteReq) (dev : Bool) (pa : Nat) (s : State) : State :=
  let agent := remAgent r.mod r.vi
  if r.op ≥ 8 then replyTo r.tag 0 pa s dev
  else match reqWant r with
  | .read =>
    match readMem pa r.size agent s with
    | (none, s1) => refuseRemote r cUE_CONSUMED s1
    | (some v, s1) => replyTo r.tag 0 v s1 dev
  | .write => replyTo r.tag 0 0 (writeWide pa r.size r.data.toNat s) dev
  | .atomic =>
    let s1 := correctIn pa r.size s
    let old := mread s1.mem pa r.size
    replyTo r.tag 0 old (writeMem pa r.size (atomicNew r.aop (8 * r.size) old r.data.toNat r.cmp.toNat) s1) dev

/-- An access whose checks this module has made before meets only what its data may hold: an uncorrectable word, or a lost frame (R361, R370, R391). -/
def remoteData (s : State) (r : RemoteReq) (pa : Nat) : Option Nat :=
  if (reqWant r == .atomic && ueIn s pa r.size) || (reqWant r == .write && isLost s pa) then some cUE_CONSUMED else none

/-- The target check of an inbound access (R93, R391, R402). -/
def remoteTarget (s : State) (r : RemoteReq) (pa : Nat) : Option Nat :=
  let agent := remAgent r.mod r.vi
  if reqWant r == .atomic then homeCheck s agent pa r.size
  else if !paDram pa then none
  else match tokenCheck s agent pa (reqWant r) (fineAt pa r.size) with
    | some c => some c
    | none => if reqWant r == .write && isLost s pa then some cUE_CONSUMED else none

/-- The operation that stands for a peer in the checks and at the banks of this module: `id` is that of its request, where that waits. -/
def peerOp (id mod vi rvi : Nat) : Op := { id := id, vlc := 1536, agent := remAgent mod vi, vi := rvi, quad := 0, kind := .cpyr, mark := 0 }

/-- An inbound load, store or atomic, or the checks of one: served, or the accesses that wait at their banks or for a lock (R263, R268, R314). What was checked
before is not checked again (R361, R370). -/
def accessNow (id : Nat) (r : RemoteReq) (s : State) : Except (List Passed) State :=
  let o := peerOp id r.mod r.vi r.rvi
  let turn (p : Passed) (t : State) : Except (List Passed) State := if engWaits s o [p] then .error [p] else .ok t
  if r.ctl then .ok (controlAccess r s)
  else match r.pa with
  | some pa =>
    match remoteData s r pa with
    | some c => .ok (refuseRemote r c (logUe pa r.size (remAgent r.mod r.vi) s))
    | none => turn { tgt := .loc pa, dev := false, cc := false } (remotePerform r false pa s)
  | none =>
    match addrCheck s { vi := r.rvi, vault := none } r.va r.size (reqWant r) with
    | .error c => .ok (refuseRemote r c s)
    | .ok p =>
      match p.tgt with
      | .rem _ _ _ => .ok (refuseRemote r cTRANSLATION s)
      | .loc pa =>
        match remoteTarget s r pa with
        | some c => .ok (refuseRemote r c (if c = cUE_CONSUMED then logUe pa r.size (remAgent r.mod r.vi) s else s))
        | none => turn p (remotePerform r p.dev pa (notePin p s))

/-! ### Inbound copies (R292) -/

/-- Whether an address lies where a remote agent names nothing. -/
def notRemote (va : Nat) : Bool := inWindows va || inAperture va

/-- The first byte of the destination of a peer's copy that its agent may not write: its region must be lent to that agent (R292). -/
def dstUnowned (s : State) (agent : Nat) (o : Op) (d : Desc) : Option Nat :=
  ((upto d.units).flatMap (unitWords s o d)).findSome? (fun w => if paDram (8 * w) then tokenCheck s agent (8 * w) .write true else none)

/-- A peer's copy is accepted here: it holds the use counts of the tiles that it writes until it completes (R87, R289). -/
def acceptPeer (o : Op) (r : RemoteCheck) (s : State) : State :=
  let ts := tilesOf ((upto (readDesc o.desc).units).flatMap (unitWords s o (readDesc o.desc)))
  replyTo r.tag 0 0 (ts.foldl (fun s t => useTile t s) { s with inbound := s.inbound ++
    [{ mod := r.mod, vi := r.vi, rvi := r.rvi, tag := r.tag, desc := o.desc, tiles := ts, accAt := s.nextId }] })

/-- The check of a peer's copy: its destination side and barrier, and its credit; the answer is 0 or the refusal, or the credit waits at its bank (R292, R366). -/
def checkNow (id : Nat) (r : RemoteCheck) (s : State) : Except (List Passed) State :=
  let o : Op := { peerOp id r.mod r.vi r.rvi with desc := r.desc.map (fun w => w.toNat) }
  let d := readDesc o.desc
  let w : Who := { vi := r.rvi, vault := none }
  let refuse (va c : Nat) (s : State) : Except (List Passed) State := .ok (refusePeer r.mod r.vi r.rvi r.tag va c s)
  if notRemote d.dst then refuse d.dst cTRANSLATION s
  else match firstFail (dstSide s w .cpyr d) with
    | some c => refuse d.dst c s
    | none =>
      match dstUnowned s o.agent o d with
      | some c => refuse d.dst c s
      | none =>
        if !d.ben then .ok (acceptPeer o r s)
        else if notRemote d.bar then refuse d.bar cTRANSLATION s
        else match barCheck s w o.agent d.bar with
          | .error c => refuse d.bar c.1 s
          | .ok pa =>
            if !d.bcr then .ok (acceptPeer o r s)
            else if engWaits s o [engPassed s w d.bar pa] then .error [engPassed s w d.bar pa]
            else if ueIn s pa 8 then refuse d.bar cUE_CONSUMED (logUe pa 8 o.agent s)
            else
              let s1 := correctIn pa 8 (notePinVa w d.bar s)
              match barCredit (mread s1.mem pa 8) (d.destBytes false) with
              | none => refuse d.bar cBAR_RANGE s1
              | some v => .ok (acceptPeer o r (writeMem pa 8 v s1))

/-- One write of a chunk: its bytes, or the bits of one lane of a bank-striped destination. -/
def chunkWrite (g : State) (id : Nat) (r : RemoteChunk) (x : CopyWrite) (s : State) : Got × State :=
  let o := peerOp id r.mod r.vi r.rvi
  let w : Who := { vi := r.rvi, vault := none }
  if notRemote x.va then (.bad cTRANSLATION, s)
  else if x.planes = 0 then engWrite g o w x.va x.bytes.length (bytesWord x.bytes) s
  else stripeWrite g o w x.va x.planes x.lane (bytesWord x.bytes) s

/-- The writes of a chunk in turn, to the first that is refused or waits. -/
def chunkWrites (g : State) (id : Nat) (r : RemoteChunk) : List CopyWrite → State → Got × State
  | [], s => (.val 0, s)
  | x :: xs, s =>
    match chunkWrite g id r x s with
    | (.val _, s1) => chunkWrites g id r xs s1
    | (.bad c, s1) => (.bad c, refusePeer r.mod r.vi r.rvi r.tag x.va c s1)
    | b => b

/-- The debit that comes with a chunk, once its writes have performed (R108). -/
def chunkDebit (r : RemoteChunk) (pa : Nat) (s : State) : State :=
  if ueIn s pa 8 then replyTo r.tag cUE_CONSUMED 0 (logUe pa 8 (remAgent r.mod r.vi) s)
  else
    let s1 := correctIn pa 8 (notePinVa { vi := r.rvi, vault := none } r.bar s)
    replyTo r.tag 0 0 (writeMem pa 8 (barDebit (mread s1.mem pa 8) r.debit) s1)

/-- A peer's copy completes: its tiles go back, and one without an error clears the suspect regions that it has written whole (R289, R402). -/
def endInbound (x : Inbound) (bad : Bool) (s : State) : State :=
  let s1 := leaveTiles x.tiles (readDesc x.desc).ret { s with inbound := s.inbound.filter (fun y => y != x) }
  if bad then s1 else clearSuspect { peerOp 0 x.mod x.vi x.rvi with kind := .cpy, desc := x.desc, accAt := x.accAt } s1

/-- The copies of a module that have not completed end with an error. -/
def endInbounds (m : Nat) (s : State) : State := (s.inbound.filter (fun x => x.mod == m)).foldl (fun s x => endInbound x true s) s

/-- Whether a request of a peer belongs to the copy of a chunk. -/
def PeerAsk.sameCopy (r : RemoteChunk) : PeerAsk → Bool
  | .write q => q.mod == r.mod && q.tag == r.tag
  | _ => false

/-- A chunk of a peer's copy: its writes perform here, and then the debit that comes with them; it is acknowledged, or refused, or waits while a bank or a lock
holds one of its accesses back (R263, R268, R292). The notice that the copy has completed comes behind its chunks. -/
def chunkNow (id : Nat) (r : RemoteChunk) (s : State) : Except (List Passed) State :=
  let o := peerOp id r.mod r.vi r.rvi
  let w : Who := { vi := r.rvi, vault := none }
  match r.fin with
  | some bad =>
    if s.peerq.any (fun q => (id == 0 || decide (q.id < id)) && q.ask.sameCopy r) then .error []
    else match s.inbound.find? (fun x => x.mod == r.mod && x.tag == r.tag) with
      | some x => .ok (endInbound x bad s)
      | none => .ok s
  | none =>
    match chunkWrites s id r r.writes s with
    | (.busy l, _) => .error l
    | (.bad _, s1) => .ok s1
    | (.val _, s1) =>
      if r.debit = 0 then .ok (replyTo r.tag 0 0 s1)
      else match barCheck s1 w o.agent r.bar with
        | .error c => .ok (refusePeer r.mod r.vi r.rvi r.tag r.bar c.1 s1)
        | .ok pa => if engWaits s o [engPassed s w r.bar pa] then .error [engPassed s w r.bar pa] else .ok (chunkDebit r pa s1)

/-! ### Requests of peers that wait (R263, R268, R314, R396) -/

/-- A request of a peer is served, as the request `id` that waits, or 0. -/
def askNow (id : Nat) (q : PeerAsk) (s : State) : Except (List Passed) State :=
  match q with
  | .access r => accessNow id r s
  | .check r => checkNow id r s
  | .write r => chunkNow id r s

/-- The agent of a request. -/
def PeerAsk.agent : PeerAsk → Nat
  | .access r => remAgent r.mod r.vi
  | .check r => remAgent r.mod r.vi
  | .write r => remAgent r.mod r.vi

/-- A request of a peer arrives: it is served at once, or waits at its banks from now on. -/
def peerArrive (q : PeerAsk) (s : State) : State :=
  if s.plat.stopped then s
  else match askNow 0 q s with
    | .ok t => t
    | .error l => awaitPassed (.peer s.nextId) q.agent l (bump { s with peerq := s.peerq ++ [{ id := s.nextId, ask := q }] })

/-- The waiting request of serial number `id` is served, or waits on. -/
def peerServe (id : Nat) (s : State) : State :=
  match s.peerq.find? (fun q => q.id == id) with
  | none => s
  | some q =>
    match askNow id q.ask s with
    | .ok t => endWait (.peer id) { t with peerq := t.peerq.filter (fun x => x.id != id) }
    | .error l => awaitPassed (.peer id) q.ask.agent l s

/-- REMOTE_ACCESS_REQUEST: an inbound load, store or atomic, or the checks of one (R314, R361). -/
def execRemoteAccessRequest (r : RemoteReq) (s : State) : Result := .next (peerArrive (.access r) s)

/-- REMOTE_COPY_CHECK: the check that a peer's copy asks for (R292, R366). -/
def execRemoteCopyCheck (r : RemoteCheck) (s : State) : Result := .next (peerArrive (.check r) s)

/-- REMOTE_COPY_WRITE: a chunk of a peer's copy, or the notice that it has completed (R289, R292). -/
def execRemoteCopyWrite (r : RemoteChunk) (s : State) : Result := .next (peerArrive (.write r) s)

/-! ### Links (R406, R407) -/

/-- The agents of module `m` that own or lend a token. -/
def tokenAgents (s : State) (m : Nat) : List Nat :=
  (s.toks.filter (fun p => p.2.kind != 0)).flatMap (fun p => [p.2.owner, p.2.lender].filter (fun a => agentType a == 5 && a % 65536 == m))

/-- A failed module can be reached again: its agents that hold tokens stay failed until these are reclaimed (R400). -/
def keepFailed (m : Nat) (s : State) : State := { s with fabric := { s.fabric with failed := (s.fabric.failed ++ tokenAgents s m).eraseDups } }

/-- Notes since when modules have been unreachable (as CYC + 1), and forgets it for those that are not. -/
def noteReach (s0 : State) : State :=
  let s := (s0.fabric.unreachable.filter (fun m => !maskDown s0 m)).foldl (fun s m => keepFailed m s) s0
  { s with fabric := { s.fabric with
                       downSince := (upto 1024).foldl (fun t m => if maskDown s m then (if tget 0 t m = 0 then tset 0 t m (s.cyc + 1) else t) else tset 0 t m 0) s.fabric.downSince,
                       unreachable := s.fabric.unreachable.filter (fun m => maskDown s m) } }

/-- Flits in flight on a link that goes down are sent again on another of the mask that is up (R406). -/
def resendFrom (link : Nat) (s : State) : State :=
  { s with net := s.net.map (fun a => match a.tgt with
      | .rem m _ _ => if a.link = link then { a with link := linkFor s m a.va } else a
      | .loc _ => a) }

/-- FLIT_CRC_FAIL: the flit is sent again; its ninth failure takes the link down (R406). -/
def execFlitCrcFail (link : Nat) (s : State) : Result :=
  .next (
    if link ≥ 24 || !s.fabric.linkup.getLsbD link then s
    else
      let n := tget 0 s.fabric.retries link + 1
      if n < 9 then { s with fabric := { s.fabric with retries := tset 0 s.fabric.retries link n } }
      else
        noteReach (resendFrom link (elog 5 0 (link / 2) 0 0 link link { s with fabric := { s.fabric with
                                                                          retries := tset 0 s.fabric.retries link 0,
                                                                          linkup := s.fabric.linkup &&& ~~~BitVec.ofNat 24 (2 ^ link) } })))

/-- LINK_RETRAIN: a down link is trained again, or fails to train (R406). -/
def execLinkRetrain (link : Nat) (ok : Bool) (s : State) : Result :=
  .next (
    if link ≥ 24 || s.fabric.linkup.getLsbD link || !ok || s.plat.stopped then s
    else noteReach (elog 6 0 (link / 2) 0 0 link link { s with fabric := { s.fabric with linkup := s.fabric.linkup ||| BitVec.ofNat 24 (2 ^ link) } }))

/-- A remote access that cannot reach its module: FABRIC, class D (R407). -/
def failRemote (a : Access) (s : State) : State :=
  let s1 := dropAcc a.ser s
  if a.dead then s1
  else if a.kind = .probe && a.vdst.isNone then bufferAnswer a cFABRIC 0 false s1
  else if a.vdst.isSome && a.kind != .atomic then keepAnswer a cFABRIC 0 false s1
  else if a.vdst.isSome then elementBad cFABRIC a s1
  else deferFault a cFABRIC s1

/-- MODULE_UNREACHABLE: a module that has been unreachable for 1 ms: waiting and later accesses fault FABRIC, copies to it stop (R407). -/
def execModuleUnreachable (m : Nat) (s : State) : Result :=
  .next (
    let since := tget 0 s.fabric.downSince m
    if since = 0 ∨ s.cyc + 1 < since + 3300000 then s
    else
      let s1 := if s.fabric.unreachable.contains m then s
        else elog 15 cFABRIC (linkFor s m 0 / 2) 0 0 m 0 { s with fabric := { s.fabric with unreachable := s.fabric.unreachable ++ [m] } }
      let accs := s1.net.filter (fun a => match a.tgt with | .rem k _ _ => k == m | .loc _ => false)
      let s2 := accs.foldl (fun s a => failRemote a s) s1
      let ops := s2.ops.filter (fun o => o.kind == .cpyr && o.accepted && (readDesc o.desc).route == 0 && (readDesc o.desc).mod == m)
      endInbounds m (ops.foldl (fun s o => updOp o.id (fun o => { o with acked := o.sentN }) (stopOp o.id cFABRIC s)) s2))

/-- ROUTE_WRITE: an entry of the routing table, in mailbox mode; index 5 is measured again (R312, R329, R332). A cleared entry fails the remote
agents of its module: their copies end, and the reclamation of each agent follows as its own step (R400, R401). -/
def execRouteWrite (m : Nat) (v : Word) (s0 : State) : Result :=
  .next (
    if s0.plat.service || m ≥ 1024 then s0
    else
      let gone := fld v.toNat 0 24 == 0
      let s := if gone then endInbounds m s0 else if s0.fabric.cleared.contains m then keepFailed m s0 else s0
      noteReach (remeasure { s with
                  mgmt := { s.mgmt with route := tset 0 s.mgmt.route m (wN (fld v.toNat 0 28)) },
                  fabric := { s.fabric with cleared := if gone then m :: s.fabric.cleared.filter (· != m) else s.fabric.cleared.filter (· != m) } }))

/-- REMOTE_PROMISE_MISSED: the bound of a remote access has passed: PROMISE_MISSED, class A, once; the access goes on (R405). -/
def execRemotePromiseMissed (n : Nat) (s : State) : Result :=
  .next (match findAcc s n with
    | none => s
    | some a =>
      match a.tgt with
      | .loc _ => s
      | .rem _ _ _ =>
        if a.missed || a.dead || s.cyc ≤ a.due then s
        else
          let s1 := { s with net := s.net.map (fun b => if b.ser == n then { b with missed := true } else b) }
          bump (queueFault a.vlc { code := cPROMISE_MISSED, cls := 3, addr := a.va } s.nextId
            (elog 8 cPROMISE_MISSED (stackOf a.vlc) (vaultOf a.vlc % 16) (getVlc s a.vlc).agent a.va 0 s1)))

end Sys2Proof.Machine
end

