-- ==== Sys2Proof/Machine/Rollback.lean ====
section
/-! DEFINITION. Retirement after the recheck, strip rewind and trap entry (R348 to R351, R371 to R373, R379 to R381, R399). -/
namespace Sys2Proof.Machine

/-! ### Retirement (R371 to R373) -/

/-- A store of a retired word enters the strip store buffer of an open strip, or performs (R57, R372). -/
def retireStore (n : Nat) (b : Buf) (s : State) : State :=
  let v := getVlc s n
  if v.sopen && !v.sbfull && !b.dev then
    if bufBytes v.sbuf + b.size > 8192 then directStore n b (stripFlush n s)
    else updVlc n (fun v => { v with sbuf := putBuf b v.sbuf }) s
  else directStore n b s

/-- Whether the stores of a word overflow the buffer of its open strip, so that the buffer performs first (R57). -/
def overflows (s : State) (r : REntry) : Bool :=
  let v := getVlc s r.e.vlc
  v.sopen && !v.sbfull && decide (bufBytes v.sbuf + bufBytes r.stores > 8192)

/-- PAs that the stores of a word write as it retires: those that perform directly, and with an overflow those of the buffer too (R57). -/
def retirePas (s : State) (r : REntry) : List Nat :=
  let v := getVlc s r.e.vlc
  (if overflows s r then flushPas s r.e.vlc else []) ++
    (r.stores.filter (fun b => !v.sopen || v.sbfull || b.dev || overflows s r)).flatMap (fun b => b.tgt.here)

/-- Whether the stores of a word may leave now: their banks serve them, and a full buffer can perform (R57, R263, R268). -/
def mayRetire (s : State) (r : REntry) : Bool :=
  (!overflows s r || flushOpen s r.e.vlc) && bankTurn s (.retire r.e.vlc r.e.id) (getVlc s r.e.vlc).agent (retirePas s r)

/-- A word that would retire waits for the banks of its stores (R263). -/
def awaitRetire (r : REntry) (s : State) : State :=
  if mayRetire s r || (overflows s r && !flushOpen s r.e.vlc) then s
  else awaitTurn (.retire r.e.vlc r.e.id) (getVlc s r.e.vlc).agent (retirePas s r) [] s

/-- A gather-atomic sends its element atomics, in ascending order; without any it completes at once (R106, R372). -/
def sendGather (r : REntry) (s : State) : State :=
  let n := r.e.vlc
  let s1 := r.atoms.foldl (fun s a => sendNet a s) s
  let s2 := if r.atoms.isEmpty then s1 else noteIrrev n s1
  let g : Gather := {
    e := { r.e with start := match r.fault with | some f => f.estart | none => r.e.vl, smm := r.smm.getD 0 }, left := r.atoms.length, smm := r.smm,
    fault := r.fault.map (wordRec r.e), cut := r.fault.isSome }
  if r.atoms.isEmpty then gatherEnd n g s2 else updVlc n (fun v => { v with gath := v.gath ++ [g] }) s2

/-- The oldest word of a recheck queue retires (R201, R372). A word that faults part-way is held: its flags enter FFLAGS when the rest of it retires (R373). -/
def retireWord (r : REntry) (s : State) : State :=
  let n := r.e.vlc
  let s1 := addFlags n (if r.fault.isSome then 0 else r.flags) (updVault (vaultOf n) (fun v => { v with rq := v.rq.tail }) s)
  let s2 := r.stores.foldl (fun s b => retireStore n b s) s1
  if r.smm.isSome then sendGather r s2
  else match r.fault with
    | some f => holdWords n [{ r.e with start := f.estart, flags := r.flags }] r.e.id (wordRec r.e f) s2
    | none => s2

/-- Registers of the destination of a word. -/
def REntry.dstRegs (r : REntry) : List Nat :=
  let h := shapeOf r.e.instr
  match h.dst with | some d => upto ((if d.2 = 0 then 1 else d.2 * grpN r.e.grp) * h.fields) |>.map (d.1 + ·) | none => []

/-- Bits of `old` at elements of width `w` replaced by those of `free`. -/
def freeEls (w : Nat) (els : List Nat) (old free : Nat) : Nat := els.foldl (fun a i => putFld a (w * i) w (fld free (w * i) w)) old

/-- What an outvoted word, or a word that used its result, has written stands as the first run left it, which is not known: the elements of its destination
hold free values, and so does an x register that it has filled (R373; log 16). -/
def spoilWord (r : REntry) (s : State) : State :=
  let h := shapeOf r.e.instr
  let vlen := vlenOf s r.e.vlc
  let sew := sewBits r.e.sew
  let free (k n : Nat) : Nat := (upto n).foldr (fun i a => (Config.freeReg (s.fresh + k + i)).toNat % 2 ^ vlen + 2 ^ vlen * a) 0
  updVlc r.e.vlc (fun v =>
    let v1 := match h.dst with
      | some d =>
        let n := if d.2 = 0 then 1 else d.2 * grpN r.e.grp
        let w := if d.2 = 2 then 2 * sew else sew
        (upto h.fields).foldl (fun v f => setGroupN vlen (d.1 + f * n) n (freeEls w r.els (groupN v vlen (d.1 + f * n) n) (free (f * n) n)) v) v
      | none => v
    let v2 := match h.kd with
      | some k => { v1 with k := tset 0 v1.k k (BitVec.ofNat 3072 (freeEls 1 r.els (tget 0 v1.k k).toNat (free 32 1))) }
      | none => v1
    match h.xd with
    | some d => if v2.isPend d then v2 else v2.wx d (Config.freeWord s.fresh)
    | none => v2) { s with fresh := s.fresh + 64 }

/-- The outvoted word `r` and the younger words `l` that may have used its result, directly or through another: those that name a register so written, and
any word once a mask register was (DEDUCED, log 16). -/
def spoilAll (r : REntry) (l : List REntry) (s : State) : State :=
  let uses (t : List Nat × Bool) (x : REntry) : Bool :=
    let g := grpN x.e.grp
    t.2 || x.dstRegs.any t.1.contains || (shapeOf x.e.instr).srcs.any (fun p => let q := operandRegs g p; t.1.any (fun k => q.1 ≤ k && k < q.1 + q.2))
  let add (t : List Nat × Bool) (x : REntry) : List Nat × Bool := (t.1 ++ x.dstRegs, t.2 || (shapeOf x.e.instr).kd.isSome)
  (l.foldl (fun (a : (List Nat × Bool) × State) x => if uses a.1 x then (add a.1 x, spoilWord x a.2) else a) (add ([], false) r, spoilWord r s)).2

/-- The slice has kept what the word replaced until its recheck (R371). -/
def undoSlice (r : REntry) (s : State) : State :=
  if (shapeOf r.e.instr).matrix then updSlice r.e.vlc (fun l => if l.holder = some r.e.vlc then { loadAccs r.undoC l with b := r.undoB } else l) s else s

/-- What words changed in a table of registers goes back: each bit a word changed is changed again (R373). -/
def unchange (l : List (Tbl VReg × Tbl VReg)) (t : Tbl VReg) : Tbl VReg :=
  l.foldl (fun t p => (upto 32).foldl (fun t k => tset 0 t k (tget 0 t k ^^^ tget 0 p.1 k ^^^ tget 0 p.2 k)) t) t

/-- A word that is held after it executed: its read-queue result is dropped, and its x register is empty until the word runs again (R220, R373; log 52). -/
def unfill (r : REntry) (s : State) : State :=
  match (shapeOf r.e.instr).xd with
  | some d =>
    updVlc r.e.vlc (fun v => v.drainX d) { s with fills := s.fills.filter (fun f => !(f.vlc == r.e.vlc && f.rq && f.reg == d)) }
  | none => s

/-- The word of an outvoted result and every younger word are held; their effects on the vector registers, VL and the slice are undone, while the results
of older gather-atomics that have come since stay (R348, R373). -/
def unretire (r : REntry) (f : FRec) (s : State) : State :=
  let n := r.e.vlc
  let all := r :: (rqOf s n).filter (fun x => x.e.id > r.e.id)
  let s1 := updVault (vaultOf n) (fun v => { v with rq := v.rq.filter (fun x => !(x.e.vlc == n && x.e.id ≥ r.e.id)) }) s
  let s2 := match all.find? (fun x => (shapeOf x.e.instr).matrix) with | some x => undoSlice x s1 | none => s1
  let s3 := updVlc n (fun v => { v with
    v := unchange (all.map (fun x => (x.undoV, x.newV))) v.v, k := unchange (all.map (fun x => (x.undoK, x.newK))) v.k,
    vempty := v.vempty.filter (fun p => tget false r.undoE p.1), vl := r.undoVl }) s2
  let s4 := all.foldl (fun s x => unfill x s) s3
  let grow (e : VEntry) : VEntry := if r.newVl ≠ r.undoVl && e.vl == r.newVl then { e with vl := r.undoVl } else e
  let s5 := updCore (coreOf n) (fun c => { c with viq := c.viq.map (fun e => if e.vlc == n then grow e else e) }) s4
  holdWords n (r.e :: all.tail.map (fun x => grow x.e)) r.e.id { wordRec r.e f with estart := r.e.start } s5

/-- Whether the oldest word of a core could execute but for the recheck queue: it waits for no memory, and for no element of its registers (R371; log 50). -/
def wordReady (s : State) (core : Nat) : Bool :=
  match (getCore s core).viq.head? with
  | none => false
  | some e =>
    let v := getVlc s e.vlc
    let h := shapeOf e.instr
    let awaits (p : Nat × Nat) : Bool := (upto e.vl).any (elemEmpty v (vlenOf s e.vlc) p.1 (sewBits e.sew * max 1 p.2))
    wordsRun s e && !h.matrix && !s.waits.any (fun w => w.who == .word e.vlc e.id) && !s.net.any (fun a => a.vlc == e.vlc && a.id == e.id) &&
      (v.vempty.isEmpty || !(h.srcs ++ h.dst.toList).any awaits)

/-- What the re-execution of an entry adds to the occupancy of its unit: its cycles in a slot that a word of either core could have used, taken because the queue is
full, and those of a third run (R235, R302, R371, R373; log 50). -/
def recheckCost (vault outcome : Nat) (r : REntry) (s : State) : Nat :=
  let k := if (shapeOf r.e.instr).matrix then 0 else wordCycles s r.e (r.e.vl - r.e.start)
  if (upto 2).any (fun c => wordReady s (2 * vault + c)) then
    (if (getVault s vault).rq.length ≥ 16 then k else 0) + (if outcome = 0 then 0 else k)
  else 0

/-- Charges cost units to a VLC (R302). -/
def charge (n k : Nat) (s : State) : State := if k = 0 then s else updVlc n (fun v => { v with cost := v.cost + k }) s

/-- RECHECK: the oldest entry of a vault's queue is re-executed and settled: outcome 0 the runs agree, 1 the third run agrees with the first, 2 with the
second, 3 with neither (R371, R373, R380). An entry waits while its strip is being rewound, or its stores may not leave yet. -/
def execRecheck (vault : Nat) (outcome : Nat) (s : State) : Result :=
  .next (match (getVault s vault).rq with
    | [] => s
    | r :: _ =>
      let n := r.e.vlc
      let v := getVlc s n
      let t := charge n (recheckCost vault outcome r s) s
      if v.rewind then s
      else if outcome ≤ 1 then
        if !mayRetire s r then awaitRetire r s
        else retireWord r (if outcome = 1 then countCe (stackOf n) 1 0 16 t else t)
      else if outcome = 2 && v.rewindable then
        updVlc n (fun v => { v with rewind := true }) (undoSlice r (spoilAll r ((rqOf s n).filter (fun x => x.e.id > r.e.id)) t))
      else if outcome = 2 then unretire r { code := cUE_CONSUMED } t
      else unretire r { code := cRECHECK } t)

/-! ### Strip rewind (R381) -/

/-- The x registers that discarded words were to fill: 0 and full. -/
def dropFills (ws : List VEntry) (v : Vlc) : Vlc :=
  ws.foldl (fun v e => match (shapeOf e.instr).xd with
    | some d => if v.isPend d then { v.wx d 0 with pend := mark v.pend d false } else v
    | none => v) v

/-- The read-queue results of words that have retired reach their registers (R63). -/
def landFills (fs : List Fill) (v : Vlc) : Vlc := fs.foldl (fun v f => if v.isPend f.reg then v.fillX f.reg (wN f.val) else v) v

/-- The checkpointed registers return (R56, R381). -/
def restoreCkp (v : Vlc) : Vlc :=
  (upto 32).foldl (fun v i => if has v.ckmask i && i != 0 then { v.wx i (tget 0 v.ckp i) with pend := mark v.pend i false } else v) v

/-- The elements for which a discarded gather-atomic was still to send its atomics are full again, and stand as they were (R204, R381). -/
def dropMarks (vlen : Nat) (rs : List REntry) (v : Vlc) : Vlc :=
  rs.foldl (fun v r => r.atoms.foldl (fun v a => match a.vdst with | some (k, i) => markElem vlen k (8 * a.size) i false v | none => v) v) v

/-- STRIP_REWIND: once every scalar load of a strip whose error was consumed has filled its register, the strip is back at the `vsetl` that
opened it (R358, R381). -/
def execStripRewind (vlc : Nat) (s : State) : Result :=
  .next (
    let v := getVlc s vlc
    if !v.rewind || loadsOut s vlc then s
    else
      let gone := viqOf s vlc ++ v.held ++ (rqOf s vlc).map (fun r => r.e)
      let kept := s.fills.filter (fun f => f.vlc == vlc && f.rq && !gone.any (fun e => (shapeOf e.instr).xd == some f.reg))
      let s1 := updCore (coreOf vlc) (fun c => { c with viq := c.viq.filter (fun e => e.vlc != vlc) }) s
      let s2 := updVault (vaultOf vlc) (fun x => {
        x with
        rq := x.rq.filter (fun r => r.e.vlc != vlc), slice := { x.slice with queue := x.slice.queue.filter (· != vlc) } }) s1
      let s3 := {
        s2 with
        fills := s2.fills.filter (fun f => !(f.vlc == vlc && f.rq)),
        net := s2.net.map (fun a => if a.vlc == vlc && (a.kind == .probe || (a.kind == .load && a.vdst.isSome)) then { a with dead := true } else a) }
      dropPreloads (vaultOf vlc) (updVlc vlc (fun v =>
        let v1 := dropMarks (vlenOf s vlc) (rqOf s vlc) (restoreCkp (dropFills gone (landFills kept v)))
        {
          v1 with
          held := [], vfaults := [], flip := none, early := [], sfault := none, refetch := none, feed := none, feedStop := false, sbuf := [], estart := 0,
          sc := v1.prc, scPend := none, sb := v1.cksb,
          vl := 0, vlGrant := 0, sopen := false, irrev := false, rwd := true, rewind := false, wait := .none, pc := v1.spc }) s3))

/-! ### Trap entry (R349, R351, R399) -/

/-- The oldest of the faults charged to instructions that wait: of class D and class V (R351). -/
def oldest (l : List PFault) : Option PFault :=
  l.foldl (fun b p => match b with | none => some p | some q => if p.ord < q.ord then some p else some q) none

/-- The waiting fault of VLC `n` that is taken next: among those charged to an instruction the oldest, then class A in arrival order. -/
def nextFault (v : Vlc) : Option (FRec × Option Nat × Nat) :=
  match oldest (v.faults.filter (fun p => p.fr.cls == 2) ++ v.vfaults), v.sfault with
  | some p, _ => some (p.fr, none, p.ord)
  | none, some (f, epc) => some (f, some epc, 0)
  | none, none => match v.faults with
    | p :: _ => some (p.fr, none, p.ord)
    | [] => none

/-- Whether an instruction that waits counts as not issued when its context is pre-empted (R64). -/
def waitIdle (s : State) (v : Vlc) : Bool :=
  match v.wait with
  | .none => true
  | .lanes => true
  | .event _ => true
  | .sleep _ => true
  | .engine id => (match s.ops.find? (fun o => o.id == id) with | some o => !o.accepted && !o.credited && !o.asked | none => false)
  | .barrier a => (match findAcc s a with | some x => x.kind == .barWait | none => false)
  | _ => false

/-- Whether VLC `n` stands at an instruction boundary for a fault of class `cls`: it waits for nothing, or in a wait that a class A fault that has reached it
ends, or, once it drains, that counts as not issued; every vector word has finished or is held; and no block feeds, unless the feed cannot go on before the
trap (R64, R158, R348, R351, R399; log 53). -/
def atBoundary (s : State) (n cls : Nat) : Bool :=
  let v := getVlc s n
  let ended : Bool := v.faults.any (fun p => p.fr.cls == 3) || v.status == .draining
  (v.status == .running || (v.status == .draining && !v.vfaults.isEmpty && (cls == 1 || cls == 2))) && !v.rewind && !vecBusy s n &&
    (v.feed.isNone || v.feedStop || v.status == .draining) &&
    (match v.wait with
      | .none => true
      | .event _ => ended
      | .sleep _ => ended
      | .barrier a => ended && (match findAcc s a with | some x => x.kind == .barWait | none => false)
      | _ => v.status == .draining && waitIdle s v)

/-- A fault charged to an instruction of a running handler (R351). -/
def handlerFault (v : Vlc) : Option FRec := (v.faults.find? (fun p => p.fr.cls == 2 && p.ord ≥ v.hndAt)).map (fun p => p.fr)

/-- A fault that is taken no longer waits, and another may reach the VLC (R349). -/
def takeFault (f : FRec) (ord : Nat) (v : Vlc) : Vlc :=
  if f.cls = 1 then { v with vfaults := v.vfaults.filter (fun p => p.ord != ord) }
  else if f.cls ≥ 2 then reachFaults { v with faults := v.faults.filter (fun p => !(p.ord == ord && p.fr.cls == f.cls)) }
  else v

/-- An instruction that waits for lanes or an engine as its context drains has not issued: it leaves the queue it waits in (R64). -/
def leaveWait (n : Nat) (s : State) : State :=
  match (getVlc s n).wait with
  | .lanes => updCore (coreOf n) (fun c => { c with queue := c.queue.filter (· != n) }) s
  | .engine id => dropOps (fun o => o.id == id) s
  | _ => s

/-- TRAP_ENTRY: the next waiting fault of a VLC is taken, or its context ends (R351, R352). -/
def execTrapEntry (vlc : Nat) (s : State) : Result :=
  .next (
    let v := getVlc s vlc
    if v.hnd then
      match handlerFault v with
      | some f => if v.status == .running then endCtx vlc { f with code := cDOUBLE_FAULT } s else s
      | none => s
    else match nextFault v with
      | none => s
      | some (f, epc, ord) =>
        if !atBoundary s vlc f.cls then s
        else
          let s1 := leaveWait vlc { s with net := s.net.filter (fun a => !(a.vlc == vlc && a.kind == .barWait)) }
          landFault vlc f (epc.getD v.pc.toNat) (updVlc vlc (takeFault f ord) s1))

end Sys2Proof.Machine
end

