-- ==== Sys2Proof/Machine/Sched.lean ====
section
/-! DEFINITION. Launches and the scheduler: records, ranges, ticks, command links, placement, preload, pre-emption, restore and completion (R40 to R49, R52,
R54, R60, R64 to R67, R300 to R309, R324, R352 to R355, R386, R415). -/
namespace Sys2Proof.Machine

/-! ### Command links (R300) -/

def getLink (t : Tbl Link) (q : Nat) : Link := tget {} t q

/-- A message is sent with a permit, or waits for one. -/
def sendDown (q : Nat) (m : Msg) (s : State) : State :=
  if (getLink s.sched.down q).permits > 0 ∧ tget [] s.sched.waitDown q = [] then
    { s with sched := { s.sched with down := tupd {} s.sched.down q (fun l => { l with queue := l.queue ++ [m], permits := l.permits - 1 }) } }
  else { s with sched := { s.sched with waitDown := tupd [] s.sched.waitDown q (· ++ [m]) } }

def sendUp (q : Nat) (m : Msg) (s : State) : State :=
  if (getLink s.sched.up q).permits > 0 ∧ tget [] s.sched.waitUp q = [] then
    { s with sched := { s.sched with up := tupd {} s.sched.up q (fun l => { l with queue := l.queue ++ [m], permits := l.permits - 1 }) } }
  else { s with sched := { s.sched with waitUp := tupd [] s.sched.waitUp q (· ++ [m]) } }

/-- The receiver has acted on the first message: an acknowledgement is on its way. -/
def popDown (q : Nat) (s : State) : State :=
  { s with sched := { s.sched with down := tupd {} s.sched.down q (fun l => { l with queue := l.queue.tail, acks := l.acks + 1 }) } }

def popUp (q : Nat) (s : State) : State :=
  { s with sched := { s.sched with up := tupd {} s.sched.up q (fun l => { l with queue := l.queue.tail, acks := l.acks + 1 }) } }

/-- CMD_ACK: an acknowledgement returns a permit, and a message that waits for one is sent. -/
def execCmdAck (quad : Nat) (up : Bool) (s : State) : Result :=
  .next (
    let ack (l : Link) : Link := { l with acks := l.acks - 1, permits := l.permits + 1 }
    if up then
      (if (getLink s.sched.up quad).acks = 0 then s
       else
         let s1 := { s with sched := { s.sched with up := tupd {} s.sched.up quad ack } }
         match tget [] s.sched.waitUp quad with
         | [] => s1
         | m :: t => sendUp quad m { s1 with sched := { s1.sched with waitUp := tset [] s1.sched.waitUp quad [] } } |> fun s2 =>
             { s2 with sched := { s2.sched with waitUp := tset [] s2.sched.waitUp quad t } })
    else
      (if (getLink s.sched.down quad).acks = 0 then s
       else
         let s1 := { s with sched := { s.sched with down := tupd {} s.sched.down quad ack } }
         match tget [] s.sched.waitDown quad with
         | [] => s1
         | m :: t => sendDown quad m { s1 with sched := { s1.sched with waitDown := tset [] s1.sched.waitDown quad [] } } |> fun s2 =>
             { s2 with sched := { s2.sched with waitDown := tset [] s2.sched.waitDown quad t } }))

/-- Quad of a VLC. -/
def quadOfVlc (n : Nat) : Nat := quadOf (vaultOf n)

/-! ### Launch records (R40 to R42) -/

def recOcdef (r : List Nat) : Nat := fld (dw r 0) 8 4
def recLpr (r : List Nat) : Nat := fld (dw r 0) 12 3
def recSteal (r : List Nat) : Bool := bitN (dw r 0) 15
def recGrain (r : List Nat) : Nat := 2 ^ fld (dw r 0) 16 5
def recChunk (r : List Nat) : Nat := fld (dw r 0) 32 16 * recGrain r
def recSavep (r : List Nat) : Nat := dw r 1
def recMsavep (r : List Nat) : Nat := dw r 2
def recDonew (r : List Nat) : Nat := dw r 3
def recModlist (r : List Nat) : Nat := dw r 4

/-- Whether a level is given, and its selection (R41). -/
def lvGiven (r : List Nat) (d : Nat) : Bool := bitN (dw r 0) d
def lvCount (r : List Nat) : Nat := fld (dw r 8) 16 16
def lvSel (r : List Nat) (d n : Nat) : Nat := if lvGiven r d then fld (dw r (8 + d)) 0 n else 2 ^ n - 1

/-- Whether a record breaks a rule of R40 or R41. -/
def recordBad (r : List Nat) : Bool :=
  let used (d n : Nat) : Bool := fld (dw r (8 + d)) n (64 - n) != 0 || (lvGiven r d && fld (dw r (8 + d)) 0 n == 0)
  fld (dw r 0) 21 11 != 0 || fld (dw r 0) 48 16 != 0 || lvGiven r 1 || lvGiven r 7 || dw r 9 != 0 || dw r 15 != 0 || dw r 5 != 0 || dw r 6 != 0 ||
    dw r 7 != 0 || fld (dw r 0) 16 5 > 20 || fld (dw r 0) 32 16 == 0 || recLpr r ≥ 5 || recSavep r % 32768 != 0 || recMsavep r % 4096 != 0 ||
    recDonew r % 8 != 0 || fld (dw r 8) 0 16 != 0 || fld (dw r 8) 32 32 != 0 || (lvGiven r 0 && (lvCount r == 0 || lvCount r > 1024)) ||
    used 2 12 || used 3 4 || used 4 4 || used 5 2 || used 6 4

/-- Vaults of quad `q` of a stack, in ascending number. -/
def quadVaults (q : Nat) : List Nat := (upto 16).filter (fun v => quadInStack v == q)

/-- The context slots of a record, as VLC numbers (R42). -/
def recSlots (r : List Nat) : List Nat :=
  let pick (d n : Nat) : List Nat := (upto n).filter (fun i => bitN (lvSel r d n) i)
  (pick 2 12).flatMap (fun k => (pick 3 4).flatMap (fun q => (pick 4 4).flatMap (fun i => (pick 5 2).flatMap (fun c => (pick 6 4).map (fun v =>
    (16 * k + (quadVaults q).getD i 0) * 8 + c * 4 + v)))))

/-- Reads `n` identifiers of 16 bits for a launch (R41, R49). -/
def rootIds (l : Launch) (va : Nat) : Nat → State → Option (List Nat) × State
  | 0, s => (some [], s)
  | n + 1, s =>
    match rootCheck s l va 2 .read with
    | .error _ => (none, s)
    | .ok pa =>
      match readMem pa 2 (rootAgent l.vi l.seq) (notePinVa { vi := l.vi, vault := none } va s) with
      | (none, s1) => (none, s1)
      | (some v, s1) =>
        match rootIds l (va + 2) n s1 with
        | (none, s2) => (none, s2)
        | (some t, s2) => (some (v :: t), s2)

/-! ### Ranges (R44 to R47) -/

/-- b(i) of R45 for a range [lo, hi) among `n` parts. -/
def shareAt (lo hi grain n i : Nat) : Nat := if i < n then lo + grain * (i * cdiv (hi - lo) grain / n) else hi

/-- This module's range: all of [0, N), or its share among the modules of the list (R44). A module that is not in the list has none
(DESIGN CHOICE, log 64). -/
def moduleRange (s : State) (l : Launch) (mods : List Nat) : Nat × Nat :=
  let n := pktN l.pkt
  if mods.isEmpty then (0, n)
  else match mods.idxOf? s.mgmt.modid with
    | some i => (shareAt 0 n (recGrain l.recd) mods.length i, shareAt 0 n (recGrain l.recd) mods.length (i + 1))
    | none => (0, 0)

/-- The undealt range of each selected stack at the start. -/
def stackRanges (l : Launch) (lo hi : Nat) : Tbl (Nat × Nat) :=
  let ks := (upto 12).filter (fun k => bitN (lvSel l.recd 2 12) k)
  (ks.mapIdx (fun i k => (k, (shareAt lo hi (recGrain l.recd) ks.length i, shareAt lo hi (recGrain l.recd) ks.length (i + 1))))).foldl
    (fun t p => if p.2.1 < p.2.2 then tset (0, 0) t p.1 p.2 else t) []

def getLaunch (s : State) (vi seq : Nat) : Option Launch := s.launches.find? (fun l => l.vi == vi && l.seq == seq)

/-- Whether a test has fallen due by the last tick (R385). -/
def scanIsDue (s : State) : Bool :=
  s.plat.service && !s.plat.stopped && s.mgmt.scanEn && s.mgmt.scan.isNone && decide (s.mgmt.scanDue ≤ s.sched.lastTick * 33000) && !closed s

/-- Whether a VLC's quad is retired for compute, under test, or the one whose test is due: from the first tick after the due time on it gets no candidate (R385,
R413). -/
def quadOut (s : State) (q : Nat) : Bool := s.mgmt.retq.getLsbD q || s.mgmt.scan == some q || (scanIsDue s && q == s.mgmt.nextq)

/-- Whether the messages to a leaf controller wait: its quad is under test (R385). -/
def heldLink (s : State) (q : Nat) : Bool := s.mgmt.scan == some q

/-- CYC at which the next scan test falls due: a whole number of intervals after the last (R385). -/
def nextScan (s : State) : Nat :=
  let t := s.mgmt.scanInt * 3300000000
  s.mgmt.scanDue + t * ((s.cyc - s.mgmt.scanDue) / t + 1)

/-- A launch with level D0 goes to the other modules of its list, in the VI of the same number (R317). -/
def sendPeers (l : Launch) (s : State) : State :=
  if l.origin.isSome then s
  else { s with out := { s.out with
           launches := s.out.launches ++ (l.mods.filter (· != s.mgmt.modid)).map (fun m => (m, l.vi, l.seq, l.pkt)) } }

/-- SEQ by which this module knows a launch submitted on module `m`: apart from those of its own submissions. -/
def peerSeq (m seq : Nat) : Nat := seq % 2 ^ 48 + 2 ^ 48 * (m + 1)

/-- A launch with level D0 arrives from the module it was submitted on: this module runs its own share through its own tables; the start bound is the
other module's (R317). None is accepted during a checkpoint (R409). -/
def peerLaunch (m vi seq : Nat) (pkt : List Nat) (s : State) : State :=
  if vi ≥ 256 || !s.plat.service || closed s || s.launches.any (fun l => l.vi == vi && l.seq == peerSeq m seq) then s
  else { s with launches := s.launches ++ [{
           vi := vi, seq := peerSeq m seq, pkt := pkt, rel := true, bound := 2 ^ 64, ready := some s.cyc, origin := some m }] }

/-- Module `m` of the list of a launch reports that its share is done (R317). -/
def peerDone (m vi seq : Nat) (s : State) : State :=
  updLaunch vi seq (fun l => if l.origin.isNone && l.mods.contains m && !l.modsDone.contains m then { l with modsDone := l.modsDone ++ [m] } else l) s

/-- The accesses that reading a record takes: its two 64-byte parts, and those of the module list that it names. -/
def recordAccs (s : State) (l : Launch) : List Passed :=
  let r := ((rootRead l (pktRecord l.pkt) 16 s).1).getD []
  rootPassed s l 8 .read [pktRecord l.pkt, pktRecord l.pkt + 64] ++
    (if !r.isEmpty && !recordBad r && lvGiven r 0 then rootPassed s l 2 .read ((upto (lvCount r)).map (fun i => recModlist r + 2 * i)) else [])

/-- The record is read once, when the launch may start: a failure ends the launch with LAUNCH_INVALID (R40, R49). N = 0 starts no context (R48). -/
def readRecord (l : Launch) (s : State) : State :=
  let bad (s : State) : State := headWaits l.vi 64 (killLaunch l.vi l.seq invalidRec s)
  let kept (r : List Nat) (s : State) : State := updLaunch l.vi l.seq (fun l => { l with recd := r }) s
  match rootRead l (pktRecord l.pkt) 16 s with
  | (none, s1) => bad s1
  | (some r, s1) =>
    if recordBad r then bad (kept r s1)
    else
      let mods := if lvGiven r 0 then rootIds l (recModlist r) (lvCount r) s1 else (some [], s1)
      match mods with
      | (none, s2) => bad (kept r s2)
      | (some ids, s2) =>
        let l1 := { l with recd := r, slots := recSlots r, mods := ids }
        let rng := moduleRange s2 l1 ids
        let st := l1.slots.mapIdx (fun j n => (j, n)) |>.foldl (fun t p => if s2.mgmt.retq.getLsbD (quadOfVlc p.2) then tset .unplaced t p.1 SlotState.done else t) []
        if ids.any (fun i => i ≥ 1024) || l1.slots.all (fun n => s2.mgmt.retq.getLsbD (quadOfVlc n)) then bad (kept r s2)
        else
          let s3 := sendPeers l1 s2
          if pktN l.pkt = 0 then noteReady (headWaits l.vi 64 (updLaunch l.vi l.seq (fun l => { l with recd := r, mods := ids, started := true }) s3))
          else updLaunch l.vi l.seq (fun l => {
            l with recd := r, mods := ids, slots := l1.slots, state := st, undealt := stackRanges l1 rng.1 rng.2 }) s3

/-- The record is read once the banks of its accesses serve them (R263). -/
def loadRecord (l : Launch) (s : State) : State := rootTurn (.root l.vi l.seq) l (recordAccs s l) (readRecord l) s

def slotState (l : Launch) (j : Nat) : SlotState := tget .unplaced l.state j
def setSlotState (vi seq j : Nat) (x : SlotState) (s : State) : State := updLaunch vi seq (fun l => { l with state := tset .unplaced l.state j x }) s

/-! ### Candidates and the choice of an occupant (R301, R303, R304) -/

/-- The candidates of VLC `n`. -/
def candsOf (s : State) (n : Nat) : List Cand :=
  s.launches.flatMap (fun l =>
    if l.recd.isEmpty || l.fault.isSome then []
    else (l.slots.mapIdx (fun j m => (j, m))).filterMap (fun p =>
      if p.2 ≠ n then none
      else if l.saved.any (fun x => x.slotNo == p.1) then some ⟨l.vi, l.seq, p.1⟩
      else match slotState l p.1 with
        | .unplaced => some ⟨l.vi, l.seq, p.1⟩
        | .waiting => some ⟨l.vi, l.seq, p.1⟩
        | _ => none))

/-- The occupant of VLC `n`. -/
def occupant (s : State) (n : Nat) : Option Cand :=
  let v := getVlc s n
  if v.status = .free ∨ v.resident = true then none else some ⟨v.vi, v.seq, v.slotNo⟩

def candPrio (s : State) (c : Cand) : Nat := match getLaunch s c.vi c.seq with | some l => pktPrio l.pkt | none => 0

/-- Whether candidate `a` of a VLC comes before `b` (R303 steps 3 to 5). A launch submitted on another module is younger than every own one of its VI (DESIGN
CHOICE, log 74). -/
def candBefore (s : State) (occ : Option Cand) (a b : Cand) : Bool :=
  let isVi (c : Cand) : Bool := match occ with | some o => o.vi == c.vi | none => false
  let da := (getVi s a.vi).deficit
  let db := (getVi s b.vi).deficit
  if candPrio s a ≠ candPrio s b then candPrio s a > candPrio s b
  else if a.vi ≠ b.vi then
    (if da ≠ db then decide (da > db) else if isVi a ≠ isVi b then isVi a else a.vi < b.vi)
  else if occ = some a then true
  else if occ = some b then false
  else if a.seq ≠ b.seq then a.seq < b.seq
  else a.slotNo < b.slotNo

/-- Inserts a candidate in rank order. -/
def rankIn (s : State) (occ : Option Cand) (c : Cand) : List Cand → List Cand
  | [] => [c]
  | d :: t => if candBefore s occ c d then c :: d :: t else d :: rankIn s occ c t

/-- The candidates of a VLC and its occupant, best first. -/
def ranked (s : State) (n : Nat) : List Cand :=
  let occ := occupant s n
  (candsOf s n ++ (match occ with | some o => (if (candsOf s n).contains o then [] else [o]) | none => [])).foldl (fun l c => rankIn s occ c l) []

/-- VLCs with a candidate, in ascending number. -/
def busyVlcs (s : State) : List Nat := (upto 1536).filter (fun n => !quadOut s (quadOfVlc n) && !(candsOf s n).isEmpty)

/-- Floor count of a VI (R304). -/
def floorCount (s : State) (vi : Nat) : Nat := (getVi s vi).floor * 1536 / 1000

/-- VLCs that a VI holds, counting grants already made: `g` maps a VLC to the VI granted it, plus 1. -/
def holdsVlcs (s : State) (g : Tbl Nat) (vi : Nat) : Nat :=
  (s.vlcs.filter (fun p => p.2.status != .free && !p.2.resident && p.2.vi == vi && (tget 0 g p.1 == 0 || tget 0 g p.1 == vi + 1))).length +
    (g.filter (fun p => p.2 == vi + 1 && (match occupant s p.1 with | some o => o.vi != vi | none => true))).length

/-- k of R304: the VLCs on which a VI has a candidate; an occupant counts as one of its own VLC (R303; log 56). -/
def floorK (s : State) (vi : Nat) : Nat :=
  ((upto 1536).filter (fun n => !quadOut s (quadOfVlc n) && ((candsOf s n).any (fun c => c.vi == vi) ||
    (match occupant s n with | some o => o.vi == vi | none => false)))).length

/-- The floor grants of one VI (R304), among the VLCs on which it has candidates. -/
def floorGrants (s : State) (vlcs : List Nat) (g : Tbl Nat) (vi : Nat) : Tbl Nat :=
  let mine := vlcs.filter (fun n => (candsOf s n).any (fun c => c.vi == vi))
  let goal := min (floorCount s vi) (floorK s vi)
  mine.foldl (fun g n =>
    let held := match occupant s n with
      | some o => o.vi == vi || holdsVlcs s g o.vi ≤ floorCount s o.vi
      | none => false
    if holdsVlcs s g vi < goal ∧ tget 0 g n = 0 ∧ held = false then tset 0 g n (vi + 1) else g) g

/-- A floor promise that this tick finds missed is logged: since the last tick a VI has had candidates on more VLCs than it holds, up to its floor (R308,
R405). -/
def noteFloors (s : State) : State :=
  let vs := (upto 256).filter (fun v => floorCount s v > 0)
  let ks := vs.map (fun v => (v, floorK s v))
  let late := ks.filter (fun p => holdsVlcs s [] p.1 < min (floorCount s p.1) (min p.2 (tget 0 s.sched.floorK p.1)))
  late.foldl (fun s p => elog 8 cPROMISE_MISSED s.sched.active 0 (hostAgent p.1) 0 0 s) { s with sched := { s.sched with floorK := ks.foldl (fun t p => tset 0 t p.1 p.2) [] } }

/-- The forced starts that are due: launch and its lowest slot (R307). -/
def forcedStarts (s : State) : List (Nat × Cand) :=
  s.launches.filterMap (fun l =>
    match l.ready with
    | none => none
    | some r =>
      let at_ := if l.rel then r + l.bound else l.bound
      if l.started || l.fault.isSome || l.recd.isEmpty || s.cyc + 297000 < at_ then none
      else match (l.slots.mapIdx (fun j n => (j, n))).find? (fun p => slotState l p.1 == .unplaced && !s.mgmt.retq.getLsbD (quadOfVlc p.2)) with
        | some (j, n) => some (n, ⟨l.vi, l.seq, j⟩)
        | none => none)

/-- The first context of a launch is dispatched: the launch has started, late or not (R38, R405), and the next of its VI is at the head. -/
def noteStart (c : Cand) (s : State) : State :=
  match getLaunch s c.vi c.seq with
  | none => s
  | some l =>
    if l.started then s
    else
      let at_ := if l.rel then l.ready.getD s.cyc + l.bound else l.bound
      let s1 := noteReady (headWaits c.vi 64 (updLaunch c.vi c.seq (fun l => { l with started := true }) s))
      if s.cyc > at_ then
        elog 8 cPROMISE_MISSED s.sched.active 0 (rootAgent c.vi c.seq) 0 0 (updVi c.vi (fun v => { v with pmiss := min (v.pmiss + 1) (2 ^ 32 - 1) }) s1)
      else s1

/-- Whether a preload of a launch on a vault is on its way to the leaf controller. -/
def preloadSent (s : State) (l : Launch) (vault : Nat) : Bool :=
  ((getLink s.sched.down (quadOf vault)).queue ++ tget [] s.sched.waitDown (quadOf vault)).any (fun m => match m with
    | .preload v c => v == vault && c.vi == l.vi && c.seq == l.seq
    | _ => false)

/-- Whether the tiles of a launch are still to be preloaded on a vault before its first context there (R309). -/
def needsPreload (s : State) (l : Launch) (vault : Nat) : Bool :=
  bitN (getVi s l.vi).preld.toNat 0 && !s.sched.preloads.any (fun p => p.vi == l.vi && p.seq == l.seq && p.vault == vault) &&
    !(l.slots.mapIdx (fun j n => (j, n))).any (fun p => vaultOf p.2 == vault && slotState l p.1 != .unplaced)

/-- Sends what brings candidate `c` to VLC `n`: a preload where it needs one, a pre-emption of the occupant, and the placement (R301, R309, R358). -/
def bring (n : Nat) (c : Cand) (s : State) : State :=
  let q := quadOfVlc n
  let busy := (getVlc s n).status != .free
  -- an occupant that overruns discards the preload of the task that was to follow it
  let s0 := if busy then (let t := dropPreloads (vaultOf n) s; { t with sched := { t.sched with ranks := s.sched.ranks } }) else s
  let s1 := match getLaunch s0 c.vi c.seq with
    | some l => if needsPreload s0 l (vaultOf n) && !preloadSent s0 l (vaultOf n) then sendDown q (.preload (vaultOf n) c) s0 else s0
    | none => s0
  let s2 := if (getVlc s n).status = .running ∨ (getVlc s n).status = .restoring then sendDown q (.preempt n) s1 else s1
  sendDown q (.place n c) (noteStart c s2)

/-- The choice of one VLC: a forced start, a floor grant, or the best candidate; the others are ranked (R301, R303). A grant goes to the VI's first candidate by
rank (DESIGN CHOICE, log 74). -/
def chooseVlc (forced : List (Nat × Cand)) (grants : Tbl Nat) (n : Nat) (s : State) : State :=
  let r := ranked s n
  let c := match forced.find? (fun p => p.1 == n) with
    | some p => some p.2
    | none => if tget 0 grants n = 0 then r.head? else r.find? (fun c => c.vi + 1 == tget 0 grants n)
  match c with
  | none => s
  | some c =>
    let s1 := { s with sched := { s.sched with ranks := tset [] s.sched.ranks n (r.filter (· != c)) } }
    if occupant s n = some c then
      -- the next candidate is preloaded while the occupant runs (R309)
      match (r.filter (· != c)).head? with
      | some d => (match getLaunch s1 d.vi d.seq with
          | some l => if needsPreload s1 l (vaultOf n) && !preloadSent s1 l (vaultOf n) then sendDown (quadOfVlc n) (.preload (vaultOf n) d) s1 else s1
          | none => s1)
      | none => s1
    else bring n c s1

/-! ### Ticks (R301 to R303) -/

/-- Leaf controllers report the units charged in the tick just ended (R300, R302). -/
def sendCosts (s : State) : State :=
  let own := s.vlcs.filter (fun p => p.2.cost > 0 && !p.2.resident)
  let t := own.foldl (fun t p => tupd 0 t (quadOfVlc p.1 * 256 + p.2.vi) (· + p.2.cost)) s.sched.leafCost
  let s1 := own.foldl (fun s p => updVlc p.1 (fun v => { v with cost := 0 }) s) { s with sched := { s.sched with leafCost := [] } }
  t.foldl (fun s p => sendUp (p.1 / 256) (.cost (p.1 % 256) p.2) s) s1

/-- COST: a report of a quad (R302). -/
def execCost (quad : Nat) (s : State) : Result :=
  .next (if s.sched.failed then s else match (getLink s.sched.up quad).queue with
    | .cost vi u :: _ => updVi vi (fun v => { v with cost := v.cost + u }) (popUp quad s)
    | _ => s)

/-- Whether a cost report is still on its way. -/
def costsOut (s : State) : Bool :=
  let isCost (m : Msg) : Bool := match m with | .cost _ _ => true | _ => false
  s.sched.up.any (fun p => p.2.queue.any isCost) || s.sched.waitUp.any (fun p => p.2.any isCost)

/-- The deficits at a tick (R303). -/
def newDeficit (s : State) (vi : Nat) (v : Vi) : Vi :=
  let d := v.deficit - (v.cost : Int)
  let q : Int := v.quant * 1024
  let has := s.launches.any (fun l => l.vi == vi && l.fault.isNone && !l.recd.isEmpty && (l.slots.any (fun n => (ranked s n).any (fun c => c.vi == vi))))
  { v with cost := 0, deficit := if has then min (d + q) (8 * q) else 0 }

/-- The leaf controller writes LPR of a vault: refused as `csrw` is (R54). A write that was refused stays to be made, whatever writes LPR meanwhile
(DESIGN CHOICE, log 65). -/
def writeLpr (l : Launch) (vault : Nat) (s : State) : State :=
  let p := recLpr l.recd
  if (getVault s vault).lpr = p then s
  else if lprRefused s vault p then
    updLaunch l.vi l.seq (fun l => { l with lprTodo := if l.lprTodo.contains vault then l.lprTodo else l.lprTodo ++ [vault] }) s
  else updLaunch l.vi l.seq (fun l => { l with lprTodo := l.lprTodo.filter (· != vault) }) (updVault vault (fun v => { v with lpr := p }) s)

/-- Whether a slot on a core without lanes waits for the record's LPR, whose write was refused (R54). -/
def lprWaits (vi seq vault core : Nat) (s : State) : Bool :=
  lanesOf (getVault s vault).lpr (core % 2) == 0 &&
    (match getLaunch s vi seq with | some l => l.lprTodo.contains vault && (getVault s vault).lpr != recLpr l.recd | none => false)

/-- Whether a tick is due: none while the scheduler has failed (R415). -/
def tickDue (s : State) : Bool := s.plat.service && !s.plat.stopped && !s.sched.failed && s.cyc / 33000 > s.sched.lastTick

/-- A forced start that names a VLC of the quad under test stops the test (R386). -/
def stopScan (s : State) (forced : List (Nat × Cand)) : State :=
  match s.mgmt.scan with
  | none => s
  | some q =>
    if forced.any (fun p => quadOfVlc p.1 == q) then
      { s with mgmt := { s.mgmt with
                         scan := none, scanDue := nextScan s,
                         scanlog := wN (q + 3 * 64 + s.cyc % 2 ^ 56 * 256) } }
    else s

/-- The records of the launches that may start are read, in the order of their acceptance: one that ends with LAUNCH_INVALID holds back none behind it (R39,
R40, R49). -/
def loadRecords (s : State) : State :=
  s.launches.foldl (fun s l => match getLaunch s l.vi l.seq with
    | some k => if k.recd.isEmpty && mayStart s k then loadRecord k s else s
    | none => s) s

/-- The standby takes a copy of the scheduler's state (R415). -/
def copySched (s : State) : State :=
  { s with sched := { s.sched with copy :=
    { ranks := s.sched.ranks, floorK := s.sched.floorK, lastTick := s.sched.lastTick, vis := s.vis.map (fun p => (p.1, (p.2.deficit, p.2.cost))) } } }

/-- SCHEDULER_TICK (R301 to R307, R415): once every quad has reported its costs. -/
def execSchedulerTick (s : State) : Result :=
  .next (
    if !tickDue s || costsOut s then s
    else copySched (
      let s1 := noteFloors (noteReady { s with sched := { s.sched with lastTick := s.cyc / 33000 } })
      let s2 := loadRecords s1
      let s3 := { s2 with vis := (upto 256).foldl (fun t v => tupd {} t v (newDeficit s2 v)) s2.vis }
      let s4 := s3.launches.foldl (fun s l => l.lprTodo.foldl (fun s v => writeLpr l v s) s) s3
      if closed s4 then s4
      else
        let forced := forcedStarts s4
        let s5 := stopScan s4 forced
        let vlcs := busyVlcs s5
        let grants := (upto 256).foldl (fun g v => if floorCount s5 v = 0 then g else floorGrants s5 vlcs g v) []
        vlcs.foldl (fun s n => chooseVlc forced grants n s) s5))

/-! ### The start of an instance (R49, R52) -/

/-- Argument `j` of a packet, extended (R35, R52). -/
def argWord (p : List Nat) (j : Nat) : Nat :=
  let a := fld (dw p (4 + j / 2)) (32 * (j % 2)) 32
  if j ≥ pktArgc p then 0 else if bitN (dw p 3) (56 + j) then tr 64 (sx 32 a) else a

/-- The sixteen dwords of the argument block. -/
def argBlock (l : Launch) : List Nat :=
  (upto 8).map (argWord l.pkt) ++ [pktN l.pkt, pktEntry l.pkt, pktRecord l.pkt, pktPrio l.pkt + l.vi * 256 + l.seq % 2 ^ 48 * 65536,
    l.slots.length, recChunk l.recd, recGrain l.recd, 0]

/-- The save area of slot `j`. -/
def saveArea (l : Launch) (j : Nat) : Nat := recSavep l.recd + j * 32768

/-- The access of the argument block of a slot. -/
def argAccs (s : State) (l : Launch) (j : Nat) : List Passed := rootPassed s l 8 .write [saveArea l j + 0x6800]

/-- The leaf controller writes the argument block and the instance begins. -/
def startInstance (n : Nat) (l : Launch) (j : Nat) (lo hi : Nat) (s : State) : State :=
  match rootWrite l (saveArea l j + 0x6800) (argBlock l) s with
  | none => killLaunch l.vi l.seq invalidRec s
  | some s1 =>
    startCtx n { vi := l.vi, seq := l.seq, slotNo := j, agent := ctxAgent n l.vi, savep := recSavep l.recd, msavep := recMsavep l.recd }
      (pktEntry l.pkt) lo (hi - lo) (saveArea l j + 0x6800) (recOcdef l.recd)
      (updLaunch l.vi l.seq (fun l => { l with state := tset .unplaced l.state j .running, ranges := tset (0, 0) l.ranges j (0, 0) }) s1)

/-! ### The save area (R65, R66, R238, R355, R383) -/

/-- The words of a register image: 8 bytes each. -/
def regItems (off n : Nat) (v : Nat) : List (Nat × Nat) := (upto n).map (fun i => (off + 8 * i, fld v (64 * i) 64))

/-- The save area of a context, as offsets and dwords (R65, R355, R383). The image of the store buffer has no layout: free values stand for it (log 18). The
entries of withdrawn commands have room for a block's address alone: those of `bkx` fill them, and the others are kept with the context (DESIGN CHOICE, log 76). -/
def saveItems (s : State) (v : Vlc) (locks : List Lock) (cmds : List Cmd) : List (Nat × Nat) :=
  let bx := cmds.filter (fun c => c.kind == .bkx)
  let vl := vlenOf s s.cur / 64
  [(0, v.pc.toNat)] ++ (upto 31).map (fun i => (8 * (i + 1), (v.rx (i + 1)).toNat)) ++
  [(0x100, v.empty.toNat), (0x108, v.sc.toNat), (0x110, v.sb.toNat), (0x118, v.prc.toNat), (0x120, v.ckm.toNat), (0x128, v.vl),
    (0x130, v.vcfg.toNat), (0x138, (vstat v).toNat), (0x140, v.ocdef.toNat), (0x148, v.rmode.toNat), (0x150, v.fflags.toNat), (0x158, v.smm.toNat),
    (0x160, v.estart.toNat), (0x168, (v.feed.getD (0, 0)).1), (0x170, (v.feed.getD (0, 0)).2),
    (0x178, (upto 8).foldl (fun a i => a + (tget {} v.marks i).count % 256 * 2 ^ (8 * i)) 0)] ++
  (upto 8).map (fun i => (0x180 + 8 * i, (tget {} v.marks i).prom)) ++ [(0x1C0, v.tvec.toNat)] ++
  (upto 4).map (fun i => (0x1C8 + 8 * i, (tget 0 v.bpa i).toNat)) ++ (upto 31).map (fun i => (0x208 + 8 * i, (tget 0 v.ckp (i + 1)).toNat)) ++
  (bx.mapIdx (fun i c => (0x300 + 16 * i, c.va % 2 ^ 56 + c.reg * 2 ^ 56 + 2 ^ 63))) ++
  locks.flatMap (fun l => [(0x380 + 16 * l.num, l.desc % 2 ^ 31 + b2n (!l.granted) * 2 ^ 62 + 2 ^ 63), (0x388 + 16 * l.num, l.until_ * 10 / 33)]) ++
  (if v.sbuf.isEmpty then [] else (upto 1280).map (fun i => (0x4000 + 8 * i, (Config.freeWord (s.fresh + i)).toNat))) ++
  (if v.lanes then (upto 7).flatMap (fun j => regItems (0x400 + 384 * j) 48 (tget 0 v.k (j + 1)).toNat) ++
      (upto 32).flatMap (fun j => regItems (0x1000 + 384 * j) vl (tget 0 v.v j).toNat) else []) ++
  [(0x6880, b2n v.hnd + 2 * b2n v.bskip + v.faults.length % 32 * 4 + v.held.length % 64 * 128)] ++
  (v.faults.mapIdx (fun i p => [(0x6900 + 32 * i, p.fr.word0.toNat), (0x6908 + 32 * i, p.fr.word1.toNat), (0x6910 + 32 * i, p.fr.word2.toNat),
    (0x6918 + 32 * i, p.fr.word3.toNat)])).flatten ++
  (upto 4).map (fun i => (0x6B00 + 8 * i, (tget 0 v.frec i).toNat)) ++
  [(0x6B20, v.epc.toNat), (0x6B40, b2n v.rwd + 2 * b2n v.irrev + 4 * b2n v.mheld + 8 * b2n v.mpend), (0x6B48, v.spc.toNat), (0x6B50, v.cksb.toNat)] ++
  (v.held.mapIdx (fun i e => [(0x6C00 + 32 * i, e.word), (0x6C08 + 32 * i, e.xa.toNat), (0x6C10 + 32 * i, e.xb.toNat),
    (0x6C18 + 32 * i, e.blk % 2 ^ 56 + e.slot * 2 ^ 56)])).flatten

/-- The matrix save area (R66, R238). -/
def matrixItems (j : Nat) (l : Slice) : List (Nat × Nat) :=
  [(0, l.prec.toNat), (8, l.mstat.toNat), (16, j % 2048 + 2048)] ++ [3, 4, 5, 6, 7].map (fun i => (8 * i, 0)) ++
  (upto 256).map (fun i => (0x800 + 8 * i, (tget 0 l.c (2 * i)).toNat + 2 ^ 32 * (tget 0 l.c (2 * i + 1)).toNat)) ++
  (upto 48).flatMap (fun i => regItems (0x1000 + 6144 * i) 768 (tget 0 l.b i).toNat)

/-- Ordinal of a vault among those that hold slots of a launch (R42). -/
def vaultOrdinal (l : Launch) (vault : Nat) : Nat := ((l.slots.map vaultOf).eraseDups).idxOf vault

/-- Reads ranges of dwords (offset, count) for a launch; none when an access fails (R49). -/
def readRanges (l : Launch) (base : Nat) : List (Nat × Nat) → State → Option (List (List Nat)) × State
  | [], s => (some [], s)
  | p :: t, s =>
    match rootRead l (base + p.1) p.2 s with
    | (none, s1) => (none, s1)
    | (some w, s1) =>
      match readRanges l base t s1 with
      | (none, s2) => (none, s2)
      | (some ws, s2) => (some (w :: ws), s2)

/-- The number that a list of dwords holds, least significant first. -/
def wideOf (ws : List Nat) : Nat := ws.foldr (fun w a => w % 2 ^ 64 + 2 ^ 64 * a) 0

/-- The table of `n` values from number `from_` on. -/
def tblFrom {α : Type} [DecidableEq α] (d : α) (from_ n : Nat) (f : Nat → α) : Tbl α := (upto n).foldl (fun t i => tset d t (from_ + i) (f i)) []

/-- The ranges of a save area that a restore reads: registers and CSRs, checkpoint copies, trap state, rollback state, waiting faults, held words, the image
of the store buffer, withdrawn commands, and k1 to k7 and v0 to v31 of a context with lanes. -/
def restoreRanges (v : Vlc) (vl : Nat) : List (Nat × Nat) :=
  [(0, 61), (0x208, 31), (0x6880, 1), (0x6B00, 5), (0x6B40, 3), (0x6900, 4 * v.faults.length), (0x6C00, 4 * v.held.length),
    (0x4000, if v.sbuf.isEmpty then 0 else 1280), (0x300, 16)] ++
  (if v.lanes then (upto 7).map (fun j => (0x400 + 384 * j, 48)) ++ (upto 32).map (fun j => (0x1000 + 384 * j, vl)) else [])

/-- A waiting fault as the save area holds it; the place of its instruction is kept with the context (R355; log 18). -/
def reloadFault (ws : List Nat) (i : Nat) (p : PFault) : PFault :=
  { p with fr := FRec.ofWords (ws.getD (4 * i) 0) (ws.getD (4 * i + 1) 0) (ws.getD (4 * i + 2) 0) (ws.getD (4 * i + 3) 0) }

/-- A held word as the save area holds it (R355); a word that is not the one saved is decoded when it resumes. -/
def reloadHeld (ws : List Nat) (i : Nat) (e : VEntry) : VEntry :=
  let w := ws.getD (4 * i) 0
  let b := ws.getD (4 * i + 3) 0
  { e with
    word := w, raw := e.raw || w != e.word, xa := wN (ws.getD (4 * i + 1) 0), xb := wN (ws.getD (4 * i + 2) 0), blk := fld b 0 56, slot := fld b 56 6 }

/-- The context with the state that its save area holds, RSV bits ignored (R6, R65, R67 steps 2 and 5, R355, R383). Marks run on while a context is saved,
and so stay as they stand (R64 step 5); so do faults that have reached it since. -/
def reload (x : Vlc) (ws : List (List Nat)) (v : Vlc) : Vlc :=
  let d (r i : Nat) : Word := wN ((ws.getD r []).getD i 0)
  let n (r i : Nat) : Nat := (d r i).toNat
  let v1 := {
             v with
             pc := d 0 0, x := tblFrom 0 1 31 (fun i => d 0 (i + 1)), empty := (d 0 32).truncate 32 &&& 0xFFFFFFFE,
             sc := d 0 33, sb := d 0 34, prc := d 0 35, ckm := (d 0 36).truncate 32 &&& 0xFFFFFFFE, vl := n 0 37 % 4096,
             vcfg := (d 0 38).truncate 4, sopen := bitN (n 0 39) 1, np := bitN (n 0 39) 2, sbfull := bitN (n 0 39) 3, devs := bitN (n 0 39) 4,
             ocdef := (d 0 40).truncate 4, rmode := (d 0 41).truncate 2, fflags := (d 0 42).truncate 6, smm := d 0 43, estart := d 0 44,
             feed := v.feed.map (fun _ => (n 0 45, n 0 46)), tvec := d 0 56, bpa := tblFrom 0 0 4 (fun i => d 0 (57 + i) &&& 0x3FFFFFFFFFFFFFFF),
             ckp := tblFrom 0 1 31 (fun i => d 1 i), hnd := bitN (n 2 0) 0, bskip := bitN (n 2 0) 1, bskipPc := if v.bskip then v.bskipPc else n 0 0,
             frec := tset 0 (tset 0 (tset 0 (tset 0 [] 0 (d 3 0 &&& frecMask0)) 1 (d 3 1)) 2 (d 3 2)) 3 (d 3 3 &&& frecMask3),
             epc := d 3 4, rwd := bitN (n 4 0) 0, irrev := bitN (n 4 0) 1, spc := d 4 1, cksb := d 4 2,
             faults := ((x.faults.take (fld (n 2 0) 2 5)).mapIdx (reloadFault (ws.getD 5 []))) ++ v.faults.drop x.faults.length,
             held := (x.held.take (fld (n 2 0) 7 6)).mapIdx (reloadHeld (ws.getD 6 [])), loaded := true }
  if v.lanes then
    { v1 with
      k := tblFrom 0 1 7 (fun j => BitVec.ofNat 3072 (wideOf (ws.getD (9 + j) []))),
      v := tblFrom 0 0 32 (fun j => BitVec.ofNat 3072 (wideOf (ws.getD (16 + j) []))) }
  else v1

/-- A lock as its two dwords in the save area give it: none where the entry holds none; its descriptor, whether it is granted, and its remaining lease, or the
length of a pending one, in ns (R65, R67). -/
def reloadLock (s : State) (ws : List (List Nat)) (i : Nat) (k : Lock) : Option Lock :=
  let d0 := (ws.getD i []).headD 0
  let d := fld d0 0 31
  let frame := if rrHandle d = rrHandle k.desc then k.frame else frameBase ((getHandle s k.stack (rrHandle d)).base * 4096)
  if !bitN d0 63 then none
  else some { k with
              desc := if d = k.desc % 2 ^ 31 then k.desc else d, frame := frame, row0 := rrRow0 d, count := rrCount d, granted := !bitN d0 62,
              until_ := (ws.getD i []).getD 1 0 % 2 ^ 32 * 33 / 10 }

/-- The withdrawn commands of a context as the save area gives them: entry i is that of its i-th `bkx`; an entry that holds none drops it (R65, R67; log 76). -/
def reloadCmds (s : State) (n : Nat) (ws : List Nat) (cs : List Cmd) : List Cmd :=
  (cs.foldl (fun (a : List Cmd × Nat) c =>
    if c.kind != .bkx then (a.1 ++ [c], a.2)
    else
      let w := ws.getD (2 * a.2) 0
      let va := fld w 0 56
      let pa := if va = c.va % 2 ^ 56 then c.pa else foundAt s (whoOf s n) va
      (if bitN w 63 then a.1 ++ [{ c with va := va, pa := pa, reg := fld w 56 5 }] else a.1, a.2 + 1)) ([], 0)).1

/-- The slice with the state that the matrix save area holds, RSV bits ignored; residues are computed again (R6, R66, R238, R374). -/
def reloadSlice (ws : List (List Nat)) (l : Slice) : Slice :=
  {
    loadAccs (tblFrom 0 0 512 (fun i => BitVec.ofNat 32 ((ws.getD 1 []).getD (i / 2) 0 / 2 ^ (32 * (i % 2))))) l with
    prec := wN ((ws.headD []).headD 0) &&& 0x0000000307FF07FF, mstat := wN ((ws.headD []).getD 1 0 % 256),
    b := tblFrom 0 0 48 (fun i => BitVec.ofNat 49152 (wideOf (ws.getD (2 + i) []))) }

/-! ### Placement (R54, R67, R301) -/

/-- Every 8-byte word of a save area is checked as the leaf controller's access (R49). -/
def areaOk (s : State) (l : Launch) (j : Nat) (k : Want) : Bool :=
  (upto 8).all (fun i => match rootCheck s l (saveArea l j + 4096 * i) 8 k with | .ok _ => true | .error _ => false)

/-- The accesses of the leaf controller to a save area and a matrix save area, by bank: the parts of 512 bytes. -/
def areaAccs (s : State) (l : Launch) (j : Nat) (k : Want) : List Passed := rootPassed s l 8 k ((upto 64).map (fun i => saveArea l j + 512 * i))
def sliceAccs (s : State) (l : Launch) (base : Nat) (k : Want) : List Passed := rootPassed s l 8 k ((upto 584).map (fun i => base + 512 * i))

/-- Where the slice of a vault is saved for a launch. -/
def sliceArea (l : Launch) (v : Vlc) (n : Nat) : Nat := v.msavep + vaultOrdinal l (vaultOf n) * 0x49000

/-- A saved context begins its restore on the VLC it left: its area must be readable by the launch, and step 1 takes its row locks (R49, R67). -/
def beginRestore (n : Nat) (l : Launch) (x : Saved) (s : State) : State :=
  if !areaOk s l x.slotNo .read then killLaunch l.vi l.seq invalidRec s
  else updVlc n (fun _ => { x.ctx with status := .restoring, grouped := false, loaded := false, recalled := false, cost := 0 }) s

/-- Step 2 of a restore: registers, CSRs, trap and rollback state and vector registers come from the save area; a read that fails ends the launch (R49,
R67). -/
def reloadCtx (n : Nat) (l : Launch) (x : Saved) (s : State) : State :=
  let s1 := updVault (vaultOf n) (fun v => if x.ctx.lanes then { v with lpr := x.lpr } else v) s
  match readRanges l (saveArea l x.slotNo) (restoreRanges x.ctx (vlenOf s1 n / 64)) s1 with
  | (none, s2) => killLaunch l.vi l.seq invalidRec s2
  | (some ws, s2) =>
    updVlc n (reload x.ctx ws) (updLaunch l.vi l.seq (fun k => { k with saved := k.saved.map (fun y =>
      if y.slotNo == x.slotNo then { y with cmds := reloadCmds s2 n (ws.getD 8 []) y.cmds } else y) }) s2)

/-- A slot is placed on a VLC and waits there for its deal. -/
def awaitDeal (n : Nat) (c : Option Cand) (s : State) : State := { s with sched := { s.sched with awaits := tset none s.sched.awaits n c } }

/-- The leaf controller acts on a placement: it waits for the VLC; a new slot asks for a deal when it is first placed (R46, R54). -/
def leafPlace (n : Nat) (c : Cand) (s : State) : State :=
  let vault := vaultOf n
  match getLaunch s c.vi c.seq with
  | none => s
  | some l =>
    if l.fault.isSome || quadOut s (quadOf vault) || closed s then s
    else if (getVlc s n).status ≠ .free then
      (if occupant s n = some c then s else { s with sched := { s.sched with pend := tset none s.sched.pend n (some c) } })
    else match l.saved.find? (fun x => x.slotNo == c.slotNo) with
      | some x => beginRestore n l x s
      | none =>
        match slotState l c.slotNo with
        | .running => s
        | .done => s
        | st =>
          if needsPreload s l vault then s
          else
            let first := !(l.slots.mapIdx (fun j m => (j, m))).any (fun p => vaultOf p.2 == vault && slotState l p.1 != .unplaced)
            let s1 := if first then writeLpr l vault s else s
            if lprWaits l.vi l.seq vault (coreOf n) s1 then s1
            else
              let s2 := { s1 with sched := { s1.sched with preloads := s1.sched.preloads.filter (fun p => !(p.vi == l.vi && p.seq == l.seq && p.vault == vault)) } }
              let r := tget (0, 0) l.ranges c.slotNo
              if r.1 < r.2 then
                (if rootWaits s2 (.area n) l (argAccs s2 l c.slotNo) then
                  rootAwait (.area n) l (argAccs s2 l c.slotNo) { s2 with sched := { s2.sched with pend := tset none s2.sched.pend n (some c) } }
                 else startInstance n l c.slotNo r.1 r.2 (awaitDeal n none (endWait (.area n) s2)))
              else if st = .unplaced then sendUp (quadOf vault) (.dealreq c) (awaitDeal n (some c) (setSlotState l.vi l.seq c.slotNo .waiting s2))
              else awaitDeal n (some c) s2

/-- PLACE: a leaf controller acts on the first message of its link (R301). -/
def execPlace (quad : Nat) (s : State) : Result :=
  .next (match (getLink s.sched.down quad).queue with
    | .place n c :: _ => if heldLink s quad then s else leafPlace n c (popDown quad s)
    | _ => s)

/-- A VLC has become free: a placement that waits for it is made. -/
def placePending (n : Nat) (s : State) : State :=
  match tget none s.sched.pend n with
  | none => s
  | some c => leafPlace n c { s with sched := { s.sched with pend := tset none s.sched.pend n none } }

/-- VLC `n` holds no instance any more; units not yet reported stay with its quad. -/
def freeVlc (n : Nat) (s : State) : State :=
  let v := getVlc s n
  let s1 := if v.cost = 0 ∨ v.resident = true then s
    else { s with sched := { s.sched with leafCost := tupd 0 s.sched.leafCost (quadOfVlc n * 256 + v.vi) (· + v.cost) } }
  updVlc n (fun _ => {}) s1

/-! ### Deals and steals (R46) -/

/-- Whether anything is left of a launch for stack `k` to deal. -/
def leftFor (l : Launch) (k : Nat) : Bool :=
  let r := tget (0, 0) l.undealt k
  r.1 < r.2 || (recSteal l.recd && l.undealt.any (fun p => p.2.1 < p.2.2))

/-- Deals the next chunk of a stack to a slot, or nothing. -/
def dealTo (c : Cand) (l : Launch) (k : Nat) (s : State) : State :=
  let q := quadOfVlc (l.slots.getD c.slotNo 0)
  let r := tget (0, 0) l.undealt k
  if r.1 < r.2 ∧ l.fault.isNone = true ∧ s.mgmt.retq.getLsbD q = false then
    let e := min (r.1 + recChunk l.recd) r.2
    let s1 := updLaunch l.vi l.seq (fun l => {
      l with
      undealt := tset (0, 0) l.undealt k (if e < r.2 then (e, r.2) else (0, 0)), ranges := tset (0, 0) l.ranges c.slotNo (r.1, e) }) s
    sendDown q (.deal c (some (r.1, e))) s1
  else sendDown q (.deal c none) s

/-- DEALREQ: served from the slot's own stack; an empty stack that may steal asks for a steal (R46). -/
def execDealreq (quad : Nat) (s : State) : Result :=
  .next (if s.sched.failed then s else match (getLink s.sched.up quad).queue with
    | .dealreq c :: _ =>
      let s1 := popUp quad s
      match getLaunch s1 c.vi c.seq with
      | none => s1
      | some l =>
        let k := stackOf (l.slots.getD c.slotNo 0)
        let r := tget (0, 0) l.undealt k
        if r.1 ≥ r.2 ∧ leftFor l k = true then sendUp quad (.stealreq c) s1 else dealTo c l k s1
    | _ => s)

/-- The stack with the most left, the lowest among equals (R46). -/
def richest (l : Launch) : Option (Nat × Nat × Nat) :=
  l.undealt.foldl (fun b p => match b with
    | none => if p.2.1 < p.2.2 then some (p.1, p.2.1, p.2.2) else none
    | some (k, lo, hi) => if p.2.2 - p.2.1 > hi - lo then some (p.1, p.2.1, p.2.2) else some (k, lo, hi)) none

/-- The undealt ranges after stack `k` has stolen. -/
def steal (l : Launch) (k : Nat) : Tbl (Nat × Nat) :=
  match richest l with
  | none => l.undealt
  | some (v, lo, hi) =>
    let g := recGrain l.recd
    let p := lo + g * cdiv (hi - lo) (2 * g)
    if p < hi then tset (0, 0) (tset (0, 0) l.undealt v (lo, p)) k (p, hi)
    else tset (0, 0) (tset (0, 0) l.undealt v (0, 0)) k (lo, hi)

/-- STEALREQ: the stack of the slot steals unless its own range has been filled meanwhile, and deals to the slot (R46). -/
def execStealreq (quad : Nat) (s : State) : Result :=
  .next (if s.sched.failed then s else match (getLink s.sched.up quad).queue with
    | .stealreq c :: _ =>
      let s1 := popUp quad s
      match getLaunch s1 c.vi c.seq with
      | none => s1
      | some l =>
        let k := stackOf (l.slots.getD c.slotNo 0)
        let r := tget (0, 0) l.undealt k
        let l1 := if r.1 < r.2 then l else { l with undealt := steal l k }
        dealTo c l1 k (updLaunch l.vi l.seq (fun l => { l with undealt := l1.undealt }) s1)
    | _ => s)

/-- DEAL: the leaf controller receives the answer: a new instance starts on the VLC of the slot where it is free for it, or the range waits for its placement; with nothing
left the slot takes no further work (R46, R60). -/
def execDeal (quad : Nat) (s : State) : Result :=
  .next (match (getLink s.sched.down quad).queue with
    | .deal c r :: _ =>
      if heldLink s quad then s else
      let s1 := popDown quad s
      match getLaunch s1 c.vi c.seq with
      | none => s1
      | some l =>
        let n := l.slots.getD c.slotNo 0
        match r with
        | none =>
          let s2 := setSlotState c.vi c.seq c.slotNo .done s1
          if tget none s2.sched.awaits n = some c then awaitDeal n none s2 else s2
        | some (lo, hi) =>
          if l.fault.isSome then
            updLaunch c.vi c.seq (fun l => { l with ranges := tset (0, 0) l.ranges c.slotNo (0, 0), state := tset .unplaced l.state c.slotNo .done }) s1
          else if (getVlc s1 n).status = .free ∧ tget none s1.sched.pend n = none ∧ ((tget none s1.sched.awaits n).getD c == c) = true ∧
              quadOut s1 (quadOfVlc n) = false ∧ closed s1 = false then
            (if rootWaits s (.area n) l (argAccs s l c.slotNo) then rootAwait (.area n) l (argAccs s l c.slotNo) (awaitDeal n (some c) s)
             else startInstance n l c.slotNo lo hi (awaitDeal n none (endWait (.area n) s1)))
          else s1
    | _ => s)

/-- Whether something has been sent to take VLC `n`, or holds it. -/
def vlcTaken (s : State) (n : Nat) : Bool :=
  (getVlc s n).status != .free || (tget none s.sched.pend n).isSome || (tget none s.sched.awaits n).isSome ||
    ((getLink s.sched.down (quadOfVlc n)).queue ++ tget [] s.sched.waitDown (quadOfVlc n)).any (fun m => match m with | .place k _ => k == n | _ => false)

/-- DONE: the scheduler learns that an instance has ended; unless the choice of the last tick is on its way to the VLC, the next candidate that the tick
ranked is placed (R301). -/
def execDone (quad : Nat) (s : State) : Result :=
  .next (if s.sched.failed then s else match (getLink s.sched.up quad).queue with
    | .done n _ :: _ =>
      let s1 := popUp quad s
      if vlcTaken s1 n || quadOut s1 (quadOfVlc n) then s1
      else match (tget [] s1.sched.ranks n).filter (fun d => (candsOf s1 n).contains d) with
      | [] => s1
      | d :: t => if closed s1 then s1 else bring n d { s1 with sched := { s1.sched with ranks := tset [] s1.sched.ranks n t } }
    | _ => s)

/-! ### Preload (R309, R358) -/

/-- The entries of a preload table: source, KIND, FIRST, COUNT; none if a limit or a field rule is broken. The bits of the entry that ends the table are not
checked (DESIGN CHOICE, log 75). -/
def preloadEntries (ws : List Nat) : Option (List (Nat × Nat × Nat × Nat)) :=
  let es := ((upto 16).map (fun i => (dw ws (2 * i), dw ws (2 * i + 1)))).takeWhile (fun e => fld e.2 16 8 != 0)
  let bad := es.any (fun e =>
    fld e.1 56 8 != 0 || fld e.2 1 7 != 0 || fld e.2 24 40 != 0 || e.1 % 4096 != 0 || inWindows (fld e.1 0 56) || inAperture (fld e.1 0 56) ||
      fld e.2 8 8 + fld e.2 16 8 > (if bitN e.2 0 then 64 else 256))
  if bad || es.foldl (fun a e => a + fld e.2 16 8) 0 > 64 then none
  else some (es.map (fun e => (fld e.1 0 56, fld e.2 0 1, fld e.2 8 8, fld e.2 16 8)))

/-- Reads a preload table entry by entry up to one with COUNT = 0; none when a read fails (R309). Sixteen entries end it without one (DESIGN CHOICE, log 75). -/
def readPreload (l : Launch) (ptr : Nat) : Nat → State → Option (List Nat) × State
  | 0, s => (some [], s)
  | k + 1, s =>
    match rootRead l ptr 2 s with
    | (none, s1) => (none, s1)
    | (some e, s1) =>
      if fld (dw e 1) 16 8 = 0 then (some [], s1)
      else match readPreload l (ptr + 16) k s1 with
        | (none, s2) => (none, s2)
        | (some t, s2) => (some (e ++ t), s2)

/-- Copies one tile to the vault; a VS tile's owner bit is left at 0. -/
def preloadTile (l : Launch) (src dst : Nat) (s : State) : Option State :=
  match rootRead l src 512 s with
  | (none, _) => none
  | (some ws, s1) =>
    let v := ws.foldr (fun w a => w + 2 ^ 64 * a) 0
    some { s1 with
           mem := mwrite s1.mem dst 4096 v, ecc := s1.ecc.filter (fun p => p.1 / 512 != dst / 4096),
           tiles := tupd {} s1.tiles (dst / 4096) (fun t => { t with own := false }) }

/-- The preload table of a VI, and the tiles that its entries name: source VA and PA in the vault. -/
def preloadPtr (s : State) (vi : Nat) : Nat := fld (getVi s vi).preld.toNat 6 50 * 64
def preloadTiles (vault : Nat) (es : List (Nat × Nat × Nat × Nat)) : List (Nat × Nat) :=
  es.flatMap (fun e => (upto e.2.2.2).map (fun i =>
    (e.1 + 4096 * i, vaultPa vault (dramEnd + (if e.2.1 = 1 then 0x100000 else 0) + 4096 * (e.2.2.1 + i)))))

/-- The accesses that a preload takes: the table by its entries, and its sources by bank. -/
def preloadAccs (s : State) (l : Launch) (vault : Nat) : List Passed :=
  let ptr := preloadPtr s l.vi
  let ws := ((readPreload l ptr 16 s).1).getD []
  rootPassed s l 8 .read ((upto (min 16 (ws.length / 2 + 1))).map (fun i => ptr + 16 * i)) ++
    rootPassed s l 8 .read ((preloadTiles vault ((preloadEntries ws).getD [])).flatMap (fun t => (upto 4).map (fun i => t.1 + 1024 * i)))

/-- PRELOAD: the tiles of a launch are written into a vault, once the banks of their sources serve them (R263, R309). -/
def execPreload (quad : Nat) (s : State) : Result :=
  .next (match (getLink s.sched.down quad).queue with
    | .preload vault c :: _ =>
      if heldLink s quad then s else
      let s1 := popDown quad s
      match getLaunch s1 c.vi c.seq with
      | none => s1
      | some l =>
        let bad (s : State) : State := noteReady (headWaits l.vi 64 (killLaunch l.vi l.seq invalidRec s))
        let ptr := preloadPtr s1 l.vi
        if l.fault.isSome then s1
        else if rootWaits s (.preload vault) l (preloadAccs s l vault) then rootAwait (.preload vault) l (preloadAccs s l vault) s
        else match readPreload l ptr 16 (endWait (.preload vault) s1) with
          | (none, s2) => bad s2
          | (some ws, s2) =>
            match preloadEntries ws with
            | none => bad s2
            | some es =>
              let tiles := preloadTiles vault es
              match tiles.foldl (fun (a : Option State) t => a.bind (preloadTile l t.1 t.2)) (some s2) with
              | none => bad s2
              | some s3 => { s3 with sched := { s3.sched with preloads := s3.sched.preloads ++ [⟨l.vi, l.seq, vault, tiles.map Prod.snd⟩] } }
    | _ => s)

/-! ### Pre-emption (R64, R65, R238, R355) -/

/-- A context begins to drain: issue stops, and its commands that have not been issued to frames are withdrawn (R64 steps 1 and 4). One that is still being
restored leaves again instead (R301). -/
def beginDrain (n : Nat) (s : State) : State :=
  if (getVlc s n).status = .restoring then updVlc n (fun v => { v with recalled := true, drainAt := s.cyc, drainLong := false, cmdEnd := s.cyc }) s
  else if (getVlc s n).status ≠ .running ∨ (getVlc s n).resident = true then s
  else
    let long := s.cmds.any (fun c => c.vlc == n && c.kind == .bkx && c.stage == .running && c.worst > 1500)
    let s1 := updVlc n (fun v => { v with
      status := .draining, drainAt := s.cyc, drainLong := long, cmdEnd := s.cyc, flip := none, early := [] }) (discardAhead n s)
    { s1 with cmds := s1.cmds.map (fun c => if c.vlc == n && !c.dropped && (c.stage == .sent || c.stage == .queued || (c.kind == .lock && c.stage == .running)) then
        { c with stage := .withdrawn } else c) }

/-- PREEMPT: a leaf controller begins a pre-emption; a slot whose instance has executed `fin` counts as pre-empted (R64, R67). -/
def execPreempt (quad : Nat) (s : State) : Result :=
  .next (match (getLink s.sched.down quad).queue with
    | .preempt n :: _ => if heldLink s quad then s else beginDrain n (popDown quad s)
    | _ => s)

/-- A waiting `mclaim` counts as executed; the words behind it are held, before those that a fault holds already; they resume once the context has its claim
(R238). -/
def drainClaim (n : Nat) (s : State) : State :=
  match viqOf s n with
  | e :: rest =>
    if e.instr = .mclaim ∧ (getVault s (vaultOf n)).slice.queue.contains n = true then
      let s1 := updVault (vaultOf n) (fun v => { v with slice := { v.slice with queue := v.slice.queue.filter (· != n) } }) s
      updVlc n (fun v => { v with held := rest.map (fun e => { e with resumed := true }) ++ v.held, mpend := true }) (updCore (coreOf n) (fun c => { c with viq := c.viq.filter (fun x => x.vlc != n) }) s1)
    else s
  | [] => s

/-- Whether a draining context has drained (R64 steps 2 to 4). -/
def drained (s : State) (n : Nat) : Bool :=
  let v := getVlc s n
  v.status == .draining && !vecBusy s n && (v.vfaults.isEmpty || v.hnd) && !v.rewind && waitIdle s v &&
    !s.net.any (fun a => a.vlc == n && a.kind != .barWait) && !s.fills.any (fun f => f.vlc == n) &&
    !s.cmds.any (fun c => c.vlc == n && c.stage != .withdrawn)

/-- Writes a list of offsets and dwords for a launch. -/
def writeItems (l : Launch) (base : Nat) : List (Nat × Nat) → State → Option State
  | [], s => some s
  | p :: t, s => (rootWrite l (base + p.1) [p.2] s).bind (writeItems l base t)

/-- The state of a drained context leaves its VLC (R64 steps 5 to 7). -/
def saveContext (n : Nat) (l : Launch) (s : State) : State :=
  let v0 := getVlc s n
  let claim := holdsClaim s n
  let rest (k : Lock) : Lock := if k.granted then { k with until_ := k.until_ - s.cyc } else k
  -- what a restore that was cut short had not brought back is still in the record of the save before
  let old := l.saved.find? (fun x => x.slotNo == v0.slotNo)
  let locks := (s.locks.filter (fun k => k.vlc == n && k.agent == v0.agent)).map rest ++
    (match old with | some x => x.locks.filter (fun k => !k.granted) | none => [])
  let cmds := s.cmds.filter (fun c => c.vlc == n) ++ (match old with | some x => x.cmds | none => [])
  let v := { v0 with wait := .none, mheld := claim || v0.mheld, status := .free, recalled := false }
  let x : Saved := {
                     slotNo := v.slotNo, vlcNo := n, ctx := v, locks := locks, cmds := cmds, slice := if claim then some (sliceOf s n) else old.bind (fun x => x.slice),
                     lpr := (getVault s (vaultOf n)).lpr }
  let s0 := if v.sbuf.isEmpty then s else { s with fresh := s.fresh + 1280 }
  let s1 := (writeItems l (saveArea l v.slotNo) (saveItems { s with cur := n } v locks cmds) s0).bind (fun s =>
    if claim then writeItems l (sliceArea l v n) (matrixItems v.slotNo (sliceOf s n)) s else some s)
  let clear (s : State) : State :=
    placePending n (freeVlc n (releaseLanes n (leaveQueues n (dropOps (fun o => mineOp s n o && !o.accepted) {
      s with
      locks := s.locks.filter (fun k => !(k.vlc == n && k.agent == v.agent)), cmds := s.cmds.filter (fun c => c.vlc != n),
      net := s.net.filter (fun a => a.vlc != n) }))))
  let keep (l : Launch) : Launch := { l with saved := l.saved.filter (fun y => y.slotNo != x.slotNo) ++ [x] }
  match s1 with
  | none =>
    -- the save failed: the context never resumes (R49)
    clear (killLaunch l.vi l.seq invalidRec (updLaunch l.vi l.seq keep s))
  | some s2 => clear (updLaunch l.vi l.seq keep s2)

/-- A pre-emption that ends later than promised is logged: 66,000 cycles after its issued commands have ended, and 189,750 after the request where no long
command ran (R308, R405). -/
def notePreemption (n : Nat) (s : State) : State :=
  let v := getVlc s n
  if s.cyc > v.cmdEnd + 66000 ∨ (v.drainLong = false ∧ s.cyc > v.drainAt + 189750) then
    elog 8 cPROMISE_MISSED (stackOf n) (vaultOf n % 16) v.agent 0 0 s
  else s

/-- PREEMPTION_COMPLETE (R64), once the banks of the save areas take the state (R263). -/
def execPreemptionComplete (vlc : Nat) (s : State) : Result :=
  .next (
    let s1 := if (getVlc s vlc).status = .draining then drainClaim vlc s else s
    if !drained s1 vlc then s1
    else match getLaunch s1 (getVlc s1 vlc).vi (getVlc s1 vlc).seq with
      | some l =>
        let v := getVlc s1 vlc
        rootTurn (.area vlc) l (areaAccs s1 l v.slotNo .write ++ (if holdsClaim s1 vlc then sliceAccs s1 l (sliceArea l v vlc) .write else []))
          (fun s => saveContext vlc l (notePreemption vlc s)) s1
      | none => s1)

/-! ### Restore (R67) -/

/-- The saved record of the context that is being restored on a VLC. -/
def savedOf (s : State) (n : Nat) : Option (Launch × Saved) :=
  let v := getVlc s n
  (getLaunch s v.vi v.seq).bind (fun l => (l.saved.find? (fun x => x.slotNo == v.slotNo)).map (fun x => (l, x)))

/-- Whether every range of a group of locks is free (R67, R268). -/
def groupFree (s : State) (ls : List Lock) : Bool :=
  ls.all (fun l => !s.locks.any (fun k => k.granted && lockMeets l k) && !cmdOnLock s l && !opOnLock s l) &&
    (match ls with
     | [] => true
     | l :: _ => (s.locks.filter (fun k => k.granted && k.stack == l.stack)).length + ls.length ≤ 256)

/-- A lock, or a request for one, enters the table with a serial number of its own. -/
def addLock (k : Lock) (s : State) : State := bump { s with locks := s.locks ++ [{ k with id := s.nextId, arr := s.nextId }] }

/-- LOCK_GROUP_TAKE, step 1 of a restore: all granted locks of the context as one group, each with its saved remaining lease; pending ones are requested
again with their commands (R65, R67). -/
def execLockGroupTake (vlc : Nat) (s : State) : Result :=
  .next (
    if (getVlc s vlc).status ≠ .restoring ∨ (getVlc s vlc).grouped = true ∨ (getVlc s vlc).recalled = true then s
    else match savedOf s vlc with
      | none => s
      | some (l, x) =>
        if rootWaits s (.area vlc) l (areaAccs s l x.slotNo .read) then rootAwait (.area vlc) l (areaAccs s l x.slotNo .read) s
        else match readRanges l (saveArea l x.slotNo) (x.locks.map (fun k => (0x380 + 16 * k.num, 2))) s with
          | (none, s1) => killLaunch l.vi l.seq invalidRec s1
          | (some ws, s1) =>
            let locks := (x.locks.mapIdx (fun i k => reloadLock s ws i k)).filterMap id
            if !groupFree s (locks.filter (fun l => l.granted)) then s
            else
              updVlc vlc (fun v => { v with grouped := true })
                (updLaunch l.vi l.seq (fun k => { k with saved := k.saved.map (fun y =>
                    if y.slotNo == x.slotNo then { y with locks := locks.filter (fun k => !k.granted) } else y) })
                  ((locks.filter (fun l => l.granted)).foldl (fun s k => addLock { k with until_ := s.cyc + k.until_ } s) (endWait (.area vlc) s1))))

/-- A restored context joins the queue for its lanes, or takes them when they are free. -/
def restoreLanes (n : Nat) (s : State) : State :=
  let c := getCore s (coreOf n)
  if c.holder.isNone && (c.queue.isEmpty || c.queue.head? == some n) then
    updCore (coreOf n) (fun c => { c with holder := some n, queue := c.queue.filter (· != n) }) s
  else if c.queue.contains n then s
  else updCore (coreOf n) (fun c => { c with queue := c.queue ++ [n] }) s

/-- A restored context takes the slice: with MHELD the state of the matrix save area, with MPEND a fresh claim (R238). A read that fails ends the
launch (R49). -/
def restoreClaim (n : Nat) (l : Launch) (x : Saved) (s : State) : State :=
  let k := (getVault s (vaultOf n)).slice
  if k.holder.isNone && (x.slice.isSome || !savedClaim s n) && (k.queue.isEmpty || nextClaim s (vaultOf n) == some n) then
    let q := k.queue.filter (· != n)
    match x.slice with
    | none =>
      -- the fresh claim of a waiting mclaim clears the slice, and is charged (R253)
      updVlc n (fun v => { v with cost := v.cost + 96 }) (updVault (vaultOf n) (fun v => { v with slice := { holder := some n, queue := q } }) s)
    | some y =>
      if rootWaits s (.area n) l (sliceAccs s l (sliceArea l x.ctx n) .read) then rootAwait (.area n) l (sliceAccs s l (sliceArea l x.ctx n) .read) s
      else match readRanges l (sliceArea l x.ctx n)
          ([(0, 2), (0x800, 256)] ++ (upto 48).map (fun i => (0x1000 + 6144 * i, 768))) (endWait (.area n) s) with
      | (none, s1) => killLaunch l.vi l.seq invalidRec s1
      | (some ws, s1) => updVault (vaultOf n) (fun v => { v with slice := { reloadSlice ws y with holder := some n, queue := q } }) s1
  else if k.queue.contains n then s
  else updVault (vaultOf n) (fun v => { v with slice := { v.slice with queue := v.slice.queue ++ [n] } }) s

/-- A pre-emption takes a context off its VLC before its restore has brought anything back: what reached it meanwhile stays with it (R301). -/
def leaveRestore (n : Nat) (l : Launch) (x : Saved) (s : State) : State :=
  let v := { getVlc s n with status := .free, recalled := false }
  placePending n (freeVlc n (endWait (.area n) (updLaunch l.vi l.seq (fun k => { k with saved := k.saved.map (fun y =>
    if y.slotNo == x.slotNo then { y with ctx := v } else y) }) s)))

/-- Steps 2 to 5 of a restore: the state is reloaded, then lanes, slice, and commands in their saved order; then issue resumes, with the event bit 1 (R67,
R192). -/
def finishRestore (n : Nat) (s : State) : State :=
  let v := getVlc s n
  if v.status ≠ .restoring ∨ (v.grouped = false ∧ v.recalled = false) then s
  else match savedOf s n with
    | none => s
    | some (l, x) =>
      if !v.grouped then leaveRestore n l x s
      else if !v.loaded then rootTurn (.area n) l (areaAccs s l x.slotNo .read) (reloadCtx n l x) s
      else if v.recalled then updVlc n (fun v => { v with status := .draining }) s else
      let s1 := if v.lanes && (getCore s (coreOf n)).holder != some n then restoreLanes n s else s
      if v.lanes && (getCore s1 (coreOf n)).holder != some n then s1
      else
        let need := v.mheld || v.mpend
        let s2 := if need && !holdsClaim s1 n then restoreClaim n l x s1 else s1
        if need && !holdsClaim s2 n then s2
        else
          let back (c : Cmd) : Cmd := { c with stage := if c.kind = .lock ∧ x.locks.any (fun k => k.cmd == c.id && k.queued) = true then .running else .sent }
          let words := if v.mpend then v.held.filter (fun e => e.resumed) else []
          let s3 := { (x.locks.filter (fun k => !k.granted)).foldl (fun s k => addLock k s) s2 with
                      cmds := s2.cmds ++ x.cmds.map back,
                      launches := s2.launches.map (fun k => if k.vi == l.vi && k.seq == l.seq then { k with saved := k.saved.filter (fun y => y.slotNo != x.slotNo) } else k) }
          let s4 := updCore (coreOf n) (fun c => { c with viq := c.viq ++ words })
            (updVlc n (fun v => { v with status := .running, held := if v.mpend then v.held.filter (fun e => !e.resumed) else v.held, event := true, mheld := false, mpend := false }) s3)
          -- a test or a checkpoint that began meanwhile pre-empts every context (R385, R409), and a placement that waits takes the VLC (R301)
          if quadOut s4 (quadOfVlc n) || closed s4 || (tget none s4.sched.pend n).any (fun c => some c != occupant s4 n) then beginDrain n s4 else s4

/-! ### Ends of instances (R60, R352) -/

/-- The launch root takes what the instance owned; the resident program's regions stay with System. -/
def endTokens (v : Vlc) (s : State) : State := if v.resident then s else passTokens v.agent (rootAgent v.vi v.seq) s

/-- The VLC of an instance that has ended is free; the scheduler is told. `fin` asks for a new deal. -/
def leaveVlc (n : Nat) (byFin : Bool) (s : State) : State :=
  let v := getVlc s n
  let c : Cand := ⟨v.vi, v.seq, v.slotNo⟩
  let s1 := freeVlc n (endTokens v s)
  if v.resident then { s1 with plat := { s1.plat with resDone := byFin || s1.plat.resDone } }
  else
    let s2 := setSlotState v.vi v.seq v.slotNo (if byFin then .waiting else .done) s1
    let s3 := sendUp (quadOfVlc n) (.done n c) s2
    placePending n (if byFin then sendUp (quadOfVlc n) (.dealreq c) s3 else s3)

/-- The last stages of an ending instance: nothing of it still reads or writes, and what a lost one owned has been reclaimed (R401); then locks, lanes, claim, buffer and tokens go (R352 steps 5 to 7). -/
def finishEnding (n : Nat) (s : State) : State :=
  if (getVlc s n).status ≠ .ending ∨ (rqOf s n).isEmpty = false ∨ s.net.any (fun a => a.vlc == n) = true ∨ s.fills.any (fun f => f.vlc == n) = true ∨
      s.cmds.any (fun c => c.vlc == n) = true ∨ s.ops.any (fun o => mineOp s n o) = true ∨
      (s.repair.failed.any (fun x => x.1 == (getVlc s n).agent) && s.toks.any (fun p => p.2.kind != 0 && p.2.owner == (getVlc s n).agent)) = true then s
  else leaveVlc n false (releaseLanes n { s with locks := s.locks.filter (fun l => l.vlc != n) })

/-- The last stages of `fin` (R60 steps 4 and 5). -/
def finishFin (n : Nat) (s : State) : State :=
  let v := getVlc s n
  if v.status ≠ .finishing ∨ allQuiet v = false ∨ s.ops.any (fun o => mineOp s n o) = true ∨ s.net.any (fun a => a.vlc == n) = true then s
  else leaveVlc n true s

/-- Saved contexts that end: their operations have stopped, and what a lost one owned has been reclaimed (R401); commands, locks and tokens go (R352). -/
def finishSaved (n : Nat) (s : State) : State :=
  let gone (x : Saved) : Bool := x.vlcNo == n && x.ctx.status == .ending &&
    !s.ops.any (fun o => o.vlc == n && o.agent == x.ctx.agent && o.seq == x.ctx.seq && !mineOp s n o) &&
    !(s.repair.failed.any (fun f => f.1 == x.ctx.agent) && s.toks.any (fun p => p.2.kind != 0 && p.2.owner == x.ctx.agent))
  s.launches.foldl (fun s l => (l.saved.filter gone).foldl (fun s x =>
    let s1 := x.cmds.foldl (fun s c => c.tiles.foldl (fun s t => unuseTile t s) s) (endTokens x.ctx s)
    updLaunch l.vi l.seq (fun k => { k with saved := k.saved.filter (fun y => y.slotNo != x.slotNo), state := tset .unplaced k.state x.slotNo .done }) s1) s) s

/-- A placement that waited for the banks of its argument block is made. -/
def settlePlace (n : Nat) (s : State) : State := if (waitingOf s (.area n)).isSome && (getVlc s n).status == .free then placePending n s else s

/-- The next stage of an ending, finishing or restoring context, or of a placement that waits at its banks. -/
def settle (n : Nat) (s : State) : State := settlePlace n (finishSaved n (finishRestore n (finishFin n (finishEnding n s))))

/-! ### Completion of launches (R48, R49, R324, R353) -/

/-- Whether this module's share of a launch is done. -/
def shareOver (s : State) (l : Launch) : Bool :=
  !s.vlcs.any (fun p => p.2.status != .free && !p.2.resident && p.2.vi == l.vi && p.2.seq == l.seq) && l.saved.isEmpty &&
    (l.fault.isSome || (l.started && l.undealt.isEmpty && l.ranges.isEmpty))

/-- Whether a launch has completed: its share here, and with level D0 the shares of the other modules of its list (R48, R317). -/
def launchOver (s : State) (l : Launch) : Bool :=
  shareOver s l && (l.origin.isSome || l.mods.all (fun m => m == s.mgmt.modid || l.modsDone.contains m))

/-- Regions of the launch root pass on; its shares are freed (R324). -/
def passRegions (l : Launch) (s : State) : State :=
  let root := rootAgent l.vi l.seq
  let shares := (s.toks.filter (fun p => p.2.kind == 2 && p.2.owner == root)).map Prod.fst
  let s1 := shares.foldl (fun s k => dropShare k s) s
  { s1 with toks := s1.toks.map (fun p => if p.2.kind == 1 && p.2.owner == root then
      (p.1, { p.2 with owner := if p.2.lender ≠ 0 then p.2.lender else hostAgent l.vi, lender := 0 }) else p) }

/-- Latches a fault of a VI and signals vector 1 of its function (R353). -/
def latchFault (vi seq code : Nat) (lrec : Tbl Word) (s : State) : State :=
  updVi vi (fun v => { v with lflt := wN (code + 256 + seq % 2 ^ 48 * 65536), lrec := lrec })
    { s with out := { s.out with msix := s.out.msix ++ [(1 + vi, 1)] } }

/-- LREC of a faulted launch: 0 for LAUNCH_INVALID. -/
def faultWords (f : FRec) : Tbl Word := if f.code = cLAUNCH_INVALID ∨ f.code = cKILLED then [] else f.words

/-- The add of 1 at DONEW: the PA, or the fault code. -/
def donewPa (s : State) (l : Launch) : Except Nat Nat :=
  let va := recDonew l.recd
  if inWindows va || inAperture va then .error cTRANSLATION
  else match addrCheck s { vi := l.vi, vault := none } va 8 .atomic with
    | .error c => .error c
    | .ok p =>
      match p.tgt with
      | .rem _ _ _ => .error cTRANSLATION
      | .loc pa => match homeCheck s (rootAgent l.vi l.seq) pa 8 with
        | some c => .error c
        | none => .ok pa

/-- A completion word that is uncorrectable is logged (R391). -/
def logDonew (l : Launch) (s : State) : State :=
  match pageOf s { vi := l.vi, vault := none } (recDonew l.recd) with
  | some p => logUe p.pa 8 (rootAgent l.vi l.seq) s
  | none => s

/-- The access of the completion word that the add takes. -/
def addAccs (s : State) (l : Launch) : List Passed :=
  if l.recd.isEmpty || recDonew l.recd == 0 || l.origin.isSome then []
  else match donewPa s l with
    | .ok pa => [engPassed s { vi := l.vi, vault := none } (recDonew l.recd) pa]
    | .error _ => []

/-- The completion add (R48); one that fails is latched, unless the launch has latched its own fault (R49). A DONEW that is not aligned, a record error, is
never reached. -/
def completionAdd (l : Launch) (s : State) : State :=
  if l.recd.isEmpty || recDonew l.recd == 0 || recDonew l.recd % 8 != 0 then s
  else match donewPa s l with
    | .ok pa =>
      let s1 := correctIn pa 8 (notePinVa { vi := l.vi, vault := none } (recDonew l.recd) s)
      writeMem pa 8 ((mread s1.mem pa 8 + 1) % 2 ^ 64) s1
    | .error c =>
      let s := if c = cUE_CONSUMED then logDonew l s else s
      if l.fault.isSome then { s with out := { s.out with msix := s.out.msix ++ [(1 + l.vi, 1)] } }
      else latchFault l.vi l.seq c [] s

/-- LAUNCH_COMPLETE: regions pass on, a fault is latched, and the add is made (R48, R324, R353); the share of a launch of another module reports DONE to it
instead of the add (R317). -/
def execLaunchComplete (vi : Nat) (seq : Nat) (s : State) : Result :=
  .next (match getLaunch s vi seq with
    | none => s
    | some l =>
      if !launchOver s l || s.sched.failed then s
      else if rootWaits s (.root vi seq) l (addAccs s l) then rootAwait (.root vi seq) l (addAccs s l) s
      else
        let s := endWait (.root vi seq) s
        let s1 := passRegions l s
        let s2 := match l.fault with | some f => latchFault vi seq f.code (faultWords f) s1 | none => s1
        let s3 := match l.origin with
          | none => completionAdd l s2
          | some m => { s2 with out := { s2.out with dones := s2.out.dones ++ [(m, vi, seq % 2 ^ 48)] } }
        let s4 := {
          s3 with
          launches := s3.launches.filter (fun k => !(k.vi == vi && k.seq == seq)),
          sched := { s3.sched with preloads := s3.sched.preloads.filter (fun p => !(p.vi == vi && p.seq == seq)) } }
        noteReady (headWaits vi 64 s4))

/-- The standby scheduler goes on from its copy of the last tick: what was ranked, and the deficits and reports of the VIs; launches, deals and the messages of
the links stay as they are (R415; DESIGN CHOICE, log 77). -/
def takeOver (s : State) : State :=
  let c := s.sched.copy
  { s with
    sched := { s.sched with active := 11, failed := false, standby := false, ranks := c.ranks, floorK := c.floorK, lastTick := c.lastTick },
    vis := c.vis.foldl (fun t p => tupd {} t p.1 (fun v => { v with deficit := p.2.1, cost := p.2.2 })) s.vis }

/-- SCHEDULER_FAILOVER: stack 11 takes over with the state copied at the last tick (R415). -/
def execSchedulerFailover (s : State) : Result :=
  .next (if s.sched.active = 11 ∨ s.sched.standby = false ∨ s.plat.stopped = true then s else elog 14 0 11 0 0 0 0 (takeOver s))

/-- A launch's own access that waits at its banks is tried again: its record, or its barrier word (R49, R263). -/
def rootServe (vi seq : Nat) (s : State) : State :=
  match getLaunch s vi seq with
  | none => s
  | some l => if l.recd.isEmpty && mayStart s l then loadRecord l s else noteReady (headWaits vi 64 s)

end Sys2Proof.Machine
end

