-- ==== Sys2Proof/Machine/Failure.lean ====
section
/-! DEFINITION. Failures and service: lost agents and reclamation, retirement, repair of rows and frames, scan tests, checkpoint and restore (R82, R385,
R386, R390, R392, R393, R400 to R403, R408 to R414). -/
namespace Sys2Proof.Machine

/-! ### Failed agents (R400, R401) -/

/-- The VI that an agent value names, and the VLC of a context instance (R91). -/
def agentVi (a : Nat) : Nat :=
  match agentType a with
  | 1 => a % 268435456 / 2048 % 256
  | 2 => a % 256
  | 3 => a % 256
  | _ => a % 268435456 / 65536 % 256
def agentVlc (a : Nat) : Nat := a % 2048

/-- Whether an agent has failed. -/
def hasFailed (s : State) (a : Nat) : Bool :=
  match agentType a with
  | 1 => s.repair.failed.any (fun x => x.1 == a)
  | 3 => (getVi s (a % 256)).failed
  | 5 => s.fabric.unreachable.contains (a % 65536) || s.fabric.cleared.contains (a % 65536) || s.fabric.failed.contains a
  | _ => false

/-- Whether an agent is live. -/
def isLive (s : State) (a : Nat) : Bool :=
  !hasFailed s a && (match agentType a with
    | 1 => s.vlcs.any (fun p => p.2.status != .free && !p.2.resident && p.2.agent == a) || s.launches.any (fun l => l.saved.any (fun x => x.ctx.agent == a))
    | 2 => s.launches.any (fun l => rootAgent l.vi l.seq == a)
    | 3 => true
    | 4 => true
    | 5 => true
    | 6 => true
    | _ => false)

/-- The launch root of a context instance: of the launch that holds it, or that the record of lost instances names, or whose slot its VLC is. -/
def rootOfAgent (s : State) (a : Nat) : Option Nat :=
  match s.repair.failed.find? (fun x => x.1 == a) with
  | some x => some (rootAgent x.2.1 x.2.2)
  | none =>
    (s.launches.find? (fun l => l.vi == agentVi a && (s.vlcs.any (fun p => p.2.agent == a && p.2.seq == l.seq && p.2.status != .free) ||
      l.saved.any (fun x => x.ctx.agent == a) || l.slots.contains (agentVlc a)))).map (fun l => rootAgent l.vi l.seq)

/-- heir(L, F) of R401. -/
def heir (s : State) (l f : Nat) : Option Nat :=
  if l ≠ 0 ∧ isLive s l = true then some l
  else
    let root := if agentType l = 1 then (rootOfAgent s l).filter (isLive s) else none
    match root with
    | some r => some r
    | none =>
      if l ≠ 0 ∧ !hasFailed s (hostAgent (agentVi l)) = true ∧ [1, 2, 3, 5].contains (agentType l) = true then some (hostAgent (agentVi l))
      else if agentType f = 1 then rootOfAgent s f
      else none

/-- A context instance that becomes the owner of a reclaimed region receives TOKEN_LOST, class A (R403). -/
def tokenLost (a key : Nat) (s : State) : State :=
  let f : FRec := { code := cTOKEN_LOST, cls := 3, okind := 1, stack := key / 65536, index := key % 65536 }
  let live := (s.vlcs.filter (fun p => p.2.status != .free && !p.2.resident && p.2.agent == a)).map Prod.fst
  let one (x : Saved) : Saved := if x.ctx.agent = a then { x with ctx := { x.ctx with faults := x.ctx.faults ++ [⟨f, s.nextId⟩] } } else x
  match live with
  | n :: _ => bump (queueFault n f s.nextId s)
  | [] => bump { s with launches := s.launches.map (fun l => { l with saved := l.saved.map one }) }

/-- The vault complex begins to seal the unsealed rows of the frames under a reclaimed region (R393). -/
def sealRegion (t : Tok) (s : State) : State :=
  let v := paMVault (t.base * 4096)
  (getVault s v).unsealed.foldl (fun s e =>
    let f := vaultPa v (e.frame * 2097152)
    if rangesMeet f 2097152 (t.base * 4096) (t.pages * 4096) then startSeal f e s else s) s

/-- One entry that the failed agent owns changes (R401). -/
def reclaimEntry (f key : Nat) (s : State) : State :=
  let t := tokAt s key
  let logged (s : State) : State := elog 9 cTOKEN_LOST (key / 65536) (paVault (t.base * 4096)) f (t.base * 4096) key s
  if t.kind = 2 then logged (dropShare key s)
  else
    match heir s t.lender f with
    | none => logged (unpinFree (putTok key {} (sealRegion t s)))
    | some o =>
      let s1 := logged (putTok key { t with suspect := true, since := s.nextId, owner := o, lender := 0 } (bump (sealRegion t s)))
      if agentType o = 1 then tokenLost o key s1 else s1

/-- Whether anything still runs on behalf of a failed agent: a command, or an accepted operation (R401). -/
def stillActs (s : State) (f : Nat) : Bool :=
  s.cmds.any (fun c => c.agent == f && c.stage == .running && c.kind != .lock) || s.ops.any (fun o => o.agent == f && o.accepted)

/-- RECLAMATION: the entries of a failed agent (R401). A host that was lost by a reset of its function, and a remote agent whose module can be reached again, are
live afterwards. -/
def execReclamation (agent : Nat) (s : State) : Result :=
  .next (
    if !hasFailed s agent || stillActs s agent then s
    else
      let mine := (s.toks.filter (fun p => p.2.kind != 0 && p.2.owner == agent)).map Prod.fst
      let s1 := mine.foldl (fun s k => reclaimEntry agent k s) s
      let s2 : State := { s1 with toks := s1.toks.map (fun p => if p.2.kind != 0 && p.2.lender == agent then
          (p.1, { p.2 with lender := (heir s1 agent agent).getD 0 }) else p) }
      let s3 := { s2 with fabric := { s2.fabric with failed := s2.fabric.failed.filter (· != agent) } }
      if agentType agent = 3 then updVi (agent % 256) (fun v => { v with failed := false }) s3 else s3)

/-- Host v fails: its launches end with KILLED and its queue is empty (R400). -/
def failHost (vi : Nat) (s : State) : State :=
  let ls := s.launches.filter (fun l => l.vi == vi)
  ls.foldl (fun s l => killLaunch vi l.seq { code := cKILLED, cls := 3 } s) (updVi vi (fun v => { v with failed := true }) s)

/-- FUNCTION_LEVEL_RESET (R400). -/
def execFunctionLevelReset (vi : Nat) (s : State) : Result := .next (if vi ≥ 256 then s else failHost vi s)

/-- CXL_LINK_LOSS: the hosts of the 64 VIs of a port fail (R400). -/
def execCxlLinkLoss (port : Nat) (s : State) : Result :=
  .next (if port ≥ 4 then s else (upto 64).foldl (fun s i => failHost (64 * port + i) s) s)

/-! ### Retirement (R413, R414) -/

/-- A context instance is lost with its quad: its launch ends with UE_CONSUMED, class A (R400, R403). -/
def loseContext (a vi seq : Nat) (s : State) : State :=
  killLaunch vi seq { code := cUE_CONSUMED, cls := 3 }
    { s with repair := { s.repair with failed := s.repair.failed.filter (fun x => x.1 != a) ++ [(a, vi, seq)] } }

/-- Slots on a retired quad are skipped; a launch left with no slot ends with LAUNCH_INVALID (R413). -/
def skipSlots (q : Nat) (s : State) : State :=
  let one (l : Launch) : Launch :=
    { l with state := (l.slots.mapIdx (fun j n => (j, n))).foldl (fun t p => if quadOfVlc p.2 = q then tset .unplaced t p.1 .done else t) l.state }
  let s1 := { s with launches := s.launches.map one }
  (s1.launches.filter (fun l => l.fault.isNone && !l.slots.isEmpty && l.slots.all (fun n => s1.mgmt.retq.getLsbD (quadOfVlc n)))).foldl
    (fun s l => killLaunch l.vi l.seq invalidRec s) s1

/-- A quad is retired for compute; the boot flash keeps it (R413, R414). -/
def retireQuad (q : Nat) (s : State) : State :=
  let s1 := elog 4 0 (q / 4) 0 0 q q { s with
    mgmt := { s.mgmt with retq := s.mgmt.retq ||| BitVec.ofNat 48 (2 ^ q), scan := if s.mgmt.scan = some q then none else s.mgmt.scan },
    plat := { s.plat with flashRetq := s.plat.flashRetq ||| BitVec.ofNat 48 (2 ^ q) } }
  let here := s1.vlcs.filter (fun p => quadOfVlc p.1 == q && p.2.status != .free && !p.2.resident)
  let saved := s1.launches.flatMap (fun l => (l.saved.filter (fun x => quadOfVlc x.vlcNo == q)).map (fun x => (x.ctx.agent, l.vi, l.seq)))
  let s2 := saved.foldl (fun s x => loseContext x.1 x.2.1 x.2.2 s) (here.foldl (fun s p => loseContext p.2.agent p.2.vi p.2.seq s) s1)
  -- iterations dealt to a slot of the quad and not begun are lost with it (log 44)
  let dealt := s2.launches.filter (fun l => (l.slots.mapIdx (fun j n => (j, n))).any (fun p =>
    quadOfVlc p.2 == q && slotState l p.1 == .waiting && (tget (0, 0) l.ranges p.1).1 < (tget (0, 0) l.ranges p.1).2))
  skipSlots q (dealt.foldl (fun s l => killLaunch l.vi l.seq { code := cUE_CONSUMED, cls := 3 } s) s2)

/-- QUAD_RETIRE (R413). -/
def execQuadRetire (quad : Nat) (s : State) : Result :=
  .next (if quad ≥ 48 || s.mgmt.retq.getLsbD quad then s else retireQuad quad s)

/-- Whether a frame is pinned: recorded so, or under a handle with NB = 1 (R412). -/
def isPinned (s : State) (f : Nat) : Bool := s.repair.pinned.contains f || nbMarked s f

/-- Number of the subarray that stores a frame. -/
def subarrayOf (s : State) (pa : Nat) : Nat := subarrayNo (realPa s pa)

/-- The frames of the enabled spare ranges (R412). -/
def spareFrames (spare : Tbl Word) : List Nat :=
  (spare.filter (fun p => bitN p.2.toNat 0)).flatMap (fun p => (upto (fld p.2.toNat 41 12)).map (fld p.2.toNat 21 20 + ·))

/-- The spare frames that hold no relocated frame, and may take one: of DRAM that is not retired, in a subarray with spare rows left. -/
def freeSpares (s : State) : List Nat :=
  (spareFrames s.mgmt.spare).filter (fun f => paDram (f * 2097152) && decide (paStack (f * 2097152) < 12) &&
    !s.repair.redirect.any (fun r => r.2 == f + 1) && !s.mgmt.retv.getLsbD (paMVault (f * 2097152)) &&
    decide (tget 0 s.repair.spareUsed (subarrayNo (f * 2097152)) < 8))

/-- Corrects the single errors of a frame as it is copied; uncorrectable words stay poisoned. -/
def correctFrame (f : Nat) (s : State) : State :=
  ((s.ecc.filter (fun p => p.1 / 262144 == f / 2097152 && p.2 == .single)).map Prod.fst).foldl (fun s w => noteCorrected (8 * w) (setEcc (8 * w) .good s)) s

/-- A frame is relocated: its PA is redirected to a spare frame (R412, EVT 3). -/
def moveFrame (f sp : Nat) (s : State) : State :=
  let s1 := correctFrame (f * 2097152) s
  elog 3 0 (paStack (f * 2097152)) (paVault (f * 2097152)) 0 (f * 2097152) 0
    { s1 with repair := { s1.repair with redirect := tset 0 s1.repair.redirect f (sp + 1) } }

/-- A frame is lost: the regions over it become SUSPECT (R414). -/
def loseFrame (f : Nat) (s : State) : State :=
  let pa := f * 2097152
  bump { s with
    repair := { s.repair with lost := if s.repair.lost.contains pa then s.repair.lost else s.repair.lost ++ [pa] },
    toks := s.toks.map (fun p => if p.2.kind == 1 && p.1 / 65536 == paStack pa && rangesMeet (p.2.base * 4096) (p.2.pages * 4096) pa 2097152 then
      (p.1, { p.2 with suspect := true, since := s.nextId }) else p) }

/-- A frame that must leave its storage: relocated when it is not pinned and a spare is given, and otherwise lost (R412). -/
def leaveFrame (f : Nat) (sp : Option Nat) (s : State) : State :=
  match isPinned s (f * 2097152), sp with
  | false, some x => moveFrame f x s
  | _, _ => loseFrame f s

/-- FRAME_RELOCATE: the frame of number `frame`, whose subarray has used its spare rows, leaves for the spare frame `spare`, or is lost where it is pinned or
there is none; it waits for commands in its die region (R392, R412). -/
def execFrameRelocate (frame : Nat) (spare : Nat) (s : State) : Result :=
  .next (
    let pa := frame * 2097152
    if !paDram pa || paStack pa ≥ 12 || inSpare s pa 2097152 || isLost s pa || (cmdOver s pa).isSome || tget 0 s.repair.spareUsed (subarrayOf s pa) < 8 then s
    else if (freeSpares s).contains spare then leaveFrame frame (some spare) s
    else if isPinned s pa || (freeSpares s).isEmpty then leaveFrame frame none s
    else s)

/-- The frames that a vault stores: those of its own that are no spare and have not been relocated, and those relocated into it. -/
def storedIn (s : State) (vault : Nat) : List Nat :=
  let own := ((upto 3072).map (fun i => vaultPa vault 0 / 2097152 + i)).filter (fun f =>
    tget 0 s.repair.redirect f == 0 && !inSpare s (f * 2097152) 2097152)
  (own ++ (s.repair.redirect.filter (fun p => p.2 != 0 && paMVault ((p.2 - 1) * 2097152) == vault)).map Prod.fst).filter (fun f => !isLost s (f * 2097152))

/-- VAULT_RETIRE: the DRAM of a vault is retired, which the boot flash keeps; frame by frame it is relocated or lost (R414). -/
def execVaultRetire (vault : Nat) (s : State) : Result :=
  .next (
    if vault ≥ 192 || s.mgmt.retv.getLsbD vault then s
    else
      let s1 := elog 4 0 (vault / 16) (vault % 16) 0 vault 0 { s with
        mgmt := { s.mgmt with retv := s.mgmt.retv ||| BitVec.ofNat 192 (2 ^ vault) },
        plat := { s.plat with flashRetv := s.plat.flashRetv ||| BitVec.ofNat 192 (2 ^ vault) } }
      (storedIn s1 vault).foldl (fun s f => leaveFrame f (freeSpares s).head? s) s1)

/-! ### Rows (R390, R392) -/

/-- Whether the banks of a die region are free for the device's own work: at a boundary of the command that holds them, or with no command and no refresh under
way or owed. -/
def regionIdle (s : State) (pa : Nat) : Bool := match cmdOver s pa with | some c => c.boundary | none => banksIdle s pa

/-- The banks of a die region are held for 2 rc, 165 cycles (R22, R392). -/
def holdRegion (pa : Nat) (s : State) : State :=
  match cmdOver s pa with
  | some c => updCmd c.id (fun c => { c with rc := c.rc + 2 }) s
  | none => { s with repair := { s.repair with busy := (frameBanks s pa).foldl (fun t b => tset 0 t b (s.cyc + 165)) s.repair.busy } }

/-- ROW_SPARE: a row with four corrected errors within 24 hours, or an uncorrectable one for which it has not been spared, is copied to a spare row, while its
subarray has one left (R392, EVT 2): the row's banks are held for 2 rc. `row` is PA ÷ 8,192. -/
def execRowSpare (row : Nat) (s : State) : Result :=
  .next (
    let pa := row * 8192
    let k := subarrayOf s pa
    let due := (tget [] s.repair.ceRow row).length ≥ 4 || (!(badWords s pa).isEmpty && !s.repair.spared.contains row)
    if !paDram pa || !due || tget 0 s.repair.spareUsed k ≥ 8 || !regionIdle s pa then s
    else
      let s1 := holdRegion pa (if rowUnsealed s pa then s else correctRow pa s)
      elog 2 0 (paStack pa) (paVault pa) 0 pa 0 { s1 with
        repair := { s1.repair with
                    ceRow := tset [] s1.repair.ceRow row [], spareUsed := tupd 0 s1.repair.spareUsed k (· + 1),
                    spared := if (badWords s pa).isEmpty || s1.repair.spared.contains row then s1.repair.spared else s1.repair.spared ++ [row] } })

/-- PATROL_SCRUB: a sealed row is read in an idle slot: single errors are corrected and counted, others logged (R390, R391). -/
def execPatrolScrub (row : Nat) (s : State) : Result :=
  .next (
    let pa := row * 8192
    if !paDram pa || rowUnsealed s pa || (cmdOver s pa).isSome then s
    else
      let s1 := correctRow pa s
      logBad pa 0 s1)

/-! ### Scan tests (R385) -/

/-- The next quad from `q` on that is not retired. -/
def nextQuad (s : State) (q : Nat) : Nat := (((upto 48).map (fun i => (q + i) % 48)).find? (fun i => !s.mgmt.retq.getLsbD i)).getD q

/-- SCAN_TEST: a test that is due begins at the first tick from then on: the contexts of the quad are pre-empted (R385 step 1). -/
def execScanTest (s : State) : Result :=
  .next (
    let q := nextQuad s s.mgmt.nextq
    if !s.plat.service || s.plat.stopped || !s.mgmt.scanEn || s.mgmt.scan.isSome || s.sched.lastTick * 33000 < s.mgmt.scanDue || closed s || s.mgmt.retq.getLsbD q then s
    else
      let ns := (s.vlcs.filter (fun p => quadOfVlc p.1 == q && p.2.status == .running)).map Prod.fst
      ns.foldl (fun s n => beginDrain n s) { s with mgmt := { s.mgmt with scan := some q, nextq := q } })

/-- Whether the quad under test holds no context and its engine has nothing accepted. -/
def scanReady (s : State) (q : Nat) : Bool :=
  !s.vlcs.any (fun p => quadOfVlc p.1 == q && p.2.status != .free) && !s.ops.any (fun o => o.quad == q && o.accepted)

/-- SCAN_TEST_END: SCANLOG is written, NEXTQ advances, and a quad that failed is retired (R384, R385, R413). -/
def execScanTestEnd (pass : Bool) (s : State) : Result :=
  .next (match s.mgmt.scan with
    | none => s
    | some q =>
      if !scanReady s q then s
      else
        let s1 := { s with mgmt := { s.mgmt with
                                     scan := none, scanlog := wN (q + (if pass then 1 else 2) * 64 + s.cyc % 2 ^ 56 * 256),
                                     scanDue := nextScan s } }
        let s2 := if pass then s1 else retireQuad q s1
        { s2 with mgmt := { s2.mgmt with nextq := nextQuad s2 ((q + 1) % 48) } })

/-! ### Checkpoint and restore (R408 to R411) -/

/-- The targets that are enabled, with MOD and BASE (R410). -/
def enabledTargets (s : State) : List (Nat × Nat × Nat) :=
  ((upto 28).filter (fun t => bitN (tget 0 s.mgmt.cktgt (2 * t)).toNat 0)).map (fun t =>
    (t, fld (tget 0 s.mgmt.cktgt (2 * t)).toNat 1 10, (tget 0 s.mgmt.cktgt (2 * t + 1)).toNat))

/-- The images that lie at no target that is enabled: a checkpoint lays its own over the others. -/
def freePlaces (s : State) : List Stored := s.mgmt.stored.filter (fun x => !x.targets.any (fun t => (enabledTargets s).contains t))

/-- CHECKPOINT: GO with DIR = 0, in service mode: every context is pre-empted and nothing new is accepted (R409). -/
def execCheckpoint (v : Word) (s : State) : Result :=
  .next (
    if !bitN v.toNat 0 || bitN v.toNat 1 || !s.plat.service || s.plat.stopped || s.mgmt.ckstate == 1 then s
    else
      let s1 := { s with mgmt := { s.mgmt with ckstate := 1, ckcode := 0, ckdir := false, ckAt := s.cyc, ckQuiet := 0, stored := freePlaces s } }
      ((s1.vlcs.filter (fun p => p.2.status == .running)).map Prod.fst).foldl (fun s n => beginDrain n s) s1)

/-- Whether a checkpoint has quiesced: no context on a VLC, no operation, no running command, no unsealed row. -/
def quiesced (s : State) : Bool :=
  !s.vlcs.any (fun p => p.2.status != .free) && s.ops.isEmpty && !s.cmds.any (fun c => c.stage == .running) && s.vaults.all (fun p => p.2.unsealed.isEmpty)

/-- Whether quiescing has taken, or took, longer than 40 ms, 132,000,000 cycles (R22, R409). -/
def quiesceLate (s : State) : Bool := decide ((if s.mgmt.ckQuiet = 0 then s.cyc else s.mgmt.ckQuiet - 1) > s.mgmt.ckAt + 132000000)

/-- QUIESCE_TIMEOUT: quiescing took longer than 40 ms: PROMISE_MISSED, and service resumes (R409). -/
def execQuiesceTimeout (s : State) : Result :=
  .next (
    if !closed s || !quiesceLate s then s
    else { s with mgmt := { s.mgmt with ckstate := 3, ckcode := cPROMISE_MISSED } })

/-- The image of the module (R410). -/
def takeImage (s : State) : Image :=
  {
    mem := s.mem, ecc := s.ecc, tiles := s.tiles, toks := s.toks, hands := s.hands, stackTbl := s.stackTbl,
    lprs := s.vaults.foldl (fun t p => tset 2 t p.1 p.2.lpr) [], vis := s.vis, launches := s.launches, sched := s.sched,
    cyc := s.cyc, ser := s.mgmt.ckser, spare := s.mgmt.spare, retv := s.mgmt.retv, lost := s.repair.lost, redirect := s.repair.redirect,
    pinned := s.repair.pinned }

/-- Whether an image holds a record of a frame: its module stored it, being backed and not lost; in a retired vault, where it had been relocated (R27, R410,
R412, R414). -/
def Image.holds (m : Image) (f : Nat) : Bool :=
  let pa := f * 2097152
  paDram pa && decide (paStack pa < 12) && !(spareFrames m.spare).contains f && !m.lost.contains pa && (tget 0 m.redirect f != 0 || !m.retv.getLsbD (paMVault pa))

/-- Whether this module can hold every frame of which an image has a record: none is retired, spare or lost here (R411). -/
def imageFits (s : State) (m : Image) : Bool :=
  (spareFrames s.mgmt.spare ++ s.repair.lost.map (fun pa => pa / 2097152) ++ framesOf s.mgmt.retv).all (fun f => !m.holds f)

/-- The records of a stored image: each frame's 2 MiB of data behind its tag, and the tables (R410). -/
def Stored.records (x : Stored) : List (List Byte) :=
  let frames := ((upto 12).flatMap (fun k => (upto 49152).map (fun i => k * 65536 + i))).filter x.image.holds
  frames.map (fun f =>
    let data := (upto 2097152).map (fun i => mget x.image.mem (f * 2097152 + i))
    wordBytes 64 (Config.ckTag (f * 2097152) (Config.sha3 data)).toNat ++ data) ++ Config.ckTables x.use

/-- The records dealt to a target, as they follow one another from its BASE on (R410). -/
def Stored.dealt (x : Stored) (j : Nat) : List Byte :=
  (x.records.zipIdx.filter (fun r => Config.ckDeal x.use r.2 x.targets.length % x.targets.length == j)).flatMap Prod.fst

/-- A run of bytes as requests of at most 256 bytes from an address on. -/
def pieces (a : Nat) (b : List Byte) : List (Nat × List Byte) :=
  (upto ((b.length + 255) / 256)).map (fun i => (a + 256 * i, (b.drop (256 * i)).take 256))

/-- The Memory Write requests that place a stored image, or the Memory Read requests that fetch it, at the target in place `j` of its list, by address; on a CXL port
they go out under the physical function's requester ID, function 0 (R319, R410). -/
def Stored.requests (x : Stored) (j : Nat) : List (Nat × List Byte) :=
  let base := (x.targets.getD j (0, 0, 0)).2.2
  let h := Config.ckHeaderAt x.use
  pieces base (x.dealt j) ++ (if h.1 % x.targets.length == j then pieces (base + h.2) (Config.ckHeader x.image.ser x.image.cyc) else [])

/-- An image is written to its targets, or read from them: each of its requests is made (R410, R411). -/
def transfer (write : Bool) (x : Stored) (s : State) : State := { s with out := { s.out with transfers := s.out.transfers ++ [(write, x)] } }

/-- The enabled targets whose link is up; the CXL ports are up where `lost` does not say otherwise (R407, R410). -/
def workingTargets (lost : Bool) (s : State) : List (Nat × Nat × Nat) :=
  (enabledTargets s).filter (fun t => if t.1 < 24 then s.fabric.linkup.getLsbD t.1 else !lost)

/-- CHECKPOINT_DONE: a module that quiesced in time has streamed its image to the targets that work, and closed it; with none left it fails with FABRIC. `lost`
says that the CXL ports have failed (R409, R410, EVT 12). -/
def execCheckpointDone (lost : Bool) (s : State) : Result :=
  .next (
    if !closed s || !quiesced s || quiesceLate s then s
    else match workingTargets lost s with
      | [] => { s with mgmt := { s.mgmt with ckstate := 3, ckcode := cFABRIC } }
      | ts =>
        let x : Stored := { image := takeImage s, targets := ts, use := s.fresh }
        transfer true x (elog 12 0 0 0 0 0 0 { s with fresh := s.fresh + 1, mgmt := { s.mgmt with ckstate := 2, stored := freePlaces s ++ [x] } }))

/-- RESTORE: GO with DIR = 1, in mailbox mode after the resident program has ended (R408, R411). -/
def execRestore (v : Word) (s : State) : Result :=
  .next (
    if !bitN v.toNat 0 || !bitN v.toNat 1 || s.plat.service || s.plat.stopped || !s.plat.resDone || s.mgmt.ckstate == 1 then s
    else { s with mgmt := { s.mgmt with ckstate := 1, ckcode := 0, ckdir := true, ckAt := s.cyc } })

/-- A failed restore: DRAM holds anything, and the module stays in mailbox mode. -/
def failRestore (code : Nat) (s : State) : State :=
  { s with mem := freeOver (fun a => paDram a && decide (paStack a < 12)) s, fresh := s.fresh + 1, mgmt := { s.mgmt with ckstate := 3, ckcode := code } }

/-- The image that the enabled targets hold: the last that was written whose targets are all enabled, at the MOD and BASE at which it lies (R411). -/
def imageAt (s : State) : Option Stored := s.mgmt.stored.reverse.find? (fun x => x.targets.all (fun t => (enabledTargets s).contains t))

/-- The module takes the state of an image (R411). -/
def takeState (m : Image) (s : State) : State :=
  let now := max s.cyc m.cyc
  {
    s with
    mem := m.mem, ecc := m.ecc, tiles := m.tiles, toks := m.toks, hands := m.hands, stackTbl := m.stackTbl, vis := m.vis, launches := m.launches,
    vaults := m.lprs.foldl (fun t p => tset {} t p.1 { lpr := p.2 }) [], cyc := now, tlb := [],
    sched := { m.sched with active := s.sched.active, failed := s.sched.failed, standby := s.sched.standby },
    repair := { s.repair with pinned := m.pinned },
    plat := { s.plat with service := true, err := false },
    mgmt := { s.mgmt with ckstate := 2, scanFrom := now, scanDue := now + s.mgmt.scanInt * 3300000000 } }

/-- RESTORE_DONE: the image is read back and every digest checked; `bad` says that one does not match, as where no image lies at the targets. A PA that this module
cannot hold fails it with TRANSLATION. On success the module is in service mode with the image's state (R411, EVT 13). -/
def execRestoreDone (bad : Bool) (s : State) : Result :=
  .next (
    if s.mgmt.ckstate ≠ 1 ∨ s.mgmt.ckdir = false then s
    else match imageAt s with
      | none => failRestore cUE_CONSUMED s
      | some x =>
        let s1 := transfer false x s
        if bad then failRestore cUE_CONSUMED s1
        else if !imageFits s1 x.image then failRestore cTRANSLATION s1
        else elog 13 0 0 0 0 0 0 (remeasure (takeState x.image s1)))

/-! ### Failed schedulers (R415, R416) -/

/-- The active scheduler, or the standby, fails: the standby takes over in its own step, and with no other the module stops (R415, R416;
log 77). -/
def schedFails (standby : Bool) (s : State) : State :=
  if s.plat.stopped then s
  else if s.sched.failed || !s.sched.standby then stopModule s
  else if standby then { s with sched := { s.sched with standby := false } }
  else { s with sched := { s.sched with failed := true } }

end Sys2Proof.Machine
end

