-- ==== Sys2Proof/Machine/Integer.lean ====
section
/-! DEFINITION. The integer and multiply groups and the immediate forms (R177 to R182). -/
namespace Sys2Proof.Machine

/-- A bit-field extract (R182). -/
def bitExtract (a : Word) (o w : Nat) : Word := if w = 0 ∨ o ≥ 64 then 0 else wN (fld a.toNat o (min w (64 - o)))

/-- A bit-field insert into `d` (R182). -/
def bitInsert (d a : Word) (o w : Nat) : Word := if w = 0 ∨ o ≥ 64 then d else wN (putFld d.toNat o (min w (64 - o)) a.toNat)

/-- Zeros above the highest 1 bit; 64 for 0 (R177). -/
def clz64 (a : Word) : Word := if a = 0 then 64 else wN (63 - log2N a.toNat)

/-- Zeros below the lowest 1 bit; 64 for 0 (R177). -/
def ctz64 (a : Word) : Word := match firstOf (upto 64) (fun i => bitN a.toNat i) with | some i => wN i | none => 64

/-- Number of 1 bits (R177). -/
def popc64 (a : Word) : Word := wN (popN a.toNat 64)

/-- Shifts and rotates by the low 6 bits of the amount (R177). -/
def sllW (a b : Word) : Word := a <<< (b.toNat % 64)
def srlW (a b : Word) : Word := a >>> (b.toNat % 64)
def sraW (a b : Word) : Word := a.sshiftRight (b.toNat % 64)
def rotlW (a b : Word) : Word := a.rotateLeft (b.toNat % 64)
def rotrW (a b : Word) : Word := a.rotateRight (b.toNat % 64)

/-- A truth value as a register value. -/
def boolW (b : Bool) : Word := if b then 1 else 0

/-- `add` (R177). -/
def execAdd (o : RRop) (s : State) : Result := .next (rrExec o (fun a b => a + b) s)

/-- `sub` (R177). -/
def execSub (o : RRop) (s : State) : Result := .next (rrExec o (fun a b => a - b) s)

/-- `and` (R177). -/
def execAnd (o : RRop) (s : State) : Result := .next (rrExec o (fun a b => a &&& b) s)

/-- `or` (R177). -/
def execOr (o : RRop) (s : State) : Result := .next (rrExec o (fun a b => a ||| b) s)

/-- `xor` (R177). -/
def execXor (o : RRop) (s : State) : Result := .next (rrExec o (fun a b => a ^^^ b) s)

/-- `andn` (R177). -/
def execAndn (o : RRop) (s : State) : Result := .next (rrExec o (fun a b => a &&& ~~~b) s)

/-- `orn` (R177). -/
def execOrn (o : RRop) (s : State) : Result := .next (rrExec o (fun a b => a ||| ~~~b) s)

/-- `sll` (R177). -/
def execSll (o : RRop) (s : State) : Result := .next (rrExec o (fun a b => sllW a b) s)

/-- `srl` (R177). -/
def execSrl (o : RRop) (s : State) : Result := .next (rrExec o (fun a b => srlW a b) s)

/-- `sra` (R177). -/
def execSra (o : RRop) (s : State) : Result := .next (rrExec o (fun a b => sraW a b) s)

/-- `rotl` (R177). -/
def execRotl (o : RRop) (s : State) : Result := .next (rrExec o (fun a b => rotlW a b) s)

/-- `rotr` (R177). -/
def execRotr (o : RRop) (s : State) : Result := .next (rrExec o (fun a b => rotrW a b) s)

/-- `min` (R177). -/
def execMin (o : RRop) (s : State) : Result := .next (rrExec o (fun a b => if a.toInt ≤ b.toInt then a else b) s)

/-- `max` (R177). -/
def execMax (o : RRop) (s : State) : Result := .next (rrExec o (fun a b => if a.toInt ≥ b.toInt then a else b) s)

/-- `minn` (R177). -/
def execMinn (o : RRop) (s : State) : Result := .next (rrExec o (fun a b => if a.toNat ≤ b.toNat then a else b) s)

/-- `maxn` (R177). -/
def execMaxn (o : RRop) (s : State) : Result := .next (rrExec o (fun a b => if a.toNat ≥ b.toNat then a else b) s)

/-- `slt` (R177). -/
def execSlt (o : RRop) (s : State) : Result := .next (rrExec o (fun a b => boolW (a.toInt < b.toInt)) s)

/-- `sltn` (R177). -/
def execSltn (o : RRop) (s : State) : Result := .next (rrExec o (fun a b => boolW (a.toNat < b.toNat)) s)

/-- `bext` (R182). -/
def execBext (o : RRop) (s : State) : Result := .next (rrExec o (fun a b => bitExtract a (b.toNat % 256) (b.toNat / 256 % 256)) s)

/-- `mul` (R178). -/
def execMul (o : RRop) (s : State) : Result := .next (rrExec o (fun a b => wI (a.toInt * b.toInt)) s)

/-- `mulh` (R178). -/
def execMulh (o : RRop) (s : State) : Result := .next (rrExec o (fun a b => wI (a.toInt * b.toInt / 18446744073709551616)) s)

/-- `mulhn` (R178). -/
def execMulhn (o : RRop) (s : State) : Result := .next (rrExec o (fun a b => wN (a.toNat * b.toNat / 18446744073709551616)) s)

/-- `div` (R178). -/
def execDiv (o : RRop) (s : State) : Result := .next (rrExec o (fun a b => wI (divT a.toInt b.toInt)) s)

/-- `divn` (R178). -/
def execDivn (o : RRop) (s : State) : Result := .next (rrExec o (fun a b => if b = 0 then wI (-1) else wN (a.toNat / b.toNat)) s)

/-- `rem` (R178). -/
def execRem (o : RRop) (s : State) : Result := .next (rrExec o (fun a b => wI (remT a.toInt b.toInt)) s)

/-- `remn` (R178). -/
def execRemn (o : RRop) (s : State) : Result := .next (rrExec o (fun a b => if b = 0 then a else wN (a.toNat % b.toNat)) s)

/-- `bins` reads xd as a source (R182). -/
def execBins (o : RRop) (s : State) : Result :=
  .next (issue noIll [(o.a.toNat, o.fa), (o.b.toNat, o.fb), (o.d.toNat, false)] o.d.toNat (fun s =>
    let b := (s.me.rx o.b.toNat).toNat
    finishX o.d.toNat (bitInsert (s.me.rx o.d.toNat) (s.me.rx o.a.toNat) (b % 256) (b / 256 % 256)) s) s)

/-- `clz` (R177). -/
def execClz (o : RAop) (s : State) : Result := .next (raExec o clz64 s)

/-- `ctz` (R177). -/
def execCtz (o : RAop) (s : State) : Result := .next (raExec o ctz64 s)

/-- `popc` (R177). -/
def execPopc (o : RAop) (s : State) : Result := .next (raExec o popc64 s)

/-- `addi` (R179). -/
def execAddi (o : RIop) (s : State) : Result := .next (riExec o (fun a i => a + immS i) s)

/-- `andi` (R179). -/
def execAndi (o : RIop) (s : State) : Result := .next (riExec o (fun a i => a &&& immZ i) s)

/-- `ori` (R179). -/
def execOri (o : RIop) (s : State) : Result := .next (riExec o (fun a i => a ||| immZ i) s)

/-- `xori` (R179). -/
def execXori (o : RIop) (s : State) : Result := .next (riExec o (fun a i => a ^^^ immZ i) s)

/-- `slti` (R179). -/
def execSlti (o : RIop) (s : State) : Result := .next (riExec o (fun a i => boolW (a.toInt < (immS i).toInt)) s)

/-- `sltni` (R179). -/
def execSltni (o : RIop) (s : State) : Result := .next (riExec o (fun a i => boolW (a.toNat < (immS i).toNat)) s)

/-- `slli` (R179, R181). -/
def execSlli (o : SHop) (s : State) : Result :=
  .next (issue noIll [(o.a.toNat, false)] o.d.toNat (fun s => finishX o.d.toNat (sllW (s.me.rx o.a.toNat) (wN o.sh.toNat)) s) s)

/-- `srli` (R179, R181). -/
def execSrli (o : SHop) (s : State) : Result :=
  .next (issue noIll [(o.a.toNat, false)] o.d.toNat (fun s => finishX o.d.toNat (srlW (s.me.rx o.a.toNat) (wN o.sh.toNat)) s) s)

/-- `srai` (R179, R181). -/
def execSrai (o : SHop) (s : State) : Result :=
  .next (issue noIll [(o.a.toNat, false)] o.d.toNat (fun s => finishX o.d.toNat (sraW (s.me.rx o.a.toNat) (wN o.sh.toNat)) s) s)

/-- `ldhi` (R179). -/
def execLdhi (o : RDIop) (s : State) : Result :=
  .next (issue noIll [] o.d.toNat (fun s => finishX o.d.toNat (wI (sx 32 (o.i.toNat * 65536))) s) s)

/-- `addpc` (R179, R180). -/
def execAddpc (o : RDIop) (s : State) : Result :=
  .next (issue noIll [] o.d.toNat (fun s => finishX o.d.toNat (s.me.pc + wI (o.i.toInt * 65536)) s) s)

/-- `bexti` (R179, R182). -/
def execBexti (o : BFop) (s : State) : Result :=
  .next (issue noIll [(o.a.toNat, false)] o.d.toNat (fun s =>
    finishX o.d.toNat (bitExtract (s.me.rx o.a.toNat) o.off.toNat o.wid.toNat) s) s)

/-- `binsi` reads xd as a source (R179, R182). -/
def execBinsi (o : BFop) (s : State) : Result :=
  .next (issue noIll [(o.a.toNat, false), (o.d.toNat, false)] o.d.toNat (fun s =>
    finishX o.d.toNat (bitInsert (s.me.rx o.d.toNat) (s.me.rx o.a.toNat) o.off.toNat o.wid.toNat) s) s)

end Sys2Proof.Machine
end

