-- ==== Sys2Proof/Machine/Dispatch.lean ====
section
/-! DEFINITION. The dispatch: one arm per constructor of Instr. -/
namespace Sys2Proof.Machine

def exec (i : Instr) (s : State) : Host.Outcome State Fault Refusal :=
  match i with
  | .lpktLatch vi fab off bytes => Sys2Proof.Machine.execLpktLatch vi fab off bytes s
  | .launchSubmit vi fab w => Sys2Proof.Machine.execLaunchSubmit vi fab w s
  | .rcptRead vi fab => Sys2Proof.Machine.execRcptRead vi fab s
  | .trootWrite vi v => Sys2Proof.Machine.execTrootWrite vi v s
  | .tinvWrite vi v => Sys2Proof.Machine.execTinvWrite vi v s
  | .tinvComplete vi => Sys2Proof.Machine.execTinvComplete vi s
  | .tsyncRead vi => Sys2Proof.Machine.execTsyncRead vi s
  | .handleCommit vi v => Sys2Proof.Machine.execHandleCommit vi v s
  | .handleFetch vi v => Sys2Proof.Machine.execHandleFetch vi v s
  | .give vi v => Sys2Proof.Machine.execGive vi v s
  | .home vi v => Sys2Proof.Machine.execHome vi v s
  | .unhome vi v => Sys2Proof.Machine.execUnhome vi v s
  | .carve v => Sys2Proof.Machine.execCarve v s
  | .carveDelete v => Sys2Proof.Machine.execCarveDelete v s
  | .vschedWrite vi v => Sys2Proof.Machine.execVschedWrite vi v s
  | .hdmbWrite n v => Sys2Proof.Machine.execHdmbWrite n v s
  | .modidWrite v => Sys2Proof.Machine.execModidWrite v s
  | .routeWrite m v => Sys2Proof.Machine.execRouteWrite m v s
  | .mrootWrite v => Sys2Proof.Machine.execMrootWrite v s
  | .serviceModeRequest v => Sys2Proof.Machine.execServiceModeRequest v s
  | .svnRaise v => Sys2Proof.Machine.execSvnRaise v s
  | .svnFuseDone => Sys2Proof.Machine.execSvnFuseDone s
  | .scanctlWrite v => Sys2Proof.Machine.execScanctlWrite v s
  | .cestatWrite n hi => Sys2Proof.Machine.execCestatWrite n hi s
  | .spareWrite n v => Sys2Proof.Machine.execSpareWrite n v s
  | .checkpoint v => Sys2Proof.Machine.execCheckpoint v s
  | .quiesceTimeout => Sys2Proof.Machine.execQuiesceTimeout s
  | .checkpointDone lost => Sys2Proof.Machine.execCheckpointDone lost s
  | .restore v => Sys2Proof.Machine.execRestore v s
  | .restoreDone bad => Sys2Proof.Machine.execRestoreDone bad s
  | .registerWrite mgmt vi off v => Sys2Proof.Machine.execRegisterWrite mgmt vi off v s
  | .getVersion port => Sys2Proof.Machine.execGetVersion port s
  | .getCapabilities port => Sys2Proof.Machine.execGetCapabilities port s
  | .negotiateAlgorithms port => Sys2Proof.Machine.execNegotiateAlgorithms port s
  | .getDigests port => Sys2Proof.Machine.execGetDigests port s
  | .getCertificate port => Sys2Proof.Machine.execGetCertificate port s
  | .challenge port => Sys2Proof.Machine.execChallenge port s
  | .getMeasurements port => Sys2Proof.Machine.execGetMeasurements port s
  | .unsupportedRequest port => Sys2Proof.Machine.execUnsupportedRequest port s
  | .hostMemRead dec off size tag => Sys2Proof.Machine.execHostMemRead dec off size tag s
  | .hostMemWrite dec off bytes tag => Sys2Proof.Machine.execHostMemWrite dec off bytes tag s
  | .remoteAccessRequest r => Sys2Proof.Machine.execRemoteAccessRequest r s
  | .remoteCopyCheck r => Sys2Proof.Machine.execRemoteCopyCheck r s
  | .remoteCopyWrite r => Sys2Proof.Machine.execRemoteCopyWrite r s
  | .flitCrcFail link => Sys2Proof.Machine.execFlitCrcFail link s
  | .linkRetrain link ok => Sys2Proof.Machine.execLinkRetrain link ok s
  | .moduleUnreachable m => Sys2Proof.Machine.execModuleUnreachable m s
  | .remotePromiseMissed n => Sys2Proof.Machine.execRemotePromiseMissed n s
  | .schedulerTick => Sys2Proof.Machine.execSchedulerTick s
  | .place quad => Sys2Proof.Machine.execPlace quad s
  | .lockGroupTake vlc => Sys2Proof.Machine.execLockGroupTake vlc s
  | .preempt quad => Sys2Proof.Machine.execPreempt quad s
  | .preemptionComplete vlc => Sys2Proof.Machine.execPreemptionComplete vlc s
  | .preload quad => Sys2Proof.Machine.execPreload quad s
  | .dealreq quad => Sys2Proof.Machine.execDealreq quad s
  | .stealreq quad => Sys2Proof.Machine.execStealreq quad s
  | .deal quad => Sys2Proof.Machine.execDeal quad s
  | .done quad => Sys2Proof.Machine.execDone quad s
  | .cost quad => Sys2Proof.Machine.execCost quad s
  | .cmdAck quad up => Sys2Proof.Machine.execCmdAck quad up s
  | .launchComplete vi seq => Sys2Proof.Machine.execLaunchComplete vi seq s
  | .schedulerFailover => Sys2Proof.Machine.execSchedulerFailover s
  | .moduleStop => Sys2Proof.Machine.execModuleStop s
  | .powerWindow stack mw => Sys2Proof.Machine.execPowerWindow stack mw s
  | .dramOver85c stack => Sys2Proof.Machine.execDramOver85c stack s
  | .thermalShutdown => Sys2Proof.Machine.execThermalShutdown s
  | .resetRelease => Sys2Proof.Machine.execResetRelease s
  | .functionLevelReset vi => Sys2Proof.Machine.execFunctionLevelReset vi s
  | .cxlLinkLoss port => Sys2Proof.Machine.execCxlLinkLoss port s
  | .reclamation agent => Sys2Proof.Machine.execReclamation agent s
  | .quadRetire quad => Sys2Proof.Machine.execQuadRetire quad s
  | .vaultRetire vault => Sys2Proof.Machine.execVaultRetire vault s
  | .frameRelocate frame spare => Sys2Proof.Machine.execFrameRelocate frame spare s
  | .rowSpare row => Sys2Proof.Machine.execRowSpare row s
  | .patrolScrub row => Sys2Proof.Machine.execPatrolScrub row s
  | .refreshDue bank => Sys2Proof.Machine.execRefreshDue bank s
  | .autoSeal frame => Sys2Proof.Machine.execAutoSeal frame s
  | .scanTest => Sys2Proof.Machine.execScanTest s
  | .scanTestEnd pass => Sys2Proof.Machine.execScanTestEnd pass s
  | .targetAccess n => Sys2Proof.Machine.execTargetAccess n s
  | .registerFill n => Sys2Proof.Machine.execRegisterFill n s
  | .homeAtomic n => Sys2Proof.Machine.execHomeAtomic n s
  | .homeBarInit n => Sys2Proof.Machine.execHomeBarInit n s
  | .homeCredit op => Sys2Proof.Machine.execHomeCredit op s
  | .homeDebit n => Sys2Proof.Machine.execHomeDebit n s
  | .homeWait n => Sys2Proof.Machine.execHomeWait n s
  | .laneGrant core => Sys2Proof.Machine.execLaneGrant core s
  | .claimGrant vault => Sys2Proof.Machine.execClaimGrant vault s
  | .sleepcExpiry vlc => Sys2Proof.Machine.execSleepcExpiry vlc s
  | .wfeTimeout vlc => Sys2Proof.Machine.execWfeTimeout vlc s
  | .trapEntry vlc => Sys2Proof.Machine.execTrapEntry vlc s
  | .leaseExpiry n => Sys2Proof.Machine.execLeaseExpiry n s
  | .lockGrant n => Sys2Proof.Machine.execLockGrant n s
  | .sequencerTurn stack thread => Sys2Proof.Machine.execSequencerTurn stack thread s
  | .quantumBoundary cmd => Sys2Proof.Machine.execQuantumBoundary cmd s
  | .commandResponse cmd => Sys2Proof.Machine.execCommandResponse cmd s
  | .slotLoadDone cmd => Sys2Proof.Machine.execSlotLoadDone cmd s
  | .slotInvalidateDone cmd => Sys2Proof.Machine.execSlotInvalidateDone cmd s
  | .copyAccept op => Sys2Proof.Machine.execCopyAccept op s
  | .chunkDebit op k => Sys2Proof.Machine.execChunkDebit op k s
  | .operationComplete op => Sys2Proof.Machine.execOperationComplete op s
  | .drainEnd vlc => Sys2Proof.Machine.execDrainEnd vlc s
  | .tokenOpComplete vlc => Sys2Proof.Machine.execTokenOpComplete vlc s
  | .recheck vault outcome => Sys2Proof.Machine.execRecheck vault outcome s
  | .stripRewind vlc => Sys2Proof.Machine.execStripRewind vlc s
  | .add o => Sys2Proof.Machine.execAdd o s
  | .sub o => Sys2Proof.Machine.execSub o s
  | .and o => Sys2Proof.Machine.execAnd o s
  | .or o => Sys2Proof.Machine.execOr o s
  | .xor o => Sys2Proof.Machine.execXor o s
  | .andn o => Sys2Proof.Machine.execAndn o s
  | .orn o => Sys2Proof.Machine.execOrn o s
  | .sll o => Sys2Proof.Machine.execSll o s
  | .srl o => Sys2Proof.Machine.execSrl o s
  | .sra o => Sys2Proof.Machine.execSra o s
  | .rotl o => Sys2Proof.Machine.execRotl o s
  | .rotr o => Sys2Proof.Machine.execRotr o s
  | .min o => Sys2Proof.Machine.execMin o s
  | .max o => Sys2Proof.Machine.execMax o s
  | .minn o => Sys2Proof.Machine.execMinn o s
  | .maxn o => Sys2Proof.Machine.execMaxn o s
  | .slt o => Sys2Proof.Machine.execSlt o s
  | .sltn o => Sys2Proof.Machine.execSltn o s
  | .clz o => Sys2Proof.Machine.execClz o s
  | .ctz o => Sys2Proof.Machine.execCtz o s
  | .popc o => Sys2Proof.Machine.execPopc o s
  | .bext o => Sys2Proof.Machine.execBext o s
  | .bins o => Sys2Proof.Machine.execBins o s
  | .mul o => Sys2Proof.Machine.execMul o s
  | .mulh o => Sys2Proof.Machine.execMulh o s
  | .mulhn o => Sys2Proof.Machine.execMulhn o s
  | .div o => Sys2Proof.Machine.execDiv o s
  | .divn o => Sys2Proof.Machine.execDivn o s
  | .rem o => Sys2Proof.Machine.execRem o s
  | .remn o => Sys2Proof.Machine.execRemn o s
  | .addi o => Sys2Proof.Machine.execAddi o s
  | .andi o => Sys2Proof.Machine.execAndi o s
  | .ori o => Sys2Proof.Machine.execOri o s
  | .xori o => Sys2Proof.Machine.execXori o s
  | .slti o => Sys2Proof.Machine.execSlti o s
  | .sltni o => Sys2Proof.Machine.execSltni o s
  | .slli o => Sys2Proof.Machine.execSlli o s
  | .srli o => Sys2Proof.Machine.execSrli o s
  | .srai o => Sys2Proof.Machine.execSrai o s
  | .ldhi o => Sys2Proof.Machine.execLdhi o s
  | .addpc o => Sys2Proof.Machine.execAddpc o s
  | .bexti o => Sys2Proof.Machine.execBexti o s
  | .binsi o => Sys2Proof.Machine.execBinsi o s
  | .jalr o => Sys2Proof.Machine.execJalr o s
  | .jal off => Sys2Proof.Machine.execJal off s
  | .beq o => Sys2Proof.Machine.execBeq o s
  | .bne o => Sys2Proof.Machine.execBne o s
  | .blt o => Sys2Proof.Machine.execBlt o s
  | .bltn o => Sys2Proof.Machine.execBltn o s
  | .bge o => Sys2Proof.Machine.execBge o s
  | .bgen o => Sys2Proof.Machine.execBgen o s
  | .vstrip off => Sys2Proof.Machine.execVstrip off s
  | .vfetch off => Sys2Proof.Machine.execVfetch off s
  | .vfetchr a off => Sys2Proof.Machine.execVfetchr a off s
  | .ldbC o => Sys2Proof.Machine.execLdbC o s
  | .ldbnC o => Sys2Proof.Machine.execLdbnC o s
  | .ldhC o => Sys2Proof.Machine.execLdhC o s
  | .ldhnC o => Sys2Proof.Machine.execLdhnC o s
  | .ldwC o => Sys2Proof.Machine.execLdwC o s
  | .ldwnC o => Sys2Proof.Machine.execLdwnC o s
  | .lddC o => Sys2Proof.Machine.execLddC o s
  | .stbC o => Sys2Proof.Machine.execStbC o s
  | .sthC o => Sys2Proof.Machine.execSthC o s
  | .stwC o => Sys2Proof.Machine.execStwC o s
  | .stdC o => Sys2Proof.Machine.execStdC o s
  | .ldb o => Sys2Proof.Machine.execLdb o s
  | .ldbn o => Sys2Proof.Machine.execLdbn o s
  | .ldh o => Sys2Proof.Machine.execLdh o s
  | .ldhn o => Sys2Proof.Machine.execLdhn o s
  | .ldw o => Sys2Proof.Machine.execLdw o s
  | .ldwn o => Sys2Proof.Machine.execLdwn o s
  | .ldd o => Sys2Proof.Machine.execLdd o s
  | .stb o => Sys2Proof.Machine.execStb o s
  | .sth o => Sys2Proof.Machine.execSth o s
  | .stw o => Sys2Proof.Machine.execStw o s
  | .std o => Sys2Proof.Machine.execStd o s
  | .aaddWC o => Sys2Proof.Machine.execAaddWC o s
  | .aandWC o => Sys2Proof.Machine.execAandWC o s
  | .aorWC o => Sys2Proof.Machine.execAorWC o s
  | .axorWC o => Sys2Proof.Machine.execAxorWC o s
  | .aminWC o => Sys2Proof.Machine.execAminWC o s
  | .amaxWC o => Sys2Proof.Machine.execAmaxWC o s
  | .aswapWC o => Sys2Proof.Machine.execAswapWC o s
  | .acasWC o => Sys2Proof.Machine.execAcasWC o s
  | .aaddDC o => Sys2Proof.Machine.execAaddDC o s
  | .aandDC o => Sys2Proof.Machine.execAandDC o s
  | .aorDC o => Sys2Proof.Machine.execAorDC o s
  | .axorDC o => Sys2Proof.Machine.execAxorDC o s
  | .aminDC o => Sys2Proof.Machine.execAminDC o s
  | .amaxDC o => Sys2Proof.Machine.execAmaxDC o s
  | .aswapDC o => Sys2Proof.Machine.execAswapDC o s
  | .acasDC o => Sys2Proof.Machine.execAcasDC o s
  | .aaddW o => Sys2Proof.Machine.execAaddW o s
  | .aandW o => Sys2Proof.Machine.execAandW o s
  | .aorW o => Sys2Proof.Machine.execAorW o s
  | .axorW o => Sys2Proof.Machine.execAxorW o s
  | .aminW o => Sys2Proof.Machine.execAminW o s
  | .amaxW o => Sys2Proof.Machine.execAmaxW o s
  | .aswapW o => Sys2Proof.Machine.execAswapW o s
  | .acasW o => Sys2Proof.Machine.execAcasW o s
  | .aaddD o => Sys2Proof.Machine.execAaddD o s
  | .aandD o => Sys2Proof.Machine.execAandD o s
  | .aorD o => Sys2Proof.Machine.execAorD o s
  | .axorD o => Sys2Proof.Machine.execAxorD o s
  | .aminD o => Sys2Proof.Machine.execAminD o s
  | .amaxD o => Sys2Proof.Machine.execAmaxD o s
  | .aswapD o => Sys2Proof.Machine.execAswapD o s
  | .acasD o => Sys2Proof.Machine.execAcasD o s
  | .fenceC mask => Sys2Proof.Machine.execFenceC mask s
  | .fenceS sc => Sys2Proof.Machine.execFenceS sc s
  | .feSet d => Sys2Proof.Machine.execFeSet d s
  | .feClr d => Sys2Proof.Machine.execFeClr d s
  | .vsetl d sew grp => Sys2Proof.Machine.execVsetl d sew grp s
  | .vckm o => Sys2Proof.Machine.execVckm o s
  | .vrel => Sys2Proof.Machine.execVrel s
  | .cpy o => Sys2Proof.Machine.execCpy o s
  | .cpyg o => Sys2Proof.Machine.execCpyg o s
  | .cpyr o => Sys2Proof.Machine.execCpyr o s
  | .cpyk o => Sys2Proof.Machine.execCpyk o s
  | .wmark o => Sys2Proof.Machine.execWmark o s
  | .tmv o => Sys2Proof.Machine.execTmv o s
  | .tflip o => Sys2Proof.Machine.execTflip o s
  | .barInit o => Sys2Proof.Machine.execBarInit o s
  | .barArrive o => Sys2Proof.Machine.execBarArrive o s
  | .barWait o => Sys2Proof.Machine.execBarWait o s
  | .own o => Sys2Proof.Machine.execOwn o s
  | .lend o => Sys2Proof.Machine.execLend o s
  | .ret o => Sys2Proof.Machine.execRet o s
  | .split o => Sys2Proof.Machine.execSplit o s
  | .merge o => Sys2Proof.Machine.execMerge o s
  | .rshare o => Sys2Proof.Machine.execRshare o s
  | .rdrop o => Sys2Proof.Machine.execRdrop o s
  | .tq o => Sys2Proof.Machine.execTq o s
  | .bkx o => Sys2Proof.Machine.execBkx o s
  | .bkseal o => Sys2Proof.Machine.execBkseal o s
  | .bklock o => Sys2Proof.Machine.execBklock o s
  | .bkunlock a fa => Sys2Proof.Machine.execBkunlock a fa s
  | .bkfence => Sys2Proof.Machine.execBkfence s
  | .bkload o => Sys2Proof.Machine.execBkload o s
  | .bkinv o => Sys2Proof.Machine.execBkinv o s
  | .bkst o => Sys2Proof.Machine.execBkst o s
  | .bkclone o => Sys2Proof.Machine.execBkclone o s
  | .bkred o => Sys2Proof.Machine.execBkred o s
  | .csrr d n => Sys2Proof.Machine.execCsrr d n s
  | .csrw n a => Sys2Proof.Machine.execCsrw n a s
  | .csrs n a => Sys2Proof.Machine.execCsrs n a s
  | .csrc n a => Sys2Proof.Machine.execCsrc n a s
  | .trap code => Sys2Proof.Machine.execTrap code s
  | .tret => Sys2Proof.Machine.execTret s
  | .wfe t => Sys2Proof.Machine.execWfe t s
  | .sleepc a => Sys2Proof.Machine.execSleepc a s
  | .brk code => Sys2Proof.Machine.execBrk code s
  | .nop => Sys2Proof.Machine.execNop s
  | .fin => Sys2Proof.Machine.execFin s
  | .vstop => Sys2Proof.Machine.execVstop s
  | .vbrk code => Sys2Proof.Machine.execVbrk code s
  | .vaddVr o => Sys2Proof.Machine.execVaddVr o s
  | .vaddSc o => Sys2Proof.Machine.execVaddSc o s
  | .vaddIm o => Sys2Proof.Machine.execVaddIm o s
  | .vsubVr o => Sys2Proof.Machine.execVsubVr o s
  | .vsubSc o => Sys2Proof.Machine.execVsubSc o s
  | .vrsubSc o => Sys2Proof.Machine.execVrsubSc o s
  | .vrsubIm o => Sys2Proof.Machine.execVrsubIm o s
  | .vmulVr o => Sys2Proof.Machine.execVmulVr o s
  | .vmulSc o => Sys2Proof.Machine.execVmulSc o s
  | .vmulhVr o => Sys2Proof.Machine.execVmulhVr o s
  | .vmulhSc o => Sys2Proof.Machine.execVmulhSc o s
  | .vmulhnVr o => Sys2Proof.Machine.execVmulhnVr o s
  | .vmulhnSc o => Sys2Proof.Machine.execVmulhnSc o s
  | .vmaccVr o => Sys2Proof.Machine.execVmaccVr o s
  | .vmaccSc o => Sys2Proof.Machine.execVmaccSc o s
  | .vnmsacVr o => Sys2Proof.Machine.execVnmsacVr o s
  | .vnmsacSc o => Sys2Proof.Machine.execVnmsacSc o s
  | .vdivVr o => Sys2Proof.Machine.execVdivVr o s
  | .vdivSc o => Sys2Proof.Machine.execVdivSc o s
  | .vdivnVr o => Sys2Proof.Machine.execVdivnVr o s
  | .vdivnSc o => Sys2Proof.Machine.execVdivnSc o s
  | .vremVr o => Sys2Proof.Machine.execVremVr o s
  | .vremSc o => Sys2Proof.Machine.execVremSc o s
  | .vremnVr o => Sys2Proof.Machine.execVremnVr o s
  | .vremnSc o => Sys2Proof.Machine.execVremnSc o s
  | .vminVr o => Sys2Proof.Machine.execVminVr o s
  | .vminSc o => Sys2Proof.Machine.execVminSc o s
  | .vmaxVr o => Sys2Proof.Machine.execVmaxVr o s
  | .vmaxSc o => Sys2Proof.Machine.execVmaxSc o s
  | .vminnVr o => Sys2Proof.Machine.execVminnVr o s
  | .vminnSc o => Sys2Proof.Machine.execVminnSc o s
  | .vmaxnVr o => Sys2Proof.Machine.execVmaxnVr o s
  | .vmaxnSc o => Sys2Proof.Machine.execVmaxnSc o s
  | .vandVr o => Sys2Proof.Machine.execVandVr o s
  | .vandSc o => Sys2Proof.Machine.execVandSc o s
  | .vandIm o => Sys2Proof.Machine.execVandIm o s
  | .vorVr o => Sys2Proof.Machine.execVorVr o s
  | .vorSc o => Sys2Proof.Machine.execVorSc o s
  | .vorIm o => Sys2Proof.Machine.execVorIm o s
  | .vxorVr o => Sys2Proof.Machine.execVxorVr o s
  | .vxorSc o => Sys2Proof.Machine.execVxorSc o s
  | .vxorIm o => Sys2Proof.Machine.execVxorIm o s
  | .vsllVr o => Sys2Proof.Machine.execVsllVr o s
  | .vsllSc o => Sys2Proof.Machine.execVsllSc o s
  | .vsllIm o => Sys2Proof.Machine.execVsllIm o s
  | .vsrlVr o => Sys2Proof.Machine.execVsrlVr o s
  | .vsrlSc o => Sys2Proof.Machine.execVsrlSc o s
  | .vsrlIm o => Sys2Proof.Machine.execVsrlIm o s
  | .vsraVr o => Sys2Proof.Machine.execVsraVr o s
  | .vsraSc o => Sys2Proof.Machine.execVsraSc o s
  | .vsraIm o => Sys2Proof.Machine.execVsraIm o s
  | .vshrnVr o => Sys2Proof.Machine.execVshrnVr o s
  | .vshrnIm o => Sys2Proof.Machine.execVshrnIm o s
  | .vsarnVr o => Sys2Proof.Machine.execVsarnVr o s
  | .vsarnIm o => Sys2Proof.Machine.execVsarnIm o s
  | .vwadd o => Sys2Proof.Machine.execVwadd o s
  | .vwaddn o => Sys2Proof.Machine.execVwaddn o s
  | .vwmul o => Sys2Proof.Machine.execVwmul o s
  | .vwmuln o => Sys2Proof.Machine.execVwmuln o s
  | .vsaddVr o => Sys2Proof.Machine.execVsaddVr o s
  | .vsaddSc o => Sys2Proof.Machine.execVsaddSc o s
  | .vsaddnVr o => Sys2Proof.Machine.execVsaddnVr o s
  | .vsaddnSc o => Sys2Proof.Machine.execVsaddnSc o s
  | .vssubVr o => Sys2Proof.Machine.execVssubVr o s
  | .vssubSc o => Sys2Proof.Machine.execVssubSc o s
  | .vssubnVr o => Sys2Proof.Machine.execVssubnVr o s
  | .vssubnSc o => Sys2Proof.Machine.execVssubnSc o s
  | .vclip o => Sys2Proof.Machine.execVclip o s
  | .vclipn o => Sys2Proof.Machine.execVclipn o s
  | .vfaddVr o => Sys2Proof.Machine.execVfaddVr o s
  | .vfaddSc o => Sys2Proof.Machine.execVfaddSc o s
  | .vfsubVr o => Sys2Proof.Machine.execVfsubVr o s
  | .vfsubSc o => Sys2Proof.Machine.execVfsubSc o s
  | .vfmulVr o => Sys2Proof.Machine.execVfmulVr o s
  | .vfmulSc o => Sys2Proof.Machine.execVfmulSc o s
  | .vfmaccVr o => Sys2Proof.Machine.execVfmaccVr o s
  | .vfmaccSc o => Sys2Proof.Machine.execVfmaccSc o s
  | .vfdivVr o => Sys2Proof.Machine.execVfdivVr o s
  | .vfdivSc o => Sys2Proof.Machine.execVfdivSc o s
  | .vfminVr o => Sys2Proof.Machine.execVfminVr o s
  | .vfminSc o => Sys2Proof.Machine.execVfminSc o s
  | .vfmaxVr o => Sys2Proof.Machine.execVfmaxVr o s
  | .vfmaxSc o => Sys2Proof.Machine.execVfmaxSc o s
  | .vfcpsVr o => Sys2Proof.Machine.execVfcpsVr o s
  | .vfcpsSc o => Sys2Proof.Machine.execVfcpsSc o s
  | .vfcpsnVr o => Sys2Proof.Machine.execVfcpsnVr o s
  | .vfcpsnSc o => Sys2Proof.Machine.execVfcpsnSc o s
  | .vfcpsxVr o => Sys2Proof.Machine.execVfcpsxVr o s
  | .vfcpsxSc o => Sys2Proof.Machine.execVfcpsxSc o s
  | .vfsqrt o => Sys2Proof.Machine.execVfsqrt o s
  | .vfexp2 o => Sys2Proof.Machine.execVfexp2 o s
  | .vfrcp o => Sys2Proof.Machine.execVfrcp o s
  | .vfrsq o => Sys2Proof.Machine.execVfrsq o s
  | .vflog2 o => Sys2Proof.Machine.execVflog2 o s
  | .vfcvtFI o => Sys2Proof.Machine.execVfcvtFI o s
  | .vfcvtFN o => Sys2Proof.Machine.execVfcvtFN o s
  | .vfcvtIF o => Sys2Proof.Machine.execVfcvtIF o s
  | .vfcvtNF o => Sys2Proof.Machine.execVfcvtNF o s
  | .vfcvtBfF o => Sys2Proof.Machine.execVfcvtBfF o s
  | .vfcvtFBf o => Sys2Proof.Machine.execVfcvtFBf o s
  | .vfcvtDxb8F o => Sys2Proof.Machine.execVfcvtDxb8F o s
  | .vfcvtDxb4F o => Sys2Proof.Machine.execVfcvtDxb4F o s
  | .vfcvtFDxb8 o => Sys2Proof.Machine.execVfcvtFDxb8 o s
  | .vfcvtFDxb4 o => Sys2Proof.Machine.execVfcvtFDxb4 o s
  | .vceqVr o => Sys2Proof.Machine.execVceqVr o s
  | .vceqSc o => Sys2Proof.Machine.execVceqSc o s
  | .vcneVr o => Sys2Proof.Machine.execVcneVr o s
  | .vcneSc o => Sys2Proof.Machine.execVcneSc o s
  | .vcltVr o => Sys2Proof.Machine.execVcltVr o s
  | .vcltSc o => Sys2Proof.Machine.execVcltSc o s
  | .vcltnVr o => Sys2Proof.Machine.execVcltnVr o s
  | .vcltnSc o => Sys2Proof.Machine.execVcltnSc o s
  | .vcleVr o => Sys2Proof.Machine.execVcleVr o s
  | .vcleSc o => Sys2Proof.Machine.execVcleSc o s
  | .vclenVr o => Sys2Proof.Machine.execVclenVr o s
  | .vclenSc o => Sys2Proof.Machine.execVclenSc o s
  | .vcgtSc o => Sys2Proof.Machine.execVcgtSc o s
  | .vcgtnSc o => Sys2Proof.Machine.execVcgtnSc o s
  | .vfceqVr o => Sys2Proof.Machine.execVfceqVr o s
  | .vfceqSc o => Sys2Proof.Machine.execVfceqSc o s
  | .vfcneVr o => Sys2Proof.Machine.execVfcneVr o s
  | .vfcneSc o => Sys2Proof.Machine.execVfcneSc o s
  | .vfcltVr o => Sys2Proof.Machine.execVfcltVr o s
  | .vfcltSc o => Sys2Proof.Machine.execVfcltSc o s
  | .vfcleVr o => Sys2Proof.Machine.execVfcleVr o s
  | .vfcleSc o => Sys2Proof.Machine.execVfcleSc o s
  | .kand o => Sys2Proof.Machine.execKand o s
  | .kor o => Sys2Proof.Machine.execKor o s
  | .kxor o => Sys2Proof.Machine.execKxor o s
  | .knot o => Sys2Proof.Machine.execKnot o s
  | .kffs o => Sys2Proof.Machine.execKffs o s
  | .kpopc o => Sys2Proof.Machine.execKpopc o s
  | .kmvx o => Sys2Proof.Machine.execKmvx o s
  | .vmergeVr o => Sys2Proof.Machine.execVmergeVr o s
  | .vmergeSc o => Sys2Proof.Machine.execVmergeSc o s
  | .vmergeIm o => Sys2Proof.Machine.execVmergeIm o s
  | .vsumr o => Sys2Proof.Machine.execVsumr o s
  | .vmaxr o => Sys2Proof.Machine.execVmaxr o s
  | .vmaxnr o => Sys2Proof.Machine.execVmaxnr o s
  | .vminr o => Sys2Proof.Machine.execVminr o s
  | .vminnr o => Sys2Proof.Machine.execVminnr o s
  | .vfsumr o => Sys2Proof.Machine.execVfsumr o s
  | .vfmaxr o => Sys2Proof.Machine.execVfmaxr o s
  | .vfminr o => Sys2Proof.Machine.execVfminr o s
  | .vslideupSc o => Sys2Proof.Machine.execVslideupSc o s
  | .vslideupIm o => Sys2Proof.Machine.execVslideupIm o s
  | .vslidednSc o => Sys2Proof.Machine.execVslidednSc o s
  | .vslidednIm o => Sys2Proof.Machine.execVslidednIm o s
  | .vslide1up o => Sys2Proof.Machine.execVslide1up o s
  | .vrgather o => Sys2Proof.Machine.execVrgather o s
  | .vcompress o => Sys2Proof.Machine.execVcompress o s
  | .vreshp o => Sys2Proof.Machine.execVreshp o s
  | .vidx o => Sys2Proof.Machine.execVidx o s
  | .vmvVr o => Sys2Proof.Machine.execVmvVr o s
  | .vmvSc o => Sys2Proof.Machine.execVmvSc o s
  | .vmvIm o => Sys2Proof.Machine.execVmvIm o s
  | .vmvxs o => Sys2Proof.Machine.execVmvxs o s
  | .vmvsx o => Sys2Proof.Machine.execVmvsx o s
  | .vld o => Sys2Proof.Machine.execVld o s
  | .vlds o => Sys2Proof.Machine.execVlds o s
  | .vldx o => Sys2Proof.Machine.execVldx o s
  | .vldff o => Sys2Proof.Machine.execVldff o s
  | .vldseg o => Sys2Proof.Machine.execVldseg o s
  | .vst o => Sys2Proof.Machine.execVst o s
  | .vsts o => Sys2Proof.Machine.execVsts o s
  | .vstx o => Sys2Proof.Machine.execVstx o s
  | .vstseg o => Sys2Proof.Machine.execVstseg o s
  | .vaadd o => Sys2Proof.Machine.execVaadd o s
  | .vaand o => Sys2Proof.Machine.execVaand o s
  | .vaor o => Sys2Proof.Machine.execVaor o s
  | .vaxor o => Sys2Proof.Machine.execVaxor o s
  | .vamin o => Sys2Proof.Machine.execVamin o s
  | .vamax o => Sys2Proof.Machine.execVamax o s
  | .vaswap o => Sys2Proof.Machine.execVaswap o s
  | .vacas o => Sys2Proof.Machine.execVacas o s
  | .mprec xa fa => Sys2Proof.Machine.execMprec xa fa s
  | .mclaim => Sys2Proof.Machine.execMclaim s
  | .mrel => Sys2Proof.Machine.execMrel s
  | .mldb o => Sys2Proof.Machine.execMldb o s
  | .mzero => Sys2Proof.Machine.execMzero s
  | .mma o => Sys2Proof.Machine.execMma o s
  | .mmaf o => Sys2Proof.Machine.execMmaf o s
  | .mmat o => Sys2Proof.Machine.execMmat o s
  | .mscale o => Sys2Proof.Machine.execMscale o s
  | .mcvt o => Sys2Proof.Machine.execMcvt o s
  | .endOp => Sys2Proof.Machine.execEndOp s
  | .rcpy o => Sys2Proof.Machine.execRcpy o s
  | .tra o => Sys2Proof.Machine.execTra o s
  | .tran o => Sys2Proof.Machine.execTran o s
  | .negr o => Sys2Proof.Machine.execNegr o s
  | .shl o => Sys2Proof.Machine.execShl o s
  | .shr o => Sys2Proof.Machine.execShr o s
  | .clr dst => Sys2Proof.Machine.execClr dst s
  | .set dst => Sys2Proof.Machine.execSet dst s
  | .seal dst => Sys2Proof.Machine.execSeal dst s
  | .brd o => Sys2Proof.Machine.execBrd o s
  | .loopc o => Sys2Proof.Machine.execLoopc o s
  | .brz o => Sys2Proof.Machine.execBrz o s
  | .yield => Sys2Proof.Machine.execYield s
  | .sync => Sys2Proof.Machine.execSync s
  | .unassignedEncoding w => Sys2Proof.Machine.execUnassignedEncoding w s
  | .hselDone vi => Sys2Proof.Machine.execHselDone vi s
  | .dramBelow85c stack => Sys2Proof.Machine.execDramBelow85c stack s

end Sys2Proof.Machine
end

