-- ==== Sys2Proof/Machine/Fetch.lean ====
section
/-! DEFINITION. Fetch and the choice of what acts next: moves, the fetch of scalar, vector and micro-op words, inputs from outside, and the schedule that
an empty agenda follows (R21, R22, R61, R63, R159, R184, R349, R351, R356; log 1 to 3 and 7). -/
namespace Sys2Proof.Machine

noncomputable section

/-- What a move does: an instruction acts on a state, or the move is over with no instruction. -/
inductive Sel where
  | run (i : Instr) (s : State)
  /-- A scalar word of VLC `n` that would issue: the states before and after its fetch, which counts only as it issues (R61, R357). -/
  | issue (n : Nat) (i : Instr) (s t : State)
  | over (s : State)

/-! ### Words of the I-store (R21, R390) -/

/-- The `k` bytes of an instruction word: single errors are corrected; an uncorrectable word is a free value (log 4). -/
def fetchBits (n va k : Nat) (s : State) : Nat × State :=
  let pa := istorePa n va
  if ueIn s pa k then ((Config.freeWord s.fresh).toNat % 2 ^ (8 * k), logUe pa k (getVlc s n).agent { s with fresh := s.fresh + 1 })
  else (mread s.mem pa k, correctIn pa k s)

/-! ### Fetch ahead of issue (R357) -/

/-- The SEC-DED error of the I-store word at `va`: 0 none, 1 corrected, 2 uncorrectable. -/
def fetchError (s : State) (n va : Nat) : Nat :=
  if ueIn s (istorePa n va) 4 then 2 else if eccAt s (istorePa n va) = .single then 1 else 0

/-- The core of VLC `n` fetches the next aligned 32-byte group of its sequential path, not more than 64 bytes past the next word to issue. What it held of
another path is discarded. -/
def fetchAhead (n : Nat) (s : State) : State :=
  let pc := (getVlc s n).pc.toNat
  let on : Bool := match (getVlc s n).ahead with | w :: _ => w.1 == pc | [] => false
  let s1 := if on then s else discardAhead n s
  let base := match (getVlc s1 n).ahead.getLast? with | some w => w.1 + 4 | none => pc / 32 * 32
  if (getVlc s n).status ≠ .running ∨ pc % 4 ≠ 0 ∨ inIstore pc = false ∨ base + 32 > istoreHi ∨ base + 32 > pc + 68 then s
  else
    let ws := ((upto 8).map (fun i => base + 4 * i)).filter (fun a => pc ≤ a)
    updVlc n (fun v => { v with ahead := v.ahead ++ ws.map (fun a => (a, mread s.mem (istorePa n a) 4, fetchError s n a)) }) s1

/-- The words fetched ahead behind one that issues: the error of its 64-bit word, counted or logged with it, is not counted with its other half. -/
def takeHead (n : Nat) (w : Nat × Nat × Nat) (rest : List (Nat × Nat × Nat)) (s : State) : State :=
  let other (k : Nat) : Nat := if k = 0 then 0 else if w.2.2 = 1 then 0 else 3
  updVlc n (fun v => { v with ahead := rest.map (fun x => if w.2.2 ≠ 0 ∧ x.1 / 8 = w.1 / 8 then (x.1, x.2.1, other x.2.2) else x) }) s

/-- The error of a word fetched ahead is corrected and counted as the word issues. -/
def takeAhead (n : Nat) (w : Nat × Nat × Nat) (rest : List (Nat × Nat × Nat)) (s : State) : State :=
  let pa := istorePa n w.1
  takeHead n w rest (if w.2.2 = 0 then s else if eccAt s pa = .single then correctIn pa 4 s else noteCorrected pa s)

/-- The word at the pc of VLC `n`, and the state once it has been fetched; one whose fetch ahead met an uncorrectable error is fetched as it issues. -/
def nextWord (n : Nat) (s : State) : Nat × State :=
  let pc := (getVlc s n).pc.toNat
  match (getVlc s n).ahead with
  | w :: rest =>
    if w.1 ≠ pc then fetchBits n pc 4 (discardAhead n s)
    else if w.2.2 < 2 then (w.2.1, takeAhead n w rest s)
    else fetchBits n pc 4 (takeHead n w rest s)
  | [] => fetchBits n pc 4 s

/-! ### Scalar issue (R61, R164, R184, R356) -/

/-- The breakpoint register that matches a scalar pc (R356). -/
def scalarBreak (v : Vlc) : Option Nat :=
  if v.bskip && !v.hnd && v.pc.toNat == v.bskipPc then none
  else firstOf (upto 4) (fun k =>
    let w := (tget 0 v.bpa k).toNat
    bitN w 0 && !bitN w 1 && fld w 2 54 == v.pc.toNat / 4 % 2 ^ 54)

/-- The scalar word at the pc of VLC `n` issues: outside the window TRANSLATION, a breakpoint BREAK, an unassigned word ILLEGAL. -/
def issueScalar (n : Nat) (s : State) : Sel :=
  let v := getVlc s n
  let pc := v.pc.toNat
  if v.ready = false then .over s
  else if pc % 4 ≠ 0 then .over (raise cALIGN pc s)
  else if pc = istoreHi then .over (raiseAt { code := cTRANSLATION, origin := istoreHi - 4, addr := istoreHi } istoreHi s)
  else if inIstore pc = false then .over (raise cTRANSLATION pc s)
  else match scalarBreak v with
    | some k => .over (raiseAt { code := cBREAK, bpr := true, aux := k, origin := pc } pc s)
    | none =>
      let r := nextWord n s
      match decodeScalar r.1 with
      | .ok i => .issue n i s r.2
      | .error _ => .issue n (.unassignedEncoding (BitVec.ofNat 32 r.1)) s r.2

/-- Whether a word of VLC `n` has issued between two states: it has been charged, waits for an answer, or has raised a fault. -/
def hasIssued (n : Nat) (t u : State) : Bool :=
  let v := getVlc t n
  let w := getVlc u n
  w.cost != v.cost || w.wait != v.wait || w.status != v.status || w.hnd != v.hnd || w.sfault != v.sfault

/-- The words after which every access comes in order behind those before: fences, waits for marks and commands, flips of tiles, barrier and token
instructions (R117 to R127). A flush drops early loads by itself. -/
def ordersAll (i : Instr) : Bool :=
  match i with
  | .fenceC _ => true
  | .fenceS _ => true
  | .wmark _ => true
  | .cpyk _ => true
  | .tflip _ => true
  | .bkfence => true
  | .bkunlock _ _ => true
  | .barInit _ => true
  | .barArrive _ => true
  | .barWait _ => true
  | .own _ => true
  | .lend _ => true
  | .ret _ => true
  | .split _ => true
  | .merge _ => true
  | .rshare _ => true
  | .rdrop _ => true
  | .tq _ => true
  | _ => false

/-- After a word that has issued: its slot is the last issuer of its core (R61), and of the loads that performed early those stay that the word does not
come before (R114 to R127). -/
def noteIssue (n : Nat) (i : Instr) (u : State) : State :=
  let u1 := updCore (coreOf n) (fun c => { c with last := n % 4 }) u
  if ordersAll i then dropEarly n u1 else keepEarly n u1

/-- A scalar word: where it issues, it acts on the state that its fetch leaves; one that does not issue has not been fetched (R357). -/
def issueWord (n : Nat) (i : Instr) (s t : State) : Result :=
  match exec i s with
  | .next u => if hasIssued n s u then (match exec i t with | .next x => .next (noteIssue n i x) | r => r) else .next u
  | r => r

/-- What a selection comes to: an instruction acts. -/
def runSel (x : Sel) : Result :=
  match x with
  | .over t => .next t
  | .run i t => exec i t
  | .issue n i s t => issueWord n i s t

/-! ### The feed of a block (R63, R158, R159) -/

/-- The next word of the block that feeds tries to enter the VIQ; a slot past the window faults TRANSLATION. The fetch counts only for a word that enters (R357). -/
def feedNext (n blk slot : Nat) (s : State) : State :=
  let va := blk + 8 * slot
  if va ≥ istoreHi then
    if feedFull s n then feedWaits n {} s
    else bump (nextSlot n true (vecFault (newEntry s n .vstop 0 blk slot) { code := cTRANSLATION, addr := va } true s))
  else
    let r := fetchBits n va 8 s
    let i := (decodeVector r.1).toOption
    let t := feedWord n i r.1 r.2
    keepEarly n (if (getVlc t n).feed = (getVlc s n).feed then feedWord n i r.1 s else t)

/-- The `vbrk` that VLC `n` fetches again: its trap has been taken, and its handler has ended. -/
def refetchDue (v : Vlc) : Option (Nat × Nat) :=
  v.refetch.filter (fun p => !v.hnd && !v.vfaults.any (fun f => f.fr.code == cBREAK && !f.fr.bpr && f.fr.origin == p.1 && f.fr.slot == p.2))

/-- The serial number of the word that replaces a `vbrk`: below those of the words, and of the faults of words, that come behind it. -/
def refetchId (s : State) (n : Nat) : Nat :=
  let v := getVlc s n
  match (viqOf s n).map (fun e => e.id) ++ v.held.map (fun e => e.id) ++ v.vfaults.map (fun p => p.ord) with
  | i :: is => is.foldl min i - 1
  | [] => s.nextId

/-- The word at the block and slot of a `vbrk`, after `tret`: a word that is no longer `vbrk` enters execution first (R356). -/
def refetchWord (n blk slot : Nat) (s : State) : State :=
  let r := fetchBits n (blk + 8 * slot) 8 s
  let s1 := updVlc n (fun v => { v with refetch := none }) r.2
  match (decodeVector r.1).toOption with
  | some (.vbrk _) => s1
  | some i =>
    let e := { newEntry s1 n i r.1 blk slot with id := refetchId s1 n, reread := true }
    if entryIllegal s1 n i || (slot == 63 && i != .vstop) then vecFault e { code := cILLEGAL } true s1
    else bump (updCore (coreOf n) (fun c => { c with viq := c.viq.filter (fun x => x.vlc != n) ++ [e] ++ c.viq.filter (fun x => x.vlc == n) }) s1)
  | none => bump (vecFault { newEntry s1 n .vstop r.1 blk slot with id := refetchId s1 n } { code := cILLEGAL } true s1)

/-! ### The turn of a VLC (R61, R349, R351, R399) -/

/-- What stands at the front of VLC `n` when no fault is to be taken: a block that feeds, or a scalar word. -/
def frontWord (n : Nat) (s : State) : Sel :=
  let v := getVlc s n
  match v.hnd, v.feed with
  | false, some (b, k) => .over (feedNext n b k s)
  | _, _ => issueScalar n s

/-- The turn of VLC `n`: a completed `wfe`, a word to refetch, a waiting fault at the boundary where it is taken, or the front word. A fault that waits for older vector
words holds scalar issue back; a block that feeds goes on to its end. -/
def vlcTurn (n : Nat) (s0 : State) : Sel :=
  let s := { s0 with cur := n }
  let v := getVlc s n
  if v.status = .draining ∧ v.rewind = false then
    -- a word that stands for a `vbrk` enters before its context ends its drain (R355, R356)
    (match refetchDue v with | some (b, k) => .over (refetchWord n b k s) | none => .over s)
  else if v.status ≠ .running ∨ v.rewind = true then .over s
  else if (match v.wait with | .event _ => v.event | _ => false) = true then .over (wfeDone n s)
  else if v.hnd then (if (handlerFault v).isSome then .run (.trapEntry n) s else frontWord n s)
  else match refetchDue v, nextFault v with
    | some (b, k), _ => .over (refetchWord n b k s)
    | none, some (f, _, _) =>
      if atBoundary s n f.cls then .run (.trapEntry n) s
      else if v.feed.isSome then frontWord n s
      else .over s
    | none, none => frontWord n s

/-- Whether VLC `n` would issue a scalar word now. -/
def issues (n : Nat) (s : State) : Bool :=
  match vlcTurn n s with
  | .issue _ i t _ => (match exec i t with | .next u => hasIssued n t u | _ => false)
  | _ => false

/-- The VLCs of the core of `n` that come before it in the barrel: in slot order after the last issuer (R61). -/
def barrelBefore (s : State) (n : Nat) : List Nat :=
  (((upto 4).map (fun i => ((getCore s (coreOf n)).last + 1 + i) % 4)).takeWhile (fun k => k != n % 4)).map (fun k => coreOf n * 4 + k)

/-- The turn of VLC `n`: a scalar word issues only if no VLC before it in the barrel would (R61). -/
def barrelTurn (n : Nat) (s : State) : Sel :=
  match vlcTurn n s with
  | .issue m i u t => if (barrelBefore s n).any (fun k => issues k s) then .over s else .issue m i u t
  | x => x

/-- A word that a restore brought back changed is decoded: it stands in the VIQ as the instruction that it now is, or is removed with ILLEGAL (R355). -/
def decodeHeld (e : VEntry) (s : State) : State :=
  match (decodeVector e.word).toOption with
  | some i => updCore (coreOf e.vlc) (fun c => { c with viq := c.viq.map (fun x => if x.id == e.id then { x with instr := i, raw := false } else x) }) s
  | none => vecFault e { code := cILLEGAL } true s

/-- The oldest unexecuted word of core `c` executes. -/
def viqTurn (c : Nat) (s : State) : Sel :=
  match (getCore s c).viq with
  | e :: _ => if e.raw then .over (decodeHeld e { s with cur := e.vlc }) else .run e.instr { s with cur := e.vlc }
  | [] => .over s

/-- The next micro-op of a running `bkx`, or the next row of a sealing pass or a row command (R260, R263, R266). -/
def microTurn (id : Nat) (s0 : State) : Sel :=
  let s := { s0 with curCmd := id }
  match getCmd s id with
  | none => .over s
  | some c =>
    if c.kind = .bkx ∧ c.sealing = false then
      (if c.stage ≠ .running then .over s
       else match decodeMicro (c.words.getD c.upc 0) with
        | .ok i => .run i s
        | .error _ => .over s)
    else .over (rowStep id s)

/-! ### Time (R22, R300) -/

/-- Whether an access that could be served waits at a bank. -/
def bankWanted (s : State) (b : Nat) : Bool :=
  s.waits.any (fun w => (w.pas ++ w.walk).any (fun pa => paDram pa && bankOf s pa == b) && waitLive s w && w.able s)

/-- The banks that no command holds, that owe refreshes and have none under way, and at which nothing waits, begin the next one (R395). -/
def payIdle (s : State) : State :=
  (s.repair.debt.filter (fun p => p.2 != 0 && decide (tget 0 s.repair.busy p.1 ≤ s.cyc) && !s.cmds.any (fun c => c.stage == .running && (cmdBanks s c).contains p.1) &&
    !bankWanted s p.1)).foldl (fun s p => payRefresh p.1 s) s

/-- A checkpoint that has quiesced is seen to have done so (R409). -/
def noteQuiet (s : State) : State :=
  if closed s && s.mgmt.ckQuiet == 0 && quiesced s then { s with mgmt := { s.mgmt with ckQuiet := s.cyc + 1 } } else s

/-- `n` cycles pass. Launches that have become ready are noted first; at a tick the leaf controllers report; a responder is free again; banks go on with the
refreshes that they owe, and work of a vault complex that waited for them begins. CYC is one counter, the same for every reader (DESIGN CHOICE, log 3). -/
def passTime (n : Nat) (s0 : State) : State :=
  let s := noteQuiet (noteReady s0)
  let s1 := wakeOwn (payIdle { s with cyc := s.cyc + n, plat := { s.plat with doeBusy := [] } })
  if s1.cyc / 33000 ≠ s.cyc / 33000 then sendCosts s1 else s1

/-! ### Inputs of the environment -/

/-- One stored bit flips: a sealed word goes from good to a single error and then to an uncorrectable one; a row without check bits changes (R266, R376, R391). -/
def flipBit (pa bit : Nat) (s : State) : State :=
  if rowUnsealed s pa then { s with mem := mput s.mem pa (mget s.mem pa ^^^ BitVec.ofNat 8 (2 ^ (bit % 8))) }
  else setEcc pa (match eccAt s pa with | .good => .single | _ => .bad) s

/-- A translation buffer takes the present translation of a VA (R75). -/
def tlbTake (vi va : Nat) (s : State) : State := holdTlb (madeFor s vi va) s

/-- A translation buffer drops a translation that a walk gives again: a changed entry is not taken before its invalidation (R75). -/
def tlbLose (n : Nat) (s : State) : State :=
  let t := { s with tlb := s.tlb.eraseIdx n }
  match s.tlb[n]? with
  | some e => if madeFor t e.vi e.base = some e then t else s
  | none => s

/-- An image that another module has streamed lies at the targets from now on (R411; log 78). -/
def takeStored (x : Stored) (s : State) : State :=
  if Memory.wf x.image.mem then { s with mgmt := { s.mgmt with stored := s.mgmt.stored ++ [x] } } else s

/-- Whether an instruction is a step of the device, the host or the environment, and no word of a program. -/
def isEvent (i : Instr) : Bool := encode i == .none && (match i with | .unassignedEncoding _ => false | _ => true)

/-- What a move does. -/
def select (m : Move) (s : State) : Sel :=
  match m with
  | .vlc n => barrelTurn n s
  | .viq c => viqTurn c s
  | .micro id => microTurn id s
  | .event i => if isEvent i then .run i s else .over s
  | .tick n => .over (passTime n s)
  | .settle n => .over (settle n s)
  | .ecc pa c => .over (if rowUnsealed s pa then s else setEcc pa c s)
  | .flip pa b => .over (flipBit pa b s)
  | .slip v k i e => .over (updVault v (fun x => { x with slice := { x.slice with slip := some (k, i, e) } }) s)
  | .tlbFill vi va => .over (tlbTake vi va s)
  | .tlbDrop n => .over (tlbLose n s)
  | .reply a c d v => .over (remoteReply a c d v s)
  | .peer o c => .over (peerReply o c s)
  | .peerLaunch m vi q p => .over (peerLaunch m vi q p s)
  | .peerDone m vi q => .over (peerDone m vi q s)
  | .copyNext o u => .over (updOp o (fun x => { x with from_ := u }) s)
  | .copySlip o => .over (updOp o (fun x => if converts x then { x with bad := x.bad + 1 } else x) s)
  | .fetchAhead n => .over (fetchAhead n s)
  | .early n va size c => .over (earlyLoad n va size c s)
  | .host r => .over (hostServe r s)
  | .peerReq r => .over (peerServe r s)
  | .root vi q => .over (rootServe vi q s)
  | .schedFail b => .over (schedFails b s)
  | .reset => .over (resetModule s)
  | .bringImage x => .over (takeStored x s)
  | .regRead g v o => .over (regRead g v o s)

/-! ### The schedule of an empty agenda (log 2) -/

/-- The step of an access in flight. -/
def accEvent (a : Access) : Instr :=
  match a.tgt, a.kind with
  | .rem _ _ _, _ => .remotePromiseMissed a.ser
  | _, .atomic => .homeAtomic a.ser
  | _, .barInit => .homeBarInit a.ser
  | _, .barArrive => .homeDebit a.ser
  | _, .barWait => .homeWait a.ser
  | _, _ => .targetAccess a.ser

/-- Steps of a near-bank command. -/
def cmdMoves (c : Cmd) : List Move :=
  [.micro c.id, .event (.quantumBoundary c.id), .event (.commandResponse c.id), .event (.slotLoadDone c.id), .event (.slotInvalidateDone c.id)] ++
    (upto 16).map (fun t => .event (.sequencerTurn c.stack t))

/-- Steps of an engine operation. -/
def opMoves (o : Op) : List Move :=
  [.event (.copyAccept o.id), .event (.homeCredit o.id), .event (.chunkDebit o.id 1), .event (.operationComplete o.id)]

/-- Stages and timers of a VLC. -/
def vlcMoves (n : Nat) : List Move :=
  [.event (.trapEntry n), .event (.stripRewind n), .event (.sleepcExpiry n), .event (.wfeTimeout n), .event (.drainEnd n), .event (.tokenOpComplete n),
    .settle n, .event (.lockGroupTake n), .event (.preemptionComplete n), .event (.laneGrant (coreOf n)), .event (.claimGrant (vaultOf n))]

/-- The step of the message at the head of a command link. -/
def linkMoves (q : Nat) (up : Bool) (l : Link) : List Move :=
  (match l.queue.head? with
    | some (.place _ _) => [Move.event (.place q)]
    | some (.preempt _) => [Move.event (.preempt q)]
    | some (.preload _ _) => [Move.event (.preload q)]
    | some (.deal _ _) => [Move.event (.deal q)]
    | some (.dealreq _) => [Move.event (.dealreq q)]
    | some (.stealreq _) => [Move.event (.stealreq q)]
    | some (.done _ _) => [Move.event (.done q)]
    | some (.cost _ _) => [Move.event (.cost q)]
    | none => []) ++ [Move.event (.cmdAck q up)]

/-- Steps of a VI that are under way. -/
def viMoves (v : Nat) : List Move :=
  [.event (.tinvComplete v), .event (.hselDone v), .event (.drainEnd (viDrain + v)), .event (.tokenOpComplete (viDrain + v))]

/-- The VLCs in the order in which the schedule tries them: those after the one that acted last come first. -/
def inTurn (s : State) : List Nat :=
  let ns := s.vlcs.map Prod.fst
  ns.filter (fun n => s.cur < n) ++ ns.filter (fun n => n ≤ s.cur)

/-- Every move that the device may make by itself, in the order in which the schedule tries them. -/
def defaultMoves (s : State) : List Move :=
  (if s.plat.released then [] else [.event .resetRelease]) ++
  (if s.fills.isEmpty then [] else [.event (.registerFill 0)]) ++
  s.net.map (fun a => .event (accEvent a)) ++
  s.vaults.map (fun p => .event (.recheck p.1 0)) ++
  (s.vlcs.map Prod.fst).flatMap vlcMoves ++
  (s.sched.pend.filter (fun p => p.2.isSome)).map (fun p => .settle p.1) ++
  s.cores.map (fun p => .viq p.1) ++
  s.cmds.flatMap cmdMoves ++
  s.locks.flatMap (fun l => [.event (.leaseExpiry l.id), .event (.lockGrant l.id)]) ++
  s.ops.flatMap opMoves ++
  s.hostq.map (fun r => .host r.id) ++
  s.peerq.map (fun q => .peerReq q.id) ++
  s.waits.filterMap (fun w => match w.who with | .root vi q => some (.root vi q) | _ => none) ++
  (s.vis.map Prod.fst).flatMap viMoves ++
  s.launches.map (fun l => .event (.launchComplete l.vi l.seq)) ++
  s.sched.down.flatMap (fun p => linkMoves p.1 false p.2) ++
  s.sched.up.flatMap (fun p => linkMoves p.1 true p.2) ++
  (if tickDue s then [.event .schedulerTick] else []) ++
  (if s.sched.failed then [.event .schedulerFailover] else []) ++
  s.vaults.flatMap (fun p => p.2.unsealed.map (fun e => .event (.autoSeal (vaultPa p.1 (e.frame * 2097152) / 2097152)))) ++
  (inTurn s).map (fun n => .vlc n)

/-- The state after a move. -/
def act (m : Move) (s : State) : State :=
  match runSel (select m s) with
  | .next u => u
  | _ => s

/-- Whether a move changes more than the marks of who acted last. -/
def effective (s : State) (m : Move) : Bool := decide ({ act m s with cur := s.cur, curCmd := s.curCmd } ≠ s)

/-- The next move, and the state in which it is made: the head of the agenda; with an empty agenda one cycle passes, and the first move that has an effect
is made. -/
def nextMove (s : State) : Move × State :=
  match s.agenda with
  | m :: t => (m, { s with agenda := t })
  | [] => let s1 := passTime 1 s; (((defaultMoves s1).find? (effective s1)).getD (.tick 0), s1)

/-! ### Placing an instruction where it is fetched next (log 7) -/

/-- A state whose VLC `cur` can issue a scalar word: as it is, or with the resident program started on VLC 0. -/
def withIssuer (s : State) : State :=
  let v := getVlc s s.cur
  if v.ready && v.feed.isNone && inIstore v.pc.toNat && v.pc.toNat % 4 == 0 then s
  else startResident s.mem { s with cur := 0, plat := { s.plat with released := true } }

/-- A 32-bit word at the pc of VLC `cur`, whose turn it is in the barrel. -/
def placeScalar (w : Nat) (s0 : State) : State :=
  let s1 := withIssuer s0
  let s := updCore (coreOf s1.cur) (fun c => { c with last := (s1.cur + 3) % 4 }) (updMe (fun v => { v with ahead := [] }) s1)
  { s with mem := mwrite s.mem (istorePa s.cur s.me.pc.toNat) 4 w, agenda := .vlc s.cur :: s.agenda }

/-- A vector word at the head of the VIQ of the core of VLC `cur`, which holds the lanes; a word that decodes to nothing at the head of a block that feeds. -/
def placeVector (w : Nat) (s0 : State) : State :=
  let s := withIssuer s0
  let n := s.cur
  match decodeVector w with
  | .ok i =>
    let h := shapeOf i
    let x (r : Option (Nat × Bool)) : Word := match r with | some p => s.me.rx p.1 | none => 0
    let e := { newEntry s n i w resEntry 0 with xa := x h.xa, xb := x h.xb }
    let s1 := updCore (coreOf n) (fun c => { c with holder := some n, viq := e :: c.viq }) (updVlc n (fun v => { v with lanes := true }) s)
    bump { s1 with agenda := .viq (coreOf n) :: s1.agenda }
  | .error _ =>
    let s1 := updVlc n (fun v => { v with feed := some (resEntry, 0) }) s
    { s1 with mem := mwrite s1.mem (istorePa n resEntry) 8 w, agenda := .vlc n :: s1.agenda }

/-- A micro-op as the next word of a running `bkx` on the frame at PA 0. -/
def placeMicro (w : Nat) (s : State) : State :=
  let c : Cmd := { id := s.nextId, vlc := s.cur, agent := s.me.agent, vi := 0, kind := .bkx, stage := .running, stack := 0, words := [w], frames := [0] }
  bump { s with cmds := s.cmds ++ [c], agenda := .micro s.nextId :: s.agenda }

/-- The word of the opcode table's numbering, placed where the next step takes its instruction from. -/
def placeWord (nbits w : Nat) (s : State) : State :=
  if nbits = 64 then placeVector (bytesWord (wordBytes 8 w)) s
  else
    let v := bytesWord (wordBytes 4 w)
    match decodeScalar v, decodeMicro v with
    | .error _, .ok _ => placeMicro v s
    | _, _ => placeScalar v s

end

end Sys2Proof.Machine
end

