-- ==== Sys2Proof/Machine/Step.lean ====
section
/-! DEFINITION. One step of the module. -/
namespace Sys2Proof.Machine

/-- One step: the next move is made. A module that has stopped makes none but its reset (R336, R416). -/
noncomputable def step (s : State) : Host.Outcome State Fault Refusal :=
  if s.plat.stopped && s.agenda.head? != some .reset then .fault .stopped
  else runSel (select (nextMove s).1 (nextMove s).2)

/-- The state with an instruction placed where the next step fetches it (log 7). -/
noncomputable def State.withFetchWord (s : State) (nbits w : Nat) : State := placeWord nbits w s

end Sys2Proof.Machine
end

