-- ==== Sys2Proof/Safety.lean ====
section
/-! DEFINITION. What counts as a safe state, and the terms in which the claims are made: what a word changes and what it leaves. -/
namespace Sys2Proof.Machine

/-! ### Safe states -/

/-- Memory, and the memory of every checkpoint image, list their bytes in canonical form. -/
def State.Inv (s : State) : Prop := Memory.wf s.mem ∧ ∀ x ∈ s.mgmt.stored, Memory.wf x.image.mem

/-! ### What a step leaves alone -/

/-- Only VLC `n` differs: every other VLC, every byte of memory and every other part of the module is as before. -/
def OnlyVlc (n : Nat) (s t : State) : Prop :=
  { t with vlcs := s.vlcs } = s ∧ (∀ a, mget t.mem a = mget s.mem a) ∧ ∀ m, m ≠ n → getVlc t m = getVlc s m

/-- Only the VLC whose word executes differs. -/
def OnlyMe (s t : State) : Prop := OnlyVlc s.cur s t

/-- Every byte outside `[a, a+n)` reads as before. -/
def BytesKept (s t : State) (a n : Nat) : Prop := ∀ b, (b < a ∨ a + n ≤ b) → mget t.mem b = mget s.mem b

/-! ### Scalar words -/

/-- VLC `cur` may issue a scalar word that reads the registers `srcs` and writes register `d` (R61, R154, R175). -/
def CanIssue (s : State) (srcs : List Nat) (d : Nat) : Prop :=
  s.me.ready = true ∧ (∀ r ∈ srcs, s.me.isEmpty r = false) ∧ s.me.isPend d = false

/-- Register `d` takes `w` and is full, x0 stays 0, and every other x register keeps its value and its state (R175). -/
def WritesX (v v' : Vlc) (d : Nat) (w : Word) : Prop :=
  v'.rx d = (if d = 0 then 0 else w) ∧ v'.isEmpty d = false ∧ v'.pend = v.pend ∧
    ∀ k, k ≠ d → v'.rx k = v.rx k ∧ v'.isEmpty k = v.isEmpty k

/-- Register `d` is empty until its fill arrives; nothing changes for x0 and every other x register (R175). -/
def EmptiesX (v v' : Vlc) (d : Nat) : Prop :=
  v'.x = v.x ∧ (d ≠ 0 → v'.isEmpty d = true ∧ v'.isPend d = true) ∧ ∀ k, k ≠ d → v'.isEmpty k = v.isEmpty k ∧ v'.isPend k = v.isPend k

/-- A scalar word has ended at `pc`: of its VLC only x registers, the pc, the breakpoint skip and the charge differ. -/
def EndsAt (v v' : Vlc) (pc : Word) : Prop :=
  v'.pc = pc ∧ v' = { v with x := v'.x, empty := v'.empty, pend := v'.pend, pc := v'.pc, bskip := v.skipOn, cost := v.cost + 1 }

/-- The word answers a next state in which register `d` holds `w`, the pc is `pc`, and nothing else has changed. -/
def Result.Writes (i : Instr) (s : State) (d : Nat) (w pc : Word) : Prop :=
  ∃ t, exec i s = .next t ∧ OnlyMe s t ∧ WritesX s.me t.me d w ∧ EndsAt s.me t.me pc

/-- The word answers a next state in which register `d` holds `w` and the pc has moved on by 4. -/
def Puts (i : Instr) (s : State) (d : XReg) (w : Word) : Prop := Result.Writes i s d.toNat w (s.me.pc + 4)

/-- The word answers a next state at `pc` with every x register as before. -/
def GoesTo (i : Instr) (s : State) (pc : Word) : Prop :=
  ∃ t, exec i s = .next t ∧ OnlyMe s t ∧ EndsAt s.me t.me pc ∧ t.me.x = s.me.x ∧ t.me.empty = s.me.empty ∧ t.me.pend = s.me.pend

/-! ### Exceptions -/

/-- A VLC has taken an exception with the record `r0` to `r3` and resume address `epc`: the handler runs at TVEC, `c` units are charged, and registers, strip
state, store buffer, lanes, marks and every other part of the context are as before (R302, R347, R351). -/
def TookVlc (v v' : Vlc) (r0 r1 r2 r3 epc : Word) (c : Nat) : Prop :=
  v'.pc = v.tvec ∧ v'.hnd = true ∧ v'.epc = epc ∧ tget 0 v'.frec 0 = r0 ∧ tget 0 v'.frec 1 = r1 ∧ tget 0 v'.frec 2 = r2 ∧ tget 0 v'.frec 3 = r3 ∧
  v' = { v with
    frec := v'.frec, estart := v'.estart, epc := v'.epc, hnd := v'.hnd, hndAt := v'.hndAt, pc := v'.pc, wait := .none, sfault := none,
    vfaults := v'.vfaults, brk := v'.brk, bskipPc := v'.bskipPc, faults := v'.faults, late := v'.late, flip := none, early := [], feedStop := false,
    cost := v.cost + c }

/-- What taking an exception on VLC `n` leaves alone: the other VLCs, and every byte outside the tiles of a task preloaded on its vault, which is
discarded (R358). -/
def TookFrame (n : Nat) (s t : State) : Prop :=
  (∀ m, m ≠ n → getVlc t m = getVlc s m) ∧
  (∀ a, (∀ p ∈ s.sched.preloads, p.vault = vaultOf n → ∀ b ∈ p.tiles, a < b ∨ b + 4096 ≤ a) → mget t.mem a = mget s.mem a) ∧
  (∀ a, (∀ p ∈ s.sched.preloads, p.vault = vaultOf n → ∀ b ∈ p.tiles, a / 4096 ≠ b / 4096) → eccAt t a = eccAt s a) ∧
  { t with vlcs := s.vlcs, mem := s.mem, ecc := s.ecc, tiles := s.tiles, sched := s.sched, net := s.net } = s

/-- VLC `cur` may take an exception at once: it runs no handler, has one, and no vector word of its own is outstanding (R351). -/
def MayTrap (s : State) : Prop := s.me.hnd = false ∧ s.me.tvec ≠ 0 ∧ vecBusy s s.cur = false

/-- The word takes an exception with this record and this resume address, once it has come to the state `u` (by the walks of its addresses). A `trap`, and a
`vstrip` without progress, have issued, and are charged a unit. -/
def TrapsFrom (u : State) (i : Instr) (s : State) (r0 r1 r2 : Nat) (epc : Word) : Prop :=
  ∃ t, exec i s = .next t ∧ TookVlc s.me t.me (BitVec.ofNat 64 r0) (BitVec.ofNat 64 r1) (BitVec.ofNat 64 r2) 0 epc
      (if r0 % 2048 = 17 ∨ r0 % 2048 = 19 then 1 else 0) ∧
    TookFrame s.cur u t ∧ t.net = u.net

/-- The word takes an exception with this record and this resume address. -/
def Traps (i : Instr) (s : State) (r0 r1 r2 : Nat) (epc : Word) : Prop := TrapsFrom s i s r0 r1 r2 epc

/-- The first of the sources whose reading traps when it is empty, and that is empty, raises FE_EMPTY, which names its register; whatever the state of a source
that does not trap (R154, R350). -/
def TrapsEmpty (i : Instr) (s : State) (srcs : List (XReg × Bool)) : Prop :=
  ∀ l r m, srcs = l ++ (r, true) :: m → s.me.isEmpty r.toNat = true → (∀ q ∈ l, q.2 = true → s.me.isEmpty q.1.toNat = false) →
    Traps i s (16 + 134217728 * r.toNat) s.me.pc.toNat 0 s.me.pc

/-- A fault of the word ends its context with DOUBLE_FAULT, its x registers as they were (R351, R352). -/
def DoubleFaults (i : Instr) (s : State) : Prop :=
  ∃ t, exec i s = .next t ∧ t.me.status = .ending ∧ t.me.endRec.code = 28 ∧ t.me.x = s.me.x

/-- The address check of a word fails with `f`: it takes that fault, with the address, once the table words that its walk has read are noted; a misaligned
address is not walked (R14, R350, R360). -/
def TrapsAddr (i : Instr) (s : State) (va f : Nat) : Prop :=
  TrapsFrom (if f = 2 then s else noteWords (tableReads s (whoOf s s.cur).vi va) s) i s f s.me.pc.toNat va s.me.pc

/-! ### Accesses -/

/-- A scalar word has issued and ended: of its VLC only x registers' emptiness, the pc, the charge and the marks of its strip differ, memory keeps every
byte, and the other VLCs are as before. -/
def Issued (s t : State) (d : Nat) : Prop :=
  EmptiesX s.me t.me d ∧ t.me.pc = s.me.pc + 4 ∧
  t.me = { s.me with empty := t.me.empty, pend := t.me.pend, pc := t.me.pc, bskip := s.me.skipOn, cost := s.me.cost + 1, devs := t.me.devs, irrev := t.me.irrev } ∧
  (∀ m, m ≠ s.cur → getVlc t m = getVlc s m) ∧ (∀ a, mget t.mem a = mget s.mem a)

/-- The record `g` is that of a fault `code`, class D, of an access at `va` with the register `reg`, charged to the instruction at `origin` (R347, R349). -/
def ChargedTo (g : FRec) (code reg origin va : Nat) : Prop := g.code = code ∧ g.cls = 2 ∧ g.reg = reg ∧ g.origin = origin ∧ g.addr = va

/-- The accesses in flight are those of before without the one of serial number `ser`, which has performed; where it was one to DEV memory, the older ones are marked
as such that have not met DEV memory (R81). -/
def NetLoses (s t : State) (ser : Nat) : Prop :=
  t.net.map (fun x => { x with plain := false }) = (s.net.filter (fun x => x.ser != ser)).map (fun x => { x with plain := false })

/-- The access `a` has failed at its target with `code`: a fault of class D waits for its VLC, a load or atomic leaves 0 in its register and fills it, no byte of
memory has changed, and every other VLC is as before (R349, R361). -/
def FailsAt (i : Instr) (s : State) (a : Access) (code : Nat) : Prop :=
  ∃ t g, exec i s = .next t ∧ NetLoses s t a.ser ∧ t.fills = s.fills ∧ (∀ b, mget t.mem b = mget s.mem b) ∧ (∀ m, m ≠ a.vlc → getVlc t m = getVlc s m) ∧
    ChargedTo g code a.reg a.origin a.va ∧
    let v := if a.kind = .store then getVlc s a.vlc else (getVlc s a.vlc).fillX a.reg 0
    getVlc t a.vlc = { v with faults := v.faults ++ [⟨g, a.id⟩] }

/-- The effective address of a load or store: xa + sext(disp12, 12) × size (R183). -/
def effAddr (s : State) (a : XReg) (p : BitVec 12) (size : Nat) : Nat := (s.me.rx a.toNat + BitVec.ofInt 64 (p.toInt * size)).toNat

/-- A load whose address passes its checks, and that has not performed early, is sent, its register empty; bytes found in the strip store buffer travel with it, and a load that finds all
of them there is answered from the buffer; one whose address fails takes the fault (R57, R183, R360). -/
def IssuesLoad (i : Instr) (s : State) (r a : XReg) (p : BitVec 12) (size : Nat) (sgn : Bool) (c : Nat) : Prop :=
  (∀ f, MayTrap s → CanIssue s [a.toNat] r.toNat → addrCheck s (whoOf s s.cur) (effAddr s a p size) size .read = .error f → TrapsAddr i s (effAddr s a p size) f) ∧
  ∀ q, CanIssue s [a.toNat] r.toNat → addrCheck s (whoOf s s.cur) (effAddr s a p size) size .read = .ok q →
    heldBack s s.cur c q size = false → s.me.early = [] →
    let fw := if s.me.sopen && !q.dev then forwarded s.me.sbuf q.tgt size else (0, 0)
    ∃ t, exec i s = .next t ∧ Issued s t r.toNat ∧
      (if fw.2 = 2 ^ size - 1 then t.net = s.net ∧ ∃ f, t.fills = s.fills ++ [f] ∧ f.vlc = s.cur ∧ f.reg = r.toNat ∧ f.val = extend sgn size fw.1
       else t.fills = s.fills ∧ ∃ x, t.net = s.net ++ [x] ∧ x.vlc = s.cur ∧ x.kind = .load ∧ x.tgt = q.tgt ∧ x.size = size ∧ x.cls = c ∧
        x.reg = r.toNat ∧ x.sgn = sgn ∧ x.fwd = fw.1 ∧ x.fmask = fw.2)

/-- A store whose address passes its checks: outside an open strip, in one whose buffer is full, and to DEV memory it is sent; in an open strip it enters
the buffer when its target's checks pass, those of another module being asked for, and is removed with a fault of class D when they fail; one that would take the
buffer past 8 KiB empties it, sets SBFULL and is sent; and one whose address fails takes the fault (R57, R183, R360, R361). -/
def IssuesStore (i : Instr) (s : State) (r a : XReg) (p : BitVec 12) (size : Nat) (c : Nat) : Prop :=
  (∀ f, MayTrap s → CanIssue s [a.toNat, r.toNat] 0 → addrCheck s (whoOf s s.cur) (effAddr s a p size) size .write = .error f →
    TrapsAddr i s (effAddr s a p size) f) ∧
  ∀ q, CanIssue s [a.toNat, r.toNat] 0 → addrCheck s (whoOf s s.cur) (effAddr s a p size) size .write = .ok q →
    heldBack s s.cur c q size = false →
    let data := (s.me.rx r.toNat).toNat % 2 ^ (8 * size)
    let buffers := s.me.sopen && !s.me.sbfull && !q.dev
    (buffers = false → ∃ t, exec i s = .next t ∧ Issued s t 0 ∧
      ∃ x, t.net = s.net ++ [x] ∧ x.vlc = s.cur ∧ x.kind = .store ∧ x.tgt = q.tgt ∧ x.size = size ∧ x.cls = c ∧ x.data = data) ∧
    (buffers = true → bufBytes s.me.sbuf + size ≤ 8192 → (∀ pa, q.tgt = .loc pa → paDram pa = true →
        tokenCheck s s.me.agent pa .write true = none ∧ isLost s pa = false) →
      ∃ t x, exec i s = .next t ∧ t.me.sbuf = putBuf x s.me.sbuf ∧ x.id = s.nextId ∧ x.tgt = q.tgt ∧ x.size = size ∧ x.cls = c ∧ x.data = data ∧
        (match q.tgt with
          | .loc _ => t.net = s.net
          | .rem _ _ _ => ∃ y, t.net = s.net ++ [y] ∧ y.vlc = s.cur ∧ y.kind = .probe ∧ y.op = 9 ∧ y.tgt = q.tgt ∧ y.size = size) ∧
        t.me = { s.me with sbuf := t.me.sbuf, pc := s.me.pc + 4, bskip := s.me.skipOn, cost := s.me.cost + 1 } ∧
        (∀ m, m ≠ s.cur → getVlc t m = getVlc s m) ∧ (∀ b, mget t.mem b = mget s.mem b)) ∧
    (∀ pa f, buffers = true → bufBytes s.me.sbuf + size ≤ 8192 → q.tgt = .loc pa → paDram pa = true →
      (tokenCheck s s.me.agent pa .write true = some f ∨ (tokenCheck s s.me.agent pa .write true = none ∧ isLost s pa = true ∧ f = 22)) →
      ∃ t g, exec i s = .next t ∧ t.me = { s.me with pc := s.me.pc + 4, bskip := s.me.skipOn, cost := s.me.cost + 1, faults := s.me.faults ++ [⟨g, s.nextId⟩] } ∧
        ChargedTo g f 0 s.me.pc.toNat (effAddr s a p size) ∧ t.net = s.net ∧ (∀ m, m ≠ s.cur → getVlc t m = getVlc s m) ∧ ∀ b, mget t.mem b = mget s.mem b) ∧
    (buffers = true → bufBytes s.me.sbuf + size > 8192 → mayFlush s s.cur = true →
      ∃ t l x, exec i s = .next t ∧ t.me.sbuf = [] ∧ t.me.sbfull = true ∧ t.me.pc = s.me.pc + 4 ∧ t.net = l ++ [x] ∧ x.vlc = s.cur ∧ x.kind = .store ∧
        x.tgt = q.tgt ∧ x.size = size ∧ x.cls = c ∧ x.data = data)

/-- A far atomic whose address and scope pass is sent to its home with its operands, its register empty; one whose address fails takes the fault, and one whose
home lies outside its scope SCOPE (R105, R185, R360, R362). `acas` also reads xd. -/
def IssuesAtomic (i : Instr) (s : State) (op size : Nat) (d a b : XReg) (sc : BitVec 3) (c : Nat) : Prop :=
  CanIssue s ([a.toNat, b.toNat] ++ (if op = 7 then [d.toNat] else [])) d.toNat →
  let va := (s.me.rx a.toNat).toNat
  (∀ f, MayTrap s → addrCheck s (whoOf s s.cur) va size .atomic = .error f → TrapsAddr i s va f) ∧
  ∀ q, addrCheck s (whoOf s s.cur) va size .atomic = .ok q →
    (MayTrap s → inScope s.cur sc.toNat q.tgt = false → Traps i s 13 s.me.pc.toNat va s.me.pc) ∧
    (inScope s.cur sc.toNat q.tgt = true → heldBack s s.cur c q size = false →
    ∃ t, exec i s = .next t ∧ Issued s t d.toNat ∧ t.fills = s.fills ∧
      ∃ x, t.net = s.net ++ [x] ∧ x.vlc = s.cur ∧ x.kind = .atomic ∧ x.op = op ∧ x.tgt = q.tgt ∧ x.size = size ∧ x.cls = c ∧ x.reg = d.toNat ∧
        x.data = (s.me.rx b.toNat).toNat ∧ x.cmp = (s.me.rx d.toNat).toNat)

/-- A form of a CSR write, and the value that it makes of the register's old one: xa, the old value with the bits of xa set, or with them clear (R190). -/
def CsrForm (mk : BitVec 11 → XReg → Instr) (g : Word → Word) (x : Word) : Prop :=
  (mk = Instr.csrw ∧ g = fun _ => x) ∨ (mk = Instr.csrs ∧ g = fun c => c ||| x) ∨ (mk = Instr.csrc ∧ g = fun c => c &&& ~~~x)

/-! ### Whole contexts -/

/-- VLC `n` is now `v`, and nothing else of the module differs. -/
def Becomes (n : Nat) (v : Vlc) (s t : State) : Prop :=
  { t with vlcs := s.vlcs } = s ∧ getVlc t n = v ∧ ∀ m, m ≠ n → getVlc t m = getVlc s m

/-- A context whose scalar word has ended at `pc`: one unit is charged, and a breakpoint skip is over. -/
def ended (v : Vlc) (pc : Word) : Vlc := { v with pc := pc, bskip := v.skipOn, cost := v.cost + 1 }

/-- The word of VLC `cur` answers a next state in which that context is `v`, and nothing else differs. -/
def Leaves (i : Instr) (s : State) (v : Vlc) : Prop := ∃ t, exec i s = .next t ∧ Becomes s.cur v s t

/-- The context holds its lanes and no vector state of an earlier holder: v0 to v31 and k1 to k7 are 0 (R55, R56). -/
def FreshLanes (v : Vlc) : Prop := v.lanes = true ∧ v.v = [] ∧ v.k = [] ∧ v.vempty = []

/-! ### Walks of named addresses (R14, R75, R263) -/

/-- The walk of the address `va` need not wait for a bank and leads from `s` to `u`: contexts, memory bytes, ownership and everything in flight are as before. -/
def WalkTo (va : Nat) (s u : State) : Prop := walkWaits s (walkOf va s) = false ∧ u = walked va s

/-- The walks of the pages of `n` bytes at `va` lead from `s` to `u`. -/
def WalksTo (va n : Nat) (s u : State) : Prop :=
  if va % 4096 + n ≤ 4096 then WalkTo va s u else ∃ m, WalkTo va s m ∧ WalkTo (va / 4096 * 4096 + 4096) m u

/-- Naming a region leads from `s` to `u`: by address through its walk, by reference at once. -/
def NameTo (x : Nat) (byRef : Bool) (s u : State) : Prop := if byRef then u = s else WalkTo x s u

/-! ### Engine operations, tokens and near-bank commands -/

/-- The word has sent an engine operation with these fields; its VLC waits for the answer of the engine, and nothing else differs but the mark that an open
strip cannot be rewound, once the walks of its addresses have led to `u` (R279, R379). -/
def SendsOp (i : Instr) (s u : State) (k : OpKind) (mark reg va pa : Nat) (tiles desc : List Nat) (ret : Bool) : Prop :=
  ∃ t x, exec i s = .next t ∧ t.ops = u.ops ++ [x] ∧ x.id = u.nextId ∧ x.tiles = tiles ∧ x.vlc = s.cur ∧ x.agent = s.me.agent ∧ x.quad = quadOf (s.cur / 8) ∧ x.kind = k ∧
    x.mark = mark ∧ x.reg = reg ∧ x.va = va ∧ x.pa = pa ∧ x.desc = desc ∧ x.ret = ret ∧ x.accepted = false ∧
    t.me = { s.me with wait := .engine u.nextId, irrev := s.me.irrev || s.me.sopen } ∧
    { t with vlcs := u.vlcs, ops := u.ops, nextId := u.nextId } = u ∧ ∀ m, m ≠ s.cur → getVlc t m = getVlc s m

/-- A word that waits for its answer has it: its register is written, the wait is over and the pc moves on (R175). -/
def Answered (v v' : Vlc) (reg : Nat) (w : Word) : Prop :=
  WritesX v v' reg w ∧ v' = { v with x := v'.x, empty := v'.empty, pc := v.pc + 4, wait := .none, cost := v.cost + 1 }

/-- The word has changed the token table, from the state `u` on to which the walks of its addresses led; its VLC waits for the end of the table operation with
this result, drained or not (R97). -/
def WaitsToken (i : Instr) (s u : State) (op key arg reg val : Nat) (drained : Bool) (toks : State → Prop) : Prop :=
  ∃ t, exec i s = .next t ∧ t.me = { s.me with wait := .token op key arg drained reg val, irrev := s.me.irrev || s.me.sopen } ∧ toks t ∧
    { t with vlcs := u.vlcs, toks := u.toks } = u ∧ ∀ m, m ≠ s.cur → getVlc t m = getVlc s m

/-- Only these entries of the token table differ. -/
def OnlyToks (s t : State) (ks : List Nat) : Prop := ∀ k, k ∉ ks → tokAt t k = tokAt s k

/-- The word has sent a near-bank command with these fields and its register is empty, once the walks of its address have led to `u`; the tiles that hold its
block or image, at the PAs `ps`, are in use, and nothing else differs but the lock that a `bklock` asks for (R62, R87, R256). -/
def SendsCmd (i : Instr) (s u : State) (k : CmdKind) (d va xa xb : Nat) (ps : List Nat) (irrev : Bool) : Prop :=
  ∃ t c, exec i s = .next t ∧ t.cmds = u.cmds ++ [c] ∧ c.id = u.nextId ∧ c.kind = k ∧ c.stage = .sent ∧ c.vlc = s.cur ∧ c.agent = s.me.agent ∧
    c.stack = s.cur / 128 ∧ c.reg = d ∧ c.va = va ∧ c.xa = xa ∧ c.xb = xb ∧ c.pa = ps.headD 0 ∧ c.tiles = ps.map (· / 4096) ∧ EmptiesX s.me t.me d ∧
    t.me = { ended s.me (s.me.pc + 4) with empty := t.me.empty, pend := t.me.pend, irrev := s.me.irrev || (irrev && s.me.sopen) } ∧
    (∀ n, tget {} t.tiles n = { tget {} u.tiles n with use := (tget {} u.tiles n).use + c.tiles.count n }) ∧
    { t with vlcs := u.vlcs, cmds := u.cmds, nextId := u.nextId, tiles := u.tiles, locks := u.locks } = u ∧ (k ≠ .lock → t.locks = u.locks) ∧
    ∀ m, m ≠ s.cur → getVlc t m = getVlc s m

/-! ### Vector words -/

/-- The oldest word of the core of VLC `cur` is `e`, a word of that VLC, and it may execute now but for empty elements: no fault, rewind or breakpoint holds it
back, its x values have been read, and, for a word that is rechecked, the recheck queue has room (R63, R356, R371). -/
def WordFirst (s : State) (e : VEntry) (rechecked : Bool) : Prop :=
  headWord s = some e ∧ e.vlc = s.cur ∧ wordsRun s e = true ∧ vecBreak s.me e = none ∧ e.reread = false ∧ (rechecked = true → rqLen s s.cur < 16)

/-- The word `e` may execute now, and no vector element of its VLC is empty (R204). -/
def WordReady (s : State) (e : VEntry) (rechecked : Bool) : Prop := WordFirst s e rechecked ∧ s.me.vempty = []

/-- The word `e` has left the VIQ, and `c` units are charged for it; its context is `v` but for ESTART, which is 0; memory keeps every byte, and the other
VLCs are as before (R203, R302). -/
def LeftQueue (s t : State) (e : VEntry) (c : Nat) (v : Vlc) : Prop :=
  t.me = { v with estart := 0, cost := s.me.cost + c } ∧ (∀ m, m ≠ s.cur → getVlc t m = getVlc s m) ∧ t.mem = s.mem ∧
    (getCore t (s.cur / 4)).viq = (getCore s (s.cur / 4)).viq.filter (fun x => x.id != e.id)

/-- Units charged for the elements of a word from its first (R235, R302). -/
def unitsOf (s : State) (e : VEntry) : Nat := wordCycles s e (e.vl - firstEl s.me e)

/-- The word has executed and waits for its recheck with its first result and these flags, beside those of the part of it that has taken effect before; until then nothing has left its context (R371, R372). -/
def Executed (s t : State) (e : VEntry) (c : Nat) (v : Vlc) (flags : Nat) : Prop :=
  LeftQueue s t e c v ∧ ∃ r, (getVault t (s.cur / 8)).rq = (getVault s (s.cur / 8)).rq ++ [r] ∧ r.e.id = e.id ∧ r.flags = flags ||| e.flags ∧ r.stores = [] ∧ r.atoms = [] ∧
    r.fault = none ∧ r.undoV = s.me.v ∧ r.undoK = s.me.k ∧ r.newV = v.v ∧ r.newK = v.k

/-- Where element `j` of width `w` of the group of `k` registers at `d` takes a value, its low `w` bits; every other element of the group, and every register
outside it, is as before (R195). -/
def GroupOut (s t : State) (d k w : Nat) (val : Nat → Option Nat) : Prop :=
  let n := vlenOf s s.cur
  (∀ j, w * (j + 1) ≤ n * k → elemN (groupN t.me n d k) w j = (match val j with | some x => x % 2 ^ w | none => elemN (groupN s.me n d k) w j)) ∧
    ∀ q, (q < d ∨ d + k ≤ q) → tget 0 t.me.v q = tget 0 s.me.v q

/-- Bit `j` of mask register `kd` takes a value or stays; the other mask registers stay (R196). -/
def BitsOut (s t : State) (kd : Nat) (val : Nat → Option Bool) : Prop :=
  (∀ j, j < 3072 → (tget 0 t.me.k kd).getLsbD j = (match val j with | some b => b | none => (tget 0 s.me.k kd).getLsbD j)) ∧
    ∀ q, q ≠ kd → tget 0 t.me.k q = tget 0 s.me.k q

/-- Whether element `j` of the word `e` is computed: from the first element on, below VL, and active under the mask (R196, R203). -/
def computes (s : State) (e : VEntry) (m : VMask) (j : Nat) : Bool := firstEl s.me e ≤ j && j < e.vl && active s.me m j

/-- An element-wise word whose element `j` has the value and flags `f j` writes the active elements below VL and no other (R196, R197). -/
def ElementsOut (i : Instr) (s : State) (e : VEntry) (d k w : Nat) (m : VMask) (f : Nat → Nat × Nat) : Prop :=
  ∃ t fl, exec i s = .next t ∧ Executed s t e (unitsOf s e) { s.me with v := t.me.v } fl ∧
    GroupOut s t d k w (fun j => if computes s e m j then some (f j).1 else none) ∧
    ∀ b, fl.testBit b = true ↔ ∃ j, computes s e m j = true ∧ (f j).2.testBit b = true

/-- A compare writes the bits of its active elements below VL and no other bit (R217). -/
def CompareOut (i : Instr) (s : State) (e : VEntry) (kd : Nat) (m : VMask) (f : Nat → Bool × Nat) : Prop :=
  ∃ t fl, exec i s = .next t ∧ Executed s t e (unitsOf s e) { s.me with k := t.me.k } fl ∧ BitsOut s t kd (fun j => if computes s e m j then some (f j).1 else none) ∧
    ∀ b, fl.testBit b = true ↔ ∃ j, computes s e m j = true ∧ (f j).2.testBit b = true

/-- A word that takes effect whole and writes elements of one group, without flags (R203). -/
def WholeOut (i : Instr) (s : State) (e : VEntry) (d k w : Nat) (val : Nat → Option Nat) : Prop :=
  ∃ t, exec i s = .next t ∧ Executed s t e (wordCycles s e e.vl) { s.me with v := t.me.v } 0 ∧ GroupOut s t d k w val

/-- A read-queue word sends its result to xd and changes nothing else of its context (R220). -/
def QueueOut (i : Instr) (s : State) (e : VEntry) (d val : Nat) : Prop :=
  ∃ t, exec i s = .next t ∧ Executed s t e (wordCycles s e e.vl) s.me 0 ∧
    t.fills = s.fills ++ (if d = 0 then [] else [{ vlc := s.cur, reg := d, val := val, rq := true }])

/-- Element `j` of the group of `k` registers at `r` under a modifier (R156, R195). -/
def srcOf (s : State) (r : BitVec 5) (m : BitVec 3) (k w j : Nat) : Nat := srcElem (groupN s.me (vlenOf s s.cur) r.toNat k) w m j

/-- Element `j` of the destination group before the word. -/
def oldOf (s : State) (r : BitVec 5) (k w j : Nat) : Nat := elemN (groupN s.me (vlenOf s s.cur) r.toNat k) w j

/-- Every access that the word `e` of shape `w` makes passes its checks with a target that `at_` gives, in this module and outside DEV memory, and may perform now
(R114, R360, R364). -/
def AccessesPass (s : State) (e : VEntry) (w : MemWord) (at_ : ElemAcc → Nat) : Prop :=
  ∀ p ∈ memElems (vctx s e) w, ∀ x ∈ p.2, ∃ q, elemCheck s e w x = .ok q ∧ q.tgt = .loc (at_ x) ∧ q.dev = false ∧
    scopeMiss w s.cur q.tgt = false ∧ elemHeld s e (wordClass w e) (x, q) = false ∧ elemsWait s e [(x, q)] = false

/-- A vector load puts the bytes at each element's address, in an open strip those that its store buffer holds, in the element, cut or extended to SEW; nothing
else of its context or of memory changes (R57, R231, R233). -/
def VectorLoads (i : Instr) (s : State) (e : VEntry) (w : MemWord) : Prop := ∀ at_, AccessesPass s e w at_ →
  (∀ p ∈ memElems (vctx s e) w, ∀ x ∈ p.2, ueIn s (at_ x) x.size = false) →
  ∃ t, exec i s = .next t ∧ Executed s t e (unitsOf s e) { s.me with v := t.me.v } 0 ∧
    (∀ f, f < w.fields → ∀ j, sewBits e.sew * (j + 1) ≤ vlenOf s s.cur * grpN e.grp →
      elemN (groupN t.me (vlenOf s s.cur) (w.vd + f * grpN e.grp) (grpN e.grp)) (sewBits e.sew) j =
        (match ((memElems (vctx s e) w).find? (fun p => p.1 == j)).bind (fun p => p.2.find? (fun x => x.f == f)) with
         | some x =>
           let fw := if s.me.sopen then forwarded s.me.sbuf (.loc (at_ x)) x.size else (0, 0)
           fieldIn w (sewBits e.sew) (mergeBytes x.size (mread s.mem (at_ x) x.size) fw.1 fw.2) % 2 ^ sewBits e.sew
         | none => elemN (groupN s.me (vlenOf s s.cur) (w.vd + f * grpN e.grp) (grpN e.grp)) (sewBits e.sew) j)) ∧
    ∀ q, (q < w.vd ∨ w.vd + w.fields * grpN e.grp ≤ q) → tget 0 t.me.v q = tget 0 s.me.v q

/-- A vector store keeps each element, with its address, for its recheck; nothing else of its context, and no byte of memory, changes until then (R231, R233, R372). -/
def VectorStores (i : Instr) (s : State) (e : VEntry) (w : MemWord) : Prop := ∀ at_, AccessesPass s e w at_ →
  ∃ t r, exec i s = .next t ∧ LeftQueue s t e (unitsOf s e) s.me ∧ (getVault t (s.cur / 8)).rq = (getVault s (s.cur / 8)).rq ++ [r] ∧ r.e.id = e.id ∧ r.atoms = [] ∧ r.fault = none ∧
    r.stores.map (fun b => (b.va, b.tgt, b.size, b.data)) = ((memElems (vctx s e) w).flatMap Prod.snd).map (fun x =>
      (x.va, Target.loc (at_ x), x.size, fieldOut w (sewBits e.sew)
        (elemN (groupN s.me (vlenOf s s.cur) (w.vd + x.f * grpN e.grp) (grpN e.grp)) (sewBits e.sew) x.i)))

/-- A gather-atomic keeps the operation of each element for its recheck and marks its destination elements empty (R106, R204, R234). -/
def VectorAtomics (i : Instr) (s : State) (e : VEntry) (w : MemWord) (op : Nat) : Prop := ∀ at_, AccessesPass s e w at_ →
  ∃ t r, exec i s = .next t ∧ LeftQueue s t e (unitsOf s e) { s.me with vempty := t.me.vempty } ∧ (getVault t (s.cur / 8)).rq = (getVault s (s.cur / 8)).rq ++ [r] ∧ r.e.id = e.id ∧
    r.stores = [] ∧ r.fault = none ∧ r.smm = some e.smm ∧
    r.atoms.map (fun a => (a.op, a.tgt, a.data, a.cmp, a.vdst)) = ((memElems (vctx s e) w).flatMap Prod.snd).map (fun x =>
      (op, Target.loc (at_ x), elemN (groupN s.me (vlenOf s s.cur) w.vc (grpN e.grp)) (sewBits e.sew) x.i,
        elemN (groupN s.me (vlenOf s s.cur) w.vd (grpN e.grp)) (sewBits e.sew) x.i, some (w.vd, x.i))) ∧
    ∀ p ∈ memElems (vctx s e) w, 0 < sewBits e.sew / 8 → elemEmpty t.me (vlenOf s s.cur) w.vd (sewBits e.sew) p.1 = true

/-! ### Matrix words -/

/-- The word `e` may execute but for empty elements, its VLC holds the slice, and no word of its VLC waits for a recheck (R237, R244, R371). -/
def MatrixFirst (s : State) (e : VEntry) : Prop :=
  WordFirst s e true ∧ (getVault s (s.cur / 8)).slice.holder = some s.cur ∧ rqOf s s.cur = []

/-- The word `e` may execute on the slice, and no vector element of its VLC is empty (R204). -/
def MatrixReady (s : State) (e : VEntry) : Prop := MatrixFirst s e ∧ s.me.vempty = []

/-- Each accumulator has the residue of its pattern (R374). -/
def ResiduesRight (l : Slice) : Prop := ∀ i, tget 0 l.rho i = resOf (tget 0 l.c i)

/-- A matrix word has left the VIQ and is charged `c` units, its slice is `l`, and no register of its context has changed (R243, R253). -/
def SliceOut (i : Instr) (s : State) (e : VEntry) (c : Nat) (l : Slice) : Prop :=
  ∃ t, exec i s = .next t ∧ LeftQueue s t e c s.me ∧ (getVault t (s.cur / 8)).slice = l

/-- The accumulators of the rows below `m` take their values, each its low 32 bits; the others stay (R238). -/
def AccOut (s t : State) (m : Nat) (f : Nat → Nat → Nat) : Prop :=
  ∀ r c, c < 32 → accN (getVault t (s.cur / 8)).slice r c = (if r < m then f r c % 2 ^ 32 else accN (getVault s (s.cur / 8)).slice r c)

/-! ### Floating values and their rounding (R134 to R143) -/

/-- The fields of an encoding with `mb` fraction bits: its sign, its classes NaN, signalling NaN, infinity and finite (R134). -/
def signOf (mb n : Nat) : Bool := n / 2 ^ (mb + 8) % 2 == 1
def isNan (mb n : Nat) : Prop := n / 2 ^ mb % 256 = 255 ∧ n % 2 ^ mb ≠ 0
def isSig (mb n : Nat) : Prop := isNan mb n ∧ n % 2 ^ mb < 2 ^ (mb - 1)
def isInf (mb n : Nat) : Prop := n / 2 ^ mb % 256 = 255 ∧ n % 2 ^ mb = 0
def isFin (mb n : Nat) : Prop := n / 2 ^ mb % 256 < 255

/-- The magnitude that an encoding `k` without its sign stands for; the encoding after the last finite one stands for 2^128. -/
def magQ (mb k : Nat) : Rat :=
  if k / 2 ^ mb = 0 then (k : Rat) * 2 ^ (-126 - (mb : Int))
  else ((2 ^ mb + k % 2 ^ mb : Nat) : Rat) * 2 ^ (((k / 2 ^ mb : Nat) : Int) - 127 - (mb : Int))

/-- A number with a sign, and the value of a finite encoding (R134). -/
def signed (neg : Bool) (x : Rat) : Rat := if neg then -x else x
def valQ (mb n : Nat) : Rat := signed (signOf mb n) (magQ mb (n % 2 ^ (mb + 8)))

/-- The value of a finite floating value, as a rational number. -/
def fvQ : FV → Rat
  | .fin s m e => signed s ((m : Rat) * 2 ^ e)
  | _ => 0

/-- An encoding with a sign. -/
def withSign (mb : Nat) (neg : Bool) (k : Nat) : Nat := (if neg then 2 ^ (mb + 8) else 0) + k

/-- `i` is `x` rounded to an integer in a mode of R138. -/
def RoundsInt (x : Rat) (mode : Nat) (i : Int) : Prop :=
  match mode with
  | 0 => -1 ≤ 2 * (x - (i : Rat)) ∧ 2 * (x - (i : Rat)) ≤ 1 ∧ (2 * (x - (i : Rat)) = 1 ∨ 2 * (x - (i : Rat)) = -1 → i % 2 = 0)
  | 1 => (i : Rat) ≤ x ∧ x < (i : Rat) + 1
  | 2 => x ≤ (i : Rat) ∧ (i : Rat) < x + 1
  | _ => (0 ≤ x → (i : Rat) ≤ x ∧ x < (i : Rat) + 1) ∧ (x ≤ 0 → x ≤ (i : Rat) ∧ (i : Rat) < x + 1)

/-- `r` is an exact number rounded into the format of `mb` fraction bits, with its flags: its sign is `neg`, and `lt q` and `gt q` say that the rational `q` is below
or above its magnitude, which is not 0. The nearest encodings on its two sides are `k` and `k + 1`; OF is raised where it rounds past the greatest finite value, UF
where it stays below 2^-126 when rounded with no bound on the exponent, NX where it is not an encoding's value (R134, R138, R139). -/
def RoundsTo (mb mode : Nat) (neg : Bool) (lt gt : Rat → Prop) (r : FRes) : Prop :=
  ∃ (k : Nat) (up : Bool), k < 255 * 2 ^ mb ∧ ¬gt (magQ mb k) ∧ (k + 1 < 255 * 2 ^ mb → gt (magQ mb (k + 1))) ∧
    r.1 = withSign mb neg (if up then k + 1 else k) ∧
    let mid := (magQ mb k + magQ mb (k + 1)) / 2
    let away : Bool := (mode == 1 && neg) || (mode == 2 && !neg)
    let two : Rat := 2
    let small : Prop := if mode = 0 then gt (two ^ (-126 : Int) - two ^ (-128 - (mb : Int)))
      else if away then ¬lt (two ^ (-126 : Int) - two ^ (-127 - (mb : Int))) else gt (two ^ (-126 : Int))
    (up = true ↔ lt (magQ mb k) ∧ (if mode = 0 then lt mid ∨ (¬gt mid ∧ k % 2 = 1) else away = true)) ∧
    (∀ b, r.2.testBit b = true ↔ lt (magQ mb k) ∧
      (b = 4 ∨ (b = 2 ∧ ((up = true ∧ k + 1 = 255 * 2 ^ mb) ∨ ¬gt (two ^ (128 : Int)))) ∨ (b = 3 ∧ small)))

/-- `r` is the rational `x`, not 0, rounded into the format (R134). -/
def RoundsQ (mb mode : Nat) (x : Rat) (r : FRes) : Prop :=
  RoundsTo mb mode (decide (x < 0)) (fun q => q < signed (decide (x < 0)) x) (fun q => signed (decide (x < 0)) x < q) r

/-- With a NaN among the operands the result is the canonical NaN, and NV is raised exactly when one of them is signalling (R135). -/
def NanRule (mb : Nat) (ops : List Nat) (r : FRes) : Prop :=
  (∃ a ∈ ops, isNan mb a) → r.1 = canonNan mb ∧ ((∃ a ∈ ops, isSig mb a) → r.2 = 1) ∧ ((∀ a ∈ ops, ¬isSig mb a) → r.2 = 0)

/-- An exact sum of finite numbers whose signs, an exact zero's among them, are `p` and `q`: rounded once, and a sum of 0 takes the sign IEEE 754 gives it (R134). -/
def SumRule (mb mode : Nat) (x : Rat) (p q : Bool) (r : FRes) : Prop :=
  (x ≠ 0 → RoundsQ mb mode x r) ∧ (x = 0 → r = (withSign mb (if p = q then p else decide (mode = 1)) 0, 0))

/-! ### Virtual interfaces and registers outside the cores -/

/-- The virtual interface `vi` is now `v`, and nothing else of the module differs. -/
def ViIs (vi : Nat) (v : Vi) (s t : State) : Prop :=
  { t with vis := s.vis } = s ∧ getVi t vi = v ∧ ∀ w, w ≠ vi → getVi t w = getVi s w

/-- The step answers a next state in which the virtual interface `vi` is `v`, and nothing else differs. -/
def SetsVi (i : Instr) (s : State) (vi : Nat) (v : Vi) : Prop := ∃ t, exec i s = .next t ∧ ViIs vi v s t

/-- The bytes from `a` on are `bs`. -/
def HoldsBytes (s : State) (a : Nat) (bs : List Byte) : Prop := ∀ k, k < bs.length → mget s.mem (a + k) = bs.getD k 0

/-- Entry `n` of a table takes the value `x`, and every other entry keeps its value. -/
def EntryIs {α : Type} (d : α) (old new : Tbl α) (n : Nat) (x : α) : Prop := tget d new n = x ∧ ∀ k, k ≠ n → tget d new k = tget d old k

/-- A step of the management block changes measurement 5 and no other part of the platform (R329). -/
def Remeasured (s t : State) : Prop :=
  { t.plat with meas := s.plat.meas } = s.plat ∧ ∀ k, k ≠ 5 → tget 0 t.plat.meas k = tget 0 s.plat.meas k

end Sys2Proof.Machine
end

