-- ==== Sys2Proof/Certificates/Slice0/Obligations.lean ====
section
/-! DEFINITION. The statements for the provers. -/

open Sys2Proof Sys2Proof.Machine

/-- R177, R182: the integer group and the counts of bits write the value of their table, whatever the operands, and change nothing else. -/
def Obligations.IntegerGroup : Prop :=
  (∀ (o : RRop) (s : State), CanIssue s [o.a.toNat, o.b.toNat] o.d.toNat →
    let a := s.me.rx o.a.toNat
    let b := s.me.rx o.b.toNat
    let sh := b.toNat % 64
    let off := b.toNat % 256
    let wid := min (b.toNat / 256 % 256) (64 - off)
    Puts (.add o) s o.d (a + b) ∧ Puts (.sub o) s o.d (a - b) ∧ Puts (.and o) s o.d (a &&& b) ∧ Puts (.or o) s o.d (a ||| b) ∧
    Puts (.xor o) s o.d (a ^^^ b) ∧ Puts (.andn o) s o.d (a &&& ~~~b) ∧ Puts (.orn o) s o.d (a ||| ~~~b) ∧
    Puts (.sll o) s o.d (BitVec.ofNat 64 (a.toNat * 2 ^ sh)) ∧ Puts (.srl o) s o.d (BitVec.ofNat 64 (a.toNat / 2 ^ sh)) ∧
    Puts (.sra o) s o.d (BitVec.ofInt 64 (a.toInt / 2 ^ sh)) ∧
    Puts (.rotl o) s o.d (BitVec.ofNat 64 (a.toNat * 2 ^ sh + a.toNat / 2 ^ (64 - sh))) ∧
    Puts (.rotr o) s o.d (BitVec.ofNat 64 (a.toNat / 2 ^ sh + a.toNat * 2 ^ (64 - sh))) ∧
    Puts (.min o) s o.d (if a.toInt ≤ b.toInt then a else b) ∧ Puts (.max o) s o.d (if a.toInt ≥ b.toInt then a else b) ∧
    Puts (.minn o) s o.d (if a.toNat ≤ b.toNat then a else b) ∧ Puts (.maxn o) s o.d (if a.toNat ≥ b.toNat then a else b) ∧
    Puts (.slt o) s o.d (if a.toInt < b.toInt then 1 else 0) ∧ Puts (.sltn o) s o.d (if a.toNat < b.toNat then 1 else 0) ∧
    Puts (.bext o) s o.d (if b.toNat / 256 % 256 = 0 ∨ off ≥ 64 then 0 else BitVec.ofNat 64 (a.toNat / 2 ^ off % 2 ^ wid)) ∧
    (s.me.isEmpty o.d.toNat = false →
      let x := s.me.rx o.d.toNat
      Puts (.bins o) s o.d (if b.toNat / 256 % 256 = 0 ∨ off ≥ 64 then x
        else BitVec.ofNat 64 (x.toNat - x.toNat / 2 ^ off % 2 ^ wid * 2 ^ off + a.toNat % 2 ^ wid * 2 ^ off)))) ∧
  (∀ (o : RAop) (s : State), CanIssue s [o.a.toNat] o.d.toNat →
    let a := (s.me.rx o.a.toNat).toNat
    (∃ r, Puts (.clz o) s o.d (BitVec.ofNat 64 r) ∧ (a = 0 → r = 64) ∧ (a ≠ 0 → r < 64 ∧ 2 ^ (63 - r) ≤ a ∧ a < 2 ^ (64 - r))) ∧
    (∃ r, Puts (.ctz o) s o.d (BitVec.ofNat 64 r) ∧ (a = 0 → r = 64) ∧ (a ≠ 0 → r < 64 ∧ a % 2 ^ r = 0 ∧ a / 2 ^ r % 2 = 1)) ∧
    Puts (.popc o) s o.d (BitVec.ofNat 64 ((List.range 64).filter (fun i => a.testBit i)).length))

/-- R178: the words of the multiply and divide group, and their results, with the results of its table for a divisor of 0 and for signed overflow. -/
def Obligations.MultiplyDivideGroup : Prop := ∀ (o : RRop),
  (let Word (i : Instr) (op : Nat) : Prop := encode i = .scalar (67108864 + o.d.toNat * 2097152 + o.a.toNat * 65536 + o.b.toNat * 2048 +
    (if o.fa then 1024 else 0) + (if o.fb then 512 else 0) + op * 16)
   Word (.mul o) 0 ∧ Word (.mulh o) 1 ∧ Word (.mulhn o) 2 ∧ Word (.div o) 3 ∧ Word (.divn o) 4 ∧ Word (.rem o) 5 ∧ Word (.remn o) 6) ∧
  ∀ s : State, CanIssue s [o.a.toNat, o.b.toNat] o.d.toNat →
    let a := s.me.rx o.a.toNat
    let b := s.me.rx o.b.toNat
    let least : Word := BitVec.ofInt 64 (-9223372036854775808)
    let q : Int := Int.tdiv a.toInt b.toInt
    Puts (.mul o) s o.d (BitVec.ofInt 64 (a.toInt * b.toInt)) ∧
    Puts (.mulh o) s o.d (BitVec.ofInt 64 (a.toInt * b.toInt / 18446744073709551616)) ∧
    Puts (.mulhn o) s o.d (BitVec.ofNat 64 (a.toNat * b.toNat / 18446744073709551616)) ∧
    Puts (.div o) s o.d (if b = 0 then -1 else if a = least ∧ b = -1 then least else BitVec.ofInt 64 q) ∧
    Puts (.divn o) s o.d (if b = 0 then -1 else BitVec.ofNat 64 (a.toNat / b.toNat)) ∧
    Puts (.rem o) s o.d (if b = 0 then a else if a = least ∧ b = -1 then 0 else BitVec.ofInt 64 (a.toInt - b.toInt * q)) ∧
    Puts (.remn o) s o.d (if b = 0 then a else BitVec.ofNat 64 (a.toNat - b.toNat * (a.toNat / b.toNat)))

/-- R179, R181, R182: the immediate forms. -/
def Obligations.ImmediateForms : Prop := ∀ s : State,
  (∀ o : RIop, CanIssue s [o.a.toNat] o.d.toNat →
    let a := s.me.rx o.a.toNat
    let i : Int := o.i.toInt
    let z : Nat := o.i.toNat
    Puts (.addi o) s o.d (BitVec.ofInt 64 (a.toInt + i)) ∧ Puts (.andi o) s o.d (a &&& BitVec.ofNat 64 z) ∧
    Puts (.ori o) s o.d (a ||| BitVec.ofNat 64 z) ∧ Puts (.xori o) s o.d (a ^^^ BitVec.ofNat 64 z) ∧
    Puts (.slti o) s o.d (if a.toInt < i then 1 else 0) ∧
    Puts (.sltni o) s o.d (if a.toNat < (BitVec.ofInt 64 i).toNat then 1 else 0)) ∧
  (∀ o : SHop, CanIssue s [o.a.toNat] o.d.toNat →
    let a := s.me.rx o.a.toNat
    Puts (.slli o) s o.d (BitVec.ofNat 64 (a.toNat * 2 ^ o.sh.toNat)) ∧ Puts (.srli o) s o.d (BitVec.ofNat 64 (a.toNat / 2 ^ o.sh.toNat)) ∧
    Puts (.srai o) s o.d (BitVec.ofInt 64 (a.toInt / 2 ^ o.sh.toNat))) ∧
  (∀ o : RDIop, CanIssue s [] o.d.toNat →
    Puts (.ldhi o) s o.d (BitVec.ofInt 64 (o.i.toInt * 65536)) ∧ Puts (.addpc o) s o.d (s.me.pc + BitVec.ofInt 64 (o.i.toInt * 65536))) ∧
  (∀ o : BFop, CanIssue s [o.a.toNat] o.d.toNat →
    let a := s.me.rx o.a.toNat
    let off := o.off.toNat
    let wid := min o.wid.toNat (64 - off)
    Puts (.bexti o) s o.d (if o.wid = 0 ∨ off ≥ 64 then 0 else BitVec.ofNat 64 (a.toNat / 2 ^ off % 2 ^ wid)) ∧
    (s.me.isEmpty o.d.toNat = false →
      let x := s.me.rx o.d.toNat
      Puts (.binsi o) s o.d (if o.wid = 0 ∨ off ≥ 64 then x
        else BitVec.ofNat 64 (x.toNat - x.toNat / 2 ^ off % 2 ^ wid * 2 ^ off + a.toNat % 2 ^ wid * 2 ^ off))))

/-- R184: a branch that is taken goes to its target when that lies in the I-store window; one that is not taken goes on at PC + 4, whatever its target.
The links of `jal` and `jalr` are PC + 4.
R184: a taken branch, a `jal` or a `jalr` whose target lies outside the I-store window faults TRANSLATION, writes no link and leaves the pc in EPC; a `jalr`
target that is not a multiple of 4 faults ALIGN. -/
def Obligations.BranchesAndJumps : Prop :=
  (∀ s : State,
    (∀ o : BRop, CanIssue s [o.a.toNat, o.b.toNat] 0 →
      let a := s.me.rx o.a.toNat
      let b := s.me.rx o.b.toNat
      let target := s.me.pc + BitVec.ofInt 64 (o.off.toInt * 4)
      let Goes (i : Instr) (taken : Prop) : Prop := (taken → inIstore target.toNat = true → GoesTo i s target) ∧ (¬taken → GoesTo i s (s.me.pc + 4))
      Goes (.beq o) (a = b) ∧ Goes (.bne o) (a ≠ b) ∧ Goes (.blt o) (a.toInt < b.toInt) ∧ Goes (.bltn o) (a.toNat < b.toNat) ∧
      Goes (.bge o) (a.toInt ≥ b.toInt) ∧ Goes (.bgen o) (a.toNat ≥ b.toNat)) ∧
    (∀ off : BitVec 26, CanIssue s [] 31 →
      let target := s.me.pc + BitVec.ofInt 64 (off.toInt * 4)
      inIstore target.toNat = true → Result.Writes (.jal off) s 31 (s.me.pc + 4) target) ∧
    (∀ o : RIop, CanIssue s [o.a.toNat] o.d.toNat →
      let target := s.me.rx o.a.toNat + BitVec.ofInt 64 o.i.toInt
      inIstore target.toNat = true → target.toNat % 4 = 0 → Result.Writes (.jalr o) s o.d.toNat (s.me.pc + 4) target)) ∧
  (∀ s : State, MayTrap s →
    (∀ o : BRop, CanIssue s [o.a.toNat, o.b.toNat] 0 →
      let a := s.me.rx o.a.toNat
      let b := s.me.rx o.b.toNat
      let target := s.me.pc + BitVec.ofInt 64 (o.off.toInt * 4)
      inIstore target.toNat = false →
      let Bad (i : Instr) (taken : Prop) : Prop := taken → Traps i s 3 s.me.pc.toNat target.toNat s.me.pc
      Bad (.beq o) (a = b) ∧ Bad (.bne o) (a ≠ b) ∧ Bad (.blt o) (a.toInt < b.toInt) ∧ Bad (.bltn o) (a.toNat < b.toNat) ∧
      Bad (.bge o) (a.toInt ≥ b.toInt) ∧ Bad (.bgen o) (a.toNat ≥ b.toNat)) ∧
    (∀ off : BitVec 26, CanIssue s [] 31 →
      let target := s.me.pc + BitVec.ofInt 64 (off.toInt * 4)
      inIstore target.toNat = false → Traps (.jal off) s 3 s.me.pc.toNat target.toNat s.me.pc) ∧
    (∀ o : RIop, CanIssue s [o.a.toNat] o.d.toNat →
      let target := s.me.rx o.a.toNat + BitVec.ofInt 64 o.i.toInt
      (target.toNat % 4 ≠ 0 → Traps (.jalr o) s 2 s.me.pc.toNat target.toNat s.me.pc) ∧
      (target.toNat % 4 = 0 → inIstore target.toNat = false → Traps (.jalr o) s 3 s.me.pc.toNat target.toNat s.me.pc)))

/-- R191, R350, R351, R164: `trap` and `brk` take an exception that carries their code, with EPC after and at the word; a scalar word whose encoding is not assigned
takes ILLEGAL.
R351, R352: a fault in a handler, or without a handler, ends the context: with DOUBLE_FAULT in a handler, and with the fault otherwise. `vsetl`, `vfetch`, `vfetchr`, `vstrip`,
`vrel`, `fin` and a write of TVEC take ILLEGAL in a handler, and so DOUBLE_FAULT.
R154, R354: a scalar source that traps when it is empty takes FE_EMPTY, which names its register, in every word with FEA or FEB; of two such sources the first is named. -/
def Obligations.TrapsTaken : Prop :=
  (∀ s : State, MayTrap s → CanIssue s [] 0 →
    (∀ code : BitVec 11, Traps (.trap code) s (17 + 65536 * code.toNat) s.me.pc.toNat 0 (s.me.pc + 4)) ∧
    (∀ code : BitVec 11, Traps (.brk code) s (18 + 65536 * code.toNat) s.me.pc.toNat 0 s.me.pc) ∧
    (∀ w : BitVec 32, Traps (.unassignedEncoding w) s 1 s.me.pc.toNat 0 s.me.pc)) ∧
  (∀ (s : State) (code : BitVec 11), CanIssue s [] 0 → (s.me.hnd = true ∨ s.me.tvec = 0) →
    ∃ t, exec (.trap code) s = .next t ∧ t.me.status = .ending ∧
      t.me.endRec.code = (if s.me.hnd then 28 else 17) ∧ (s.me.hnd = false → t.me.endRec.aux = code.toNat) ∧ t.me.x = s.me.x) ∧
  (∀ s : State, s.me.ready = true → s.me.hnd = true →
    (∀ (d : XReg) (sew grp : BitVec 2), DoubleFaults (.vsetl d sew grp) s) ∧ (∀ off : BitVec 21, DoubleFaults (.vfetch off) s) ∧
    (∀ (a : XReg) (off : BitVec 21), DoubleFaults (.vfetchr a off) s) ∧ (∀ off : BitVec 16, DoubleFaults (.vstrip off) s) ∧ DoubleFaults .vrel s ∧
    DoubleFaults .fin s ∧ (∀ a : XReg, DoubleFaults (.csrw 0x100 a) s ∧ DoubleFaults (.csrs 0x100 a) s ∧ DoubleFaults (.csrc 0x100 a) s)) ∧
  (∀ s : State, MayTrap s → s.me.ready = true →
    (∀ o : RRop, ∀ i ∈ [Instr.add o, .sub o, .and o, .or o, .xor o, .andn o, .orn o, .sll o, .srl o, .sra o, .rotl o, .rotr o, .min o, .max o, .minn o, .maxn o,
        .slt o, .sltn o, .bext o, .bins o, .mul o, .mulh o, .mulhn o, .div o, .divn o, .rem o, .remn o, .bkclone o, .bkred o, .bkload o],
      TrapsEmpty i s [(o.a, o.fa), (o.b, o.fb)]) ∧
    (∀ o : RRop, (locksOf s s.cur).length < 4 → TrapsEmpty (.bklock o) s [(o.a, o.fa), (o.b, o.fb)]) ∧
    (∀ o : RAop, ∀ i ∈ [Instr.clz o, .ctz o, .popc o, .vckm o, .cpyk o, .wmark o, .tflip o, .bkx o, .bkseal o, .bkinv o, .bkst o], TrapsEmpty i s [(o.a, o.fa)]) ∧
    (∀ o : CPop, ∀ i ∈ [Instr.cpy o, .cpyg o, .cpyr o], TrapsEmpty i s [(o.a, o.fa)]) ∧ (∀ o : TMop, TrapsEmpty (.tmv o) s [(o.a, o.fa), (o.b, o.fb)]) ∧
    (∀ o : TKAop, ∀ i ∈ [Instr.own o, .ret o, .rdrop o], TrapsEmpty i s [(o.a, o.fa)]) ∧
    (∀ o : TKop, ∀ i ∈ [Instr.lend o, .split o, .merge o, .rshare o, .tq o], TrapsEmpty i s [(o.a, o.fa), (o.b, o.fb)]) ∧
    (∀ o : BAop, TrapsEmpty (.barInit o) s [(o.a, o.fa), (o.b, o.fb)] ∧ TrapsEmpty (.barArrive o) s [(o.a, o.fa), (o.b, o.fb)]) ∧
    (∀ o : BWop, TrapsEmpty (.barWait o) s ((o.a, o.fa) :: (if o.exp then [(o.b, o.fb)] else []))) ∧
    (∀ (a : XReg) (fa : Bool), TrapsEmpty (.bkunlock a fa) s [(a, fa)]) ∧
    (∀ o : ATop, ∀ i ∈ [Instr.aaddW o, .aandW o, .aorW o, .axorW o, .aminW o, .amaxW o, .aswapW o, .acasW o, .aaddD o, .aandD o, .aorD o, .axorD o, .aminD o,
        .amaxD o, .aswapD o, .acasD o], TrapsEmpty i s [(o.a, o.fa), (o.b, o.fb)]) ∧
    (∀ o : ATCop, ∀ i ∈ [Instr.aaddWC o, .aandWC o, .aorWC o, .axorWC o, .aminWC o, .amaxWC o, .aswapWC o, .acasWC o, .aaddDC o, .aandDC o, .aorDC o, .axorDC o,
        .aminDC o, .amaxDC o, .aswapDC o, .acasDC o], TrapsEmpty i s [(o.a, o.fa), (o.b, o.fb)]))

/-- R191, R348, R351: `tret` ends the handler at EPC with every x register as before and puts the held words, in their order, in front of the VLC's words in its
core's queue, but for those behind a class V fault that is still to be taken (log 23: the rules do not say which held words resume then); outside a handler it takes
ILLEGAL.
R348, R349, R351, R399: TRAP_ENTRY takes the oldest waiting fault that is charged to an instruction, else a class S fault that has waited (its place among them is log 23),
else the first of class A; with a handler and at an instruction boundary. The record of a class V fault counts the held words, apart from those that a `tret` has resumed. In a handler, a fault of one of its instructions ends the
context with DOUBLE_FAULT. -/
def Obligations.HandlerEntryAndReturn : Prop :=
  (∀ s : State, CanIssue s [] 0 →
    (s.me.hnd = true → ∃ t, exec .tret s = .next t ∧ t.me.hnd = false ∧ t.me.pc = s.me.epc ∧ t.me.x = s.me.x ∧ t.me.empty = s.me.empty ∧
      t.me.frec = s.me.frec ∧ t.me.vfaults = s.me.vfaults ∧ t.me.held = s.me.held.filter (fun e => !s.me.clearOf e.id) ∧
      (getCore t (s.cur / 4)).viq.map (fun e => e.id) = ((getCore s (s.cur / 4)).viq.filter (fun e => e.vlc != s.cur)).map (fun e => e.id) ++
        (s.me.held.filter (fun e => s.me.clearOf e.id)).map (fun e => e.id) ++ (viqOf s s.cur).map (fun e => e.id) ∧
      (∀ a, mget t.mem a = mget s.mem a) ∧ ∀ m, m ≠ s.cur → getVlc t m = getVlc s m) ∧
    (MayTrap s → Traps .tret s 1 s.me.pc.toNat 0 s.me.pc)) ∧
  (∀ (s : State) (n : Nat),
    let v := getVlc s n
    let Takes (f : FRec) (epc : Word) : Prop := ∃ t, exec (.trapEntry n) s = .next t ∧
      TookVlc { v with faults := (getVlc t n).faults } (getVlc t n) f.word0 f.word1 f.word2 f.word3 epc (if f.cls = 0 ∧ (f.code = 17 ∨ f.code = 19) then 1 else 0) ∧
      TookFrame n s { t with net := s.net }
    (v.status = .running → v.rewind = false → v.hnd = false → v.tvec ≠ 0 → vecBusy s n = false →
      (∀ p ∈ v.faults, p.fr.cls = 2 → v.wait = .none → v.feed = none ∨ v.feedStop = true →
        (∀ q ∈ v.faults, q.fr.cls = 2 → p = q ∨ p.ord < q.ord) → (∀ q ∈ v.vfaults, p.ord < q.ord) → Takes p.fr v.pc) ∧
      (∀ p ∈ v.vfaults, p.fr.cls = 1 → v.wait = .none → v.feed = none ∨ v.feedStop = true →
        (∀ q ∈ v.faults, q.fr.cls = 2 → p.ord < q.ord) → (∀ q ∈ v.vfaults, p = q ∨ p.ord < q.ord) → Takes { p.fr with vqn := (v.held.filter (fun e => !e.resumed)).length } v.pc) ∧
      (∀ f epc, v.sfault = some (f, epc) → f.cls = 0 → v.wait = .none → v.feed = none → v.vfaults = [] → (∀ q ∈ v.faults, q.fr.cls ≠ 2) →
        Takes f (BitVec.ofNat 64 epc)) ∧
      (∀ p l, v.faults = p :: l → p.fr.cls = 3 → v.feed = none → v.vfaults = [] → v.sfault = none → (∀ q ∈ v.faults, q.fr.cls ≠ 2) →
        (v.wait = .none ∨ (∃ c, v.wait = .event c ∨ v.wait = .sleep c) ∨
          ∃ a x, v.wait = .barrier a ∧ findAcc s a = some x ∧ x.kind = .barWait) → Takes p.fr v.pc)) ∧
    (∀ p ∈ v.faults, v.status = .running → v.hnd = true → p.fr.cls = 2 → v.hndAt ≤ p.ord →
      ∃ t, exec (.trapEntry n) s = .next t ∧ (getVlc t n).status = .ending ∧ (getVlc t n).endRec.code = 28))

/-- R175, R183: every load form sends its access, or is answered from the strip store buffer, and leaves its register empty, where no load of the VLC has performed
before it issues.
R350, R360: a load whose address fails a check takes the fault of that check at issue, its address in the record. -/
def Obligations.LoadsIssue : Prop := ∀ s : State,
  (∀ o : MEMCop,
    IssuesLoad (.ldbC o) s o.r o.a o.p 1 true o.c.toNat ∧ IssuesLoad (.ldbnC o) s o.r o.a o.p 1 false o.c.toNat ∧
    IssuesLoad (.ldhC o) s o.r o.a o.p 2 true o.c.toNat ∧ IssuesLoad (.ldhnC o) s o.r o.a o.p 2 false o.c.toNat ∧
    IssuesLoad (.ldwC o) s o.r o.a o.p 4 true o.c.toNat ∧ IssuesLoad (.ldwnC o) s o.r o.a o.p 4 false o.c.toNat ∧
    IssuesLoad (.lddC o) s o.r o.a o.p 8 false o.c.toNat) ∧
  (∀ o : MEMop, let c := s.me.ocdef.toNat
    IssuesLoad (.ldb o) s o.r o.a o.p 1 true c ∧ IssuesLoad (.ldbn o) s o.r o.a o.p 1 false c ∧
    IssuesLoad (.ldh o) s o.r o.a o.p 2 true c ∧ IssuesLoad (.ldhn o) s o.r o.a o.p 2 false c ∧
    IssuesLoad (.ldw o) s o.r o.a o.p 4 true c ∧ IssuesLoad (.ldwn o) s o.r o.a o.p 4 false c ∧ IssuesLoad (.ldd o) s o.r o.a o.p 8 false c)

/-- R57, R183: every store form sends the low bytes of its register, or keeps them in the strip store buffer.
R350, R360, R361: a store whose address fails a check takes the fault of that check at issue; one that fails the checks of its target as it enters the buffer is
removed from it with a fault of class D. -/
def Obligations.StoresIssue : Prop := ∀ s : State,
  (∀ o : MEMCop,
    IssuesStore (.stbC o) s o.r o.a o.p 1 o.c.toNat ∧ IssuesStore (.sthC o) s o.r o.a o.p 2 o.c.toNat ∧
    IssuesStore (.stwC o) s o.r o.a o.p 4 o.c.toNat ∧ IssuesStore (.stdC o) s o.r o.a o.p 8 o.c.toNat) ∧
  (∀ o : MEMop, let c := s.me.ocdef.toNat
    IssuesStore (.stb o) s o.r o.a o.p 1 c ∧ IssuesStore (.sth o) s o.r o.a o.p 2 c ∧
    IssuesStore (.stw o) s o.r o.a o.p 4 c ∧ IssuesStore (.std o) s o.r o.a o.p 8 c)

/-- R105, R185: every far atomic sends its operation, with its operands, to the home.
R350, R360, R362: one whose address fails a check takes the fault of that check at issue, and one whose home lies outside its scope SCOPE. -/
def Obligations.AtomicsIssue : Prop := ∀ s : State,
  (∀ o : ATCop, let I (i : Instr) (op size : Nat) : Prop := IssuesAtomic i s op size o.d o.a o.b o.sc o.c.toNat
    I (.aaddWC o) 0 4 ∧ I (.aandWC o) 1 4 ∧ I (.aorWC o) 2 4 ∧ I (.axorWC o) 3 4 ∧ I (.aminWC o) 4 4 ∧ I (.amaxWC o) 5 4 ∧
    I (.aswapWC o) 6 4 ∧ I (.acasWC o) 7 4 ∧ I (.aaddDC o) 0 8 ∧ I (.aandDC o) 1 8 ∧ I (.aorDC o) 2 8 ∧ I (.axorDC o) 3 8 ∧
    I (.aminDC o) 4 8 ∧ I (.amaxDC o) 5 8 ∧ I (.aswapDC o) 6 8 ∧ I (.acasDC o) 7 8) ∧
  (∀ o : ATop, let I (i : Instr) (op size : Nat) : Prop := IssuesAtomic i s op size o.d o.a o.b o.sc s.me.ocdef.toNat
    I (.aaddW o) 0 4 ∧ I (.aandW o) 1 4 ∧ I (.aorW o) 2 4 ∧ I (.axorW o) 3 4 ∧ I (.aminW o) 4 4 ∧ I (.amaxW o) 5 4 ∧
    I (.aswapW o) 6 4 ∧ I (.acasW o) 7 4 ∧ I (.aaddD o) 0 8 ∧ I (.aandD o) 1 8 ∧ I (.aorD o) 2 8 ∧ I (.axorD o) 3 8 ∧
    I (.aminD o) 4 8 ∧ I (.amaxD o) 5 8 ∧ I (.aswapD o) 6 8 ∧ I (.acasD o) 7 8)

/-- R104, R110, R183, R185: a load, a store and a far atomic take effect where they perform. A load reads its bytes and sends them to its register, extended; a
store writes its bytes and no other byte; the home writes the new word of the operation's table and sends back the old one, sign-extended.
R93, R349, R361, R380, R391: one that fails at its target takes a fault of class D, which names its instruction, address and register, and leaves 0 in the full register; nothing is
written. A load that reads an uncorrectable word in a rewindable strip asks for the rewind instead. -/
def Obligations.AccessesPerform : Prop := ∀ (s : State) (n pa : Nat) (a : Access), findAcc s n = some a → a.tgt = .loc pa → a.size ∈ [1, 2, 4, 8] →
  pa % a.size = 0 → mayPerform s a = true → a.dead = false →
  (a.vdst = none → (getVlc s a.vlc).status = .running → (getVlc s a.vlc).faults.length < 16 →
    (∀ c, a.kind = .load → targetCheck s a .read pa = some c → FailsAt (.targetAccess n) s a c) ∧
    (a.kind = .load → targetCheck s a .read pa = none → ueIn s pa a.size = true → (getVlc s a.vlc).rewindable = false →
      FailsAt (.targetAccess n) s a 22) ∧
    (a.kind = .load → targetCheck s a .read pa = none → ueIn s pa a.size = true → (getVlc s a.vlc).rewindable = true →
      ∃ t, exec (.targetAccess n) s = .next t ∧ NetLoses s t a.ser ∧ t.fills = s.fills ∧ (∀ b, mget t.mem b = mget s.mem b) ∧
        getVlc t a.vlc = { (getVlc s a.vlc).fillX a.reg 0 with rewind := true } ∧ ∀ m, m ≠ a.vlc → getVlc t m = getVlc s m) ∧
    (∀ c, a.kind = .store → targetCheck s a .write pa = some c → FailsAt (.targetAccess n) s a c) ∧
    (a.kind = .store → targetCheck s a .write pa = none → isLost s pa = true → FailsAt (.targetAccess n) s a 22) ∧
    (∀ c, a.kind = .atomic → a.chk = false → homeCheck s (getVlc s a.vlc).agent pa a.size = some c → FailsAt (.homeAtomic n) s a c)) ∧
  (a.kind = .load → targetCheck s a .read pa = none → ueIn s pa a.size = false →
    ∃ t f, exec (.targetAccess n) s = .next t ∧ (∀ b, mget t.mem b = mget s.mem b) ∧ NetLoses s t a.ser ∧ t.fills = s.fills ++ [f] ∧
      f.vlc = a.vlc ∧ f.reg = a.reg ∧ (a.fmask = 0 → f.val = extend a.sgn a.size (mread s.mem pa a.size)) ∧ t.vlcs = s.vlcs) ∧
  (a.kind = .store → targetCheck s a .write pa = none → isLost s pa = false →
    ∃ t, exec (.targetAccess n) s = .next t ∧ mread t.mem pa a.size = a.data % 2 ^ (8 * a.size) ∧ BytesKept s t pa a.size ∧
      NetLoses s t a.ser ∧ t.fills = s.fills ∧ t.vlcs = s.vlcs) ∧
  (a.kind = .atomic → a.vdst = none → (a.size = 4 ∨ a.size = 8) → homeCheck s (getVlc s a.vlc).agent pa a.size = none →
    let w := 8 * a.size
    let old := mread s.mem pa a.size
    let new := match a.op with
      | 0 => (old + a.data) % 2 ^ w
      | 1 => old &&& a.data % 2 ^ w
      | 2 => old ||| a.data % 2 ^ w
      | 3 => old ^^^ a.data % 2 ^ w
      | 4 => if sx w old ≤ sx w a.data then old else a.data % 2 ^ w
      | 5 => if sx w old ≥ sx w a.data then old else a.data % 2 ^ w
      | 6 => a.data % 2 ^ w
      | _ => if old = a.cmp % 2 ^ w then a.data % 2 ^ w else old
    ∃ t f, exec (.homeAtomic n) s = .next t ∧ mread t.mem pa a.size = new ∧ BytesKept s t pa a.size ∧ t.fills = s.fills ++ [f] ∧ f.vlc = a.vlc ∧ f.reg = a.reg ∧
      f.val = (BitVec.ofInt 64 (sx w old)).toNat ∧ NetLoses s t a.ser ∧ t.vlcs = s.vlcs)

/-- R175, R192: a fill writes its register, marks it full and sets the event bit; nothing else of any context changes. That a fill on its way to x0 sets the event
bit too is the model's reading (log 45). -/
def Obligations.RegisterFills : Prop := ∀ (s : State) (n : Nat) (f : Fill), s.fills[n]? = some f → f.vdst = none → f.rq = false →
  ∃ t, exec (.registerFill n) s = .next t ∧ t.fills = s.fills.eraseIdx n ∧ (∀ a, mget t.mem a = mget s.mem a) ∧
    (∀ m, m ≠ f.vlc → getVlc t m = getVlc s m) ∧
    let v := getVlc s f.vlc
    let w := getVlc t f.vlc
    w.event = true ∧ (f.reg < 32 → w.rx f.reg = (if f.reg = 0 then 0 else BitVec.ofNat 64 f.val) ∧ w.isEmpty f.reg = false ∧ w.isPend f.reg = false) ∧
    (∀ k, k ≠ f.reg → w.rx k = v.rx k ∧ w.isEmpty k = v.isEmpty k ∧ w.isPend k = v.isPend k) ∧
    w = { v with x := w.x, empty := w.empty, pend := w.pend, event := true }

/-- R107, R108, R298: barrier operations at the home. Init sets PEND and clears UNDER; a debit takes PEND down, or to 0 with UNDER set when it is too large; EPOCH
goes up by 1, modulo 2^32, exactly when PEND goes from a non-zero value to 0; xd takes the word before the operation and the VLC issues again.
R109, R298: the home ends a wait that finds PEND = 0 or an EPOCH other than the one sampled; otherwise the waiter keeps the EPOCH it sampled and goes on waiting. -/
def Obligations.BarriersPerform : Prop :=
  (∀ (s : State) (n pa : Nat) (a : Access), findAcc s n = some a → a.tgt = .loc pa → pa % 8 = 0 → a.size = 8 →
    mayPerform s a = true → a.dead = false → ueIn s pa 8 = false → a.reg < 32 → a.data ≤ 16777215 →
    let old := mread s.mem pa 8
    let pend := old % 2 ^ 24
    let epoch := old / 2 ^ 32
    let Ends (i : Instr) (pend' under' : Nat) : Prop := ∃ t, exec i s = .next t ∧
      (let new := mread t.mem pa 8
       new % 2 ^ 24 = pend' ∧ new / 2 ^ 24 % 2 = under' ∧ new / 2 ^ 25 % 2 ^ 7 = old / 2 ^ 25 % 2 ^ 7 ∧
        new / 2 ^ 32 = (if pend ≠ 0 ∧ pend' = 0 then (epoch + 1) % 2 ^ 32 else epoch)) ∧
      BytesKept s t pa 8 ∧ WritesX (getVlc s a.vlc) (getVlc t a.vlc) a.reg (BitVec.ofNat 64 old) ∧ (getVlc t a.vlc).wait = .none ∧
      (getVlc t a.vlc).pc = (getVlc s a.vlc).pc + 4 ∧ ∀ m, m ≠ a.vlc → getVlc t m = getVlc s m
    (a.kind = .barInit → Ends (.homeBarInit n) a.data 0) ∧
    (a.kind = .barArrive → Ends (.homeDebit n) (if a.data > pend then 0 else pend - a.data) (if a.data > pend then 1 else old / 2 ^ 24 % 2))) ∧
  (∀ (s : State) (n pa : Nat) (a : Access), findAcc s n = some a → a.tgt = .loc pa → a.kind = .barWait → a.reg < 32 →
    bankTurn s (.acc a.ser) (getVlc s a.vlc).agent [pa] = true → ueIn s pa 8 = false →
    let w := mread s.mem pa 8
    let e0 := a.e0.getD (w / 2 ^ 32)
    (w % 2 ^ 24 = 0 ∨ w / 2 ^ 32 ≠ e0 →
      ∃ t, exec (.homeWait n) s = .next t ∧ (getVlc t a.vlc).wait = .none ∧ (getVlc t a.vlc).pc = (getVlc s a.vlc).pc + 4 ∧
        WritesX (getVlc s a.vlc) (getVlc t a.vlc) a.reg (BitVec.ofNat 64 w) ∧ (∀ b, mget t.mem b = mget s.mem b) ∧
        ∀ m, m ≠ a.vlc → m / 4 = a.vlc / 4 → (getVlc s m).status ≠ .free → (getVlc t m).event = true) ∧
    (w % 2 ^ 24 ≠ 0 → w / 2 ^ 32 = e0 → a.e0 = none →
      ∃ t b, exec (.homeWait n) s = .next t ∧ b ∈ t.net ∧ b.ser = a.ser ∧ b.e0 = some e0 ∧ t.vlcs = s.vlcs ∧ t.mem = s.mem))

/-- R186 to R188, R192 to R194, R206: `nop`, `fe.set`, `fe.clr`, `vckm`, the fences, `wfe` and `sleepc` at issue.
R192, R193: a wait that has come to its end completes, and its word ends. -/
def Obligations.ControlWords : Prop :=
  (∀ s : State,
    let v := s.me
    let pc := v.pc + 4
    let Fence (i : Instr) (mask : BitVec 16) (scope : Nat) : Prop := ∃ t f, exec i s = .next t ∧ f ∈ t.me.fences ∧ f.mask = mask ∧ f.scope = scope ∧
      f.id = s.nextId ∧ t.me = { ended v pc with fences := t.me.fences } ∧ { t with vlcs := s.vlcs, nextId := s.nextId } = s ∧ t.nextId = s.nextId + 1 ∧
      ∀ m, m ≠ s.cur → getVlc t m = getVlc s m
    (CanIssue s [] 0 → Leaves .nop s (ended v pc)) ∧
    (∀ d : BitVec 5, CanIssue s [] d.toNat →
      let Marks (i : Instr) (e : Bool) : Prop := ∃ t, exec i s = .next t ∧ Becomes s.cur { ended v pc with empty := t.me.empty } s t ∧
        t.me.isEmpty d.toNat = (e && d.toNat != 0) ∧ ∀ k, k ≠ d.toNat → t.me.isEmpty k = v.isEmpty k
      Marks (.feSet d) false ∧ Marks (.feClr d) true) ∧
    (∀ mask : BitVec 16, CanIssue s [] 0 → (mask = 0 → Leaves (.fenceC mask) s (ended v pc)) ∧ (mask ≠ 0 → Fence (.fenceC mask) mask 4)) ∧
    (∀ sc : BitVec 3, CanIssue s [] 0 → Fence (.fenceS sc) 0xFFFF sc.toNat) ∧
    (∀ o : RAop, CanIssue s [o.a.toNat] o.d.toNat →
      ∃ t, exec (.vckm o) s = .next t ∧ OnlyMe s t ∧ WritesX v t.me o.d.toNat (v.ckm.zeroExtend 64) ∧
        t.me.ckm = (v.rx o.a.toNat).truncate 32 &&& 0xFFFFFFFE ∧ t.me = { ended v pc with x := t.me.x, empty := t.me.empty, ckm := t.me.ckm }) ∧
    (∀ t : BitVec 11, CanIssue s [] 0 →
      (v.event = true → Leaves (.wfe t) s { ended v pc with event := false }) ∧
      (v.event = false → Leaves (.wfe t) s { v with wait := .event (if t = 0 then 0 else s.cyc + t.toNat * 256) })) ∧
    (∀ a : XReg, CanIssue s [a.toNat] 0 →
      let c := (v.rx a.toNat).toNat
      (s.cyc ≥ c → Leaves (.sleepc a) s (ended v pc)) ∧ (s.cyc < c → Leaves (.sleepc a) s { v with wait := .sleep c }))) ∧
  (∀ (s : State) (n limit : Nat), (getVlc s n).status = .running → s.cyc ≥ limit →
    let v := ended (getVlc s n) ((getVlc s n).pc + 4)
    ((getVlc s n).wait = .event limit → limit ≠ 0 →
      ∃ t, exec (.wfeTimeout n) s = .next t ∧ Becomes n { v with wait := .none, event := false } s t) ∧
    ((getVlc s n).wait = .sleep limit → ∃ t, exec (.sleepcExpiry n) s = .next t ∧ Becomes n { v with wait := .none } s t))

/-- R81, R114, R116, R117, R118: an access does not perform while an older access of its VLC of the same class, to a common byte, or with both to DEV memory, is
still to perform; and a load, store or far atomic, of every size and with its class in the word or in OCDEF, does not leave its VLC, but only notes the banks for which it waits,
while a fence before it, of whose mask and scope it is, waits for an older access. -/
def Obligations.OrderKept : Prop := ∀ (s : State) (a : Access), a ∈ s.net → a.counts = true →
  (∀ b : Access, findAcc s b.ser = some b → b.vlc = a.vlc → a.id < b.id →
    (a.cls = b.cls ∨ sameByte a.tgt a.size b.tgt b.size = true ∨ (a.dev = true ∧ b.dev = true)) →
    exec (.targetAccess b.ser) s = .next s ∧ exec (.homeAtomic b.ser) s = .next s) ∧
  (∀ (f : FenceRec) (c : Nat) (q : Passed), a.vlc = s.cur → f ∈ s.me.fences → a.id < f.id → f.id < s.nextId →
    f.mask.getLsbD a.cls = true → f.mask.getLsbD c = true → inScope s.cur f.scope a.tgt = true → inScope s.cur f.scope q.tgt = true →
    let Waits (i : Instr) : Prop := ∃ t, exec i s = .next t ∧ { t with waits := s.waits, nextId := s.nextId } = s
    let Load (i : Instr) (r a : XReg) (p : BitVec 12) (size : Nat) : Prop := CanIssue s [a.toNat] r.toNat →
      addrCheck s (whoOf s s.cur) (effAddr s a p size) size .read = .ok q → Waits i
    let Store (i : Instr) (r a : XReg) (p : BitVec 12) (size : Nat) : Prop := CanIssue s [a.toNat, r.toNat] 0 →
      addrCheck s (whoOf s s.cur) (effAddr s a p size) size .write = .ok q → Waits i
    let Atomic (i : Instr) (size : Nat) (cas : Bool) (d a b : XReg) (sc : BitVec 3) : Prop := CanIssue s ([a.toNat, b.toNat] ++ (if cas then [d.toNat] else [])) d.toNat →
      addrCheck s (whoOf s s.cur) (s.me.rx a.toNat).toNat size .atomic = .ok q → inScope s.cur sc.toNat q.tgt = true → Waits i
    (∀ o : MEMCop, o.c.toNat = c →
      Load (.ldbC o) o.r o.a o.p 1 ∧ Load (.ldbnC o) o.r o.a o.p 1 ∧ Load (.ldhC o) o.r o.a o.p 2 ∧ Load (.ldhnC o) o.r o.a o.p 2 ∧ Load (.ldwC o) o.r o.a o.p 4 ∧
      Load (.ldwnC o) o.r o.a o.p 4 ∧ Load (.lddC o) o.r o.a o.p 8 ∧
      Store (.stbC o) o.r o.a o.p 1 ∧ Store (.sthC o) o.r o.a o.p 2 ∧ Store (.stwC o) o.r o.a o.p 4 ∧ Store (.stdC o) o.r o.a o.p 8) ∧
    (∀ o : MEMop, s.me.ocdef.toNat = c →
      Load (.ldb o) o.r o.a o.p 1 ∧ Load (.ldbn o) o.r o.a o.p 1 ∧ Load (.ldh o) o.r o.a o.p 2 ∧ Load (.ldhn o) o.r o.a o.p 2 ∧ Load (.ldw o) o.r o.a o.p 4 ∧
      Load (.ldwn o) o.r o.a o.p 4 ∧ Load (.ldd o) o.r o.a o.p 8 ∧
      Store (.stb o) o.r o.a o.p 1 ∧ Store (.sth o) o.r o.a o.p 2 ∧ Store (.stw o) o.r o.a o.p 4 ∧ Store (.std o) o.r o.a o.p 8) ∧
    (∀ o : ATCop, o.c.toNat = c →
      (∀ i ∈ [Instr.aaddWC o, .aandWC o, .aorWC o, .axorWC o, .aminWC o, .amaxWC o, .aswapWC o], Atomic i 4 false o.d o.a o.b o.sc) ∧
      (∀ i ∈ [Instr.aaddDC o, .aandDC o, .aorDC o, .axorDC o, .aminDC o, .amaxDC o, .aswapDC o], Atomic i 8 false o.d o.a o.b o.sc) ∧
      Atomic (.acasWC o) 4 true o.d o.a o.b o.sc ∧ Atomic (.acasDC o) 8 true o.d o.a o.b o.sc) ∧
    (∀ o : ATop, s.me.ocdef.toNat = c →
      (∀ i ∈ [Instr.aaddW o, .aandW o, .aorW o, .axorW o, .aminW o, .amaxW o, .aswapW o], Atomic i 4 false o.d o.a o.b o.sc) ∧
      (∀ i ∈ [Instr.aaddD o, .aandD o, .aorD o, .axorD o, .aminD o, .amaxD o, .aswapD o], Atomic i 8 false o.d o.a o.b o.sc) ∧
      Atomic (.acasW o) 4 true o.d o.a o.b o.sc ∧ Atomic (.acasD o) 8 true o.d o.a o.b o.sc))

/-- R51, R54, R167, R168, R190: `csrr` of every number that R167 lists puts the register's value in xd; any other number takes ILLEGAL. -/
def Obligations.CsrReads : Prop := ∀ (s : State) (d : XReg), CanIssue s [] d.toNat →
  let v := s.me
  let sl := (getVault s (s.cur / 8)).slice
  let R (n : Nat) (w : Word) : Prop := Puts (.csrr d (BitVec.ofNat 11 n)) s d w
  let bit (b : Bool) (k : Nat) : Nat := if b then 2 ^ k else 0
  R 0x000 (BitVec.ofNat 64 s.cyc) ∧
  R 0x001 (BitVec.ofNat 64 (v.slotNo % 2048 + s.cur / 8 % 16 * 2 ^ 12 + s.cur / 128 * 2 ^ 16 + s.cur / 4 % 2 * 2 ^ 20 + s.cur % 4 * 2 ^ 21)) ∧
  R 0x010 (v.scPend.getD v.sc) ∧ R 0x011 v.sb ∧ R 0x012 v.prc ∧ R 0x013 (v.ckm.zeroExtend 64) ∧ R 0x020 (v.ocdef.zeroExtend 64) ∧
  R 0x021 (v.rmode.zeroExtend 64) ∧ R 0x030 (BitVec.ofNat 64 (getVault s (s.cur / 8)).lpr) ∧ R 0x100 v.tvec ∧ R 0x101 v.epc ∧
  (∀ k, k < 4 → R (0x102 + k) (tget 0 v.frec k) ∧ R (0x110 + k) (tget 0 v.bpa k)) ∧
  (vecBusy s s.cur = false →
    R 0x014 (BitVec.ofNat 64 v.vl) ∧ R 0x015 (v.vcfg.zeroExtend 64) ∧
    R 0x016 (BitVec.ofNat 64 (bit v.lanes 0 + bit v.sopen 1 + bit v.np 2 + bit v.sbfull 3 + bit v.devs 4)) ∧
    R 0x017 v.estart ∧ R 0x022 (v.fflags.zeroExtend 64) ∧ R 0x023 v.smm ∧
    (sl.holder = some s.cur → R 0x040 sl.prec ∧ R 0x041 sl.mstat) ∧
    (sl.holder ≠ some s.cur → MayTrap s → Traps (.csrr d 0x040) s 1 v.pc.toNat 0 v.pc ∧ Traps (.csrr d 0x041) s 1 v.pc.toNat 0 v.pc)) ∧
  (∀ n : BitVec 11, MayTrap s →
    n.toNat ∉ [0, 1, 0x10, 0x11, 0x12, 0x13, 0x14, 0x15, 0x16, 0x17, 0x20, 0x21, 0x22, 0x23, 0x30, 0x40, 0x41, 0x100, 0x101, 0x102, 0x103, 0x104, 0x105,
      0x110, 0x111, 0x112, 0x113] →
    Traps (.csrr d n) s 1 v.pc.toNat 0 v.pc)

/-- R58, R167, R168, R190, R351, R356: `csrw`, `csrs` and `csrc` write xa, the register with the bits of xa set, and with them clear; a write of SC in an open strip is
held; a read-only register, and TVEC in a handler, take ILLEGAL (TVEC there: `TrapsTaken`), as does a value of BPA0 to BPA3 that R356 refuses.
R51, R54, R144, R168: a write of LPR, PREC or MSTAT changes that field of the vault and no other state; one that R54 or R144 refuses, one of MSTAT that changes more than SAT,
and one of PREC or MSTAT without the claim take ILLEGAL. A write of LPR by core 0 comes before that of core 1 in a cycle: once core 1 has written, or has tried to, core 0
waits for the next one (`lprAt` is the model's mark of it, log 1). -/
def Obligations.CsrWrites : Prop := ∀ (s : State) (a : XReg) (mk : BitVec 11 → XReg → Instr) (g : Word → Word), CanIssue s [a.toNat] 0 →
  CsrForm mk g (s.me.rx a.toNat) →
  let v := s.me
  let pc := v.pc + 4
  (let W (n : Nat) (old : Word) (f : Word → Vlc) : Prop := Leaves (mk (BitVec.ofNat 11 n) a) s (ended (f (g old)) pc)
   let Bad (n : Nat) : Prop := Traps (mk (BitVec.ofNat 11 n) a) s 1 v.pc.toNat 0 v.pc
   W 0x010 (v.scPend.getD v.sc) (fun w => if v.sopen then { v with scPend := some w } else { v with sc := w }) ∧
   W 0x011 v.sb (fun w => { v with sb := w }) ∧ W 0x013 (v.ckm.zeroExtend 64) (fun w => { v with ckm := w.truncate 32 &&& 0xFFFFFFFE }) ∧
   W 0x020 (v.ocdef.zeroExtend 64) (fun w => { v with ocdef := w.truncate 4 }) ∧
   W 0x021 (v.rmode.zeroExtend 64) (fun w => { v with rmode := w.truncate 2 }) ∧ W 0x101 v.epc (fun w => { v with epc := w }) ∧
   (v.hnd = false → W 0x100 v.tvec (fun w => { v with tvec := w })) ∧
   (vecBusy s s.cur = false → W 0x017 v.estart (fun w => { v with estart := w }) ∧
     W 0x022 (v.fflags.zeroExtend 64) (fun w => { v with fflags := w.truncate 6 }) ∧ W 0x023 v.smm (fun w => { v with smm := w })) ∧
   (∀ k, k < 4 →
     let w := g (tget 0 v.bpa k)
     let bad := if w.getLsbD 1 then w.getLsbD 2 = true else w.toNat / 2 ^ 56 % 2 ^ 6 ≠ 0
     (¬bad → W (0x110 + k) (tget 0 v.bpa k) (fun w => { v with bpa := tset 0 v.bpa k (w &&& 0x3FFFFFFFFFFFFFFF) })) ∧ (MayTrap s → bad → Bad (0x110 + k))) ∧
   (MayTrap s → Bad 0x000 ∧ Bad 0x001 ∧ Bad 0x012 ∧ Bad 0x014 ∧ Bad 0x015 ∧ Bad 0x016 ∧ Bad 0x102 ∧ Bad 0x103 ∧ Bad 0x104 ∧ Bad 0x105)) ∧
  let n := s.cur / 8
  let old := getVault s n
  let Sets (c : BitVec 11) (u : Vault) : Prop := ∃ t, exec (mk c a) s = .next t ∧ { t with vlcs := s.vlcs, vaults := s.vaults } = s ∧ getVault t n = u ∧
    (∀ m, m ≠ n → getVault t m = getVault s m) ∧ t.me = ended s.me pc ∧ ∀ m, m ≠ s.cur → getVlc t m = getVlc s m
  let Ill (u : State) (c : BitVec 11) : Prop := TrapsFrom u (mk c a) s 1 v.pc.toNat 0 v.pc
  (let second := s.cur / 4 % 2 = 1
   let turn := second ∨ old.lprAt ≠ s.cyc + 1
   let part := (g (BitVec.ofNat 64 old.lpr)).toNat % 8
   let lanes (p : Nat) (c : Nat) : Nat := let k := if p = 0 then 16 else if p = 1 then 12 else if p = 2 then 8 else if p = 3 then 4 else 0; if c = 0 then k else 16 - k
   let refused := part ≥ 5 ∨ (∃ j, j < 8 ∧ (getVlc s (8 * n + j)).lanes = true) ∨
     ∃ l ∈ s.launches, ∃ x ∈ l.saved, x.ctx.lanes = true ∧ x.vlcNo / 8 = n ∧ lanes part (x.vlcNo / 4 % 2) ≠ lanes old.lpr (x.vlcNo / 4 % 2)
   (turn → ¬refused → Sets 0x030 { old with lpr := part, lprAt := if second then s.cyc + 1 else old.lprAt }) ∧ (¬turn → exec (mk 0x030 a) s = .next s) ∧
   (MayTrap s → turn → refused → Ill (if second then updVault n (fun v => { v with lprAt := s.cyc + 1 }) s else s) 0x030)) ∧
  (vecBusy s s.cur = false → old.slice.holder = some s.cur →
    (let x := g old.slice.prec
     (precBad x.toNat = false → Sets 0x040 { old with slice := { old.slice with prec := x } }) ∧ (MayTrap s → precBad x.toNat = true → Ill s 0x040)) ∧
    (let x := (g old.slice.mstat).toNat
     (x % 128 = old.slice.mstat.toNat % 128 → ∃ w, Sets 0x041 { old with slice := { old.slice with mstat := w } } ∧
       w.toNat / 128 % 2 = x / 128 % 2 ∧ w.toNat % 128 = old.slice.mstat.toNat % 128 ∧ w.toNat / 256 = old.slice.mstat.toNat / 256) ∧
     (MayTrap s → x % 128 ≠ old.slice.mstat.toNat % 128 → Ill s 0x041))) ∧
  (MayTrap s → old.slice.holder ≠ some s.cur → Ill s 0x040 ∧ Ill s 0x041)

/-- R53, R55, R56, R205: `vsetl` with the lanes held or free. It opens a strip with VL = min(SC, VLMAX), PRC = SC and a checkpoint of the registers that CKM names, or keeps
VL in an open strip; a VL above VLMAX there takes ILLEGAL. Without free lanes the VLC joins the core's queue. -/
def Obligations.StripOpens : Prop := ∀ (s : State) (d : XReg) (sew grp : BitVec 2), CanIssue s [] d.toNat → s.me.hnd = false →
  (∀ e ∈ viqOf s s.cur, ∀ w, memWordOf e.instr = some w → w.first = false) →
  let v := s.me
  let c := s.cur / 4
  let lanes := lanesOf (getVault s (s.cur / 8)).lpr (c % 2)
  let vmax := 192 * lanes * 2 ^ grp.toNat / (8 * 2 ^ sew.toNat)
  let free := (getCore s c).holder = none ∧ (getCore s c).queue = []
  let Grants (t : State) (vl : Nat) : Prop := WritesX v t.me d.toNat (BitVec.ofNat 64 vl) ∧ t.me.pc = v.pc + 4 ∧ t.me.vl = vl ∧ t.me.sopen = true ∧
    t.me.vcfg.toNat = sew.toNat + 4 * grp.toNat ∧ t.me.lanes = true ∧ (v.lanes = false → FreshLanes t.me ∧ (getCore t c).holder = some s.cur) ∧
    (v.lanes = true → t.me.v = v.v ∧ t.me.k = v.k) ∧ t.mem = s.mem ∧ (∀ m, m ≠ s.cur → getVlc t m = getVlc s m)
  (lanes ≠ 0 → v.sopen = false → (v.lanes = true ∨ free) →
    ∃ t, exec (.vsetl d sew grp) s = .next t ∧ Grants t (min v.sc.toNat vmax) ∧ t.me.prc = v.sc ∧ t.me.spc = v.pc ∧ t.me.cksb = v.sb ∧ t.me.sb = v.sb ∧
      t.me.sbfull = false ∧ t.me.devs = false ∧ t.me.ckmask = v.ckm ∧
      ∀ i, 0 < i → i < 32 → v.ckm.getLsbD i = true → tget 0 t.me.ckp i = v.rx i) ∧
  (lanes ≠ 0 → v.sopen = true → v.lanes = true → v.vl ≤ vmax →
    ∃ t, exec (.vsetl d sew grp) s = .next t ∧ Grants t v.vl ∧ t.me.prc = v.prc ∧ t.me.ckp = v.ckp) ∧
  (lanes ≠ 0 → v.sopen = false → v.lanes = false → ¬free →
    ∃ t, exec (.vsetl d sew grp) s = .next t ∧ t.me = { v with wait := .lanes } ∧ (getCore t c).queue = (getCore s c).queue ++ [s.cur] ∧
      t.mem = s.mem ∧ ∀ m, m ≠ s.cur → getVlc t m = getVlc s m) ∧
  (MayTrap s → (lanes = 0 ∨ (v.sopen = true ∧ v.vl > vmax)) → Traps (.vsetl d sew grp) s 1 v.pc.toNat 0 v.pc)

/-- R55, R59, R207, R237: `vrel` gives up the lanes and the claim; LANE_GRANT passes free lanes to the VLC that has waited longest, with its vector state 0.
R60: `fin` outside a strip and a handler, with no register empty and no command under way, ends the instance's words: its lanes, claim and row locks go, and it waits
for its marks. -/
def Obligations.LanesPass : Prop :=
  (∀ s : State,
    (CanIssue s [] 0 → s.me.sopen = false → s.me.hnd = false → vecBusy s s.cur = false →
      ∃ t, exec .vrel s = .next t ∧ t.me = { ended s.me (s.me.pc + 4) with lanes := false, vl := 0, vlGrant := 0, v := [], k := [], vempty := [] } ∧
        (getCore t (s.cur / 4)).holder ≠ some s.cur ∧ (getVault t (s.cur / 8)).slice.holder ≠ some s.cur ∧ t.mem = s.mem ∧
        ∀ m, m ≠ s.cur → getVlc t m = getVlc s m) ∧
    (MayTrap s → CanIssue s [] 0 → s.me.sopen = true → Traps .vrel s 1 s.me.pc.toNat 0 s.me.pc) ∧
    (∀ (n : Nat) (q : List Nat), (getCore s (n / 4)).holder = none → (getCore s (n / 4)).queue = n :: q → (getVlc s n).status ≠ .restoring →
      ∃ t, exec (.laneGrant (n / 4)) s = .next t ∧ (getCore t (n / 4)).holder = some n ∧ FreshLanes (getVlc t n) ∧ (getVlc t n).wait = .none ∧
        (getVlc t n).x = (getVlc s n).x ∧ (getVlc t n).pc = (getVlc s n).pc ∧ t.mem = s.mem ∧ ∀ m, m ≠ n → getVlc t m = getVlc s m)) ∧
  (∀ s : State, CanIssue s [] 0 →
    (s.me.sopen = false → s.me.hnd = false → vecBusy s s.cur = false → s.me.empty = 0 → (∀ c ∈ s.cmds, c.vlc ≠ s.cur) →
      ∃ t, exec .fin s = .next t ∧ t.me.status = .finishing ∧ t.me.lanes = false ∧ t.me.x = s.me.x ∧ t.me.marks = s.me.marks ∧
        (∀ l, l ∈ t.locks ↔ l ∈ s.locks ∧ l.vlc ≠ s.cur) ∧ (getCore t (s.cur / 4)).holder ≠ some s.cur ∧
        (getVault t (s.cur / 8)).slice.holder ≠ some s.cur ∧ t.mem = s.mem ∧ t.ops = s.ops ∧ ∀ m, m ≠ s.cur → getVlc t m = getVlc s m) ∧
    (MayTrap s → s.me.sopen = true → Traps .fin s 1 s.me.pc.toNat 0 s.me.pc))

/-- R58, R190, R208: `vstrip` performs the buffered stores, advances SB by VL, takes VL from SC, closes the strip, and goes to its target exactly when SC is left; a second
strip in a row that does not bring SC below PRC takes NO_PROGRESS, after those effects. -/
def Obligations.StripCloses : Prop := ∀ (s : State) (off : BitVec 16), CanIssue s [] 0 → s.me.lanes = true → s.me.sopen = true → s.me.hnd = false →
  vecBusy s s.cur = false → loadsOut s s.cur = false → mayFlush s s.cur = true →
  let v := s.me
  let sc := (v.scPend.getD v.sc).toNat
  let new := sc - v.vl
  let tgt := if new > 0 then v.pc + BitVec.ofInt 64 (off.toInt * 4) else v.pc + 4
  let progress := new = 0 ∨ new < v.prc.toNat
  let Closed (t : State) : Prop := t.me.sb = v.sb + BitVec.ofNat 64 v.vl ∧ t.me.sc = BitVec.ofNat 64 new ∧ t.me.scPend = none ∧ t.me.sopen = false ∧
    t.me.sbuf = [] ∧ t.me.vl = v.vl ∧ t.me.x = v.x ∧ t.me.v = v.v ∧ (∀ m, m ≠ s.cur → getVlc t m = getVlc s m)
  ((progress ∨ v.np = false) → ∃ t, exec (.vstrip off) s = .next t ∧ Closed t ∧ t.me.np = decide (¬progress) ∧ t.me.pc = tgt ∧
    (∀ l b pa, v.sbuf = l ++ [b] → (∀ x ∈ l, ∃ p, x.tgt = .loc p) → (∀ a ∈ s.net, a.vlc = s.cur → a.seqd = false) → b.tgt = .loc pa → b.size ∈ [1, 2, 4, 8] → pa % b.size = 0 → mread t.mem pa b.size = b.data % 2 ^ (8 * b.size)) ∧
    (∀ x, (∀ b ∈ v.sbuf, ∀ pa, b.tgt = .loc pa → x < pa ∨ pa + (if b.size ≤ 8 then b.size else (b.size + 7) / 8 * 8) ≤ x) → mget t.mem x = mget s.mem x)) ∧
  (¬progress → v.np = true → v.tvec ≠ 0 → ∃ t, exec (.vstrip off) s = .next t ∧ Closed t ∧ t.me.np = true ∧ t.me.hnd = true ∧ t.me.pc = v.tvec ∧
    t.me.epc = tgt ∧ tget 0 t.me.frec 0 = 19 ∧ tget 0 t.me.frec 1 = v.pc)

/-- R153, R189: `vfetch` and `vfetchr` start the feed of a block inside the I-store window that is a multiple of 8; ALIGN comes before TRANSLATION. -/
def Obligations.VectorFetch : Prop := ∀ s : State, s.me.hnd = false →
  let Feeds (i : Instr) (blk : Word) : Prop :=
    (s.me.lanes = true → blk.toNat % 8 = 0 → inIstore blk.toNat = true → Leaves i s { ended s.me (s.me.pc + 4) with feed := some (blk.toNat, 0) }) ∧
    (MayTrap s → s.me.lanes = true → blk.toNat % 8 ≠ 0 → Traps i s 2 s.me.pc.toNat blk.toNat s.me.pc) ∧
    (MayTrap s → s.me.lanes = true → blk.toNat % 8 = 0 → inIstore blk.toNat = false → Traps i s 3 s.me.pc.toNat blk.toNat s.me.pc) ∧
    (MayTrap s → s.me.lanes = false → Traps i s 1 s.me.pc.toNat 0 s.me.pc)
  (∀ off : BitVec 21, CanIssue s [] 0 → Feeds (.vfetch off) ((s.me.pc &&& ~~~4) + BitVec.ofInt 64 (off.toInt * 8))) ∧
  (∀ (a : XReg) (off : BitVec 21), CanIssue s [a.toNat] 0 → Feeds (.vfetchr a off) (s.me.rx a.toNat + BitVec.ofInt 64 (off.toInt * 8)))

/-- R186, R187, R279, R290 to R292, R295, R366: once the walks of its addresses are made, a copy whose descriptor's tiles pass, and a `tmv` whose tiles pass, is sent to the copy
engine of its quad, or waits while a fence before it waits for an access; one whose tiles fail takes the fault.
R282, R290, R295: one unit of a `tmv` moves one word of the source tile to the destination tile, and no other byte of memory changes. -/
def Obligations.EnginesIssue : Prop :=
  (∀ s : State, s.me.faults.length < 16 →
    (∀ (o : CPop) (u : State), CanIssue s [o.a.toNat] o.d.toNat →
      let va := (s.me.rx o.a.toNat).toNat
      WalksTo va 256 s u →
      (∀ ps, tilesAt u va 256 64 = .ok ps →
        let Sends (i : Instr) (k : OpKind) : Prop := if fencesOpen u s.cur then exec i s = .next u else SendsOp i s u k o.n.toNat o.d.toNat va (ps.headD 0) (ps.map (· / 4096)) [] false
        Sends (.cpy o) .cpy ∧ Sends (.cpyg o) .cpyg ∧ Sends (.cpyr o) .cpyr) ∧
      (∀ c a, MayTrap s → tilesAt u va 256 64 = .error (c, a) →
        let Fails (i : Instr) : Prop := TrapsFrom u i s c s.me.pc.toNat a s.me.pc
        Fails (.cpy o) ∧ Fails (.cpyg o) ∧ Fails (.cpyr o))) ∧
    (∀ (o : TMop) (u w : State), CanIssue s [o.a.toNat, o.b.toNat] o.d.toNat →
      let dst := (s.me.rx o.a.toNat).toNat
      let src := (s.me.rx o.b.toNat).toNat
      WalkTo src s u →
      (∀ p q, tmvTile u src false = .ok p → WalkTo dst u w → tmvTile w dst true = .ok q →
        if fencesOpen w s.cur then exec (.tmv o) s = .next w else SendsOp (.tmv o) s w .tmv o.n.toNat o.d.toNat dst 0 [] [dst, src] o.ret) ∧
      (∀ c, MayTrap s → tmvTile u src false = .error c → TrapsFrom u (.tmv o) s c s.me.pc.toNat src s.me.pc))) ∧
  (∀ (s : State) (o : Op) (u p q : Nat) (h : Page), getOp s o.id = some o → o.kind = .tmv → o.accepted = true → o.stopped = false →
    o.bad < 2 → chunkUnits o 1 = [[u]] → u < 512 → o.bar = none →
    let src := dw o.desc 1 + 8 * u
    let dst := dw o.desc 0 + 8 * u
    src % 4096 ≤ 4088 → engCheck s o.agent (opWho o) src 8 .read = .ok p → engWaits s o [engPassed s (opWho o) src p] = false → ueIn s p 8 = false →
    (∀ k, k ≤ 1 → tget none o.old (p / 8 + k) = none) →
    let s1 := (engRead s o (opWho o) src 8 s).2
    pageOf s1 (opWho o) dst = some h → isIstore h.pa = false → engCheck s1 o.agent (opWho o) dst 8 .write = .ok q → q % 8 = 0 →
    engWaits s o [engPassed s1 (opWho o) dst q] = false →
    ∃ t, exec (.chunkDebit o.id 1) s = .next t ∧ mread t.mem q 8 = mread s.mem p 8 ∧ BytesKept s t q 8 ∧
      (∃ x, getOp t o.id = some x ∧ x.left = dropUnit u o.left ∧ x.done = o.done + 1 ∧ x.moved = 8 * (o.done + 1)) ∧ t.vlcs = s.vlcs)

/-- R279, R280, R290, R292, R295, R318: acceptance of an operation: at once, after its credit, or, for a remote copy, after its receiver's answer. xd takes the promised cycle, the
mark counts it, and its VLC issues again; a size that is not a multiple of 64 bytes is charged rounded up (log 58).
R108, R290: the credit of a copy with BCR = 1 performs at the home before the copy is accepted: PEND goes up by the destination bytes, and the other bits of the word and
every other byte stay.
R281: the promise counts the remaining lease of a lock that holds the operation up. How far the promise lies beyond its least value is left free (log 11). -/
def Obligations.EngineAccepts : Prop :=
  (∀ (s : State) (o : Op), getOp s o.id = some o → mayAccept s o = true → o.reg < 32 →
    let v := getVlc s o.vlc
    let Accepts (prom b : Nat) : Prop := ∃ t, exec (.copyAccept o.id) s = .next t ∧
      Answered { v with marks := (getVlc t o.vlc).marks, cost := v.cost + cdiv b 64 } (getVlc t o.vlc) o.reg (BitVec.ofNat 64 prom) ∧
      (tget {} (getVlc t o.vlc).marks o.mark).count = (tget {} v.marks o.mark).count + 1 ∧
      (tget {} (getVlc t o.vlc).marks o.mark).prom = max (tget {} v.marks o.mark).prom prom ∧
      (∀ k, k ≠ o.mark → tget {} (getVlc t o.vlc).marks k = tget {} v.marks k) ∧ (∀ m, m ≠ o.vlc → getVlc t m = getVlc s m) ∧ t.mem = s.mem
    (o.kind = .tmv → Accepts (s.cyc + 32 + leaseOver s o + Config.promiseSlack s.cyc 4096) 4096) ∧
    (∀ bar, (o.kind = .cpy ∨ o.kind = .cpyg) → o.credited = false → o.asked = false → (∀ i, i < 32 → ueIn s (descPa o (8 * i)) 8 = false) →
      let d := (upto 32).map (fun i => mread s.mem (descPa o (8 * i)) 8)
      (readDesc d).bcr = false → copyCheck s { o with desc := d } = .ok bar →
      let b := (readDesc d).destBytes (o.kind == .cpyg)
      Accepts (s.cyc + cdiv b (if (readDesc d).dlay then 64 else 128) + leaseOver s { o with desc := d } + Config.promiseSlack s.cyc b) b) ∧
    ((o.kind = .cpy ∨ o.kind = .cpyg) → o.credited = true →
      let b := (readDesc o.desc).destBytes (o.kind == .cpyg)
      Accepts (s.cyc + cdiv b (if (readDesc o.desc).dlay then 64 else 128) + leaseOver s o + Config.promiseSlack s.cyc b) b) ∧
    (let Remote (d : Desc) (way : Nat) : Prop := Accepts (s.cyc + 3300 + way + cdiv (d.destBytes false) 32 + shareWait s (shareLink s d)) (d.destBytes false)
     (o.kind = .cpyr → o.credited = false → o.asked = true → o.reply = some 0 →
       let d := readDesc o.desc
       Remote d (if d.route = 0 then 1650 * fld (tget 0 s.mgmt.route d.mod).toNat 24 4 else 3300)) ∧
     (∀ bar, o.kind = .cpyr → o.credited = false → o.asked = false → (∀ i, i < 32 → ueIn s (descPa o (8 * i)) 8 = false) →
       let d := (upto 32).map (fun i => mread s.mem (descPa o (8 * i)) 8)
       (readDesc d).route = 1 → (readDesc d).bcr = false → copyCheck s { o with desc := d } = .ok bar → Remote (readDesc d) 3300))) ∧
  (∀ (s : State) (o : Op) (pa : Nat), getOp s o.id = some o → mayAccept s o = true → (o.kind = .cpy ∨ o.kind = .cpyg) →
    o.credited = false → o.asked = false → (∀ i, i < 32 → ueIn s (descPa o (8 * i)) 8 = false) →
    let d := (upto 32).map (fun i => mread s.mem (descPa o (8 * i)) 8)
    (readDesc d).bcr = true → copyCheck s { o with desc := d } = .ok (some pa) → engWaits s o [engPassed s (opWho o) (readDesc d).bar pa] = false → ueIn s pa 8 = false →
    let b := (readDesc d).destBytes (o.kind == .cpyg)
    let old := mread s.mem pa 8
    old % 2 ^ 24 + b ≤ 16777215 → 0 < b →
    ∃ t, exec (.homeCredit o.id) s = .next t ∧ mread t.mem pa 8 = old + b ∧ BytesKept s t pa 8 ∧ t.vlcs = s.vlcs ∧ ∃ x, x ∈ t.ops ∧ x.id = o.id ∧ x.credited = true)

/-- R87, R280, R282, R293, R405, R407: an operation that has performed leaves its engine; its mark counts it off and keeps the first error, but for a FABRIC that takes the place of
PROMISE_MISSED, a late one is PROMISE_MISSED, and a mark that becomes quiescent sets the event bit. That an operation's error reaches its mark as it completes is log 68. -/
def Obligations.OperationsComplete : Prop := ∀ (s : State) (o : Op), getOp s o.id = some o → opFinished o = true → o.kind ≠ .cpyr → o.dead = false →
  o.agent = (getVlc s o.vlc).agent → o.seq = (getVlc s o.vlc).seq → (getVlc s o.vlc).status ≠ .free → (getVlc s o.vlc).wait = .none →
  let m := tget {} (getVlc s o.vlc).marks o.mark
  let late := o.prom < s.cyc ∧ o.err = 0
  ∃ t, exec (.operationComplete o.id) s = .next t ∧ (∀ x, x ∈ t.ops ↔ x ∈ s.ops ∧ x.id ≠ o.id) ∧
    (let m' := tget {} (getVlc t o.vlc).marks o.mark
     m'.count = m.count - 1 ∧ m'.prom = m.prom ∧ m'.flg = m.flg ||| o.flg ∧
     (m.err = 0 → m'.err = (if o.err ≠ 0 then o.err else if late then 21 else 0)) ∧
     (m.err ≠ 0 → m'.err = (if m.err = 21 ∧ o.err = 26 then 26 else m.err)) ∧ (m.count = 1 → (getVlc t o.vlc).event = true)) ∧
    (∀ k, k ≠ o.mark → tget {} (getVlc t o.vlc).marks k = tget {} (getVlc s o.vlc).marks k) ∧ (getVlc t o.vlc).x = (getVlc s o.vlc).x ∧
    (∀ n, n ≠ o.vlc → getVlc t n = getVlc s n) ∧ t.mem = s.mem

/-- R293, R294: `wmark` on quiescent marks without errors gathers their flags and clears them and discards the words fetched ahead, and delivers the error of the lowest mark that has one as class E; `cpyk` cancels
the operations of its context under its mask, ends at once where there is none, and otherwise once the last of them has left its engine, with their number in xd and the ERR and
FLG of its marks cleared.
R87 to R89, R296: `tflip` outside a strip gives a tile that it has found with its bit 0 to the engines once its context's accesses to it have performed, takes one that it has
found with its bit 1 back once no engine uses it, and puts the new owner bit in xd; while it waits it keeps the bit that it found. -/
def Obligations.MarksAndTiles : Prop :=
  (∀ (s : State) (o : RAop), CanIssue s [o.a.toNat] o.d.toNat →
    let m := (s.me.rx o.a.toNat).toNat % 256
    let mk (k : Nat) := tget {} s.me.marks k
    ((∀ k, k < 8 → m.testBit k = true → (mk k).count = 0 ∧ (mk k).err = 0) →
      ∃ t f, exec (.wmark o) s = .next t ∧ OnlyMe (discardAhead s.cur s) t ∧ t.me.ahead = [] ∧ WritesX s.me t.me o.d.toNat (BitVec.ofNat 64 f) ∧ t.me.pc = s.me.pc + 4 ∧
        (∀ b, f.testBit b = true ↔ ∃ k, k < 8 ∧ m.testBit k = true ∧ (mk k).flg.testBit b = true) ∧
        ∀ k, tget {} t.me.marks k = if k < 8 ∧ m.testBit k = true then { mk k with flg := 0 } else mk k) ∧
    (∀ k, MayTrap s → k < 8 → m.testBit k = true → (mk k).err ≠ 0 → (mk k).err < 256 → (∀ j, j < 8 → m.testBit j = true → (mk j).count = 0) →
      (∀ j, j < k → m.testBit j = true → (mk j).err = 0) →
      ∃ t, exec (.wmark o) s = .next t ∧ t.me.hnd = true ∧ t.me.pc = s.me.tvec ∧ t.me.epc = s.me.pc ∧
        tget 0 t.me.frec 0 = BitVec.ofNat 64 ((mk k).err + 4 * 256 + k * 65536) ∧ (tget {} t.me.marks k).err = 0 ∧ t.me.x = s.me.x) ∧
    ((∀ p ∈ s.ops, p.vlc = s.cur → p.agent = s.me.agent → p.seq = s.me.seq → m.testBit p.mark = false) →
      ∃ t, exec (.cpyk o) s = .next t ∧ WritesX s.me t.me o.d.toNat 0 ∧ t.me.pc = s.me.pc + 4 ∧ t.me.wait = .none ∧ t.ops = s.ops ∧ t.mem = s.mem ∧
        ∀ k, tget {} t.me.marks k = if k < 8 ∧ m.testBit k = true then { mk k with err := 0, flg := 0 } else mk k) ∧
    (let mine (p : Op) : Bool := p.vlc == s.cur && p.agent == s.me.agent && p.seq == s.me.seq && m.testBit p.mark
     (∃ p ∈ s.ops, mine p = true ∧ p.accepted = true) →
      ∃ t, exec (.cpyk o) s = .next t ∧
        t.me = { s.me with wait := .cancel m (s.ops.filter (fun p => mine p && !p.dead && p.accepted)).length o.d.toNat, irrev := s.me.irrev || s.me.sopen } ∧
        t.ops = s.ops.map (fun p => if mine p && !p.dead then { p with dead := true, stopped := true, owed := 0 } else p) ∧
        { t with vlcs := s.vlcs, ops := s.ops } = s ∧ ∀ n, n ≠ s.cur → getVlc t n = getVlc s n)) ∧
  (∀ (s : State) (o : Op) (mask cnt reg : Nat), getOp s o.id = some o → opFinished o = true → o.kind ≠ .cpyr → o.dead = true →
    let v := getVlc s o.vlc
    o.agent = v.agent → o.seq = v.seq → v.status ≠ .free → v.wait = .cancel mask cnt reg → reg < 32 →
    (∀ p ∈ s.ops, p.id ≠ o.id → p.vlc = o.vlc → p.agent = v.agent → p.seq = v.seq → p.accepted = true → mask.testBit p.mark = false) →
    ∃ t, exec (.operationComplete o.id) s = .next t ∧ (∀ x, x ∈ t.ops ↔ x ∈ s.ops ∧ x.id ≠ o.id) ∧
      let w := getVlc t o.vlc
      WritesX v w reg (BitVec.ofNat 64 cnt) ∧ w.wait = .none ∧ w.pc = v.pc + 4 ∧ t.mem = s.mem ∧ (∀ n, n ≠ o.vlc → getVlc t n = getVlc s n) ∧
      ∀ k, let q := tget {} v.marks k
        tget {} w.marks k = { q with
          count := if k = o.mark then q.count - 1 else q.count, err := if k < 8 ∧ mask.testBit k = true then 0 else q.err,
          flg := if k < 8 ∧ mask.testBit k = true then 0 else q.flg }) ∧
  (∀ (s u : State) (o : RAop) (p : Page), CanIssue s [o.a.toNat] o.d.toNat → s.me.sopen = false →
    let va := (s.me.rx o.a.toNat).toNat
    WalkTo va s u → va < 72057594037927936 → inAperture va = false → pageOf u (whoOf u u.cur) va = some p →
    let n := p.pa / 4096
    let found := s.me.flip.getD (tget {} s.tiles n).own
    let Flips (b : Bool) : Prop := ∃ t, exec (.tflip o) s = .next t ∧ WritesX s.me t.me o.d.toNat (if b then 1 else 0) ∧
      EndsAt { s.me with flip := none } t.me (s.me.pc + 4) ∧
      (tget {} t.tiles n).own = b ∧ (tget {} t.tiles n).use = (tget {} s.tiles n).use ∧ (∀ k, k ≠ n → tget {} t.tiles k = tget {} s.tiles k) ∧
      { t with vlcs := u.vlcs, tiles := u.tiles } = u ∧ ∀ m, m ≠ s.cur → getVlc t m = getVlc s m
    (isScratch p.pa = true → found = false → tileAwaited u s.cur (n * 4096) = false → Flips true) ∧
    (isScratch p.pa = true → found = true → (tget {} s.tiles n).use = 0 → Flips false) ∧
    (isScratch p.pa = true → found = true → (tget {} s.tiles n).use ≠ 0 →
      ∃ t, exec (.tflip o) s = .next t ∧ Becomes s.cur { s.me with flip := some true } u t) ∧
    (MayTrap s → isScratch p.pa = false → TrapsFrom u (.tflip o) s 4 s.me.pc.toNat va s.me.pc))

/-- R95, R299: `own`, `split`, `merge` and `rdrop`, whose requirements hold, change their entries at once; only those entries change. -/
def Obligations.TokensChange : Prop := ∀ s u : State,
  (∀ (o : TKAop) (key : Nat), CanIssue s [o.a.toNat] o.d.toNat → NameTo (s.me.rx o.a.toNat).toNat o.x s u →
    nameRegion u (s.me.rx o.a.toNat).toNat o.x 1 = .ok key →
    let t := tokAt s key
    rootOfVlc s.me = some t.owner → t.shares = 0 →
    WaitsToken (.own o) s u 0 key 0 o.d.toNat key true (fun w => tokAt w key = { t with owner := s.me.agent, lender := 0 } ∧ OnlyToks s w [key])) ∧
  (∀ (o : TKop) (key f : Nat), CanIssue s [o.a.toNat, o.b.toNat] o.d.toNat → NameTo (s.me.rx o.a.toNat).toNat o.x s u →
    nameRegion u (s.me.rx o.a.toNat).toNat o.x 1 = .ok key →
    let t := tokAt s key
    let y := (s.me.rx o.b.toNat).toNat
    t.owner = s.me.agent → t.shares = 0 → t.kind = 1 → y % 4096 = 0 → y ≠ 0 → y < t.pages * 4096 → freeTok s (key / 65536) = some f → (tokAt s f).kind = 0 →
    WaitsToken (.split o) s u 3 key y o.d.toNat f true (fun w => tokAt w key = { t with pages := y / 4096 } ∧
      tokAt w f = { t with base := t.base + y / 4096, pages := t.pages - y / 4096, shares := 0, parent := 0 } ∧ OnlyToks s w [key, f])) ∧
  (∀ (o : TKop) (e f : Nat) (v : State), CanIssue s [o.a.toNat, o.b.toNat] o.d.toNat → NameTo (s.me.rx o.a.toNat).toNat o.x s v →
    nameRegion v (s.me.rx o.a.toNat).toNat o.x 1 = .ok e → NameTo (s.me.rx o.b.toNat).toNat o.x v u →
    nameRegion u (s.me.rx o.b.toNat).toNat o.x 1 = .ok f →
    let a := tokAt s e
    let b := tokAt s f
    f / 65536 = e / 65536 → a.owner = s.me.agent → b.owner = s.me.agent → a.shares = 0 → b.shares = 0 → a.lender = b.lender → a.base + a.pages = b.base →
    a.pages ≠ 0 →
    WaitsToken (.merge o) s u 4 e f o.d.toNat e true (fun w => tokAt w e = { a with pages := a.pages + b.pages, suspect := a.suspect || b.suspect } ∧
      tokAt w f = {} ∧ OnlyToks s w [e, f])) ∧
  (∀ (o : TKAop) (key : Nat), CanIssue s [o.a.toNat] o.d.toNat → NameTo (s.me.rx o.a.toNat).toNat o.x s u →
    nameRegion u (s.me.rx o.a.toNat).toNat o.x (if o.x then 2 else 1) = .ok key →
    ∀ k, (if o.x then (tokAt s key).owner = s.me.agent ∧ k = key else myShare u key = some k) →
    let t := tokAt s k
    let e := k / 65536 * 65536 + t.parent
    e ≠ k → regionAwaited u s.cur t true = false →
    WaitsToken (.rdrop o) s u 6 k 0 o.d.toNat k true (fun w => tokAt w k = {} ∧ tokAt w e = { tokAt s e with shares := (tokAt s e).shares - 1 } ∧ OnlyToks s w [k, e]))

/-- R89, R95, R96, R299: `lend`, `ret` and `rshare` outside a strip wait for the drain, which leaves the table as it is; DRAIN_END then changes the entry.
R97, R299, R323: TOKEN_OP_COMPLETE writes xd and the VLC issues again, or makes TKRES done; `tq` without an image answers with the entry or all ones; no entry changes. -/
def Obligations.TokensDrain : Prop :=
  (∀ s u : State,
    (∀ (o : TKop) (key : Nat), CanIssue s [o.a.toNat, o.b.toNat] o.d.toNat → s.me.sopen = false → NameTo (s.me.rx o.a.toNat).toNat o.x s u →
      nameRegion u (s.me.rx o.a.toNat).toNat o.x 1 = .ok key →
      let t := tokAt s key
      let b := (s.me.rx o.b.toNat).toNat
      b < 4294967296 → badRecipient b = false → t.owner = s.me.agent →
      (lendTo s s.me (key / 65536) b = true → t.shares = 0 → t.lender = 0 → WaitsToken (.lend o) s u 1 key b o.d.toNat key false (fun w => w.toks = s.toks)) ∧
      (t.shares < 65535 → (freeTok s (key / 65536)).isSome = true → WaitsToken (.rshare o) s u 5 key b o.d.toNat 0 false (fun w => w.toks = s.toks))) ∧
    (∀ (o : TKAop) (key : Nat), CanIssue s [o.a.toNat] o.d.toNat → s.me.sopen = false → NameTo (s.me.rx o.a.toNat).toNat o.x s u →
      nameRegion u (s.me.rx o.a.toNat).toNat o.x 1 = .ok key →
      (tokAt s key).owner = s.me.agent → (tokAt s key).shares = 0 → WaitsToken (.ret o) s u 2 key 0 o.d.toNat key false (fun w => w.toks = s.toks)) ∧
    (∀ n op key arg reg val, n < 1536 → (getVlc s n).wait = .token op key arg false reg val →
      drainOver s n key (op == 2 && agentType (tokAt s key).owner == 4) = true →
      let v := getVlc s n
      let t := tokAt s key
      let Drained (res : Nat) (P : State → Prop) : Prop := ∃ u, exec (.drainEnd n) s = .next u ∧
        getVlc u n = { v with wait := .token op key arg true reg res, early := [] } ∧
        P u ∧ { u with vlcs := s.vlcs, toks := s.toks } = s ∧ ∀ m, m ≠ n → getVlc u m = { getVlc s m with early := [] }
      (op = 1 → Drained key (fun u => tokAt u key = { t with owner := arg, lender := v.agent } ∧ OnlyToks s u [key])) ∧
      (op = 2 → agentType t.owner ≠ 4 → t.lender ≠ 0 → Drained key (fun u => tokAt u key = { t with owner := t.lender, lender := 0 } ∧ OnlyToks s u [key])) ∧
      (∀ r, op = 2 → agentType t.owner ≠ 4 → t.lender = 0 → rootOfVlc v = some r →
        Drained key (fun u => tokAt u key = { t with owner := r, lender := 0 } ∧ OnlyToks s u [key])) ∧
      (∀ f, op = 5 → freeTok s (key / 65536) = some f → f ≠ key →
        Drained f (fun u => tokAt u f = { kind := 2, parent := key % 65536, base := t.base, pages := t.pages, owner := arg, lender := v.agent } ∧
          tokAt u key = { t with shares := t.shares + 1 } ∧ OnlyToks s u [key, f])))) ∧
  (∀ s : State,
    (∀ n op key arg reg val, n < 1536 → reg < 32 → (getVlc s n).wait = .token op key arg true reg val →
      ∃ t, exec (.tokenOpComplete n) s = .next t ∧ Answered (getVlc s n) (getVlc t n) reg (BitVec.ofNat 64 val) ∧ { t with vlcs := s.vlcs } = s ∧
        ∀ m, m ≠ n → getVlc t m = getVlc s m) ∧
    (∀ vi, (getVi s vi).tkres = 1 → (getVi s vi).tkDrained = true →
      ∃ t, exec (.tokenOpComplete (1536 + vi)) s = .next t ∧ getVi t vi = { getVi s vi with tkres := 2, tkDrained := false } ∧ { t with vis := s.vis } = s) ∧
    (∀ (o : TKop) (e : Option Nat) (u : State), CanIssue s [o.a.toNat, 0] o.d.toNat → o.b = 0 → NameTo (s.me.rx o.a.toNat).toNat o.x s u →
      tqEntry u (s.me.rx o.a.toNat).toNat o.x = .ok e →
      ∃ t, exec (.tq o) s = .next t ∧ Becomes s.cur { s.me with wait := .token 7 0 0 true o.d.toNat (e.getD 18446744073709551615) } u t))

/-- R62, R186, R187, R267, R270 to R277, R369: every near-bank command whose fields and addresses pass is sent with its operands and empties its register; while
eight are outstanding, or a fence before it waits for an access, it waits. -/
def Obligations.CommandsIssue : Prop := ∀ s : State,
  let x (r : XReg) : Nat := (s.me.rx r.toNat).toNat
  let FormFrom (u : State) (i : Instr) (k : CmdKind) (d va xa xb : Nat) (ps : List Nat) (irrev : Bool) : Prop :=
    (cmdsOut s s.cur < 8 → s.me.faults.length < 16 → fencesOpen s s.cur = false → SendsCmd i s u k d va xa xb ps irrev) ∧
      ((cmdsOut s s.cur ≥ 8 ∨ fencesOpen s s.cur = true) → exec i s = .next u)
  let Form (i : Instr) (k : CmdKind) (d va xa xb : Nat) (irrev : Bool) : Prop := FormFrom s i k d va xa xb [] irrev
  (∀ o : RAop, CanIssue s [o.a.toNat] o.d.toNat →
    (∀ u, WalksTo (x o.a) 64 s u →
      (∀ ps, tilesAt u (x o.a) 64 64 = .ok ps → FormFrom u (.bkx o) .bkx o.d.toNat (x o.a) (x o.a) 0 ps true) ∧
      (∀ c a, MayTrap s → tilesAt u (x o.a) 64 64 = .error (c, a) → TrapsFrom u (.bkx o) s c s.me.pc.toNat a s.me.pc)) ∧
    (rangeBad (x o.a) = none → Form (.bkseal o) .seal o.d.toNat 0 (x o.a) 0 true) ∧
    (x o.a < 256 → Form (.bkinv o) .inv o.d.toNat 0 0 (x o.a) true) ∧ (bkstBad (x o.a) = false → Form (.bkst o) .st o.d.toNat 0 (x o.a) 0 false) ∧
    (∀ c, MayTrap s → rangeBad (x o.a) = some c → Traps (.bkseal o) s c s.me.pc.toNat 0 s.me.pc) ∧
    (MayTrap s → x o.a ≥ 256 → Traps (.bkinv o) s 8 s.me.pc.toNat 0 s.me.pc) ∧ (MayTrap s → bkstBad (x o.a) = true → Traps (.bkst o) s 8 s.me.pc.toNat 0 s.me.pc)) ∧
  (∀ o : RRop, CanIssue s [o.a.toNat, o.b.toNat] o.d.toNat →
    (rangeBad (x o.a) = none → rangeBad (x o.b) = none → Form (.bkclone o) .clone o.d.toNat 0 (x o.a) (x o.b) true) ∧
    (rangeBad (x o.a) = none → rrCount (x o.a) ≤ 16 → x o.b % 131072 ≠ 0 → x o.b % 131072 ≤ 65536 → x o.b < 262144 →
      Form (.bkred o) .red o.d.toNat 0 (x o.a) (x o.b) true) ∧
    ((locksOf s s.cur).length < 4 → rangeBad (x o.a) = none → 0 < x o.b → x o.b ≤ 200 →
      Form (.bklock o) .lock o.d.toNat 0 (x o.a) (x o.b) true ∧
      (cmdsOut s s.cur < 8 → s.me.faults.length < 16 → fencesOpen s s.cur = false → ∃ t l, exec (.bklock o) s = .next t ∧ t.locks = s.locks ++ [l] ∧ l.granted = false ∧ l.agent = s.me.agent ∧
        l.row0 = rrRow0 (x o.a) ∧ l.count = rrCount (x o.a) ∧ l.until_ = 3300 * x o.b ∧ l.num < 4 ∧ ∀ k ∈ locksOf s s.cur, k.num ≠ l.num)) ∧
    (MayTrap s → (locksOf s s.cur).length ≥ 4 → Traps (.bklock o) s 1 s.me.pc.toNat 0 s.me.pc) ∧
    (∀ u ps, 0 < x o.b / 256 % 128 → x o.b / 256 % 128 ≤ 64 → x o.b < 32768 → WalksTo (x o.a) (4 * (x o.b / 256 % 128)) s u →
      tilesAt u (x o.a) (4 * (x o.b / 256 % 128)) 8 = .ok ps → FormFrom u (.bkload o) .load o.d.toNat (x o.a) (x o.a) (x o.b) ps true))

/-- R89, R121, R274: `bkfence` ends when every earlier access has performed and no command is outstanding; `bkunlock` ends a granted lock once the accesses and commands before it have
performed, waits for a lock that is not granted yet, and only advances for a number that its context does not hold. In an open strip each makes the strip store buffer perform first.
R266, R268, R274, R393, R397: a lock that may be granted is granted with its lease counted from now (log 37), and its number fills the register of its `bklock`; a lease that has
run out ends the lock and sends LEASE_EXPIRED, class A, to its holder; an automatic seal begins with the unsealed rows of its frame, once no command is in the die region and its
banks owe no refresh (log 38), and each step of it, as of a `bkseal` that runs, seals the next row and changes no byte of memory. -/
def Obligations.LocksAndSeals : Prop :=
  (∀ s : State, s.me.sopen = false →
    (CanIssue s [] 0 → allPerformed s s.cur = true → cmdsOut s s.cur = 0 → Leaves .bkfence s (ended s.me (s.me.pc + 4))) ∧
    (CanIssue s [] 0 → (allPerformed s s.cur = false ∨ cmdsOut s s.cur ≠ 0) → exec .bkfence s = .next s) ∧
    (∀ (a : XReg) (fa : Bool), CanIssue s [a.toNat] 0 →
      let n := (s.me.rx a.toNat).toNat % 4
      ((∀ l ∈ locksOf s s.cur, l.num ≠ n) → Leaves (.bkunlock a fa) s (ended s.me (s.me.pc + 4))) ∧
      (∀ l, (locksOf s s.cur).find? (fun k => k.num == n) = some l → l.granted = true → rowsAwaited s s.cur l = false → frameAwaited s s.cur l.cmd l.frame = false →
        ∃ t, exec (.bkunlock a fa) s = .next t ∧ (∀ k, k ∈ t.locks ↔ k ∈ s.locks ∧ k.id ≠ l.id) ∧ EndsAt s.me t.me (s.me.pc + 4) ∧ t.mem = s.mem ∧ t.cmds = s.cmds ∧
          ∀ m, m ≠ s.cur → getVlc t m = getVlc s m) ∧
      (∀ l, (locksOf s s.cur).find? (fun k => k.num == n) = some l → l.granted = false → exec (.bkunlock a fa) s = .next s))) ∧
  (∀ s : State, s.me.sopen = true → mayFlush s s.cur = true →
    let u := stripFlush s.cur s
    (CanIssue s [] 0 → allPerformed u s.cur = true → cmdsOut u s.cur = 0 → ∃ t, exec .bkfence s = .next t ∧ Becomes s.cur (ended u.me (s.me.pc + 4)) u t) ∧
    (CanIssue s [] 0 → (allPerformed u s.cur = false ∨ cmdsOut u s.cur ≠ 0) → exec .bkfence s = .next u) ∧
    (u.me.sbuf = [] ∧ u.me.sbfull = true ∧ u.me.sopen = true ∧ u.locks = s.locks) ∧
    ∀ (a : XReg) (fa : Bool) (l : Lock), CanIssue s [a.toNat] 0 → (locksOf s s.cur).find? (fun k => k.num == (s.me.rx a.toNat).toNat % 4) = some l → l.granted = true →
      rowsAwaited u s.cur l = false → frameAwaited u s.cur l.cmd l.frame = false →
      ∃ t, exec (.bkunlock a fa) s = .next t ∧ (∀ k, k ∈ t.locks ↔ k ∈ s.locks ∧ k.id ≠ l.id) ∧ EndsAt { u.me with irrev := true } t.me (s.me.pc + 4) ∧ t.mem = u.mem ∧
        t.cmds = s.cmds ∧ ∀ m, m ≠ s.cur → getVlc t m = getVlc s m) ∧
  (∀ s : State,
    (∀ (l : Lock) (c : Cmd), s.locks.find? (fun k => k.id == l.id) = some l → mayGrant s l = true → getCmd s l.cmd = some c → c.dropped = false → c.reg < 32 →
      ∃ t l', exec (.lockGrant l.id) s = .next t ∧ l' ∈ t.locks ∧ l' = { l with granted := true, until_ := s.cyc + l.until_ } ∧ (∀ d, d ∈ t.cmds → d.id ≠ c.id) ∧
        (getVlc t c.vlc).rx c.reg = (if c.reg = 0 then 0 else BitVec.ofNat 64 l.num) ∧ (getVlc t c.vlc).isEmpty c.reg = false ∧ t.mem = s.mem) ∧
    (∀ l : Lock, s.locks.find? (fun k => k.id == l.id) = some l → l.granted = true → l.until_ ≤ s.cyc → (getVlc s l.vlc).status = .running →
      (getVlc s l.vlc).faults.length < 16 →
      ∃ t f, exec (.leaseExpiry l.id) s = .next t ∧ (∀ k, k ∈ t.locks ↔ k ∈ s.locks ∧ k.id ≠ l.id) ∧
        (getVlc t l.vlc).faults = (getVlc s l.vlc).faults ++ [⟨f, s.nextId⟩] ∧ f.code = 20 ∧ f.cls = 3 ∧ f.aux = l.num ∧ t.mem = s.mem) ∧
    (∀ (n : Nat) (e : Unsealed), unsealedOf s (paMVault (n * 2097152)) (frameNo (n * 2097152)) = some e → e.u ≠ 0 → e.touched + 3300000 ≤ s.cyc →
      cmdOver s (n * 2097152) = none → ownWork s (n * 2097152) = false → banksIdle s (n * 2097152) = true →
      ∃ t c, exec (.autoSeal n) s = .next t ∧ t.cmds = s.cmds ++ [c] ∧ c.kind = .autoSeal ∧ c.stage = .running ∧ c.frames = [n * 2097152] ∧
        (∀ d, d ∈ c.todo ↔ d < 256 ∧ e.u.getLsbD d = true) ∧ t.mem = s.mem ∧ t.vlcs = s.vlcs) ∧
    (∀ (c : Cmd) (f d : Nat) (rest : List Nat), getCmd s c.id = some c → c.stage = .running → c.boundary = false → c.kind = .seal ∨ c.kind = .autoSeal → c.frames = [f] →
      f % 2097152 = 0 → c.todo = d :: rest → d < 256 → c.quantum < 32 →
      rowUnsealed (rowStep c.id s) (rowPa f d) = false ∧ (rowStep c.id s).mem = s.mem ∧ (rowStep c.id s).vlcs = s.vlcs))

/-- R127, R298, R367: the barrier words at issue. One whose word passes its checks is sent to the home with its operand and waits; `bar.arrive` first makes the
strip store buffer perform, and is sent once every earlier access has performed; a value above 16,777,215 takes BAR_RANGE, for an arrival after that flush. -/
def Obligations.BarriersIssue : Prop := ∀ s : State,
  let Sends (u : State) (i : Instr) (k : AccKind) (va d data c : Nat) (e0 : Option Nat) (q : Passed) : Prop := ∃ t x, exec i s = .next t ∧ t.net = u.net ++ [x] ∧
    x.id = u.nextId ∧ x.kind = k ∧ x.va = va ∧ x.tgt = q.tgt ∧ x.size = 8 ∧ x.cls = c ∧ x.data = data ∧ x.reg = d ∧ x.e0 = e0 ∧ x.vlc = s.cur ∧
    t.me = { u.me with wait := .barrier u.nextId, irrev := u.me.irrev || u.me.sopen, devs := u.me.devs || (q.dev && u.me.sopen) } ∧ t.mem = u.mem ∧
    ∀ m, m ≠ s.cur → getVlc t m = getVlc s m
  (∀ o : BAop, CanIssue s [o.a.toNat, o.b.toNat] o.d.toNat →
    let va := (s.me.rx o.a.toNat).toNat
    let n := (s.me.rx o.b.toNat).toNat
    let c := o.c.toNat
    (∀ q, barrierCheck s va = .ok q →
      (n ≤ 16777215 → heldBack s s.cur c q 8 = false → Sends s (.barInit o) .barInit va o.d.toNat n c none q) ∧
      (MayTrap s → n > 16777215 → Traps (.barInit o) s 15 s.me.pc.toNat va s.me.pc)) ∧
    (mayFlush s s.cur = true →
      let u := stripFlush s.cur s
      ∀ q, barrierCheck u va = .ok q →
        (n ≤ 16777215 → allPerformed u s.cur = true → heldBack u s.cur c q 8 = false → Sends u (.barArrive o) .barArrive va o.d.toNat n c none q) ∧
        (n ≤ 16777215 → allPerformed u s.cur = false → exec (.barArrive o) s = .next u) ∧
        (MayTrap s → n > 16777215 → ∃ t, exec (.barArrive o) s = .next t ∧
          TookVlc u.me t.me (BitVec.ofNat 64 15) s.me.pc (BitVec.ofNat 64 va) 0 s.me.pc 0 ∧ TookFrame s.cur u t ∧ t.net = u.net))) ∧
  (∀ (o : BWop) (q : Passed), CanIssue s ([o.a.toNat] ++ (if o.exp then [o.b.toNat] else [])) o.d.toNat → barrierCheck s (s.me.rx o.a.toNat).toNat = .ok q →
    s.me.faults.length < 16 → walkWaits s q.walk = false →
    Sends s (.barWait o) .barWait (s.me.rx o.a.toNat).toNat o.d.toNat 0 s.me.ocdef.toNat (if o.exp then some ((s.me.rx o.b.toNat).toNat % 2 ^ 32) else none) q)

/-- R15, R255, R259, R260, R262, R266: the row operations of a running command whose operands lie within its frames, on the row codes that a slot accepts, in all its frames,
which are stored in subarrays of their own. The destination row takes the value of the
operation, a C row only below lane n and only below row WC; a negation row holds the complement. TRA and TRAN leave the majority in their three rows, NEGR leaves its value in the
negation row that it goes through, every other compute row stays, and no other byte of memory changes; the micro-op's cost is counted, and one that would take the quantum past 32 rc
waits for a boundary. -/
def Obligations.MicroRows : Prop := ∀ (s : State) (c : Cmd), getCmd s s.curCmd = some c → c.stage = .running → c.kind = .bkx → c.boundary = false →
  c.sealing = false → (∀ f ∈ c.frames, f % 2097152 = 0 ∧ paDram f = true) → (c.frames.map (fun f => subarrayNo (realPa s f))).Nodup →
  let b := readBlk c.block
  (∀ x ∈ b.opnds, x.org + x.w ≤ 256) →
  let m := lanesBelow b.nl
  let assigned (rs k : Nat) : Prop := rs / 128 = 3 → rs % 128 ≤ k
  let RowOp (i : Instr) (cost dst : Nat) (v : Nat → Row) (side : Nat → Nat → Option Row) : Prop := assigned dst 13 →
    (c.quantum + cost > 32 → ∃ t, exec i s = .next t ∧ getCmd t c.id = some { c with boundary := true } ∧ t.mem = s.mem ∧ t.comp = s.comp) ∧
    (c.quantum + cost ≤ 32 → ∃ t c', exec i s = .next t ∧ getCmd t c.id = some c' ∧ c'.upc = c.upc + 1 ∧ c'.rc = c.rc + cost ∧ c'.quantum = c.quantum + cost ∧
      c'.boundary = false ∧ t.vlcs = s.vlcs ∧ (writtenRow c b dst = none → t.mem = s.mem) ∧
      (∀ a, (∀ f ∈ c.frames, ∀ d, writtenRow c b dst = some d → a < rowPa f d ∨ rowPa f d + 8192 ≤ a) → mget t.mem a = mget s.mem a) ∧
      ∀ f ∈ c.frames,
        (∀ k, k < 14 → fixedRow t c b.ovm f k = (if dst / 128 = 3 ∧ dst % 128 = k then (if k ≥ 12 then ~~~v f else v f) else (side f k).getD (fixedRow s c b.ovm f k))) ∧
        ∀ d, d < 256 → writtenRow c b dst = some d →
          readRow t (rowPa f d) = (rawRow s c.free (rowPa f d) &&& ~~~m) ||| (v f &&& m) ∧ rowUnsealed t (rowPa f d) = true)
  let no (_ _ : Nat) : Option Row := none
  (∀ o : MRCop, assigned o.src.toNat 16 → RowOp (.rcpy o) 1 o.dst.toNat (fun f => readRs s c b f o.src.toNat) no ∧
    RowOp (.negr o) 2 o.dst.toNat (fun f => ~~~readRs s c b f o.src.toNat) (fun f k => if k = 12 then some (~~~readRs s c b f o.src.toNat) else none)) ∧
  (∀ o : MTRop,
    let w (f : Nat) : Row := maj3 (fixedRow s c b.ovm f o.ta.toNat) (fixedRow s c b.ovm f o.tb.toNat) (fixedRow s c b.ovm f o.tc.toNat)
    let three (f k : Nat) : Option Row := if k = o.ta.toNat ∨ k = o.tb.toNat ∨ k = o.tc.toNat then some (w f) else none
    RowOp (.tra o) 1 o.dst.toNat w three ∧ RowOp (.tran o) 1 o.dst.toNat (fun f => ~~~w f) three) ∧
  (∀ (o : MSHop), assigned o.src.toNat 16 →
    (∃ v, RowOp (.shl o) 1 o.dst.toNat v no ∧ ∀ f k, k < 65536 →
      (v f).getLsbD k = (decide (k < b.nl) && decide (2 ^ o.k.toNat ≤ k) && (readRs s c b f o.src.toNat).getLsbD (k - 2 ^ o.k.toNat))) ∧
    (∃ v, RowOp (.shr o) 1 o.dst.toNat v no ∧ ∀ f k, k < 65536 →
      (v f).getLsbD k = (decide (k + 2 ^ o.k.toNat < b.nl) && (readRs s c b f o.src.toNat).getLsbD (k + 2 ^ o.k.toNat)))) ∧
  (∀ dst : BitVec 9, RowOp (.clr dst) 1 dst.toNat (fun _ => 0) no ∧ RowOp (.set dst) 1 dst.toNat (fun _ => BitVec.allOnes 65536) no) ∧
  (∀ o : MBRDop, let k := b.k / 2 ^ (16 * o.ksel.toNat + min ((if o.x then c.i1 else c.i0) + o.off.toNat) 15)
    RowOp (.brd o) 1 o.dst.toNat (fun _ => if k % 2 = 1 then BitVec.allOnes 65536 else 0) no) ∧
  (∀ (dst : BitVec 9) (d : Nat), c.quantum < 32 → writtenRow c b dst.toNat = some d → d < 256 →
    ∃ t, exec (.seal dst) s = .next t ∧ t.mem = s.mem ∧ t.vlcs = s.vlcs ∧ ∀ f ∈ c.frames, rowUnsealed t (rowPa f d) = false ∧
      ∀ e, e < 256 → e ≠ d → rowUnsealed t (rowPa f e) = true → rowUnsealed s (rowPa f e) = true)

/-- R258, R261, R263, R266: control micro-ops of a running command, in all its frames. A loop that has turns left goes back and counts, and its last turn reloads the counter; `brz` is
taken when the row is 0 below lane n in every frame, and otherwise sets its flag; `yield` and `sync` ask for a boundary; END starts the sealing pass or ends the command. -/
def Obligations.MicroControl : Prop := ∀ (s : State) (c : Cmd), getCmd s s.curCmd = some c → c.stage = .running → c.kind = .bkx → c.boundary = false → c.sealing = false →
  c.quantum < 32 →
  let b := readBlk c.block
  let Goes (i : Instr) (c' : Cmd) : Prop := ∃ t, exec i s = .next t ∧ getCmd t c.id = some c' ∧ { t with cmds := s.cmds } = s
  (∀ o : MLOOPop,
    let inc (k : Nat) (i : Nat) : Nat := if o.inc.getLsbD k then (i + 1) % 65536 else i
    let n := if o.n then c.lc1 else c.lc0
    (n ≥ 2 → Goes (.loopc o) { c with
      i0 := inc 0 c.i0, i1 := inc 1 c.i1, upc := o.target.toNat, lc0 := if o.n then c.lc0 else n - 1, lc1 := if o.n then n - 1 else c.lc1 }) ∧
    (n < 2 → Goes (.loopc o) { c with
      i0 := if o.rst.getLsbD 0 then 0 else inc 0 c.i0, i1 := if o.rst.getLsbD 1 then 0 else inc 1 c.i1, upc := c.upc + 1,
      lc0 := if o.n then c.lc0 else b.lci0, lc1 := if o.n then b.lci1 else c.lc1 })) ∧
  (∀ o : MBRZop,
    let zero := ∀ f ∈ c.frames, readRs s c b f o.row.toNat &&& lanesBelow b.nl = 0
    (zero → Goes (.brz o) { c with upc := o.target.toNat, rc := c.rc + 1, quantum := c.quantum + 1 }) ∧
    (¬zero → Goes (.brz o) { c with
      upc := c.upc + 1, rc := c.rc + 1, quantum := c.quantum + 1, flags := if o.flg = 0 then c.flags else c.flags ||| 2 ^ (o.flg.toNat - 1) })) ∧
  Goes .yield { c with upc := c.upc + 1, boundary := true } ∧ Goes .sync { c with upc := c.upc + 1, boundary := bankWaits s c } ∧
  (∃ t c', exec .endOp s = .next t ∧ getCmd t c.id = some c' ∧ c'.ended = true ∧ t.mem = s.mem ∧ t.vlcs = s.vlcs ∧
    (getSlot t c.stack b.slot).use = (getSlot s c.stack b.slot).use - 1 ∧
    (if b.sealIt = true ∧ c.written ≠ 0 then c'.stage = .running ∧ c'.sealing = true ∧ (∀ d, d ∈ c'.todo ↔ d < 256 ∧ c.written.getLsbD d = true) ∧
        c'.todo.Pairwise (· < ·)
     else c'.stage = .ended))

/-- R255 to R258, R349, R369: a turn of a sequencer thread with one thing to do. It accepts the next command into the queue of its thread, with its block's dwords; it issues a
command that passes its checks to its frames; it rejects one that fails a check, with a class D fault and all ones in xd. -/
def Obligations.SequencerTurns : Prop := ∀ (s : State) (k th : Nat) (c : Cmd), getCmd s c.id = some c → c.reg < 32 →
  let Reaches : Prop := c.dropped = false ∧ (getVlc s c.vlc).status = .running ∧ (getVlc s c.vlc).faults.length < 16
  let Rejects (code : Nat) : Prop := ∃ t, exec (.sequencerTurn k th) s = .next t ∧ (∀ d, d ∈ t.cmds → d.id ≠ c.id) ∧
    (getVlc t c.vlc).rx c.reg = (if c.reg = 0 then 0 else BitVec.allOnes 64) ∧ (getVlc t c.vlc).isEmpty c.reg = false ∧
    (∃ f, (getVlc t c.vlc).faults = (getVlc s c.vlc).faults ++ [⟨f, c.id⟩] ∧ f.code = code ∧ f.cls = 2 ∧ f.origin = c.origin ∧ f.reg = c.reg) ∧ t.mem = s.mem
  (nextAccept s k th = some c → nextIssue s k th = none →
    (c.kind = .seal ∨ c.kind = .clone ∨ c.kind = .red ∨ c.kind = .lock →
      ∃ t, exec (.sequencerTurn k th) s = .next t ∧ getCmd t c.id = some { c with stage := .queued, ord := s.nextId, thread := th } ∧ t.mem = s.mem ∧ t.vlcs = s.vlcs) ∧
    (c.kind = .bkx → ueIn s c.pa 64 = false →
      let l := (upto 8).map (fun i => fld (mread s.mem c.pa 64) (64 * i) 64)
      (blockBad (readBlk l) = none →
        ∃ t c', exec (.sequencerTurn k th) s = .next t ∧ getCmd t c.id = some c' ∧ c'.stage = .queued ∧ c'.thread = th ∧ c'.block = l ∧ t.mem = s.mem ∧ t.vlcs = s.vlcs) ∧
      (∀ f, blockBad (readBlk l) = some f → Reaches → Rejects f))) ∧
  (nextAccept s k th = none → nextIssue s k th = some c →
    (issueCheck s c = none → c.kind ≠ .lock →
      ∃ t c', exec (.sequencerTurn k th) s = .next t ∧ getCmd t c.id = some c' ∧ c'.stage = .running ∧ c'.frames = cmdFrames s c ∧ c'.issued = s.cyc ∧
        (c.kind = .bkx → c'.words = (getSlot s c.stack (cmdSlot c)).words ∧ c'.lc0 = (readBlk c.block).lci0 ∧ c'.lc1 = (readBlk c.block).lci1 ∧
          (getSlot t c.stack (cmdSlot c)).use = (getSlot s c.stack (cmdSlot c)).use + 1) ∧ t.mem = s.mem) ∧
    (∀ f h, issueCheck s c = some (f, h) → Reaches → Rejects f))

/-- R264, R267, R276, R395: steps of a quantum boundary at which no host access was or is to be served. Its first ends when it has no access left to serve: where no bank owes a
refresh the next quantum begins; otherwise each bank that owes one is refreshed in 4 rc, and a third step follows, after which the next quantum begins; a step in which accesses
were served costs 1 rc. A command that has ended fills its
register with its response; a load or invalidation of an idle slot writes the slot and responds 0; a refresh falls due an interval after the one before, and is owed while a command holds the bank. -/
def Obligations.CommandsEnd : Prop := ∀ (s : State) (c : Cmd), getCmd s c.id = some c →
  (c.stage = .running → c.boundary = true → s.hostq = [] → c.cxl = [] → stepOpen s c = false → (cmdBanks s c).Nodup →
    let banks := cmdBanks s c
    let owes := ∃ b ∈ banks, tget 0 s.repair.debt b ≠ 0
    let cost := if c.served = [] ∧ c.walked = [] then 0 else 1
    (c.third = true ∨ ¬owes → ∃ t, exec (.quantumBoundary c.id) s = .next t ∧ { t with cmds := s.cmds } = s ∧
      getCmd t c.id = some { c with rc := c.rc + cost, quantum := 0, boundary := false, third := false, served := [], walked := [] }) ∧
    (c.third = false → owes → ∃ t c', exec (.quantumBoundary c.id) s = .next t ∧ getCmd t c.id = some c' ∧
      c' = { c with rc := c.rc + cost + 4, third := true, served := [], walked := [], since := c'.since } ∧ t.mem = s.mem ∧ t.vlcs = s.vlcs ∧
      ∀ b, tget 0 t.repair.debt b = tget 0 s.repair.debt b - (if b ∈ banks then 1 else 0))) ∧
  (c.stage = .ended → c.dropped = false → c.ue = false → c.reg < 32 →
    let w : Word := if c.kind = .bkx ∨ c.kind = .seal ∨ c.kind = .clone then BitVec.ofNat 64 (c.flags % 64 + 256 * min c.last 16777215) else BitVec.ofNat 64 c.result
    ∃ t, exec (.commandResponse c.id) s = .next t ∧ (∀ d, d ∈ t.cmds ↔ d ∈ s.cmds ∧ d.id ≠ c.id) ∧
      (getVlc t c.vlc).rx c.reg = (if c.reg = 0 then 0 else w) ∧ (getVlc t c.vlc).isEmpty c.reg = false ∧ (getVlc t c.vlc).event = true ∧
      (∀ k, k ≠ c.reg → (getVlc t c.vlc).rx k = (getVlc s c.vlc).rx k) ∧ t.mem = s.mem ∧ ∀ m, m ≠ c.vlc → getVlc t m = getVlc s m) ∧
  (c.stage = .queued → slotIdle s c = true →
    let Slots (i : Instr) (x : Slot) : Prop := ∃ t c', exec i s = .next t ∧ getSlot t c.stack (cmdSlot c) = x ∧ getCmd t c.id = some c' ∧ c'.stage = .ended ∧
      c'.result = 0 ∧ (∀ j, j ≠ cmdSlot c → getSlot t c.stack j = getSlot s c.stack j) ∧ t.mem = s.mem ∧ t.vlcs = s.vlcs
    (c.kind = .load → Slots (.slotLoadDone c.id) { valid := true, vi := c.vi, words := c.words, mask := useMask c.words }) ∧
    (c.kind = .inv → Slots (.slotInvalidateDone c.id) {})) ∧
  (∀ b, c ∈ s.cmds → c.stage = .running → b ∈ cmdBanks s c → tget 0 s.repair.refAt b + refreshInterval s b ≤ s.cyc →
    ∃ t, exec (.refreshDue b) s = .next t ∧ tget 0 t.repair.debt b = min 8 (tget 0 s.repair.debt b + 1) ∧ { t with repair := s.repair } = s)

/-- R156, R195 to R197, R203, R210: the element-wise integer words, in every operand form. -/
def Obligations.VectorIntegers : Prop := ∀ (s : State) (e : VEntry), WordReady s e true →
  let w := sewBits e.sew
  let g := grpN e.grp
  let VV (i : VVop → Instr) (f : Nat → Nat → Nat → Int) : Prop := ∀ o, ElementsOut (i o) s e o.vd.toNat g w o.m
    (fun j => (tr w (f (srcOf s o.va o.ma g w j) (srcOf s o.vb o.mb g w j) (oldOf s o.vd g w j)), 0))
  let VX (i : VXop → Instr) (f : Nat → Nat → Nat → Int) : Prop := ∀ o, ElementsOut (i o) s e o.vd.toNat g w o.m
    (fun j => (tr w (f (srcOf s o.va o.ma g w j) (e.xb.toNat % 2 ^ w) (oldOf s o.vd g w j)), 0))
  let VI (i : VIop → Instr) (f : Nat → Nat → Nat → Int) : Prop := ∀ o, ElementsOut (i o) s e o.vd.toNat g w o.m
    (fun j => (tr w (f (srcOf s o.va o.ma g w j) (tr w o.imm.toInt) (oldOf s o.vd g w j)), 0))
  let Both (i : VVop → Instr) (k : VXop → Instr) (f : Nat → Nat → Nat → Int) : Prop := VV i f ∧ VX k f
  let x := sx w
  Both .vaddVr .vaddSc (fun a b _ => a + b) ∧ VI .vaddIm (fun a b _ => a + b) ∧ Both .vsubVr .vsubSc (fun a b _ => (a : Int) - b) ∧
  VX .vrsubSc (fun a b _ => (b : Int) - a) ∧ VI .vrsubIm (fun a b _ => (b : Int) - a) ∧ Both .vmulVr .vmulSc (fun a b _ => a * b) ∧
  Both .vmulhVr .vmulhSc (fun a b _ => x a * x b / (2 ^ w : Nat)) ∧ Both .vmulhnVr .vmulhnSc (fun a b _ => a * b / (2 ^ w : Nat)) ∧
  Both .vmaccVr .vmaccSc (fun a b d => d + a * b) ∧ Both .vnmsacVr .vnmsacSc (fun a b d => (d : Int) - a * b) ∧
  Both .vdivVr .vdivSc (fun a b _ => if x b = 0 then -1 else Int.tdiv (x a) (x b)) ∧
  Both .vdivnVr .vdivnSc (fun a b _ => if b = 0 then -1 else a / b) ∧
  Both .vremVr .vremSc (fun a b _ => if x b = 0 then x a else Int.tmod (x a) (x b)) ∧ Both .vremnVr .vremnSc (fun a b _ => if b = 0 then a else a % b) ∧
  Both .vminVr .vminSc (fun a b _ => if x a ≤ x b then x a else x b) ∧ Both .vmaxVr .vmaxSc (fun a b _ => if x a ≤ x b then x b else x a) ∧
  Both .vminnVr .vminnSc (fun a b _ => if a ≤ b then a else b) ∧ Both .vmaxnVr .vmaxnSc (fun a b _ => if a ≤ b then b else a) ∧
  Both .vandVr .vandSc (fun a b _ => (a &&& b : Nat)) ∧ VI .vandIm (fun a b _ => (a &&& b : Nat)) ∧
  Both .vorVr .vorSc (fun a b _ => (a ||| b : Nat)) ∧ VI .vorIm (fun a b _ => (a ||| b : Nat)) ∧
  Both .vxorVr .vxorSc (fun a b _ => (a ^^^ b : Nat)) ∧ VI .vxorIm (fun a b _ => (a ^^^ b : Nat)) ∧
  Both .vsllVr .vsllSc (fun a b _ => (a * 2 ^ (b % w) : Nat)) ∧ VI .vsllIm (fun a b _ => (a * 2 ^ (b % w) : Nat)) ∧
  Both .vsrlVr .vsrlSc (fun a b _ => (a / 2 ^ (b % w) : Nat)) ∧ VI .vsrlIm (fun a b _ => (a / 2 ^ (b % w) : Nat)) ∧
  Both .vsraVr .vsraSc (fun a b _ => x a / (2 ^ (b % w) : Nat)) ∧ VI .vsraIm (fun a b _ => x a / (2 ^ (b % w) : Nat))

/-- R140, R199, R211 to R213: narrowing shifts read a double group at twice SEW, widening words write one, and saturating words raise SX exactly when the exact result does not fit. -/
def Obligations.VectorWidths : Prop := ∀ (s : State) (e : VEntry), WordReady s e true →
  let w := sewBits e.sew
  let g := grpN e.grp
  let x := sx w
  let y := sx (2 * w)
  let Narrow (i : VVop → Instr) (f : Nat → Nat → Int) : Prop := ∀ o, ElementsOut (i o) s e o.vd.toNat g w o.m
    (fun j => (tr w (f (srcOf s o.va o.ma (2 * g) (2 * w) j) (srcOf s o.vb o.mb g w j)), 0))
  let NarrowI (i : VIop → Instr) (f : Nat → Nat → Int) : Prop := ∀ o, ElementsOut (i o) s e o.vd.toNat g w o.m
    (fun j => (tr w (f (srcOf s o.va o.ma (2 * g) (2 * w) j) (tr w o.imm.toInt)), 0))
  let Widen (i : VVop → Instr) (f : Nat → Nat → Int) : Prop := ∀ o, ElementsOut (i o) s e o.vd.toNat (2 * g) (2 * w) o.m
    (fun j => (tr (2 * w) (f (srcOf s o.va o.ma g w j) (srcOf s o.vb o.mb g w j)), 0))
  let fit (sgn : Bool) (v : Int) : Nat × Nat :=
    let lo : Int := if sgn then -(2 ^ (w - 1) : Nat) else 0
    let hi : Int := if sgn then (2 ^ (w - 1) : Nat) - 1 else (2 ^ w : Nat) - 1
    let c := if v < lo then lo else if v > hi then hi else v
    (tr w c, if c = v then 0 else 32)
  let Sat (i : VVop → Instr) (k : VXop → Instr) (sgn : Bool) (f : Nat → Nat → Int) : Prop :=
    (∀ o, ElementsOut (i o) s e o.vd.toNat g w o.m (fun j => fit sgn (f (srcOf s o.va o.ma g w j) (srcOf s o.vb o.mb g w j)))) ∧
    (∀ o, ElementsOut (k o) s e o.vd.toNat g w o.m (fun j => fit sgn (f (srcOf s o.va o.ma g w j) (e.xb.toNat % 2 ^ w))))
  let Clip (i : VSHop → Instr) (sgn : Bool) (f : Nat → Int) : Prop := ∀ o, ElementsOut (i o) s e o.vd.toNat g w o.m
    (fun j => fit sgn (rshr (f (srcOf s o.va o.ma (2 * g) (2 * w) j)) o.sh.toNat e.rm))
  Narrow .vshrnVr (fun a b => (a / 2 ^ (b % (2 * w)) : Nat)) ∧ NarrowI .vshrnIm (fun a b => (a / 2 ^ (b % (2 * w)) : Nat)) ∧
  Narrow .vsarnVr (fun a b => y a / (2 ^ (b % (2 * w)) : Nat)) ∧ NarrowI .vsarnIm (fun a b => y a / (2 ^ (b % (2 * w)) : Nat)) ∧
  Widen .vwadd (fun a b => x a + x b) ∧ Widen .vwaddn (fun a b => a + b) ∧ Widen .vwmul (fun a b => x a * x b) ∧ Widen .vwmuln (fun a b => a * b) ∧
  Sat .vsaddVr .vsaddSc true (fun a b => x a + x b) ∧ Sat .vsaddnVr .vsaddnSc false (fun a b => a + b) ∧
  Sat .vssubVr .vssubSc true (fun a b => x a - x b) ∧ Sat .vssubnVr .vssubnSc false (fun a b => (a : Int) - b) ∧
  Clip .vclip true y ∧ Clip .vclipn false (fun a => a)

/-- R134, R135, R137, R214 to R216: the element-wise floating words and conversions apply the floating operation of their format, with its flags, to every active element below VL.
The operations are those of IEEE 754: the exact sum, product, fused product and sum, quotient or root is rounded once in the mode and raises the flags of that rounding, with the
results of zeros, infinities and NaNs; conversions saturate, round or are exact. Whether 0 × Inf + quiet NaN raises NV is the implementation's (log 4). -/
def Obligations.VectorFloats : Prop :=
  (∀ (mb mode a b c : Nat), (mb = 23 ∨ mb = 7) → mode < 4 → a < 2 ^ (mb + 9) → b < 2 ^ (mb + 9) → c < 2 ^ (mb + 9) →
    let v := valQ mb
    let Fin := isFin mb
    let Inf := isInf mb
    let sg := signOf mb
    let x := sg a != sg b
    let inf (n : Bool) : Nat × Nat := (withSign mb n (255 * 2 ^ mb), 0)
    let zero (n : Bool) : Nat × Nat := (withSign mb n 0, 0)
    let invalid : Nat × Nat := (canonNan mb, 1)
    let zeroInf : Prop := (Fin a ∧ v a = 0 ∧ Inf b) ∨ (Inf a ∧ Fin b ∧ v b = 0)
    let oneInf : Prop := ¬isNan mb a ∧ ¬isNan mb b ∧ ¬zeroInf ∧ (Inf a ∨ Inf b)
    (canonNan 23 = 0x7FC00000 ∧ canonNan 7 = 0x7FC0 ∧ NanRule mb [a, b] (fAdd mb mode a b) ∧ NanRule mb [a, b] (fMul mb mode a b) ∧
      NanRule mb [a, b] (fDiv mb mode a b) ∧ NanRule mb [a] (fSqrt mb mode a) ∧ (isNan mb a ∨ isNan mb b → NanRule mb [a, b, c] (fMac mb mode a b c))) ∧
    ((Fin a → Fin b → SumRule mb mode (v a + v b) (sg a) (sg b) (fAdd mb mode a b)) ∧ (Inf a → Fin b → fAdd mb mode a b = (a, 0)) ∧
      (Fin a → Inf b → fAdd mb mode a b = (b, 0)) ∧ (Inf a → Inf b → fAdd mb mode a b = if sg a = sg b then (a, 0) else invalid) ∧
      fSub mb mode a b = fAdd mb mode a (if sg b then b - 2 ^ (mb + 8) else b + 2 ^ (mb + 8))) ∧
    ((Fin a → Fin b → (v a * v b ≠ 0 → RoundsQ mb mode (v a * v b) (fMul mb mode a b)) ∧ (v a * v b = 0 → fMul mb mode a b = zero x)) ∧
      (zeroInf → fMul mb mode a b = invalid) ∧ (oneInf → fMul mb mode a b = inf x)) ∧
    ((Fin a → Fin b → Fin c → SumRule mb mode (v a * v b + v c) x (sg c) (fMac mb mode a b c)) ∧ (Fin a → Fin b → Inf c → fMac mb mode a b c = (c, 0)) ∧
      (zeroInf → ¬isNan mb c → fMac mb mode a b c = invalid) ∧ (oneInf → Fin c → fMac mb mode a b c = inf x) ∧
      (oneInf → Inf c → fMac mb mode a b c = if x = sg c then (c, 0) else invalid) ∧
      (¬isNan mb a → ¬isNan mb b → isNan mb c → (fMac mb mode a b c).1 = canonNan mb ∧ (isSig mb c → (fMac mb mode a b c).2 = 1) ∧
        (¬isSig mb c → ¬zeroInf → (fMac mb mode a b c).2 = 0) ∧ (¬isSig mb c → zeroInf → (fMac mb mode a b c).2 = if Config.fmaInvalid then 1 else 0))) ∧
    ((Fin a → Fin b → v a ≠ 0 → v b ≠ 0 → RoundsQ mb mode (v a / v b) (fDiv mb mode a b)) ∧ (Fin a → Fin b → v a = 0 → v b ≠ 0 → fDiv mb mode a b = zero x) ∧
      (Fin a → Fin b → v b = 0 → fDiv mb mode a b = if v a = 0 then invalid else ((inf x).1, 2)) ∧ (Inf a → Inf b → fDiv mb mode a b = invalid) ∧
      (Inf a → Fin b → fDiv mb mode a b = inf x) ∧ (Fin a → Inf b → fDiv mb mode a b = zero x)) ∧
    ((Fin a → v a = 0 → fSqrt mb mode a = (a, 0)) ∧ (Fin a → 0 < v a → RoundsTo mb mode false (fun q => q * q < v a) (fun q => v a < q * q) (fSqrt mb mode a)) ∧
      (Fin a → v a < 0 → fSqrt mb mode a = invalid) ∧ (Inf a → fSqrt mb mode a = if sg a then invalid else (a, 0))) ∧
    (∀ (sgn : Bool) (w : Nat), w = 16 ∨ w = 32 →
      let lo : Int := if sgn then -(2 ^ (w - 1) : Nat) else 0
      let hi : Int := if sgn then (2 ^ (w - 1) : Nat) - 1 else (2 ^ w : Nat) - 1
      (isNan mb a → fToInt sgn w mb mode a = (0, 1)) ∧ (Inf a → fToInt sgn w mb mode a = (tr w (if sg a then lo else hi), 1)) ∧
      (Fin a → ∃ i : Int, RoundsInt (v a) mode i ∧ (lo ≤ i → i ≤ hi → fToInt sgn w mb mode a = (tr w i, if v a = (i : Rat) then 0 else 16)) ∧
        (i < lo → fToInt sgn w mb mode a = (tr w lo, 1)) ∧ (hi < i → fToInt sgn w mb mode a = (tr w hi, 1)))) ∧
    (∀ i : Int, (i ≠ 0 → RoundsQ mb mode (i : Rat) (fOfInt mb mode i)) ∧ fOfInt mb mode 0 = (0, 0))) ∧
  (∀ (mode a : Nat), mode < 4 → a < 2 ^ 32 →
    (isFin 23 a → valQ 23 a ≠ 0 → RoundsQ 7 mode (valQ 23 a) (fNarrow mode a)) ∧ (isFin 23 a → valQ 23 a = 0 → fNarrow mode a = (a / 2 ^ 16, 0)) ∧
    (isInf 23 a → fNarrow mode a = (a / 2 ^ 16, 0)) ∧
    (isNan 23 a → (fNarrow mode a).1 = canonNan 7 ∧ (isSig 23 a → (fNarrow mode a).2 = 1) ∧ (¬isSig 23 a → (fNarrow mode a).2 = 0))) ∧
  (∀ a : Nat, a < 2 ^ 16 → (¬isNan 7 a → fWiden a = (a * 2 ^ 16, 0)) ∧
    (isNan 7 a → (fWiden a).1 = canonNan 23 ∧ (isSig 7 a → (fWiden a).2 = 1) ∧ (¬isSig 7 a → (fWiden a).2 = 0))) ∧
  ∀ (s : State) (e : VEntry), WordReady s e true → (e.sew = 1 ∨ e.sew = 2) →
  let w := sewBits e.sew
  let g := grpN e.grp
  let mb := if w = 32 then 23 else 7
  let rm := e.rm
  let Both (i : VVop → Instr) (k : VXop → Instr) (f : Nat → Nat → Nat → Nat × Nat) : Prop :=
    (∀ o, ElementsOut (i o) s e o.vd.toNat g w o.m (fun j => f (srcOf s o.va o.ma g w j) (srcOf s o.vb o.mb g w j) (oldOf s o.vd g w j))) ∧
    (∀ o, ElementsOut (k o) s e o.vd.toNat g w o.m (fun j => f (srcOf s o.va o.ma g w j) (e.xb.toNat % 2 ^ w) (oldOf s o.vd g w j)))
  let One (i : VUop → Instr) (f : Nat → Nat × Nat) : Prop := ∀ o, ElementsOut (i o) s e o.vd.toNat g w o.m (fun j => f (srcOf s o.va o.ma g w j))
  Both .vfaddVr .vfaddSc (fun a b _ => fAdd mb rm a b) ∧ Both .vfsubVr .vfsubSc (fun a b _ => fSub mb rm a b) ∧
  Both .vfmulVr .vfmulSc (fun a b _ => fMul mb rm a b) ∧ Both .vfmaccVr .vfmaccSc (fun a b d => fMac mb rm a b d) ∧
  Both .vfdivVr .vfdivSc (fun a b _ => fDiv mb rm a b) ∧ Both .vfminVr .vfminSc (fun a b _ => fMinMax true mb a b) ∧
  Both .vfmaxVr .vfmaxSc (fun a b _ => fMinMax false mb a b) ∧ Both .vfcpsVr .vfcpsSc (fun a b _ => fCps 0 mb a b) ∧
  Both .vfcpsnVr .vfcpsnSc (fun a b _ => fCps 1 mb a b) ∧ Both .vfcpsxVr .vfcpsxSc (fun a b _ => fCps 2 mb a b) ∧
  One .vfsqrt (fSqrt mb rm) ∧ One .vfexp2 (fExp2 mb) ∧ One .vfrcp (fRcp mb) ∧ One .vfrsq (fRsq mb) ∧ One .vflog2 (fLog2 mb) ∧
  One .vfcvtFI (fun a => fOfInt mb rm (sx w a)) ∧ One .vfcvtFN (fun a => fOfInt mb rm a) ∧ One .vfcvtIF (fToInt true w mb rm) ∧ One .vfcvtNF (fToInt false w mb rm) ∧
  (∀ o, ElementsOut (.vfcvtBfF o) s e o.vd.toNat g w o.m (fun j => fNarrow rm (srcOf s o.va o.ma (2 * g) (2 * w) j))) ∧
  (∀ o, ElementsOut (.vfcvtFBf o) s e o.vd.toNat (2 * g) (2 * w) o.m (fun j => fWiden (srcOf s o.va o.ma g w j)))

/-- R137, R141, R143, R216: packing writes the blocks of the elements below VL, with +0 at positions past VL, and unpacking writes the exact value of an element of a block. A
block's element is its magnitude over 2^q at its selected exponent. Packing takes the high exponent from the greatest finite magnitude of the block, gives each value the low
exponent where its rounded magnitude fits and else the high one, saturated where that does not fit, and raises the flags of what it changed. -/
def Obligations.BlockConversions : Prop :=
  (∀ four : Bool,
    let q : Int := if four then 1 else 5
    let w : Nat := if four then 4 else 8
    let base : Nat := if four then 2 else 1
    let per : Nat := if four then 30 else 31
    let mmax : Nat := if four then 3 else 63
    let two : Rat := 2
    let high (blk : Nat) : Int := ((blk / 8 % 32 : Nat) : Int) - 15
    let el (blk j : Nat) : Nat := blk / 2 ^ (w * (base + j)) % 2 ^ w
    let sel (blk j : Nat) : Bool := el blk j / 2 ^ (w - 1) % 2 == 1
    let neg (blk j : Nat) : Bool := el blk j / 2 ^ (w - 2) % 2 == 1
    let mag (blk j : Nat) : Nat := el blk j % 2 ^ (w - 2)
    let at_ (blk j : Nat) : Rat := two ^ ((if sel blk j then high blk else high blk - ((blk % 8 + 1 : Nat) : Int)) - q)
    (∀ blk j mode : Nat, j < per → mode < 4 →
      (∃ n m k, dxbElem four blk j = .fin n m k) ∧ fvQ (dxbElem four blk j) = signed (neg blk j) ((mag blk j : Rat) * at_ blk j) ∧
      isFin 23 (encF 23 mode (dxbElem four blk j)).1 ∧ valQ 23 (encF 23 mode (dxbElem four blk j)).1 = fvQ (dxbElem four blk j) ∧
      (encF 23 mode (dxbElem four blk j)).2 = 0) ∧
    (∀ (g mode : Nat) (xs : List FV), 1 ≤ g → g ≤ 8 → mode < 4 → xs.length = per →
      let r := dxbPack four g mode xs
      let blk := r.1
      let anyInf : Prop := ∃ n, FV.inf n ∈ xs
      let num (x : FV) : Prop := ∃ n m k, x = .fin n m k
      let low (x : FV) : Rat := fvQ x / two ^ (high blk - (g : Int) - q)
      let up (x : FV) : Rat := fvQ x / two ^ (high blk - q)
      let tooBig (x : FV) : Prop := num x ∧ ∃ i k : Int, RoundsInt (low x) mode i ∧ mmax < i.natAbs ∧ RoundsInt (up x) mode k ∧ mmax < k.natAbs
      blk < 2 ^ (if four then 128 else 256) ∧ blk % 8 = g - 1 ∧ (anyInf → blk / 8 % 32 = 31) ∧
      (¬anyInf → (∀ x ∈ xs, fvQ x = 0) → blk / 8 % 32 = 0) ∧
      (¬anyInf → ∀ x ∈ xs, num x → fvQ x ≠ 0 → (∀ y ∈ xs, -(signed (decide (fvQ x < 0)) (fvQ x)) ≤ fvQ y ∧ fvQ y ≤ signed (decide (fvQ x < 0)) (fvQ x)) →
        let big := signed (decide (fvQ x < 0)) (fvQ x)
        ∃ l i : Int, two ^ l ≤ big ∧ big < two ^ (l + 1) ∧ RoundsInt (big / two ^ (l - q)) mode i ∧
          ((blk / 8 % 32 : Nat) : Int) = min (max ((if (mmax : Int) < i then l + 1 else l) + 15) 0) 31) ∧
      (∀ (j : Nat) (x : FV), xs[j]? = some x →
        (x.isNan = true → el blk j = 0) ∧
        (∀ n, x = .inf n → sel blk j = true ∧ neg blk j = n ∧ mag blk j = mmax) ∧
        (num x → ∃ i k : Int, RoundsInt (low x) mode i ∧ RoundsInt (up x) mode k ∧ neg blk j = decide (fvQ x < 0) ∧
          (if i.natAbs ≤ mmax then sel blk j = false ∧ mag blk j = i.natAbs else sel blk j = true ∧ mag blk j = min mmax k.natAbs))) ∧
      (r.2.testBit 0 = true ↔ ∃ x ∈ xs, x.isNan = true) ∧
      (r.2.testBit 2 = true ↔ anyInf ∨ ∃ x ∈ xs, tooBig x) ∧
      (r.2.testBit 3 = true ↔ ∃ (j : Nat) (x : FV), xs[j]? = some x ∧ num x ∧ fvQ x ≠ 0 ∧ mag blk j = 0) ∧
      (r.2.testBit 4 = true ↔ anyInf ∨ ∃ (j : Nat) (x : FV), xs[j]? = some x ∧ num x ∧ signed (neg blk j) ((mag blk j : Rat) * at_ blk j) ≠ fvQ x))) ∧
  ∀ (s : State) (e : VEntry), WordReady s e true → e.sew = 2 →
  let g := grpN e.grp
  let Pack (i : VGAPop → Instr) (per bits : Nat) (four : Bool) : Prop := ∀ o,
    let blk (b : Nat) : Nat × Nat := dxbPack four (o.gap.toNat + 1) e.rm
      ((List.range per).map (fun j => if per * b + j < e.vl then decF 23 (srcOf s o.va o.ma g 32 (per * b + j)) else .fin false 0 0))
    ∃ t fl, exec (i o) s = .next t ∧ Executed s t e (wordCycles s e e.vl) { s.me with v := t.me.v } fl ∧
      GroupOut s t o.vd.toNat g bits (fun b => if b * per < e.vl then some (blk b).1 else none) ∧
      ∀ k, fl.testBit k = true ↔ ∃ b, b * per < e.vl ∧ (blk b).2.testBit k = true
  let Unpack (i : VUop → Instr) (per bits : Nat) (four : Bool) : Prop := ∀ o,
    let blk (b : Nat) : Nat := (List.range (bits / 32)).foldr (fun k acc => acc * 2 ^ 32 + srcOf s o.va o.ma g 32 (b * (bits / 32) + k)) 0
    ElementsOut (i o) s e o.vd.toNat g 32 o.m (fun j => encF 23 e.rm (dxbElem four (blk (j / per)) (j % per)))
  Pack .vfcvtDxb8F 31 256 false ∧ Pack .vfcvtDxb4F 30 128 true ∧ Unpack .vfcvtFDxb8 31 256 false ∧ Unpack .vfcvtFDxb4 30 128 true

/-- R217, R218: compares write their bits, and floating compares their flags. -/
def Obligations.VectorCompares : Prop := ∀ (s : State) (e : VEntry), WordReady s e true →
  let w := sewBits e.sew
  let g := grpN e.grp
  let x := sx w
  let CV (i : CVop → Instr) (f : Nat → Nat → Bool × Nat) : Prop := ∀ o, CompareOut (i o) s e o.kd.toNat o.m (fun j => f (srcOf s o.va o.ma g w j) (srcOf s o.vb o.mb g w j))
  let CX (i : CXop → Instr) (f : Nat → Nat → Bool × Nat) : Prop := ∀ o, CompareOut (i o) s e o.kd.toNat o.m (fun j => f (srcOf s o.va o.ma g w j) (e.xb.toNat % 2 ^ w))
  let Both (i : CVop → Instr) (k : CXop → Instr) (f : Nat → Nat → Bool × Nat) : Prop := CV i f ∧ CX k f
  Both .vceqVr .vceqSc (fun a b => (decide (a = b), 0)) ∧ Both .vcneVr .vcneSc (fun a b => (decide (a ≠ b), 0)) ∧
  Both .vcltVr .vcltSc (fun a b => (decide (x a < x b), 0)) ∧ Both .vcltnVr .vcltnSc (fun a b => (decide (a < b), 0)) ∧
  Both .vcleVr .vcleSc (fun a b => (decide (x a ≤ x b), 0)) ∧ Both .vclenVr .vclenSc (fun a b => (decide (a ≤ b), 0)) ∧
  CX .vcgtSc (fun a b => (decide (x a > x b), 0)) ∧ CX .vcgtnSc (fun a b => (decide (a > b), 0)) ∧
  (let mb := if w = 32 then 23 else 7
   Both .vfceqVr .vfceqSc (fCmp 0 mb) ∧ Both .vfcneVr .vfcneSc (fCmp 1 mb) ∧ Both .vfcltVr .vfcltSc (fCmp 2 mb) ∧ Both .vfcleVr .vfcleSc (fCmp 3 mb))

/-- R219 to R221, R223, R228: mask instructions write bits 0 to VL − 1; read-queue words send their results to xd; merges write every element below VL; moves and `vidx`. -/
def Obligations.MasksAndMoves : Prop := ∀ (s : State) (e : VEntry), WordReady s e true →
  let w := sewBits e.sew
  let g := grpN e.grp
  let all : VMask := { km := 0, kp := false }
  let kb (k : BitVec 3) (j : Nat) : Bool := k = 0 || (tget 0 s.me.k k.toNat).getLsbD j
  let K (i : Instr) (kd : BitVec 3) (f : Nat → Bool) : Prop := ∃ t, exec i s = .next t ∧ Executed s t e (wordCycles s e e.vl) { s.me with k := t.me.k } 0 ∧
    BitsOut s t kd.toNat (fun j => if j < e.vl then some (f j) else none)
  (∀ o : KKop, K (.kand o) o.kd (fun j => kb o.ka j && kb o.kb j) ∧ K (.kor o) o.kd (fun j => kb o.ka j || kb o.kb j) ∧
    K (.kxor o) o.kd (fun j => kb o.ka j != kb o.kb j)) ∧
  (∀ o : KNop, K (.knot o) o.kd (fun j => !kb o.ka j)) ∧
  (∀ o : KXop, QueueOut (.kpopc o) s e o.xd.toNat ((List.range e.vl).filter (kb o.ka)).length ∧
    (∃ r, QueueOut (.kffs o) s e o.xd.toNat r ∧ ((∀ j, j < e.vl → kb o.ka j = false) → r = 18446744073709551615) ∧
      ∀ j, j < e.vl → kb o.ka j = true → r ≤ j ∧ r < e.vl ∧ kb o.ka r = true)) ∧
  (∀ o : KMop, ∃ r, QueueOut (.kmvx o) s e o.xd.toNat r ∧ r < 2 ^ 64 ∧
    ∀ b, b < 64 → r.testBit b = (decide (64 * o.j.toNat + b < e.vl) && kb o.ka (64 * o.j.toNat + b))) ∧
  (∀ o : MVXSop, QueueOut (.vmvxs o) s e o.xd.toNat (BitVec.ofInt 64 (sx w (oldOf s o.va 1 w 0))).toNat) ∧
  (∀ o : VVop, ElementsOut (.vmergeVr o) s e o.vd.toNat g w all (fun j => (if active s.me o.m j then srcOf s o.vb o.mb g w j else srcOf s o.va o.ma g w j, 0))) ∧
  (∀ o : VXop, ElementsOut (.vmergeSc o) s e o.vd.toNat g w all (fun j => (if active s.me o.m j then e.xb.toNat % 2 ^ w else srcOf s o.va o.ma g w j, 0))) ∧
  (∀ o : VIop, ElementsOut (.vmergeIm o) s e o.vd.toNat g w all (fun j => (if active s.me o.m j then tr w o.imm.toInt else srcOf s o.va o.ma g w j, 0))) ∧
  (∀ o : VUop, ElementsOut (.vmvVr o) s e o.vd.toNat g w o.m (fun j => (srcOf s o.va o.ma g w j, 0))) ∧
  (∀ o : MVXop, ElementsOut (.vmvSc o) s e o.vd.toNat g w o.m (fun _ => (e.xb.toNat, 0))) ∧
  (∀ o : MVIop, ElementsOut (.vmvIm o) s e o.vd.toNat g w o.m (fun _ => (tr w o.imm.toInt, 0)) ∧
    ElementsOut (.vidx o) s e o.vd.toNat g w o.m (fun j => (tr w (sx 9 (o.imm.toNat / 512) + j * sx 9 o.imm.toNat), 0))) ∧
  (∀ o : MVSXop, WholeOut (.vmvsx o) s e o.vd.toNat 1 w (fun j => if j = 0 ∧ 0 < e.vl then some e.xa.toNat else none))

/-- R148, R222 to R227: reductions write element 0 of vd from vb[0] and the active elements; permutes move elements of one group to another.
The order of the sum of vfsumr is a free tree, for R148 leaves it open (log 9). -/
def Obligations.ReductionsAndPermutes : Prop := ∀ (s : State) (e : VEntry), WordReady s e true →
  let w := sewBits e.sew
  let g := grpN e.grp
  let mb := if w = 32 then 23 else 7
  let on (m : VMask) : List Nat := (List.range e.vl).filter (fun j => active s.me m j)
  let act (m : VMask) (j : Nat) : Bool := decide (j < e.vl) && active s.me m j
  let Red (i : VVop → Instr) (f : Nat → List Nat → Nat × Nat) : Prop := ∀ o,
    let b := oldOf s o.vb 1 w 0
    let l := (on o.m).map (fun j => srcOf s o.va o.ma g w j)
    let r := if l = [] then (b, 0) else f b l
    ∃ t, exec (i o) s = .next t ∧ Executed s t e (wordCycles s e e.vl) { s.me with v := t.me.v } r.2 ∧ GroupOut s t o.vd.toNat 1 w (fun j => if j = 0 then some r.1 else none)
  let Slide (i : Instr) (vd va : BitVec 5) (ma : BitVec 3) (m : VMask) (up : Bool) (off : Nat) : Prop := WholeOut i s e vd.toNat g w (fun j =>
    if act m j then (if up then (if off ≤ j then some (srcOf s va ma g w (j - off)) else none)
      else some (if j + off < e.vl then srcOf s va ma g w (j + off) else 0)) else none)
  Red .vsumr (fun b l => (l.foldl (· + ·) b % 2 ^ w, 0)) ∧ Red .vmaxnr (fun b l => (l.foldl max b, 0)) ∧ Red .vminnr (fun b l => (l.foldl min b, 0)) ∧
  Red .vmaxr (fun b l => (l.foldl (fun p q => if sx w p ≥ sx w q then p else q) b, 0)) ∧
  Red .vminr (fun b l => (l.foldl (fun p q => if sx w p ≤ sx w q then p else q) b, 0)) ∧
  Red .vfsumr (fun b l => fSum 0xA5 mb e.rm e.vl e.sew e.grp (vlenOf s s.cur / 192) ((l ++ [b]).map (decF mb))) ∧
  Red .vfmaxr (fun b l => l.foldl (fun a q => ((fMinMax false mb a.1 q).1, a.2 ||| (fMinMax false mb a.1 q).2)) (b, 0)) ∧
  Red .vfminr (fun b l => l.foldl (fun a q => ((fMinMax true mb a.1 q).1, a.2 ||| (fMinMax true mb a.1 q).2)) (b, 0)) ∧
  (∀ o : VXop, Slide (.vslideupSc o) o.vd o.va o.ma o.m true e.xb.toNat ∧ Slide (.vslidednSc o) o.vd o.va o.ma o.m false e.xb.toNat ∧
    WholeOut (.vslide1up o) s e o.vd.toNat g w (fun j => if act o.m j then some (if j = 0 then e.xb.toNat else srcOf s o.va o.ma g w (j - 1)) else none)) ∧
  (∀ o : VIop, Slide (.vslideupIm o) o.vd o.va o.ma o.m true o.imm.toNat ∧ Slide (.vslidednIm o) o.vd o.va o.ma o.m false o.imm.toNat) ∧
  (∀ o : VVop, WholeOut (.vrgather o) s e o.vd.toNat g w (fun j =>
    let k := srcOf s o.vb o.mb g w j
    if act o.m j then some (if k < e.vl then srcOf s o.va o.ma g w k else 0) else none)) ∧
  (∀ o : VUop, WholeOut (.vcompress o) s e o.vd.toNat g w (fun j => ((on o.m)[j]?).map (fun k => srcOf s o.va o.ma g w k))) ∧
  (∀ o : RSHop,
    let a := srcString (groupN s.me (vlenOf s s.cur) o.va.toNat g) w e.vl o.ma
    let u := if o.u = 0 then w else if o.u = 1 then 256 else 128
    let l := e.xb.toNat
    let rows := if l = 0 ∨ l > e.vl * w / u then 0 else e.vl * w / u / l
    WholeOut (.vreshp o) s e o.vd.toNat g u (fun p => if p < rows * l then some (elemN a u (p % rows * l + p / rows)) else none))

/-- R202, R230 to R233, R360, R364: vector loads and stores whose elements all pass.
R231, R233: where the elements of a vector memory word lie: unit stride, x stride, index times scale, and the fields of packed and strided records, with address arithmetic
modulo 2^64. -/
def Obligations.VectorMemory : Prop :=
  (∀ (s : State) (e : VEntry), WordReady s e true →
    (∀ o : VMop, VectorLoads (.vld o) s e (vmWord o false false) ∧ VectorLoads (.vldff o) s e (vmWord o false true) ∧ VectorStores (.vst o) s e (vmWord o true false)) ∧
    (∀ o : VMSop, VectorLoads (.vlds o) s e (vmsWord o false) ∧ VectorStores (.vsts o) s e (vmsWord o true)) ∧
    (∀ o : VMXop, VectorLoads (.vldx o) s e (vmxWord o false) ∧ VectorStores (.vstx o) s e (vmxWord o true)) ∧
    (∀ o : VSGop, VectorLoads (.vldseg o) s e (vsgWord o false) ∧ VectorStores (.vstseg o) s e (vsgWord o true))) ∧
  (∀ (xa xb : Word) (sew i idx : Nat),
    let at_ (w : MemWord) : List (Nat × Nat × Nat) := (elemAccs w xa xb sew i idx).map (fun x => (x.f, x.va, x.size))
    let wrap (v : Int) : Nat := (v % (18446744073709551616 : Int)).toNat
    (∀ (o : VMop) (a b : Bool), at_ (vmWord o a b) = [(0, wrap (xa.toNat + i * (sew / 8)), sew / 8)]) ∧
    (∀ (o : VMSop) (a : Bool), at_ (vmsWord o a) = [(0, wrap (xa.toNat + i * xb.toInt), sew / 8)]) ∧
    (∀ (o : VMXop) (a : Bool), at_ (vmxWord o a) = [(0, wrap (xa.toNat + idx * 2 ^ o.sc.toNat), sew / 8)]) ∧
    (∀ (o : VSGop) (a : Bool),
      let b : Nat := 2 ^ o.fw.toNat
      let step : Int := if o.xb = 0 then (o.nf.toNat + 1) * b else xb.toInt
      at_ (vsgWord o a) = (List.range (o.nf.toNat + 1)).map (fun (f : Nat) => (f, wrap (xa.toNat + i * step + (f * b : Nat)), b))))

/-- R106, R204, R209, R234: the gather-atomics; `vstop` leaves the queue with no effect, and `vbrk` faults BREAK, class V, with every younger word held. -/
def Obligations.GatherAtomics : Prop := ∀ (s : State) (e : VEntry),
  (WordReady s e true → ∀ o : VATop,
    VectorAtomics (.vaadd o) s e (vatWord o 0) 0 ∧ VectorAtomics (.vaand o) s e (vatWord o 1) 1 ∧ VectorAtomics (.vaor o) s e (vatWord o 2) 2 ∧
    VectorAtomics (.vaxor o) s e (vatWord o 3) 3 ∧ VectorAtomics (.vamin o) s e (vatWord o 4) 4 ∧ VectorAtomics (.vamax o) s e (vatWord o 5) 5 ∧
    VectorAtomics (.vaswap o) s e (vatWord o 6) 6 ∧ VectorAtomics (.vacas o) s e (vatWord o 7) 7) ∧
  (WordReady s e false →
    (∃ t, exec .vstop s = .next t ∧ { t with cores := s.cores } = s ∧
      (getCore t (s.cur / 4)).viq = (getCore s (s.cur / 4)).viq.filter (fun x => x.id != e.id)) ∧
    (∀ code : BitVec 11, ∃ t p, exec (.vbrk code) s = .next t ∧ p ∈ t.me.vfaults ∧ p.fr.code = 18 ∧ p.fr.aux = code.toNat ∧ p.fr.cls = 1 ∧ p.fr.origin = e.blk ∧
      p.fr.slot = e.slot ∧ p.ord = e.id ∧ t.me.held = (viqOf s s.cur).filter (fun x => e.id < x.id && x.id != e.id) ++ s.me.held ∧
      t.me.refetch = some (e.blk, e.slot) ∧ t.me.v = s.me.v ∧ t.mem = s.mem))

/-- R237, R246 to R248, R253, R374: `mclaim` takes a free slice fresh, and leaves it alone for its holder; `mrel` ends the claim, and has no effect without one; `mprec` and `mzero` set
what they name; `mldb` loads 6,144 bytes into its slot; CLAIM_GRANT passes a free slice to the first request that no saved context blocks, and leaves it while that request is one of a
restore, which takes it itself; each is charged its slice cycles, and the accumulators keep the residues of their patterns through every step that changes them. That a blocked request
is passed over is the model's choice (log 66), and so is the charge of a claim by its holder (log 50). -/
def Obligations.SliceWords : Prop := ∀ (s : State) (e : VEntry),
  let sl := (getVault s (s.cur / 8)).slice
  (MatrixReady s e →
    SliceOut .mclaim s e 96 sl ∧ SliceOut .mrel s e 1 { queue := sl.queue } ∧
    (∀ xa fa, SliceOut (.mprec xa fa) s e 1 { sl with prec := e.xa }) ∧
    (∃ m : Word, SliceOut .mzero s e 4 { sl with c := [], rho := [], mstat := m } ∧ m.toNat % 64 = sl.mstat.toNat % 64 ∧ m.toNat / 64 % 4 = 0) ∧
    (∀ (o : MLDop) (ps : List Page), mldbCheck s s.cur e.xa.toNat = .ok ps → s.me.sopen = false →
      (∀ j, j < 768 → ∃ p, pageOf s (whoOf s s.cur) (e.xa.toNat + 8 * j) = some p ∧ ueIn s p.pa 8 = false ∧
        let x : Elem := (⟨j, 0, e.xa.toNat + 8 * j, 8⟩, pagePassed s (whoOf s s.cur) (e.xa.toNat + 8 * j) p)
        elemHeld s e (match o.cls with | some c => c.toNat | none => e.cls) x = false ∧ elemsWait s e [x] = false) →
      ∃ t, exec (.mldb o) s = .next t ∧ Executed s t e 96 s.me 0 ∧
        ∀ j p, j < 768 → pageOf s (whoOf s s.cur) (e.xa.toNat + 8 * j) = some p →
          fld (tget 0 (getVault t (s.cur / 8)).slice.b o.slot.toNat).toNat (64 * j) 64 = mread s.mem p.pa 8)) ∧
  (WordReady s e false → sl.holder = none → sl.queue = [] → rqOf s s.cur = [] → savedClaim s s.cur = false →
    (s.cur / 4 % 2 = 1 ∨ (getVault s (s.cur / 8)).claimAt ≠ s.cyc + 1) → SliceOut .mclaim s e 96 { holder := some s.cur }) ∧
  (WordReady s e false → sl.holder ≠ some s.cur → rqOf s s.cur = [] → SliceOut .mrel s e 1 sl) ∧
  (∀ v n, nextClaim s v = some n → n / 8 = v →
    ((getVlc s n).status ≠ .restoring → ∃ t, exec (.claimGrant v) s = .next t ∧
      (getVault t v).slice = { holder := some n, queue := (getVault s v).slice.queue.filter (· != n) } ∧ t.mem = s.mem ∧ t.vlcs = s.vlcs) ∧
    ((getVlc s n).status = .restoring → exec (.claimGrant v) s = .next s)) ∧
  (∀ v, ResiduesRight (getVault s v).slice →
    let Keeps (i : Instr) : Prop := ∀ t, exec i s = .next t → ResiduesRight (getVault t v).slice
    Keeps .mclaim ∧ Keeps .mrel ∧ Keeps .mzero ∧ (∀ u, Keeps (.claimGrant u)) ∧ (∀ u k, Keeps (.recheck u k)) ∧
    (∀ o, Keeps (.mma o) ∧ Keeps (.mmat o) ∧ Keeps (.mmaf o)) ∧ ∀ o, Keeps (.mscale o))

/-- R146, R150, R241, R249 to R253, R375: the arithmetic of the slice on the M rows that VL and SEW give. Integer products add exactly, are aligned to the fraction position, and saturate; floating
products add in RMODE, in the order of the implementation (R148; the tree of log 9); `mscale` rounds once; `mcvt` writes the accumulators to the group of vd; each is charged
its slice cycles and keeps the flags that its steps raise. With M = 0 a word completes with no effect, whichever elements are empty. -/
def Obligations.SliceArithmetic : Prop := ∀ (s : State) (e : VEntry),
  let sl := (getVault s (s.cur / 8)).slice
  (MatrixFirst s e → e.vl = 0 →
    let Empty (i : Instr) : Prop := ∃ t, exec i s = .next t ∧ Executed s t e 0 s.me 0 ∧
      (getVault t (s.cur / 8)).slice = sl
    (∀ o : MMop, SliceOut (.mma o) s e 0 sl ∧ SliceOut (.mmat o) s e 0 sl ∧ Empty (.mmaf o)) ∧ (∀ o, Empty (.mscale o)) ∧
    ∀ o : MCVop, o.ofmt.toNat ≤ 8 → Empty (.mcvt o)) ∧
  ∀ m : Nat, MatrixReady s e → e.vl * sewBits e.sew = 1536 * m → 0 < m →
  let p := sl.prec.toNat
  let n := vlenOf s s.cur
  let g := grpN e.grp
  let row (va : BitVec 5) (r : Nat) : Nat := fld (groupN s.me n va.toNat g) (1536 * r) 1536
  let col (b : BitVec 6) (c : Nat) : Nat := fld (tget 0 sl.b b.toNat).toNat (1536 * c) 1536
  let wa := p % 32
  let wb := p / 65536 % 32
  let f := p / 32 % 32 + p / 2097152 % 32
  let pos := if sl.mstat.toNat / 64 % 2 = 1 then sl.mstat.toNat % 64 else f
  let cycles (k wa wb : Nat) : Nat := (m * 32 * k * wa * wb + 65535) / 65536
  let Adds (i : Instr) (wb : Nat) (o : MMop) (b : Nat → List Int) : Prop :=
    let k := 1536 / max wa wb
    let acc (r c : Nat) : Nat × Bool := foldAcc (accN sl r c) (dot (intFields (row o.va r) wa k (p / 1024 % 2 == 1)) (b c)) f pos
    ∃ t, exec i s = .next t ∧ LeftQueue s t e (cycles k wa wb) s.me ∧ AccOut s t m (fun r c => (acc r c).1) ∧
      (let ms := (getVault t (s.cur / 8)).slice.mstat.toNat
       ms % 64 = pos % 64 ∧ ms / 64 % 2 = 1 ∧ (ms / 128 % 2 = 1 ↔ sl.mstat.toNat / 128 % 2 = 1 ∨ ∃ r c, r < m ∧ c < 32 ∧ (acc r c).2 = true))
  (∀ o : MMop, sl.slip = none → ResiduesRight sl → Adds (.mma o) wb o (fun c => intFields (col o.slot c) wb (1536 / max wa wb) (p / 67108864 % 2 == 1)) ∧
    Adds (.mmat o) 2 o (fun c => t2Fields (col o.slot c) (1536 / max wa 2))) ∧
  (∀ o : MMop, ∃ t fl, exec (.mmaf o) s = .next t ∧ Executed s t e (cycles (match p / 4294967296 % 4 with | 0 => 96 | 1 => 186 | _ => 360) 8 8) s.me fl ∧
    (let a (r c : Nat) := mmafAcc e (n / 192) (accN sl r c) (fpFields (p / 4294967296 % 4) (row o.va r)) (fpFields (p / 4294967296 % 4) (col o.slot c))
     AccOut s t m (fun r c => (a r c).1) ∧ ∀ k, fl.testBit k = true ↔ ∃ r c, r < m ∧ c < 32 ∧ (a r c).2.testBit k = true)) ∧
  (∀ o : MSCop, ∃ t fl, exec (.mscale o) s = .next t ∧ Executed s t e m s.me fl ∧
    (let x (r c : Nat) := if o.src then decF 23 (accN sl r c) else .fin (sx 32 (accN sl r c) < 0) (sx 32 (accN sl r c)).natAbs (-(sl.mstat.toNat % 64 : Nat))
     let y (r c : Nat) := mulV (x r c) (scaleOf o.sfmt (groupN s.me n o.va.toNat g) r)
     let z (r c : Nat) := mulV (y r c).1 (scaleOf o.sfmt (groupN s.me n o.vb.toNat g) c)
     AccOut s t m (fun r c => (encF 23 e.rm (z r c).1).1) ∧
       ∀ k, fl.testBit k = true ↔ ∃ r c, r < m ∧ c < 32 ∧ ((encF 23 e.rm (z r c).1).2.testBit k = true ∨ (z r c).2.testBit k = true ∨ (y r c).2.testBit k = true))) ∧
  (∀ o : MCVop, o.ofmt.toNat < 7 →
    let w := mcvtWidth o.ofmt.toNat
    let field (j : Nat) := mcvtField o.ofmt.toNat o.n.toNat e.rm (accN sl (j / 32) (j % 32))
    ∃ t fl, exec (.mcvt o) s = .next t ∧ Executed s t e m { s.me with v := t.me.v } fl ∧
      GroupOut s t o.vd.toNat g w (fun j => if j < 32 * m then some (field j).1 else none) ∧
      ∀ k, fl.testBit k = true ↔ ∃ j, j < 32 * m ∧ (field j).2.testBit k = true) ∧
  (∀ o : MCVop, o.ofmt.toNat = 7 ∨ o.ofmt.toNat = 8 →
    let four := decide (o.ofmt.toNat = 8)
    let per := if four then 30 else 31
    let bits := if four then 128 else 256
    let blk (b : Nat) := dxbPack four (o.n.toNat + 1) e.rm ((List.range per).map (fun j =>
      if per * b + j < 32 * m then decF 23 (accN sl ((per * b + j) / 32) ((per * b + j) % 32)) else .fin false 0 0))
    ∃ t fl, exec (.mcvt o) s = .next t ∧ Executed s t e m { s.me with v := t.me.v } fl ∧
      GroupOut s t o.vd.toNat g bits (fun b => if b * per < 32 * m then some (blk b).1 else none) ∧
      ∀ k, fl.testBit k = true ↔ ∃ b, b * per < 32 * m ∧ (blk b).2.testBit k = true)

/-- R57, R106, R139, R302, R371 to R373, R381: RECHECK settles the oldest word of the queue and charges what its re-execution adds to its unit. Where two runs agree on the first result the
word retires: its flags enter FFLAGS; its stores perform in order, or enter the store buffer of an open strip, which performs first where they overflow it; a gather-atomic sends
its element atomics; a word that has met a fault part-way is held and adds its flags later. Where the results are outvoted it is held with its younger words, or the strip is
rewound. STRIP_REWIND brings a strip whose error was consumed back to the `vsetl` that opened it, with the checkpointed registers and without its buffered stores; a register that a
discarded read-queue word was to fill is 0 and full. What a re-execution adds is log 50's reading. -/
def Obligations.RetireAndRewind : Prop := ∀ s : State,
  (∀ (v k : Nat) (r : REntry) (q : List REntry), (getVault s v).rq = r :: q → r.e.vlc / 8 = v → (getVlc s r.e.vlc).rewind = false →
    let n := r.e.vlc
    let x := getVlc s n
    let cost := x.cost + recheckCost v k r s
    let flags := x.fflags ||| BitVec.ofNat 6 r.flags
    let Others (t : State) : Prop := ∀ m, m ≠ n → getVlc t m = getVlc s m
    let Retires (p : State → Prop) : Prop := ∃ t, exec (.recheck v k) s = .next t ∧ (getVault t v).rq = q ∧ (getVlc t n).cost = cost ∧ Others t ∧ p t
    (k ≤ 1 → mayRetire s r = true →
      (r.smm = none → r.fault = none → (x.sopen = false ∨ x.sbfull = true) → (∀ a ∈ s.net, a.vlc = n → a.seqd = false) → Retires (fun t =>
        (getVlc t n).fflags = flags ∧
        (∀ l b pa, r.stores = l ++ [b] → b.tgt = .loc pa → b.size ∈ [1, 2, 4, 8] → mread t.mem pa b.size = b.data % 2 ^ (8 * b.size)) ∧
        ∀ a, (∀ b ∈ r.stores, ∀ pa, b.tgt = .loc pa → a < pa ∨ pa + (if b.size ≤ 8 then b.size else (b.size + 7) / 8 * 8) ≤ a) → mget t.mem a = mget s.mem a)) ∧
      (r.smm = none → r.fault = none → x.sopen = true → x.sbfull = false → (∀ b ∈ r.stores, b.dev = false) → overflows s r = false → Retires (fun t =>
        t.mem = s.mem ∧ t.net = s.net ∧ getVlc t n = { x with cost := cost, fflags := flags, sbuf := r.stores.foldl (fun l b => putBuf b l) x.sbuf })) ∧
      (r.smm = none → r.fault = none → (∀ b ∈ r.stores, b.dev = false) → overflows s r = true → Retires (fun t =>
        (getVlc t n).fflags = flags ∧ (getVlc t n).sbuf = [] ∧ (getVlc t n).sbfull = true)) ∧
      (∀ m, r.smm = some m → r.stores = [] → r.atoms ≠ [] → Retires (fun t =>
        t.mem = s.mem ∧ (∃ l, t.net = s.net ++ l ∧ l.map (fun a => (a.vlc, a.id, a.kind, a.op, a.tgt, a.data, a.cmp, a.vdst)) =
          r.atoms.map (fun a => (a.vlc, a.id, a.kind, a.op, a.tgt, a.data, a.cmp, a.vdst))) ∧
        (∃ g, (getVlc t n).gath = x.gath ++ [g] ∧ g.e.id = r.e.id ∧ g.left = r.atoms.length ∧ g.smm = some m) ∧ (getVlc t n).irrev = (x.irrev || x.sopen) ∧
        (r.fault = none → (getVlc t n).fflags = flags))) ∧
      (∀ f, r.smm = none → r.stores = [] → r.fault = some f → Retires (fun t =>
        (getVlc t n).fflags = x.fflags ∧ t.mem = s.mem ∧ (∃ w l p, (getVlc t n).held = w :: l ∧ w.id = r.e.id ∧ w.instr = r.e.instr ∧ w.start = f.estart ∧ w.flags = r.flags ∧
          p ∈ (getVlc t n).vfaults ∧ p.ord = r.e.id ∧ p.fr.code = f.code ∧ p.fr.addr = f.addr ∧ p.fr.cls = 1)))) ∧
    (k = 2 → x.rewindable = true → ∃ t, exec (.recheck v k) s = .next t ∧ (getVlc t n).rewind = true ∧ (getVlc t n).cost = cost ∧ t.mem = s.mem ∧ Others t) ∧
    (2 ≤ k → (k = 2 → x.rewindable = false) → ∃ t, exec (.recheck v k) s = .next t ∧ rqOf t n = (rqOf s n).filter (fun y => decide (y.e.id < r.e.id)) ∧
      (getVlc t n).cost = cost ∧ (getVlc t n).fflags = x.fflags ∧ t.mem = s.mem ∧ Others t ∧
      ∃ l p, (getVlc t n).held = r.e :: l ∧ p ∈ (getVlc t n).vfaults ∧ p.ord = r.e.id ∧ p.fr.code = (if k = 2 then cUE_CONSUMED else cRECHECK) ∧ p.fr.cls = 1)) ∧
  (∀ n, (getVlc s n).rewind = true → loadsOut s n = false → s.sched.preloads = [] →
    let v := getVlc s n
    ∃ t, exec (.stripRewind n) s = .next t ∧ t.mem = s.mem ∧ (∀ m, m ≠ n → getVlc t m = getVlc s m) ∧ viqOf t n = [] ∧ rqOf t n = [] ∧
      (let u := getVlc t n
       (∀ i, 0 < i → i < 32 → v.ckmask.getLsbD i = true → u.rx i = tget 0 v.ckp i ∧ u.isEmpty i = false) ∧ u.sc = v.prc ∧ u.prc = v.prc ∧ u.sb = v.cksb ∧ u.vl = 0 ∧
         u.sopen = false ∧ u.sbuf = [] ∧ u.held = [] ∧ u.estart = 0 ∧ u.scPend = none ∧ u.rwd = true ∧ u.rewind = false ∧ u.pc = v.spc ∧ u.v = v.v ∧ u.k = v.k ∧
         u.vcfg = v.vcfg ∧ u.fflags = v.fflags ∧ u.np = v.np ∧ u.lanes = v.lanes ∧ u.marks = v.marks ∧
         ∀ e ∈ viqOf s n ++ v.held ++ (rqOf s n).map (fun r => r.e), ∀ d, (shapeOf e.instr).xd = some d → v.isPend d = true → v.ckmask.getLsbD d = false →
           u.rx d = 0 ∧ u.isEmpty d = false))

/-- R35 to R37, R70, R75, R307, R316: the ports of a virtual interface. A packet whose last dword is written is answered by one receipt, of MALFORMED, FULL or ACCEPTED, unless the
FIFO is full; an accepted packet of an otherwise empty queue is a launch with its bound. The bound latched beside the receipt of a refused packet is 0, the model's choice (log 63).
Receipts are read in order; a new root and TINV start invalidations; as they complete, the translations that they cover are dropped, and after one of the whole space the tables as
memory holds them are in effect. -/
def Obligations.HostPorts : Prop := ∀ (s : State) (vi : Nat), vi < 256 →
  let v := getVi s vi
  let put (fab : Bool) (p : Port) (u : Vi) : Vi := if fab then { u with fab := p } else { u with host := p }
  (∀ (fab : Bool) (off : Nat) (bytes : List Byte), ∃ p : Port, SetsVi (.lpktLatch vi fab off bytes) s vi (put fab p v) ∧
    p.fifo = (getPort v fab).fifo ∧ p.rbound = (getPort v fab).rbound ∧
    ∀ k, k < 64 → tget 0 p.lpkt k = (if off ≤ k ∧ k < off + bytes.length then bytes.getD (k - off) 0 else tget 0 (getPort v fab).lpkt k)) ∧
  (∀ (fab : Bool) (w : Word),
    let old := getPort v fab
    let p := (upto 7).map (pktWord old) ++ [w.toNat]
    let port := latch 56 (wordBytes 8 w.toNat) old
    let receipt (st b : Nat) : Vi :=
      put fab { port with fifo := old.fifo ++ [(BitVec.ofNat 64 (st + v.seq * 65536), BitVec.ofNat 64 b)] } { v with seq := v.seq + 1 }
    let rel := pktBarv p || pktSer p
    let b := (if rel then 0 else s.cyc) + 330000 + longTail s
    (old.fifo.length ≥ 64 → SetsVi (.launchSubmit vi fab w) s vi (put fab port v)) ∧
    (old.fifo.length < 64 → s.plat.service = false → SetsVi (.launchSubmit vi fab w) s vi (receipt 2 0)) ∧
    (old.fifo.length < 64 → s.plat.service = true → malformed p = true → SetsVi (.launchSubmit vi fab w) s vi (receipt 3 0)) ∧
    (old.fifo.length < 64 → malformed p = false → isFull s vi p = true → SetsVi (.launchSubmit vi fab w) s vi (receipt 2 0)) ∧
    (old.fifo.length < 64 → malformed p = false → isFull s vi p = false → (∀ l ∈ s.launches, l.started = true ∧ (l.vi = vi → l.seq ≠ v.seq)) →
      (pktBarv p = false ∨ ∃ pa, barWord s { vi := vi, seq := v.seq, pkt := p, rel := rel, bound := b, ready := none } = .ok pa ∧ ueIn s pa 8 = false) →
      ∃ t l, exec (.launchSubmit vi fab w) s = .next t ∧ getVi t vi = receipt (if rel then 5 else 1) b ∧ t.launches = s.launches ++ [l] ∧ l.vi = vi ∧ l.seq = v.seq ∧
        l.pkt = p ∧ l.rel = rel ∧ l.bound = b ∧ l.started = false ∧ l.fault = none ∧ t.mem = s.mem ∧ t.vlcs = s.vlcs)) ∧
  (∀ fab : Bool,
    ((getPort v fab).fifo = [] → ∃ t, exec (.rcptRead vi fab) s = .next t ∧ t.out.regs = s.out.regs ++ [0] ∧ { t with out := s.out } = s) ∧
    ∀ r b q, (getPort v fab).fifo = (r, b) :: q → ∃ t, exec (.rcptRead vi fab) s = .next t ∧ t.out.regs = s.out.regs ++ [r] ∧
      ViIs vi (put fab { getPort v fab with fifo := q, rbound := b } v) s { t with out := s.out }) ∧
  (∀ w : Word, SetsVi (.trootWrite vi w) s vi { v with
      troot := BitVec.ofNat 64 (w.toNat % 2 + w.toNat / 4096 % 536870912 * 4096), tinv := v.tinv ++ [(0, 3)], tview := none } ∧
    SetsVi (.tinvWrite vi w) s vi { v with tinv := v.tinv ++ [(w.toNat / 4096 % 17592186044416 * 4096, w.toNat % 4)] }) ∧
  (∃ t, exec (.tsyncRead vi) s = .next t ∧ t.out.regs = s.out.regs ++ [if v.tinv = [] then 1 else 0] ∧ { t with out := s.out } = s) ∧
  (∃ t, exec (.tinvComplete vi) s = .next t ∧ ViIs vi { v with tinv := [], tview := (getVi t vi).tview } s { t with tlb := s.tlb } ∧
    (v.tinv ≠ [] → (∀ p ∈ v.tinv, p.2 = 3) → (getVi t vi).tview = some s.mem) ∧
    ∀ e, e ∈ t.tlb ↔ e ∈ s.tlb ∧ (e.vi = vi → ∀ p ∈ v.tinv, invCovers p e = false))

/-- R102, R322, R323: a handle is committed, unless a commit before it has made it one that is refused, or fetched once its job is done; GIVE and HOME change their region's owner at once and UNHOME waits for its drain; CARVE makes a region of
a free entry, and its deletion frees one.
That a commit is tested again as its job ends, and then sets ERR, is the model's choice (log 40). -/
def Obligations.HandlesAndRegions : Prop := ∀ (s : State) (vi : Nat) (w : Word), vi < 256 →
  let v := getVi s vi
  let x := w.toNat
  (v.hjob = none →
    let k := x / 16384 % 16 * 16384 + x % 16384
    let e := tget {} s.hands k
    let h := wordsHandle vi v.hdat0 v.hdat1
    let sel (bad : Bool) (job : Nat × Option Handle) : Vi :=
      if bad then { v with hsel := BitVec.ofNat 64 (x % 262144 + 2 ^ 62 + 2 ^ 63) } else { v with hsel := BitVec.ofNat 64 (x % 262144), hjob := some job }
    SetsVi (.handleCommit vi w) s vi (sel (commitBad s vi (x / 16384 % 16) (x % 16384) h) (k, some h)) ∧
    SetsVi (.handleFetch vi w) s vi (sel (decide (x / 16384 % 16 ≥ 12) || (e.v && e.vi != vi)) (k, none))) ∧
  (∀ k job, v.hjob = some (k, job) → ∃ t, exec (.hselDone vi) s = .next t ∧ { t with vis := s.vis, hands := s.hands } = s ∧ (∀ u, u ≠ vi → getVi t u = getVi s u) ∧
    let u := { v with hjob := none, hsel := v.hsel ||| 0x8000000000000000 }
    (∀ h, job = some h → commitBad s vi (k / 16384) (k % 16384) h = false → getVi t vi = u ∧ EntryIs {} s.hands t.hands k h) ∧
    (∀ h, job = some h → commitBad s vi (k / 16384) (k % 16384) h = true → getVi t vi = { u with hsel := u.hsel ||| 0x4000000000000000 } ∧ t.hands = s.hands) ∧
    (job = none → getVi t vi = { u with hdat0 := handleWord0 (tget {} s.hands k), hdat1 := handleWord1 (tget {} s.hands k) } ∧ t.hands = s.hands)) ∧
  (let stack := x / 262144 % 16
   let key := stack * 65536 + x / 4 % 65536
   let r := tokAt s key
   v.tkres ≠ 1 → s.plat.service = true → stack < 12 → r.kind = 1 →
    let Busy (i : Instr) (drained : Bool) (P : State → Prop) : Prop := ∃ t, exec i s = .next t ∧
      getVi t vi = { v with tkop := w, tkres := 1, tkDrained := drained } ∧ P t ∧ { t with vis := s.vis, toks := s.toks } = s ∧ ∀ u, u ≠ vi → getVi t u = getVi s u
    (r.owner = hostAgent vi → r.shares = 0 → (∃ l ∈ s.launches, l.vi = vi ∧ l.seq % 65536 = x / 4194304 % 65536) →
      Busy (.give vi w) true (fun t => tokAt t key = { r with owner := rootAgent vi (x / 4194304 % 65536), lender := hostAgent vi } ∧ OnlyToks s t [key])) ∧
    (r.owner = hostAgent vi → r.shares = 0 →
      Busy (.home vi w) true (fun t => tokAt t key = { r with owner := homeAgent stack, lender := hostAgent vi } ∧ OnlyToks s t [key])) ∧
    (r.owner = homeAgent stack → r.lender = hostAgent vi → Busy (.unhome vi w) false (fun t => t.toks = s.toks)) ∧
    (r.owner ≠ hostAgent vi → SetsVi (.give vi w) s vi { v with tkop := w, tkres := 3 } ∧ SetsVi (.home vi w) s vi { v with tkop := w, tkres := 3 })) ∧
  (let base := s.mgmt.carve0.toNat / 4096 % 536870912 * 4096
   let pages := x % 33554432
   let host := hostAgent (x / 33554432 % 256)
   let Carves (i : Instr) (P : State → Prop) : Prop := ∃ t, exec i s = .next t ∧ t.mgmt = { s.mgmt with carve1 := BitVec.ofNat 64 (x % 17179869184) } ∧ P t ∧
     { t with mgmt := s.mgmt, toks := s.toks, repair := s.repair } = s
   s.plat.service = true →
    (∀ k, pages ≠ 0 → backed s base (pages * 4096) = true → paOff base + pages * 4096 ≤ dramEnd →
      (∀ p ∈ s.toks, p.2.kind = 1 → p.1 / 65536 = paStack base → rangesMeet (p.2.base * 4096) (p.2.pages * 4096) base (pages * 4096) = false) →
      freeTok s (paStack base) = some k →
      Carves (.carve w) (fun t => tokAt t k = { kind := 1, base := base / 4096, pages := pages, owner := host } ∧ OnlyToks s t [k] ∧ t.repair = s.repair)) ∧
    (pages = 0 → exec (.carve w) s = .next { s with mgmt := { s.mgmt with carve1 := BitVec.ofNat 64 (x % 17179869184 + 2 ^ 35) } }) ∧
    (∀ k r, s.toks.find? (fun p => p.2.kind == 1 && p.2.base == base / 4096 && p.2.owner == host && p.2.shares == 0) = some (k, r) →
      Carves (.carveDelete w) (fun t => tokAt t k = {} ∧ OnlyToks s t [k])))

/-- R6, R305, R312, R320, R328, R329, R331, R332, R334, R384, R385, R389, R412: writes of the registers of the management block and of a VI's plain registers. A new
INTERVAL counts from the entry into service mode; a test that is due already stays so. The copies of a module whose route is cleared end. -/
def Obligations.ManagementRegisters : Prop := ∀ (s : State) (w : Word),
  let x := w.toNat
  let m := s.mgmt
  let Mgmt (i : Instr) (P : Mgmt → Prop) : Prop := ∃ t, exec i s = .next t ∧ { t with mgmt := m } = s ∧ P t.mgmt
  (∀ vi, vi < 256 →
    let fl := x % 1024
    let q := x / 65536 % 65536
    let sum := ((s.vis.filter (fun p => p.1 != vi)).map (fun p => p.2.floor)).sum
    (fl + sum ≤ 1000 → q ≠ 0 → ∃ t, exec (.vschedWrite vi w) s = .next t ∧ ViIs vi { getVi s vi with floor := fl, quant := q } s { t with plat := s.plat } ∧ Remeasured s t) ∧
    ((fl + sum > 1000 ∨ q = 0) → exec (.vschedWrite vi w) s = .next s) ∧
    SetsVi (.registerWrite false vi 0x078 w) s vi { getVi s vi with hdat0 := BitVec.ofNat 64 (x % 16 + x / 4096 % 536870912 * 4096) } ∧
    SetsVi (.registerWrite false vi 0x080 w) s vi { getVi s vi with hdat1 := BitVec.ofNat 64 (x % 68719476736) } ∧
    SetsVi (.registerWrite false vi 0x088 w) s vi { getVi s vi with vctl := BitVec.ofNat 64 (x % 4 + x / 256 % 256 * 256) } ∧
    SetsVi (.registerWrite false vi 0x090 w) s vi { getVi s vi with preld := BitVec.ofNat 64 (x % 2 + x / 64 % 1125899906842624 * 64) }) ∧
  (∀ n, n < 64 →
    ((x % 2 = 0 ∨ x / 2 % 256 / 64 = n / 16) → Mgmt (.hdmbWrite n w) (fun k => { k with hdmb := m.hdmb } = m ∧
      EntryIs 0 m.hdmb k.hdmb n (BitVec.ofNat 64 (x % 512 + x / 268435456 % 268435456 * 268435456)))) ∧
    (x % 2 = 1 → x / 2 % 256 / 64 ≠ n / 16 → exec (.hdmbWrite n w) s = .next s)) ∧
  (∃ t, exec (.modidWrite w) s = .next t ∧ t.mgmt = { m with modid := x % 1024 } ∧ { t with mgmt := m, plat := s.plat } = s ∧ Remeasured s t) ∧
  (∀ n, n < 1024 → s.plat.service = false → ∃ t, exec (.routeWrite n w) s = .next t ∧
    { t with mgmt := m, plat := s.plat, fabric := s.fabric, tiles := s.tiles, inbound := s.inbound } = s ∧ Remeasured s t ∧
    (x % 16777216 ≠ 0 → t.tiles = s.tiles ∧ t.inbound = s.inbound) ∧
    (x % 16777216 = 0 → ∀ y, y ∈ t.inbound ↔ y ∈ s.inbound ∧ y.mod ≠ n) ∧
    { t.mgmt with route := m.route } = m ∧ EntryIs 0 m.route t.mgmt.route n (BitVec.ofNat 64 (x % 268435456)) ∧
    (n ∈ t.fabric.cleared ↔ x % 16777216 = 0)) ∧
  (s.plat.service = false → ∃ t, exec (.mrootWrite w) s = .next t ∧ { t with plat := s.plat, tlb := s.tlb } = s ∧
    t.plat = { s.plat with mroot := BitVec.ofNat 64 (x % 2 + x / 4096 % 536870912 * 4096), mview := some s.mem } ∧ ∀ e, e ∈ t.tlb ↔ e ∈ s.tlb ∧ e.vi ≠ resVi) ∧
  (s.plat.service = true → (∀ n, exec (.routeWrite n w) s = .next s) ∧ exec (.mrootWrite w) s = .next s) ∧
  (x % 2 = 1 → s.plat.service = false →
    (s.plat.resDone = false → exec (.serviceModeRequest w) s = .next { s with plat := { s.plat with err := true } }) ∧
    (s.plat.resDone = true → ∃ t, exec (.serviceModeRequest w) s = .next t ∧ t.plat = { s.plat with service := true, err := false } ∧ t.toks = [] ∧ t.vlcs = s.vlcs ∧
      ∀ a, mget t.mem a = if isScratch a then 0 else mget s.mem a)) ∧
  (x / 4 % 2 = 1 → s.plat.svnState ≠ 1 →
    let k := x % 4
    let n := x / 16 % 65536
    exec (.svnRaise w) s = .next { s with plat := { s.plat with
      svnKind := k, svnNew := n, svnState := if tget 0 s.plat.svnMin k < n ∧ n ≤ tget 0 s.plat.runSvn k then 1 else 3 } }) ∧
  (s.plat.svnState = 1 → ∃ t, exec .svnFuseDone s = .next t ∧ { t with plat := s.plat } = s ∧ t.plat.svnState = 2 ∧
    EntryIs 0 s.plat.svnMin t.plat.svnMin s.plat.svnKind s.plat.svnNew) ∧
  (let i := x / 256 % 131072
   (60 ≤ i → i ≤ 86400 → Mgmt (.scanctlWrite w) (fun k => k = { m with scanEn := decide (x % 2 = 1), scanInt := i, scanDue := k.scanDue } ∧
     (m.scanDue ≤ s.cyc → k.scanDue = m.scanDue) ∧
     (s.cyc < m.scanDue → m.scanFrom ≤ s.cyc →
       s.cyc < k.scanDue ∧ k.scanDue ≤ s.cyc + i * 3300000000 ∧ (k.scanDue - m.scanFrom) % (i * 3300000000) = 0))) ∧
   ((i < 60 ∨ 86400 < i) → exec (.scanctlWrite w) s = .next s)) ∧
  (∀ n hi, n < 12 → Mgmt (.cestatWrite n hi) (fun k => { k with ce := m.ce } = m ∧ EntryIs 0 m.ce k.ce (2 * n + (if hi then 1 else 0)) 0)) ∧
  (∀ n, n < 16 →
    let base := x / 2097152 % 1048576 * 2097152
    let len := x / 2199023255552 % 4096 * 2097152
    ((x % 2 = 0 ∨ ∀ p ∈ s.toks, p.2.kind = 1 → rangesMeet (p.2.base * 4096) (p.2.pages * 4096) base len = false) →
      Mgmt (.spareWrite n w) (fun k => { k with spare := m.spare } = m ∧ EntryIs 0 m.spare k.spare n (BitVec.ofNat 64 (x % 2 + x / 2097152 % 4294967296 * 2097152))))) ∧
  (∀ vi,
    Mgmt (.registerWrite true vi 0x0800 w) (fun k => k = { m with carve0 := BitVec.ofNat 64 (x / 4096 % 536870912 * 4096) }) ∧
    Mgmt (.registerWrite true vi 0x3038 w) (fun k => k = { m with ckser := w }) ∧
    (∀ j, j < 28 →
      Mgmt (.registerWrite true vi (0x7000 + 16 * j) w) (fun k => { k with cktgt := m.cktgt } = m ∧ EntryIs 0 m.cktgt k.cktgt (2 * j) (BitVec.ofNat 64 (x % 2048))) ∧
      Mgmt (.registerWrite true vi (0x7008 + 16 * j) w) (fun k => { k with cktgt := m.cktgt } = m ∧ EntryIs 0 m.cktgt k.cktgt (2 * j + 1) w)) ∧
    (∀ o, o < 512 → s.plat.service = false →
      let pa := vaultPa 5 (dramEnd + 0x3FFF000) + 8 * o
      ∃ t, exec (.registerWrite true vi (0x8000 + 8 * o) w) s = .next t ∧ mread t.mem pa 8 = x ∧ BytesKept s t pa 8 ∧ t.vlcs = s.vlcs))

/-- R319, R329, R407 to R411: a checkpoint pre-empts every running context and closes the module; one that has quiesced within 40 ms ends with an image of the module, the
scheduler's state with it, sent to the enabled targets that work, or with FABRIC where none does, and one that has not ends with PROMISE_MISSED; the requests to a target are of at most
256 bytes each and follow one another in address. A restore fetches the last image whose targets are all enabled and brings it back into service mode, or leaves every byte outside DRAM.
That the image lies whole in State beside its requests, that its targets must be among the enabled ones and that a checkpoint lays its own over the images at its targets are the model's
choices (log 78). -/
def Obligations.CheckpointsAndRestores : Prop := ∀ s : State,
  let late : Prop := (if s.mgmt.ckQuiet = 0 then s.cyc else s.mgmt.ckQuiet - 1) > s.mgmt.ckAt + 132000000
  (∀ w : Word, w.toNat % 4 = 1 → s.plat.service = true → s.plat.stopped = false → s.mgmt.ckstate ≠ 1 → ∃ t, exec (.checkpoint w) s = .next t ∧
    t.mgmt = { s.mgmt with ckstate := 1, ckcode := 0, ckdir := false, ckAt := s.cyc, ckQuiet := 0, stored := t.mgmt.stored, ce := t.mgmt.ce } ∧
    (∀ x, x ∈ t.mgmt.stored ↔ x ∈ s.mgmt.stored ∧ ∀ p ∈ x.targets, p ∉ enabledTargets s) ∧ t.mem = s.mem ∧
    ∀ n, getVlc t n = (if (getVlc s n).status = .running ∧ (getVlc s n).resident = false then
      { getVlc s n with status := .draining, drainAt := s.cyc, drainLong := (getVlc t n).drainLong, cmdEnd := s.cyc, flip := none, early := [], ahead := [] }
      else getVlc s n)) ∧
  (s.mgmt.ckstate = 1 → s.mgmt.ckdir = false →
    (late → exec .quiesceTimeout s = .next { s with mgmt := { s.mgmt with ckstate := 3, ckcode := 21 } }) ∧
    (¬late → exec .quiesceTimeout s = .next s) ∧
    (∀ lost, late ∨ quiesced s = false → exec (.checkpointDone lost) s = .next s) ∧
    (∀ lost, ¬late → quiesced s = true →
      let ts := (enabledTargets s).filter (fun p => if p.1 < 24 then s.fabric.linkup.getLsbD p.1 else !lost)
      (ts = [] → exec (.checkpointDone lost) s = .next { s with mgmt := { s.mgmt with ckstate := 3, ckcode := 26 } }) ∧
      (ts ≠ [] → ∃ t x, exec (.checkpointDone lost) s = .next t ∧ t.mgmt.ckstate = 2 ∧ x.targets = ts ∧
        (∀ y, y ∈ t.mgmt.stored ↔ y = x ∨ y ∈ s.mgmt.stored ∧ ∀ p ∈ y.targets, p ∉ enabledTargets s) ∧ t.out.transfers = s.out.transfers ++ [(true, x)] ∧
        x.image.mem = s.mem ∧ x.image.ecc = s.ecc ∧ x.image.tiles = s.tiles ∧ x.image.toks = s.toks ∧ x.image.hands = s.hands ∧ x.image.vis = s.vis ∧
        x.image.launches = s.launches ∧ x.image.sched = s.sched ∧ x.image.cyc = s.cyc ∧ x.image.ser = s.mgmt.ckser ∧ t.mem = s.mem ∧ t.vlcs = s.vlcs))) ∧
  (∀ a b, (pieces a b).flatMap Prod.snd = b ∧ ∀ i p, (pieces a b)[i]? = some p → p.1 = a + 256 * i ∧ p.2.length ≤ 256) ∧
  (∀ w : Word, w.toNat % 4 = 3 → s.plat.service = false → s.plat.stopped = false → s.plat.resDone = true → s.mgmt.ckstate ≠ 1 →
    exec (.restore w) s = .next { s with mgmt := { s.mgmt with ckstate := 1, ckcode := 0, ckdir := true, ckAt := s.cyc } }) ∧
  (s.mgmt.ckstate = 1 → s.mgmt.ckdir = true →
    let Fails (bad : Bool) (c : Nat) : Prop := ∃ t, exec (.restoreDone bad) s = .next t ∧ t.mgmt.ckstate = 3 ∧ t.mgmt.ckcode = c ∧ t.plat = s.plat ∧
      ∀ a, paDram a = false → mget t.mem a = mget s.mem a
    let At (x : Stored) : Prop := ∀ p ∈ x.targets, p ∈ enabledTargets s
    (∀ (x : Stored) old new, s.mgmt.stored = old ++ x :: new → At x → (∀ y ∈ new, ¬At y) →
      (imageFits s x.image = true →
        let i := x.image
        ∃ t, exec (.restoreDone false) s = .next t ∧ t.mem = i.mem ∧ t.ecc = i.ecc ∧ t.tiles = i.tiles ∧ t.toks = i.toks ∧ t.hands = i.hands ∧ t.vis = i.vis ∧
          t.launches = i.launches ∧ t.cyc = max s.cyc i.cyc ∧ t.repair.pinned = i.pinned ∧
          t.sched = { i.sched with active := s.sched.active, failed := s.sched.failed, standby := s.sched.standby } ∧
          { t.plat with meas := s.plat.meas } = { s.plat with service := true, err := false } ∧ (∀ k, k ≠ 5 → tget 0 t.plat.meas k = tget 0 s.plat.meas k) ∧
          t.mgmt.ckstate = 2 ∧ t.out.transfers = s.out.transfers ++ [(false, x)]) ∧
      (imageFits s x.image = false → Fails false 3)) ∧
    ((∀ y ∈ s.mgmt.stored, ¬At y) → Fails false 22) ∧ Fails true 22)

/-- R325 to R327, R330, R331, R335, R336, R414, R416: attestation, power, temperature and the release of reset, which leaves the module in mailbox mode, with the retirements that the
boot flash keeps applied. A stopped module makes no step but its reset. -/
def Obligations.SecurityAndPower : Prop := ∀ s : State,
  (∀ port, s.plat.released = true → s.plat.code = 0 → s.plat.stopped = false → port < 4 →
    let Answers (i : Instr) (P : SpdmReply → Prop) : Prop := ∃ t r, exec i s = .next t ∧ t.out.spdm = s.out.spdm ++ [(port, r)] ∧ P r ∧
      { t with plat := s.plat, out := s.out, fresh := s.fresh } = s
    (tget false s.plat.doeBusy port = false →
      Answers (.getVersion port) (· = .version 1 3) ∧ Answers (.negotiateAlgorithms port) (· = .algorithms) ∧ Answers (.unsupportedRequest port) (· = .unsupported) ∧
      Answers (.getMeasurements port) (· = .measurements [tget 0 s.plat.meas 1, tget 0 s.plat.meas 2, tget 0 s.plat.meas 3, tget 0 s.plat.meas 4, tget 0 s.plat.meas 5]) ∧
      Answers (.getCapabilities port) (fun r => ∃ c, r = .capabilities c) ∧ Answers (.getDigests port) (fun r => ∃ c, r = .digests c) ∧
      Answers (.getCertificate port) (fun r => ∃ c, r = .certificate c) ∧ Answers (.challenge port) (fun r => ∃ c, r = .challengeAuth c)) ∧
    (tget false s.plat.doeBusy port = true → Answers (.getVersion port) (· = .busy) ∧ Answers (.getMeasurements port) (· = .busy))) ∧
  (∀ k, k < 12 →
    let Stack (i : Instr) (x : Stack) : Prop := ∃ t, exec i s = .next t ∧ { t with stackTbl := s.stackTbl } = s ∧ EntryIs {} s.stackTbl t.stackTbl k x
    let x := tget {} s.stackTbl k
    (∀ mw, Stack (.powerWindow k mw) { x with limit := if mw > 138000 then 2 else if mw > 133000 then 4 else 8 }) ∧
    Stack (.dramOver85c k) { x with hot := true } ∧ Stack (.dramBelow85c k) { x with hot := false }) ∧
  (let Stops (i : Instr) : Prop := ∃ t, exec i s = .next t ∧ t = { s with plat := { s.plat with stopped := true }, fabric := { s.fabric with linkup := 0 } } ∧
     (s.agenda.head? ≠ some .reset → step t = .fault .stopped)
   Stops .thermalShutdown ∧ Stops .moduleStop) ∧
  (s.plat.released = false → s.plat.service = false → s.plat.code = 0 → (∀ p ∈ s.vaults, p.2.unsealed = []) →
    (s.plat.bootFault % 4 = 3 → exec .resetRelease s = .next { s with plat := { s.plat with released := true, code := 1 } }) ∧
    (s.plat.bootFault = 0 → imageOk s 0 (flashImage s 0) = false → ∃ t, exec .resetRelease s = .next t ∧ t.plat.released = true ∧ t.plat.code = 2 ∧ t.plat.service = false ∧
      t.vlcs = s.vlcs ∧ t.mem = s.mem) ∧
    (s.plat.bootFault = 0 → (∀ k, k < 4 → imageOk s k (flashImage s k) = true) →
      let body := imgBody (flashImage s 3)
      let n := imgIlen (flashImage s 3)
      ∃ t, exec .resetRelease s = .next t ∧ t.plat.released = true ∧ t.plat.code = 0 ∧ t.plat.service = false ∧ t.fabric.linkup = 0xFFFFFF ∧
        t.mgmt.retq = s.plat.flashRetq ∧ t.mgmt.retv = s.plat.flashRetv ∧
        (∀ v i, v < 192 → i < 3072 → s.plat.flashRetv.getLsbD v = true → isLost t (vaultPa v 0 + i * 2097152) = true) ∧
        (getVlc t 0).status = .running ∧ (getVlc t 0).resident = true ∧ (getVlc t 0).pc = 0xFF000000100000 ∧ (getVlc t 0).rx 3 = 0xFF0000000FE800 ∧
        (getVault t 0).lpr = 0 ∧ HoldsBytes t (dramEnd + 0x100000) (body.take n) ∧
        (∀ j, j < (body.drop n).length → (j < 0xFE800 ∨ 0xFE880 ≤ j) → mget t.mem (dramEnd + j) = (body.drop n).getD j 0) ∧
        ∀ a, paDram a = true → a < dramEnd → mget t.mem a = mget s.mem a))

/-- R264, R289, R292, R314, R315, R320, R331, R361, R364, R370, R396, R404: accesses of the host and of other modules. One that passes its checks and finds its bank free reads or writes its bytes and no
other byte, and is answered; one that does not is answered with poison or its fault; one that was checked before performs at the address it was checked for. A peer's copy is checked, its
destination lent to it and its tiles held, and its chunks are written. -/
def Obligations.OutsideAccesses : Prop := ∀ s : State, s.plat.stopped = false →
  (∀ (dec off tag : Nat) (bs : List Byte) (size : Nat), dec < 64 → bindOn s dec = true → 0 < size → size ≤ 64 - off % 64 → bs.length = size → s.hostq = [] →
    let r (data : Option (List Byte)) : HostReq :=
      { id := s.nextId, port := dec / 16, vi := bindVi s dec, va := bindVa s dec off, size := size, data := data, tag := tag, arr := s.cyc }
    let q (data : Option (List Byte)) : State := bump { s with hostq := [r data] }
    let Served (data : Option (List Byte)) (p : Passed) (pa : Nat) : Prop := hostCheck (q data) (r data) = .ok p ∧ p.tgt = .loc pa ∧
      bankTurn (q data) (.host s.nextId) (hostAgent (bindVi s dec)) [pa] = true ∧ walkWaits (q data) p.walk = false
    let Kept (t : State) : Prop := (∀ a, mget t.mem a = mget s.mem a) ∧ t.vlcs = s.vlcs ∧ t.hostq = []
    let Poison (i : Instr) : Prop := ∃ t, exec i s = .next t ∧ t.out.reads = s.out.reads ++ [(tag, none)] ∧ Kept t
    let Dropped (i : Instr) : Prop := ∃ t, exec i s = .next t ∧ t.out.reads = s.out.reads ∧ Kept t
    (s.plat.service = false → Poison (.hostMemRead dec off size tag) ∧ Dropped (.hostMemWrite dec off bs tag)) ∧
    (s.plat.service = true →
      (∀ c, hostCheck (q none) (r none) = .error c → Poison (.hostMemRead dec off size tag)) ∧
      (∀ c, hostCheck (q (some bs)) (r (some bs)) = .error c → Dropped (.hostMemWrite dec off bs tag)) ∧
      (∀ p pa, Served none p pa →
        (ueIn s pa size = true → Poison (.hostMemRead dec off size tag)) ∧
        (ueIn s pa size = false → ∃ t, exec (.hostMemRead dec off size tag) s = .next t ∧ t.out.reads = s.out.reads ++ [(tag, some (mread s.mem pa size))] ∧ Kept t)) ∧
      (∀ p pa, Served (some bs) p pa →
        (isLost s pa = true → Dropped (.hostMemWrite dec off bs tag)) ∧
        (isLost s pa = false → ∃ t, exec (.hostMemWrite dec off bs tag) s = .next t ∧ HoldsBytes t pa bs ∧ BytesKept s t pa size ∧ t.vlcs = s.vlcs ∧ t.hostq = [])))) ∧
  (∀ r : RemoteReq,
    let Replies (code data : Nat) (dev : Bool) (t : State) : Prop :=
      exec (.remoteAccessRequest r) s = .next t ∧ t.out.remote = s.out.remote ++ [(r.tag, code, data, dev)]
    let k : Want := if r.op = 0 ∨ r.op = 8 then .read else if r.op = 1 ∨ r.op = 9 then .write else .atomic
    let a := addrCheck s { vi := r.rvi, vault := none } r.va r.size k
    let Refused (c : Nat) : Prop := ∃ t, Replies c 0 false t ∧ t.mem = s.mem ∧ t.vlcs = s.vlcs
    let Performs (pa : Nat) (dev : Bool) : Prop :=
      (r.op = 0 → (ueIn s pa r.size = false → ∃ t, Replies 0 (mread s.mem pa r.size) dev t ∧ ∀ b, mget t.mem b = mget s.mem b) ∧ (ueIn s pa r.size = true → Refused 22)) ∧
      (r.op = 1 → ∃ t, Replies 0 0 dev t ∧ mread t.mem pa r.size = r.data.toNat % 2 ^ (8 * r.size) ∧ BytesKept s t pa r.size) ∧
      (r.op ≥ 8 → ∃ t, Replies 0 pa dev t ∧ t.mem = s.mem) ∧
      (2 ≤ r.op → r.op < 8 → ∃ t, Replies 0 (mread s.mem pa r.size) dev t ∧ BytesKept s t pa r.size ∧
        mread t.mem pa r.size = atomicNew r.aop (8 * r.size) (mread s.mem pa r.size) r.data.toNat r.cmp.toNat % 2 ^ (8 * r.size))
    (r.ctl = false → r.size ∈ [1, 2, 4, 8] →
      (r.pa = none →
        (∀ c, a = .error c → Refused c) ∧
        (∀ p m dev va, a = .ok p → p.tgt = .rem m dev va → Refused 3) ∧
        (∀ p pa, a = .ok p → p.tgt = .loc pa →
          (∀ c, remoteTarget s r pa = some c → Refused c) ∧
          (remoteTarget s r pa = none → engWaits s (peerOp 0 r.mod r.vi r.rvi) [p] = false → Performs pa p.dev))) ∧
      (∀ pa, r.pa = some pa →
        (∀ c, remoteData s r pa = some c → Refused c) ∧
        (remoteData s r pa = none → engWaits s (peerOp 0 r.mod r.vi r.rvi) [{ tgt := .loc pa, dev := false, cc := false }] = false → Performs pa false))) ∧
    (r.ctl = true →
      let vi := r.va / 4096 % 256
      let off := r.va % 4096
      (r.pa = none → (getVi s vi).vctl.toNat % 2 = 0 → ∃ t, Replies 4 0 false t ∧ t.mem = s.mem ∧ t.vis = s.vis) ∧
      (r.pa.isSome = true ∨ (getVi s vi).vctl.toNat % 2 = 1 → r.size = 8 → r.va % 8 = 0 → r.va / 1048576 % 131072 = 0 →
        (r.op = 0 → off = 0x48 → ∃ t, Replies 0 (getVi s vi).fab.rbound.toNat false t ∧ { t with out := s.out } = s) ∧
        (r.op = 0 → off = 0x50 → ∃ t, Replies 0 ((queuedOf s vi).length % 128) false t ∧ { t with out := s.out } = s) ∧
        ((r.op = 9 ∧ off < 0x40) ∨ (r.op = 8 ∧ 0x40 ≤ off ∧ off < 0x58) → ∃ t, Replies 0 0 false t ∧ { t with out := s.out } = s)))) ∧
  (∀ r : RemoteCheck,
    let d := readDesc (r.desc.map (fun w => w.toNat))
    let who : Who := { vi := r.rvi, vault := none }
    let o : Op := { peerOp 0 r.mod r.vi r.rvi with desc := r.desc.map (fun w => w.toNat) }
    let Replies (code : Nat) (t : State) : Prop := exec (.remoteCopyCheck r) s = .next t ∧ t.out.remote = s.out.remote ++ [(r.tag, code, 0, false)]
    let Accepted (t : State) : Prop := Replies 0 t ∧ ∃ x : Inbound, t.inbound = s.inbound ++ [x] ∧ x.mod = r.mod ∧ x.tag = r.tag ∧ x.desc = o.desc ∧
      ∀ k, (tget {} t.tiles k).use = (tget {} s.tiles k).use + x.tiles.count k
    (notRemote d.dst = true → ∃ t, Replies 3 t ∧ t.mem = s.mem) ∧
    (notRemote d.dst = false → (∀ c, firstFail (dstSide s who .cpyr d) = some c → ∃ t, Replies c t ∧ { t with out := s.out, mgmt := s.mgmt } = s)) ∧
    (notRemote d.dst = false → firstFail (dstSide s who .cpyr d) = none →
      (∀ c, dstUnowned s (remAgent r.mod r.vi) o d = some c → ∃ t, Replies c t ∧ { t with out := s.out, mgmt := s.mgmt } = s)) ∧
    (notRemote d.dst = false → firstFail (dstSide s who .cpyr d) = none → dstUnowned s (remAgent r.mod r.vi) o d = none →
      (d.ben = false → ∃ t, Accepted t ∧ { t with out := s.out, inbound := s.inbound, tiles := s.tiles } = s) ∧
      (∀ pa, d.ben = true → d.bcr = true → notRemote d.bar = false → barCheck s who (remAgent r.mod r.vi) d.bar = .ok pa → engWaits s o [engPassed s who d.bar pa] = false →
        ueIn s pa 8 = false →
        let b := d.destBytes false
        0 < b → mread s.mem pa 8 % 2 ^ 24 + b ≤ 16777215 → ∃ t, Accepted t ∧ mread t.mem pa 8 = mread s.mem pa 8 + b ∧ BytesKept s t pa 8))) ∧
  (∀ (r : RemoteChunk) (x : CopyWrite) (pa : Nat), r.fin = none → r.writes = [x] → x.planes = 0 → r.debit = 0 → notRemote x.va = false → x.bytes.length % 8 = 0 →
    let who : Who := { vi := r.rvi, vault := none }
    engCheck s (remAgent r.mod r.vi) who x.va x.bytes.length .write = .ok pa → engWaits s (peerOp 0 r.mod r.vi r.rvi) [engPassed s who x.va pa] = false →
    ∃ t, exec (.remoteCopyWrite r) s = .next t ∧ HoldsBytes t pa x.bytes ∧ BytesKept s t pa x.bytes.length ∧ t.out.remote = s.out.remote ++ [(r.tag, 0, 0, false)] ∧
      t.vlcs = s.vlcs)

/-- R405 to R407: the ninth failure of a flit takes its link down, and training brings it back; after 1 ms a module whose links are all down is unreachable: what waits for it takes
FABRIC, class D, its register 0 and full, and the remote copies to it stop with FABRIC; a
remote access past its bound raises PROMISE_MISSED, class A, once. -/
def Obligations.LinksFail : Prop := ∀ s : State,
  (∀ link, link < 24 → s.fabric.linkup.getLsbD link = true →
    (tget 0 s.fabric.retries link < 8 → ∃ t, exec (.flitCrcFail link) s = .next t ∧ { t with fabric := s.fabric } = s ∧ t.fabric.linkup = s.fabric.linkup ∧
      EntryIs 0 s.fabric.retries t.fabric.retries link (tget 0 s.fabric.retries link + 1)) ∧
    (tget 0 s.fabric.retries link ≥ 8 → ∃ t, exec (.flitCrcFail link) s = .next t ∧ EntryIs 0 s.fabric.retries t.fabric.retries link 0 ∧
      (∀ j, t.fabric.linkup.getLsbD j = (s.fabric.linkup.getLsbD j && decide (j ≠ link))) ∧ t.mem = s.mem ∧ t.vlcs = s.vlcs ∧
      t.net.map (fun a => { a with link := 0 }) = s.net.map (fun a => { a with link := 0 }))) ∧
  (∀ link, link < 24 → s.fabric.linkup.getLsbD link = false → s.plat.stopped = false →
    (∃ t, exec (.linkRetrain link true) s = .next t ∧ (∀ j, t.fabric.linkup.getLsbD j = (s.fabric.linkup.getLsbD j || decide (j = link))) ∧ t.mem = s.mem ∧ t.vlcs = s.vlcs) ∧
    exec (.linkRetrain link false) s = .next s) ∧
  (∀ m, tget 0 s.fabric.downSince m ≠ 0 → tget 0 s.fabric.downSince m + 3300000 ≤ s.cyc + 1 →
    ∃ t, exec (.moduleUnreachable m) s = .next t ∧ m ∈ t.fabric.unreachable ∧ (∀ a ∈ t.net, ∀ dev va, a.tgt ≠ .rem m dev va) ∧ t.mem = s.mem ∧
      (∀ a dev va, s.net.filter (fun b => match b.tgt with | .rem k _ _ => k == m | .loc _ => false) = [a] → a.tgt = .rem m dev va → a.dead = false → a.vdst = none → a.kind ≠ .probe →
        let v := getVlc s a.vlc
        v.status ≠ .free → v.status ≠ .ending → v.faults.length < 16 →
          getVlc t a.vlc = { (if a.kind = .store then v else v.fillX a.reg 0) with
            faults := v.faults ++ [⟨{ code := 26, cls := 2, reg := a.reg, origin := a.origin, addr := a.va }, a.id⟩] }) ∧
      (∀ o ∈ s.ops, (s.ops.map (·.id)).Nodup → o.kind = .cpyr → o.accepted = true → (readDesc o.desc).route = 0 → (readDesc o.desc).mod = m →
        { o with stopped := true, err := if o.err = 0 then 26 else o.err, acked := o.sentN } ∈ t.ops)) ∧
  (∀ (n : Nat) (a : Access), findAcc s n = some a → (∀ pa, a.tgt ≠ .loc pa) → a.missed = false → a.dead = false → a.due < s.cyc → (getVlc s a.vlc).status = .running → (getVlc s a.vlc).faults.length < 16 →
    ∃ t f, exec (.remotePromiseMissed n) s = .next t ∧ findAcc t n = some { a with missed := true } ∧ (getVlc t a.vlc).faults = (getVlc s a.vlc).faults ++ [⟨f, s.nextId⟩] ∧
      f.code = 21 ∧ f.cls = 3 ∧ f.addr = a.va ∧ t.mem = s.mem ∧ exec (.remotePromiseMissed n) t = .next t)

/-- R46, R52, R54, R60, R64, R300 to R302, R385: the messages of the command links. Each is acted on in its turn and acknowledged, and an acknowledgement returns a permit or sends what waits for
one. A deal takes the next chunk of the slot's stack, a stack with nothing left takes half of the richest one, and an instance starts with its range, its argument block and the
registers of R52. The next candidate in the tick's rank takes the place of an instance that has ended.
That a VLC which the tick's choice or a waiting slot keeps takes no candidate then is the model's choice (log 39). -/
def Obligations.SchedulerLinks : Prop := ∀ (s : State) (q : Nat),
  let down := getLink s.sched.down q
  let up := getLink s.sched.up q
  let may (t : Tbl Link) (w : Tbl (List Msg)) (j : Nat) : Prop := (getLink t j).permits > 0 ∧ tget [] w j = []
  (down.acks > 0 →
    (tget [] s.sched.waitDown q = [] → ∃ t, exec (.cmdAck q false) s = .next t ∧ { t with sched := s.sched } = s ∧
      EntryIs {} s.sched.down t.sched.down q { down with acks := down.acks - 1, permits := down.permits + 1 } ∧ t.sched.up = s.sched.up) ∧
    (∀ m w, tget [] s.sched.waitDown q = m :: w → ∃ t, exec (.cmdAck q false) s = .next t ∧ { t with sched := s.sched } = s ∧
      EntryIs {} s.sched.down t.sched.down q { down with queue := down.queue ++ [m], acks := down.acks - 1 } ∧ tget [] t.sched.waitDown q = w)) ∧
  (∀ vi u l, s.sched.failed = false → up.queue = .cost vi u :: l → ∃ t, exec (.cost q) s = .next t ∧ EntryIs {} s.vis t.vis vi { getVi s vi with cost := (getVi s vi).cost + u } ∧
    EntryIs {} s.sched.up t.sched.up q { up with queue := l, acks := up.acks + 1 } ∧ t.mem = s.mem ∧ t.vlcs = s.vlcs) ∧
  (∀ (c : Cand) (l : Launch), getLaunch s c.vi c.seq = some l →
    let n := l.slots.getD c.slotNo 0
    let k := n / 128
    let r := tget (0, 0) l.undealt k
    let Deals (t : State) (m : Option (Nat × Nat)) : Prop := (getLink t.sched.down (quadOfVlc n)).queue = (getLink s.sched.down (quadOfVlc n)).queue ++ [.deal c m]
    (∀ rest, s.sched.failed = false → up.queue = .dealreq c :: rest → may s.sched.down s.sched.waitDown (quadOfVlc n) →
      (l.fault = none → r.1 < r.2 → s.mgmt.retq.getLsbD (quadOfVlc n) = false →
        let e := min (r.1 + recChunk l.recd) r.2
        ∃ t l', exec (.dealreq q) s = .next t ∧ Deals t (some (r.1, e)) ∧ getLaunch t c.vi c.seq = some l' ∧ l' = { l with undealt := l'.undealt, ranges := l'.ranges } ∧
          EntryIs (0, 0) l.undealt l'.undealt k (if e < r.2 then (e, r.2) else (0, 0)) ∧ EntryIs (0, 0) l.ranges l'.ranges c.slotNo (r.1, e) ∧ t.mem = s.mem) ∧
      (r.2 ≤ r.1 → recSteal l.recd = false → ∃ t, exec (.dealreq q) s = .next t ∧ Deals t none ∧ t.launches = s.launches ∧ t.mem = s.mem)) ∧
    (∀ rest, s.sched.failed = false → up.queue = .dealreq c :: rest → r.2 ≤ r.1 → recSteal l.recd = true → (∃ p ∈ l.undealt, p.2.1 < p.2.2) → may s.sched.up s.sched.waitUp q →
      ∃ t, exec (.dealreq q) s = .next t ∧ (getLink t.sched.up q).queue = rest ++ [.stealreq c] ∧ t.launches = s.launches ∧ t.mem = s.mem) ∧
    (∀ rest v lo hi, s.sched.failed = false → up.queue = .stealreq c :: rest → may s.sched.down s.sched.waitDown (quadOfVlc n) → l.fault = none → s.mgmt.retq.getLsbD (quadOfVlc n) = false → r.2 ≤ r.1 → richest l = some (v, lo, hi) → v ≠ k →
      let p := lo + recGrain l.recd * cdiv (hi - lo) (2 * recGrain l.recd)
      p < hi →
      let e := min (p + recChunk l.recd) hi
      ∃ t l', exec (.stealreq q) s = .next t ∧ Deals t (some (p, e)) ∧ getLaunch t c.vi c.seq = some l' ∧ tget (0, 0) l'.undealt v = (lo, p) ∧
        tget (0, 0) l'.undealt k = (if e < hi then (e, hi) else (0, 0)) ∧ tget (0, 0) l'.ranges c.slotNo = (p, e) ∧ t.mem = s.mem) ∧
    (∀ rest, s.mgmt.scan ≠ some q → down.queue = .deal c none :: rest → ∃ t l', exec (.deal q) s = .next t ∧ getLaunch t c.vi c.seq = some l' ∧ slotState l' c.slotNo = .done ∧ t.mem = s.mem ∧ t.vlcs = s.vlcs) ∧
    (∀ rest lo hi u, s.mgmt.scan ≠ some q → down.queue = .deal c (some (lo, hi)) :: rest → l.fault = none → (getVlc s n).status = .free → tget none s.sched.pend n = none →
      (tget none s.sched.awaits n = none ∨ tget none s.sched.awaits n = some c) → quadOut s (quadOfVlc n) = false → closed s = false →
      let block := saveArea l c.slotNo + 0x6800
      rootWaits s (.area n) l (argAccs s l c.slotNo) = false → rootWrite l block (argBlock l) (awaitDeal n none (endWait (.area n) (popDown q s))) = some u →
      ∃ t, exec (.deal q) s = .next t ∧ t.mem = u.mem ∧
        (let v := getVlc t n
         v.status = .running ∧ v.pc = BitVec.ofNat 64 (pktEntry l.pkt) ∧ v.rx 1 = BitVec.ofNat 64 lo ∧ v.rx 2 = BitVec.ofNat 64 (hi - lo) ∧ v.rx 3 = BitVec.ofNat 64 block ∧
           v.rx 4 = BitVec.ofNat 64 (vlenOf s n / 8) ∧
           v.rx 5 = BitVec.ofNat 64 (c.slotNo % 2048 + n / 8 % 16 * 2 ^ 12 + n / 128 * 2 ^ 16 + n / 4 % 2 * 2 ^ 20 + n % 4 * 2 ^ 21) ∧
           (∀ j, 5 < j → v.rx j = 0) ∧ v.empty = 0 ∧ v.sb = BitVec.ofNat 64 lo ∧ v.sc = BitVec.ofNat 64 (hi - lo) ∧ v.prc = BitVec.ofNat 64 (hi - lo) ∧
           v.ocdef = BitVec.ofNat 4 (recOcdef l.recd) ∧ v.rmode = 0 ∧ v.fflags = 0 ∧ v.smm = 0 ∧ v.estart = 0 ∧ v.tvec = 0 ∧ v.epc = 0 ∧
           (∀ j, tget 0 v.frec j = 0 ∧ tget 0 v.bpa j = 0) ∧ v.agent = ctxAgent n l.vi ∧ v.hnd = false ∧ v.lanes = false ∧ v.sopen = false ∧ v.event = false) ∧
        ∀ m, m ≠ n → getVlc t m = getVlc s m) ∧
    (∀ rest, s.mgmt.scan ≠ some q → closed s = false → down.queue = .place n c :: rest → l.fault = none → quadOut s (quadOfVlc n) = false → (getVlc s n).status = .free →
      (∀ x ∈ l.saved, x.slotNo ≠ c.slotNo) → slotState l c.slotNo = .unplaced → needsPreload s l (vaultOf n) = false → (getVault s (vaultOf n)).lpr = recLpr l.recd →
      tget (0, 0) l.ranges c.slotNo = (0, 0) → may s.sched.up s.sched.waitUp (quadOfVlc n) →
      ∃ t l', exec (.place q) s = .next t ∧ getLaunch t c.vi c.seq = some l' ∧ slotState l' c.slotNo = .waiting ∧ tget none t.sched.awaits n = some c ∧
        (getLink t.sched.up (quadOfVlc n)).queue = (getLink s.sched.up (quadOfVlc n)).queue ++ [.dealreq c] ∧ t.mem = s.mem ∧ t.vlcs = s.vlcs)) ∧
  (∀ n l, s.mgmt.scan ≠ some q → down.queue = .preempt n :: l → (getVlc s n).status = .running → (getVlc s n).resident = false →
    ∃ t long, exec (.preempt q) s = .next t ∧
      getVlc t n = { getVlc s n with status := .draining, drainAt := s.cyc, drainLong := long, cmdEnd := s.cyc, flip := none, early := [], ahead := [] } ∧
      (long = true ↔ ∃ c ∈ s.cmds, c.vlc = n ∧ c.kind = .bkx ∧ c.stage = .running ∧ c.worst > 1500) ∧ (∀ m, m ≠ n → getVlc t m = getVlc s m) ∧ t.mem = s.mem ∧
      ∀ c ∈ t.cmds, c.vlc = n → c.dropped = false → c.stage ≠ .sent ∧ c.stage ≠ .queued) ∧
  (∀ n c l, s.sched.failed = false → up.queue = .done n c :: l →
    (vlcTaken s n = true ∨ quadOut s (quadOfVlc n) = true ∨ (tget [] s.sched.ranks n).filter (fun d => (candsOf s n).contains d) = [] → ∃ t, exec (.done q) s = .next t ∧ { t with sched := s.sched } = s ∧
      EntryIs {} s.sched.up t.sched.up q { up with queue := l, acks := up.acks + 1 } ∧ t.sched.down = s.sched.down) ∧
    (∀ d r k, (tget [] s.sched.ranks n).filter (fun d => (candsOf s n).contains d) = d :: r → getLaunch s d.vi d.seq = some k → k.started = true → closed s = false →
      vlcTaken s n = false → quadOut s (quadOfVlc n) = false → (getVi s d.vi).preld.toNat % 2 = 0 → may s.sched.down s.sched.waitDown (quadOfVlc n) →
      ∃ t, exec (.done q) s = .next t ∧ (getLink t.sched.down (quadOfVlc n)).queue = (getLink s.sched.down (quadOfVlc n)).queue ++ [.place n d] ∧ tget [] t.sched.ranks n = r ∧
        t.mem = s.mem ∧ t.vlcs = s.vlcs ∧ t.launches = s.launches))

/-- R48, R49, R64, R65, R67, R263, R301, R303, R309, R324, R353, R415: a tick settles the deficits and brings the best candidate to a free VLC, and the launch has started; a restored context
takes its granted locks as one group; a drained context leaves its VLC for a saved record; a preload copies its tiles; a completed launch passes its regions on, adds 1 at DONEW and
latches its fault; and the standby scheduler takes over with its copy of the last tick.
That a launch has started as its first PLACE is sent (log 39), the lease read back in ns times 33 over 10, rounded down (log 18), and what the standby's copy holds (log 77) are the
model's choices. -/
def Obligations.LaunchesProceed : Prop := ∀ s : State,
  (tickDue s = true → costsOut s = false → s.launches = [] → (∀ n, occupant s n = none) → ∃ t, exec .schedulerTick s = .next t ∧
    { t with sched := s.sched, vis := s.vis } = s ∧ t.sched = { s.sched with lastTick := s.cyc / 33000, floorK := [], copy := t.sched.copy } ∧
    t.sched.copy = { ranks := s.sched.ranks, floorK := [], lastTick := s.cyc / 33000, vis := t.vis.map (fun p => (p.1, (p.2.deficit, p.2.cost))) } ∧ ∀ v, v < 256 → getVi t v = { getVi s v with cost := 0, deficit := 0 }) ∧
  (∀ (l : Launch) (n : Nat), tickDue s = true → costsOut s = false → s.launches = [l] → l.slots = [n] → n < 1536 → l.recd ≠ [] → l.fault = none → l.started = false →
    l.ready.isSome = true → l.saved = [] → l.lprTodo = [] → slotState l 0 = .unplaced → getVlc s n = {} →
    quadOut { s with sched := { s.sched with lastTick := s.cyc / 33000 } } (quadOfVlc n) = false → (l.e0 = none ∨ l.passed = true) → s.mgmt.scan = none → closed s = false →
    (∀ v, (getVi s v).floor = 0) → (getVi s l.vi).preld.toNat % 2 = 0 → l.vi < 256 → (getLink s.sched.down (quadOfVlc n)).permits > 0 →
    tget [] s.sched.waitDown (quadOfVlc n) = [] →
    ∃ t, exec .schedulerTick s = .next t ∧ t.launches = [{ l with started := true }] ∧ t.sched.lastTick = s.cyc / 33000 ∧
      (getLink t.sched.down (quadOfVlc n)).queue = (getLink s.sched.down (quadOfVlc n)).queue ++ [.place n ⟨l.vi, l.seq, 0⟩] ∧
      (let v := getVi s l.vi
       let q : Int := v.quant * 1024
       (getVi t l.vi).cost = 0 ∧ (getVi t l.vi).deficit = min (v.deficit - v.cost + q) (8 * q)) ∧ t.mem = s.mem ∧ t.vlcs = s.vlcs) ∧
  (∀ (n : Nat) (l : Launch) (x : Saved) (ws : List (List Nat)) (u : State), (getVlc s n).status = .restoring → (getVlc s n).grouped = false → (getVlc s n).recalled = false →
    savedOf s n = some (l, x) → rootWaits s (.area n) l (areaAccs s l x.slotNo .read) = false →
    readRanges l (saveArea l x.slotNo) (x.locks.map (fun k => (0x380 + 16 * k.num, 2))) s = (some ws, u) →
    let ls : List Lock := (x.locks.mapIdx (fun i k => reloadLock s ws i k)).filterMap id
    (∀ i k k', reloadLock s ws i k = some k' → k'.granted = !((ws.getD i []).headD 0).testBit 62 ∧ k'.until_ = (ws.getD i []).getD 1 0 % 2 ^ 32 * 33 / 10) ∧
    (groupFree s (ls.filter (fun k => k.granted)) = true →
      ∃ t l', exec (.lockGroupTake n) s = .next t ∧ (getVlc t n).grouped = true ∧ t.mem = u.mem ∧ t.cmds = u.cmds ∧
        t.locks.map (fun (k : Lock) => { k with id := 0, arr := 0 }) =
          (u.locks ++ (ls.filter (fun (k : Lock) => k.granted)).map (fun (k : Lock) => { k with until_ := s.cyc + k.until_ })).map (fun (k : Lock) => { k with id := 0, arr := 0 }) ∧
        getLaunch t l.vi l.seq = some l' ∧ ∀ y ∈ l'.saved, y.slotNo = x.slotNo → y.locks = ls.filter (fun k => !k.granted))) ∧
  (∀ (n : Nat) (l : Launch), (getVlc s n).status = .draining → drained s n = true → viqOf s n = [] → getLaunch s (getVlc s n).vi (getVlc s n).seq = some l →
    (∀ k ∈ s.locks, k.vlc ≠ n) → (∀ c ∈ s.cmds, c.vlc ≠ n) → (getVault s (n / 8)).slice.holder ≠ some n → tget none s.sched.pend n = none → (getVlc s n).resident = false →
    (∀ y ∈ l.saved, y.slotNo ≠ (getVlc s n).slotNo) → rootWaits s (.area n) l (areaAccs s l (getVlc s n).slotNo .write) = false →
    let v := { getVlc s n with wait := .none, status := .free, recalled := false }
    let u := notePreemption n (endWait (.area n) s)
    (writeItems l (saveArea l v.slotNo) (saveItems { u with cur := n } v [] []) (if v.sbuf.isEmpty then u else { u with fresh := u.fresh + 1280 })).isSome = true →
    ∃ t l', exec (.preemptionComplete n) s = .next t ∧ getVlc t n = {} ∧ (getCore t (n / 4)).holder ≠ some n ∧ (∀ m, m ≠ n → getVlc t m = getVlc s m) ∧
      getLaunch t v.vi v.seq = some l' ∧ ∃ x, l'.saved = l.saved ++ [x] ∧ x.slotNo = v.slotNo ∧ x.vlcNo = n ∧ x.ctx = v ∧ x.slice = none) ∧
  (∀ (q vault : Nat) (c : Cand) (rest : List Msg) (l : Launch) (ws data : List Nat) (a b : State) (src kind first : Nat),
    (getLink s.sched.down q).queue = .preload vault c :: rest → s.mgmt.scan ≠ some q → getLaunch s c.vi c.seq = some l → l.fault = none →
    rootWaits s (.preload vault) l (preloadAccs s l vault) = false →
    readPreload l ((getVi s l.vi).preld.toNat / 64 % 1125899906842624 * 64) 16 (endWait (.preload vault) (popDown q s)) = (some ws, a) → preloadEntries ws = some [(src, kind, first, 1)] →
    rootRead l src 512 a = (some data, b) →
    let dst := vaultPa vault (dramEnd + (if kind = 1 then 0x100000 else 0) + 4096 * first)
    ∃ t, exec (.preload q) s = .next t ∧ (∀ j, j < 512 → mread t.mem (dst + 8 * j) 8 = data.getD j 0) ∧ BytesKept b t dst 4096 ∧ (tget {} t.tiles (dst / 4096)).own = false ∧
      t.sched.preloads = b.sched.preloads ++ [⟨l.vi, l.seq, vault, [dst]⟩] ∧ t.vlcs = b.vlcs) ∧
  (∀ l : Launch, s.launches = [l] → launchOver s l = true → s.sched.failed = false → rootWaits s (.root l.vi l.seq) l (addAccs s l) = false → (s.toks.map Prod.fst).Nodup →
    let root := rootAgent l.vi l.seq
    (∃ t, exec (.launchComplete l.vi l.seq) s = .next t ∧ t.launches = [] ∧ t.vlcs = s.vlcs ∧
      ∀ k, (tokAt s k).kind = 1 → (tokAt s k).owner = root →
        (tokAt t k).owner = (if (tokAt s k).lender ≠ 0 then (tokAt s k).lender else hostAgent l.vi) ∧ (tokAt t k).lender = 0) ∧
    (∀ pa, l.fault = none → l.origin = none → l.recd ≠ [] → recDonew l.recd ≠ 0 → recDonew l.recd % 8 = 0 → donewPa (passRegions l s) l = .ok pa →
      ∃ t, exec (.launchComplete l.vi l.seq) s = .next t ∧ mread t.mem pa 8 = (mread s.mem pa 8 + 1) % 2 ^ 64 ∧ BytesKept s t pa 8) ∧
    (∀ m, l.origin = some m → ∃ t, exec (.launchComplete l.vi l.seq) s = .next t ∧ t.out.dones = s.out.dones ++ [(m, l.vi, l.seq % 2 ^ 48)] ∧ t.mem = s.mem) ∧
    (∀ f, l.fault = some f → l.recd = [] → ∃ t, exec (.launchComplete l.vi l.seq) s = .next t ∧
      (getVi t l.vi).lflt = BitVec.ofNat 64 (f.code + 256 + l.seq % 2 ^ 48 * 65536) ∧ t.out.msix = s.out.msix ++ [(1 + l.vi, 1)] ∧ t.mem = s.mem)) ∧
  (let c := s.sched.copy
   s.sched.active ≠ 11 → s.sched.standby = true → s.plat.stopped = false → (c.vis.map Prod.fst).Nodup → ∃ t, exec .schedulerFailover s = .next t ∧
     t.sched = { s.sched with active := 11, failed := false, standby := false, ranks := c.ranks, floorK := c.floorK, lastTick := c.lastTick } ∧
     (∀ p ∈ c.vis, getVi t p.1 = { getVi s p.1 with deficit := p.2.1, cost := p.2.2 }) ∧ (∀ k, (∀ p ∈ c.vis, p.1 ≠ k) → getVi t k = getVi s k) ∧
     { t with sched := s.sched, vis := s.vis, mgmt := s.mgmt, out := s.out } = s)

/-- R385, R386, R390, R392, R400, R401, R412 to R414: lost hosts end their launches; a region of a failed owner passes, SUSPECT, to its live lender; retired quads end what runs on them;
frames move to spare frames or are lost; rows are spared, their banks held for 2 rc, and scrubbed; a scan test drains its quad and logs its result. No byte of memory changes, where no
preloaded tile is discarded. -/
def Obligations.FailuresAndRepair : Prop := ∀ s : State,
  let Same (i : Instr) (P : State → Prop) : Prop := ∃ t, exec i s = .next t ∧ t.mem = s.mem ∧ P t
  (∀ vi, vi < 256 → s.sched.preloads = [] → Same (.functionLevelReset vi) (fun t => (getVi t vi).failed = true ∧ ∀ l ∈ t.launches, l.vi = vi → l.fault.isSome = true)) ∧
  (∀ port, port < 4 → s.sched.preloads = [] → Same (.cxlLinkLoss port) (fun t => ∀ i, i < 64 → (getVi t (64 * port + i)).failed = true)) ∧
  (∀ a, hasFailed s a = true → stillActs s a = false → (s.toks.map Prod.fst).Nodup → Same (.reclamation a) (fun t =>
    ∀ k, (tokAt s k).kind = 1 → (tokAt s k).owner = a → (tokAt s k).lender ≠ 0 → isLive s (tokAt s k).lender = true →
      (tokAt t k).owner = (tokAt s k).lender ∧ (tokAt t k).suspect = true ∧ (tokAt t k).lender = 0)) ∧
  (∀ q, q < 48 → s.sched.preloads = [] → s.mgmt.retq.getLsbD q = false → Same (.quadRetire q) (fun t => (∀ j, t.mgmt.retq.getLsbD j = (s.mgmt.retq.getLsbD j || decide (j = q))) ∧
    (∀ j, t.plat.flashRetq.getLsbD j = (s.plat.flashRetq.getLsbD j || decide (j = q))) ∧
    ∀ n, quadOfVlc n = q → (getVlc s n).status ≠ .free → (getVlc s n).resident = false → (getVlc t n).status = .ending)) ∧
  (∀ v, v < 192 → s.mgmt.retv.getLsbD v = false → freeSpares s = [] → Same (.vaultRetire v) (fun t =>
    (∀ j, t.mgmt.retv.getLsbD j = (s.mgmt.retv.getLsbD j || decide (j = v))) ∧ (∀ j, t.plat.flashRetv.getLsbD j = (s.plat.flashRetv.getLsbD j || decide (j = v))) ∧
    (∀ i, i < 3072 → inSpare s (vaultPa v 0 + i * 2097152) 2097152 = false → tget 0 s.repair.redirect (vaultPa v 0 / 2097152 + i) = 0 → isLost t (vaultPa v 0 + i * 2097152) = true) ∧
    ∀ pa, paMVault pa ≠ v → tget 0 s.repair.redirect (pa / 2097152) = 0 → isLost t pa = isLost s pa)) ∧
  (∀ frame spare, paDram (frame * 2097152) = true → paStack (frame * 2097152) < 12 → isLost s (frame * 2097152) = false → inSpare s (frame * 2097152) 2097152 = false →
    cmdOver s (frame * 2097152) = none → 8 ≤ tget 0 s.repair.spareUsed (subarrayOf s (frame * 2097152)) →
    (isPinned s (frame * 2097152) = false → spare ∈ freeSpares s → Same (.frameRelocate frame spare) (fun t => tget 0 t.repair.redirect frame = spare + 1 ∧ t.repair.lost = s.repair.lost)) ∧
    ((isPinned s (frame * 2097152) = true ∨ freeSpares s = []) → Same (.frameRelocate frame spare) (fun t => isLost t (frame * 2097152) = true))) ∧
  (∀ row, paDram (row * 8192) = true → regionIdle s (row * 8192) = true → tget 0 s.repair.spareUsed (subarrayOf s (row * 8192)) < 8 →
    (4 ≤ (tget [] s.repair.ceRow row).length ∨ (badWords s (row * 8192) ≠ [] ∧ row ∉ s.repair.spared)) → Same (.rowSpare row) (fun t =>
      (∀ r, r ∈ t.repair.spared ↔ r ∈ s.repair.spared ∨ (r = row ∧ badWords s (row * 8192) ≠ [])) ∧ tget [] t.repair.ceRow row = [] ∧
      (cmdOver s (row * 8192) = none → ∀ b ∈ frameBanks s (row * 8192), tget 0 t.repair.busy b = s.cyc + 165) ∧
      (∀ c, cmdOver s (row * 8192) = some c → getCmd s c.id = some c → getCmd t c.id = some { c with rc := c.rc + 2 }) ∧
      EntryIs 0 s.repair.spareUsed t.repair.spareUsed (subarrayOf s (row * 8192)) (tget 0 s.repair.spareUsed (subarrayOf s (row * 8192)) + 1))) ∧
  (∀ row, paDram (row * 8192) = true → rowUnsealed s (row * 8192) = false → cmdOver s (row * 8192) = none →
    Same (.patrolScrub row) (fun t => ∀ w, w < 1024 → eccAt t (row * 8192 + 8 * w) ≠ .single)) ∧
  (let q := s.mgmt.nextq
   s.plat.service = true → s.plat.stopped = false → s.mgmt.scanEn = true → s.mgmt.scan = none → s.mgmt.scanDue ≤ s.sched.lastTick * 33000 → closed s = false → q < 48 →
     s.mgmt.retq.getLsbD q = false → Same .scanTest (fun t => t.mgmt.scan = some q ∧
       ∀ n, quadOfVlc n = q → (getVlc s n).status = .running → (getVlc s n).resident = false → (getVlc t n).status = .draining)) ∧
  (∀ q, s.mgmt.scan = some q → scanReady s q = true →
    Same (.scanTestEnd true) (fun t => t.mgmt.scan = none ∧ t.mgmt.scanlog = BitVec.ofNat 64 (q + 64 + s.cyc % 2 ^ 56 * 256) ∧ t.mgmt.retq = s.mgmt.retq) ∧
    (q < 48 → s.sched.preloads = [] → Same (.scanTestEnd false) (fun t => t.mgmt.scan = none ∧ t.mgmt.scanlog = BitVec.ofNat 64 (q + 128 + s.cyc % 2 ^ 56 * 256) ∧ t.mgmt.retq.getLsbD q = true)))

/-- R21, R61, R63, R260, R336: a step runs the instruction that its move selects: the scalar word at the pc of a VLC whose turn it is in the barrel, as it is stored or as it was fetched
ahead, ILLEGAL's when the word is not assigned; the oldest word of a core; the next micro-op of a command; or a step of the device. What a step adds around a scalar word that has issued is the mark of the
last issuer of its core, and of the loads performed early those that stay; a word that does not issue has not been fetched. A VLC with a word before it in the barrel makes no step. A module
that has stopped makes none but its reset.
That the agenda selects the move is the model's choice (log 1). -/
def Obligations.StepRunsDecoded : Prop := ∀ (s : State) (rest : List Move),
  (s.plat.stopped = true → s.agenda.head? ≠ some .reset → step s = .fault .stopped) ∧
  (s.agenda = .reset :: rest → step s = .next (resetModule { s with agenda := rest })) ∧
  (s.plat.stopped = false →
    (∀ n, s.agenda = .vlc n :: rest → (getVlc s n).ready = true → (getVlc s n).pc.toNat % 4 = 0 → inIstore (getVlc s n).pc.toNat = true → scalarBreak (getVlc s n) = none →
      (if (getVlc s n).hnd then (handlerFault (getVlc s n)).isNone else (nextFault (getVlc s n)).isNone) = true →
      let pa := istorePa n (getVlc s n).pc.toNat
      let u := { s with agenda := rest, cur := n }
      let held := { u with vlcs := tupd {} u.vlcs n (fun v => { v with ahead := v.ahead.tail }) }
      let Runs (w : Nat) (t : State) : Prop := ∀ i y x, (decodeScalar w = .ok i ∨ (∃ e, decodeScalar w = .error e) ∧ i = .unassignedEncoding (BitVec.ofNat 32 w)) →
        exec i u = .next y → exec i t = .next x → step s = .next (if hasIssued n u y then noteIssue n i x else y)
      ((∀ k ∈ barrelBefore s n, issues k { s with agenda := rest } = false) →
        ((getVlc s n).ahead = [] → eccAt s (pa / 8 * 8) = .good → Runs (mread s.mem pa 4) u) ∧
        (∀ w l, (getVlc s n).ahead = ((getVlc s n).pc.toNat, w, 0) :: l → Runs w held)) ∧
      ((∃ k ∈ barrelBefore s n, issues k { s with agenda := rest } = true) → (getVlc s n).ahead = [] → eccAt s (pa / 8 * 8) = .good →
        ∃ t, step s = .next t ∧ t.vlcs = s.vlcs ∧ t.mem = s.mem)) ∧
    (∀ n i x, let t := noteIssue n i x
      { t with cores := x.cores, vlcs := x.vlcs } = x ∧ t.cores = tupd {} x.cores (n / 4) (fun c => { c with last := n % 4 }) ∧ (∀ m, m ≠ n → getVlc t m = getVlc x m) ∧
        getVlc t n = { getVlc x n with early := (getVlc t n).early } ∧ ∀ e ∈ (getVlc t n).early, e ∈ (getVlc x n).early) ∧
    (∀ c e q, s.agenda = .viq c :: rest → (getCore s c).viq = e :: q → e.raw = false → step s = exec e.instr { s with agenda := rest, cur := e.vlc }) ∧
    (∀ k c i, s.agenda = .micro k :: rest → getCmd s k = some c → c.kind = .bkx → c.stage = .running → c.sealing = false → decodeMicro (c.words.getD c.upc 0) = .ok i →
      step s = exec i { s with agenda := rest, curCmd := k }) ∧
    (∀ i, s.agenda = .event i :: rest → isEvent i = true → step s = exec i { s with agenda := rest }))

/-- R152, R155, R160 to R164, R183 to R194, R205 to R209, R228, R246 to R248: words that the manual writes out decode to the instructions they stand for. -/
def Obligations.DecodeWords : Prop :=
  decodeTableWord 32 0x00A63C00 = some (.add { d := 5, a := 6, b := 7, fa := true, fb := false }) ∧
  decodeTableWord 32 0xFC004800 = some .nop ∧ decodeTableWord 32 0xFC005000 = some .fin ∧ decodeTableWord 32 0xAC000006 = some (.fenceC 6) ∧
  decodeTableWord 32 0xB0000001 = some (.fenceS 1) ∧ decodeTableWord 32 0xB0000050 = some .vrel ∧ decodeTableWord 32 0xB0600039 = some (.vsetl 3 1 2) ∧
  decodeTableWord 64 0xB820000000000001 = some (.vidx { vd := 4, m := { km := 0, kp := false }, imm := 1 }) ∧
  decodeTableWord 64 0xE100000000000000 = some .mclaim ∧ decodeTableWord 64 0xE200000000000000 = some .mrel ∧ decodeTableWord 64 0xE400000000000000 = some .mzero ∧
  decodeTableWord 64 0xE001400000000000 = some (.mprec 5 false)

/-- R152, R155, R160 to R164, R245, R260: decoding the word of a well-formed instruction gives the instruction back, with every operand. -/
def Obligations.EncodingRoundTrips : Prop := ∀ i : Instr, i.wf = true → ∀ w,
  (encode i = .scalar w → w < 2 ^ 32 ∧ decodeScalar w = .ok i) ∧ (encode i = .vector w → w < 2 ^ 64 ∧ decodeVector w = .ok i) ∧
  (encode i = .micro w → w < 2 ^ 32 ∧ decodeMicro w = .ok i)

/-- R2, R25 to R27: every step, of any agent or input, keeps memory and the memory of a checkpoint image in canonical form. -/
def Obligations.StepKeepsInvariant : Prop := ∀ s t : State, s.Inv → step s = .next t → t.Inv

/-- R22, R25: memory is in canonical form at reset, with CYC at 0.
That a byte which nothing has written reads as 0 is the model's choice (log 5). -/
def Obligations.ResetInvariant : Prop := State.reset.Inv ∧ State.reset.cyc = 0 ∧ ∀ a, mget State.reset.mem a = 0
end

