-- ==== Sys2Proof/Laws/Tbl.lean ====
section
/-! SUPPORT. Laws of tables and of memory: reading after writing, and the canonical form. -/
namespace Sys2Proof.Machine

/-! ### Reading a table -/

@[simp] theorem tget_nil {α : Type} (d : α) (k : Nat) : tget d [] k = d := rfl

theorem tget_tins {α : Type} (d v : α) (k j : Nat) (t : Tbl α) : tget d (tins k v t) j = if j = k then v else tget d t j := by
  induction t with
  | nil => simp [tins, tget, eq_comm]
  | cons p t ih =>
    simp only [tins]
    by_cases h1 : k < p.1
    · simp only [if_pos h1, tget, eq_comm (a := k)]
    · by_cases h2 : p.1 = k
      · rw [if_neg h1, if_pos h2, tget, tget, h2]
        by_cases h3 : j = k
        · rw [if_pos h3.symm, if_pos h3]
        · rw [if_neg (Ne.symm h3), if_neg h3, if_neg (Ne.symm h3)]
      · simp only [if_neg h1, if_neg h2, tget, ih]
        by_cases h3 : p.1 = j
        · rw [if_pos h3, if_pos h3, if_neg (h3 ▸ h2)]
        · rw [if_neg h3, if_neg h3]

theorem tget_tdel {α : Type} (d : α) (k j : Nat) (t : Tbl α) : tget d (tdel k t) j = if j = k then d else tget d t j := by
  induction t with
  | nil => simp [tdel]
  | cons p t ih =>
    simp only [tdel]
    by_cases h2 : p.1 = k <;> by_cases h3 : j = k <;> by_cases h4 : p.1 = j <;> simp_all [tget]

/-- A table reads what was written at a number, and what it read before at any other. -/
theorem tget_tset {α : Type} [DecidableEq α] (d v : α) (t : Tbl α) (k j : Nat) : tget d (tset d t k v) j = if j = k then v else tget d t j := by
  unfold tset
  split_ifs with h <;> simp_all [tget_tins, tget_tdel]

@[simp] theorem tget_tset_same {α : Type} [DecidableEq α] (d v : α) (t : Tbl α) (k : Nat) : tget d (tset d t k v) k = v := by simp [tget_tset]

theorem tget_tset_other {α : Type} [DecidableEq α] (d v : α) (t : Tbl α) {k j : Nat} (h : j ≠ k) : tget d (tset d t k v) j = tget d t j := by
  simp [tget_tset, h]

@[simp] theorem tget_tupd_same {α : Type} [DecidableEq α] (d : α) (t : Tbl α) (k : Nat) (f : α → α) : tget d (tupd d t k f) k = f (tget d t k) := by
  simp [tupd]

theorem tget_tupd_other {α : Type} [DecidableEq α] (d : α) (t : Tbl α) (f : α → α) {k j : Nat} (h : j ≠ k) :
    tget d (tupd d t k f) j = tget d t j := by
  simp [tupd, tget_tset, h]

/-- A property of the default and of every listed value holds of every value. -/
theorem tget_ind {α : Type} (P : α → Prop) {d : α} (hd : P d) : ∀ {t : Tbl α}, (∀ p ∈ t, P p.2) → ∀ k, P (tget d t k)
  | [], _, _ => hd
  | p :: t, h, k => by
    simp only [tget]
    split_ifs
    · exact h p (by simp)
    · exact tget_ind P hd (fun q hq => h q (by simp [hq])) k

/-! ### The canonical form -/

@[simp] theorem Tbl.wf_nil {α : Type} (d : α) : Tbl.Wf d ([] : Tbl α) := by simp [Tbl.Wf]

theorem Tbl.wf_cons {α : Type} (d : α) (p : Nat × α) (t : Tbl α) :
    Tbl.Wf d (p :: t) ↔ (∀ q ∈ t, p.1 < q.1) ∧ p.2 ≠ d ∧ Tbl.Wf d t := by
  simp only [Tbl.Wf, List.map_cons, List.pairwise_cons, List.mem_map, List.mem_cons]
  grind

theorem mem_tins {α : Type} (k : Nat) (v : α) (t : Tbl α) {q : Nat × α} (h : q ∈ tins k v t) : q = (k, v) ∨ q ∈ t := by
  induction t with
  | nil => simpa [tins] using h
  | cons p t ih =>
    simp only [tins] at h
    split_ifs at h <;> simp only [List.mem_cons] at h ⊢ <;> grind

theorem mem_tdel {α : Type} (k : Nat) (t : Tbl α) {q : Nat × α} (h : q ∈ tdel k t) : q ∈ t := by
  induction t with
  | nil => exact h
  | cons p t ih =>
    simp only [tdel] at h
    split_ifs at h <;> simp only [List.mem_cons] at h ⊢ <;> grind

theorem wf_tins {α : Type} (d v : α) (k : Nat) (hv : v ≠ d) : ∀ (t : Tbl α), Tbl.Wf d t → Tbl.Wf d (tins k v t)
  | [], _ => (Tbl.wf_cons ..).2 ⟨by simp, hv, Tbl.wf_nil d⟩
  | p :: t, h => by
    have ⟨h1, h2, h3⟩ := (Tbl.wf_cons d p t).1 h
    simp only [tins]
    split_ifs with a b
    · refine (Tbl.wf_cons ..).2 ⟨fun q hq => ?_, hv, h⟩
      rcases List.mem_cons.1 hq with rfl | hq
      · exact a
      · exact a.trans (h1 q hq)
    · exact (Tbl.wf_cons ..).2 ⟨fun q hq => b ▸ h1 q hq, hv, h3⟩
    · refine (Tbl.wf_cons ..).2 ⟨fun q hq => ?_, h2, wf_tins d v k hv t h3⟩
      rcases mem_tins k v t hq with rfl | hq
      · simp only; omega
      · exact h1 q hq

theorem wf_tdel {α : Type} (d : α) (k : Nat) : ∀ (t : Tbl α), Tbl.Wf d t → Tbl.Wf d (tdel k t)
  | [], h => h
  | p :: t, h => by
    have ⟨h1, h2, h3⟩ := (Tbl.wf_cons d p t).1 h
    simp only [tdel]
    split_ifs
    · exact wf_tdel d k t h3
    · exact (Tbl.wf_cons ..).2 ⟨fun q hq => h1 q (mem_tdel k t hq), h2, wf_tdel d k t h3⟩

/-- Writing keeps the canonical form. -/
theorem wf_tset {α : Type} [DecidableEq α] {d : α} (v : α) {t : Tbl α} (k : Nat) (h : Tbl.Wf d t) : Tbl.Wf d (tset d t k v) := by
  unfold tset
  split_ifs with hv
  · exact wf_tdel d k t h
  · exact wf_tins d v k hv t h

theorem wf_tupd {α : Type} [DecidableEq α] {d : α} {t : Tbl α} (k : Nat) (f : α → α) (h : Tbl.Wf d t) : Tbl.Wf d (tupd d t k f) := wf_tset _ k h

/-- A part of a canonical table is canonical. -/
theorem wf_filter {α : Type} {d : α} {t : Tbl α} (p : Nat × α → Bool) (h : Tbl.Wf d t) : Tbl.Wf d (t.filter p) :=
  ⟨h.1.sublist (List.filter_sublist.map _), fun q hq => h.2 q (List.mem_filter.1 hq).1⟩

theorem tget_eq_default {α : Type} {d : α} {k : Nat} : ∀ {t : Tbl α}, (∀ q ∈ t, k < q.1) → tget d t k = d
  | [], _ => rfl
  | p :: t, h => by
    have := h p (by simp)
    simp only [tget]
    rw [if_neg (by omega)]
    exact tget_eq_default (fun q hq => h q (by simp [hq]))

/-- Canonical tables that read alike are equal. -/
theorem Tbl.ext_of_wf {α : Type} {d : α} : ∀ {t u : Tbl α}, Tbl.Wf d t → Tbl.Wf d u → (∀ k, tget d t k = tget d u k) → t = u
  | [], [], _, _, _ => rfl
  | [], q :: u, _, hu, h => by
    have := h q.1
    simp [tget] at this
    exact absurd this.symm ((Tbl.wf_cons ..).1 hu).2.1
  | p :: t, [], ht, _, h => by
    have := h p.1
    simp [tget] at this
    exact absurd this ((Tbl.wf_cons ..).1 ht).2.1
  | p :: t, q :: u, ht, hu, h => by
    have ⟨t1, t2, t3⟩ := (Tbl.wf_cons d p t).1 ht
    have ⟨u1, u2, u3⟩ := (Tbl.wf_cons d q u).1 hu
    have e1 : p.1 = q.1 := by
      rcases Nat.lt_trichotomy p.1 q.1 with a | a | a
      · have := h p.1
        rw [tget_eq_default (t := q :: u) (fun r hr => by rcases List.mem_cons.1 hr with rfl | hr; exact a; exact a.trans (u1 r hr))] at this
        simp [tget] at this; exact absurd this t2
      · exact a
      · have := h q.1
        rw [tget_eq_default (t := p :: t) (fun r hr => by rcases List.mem_cons.1 hr with rfl | hr; exact a; exact a.trans (t1 r hr))] at this
        simp [tget] at this; exact absurd this.symm u2
    have e2 : p.2 = q.2 := by have := h p.1; simpa [tget, e1] using this
    have : t = u := Tbl.ext_of_wf t3 u3 (fun k => by
      by_cases hk : p.1 = k
      · rw [tget_eq_default (fun r hr => hk ▸ t1 r hr), tget_eq_default (fun r hr => hk ▸ e1 ▸ u1 r hr)]
      · simpa [tget, hk, ← e1] using h k)
    rw [this, Prod.ext e1 e2]

/-! ### Memory -/

@[simp] theorem Memory.wf_nil : Memory.wf [] := Tbl.wf_nil _

@[simp] theorem mget_nil (a : Nat) : mget [] a = 0 := rfl

/-- A byte reads as it was written, and every other byte as before. -/
theorem mget_mput (m : List Host.Cell) (a x : Nat) (b : Byte) : mget (mput m a b) x = if x = a then b else mget m x := by
  simp [mget, mput, tget_tset]

@[simp] theorem mget_mput_same (m : List Host.Cell) (a : Nat) (b : Byte) : mget (mput m a b) a = b := by simp [mget_mput]

theorem mput_wf {m : List Host.Cell} (a : Nat) (b : Byte) (h : Memory.wf m) : Memory.wf (mput m a b) := wf_tset b a h

/-! ### Reads and writes of several bytes -/

theorem mem_cellsOf {a n v : Nat} {c : Host.Cell} (h : c ∈ cellsOf a n v) : a ≤ c.1 ∧ c.1 < a + n := by
  induction n generalizing a v with
  | zero => simp [cellsOf] at h
  | succ n ih =>
    simp only [cellsOf] at h
    split_ifs at h
    · have := ih h; omega
    · rcases List.mem_cons.1 h with rfl | h
      · simp
      · have := ih h; omega

theorem cellsOf_wf (a n v : Nat) : Memory.wf (cellsOf a n v) := by
  induction n generalizing a v with
  | zero => exact Memory.wf_nil
  | succ n ih =>
    simp only [cellsOf]
    split_ifs with h
    · exact ih _ _
    · refine (Tbl.wf_cons ..).2 ⟨fun q hq => ?_, ?_, ih _ _⟩
      · have := mem_cellsOf hq; simp only; omega
      · intro e
        have := congrArg BitVec.toNat e
        simp [memDefault] at this
        omega

theorem wf_append {α : Type} {d : α} {t u : Tbl α} (ht : Tbl.Wf d t) (hu : Tbl.Wf d u) (h : ∀ p ∈ t, ∀ q ∈ u, p.1 < q.1) : Tbl.Wf d (t ++ u) := by
  refine ⟨?_, fun p hp => ?_⟩
  · rw [List.map_append, List.pairwise_append]
    exact ⟨ht.1, hu.1, by simpa using fun a x hx b y hy => h _ hx _ hy⟩
  · rcases List.mem_append.1 hp with hp | hp
    · exact ht.2 p hp
    · exact hu.2 p hp

/-- A write keeps the canonical form. -/
theorem mwrite_wf {m : List Host.Cell} (a n v : Nat) (h : Memory.wf m) : Memory.wf (mwrite m a n v) := by
  refine wf_append (wf_append (wf_filter _ h) (cellsOf_wf a n v) ?_) (wf_filter _ h) ?_
  · intro p hp q hq
    have := mem_cellsOf hq
    simp at hp; omega
  · intro p hp q hq
    simp at hq
    rcases List.mem_append.1 hp with hp | hp
    · simp at hp; omega
    · have := mem_cellsOf hp; omega

theorem tget_append_left {α : Type} {d : α} {k : Nat} : ∀ {t u : Tbl α}, (∀ q ∈ u, q.1 ≠ k) → tget d (t ++ u) k = tget d t k
  | [], [], _ => rfl
  | [], q :: u, h => by
    simp only [List.nil_append, tget, if_neg (h q (by simp))]
    exact (tget_append_left (t := []) (fun r hr => h r (by simp [hr])))
  | p :: t, u, h => by simp only [List.cons_append, tget, tget_append_left (t := t) h]

theorem tget_append_right {α : Type} {d : α} {k : Nat} : ∀ {t u : Tbl α}, (∀ p ∈ t, p.1 ≠ k) → tget d (t ++ u) k = tget d u k
  | [], _, _ => rfl
  | p :: t, u, h => by
    simp only [List.cons_append, tget, if_neg (h p (by simp))]
    exact tget_append_right (fun r hr => h r (by simp [hr]))

theorem tget_filter {α : Type} (d : α) (k : Nat) (p : Nat → Bool) : ∀ (t : Tbl α), tget d (t.filter (fun c => p c.1)) k = if p k then tget d t k else d
  | [] => by simp
  | q :: t => by
    have ih := tget_filter d k p t
    simp only [List.filter_cons]
    by_cases h : p q.1 <;> by_cases h2 : p k <;> by_cases h3 : q.1 = k <;> simp_all [tget]

theorem mget_cellsOf (a n v x : Nat) : mget (cellsOf a n v) x = if a ≤ x ∧ x < a + n then BitVec.ofNat 8 (v / 256 ^ (x - a) % 256) else 0 := by
  induction n generalizing a v with
  | zero => simp only [cellsOf, mget_nil]; rw [if_neg (by omega)]
  | succ n ih =>
    have shift : a ≠ x → mget (cellsOf (a + 1) n (v / 256)) x =
        if a ≤ x ∧ x < a + (n + 1) then BitVec.ofNat 8 (v / 256 ^ (x - a) % 256) else 0 := by
      intro hx
      rw [ih]
      by_cases h2 : a + 1 ≤ x ∧ x < a + 1 + n
      · rw [if_pos h2, if_pos (by omega), Nat.div_div_eq_div_mul, ← Nat.pow_succ', show (x - (a + 1)).succ = x - a by omega]
      · rw [if_neg h2, if_neg (by omega)]
    by_cases hx : a = x
    · subst hx
      rw [if_pos ⟨le_refl _, by omega⟩]
      by_cases h : v % 256 = 0
      · rw [cellsOf, if_pos h, ih, if_neg (by omega)]; simp [h]
      · rw [cellsOf, if_neg h]; simp [mget, tget]
    · rw [← shift hx]
      by_cases h : v % 256 = 0
      · rw [cellsOf, if_pos h]
      · rw [cellsOf, if_neg h, mget, tget, if_neg hx]; rfl

/-- A write of `n` bytes changes those bytes, least significant byte first (R2), and no other byte. -/
theorem mget_mwrite (m : List Host.Cell) (a n v x : Nat) :
    mget (mwrite m a n v) x = if a ≤ x ∧ x < a + n then BitVec.ofNat 8 (v / 256 ^ (x - a) % 256) else mget m x := by
  have hl : ∀ q ∈ m.filter (fun c => decide (c.1 < a)), q.1 < a := fun q hq => by simpa using (List.mem_filter.1 hq).2
  have hr : ∀ q ∈ m.filter (fun c => decide (a + n ≤ c.1)), a + n ≤ q.1 := fun q hq => by simpa using (List.mem_filter.1 hq).2
  have hc : ∀ q ∈ cellsOf a n v, a ≤ q.1 ∧ q.1 < a + n := fun q hq => mem_cellsOf hq
  unfold mwrite mget
  by_cases h1 : x < a
  · rw [tget_append_left (fun q hq => by have := hr q hq; omega), tget_append_left (fun q hq => by have := hc q hq; omega),
      tget_filter memDefault x (fun k => decide (k < a))]
    simp only [decide_eq_true_eq, if_pos h1]
    rw [if_neg (by omega)]
  · by_cases h2 : a + n ≤ x
    · rw [tget_append_right (fun q hq => by rcases List.mem_append.1 hq with hq | hq; have := hl q hq; omega; have := hc q hq; omega),
        tget_filter memDefault x (fun k => decide (a + n ≤ k))]
      simp only [decide_eq_true_eq, if_pos h2]
      rw [if_neg (by omega)]
    · rw [tget_append_left (fun q hq => by have := hr q hq; omega), tget_append_right (fun q hq => by have := hl q hq; omega)]
      have := mget_cellsOf a n v x
      rw [if_pos (by omega)] at this ⊢
      exact this

theorem mget_mwrite_out (m : List Host.Cell) {a n x : Nat} (v : Nat) (h : x < a ∨ a + n ≤ x) : mget (mwrite m a n v) x = mget m x := by
  rw [mget_mwrite, if_neg (by omega)]

theorem bytesAt_congr {m m' : List Host.Cell} (a n : Nat) (h : ∀ x, a ≤ x → x < a + n → mget m x = mget m' x) : bytesAt m a n = bytesAt m' a n := by
  induction n generalizing a with
  | zero => rfl
  | succ n ih => simp only [bytesAt]; rw [h a (by omega) (by omega), ih (a + 1) (fun x h1 h2 => h x (by omega) (by omega))]

/-- Looking only at the cells of the bytes read changes nothing. -/
theorem mread_eq (m : List Host.Cell) (a n : Nat) : mread m a n = bytesAt m a n :=
  bytesAt_congr a n (fun x h1 h2 => by
    have := tget_filter memDefault x (fun k => decide (a ≤ k ∧ k < a + n)) m
    simpa [mget, h1, h2] using this)

@[simp] theorem mread_zero (m : List Host.Cell) (a : Nat) : mread m a 0 = 0 := rfl

/-- The lowest byte, then the bytes above it (R2). -/
theorem mread_succ (m : List Host.Cell) (a n : Nat) : mread m a (n + 1) = (mget m a).toNat + 256 * mread m (a + 1) n := by
  simp only [mread_eq, bytesAt]

theorem mread_congr {m m' : List Host.Cell} (a n : Nat) (h : ∀ x, a ≤ x → x < a + n → mget m x = mget m' x) : mread m a n = mread m' a n := by
  simpa only [mread_eq] using bytesAt_congr a n h

theorem mread_lt (m : List Host.Cell) (a n : Nat) : mread m a n < 256 ^ n := by
  induction n generalizing a with
  | zero => simp
  | succ n ih => rw [mread_succ, Nat.pow_succ]; have := ih (a + 1); have := (mget m a).isLt; omega

theorem bytesAt_mwrite (m : List Host.Cell) (a n v k : Nat) (h : k ≤ n) :
    bytesAt (mwrite m a n v) (a + (n - k)) k = v / 256 ^ (n - k) % 256 ^ k := by
  induction k with
  | zero => simp [bytesAt, Nat.mod_one]
  | succ k ih =>
    have e : a + (n - (k + 1)) + 1 = a + (n - k) := by omega
    have p : 256 ^ (n - k) = 256 ^ (n - (k + 1)) * 256 := by rw [← Nat.pow_succ]; congr 1; omega
    rw [bytesAt, e, ih (by omega), mget_mwrite, if_pos (by omega), Nat.pow_succ', Nat.mod_mul, p, Nat.div_div_eq_div_mul,
      show a + (n - (k + 1)) - a = n - (k + 1) by omega]
    simp

/-- Reading the bytes just written gives the number written, modulo its size. -/
theorem mread_mwrite (m : List Host.Cell) (a n v : Nat) : mread (mwrite m a n v) a n = v % 256 ^ n := by
  have h := bytesAt_mwrite m a n v n (le_refl n)
  simpa [mread_eq] using h

/-- Reading bytes that a write does not touch gives what they read before. -/
theorem mread_mwrite_out (m : List Host.Cell) {a b n k : Nat} (v : Nat) (h : b + k ≤ a ∨ a + n ≤ b) : mread (mwrite m a n v) b k = mread m b k :=
  mread_congr _ _ (fun x h1 h2 => mget_mwrite_out _ _ (by omega))

end Sys2Proof.Machine
end

