-- ==== Sys2Proof/Laws/State.lean ====
section
/-! SUPPORT. Laws of the parts of State: what each named update of State leaves as it was, field by field, what the parts read after it, and the same
for the updates of the x registers of a VLC. -/
namespace Sys2Proof.Machine

/-! ### Fields after each update -/

@[simp] theorem updVlc_agenda (n : Nat) (f : Vlc → Vlc) (s : State) : (updVlc n f s).agenda = s.agenda := rfl
@[simp] theorem updVlc_fresh (n : Nat) (f : Vlc → Vlc) (s : State) : (updVlc n f s).fresh = s.fresh := rfl
@[simp] theorem updVlc_nextId (n : Nat) (f : Vlc → Vlc) (s : State) : (updVlc n f s).nextId = s.nextId := rfl
@[simp] theorem updVlc_cur (n : Nat) (f : Vlc → Vlc) (s : State) : (updVlc n f s).cur = s.cur := rfl
@[simp] theorem updVlc_curCmd (n : Nat) (f : Vlc → Vlc) (s : State) : (updVlc n f s).curCmd = s.curCmd := rfl
@[simp] theorem updVlc_cyc (n : Nat) (f : Vlc → Vlc) (s : State) : (updVlc n f s).cyc = s.cyc := rfl
@[simp] theorem updVlc_plat (n : Nat) (f : Vlc → Vlc) (s : State) : (updVlc n f s).plat = s.plat := rfl
@[simp] theorem updVlc_mem (n : Nat) (f : Vlc → Vlc) (s : State) : (updVlc n f s).mem = s.mem := rfl
@[simp] theorem updVlc_ecc (n : Nat) (f : Vlc → Vlc) (s : State) : (updVlc n f s).ecc = s.ecc := rfl
@[simp] theorem updVlc_comp (n : Nat) (f : Vlc → Vlc) (s : State) : (updVlc n f s).comp = s.comp := rfl
@[simp] theorem updVlc_tiles (n : Nat) (f : Vlc → Vlc) (s : State) : (updVlc n f s).tiles = s.tiles := rfl
@[simp] theorem updVlc_toks (n : Nat) (f : Vlc → Vlc) (s : State) : (updVlc n f s).toks = s.toks := rfl
@[simp] theorem updVlc_hands (n : Nat) (f : Vlc → Vlc) (s : State) : (updVlc n f s).hands = s.hands := rfl
@[simp] theorem updVlc_tlb (n : Nat) (f : Vlc → Vlc) (s : State) : (updVlc n f s).tlb = s.tlb := rfl
@[simp] theorem updVlc_cores (n : Nat) (f : Vlc → Vlc) (s : State) : (updVlc n f s).cores = s.cores := rfl
@[simp] theorem updVlc_vaults (n : Nat) (f : Vlc → Vlc) (s : State) : (updVlc n f s).vaults = s.vaults := rfl
@[simp] theorem updVlc_stackTbl (n : Nat) (f : Vlc → Vlc) (s : State) : (updVlc n f s).stackTbl = s.stackTbl := rfl
@[simp] theorem updVlc_net (n : Nat) (f : Vlc → Vlc) (s : State) : (updVlc n f s).net = s.net := rfl
@[simp] theorem updVlc_fills (n : Nat) (f : Vlc → Vlc) (s : State) : (updVlc n f s).fills = s.fills := rfl
@[simp] theorem updVlc_cmds (n : Nat) (f : Vlc → Vlc) (s : State) : (updVlc n f s).cmds = s.cmds := rfl
@[simp] theorem updVlc_locks (n : Nat) (f : Vlc → Vlc) (s : State) : (updVlc n f s).locks = s.locks := rfl
@[simp] theorem updVlc_ops (n : Nat) (f : Vlc → Vlc) (s : State) : (updVlc n f s).ops = s.ops := rfl
@[simp] theorem updVlc_vis (n : Nat) (f : Vlc → Vlc) (s : State) : (updVlc n f s).vis = s.vis := rfl
@[simp] theorem updVlc_launches (n : Nat) (f : Vlc → Vlc) (s : State) : (updVlc n f s).launches = s.launches := rfl
@[simp] theorem updVlc_hostq (n : Nat) (f : Vlc → Vlc) (s : State) : (updVlc n f s).hostq = s.hostq := rfl
@[simp] theorem updVlc_peerq (n : Nat) (f : Vlc → Vlc) (s : State) : (updVlc n f s).peerq = s.peerq := rfl
@[simp] theorem updVlc_inbound (n : Nat) (f : Vlc → Vlc) (s : State) : (updVlc n f s).inbound = s.inbound := rfl
@[simp] theorem updVlc_waits (n : Nat) (f : Vlc → Vlc) (s : State) : (updVlc n f s).waits = s.waits := rfl
@[simp] theorem updVlc_sched (n : Nat) (f : Vlc → Vlc) (s : State) : (updVlc n f s).sched = s.sched := rfl
@[simp] theorem updVlc_mgmt (n : Nat) (f : Vlc → Vlc) (s : State) : (updVlc n f s).mgmt = s.mgmt := rfl
@[simp] theorem updVlc_fabric (n : Nat) (f : Vlc → Vlc) (s : State) : (updVlc n f s).fabric = s.fabric := rfl
@[simp] theorem updVlc_repair (n : Nat) (f : Vlc → Vlc) (s : State) : (updVlc n f s).repair = s.repair := rfl
@[simp] theorem updVlc_out (n : Nat) (f : Vlc → Vlc) (s : State) : (updVlc n f s).out = s.out := rfl

@[simp] theorem updMe_agenda (f : Vlc → Vlc) (s : State) : (updMe f s).agenda = s.agenda := rfl
@[simp] theorem updMe_fresh (f : Vlc → Vlc) (s : State) : (updMe f s).fresh = s.fresh := rfl
@[simp] theorem updMe_nextId (f : Vlc → Vlc) (s : State) : (updMe f s).nextId = s.nextId := rfl
@[simp] theorem updMe_cur (f : Vlc → Vlc) (s : State) : (updMe f s).cur = s.cur := rfl
@[simp] theorem updMe_curCmd (f : Vlc → Vlc) (s : State) : (updMe f s).curCmd = s.curCmd := rfl
@[simp] theorem updMe_cyc (f : Vlc → Vlc) (s : State) : (updMe f s).cyc = s.cyc := rfl
@[simp] theorem updMe_plat (f : Vlc → Vlc) (s : State) : (updMe f s).plat = s.plat := rfl
@[simp] theorem updMe_mem (f : Vlc → Vlc) (s : State) : (updMe f s).mem = s.mem := rfl
@[simp] theorem updMe_ecc (f : Vlc → Vlc) (s : State) : (updMe f s).ecc = s.ecc := rfl
@[simp] theorem updMe_comp (f : Vlc → Vlc) (s : State) : (updMe f s).comp = s.comp := rfl
@[simp] theorem updMe_tiles (f : Vlc → Vlc) (s : State) : (updMe f s).tiles = s.tiles := rfl
@[simp] theorem updMe_toks (f : Vlc → Vlc) (s : State) : (updMe f s).toks = s.toks := rfl
@[simp] theorem updMe_hands (f : Vlc → Vlc) (s : State) : (updMe f s).hands = s.hands := rfl
@[simp] theorem updMe_tlb (f : Vlc → Vlc) (s : State) : (updMe f s).tlb = s.tlb := rfl
@[simp] theorem updMe_cores (f : Vlc → Vlc) (s : State) : (updMe f s).cores = s.cores := rfl
@[simp] theorem updMe_vaults (f : Vlc → Vlc) (s : State) : (updMe f s).vaults = s.vaults := rfl
@[simp] theorem updMe_stackTbl (f : Vlc → Vlc) (s : State) : (updMe f s).stackTbl = s.stackTbl := rfl
@[simp] theorem updMe_net (f : Vlc → Vlc) (s : State) : (updMe f s).net = s.net := rfl
@[simp] theorem updMe_fills (f : Vlc → Vlc) (s : State) : (updMe f s).fills = s.fills := rfl
@[simp] theorem updMe_cmds (f : Vlc → Vlc) (s : State) : (updMe f s).cmds = s.cmds := rfl
@[simp] theorem updMe_locks (f : Vlc → Vlc) (s : State) : (updMe f s).locks = s.locks := rfl
@[simp] theorem updMe_ops (f : Vlc → Vlc) (s : State) : (updMe f s).ops = s.ops := rfl
@[simp] theorem updMe_vis (f : Vlc → Vlc) (s : State) : (updMe f s).vis = s.vis := rfl
@[simp] theorem updMe_launches (f : Vlc → Vlc) (s : State) : (updMe f s).launches = s.launches := rfl
@[simp] theorem updMe_hostq (f : Vlc → Vlc) (s : State) : (updMe f s).hostq = s.hostq := rfl
@[simp] theorem updMe_peerq (f : Vlc → Vlc) (s : State) : (updMe f s).peerq = s.peerq := rfl
@[simp] theorem updMe_inbound (f : Vlc → Vlc) (s : State) : (updMe f s).inbound = s.inbound := rfl
@[simp] theorem updMe_waits (f : Vlc → Vlc) (s : State) : (updMe f s).waits = s.waits := rfl
@[simp] theorem updMe_sched (f : Vlc → Vlc) (s : State) : (updMe f s).sched = s.sched := rfl
@[simp] theorem updMe_mgmt (f : Vlc → Vlc) (s : State) : (updMe f s).mgmt = s.mgmt := rfl
@[simp] theorem updMe_fabric (f : Vlc → Vlc) (s : State) : (updMe f s).fabric = s.fabric := rfl
@[simp] theorem updMe_repair (f : Vlc → Vlc) (s : State) : (updMe f s).repair = s.repair := rfl
@[simp] theorem updMe_out (f : Vlc → Vlc) (s : State) : (updMe f s).out = s.out := rfl

@[simp] theorem updCore_agenda (n : Nat) (f : Core → Core) (s : State) : (updCore n f s).agenda = s.agenda := rfl
@[simp] theorem updCore_fresh (n : Nat) (f : Core → Core) (s : State) : (updCore n f s).fresh = s.fresh := rfl
@[simp] theorem updCore_nextId (n : Nat) (f : Core → Core) (s : State) : (updCore n f s).nextId = s.nextId := rfl
@[simp] theorem updCore_cur (n : Nat) (f : Core → Core) (s : State) : (updCore n f s).cur = s.cur := rfl
@[simp] theorem updCore_curCmd (n : Nat) (f : Core → Core) (s : State) : (updCore n f s).curCmd = s.curCmd := rfl
@[simp] theorem updCore_cyc (n : Nat) (f : Core → Core) (s : State) : (updCore n f s).cyc = s.cyc := rfl
@[simp] theorem updCore_plat (n : Nat) (f : Core → Core) (s : State) : (updCore n f s).plat = s.plat := rfl
@[simp] theorem updCore_mem (n : Nat) (f : Core → Core) (s : State) : (updCore n f s).mem = s.mem := rfl
@[simp] theorem updCore_ecc (n : Nat) (f : Core → Core) (s : State) : (updCore n f s).ecc = s.ecc := rfl
@[simp] theorem updCore_comp (n : Nat) (f : Core → Core) (s : State) : (updCore n f s).comp = s.comp := rfl
@[simp] theorem updCore_tiles (n : Nat) (f : Core → Core) (s : State) : (updCore n f s).tiles = s.tiles := rfl
@[simp] theorem updCore_toks (n : Nat) (f : Core → Core) (s : State) : (updCore n f s).toks = s.toks := rfl
@[simp] theorem updCore_hands (n : Nat) (f : Core → Core) (s : State) : (updCore n f s).hands = s.hands := rfl
@[simp] theorem updCore_tlb (n : Nat) (f : Core → Core) (s : State) : (updCore n f s).tlb = s.tlb := rfl
@[simp] theorem updCore_vlcs (n : Nat) (f : Core → Core) (s : State) : (updCore n f s).vlcs = s.vlcs := rfl
@[simp] theorem updCore_vaults (n : Nat) (f : Core → Core) (s : State) : (updCore n f s).vaults = s.vaults := rfl
@[simp] theorem updCore_stackTbl (n : Nat) (f : Core → Core) (s : State) : (updCore n f s).stackTbl = s.stackTbl := rfl
@[simp] theorem updCore_net (n : Nat) (f : Core → Core) (s : State) : (updCore n f s).net = s.net := rfl
@[simp] theorem updCore_fills (n : Nat) (f : Core → Core) (s : State) : (updCore n f s).fills = s.fills := rfl
@[simp] theorem updCore_cmds (n : Nat) (f : Core → Core) (s : State) : (updCore n f s).cmds = s.cmds := rfl
@[simp] theorem updCore_locks (n : Nat) (f : Core → Core) (s : State) : (updCore n f s).locks = s.locks := rfl
@[simp] theorem updCore_ops (n : Nat) (f : Core → Core) (s : State) : (updCore n f s).ops = s.ops := rfl
@[simp] theorem updCore_vis (n : Nat) (f : Core → Core) (s : State) : (updCore n f s).vis = s.vis := rfl
@[simp] theorem updCore_launches (n : Nat) (f : Core → Core) (s : State) : (updCore n f s).launches = s.launches := rfl
@[simp] theorem updCore_hostq (n : Nat) (f : Core → Core) (s : State) : (updCore n f s).hostq = s.hostq := rfl
@[simp] theorem updCore_peerq (n : Nat) (f : Core → Core) (s : State) : (updCore n f s).peerq = s.peerq := rfl
@[simp] theorem updCore_inbound (n : Nat) (f : Core → Core) (s : State) : (updCore n f s).inbound = s.inbound := rfl
@[simp] theorem updCore_waits (n : Nat) (f : Core → Core) (s : State) : (updCore n f s).waits = s.waits := rfl
@[simp] theorem updCore_sched (n : Nat) (f : Core → Core) (s : State) : (updCore n f s).sched = s.sched := rfl
@[simp] theorem updCore_mgmt (n : Nat) (f : Core → Core) (s : State) : (updCore n f s).mgmt = s.mgmt := rfl
@[simp] theorem updCore_fabric (n : Nat) (f : Core → Core) (s : State) : (updCore n f s).fabric = s.fabric := rfl
@[simp] theorem updCore_repair (n : Nat) (f : Core → Core) (s : State) : (updCore n f s).repair = s.repair := rfl
@[simp] theorem updCore_out (n : Nat) (f : Core → Core) (s : State) : (updCore n f s).out = s.out := rfl

@[simp] theorem updVault_agenda (n : Nat) (f : Vault → Vault) (s : State) : (updVault n f s).agenda = s.agenda := rfl
@[simp] theorem updVault_fresh (n : Nat) (f : Vault → Vault) (s : State) : (updVault n f s).fresh = s.fresh := rfl
@[simp] theorem updVault_nextId (n : Nat) (f : Vault → Vault) (s : State) : (updVault n f s).nextId = s.nextId := rfl
@[simp] theorem updVault_cur (n : Nat) (f : Vault → Vault) (s : State) : (updVault n f s).cur = s.cur := rfl
@[simp] theorem updVault_curCmd (n : Nat) (f : Vault → Vault) (s : State) : (updVault n f s).curCmd = s.curCmd := rfl
@[simp] theorem updVault_cyc (n : Nat) (f : Vault → Vault) (s : State) : (updVault n f s).cyc = s.cyc := rfl
@[simp] theorem updVault_plat (n : Nat) (f : Vault → Vault) (s : State) : (updVault n f s).plat = s.plat := rfl
@[simp] theorem updVault_mem (n : Nat) (f : Vault → Vault) (s : State) : (updVault n f s).mem = s.mem := rfl
@[simp] theorem updVault_ecc (n : Nat) (f : Vault → Vault) (s : State) : (updVault n f s).ecc = s.ecc := rfl
@[simp] theorem updVault_comp (n : Nat) (f : Vault → Vault) (s : State) : (updVault n f s).comp = s.comp := rfl
@[simp] theorem updVault_tiles (n : Nat) (f : Vault → Vault) (s : State) : (updVault n f s).tiles = s.tiles := rfl
@[simp] theorem updVault_toks (n : Nat) (f : Vault → Vault) (s : State) : (updVault n f s).toks = s.toks := rfl
@[simp] theorem updVault_hands (n : Nat) (f : Vault → Vault) (s : State) : (updVault n f s).hands = s.hands := rfl
@[simp] theorem updVault_tlb (n : Nat) (f : Vault → Vault) (s : State) : (updVault n f s).tlb = s.tlb := rfl
@[simp] theorem updVault_vlcs (n : Nat) (f : Vault → Vault) (s : State) : (updVault n f s).vlcs = s.vlcs := rfl
@[simp] theorem updVault_cores (n : Nat) (f : Vault → Vault) (s : State) : (updVault n f s).cores = s.cores := rfl
@[simp] theorem updVault_stackTbl (n : Nat) (f : Vault → Vault) (s : State) : (updVault n f s).stackTbl = s.stackTbl := rfl
@[simp] theorem updVault_net (n : Nat) (f : Vault → Vault) (s : State) : (updVault n f s).net = s.net := rfl
@[simp] theorem updVault_fills (n : Nat) (f : Vault → Vault) (s : State) : (updVault n f s).fills = s.fills := rfl
@[simp] theorem updVault_cmds (n : Nat) (f : Vault → Vault) (s : State) : (updVault n f s).cmds = s.cmds := rfl
@[simp] theorem updVault_locks (n : Nat) (f : Vault → Vault) (s : State) : (updVault n f s).locks = s.locks := rfl
@[simp] theorem updVault_ops (n : Nat) (f : Vault → Vault) (s : State) : (updVault n f s).ops = s.ops := rfl
@[simp] theorem updVault_vis (n : Nat) (f : Vault → Vault) (s : State) : (updVault n f s).vis = s.vis := rfl
@[simp] theorem updVault_launches (n : Nat) (f : Vault → Vault) (s : State) : (updVault n f s).launches = s.launches := rfl
@[simp] theorem updVault_hostq (n : Nat) (f : Vault → Vault) (s : State) : (updVault n f s).hostq = s.hostq := rfl
@[simp] theorem updVault_peerq (n : Nat) (f : Vault → Vault) (s : State) : (updVault n f s).peerq = s.peerq := rfl
@[simp] theorem updVault_inbound (n : Nat) (f : Vault → Vault) (s : State) : (updVault n f s).inbound = s.inbound := rfl
@[simp] theorem updVault_waits (n : Nat) (f : Vault → Vault) (s : State) : (updVault n f s).waits = s.waits := rfl
@[simp] theorem updVault_sched (n : Nat) (f : Vault → Vault) (s : State) : (updVault n f s).sched = s.sched := rfl
@[simp] theorem updVault_mgmt (n : Nat) (f : Vault → Vault) (s : State) : (updVault n f s).mgmt = s.mgmt := rfl
@[simp] theorem updVault_fabric (n : Nat) (f : Vault → Vault) (s : State) : (updVault n f s).fabric = s.fabric := rfl
@[simp] theorem updVault_repair (n : Nat) (f : Vault → Vault) (s : State) : (updVault n f s).repair = s.repair := rfl
@[simp] theorem updVault_out (n : Nat) (f : Vault → Vault) (s : State) : (updVault n f s).out = s.out := rfl

@[simp] theorem updStack_agenda (n : Nat) (f : Stack → Stack) (s : State) : (updStack n f s).agenda = s.agenda := rfl
@[simp] theorem updStack_fresh (n : Nat) (f : Stack → Stack) (s : State) : (updStack n f s).fresh = s.fresh := rfl
@[simp] theorem updStack_nextId (n : Nat) (f : Stack → Stack) (s : State) : (updStack n f s).nextId = s.nextId := rfl
@[simp] theorem updStack_cur (n : Nat) (f : Stack → Stack) (s : State) : (updStack n f s).cur = s.cur := rfl
@[simp] theorem updStack_curCmd (n : Nat) (f : Stack → Stack) (s : State) : (updStack n f s).curCmd = s.curCmd := rfl
@[simp] theorem updStack_cyc (n : Nat) (f : Stack → Stack) (s : State) : (updStack n f s).cyc = s.cyc := rfl
@[simp] theorem updStack_plat (n : Nat) (f : Stack → Stack) (s : State) : (updStack n f s).plat = s.plat := rfl
@[simp] theorem updStack_mem (n : Nat) (f : Stack → Stack) (s : State) : (updStack n f s).mem = s.mem := rfl
@[simp] theorem updStack_ecc (n : Nat) (f : Stack → Stack) (s : State) : (updStack n f s).ecc = s.ecc := rfl
@[simp] theorem updStack_comp (n : Nat) (f : Stack → Stack) (s : State) : (updStack n f s).comp = s.comp := rfl
@[simp] theorem updStack_tiles (n : Nat) (f : Stack → Stack) (s : State) : (updStack n f s).tiles = s.tiles := rfl
@[simp] theorem updStack_toks (n : Nat) (f : Stack → Stack) (s : State) : (updStack n f s).toks = s.toks := rfl
@[simp] theorem updStack_hands (n : Nat) (f : Stack → Stack) (s : State) : (updStack n f s).hands = s.hands := rfl
@[simp] theorem updStack_tlb (n : Nat) (f : Stack → Stack) (s : State) : (updStack n f s).tlb = s.tlb := rfl
@[simp] theorem updStack_vlcs (n : Nat) (f : Stack → Stack) (s : State) : (updStack n f s).vlcs = s.vlcs := rfl
@[simp] theorem updStack_cores (n : Nat) (f : Stack → Stack) (s : State) : (updStack n f s).cores = s.cores := rfl
@[simp] theorem updStack_vaults (n : Nat) (f : Stack → Stack) (s : State) : (updStack n f s).vaults = s.vaults := rfl
@[simp] theorem updStack_net (n : Nat) (f : Stack → Stack) (s : State) : (updStack n f s).net = s.net := rfl
@[simp] theorem updStack_fills (n : Nat) (f : Stack → Stack) (s : State) : (updStack n f s).fills = s.fills := rfl
@[simp] theorem updStack_cmds (n : Nat) (f : Stack → Stack) (s : State) : (updStack n f s).cmds = s.cmds := rfl
@[simp] theorem updStack_locks (n : Nat) (f : Stack → Stack) (s : State) : (updStack n f s).locks = s.locks := rfl
@[simp] theorem updStack_ops (n : Nat) (f : Stack → Stack) (s : State) : (updStack n f s).ops = s.ops := rfl
@[simp] theorem updStack_vis (n : Nat) (f : Stack → Stack) (s : State) : (updStack n f s).vis = s.vis := rfl
@[simp] theorem updStack_launches (n : Nat) (f : Stack → Stack) (s : State) : (updStack n f s).launches = s.launches := rfl
@[simp] theorem updStack_hostq (n : Nat) (f : Stack → Stack) (s : State) : (updStack n f s).hostq = s.hostq := rfl
@[simp] theorem updStack_peerq (n : Nat) (f : Stack → Stack) (s : State) : (updStack n f s).peerq = s.peerq := rfl
@[simp] theorem updStack_inbound (n : Nat) (f : Stack → Stack) (s : State) : (updStack n f s).inbound = s.inbound := rfl
@[simp] theorem updStack_waits (n : Nat) (f : Stack → Stack) (s : State) : (updStack n f s).waits = s.waits := rfl
@[simp] theorem updStack_sched (n : Nat) (f : Stack → Stack) (s : State) : (updStack n f s).sched = s.sched := rfl
@[simp] theorem updStack_mgmt (n : Nat) (f : Stack → Stack) (s : State) : (updStack n f s).mgmt = s.mgmt := rfl
@[simp] theorem updStack_fabric (n : Nat) (f : Stack → Stack) (s : State) : (updStack n f s).fabric = s.fabric := rfl
@[simp] theorem updStack_repair (n : Nat) (f : Stack → Stack) (s : State) : (updStack n f s).repair = s.repair := rfl
@[simp] theorem updStack_out (n : Nat) (f : Stack → Stack) (s : State) : (updStack n f s).out = s.out := rfl

@[simp] theorem updVi_agenda (n : Nat) (f : Vi → Vi) (s : State) : (updVi n f s).agenda = s.agenda := rfl
@[simp] theorem updVi_fresh (n : Nat) (f : Vi → Vi) (s : State) : (updVi n f s).fresh = s.fresh := rfl
@[simp] theorem updVi_nextId (n : Nat) (f : Vi → Vi) (s : State) : (updVi n f s).nextId = s.nextId := rfl
@[simp] theorem updVi_cur (n : Nat) (f : Vi → Vi) (s : State) : (updVi n f s).cur = s.cur := rfl
@[simp] theorem updVi_curCmd (n : Nat) (f : Vi → Vi) (s : State) : (updVi n f s).curCmd = s.curCmd := rfl
@[simp] theorem updVi_cyc (n : Nat) (f : Vi → Vi) (s : State) : (updVi n f s).cyc = s.cyc := rfl
@[simp] theorem updVi_plat (n : Nat) (f : Vi → Vi) (s : State) : (updVi n f s).plat = s.plat := rfl
@[simp] theorem updVi_mem (n : Nat) (f : Vi → Vi) (s : State) : (updVi n f s).mem = s.mem := rfl
@[simp] theorem updVi_ecc (n : Nat) (f : Vi → Vi) (s : State) : (updVi n f s).ecc = s.ecc := rfl
@[simp] theorem updVi_comp (n : Nat) (f : Vi → Vi) (s : State) : (updVi n f s).comp = s.comp := rfl
@[simp] theorem updVi_tiles (n : Nat) (f : Vi → Vi) (s : State) : (updVi n f s).tiles = s.tiles := rfl
@[simp] theorem updVi_toks (n : Nat) (f : Vi → Vi) (s : State) : (updVi n f s).toks = s.toks := rfl
@[simp] theorem updVi_hands (n : Nat) (f : Vi → Vi) (s : State) : (updVi n f s).hands = s.hands := rfl
@[simp] theorem updVi_tlb (n : Nat) (f : Vi → Vi) (s : State) : (updVi n f s).tlb = s.tlb := rfl
@[simp] theorem updVi_vlcs (n : Nat) (f : Vi → Vi) (s : State) : (updVi n f s).vlcs = s.vlcs := rfl
@[simp] theorem updVi_cores (n : Nat) (f : Vi → Vi) (s : State) : (updVi n f s).cores = s.cores := rfl
@[simp] theorem updVi_vaults (n : Nat) (f : Vi → Vi) (s : State) : (updVi n f s).vaults = s.vaults := rfl
@[simp] theorem updVi_stackTbl (n : Nat) (f : Vi → Vi) (s : State) : (updVi n f s).stackTbl = s.stackTbl := rfl
@[simp] theorem updVi_net (n : Nat) (f : Vi → Vi) (s : State) : (updVi n f s).net = s.net := rfl
@[simp] theorem updVi_fills (n : Nat) (f : Vi → Vi) (s : State) : (updVi n f s).fills = s.fills := rfl
@[simp] theorem updVi_cmds (n : Nat) (f : Vi → Vi) (s : State) : (updVi n f s).cmds = s.cmds := rfl
@[simp] theorem updVi_locks (n : Nat) (f : Vi → Vi) (s : State) : (updVi n f s).locks = s.locks := rfl
@[simp] theorem updVi_ops (n : Nat) (f : Vi → Vi) (s : State) : (updVi n f s).ops = s.ops := rfl
@[simp] theorem updVi_launches (n : Nat) (f : Vi → Vi) (s : State) : (updVi n f s).launches = s.launches := rfl
@[simp] theorem updVi_hostq (n : Nat) (f : Vi → Vi) (s : State) : (updVi n f s).hostq = s.hostq := rfl
@[simp] theorem updVi_peerq (n : Nat) (f : Vi → Vi) (s : State) : (updVi n f s).peerq = s.peerq := rfl
@[simp] theorem updVi_inbound (n : Nat) (f : Vi → Vi) (s : State) : (updVi n f s).inbound = s.inbound := rfl
@[simp] theorem updVi_waits (n : Nat) (f : Vi → Vi) (s : State) : (updVi n f s).waits = s.waits := rfl
@[simp] theorem updVi_sched (n : Nat) (f : Vi → Vi) (s : State) : (updVi n f s).sched = s.sched := rfl
@[simp] theorem updVi_mgmt (n : Nat) (f : Vi → Vi) (s : State) : (updVi n f s).mgmt = s.mgmt := rfl
@[simp] theorem updVi_fabric (n : Nat) (f : Vi → Vi) (s : State) : (updVi n f s).fabric = s.fabric := rfl
@[simp] theorem updVi_repair (n : Nat) (f : Vi → Vi) (s : State) : (updVi n f s).repair = s.repair := rfl
@[simp] theorem updVi_out (n : Nat) (f : Vi → Vi) (s : State) : (updVi n f s).out = s.out := rfl

@[simp] theorem bump_agenda (s : State) : (bump s).agenda = s.agenda := rfl
@[simp] theorem bump_fresh (s : State) : (bump s).fresh = s.fresh := rfl
@[simp] theorem bump_cur (s : State) : (bump s).cur = s.cur := rfl
@[simp] theorem bump_curCmd (s : State) : (bump s).curCmd = s.curCmd := rfl
@[simp] theorem bump_cyc (s : State) : (bump s).cyc = s.cyc := rfl
@[simp] theorem bump_plat (s : State) : (bump s).plat = s.plat := rfl
@[simp] theorem bump_mem (s : State) : (bump s).mem = s.mem := rfl
@[simp] theorem bump_ecc (s : State) : (bump s).ecc = s.ecc := rfl
@[simp] theorem bump_comp (s : State) : (bump s).comp = s.comp := rfl
@[simp] theorem bump_tiles (s : State) : (bump s).tiles = s.tiles := rfl
@[simp] theorem bump_toks (s : State) : (bump s).toks = s.toks := rfl
@[simp] theorem bump_hands (s : State) : (bump s).hands = s.hands := rfl
@[simp] theorem bump_tlb (s : State) : (bump s).tlb = s.tlb := rfl
@[simp] theorem bump_vlcs (s : State) : (bump s).vlcs = s.vlcs := rfl
@[simp] theorem bump_cores (s : State) : (bump s).cores = s.cores := rfl
@[simp] theorem bump_vaults (s : State) : (bump s).vaults = s.vaults := rfl
@[simp] theorem bump_stackTbl (s : State) : (bump s).stackTbl = s.stackTbl := rfl
@[simp] theorem bump_net (s : State) : (bump s).net = s.net := rfl
@[simp] theorem bump_fills (s : State) : (bump s).fills = s.fills := rfl
@[simp] theorem bump_cmds (s : State) : (bump s).cmds = s.cmds := rfl
@[simp] theorem bump_locks (s : State) : (bump s).locks = s.locks := rfl
@[simp] theorem bump_ops (s : State) : (bump s).ops = s.ops := rfl
@[simp] theorem bump_vis (s : State) : (bump s).vis = s.vis := rfl
@[simp] theorem bump_launches (s : State) : (bump s).launches = s.launches := rfl
@[simp] theorem bump_hostq (s : State) : (bump s).hostq = s.hostq := rfl
@[simp] theorem bump_peerq (s : State) : (bump s).peerq = s.peerq := rfl
@[simp] theorem bump_inbound (s : State) : (bump s).inbound = s.inbound := rfl
@[simp] theorem bump_waits (s : State) : (bump s).waits = s.waits := rfl
@[simp] theorem bump_sched (s : State) : (bump s).sched = s.sched := rfl
@[simp] theorem bump_mgmt (s : State) : (bump s).mgmt = s.mgmt := rfl
@[simp] theorem bump_fabric (s : State) : (bump s).fabric = s.fabric := rfl
@[simp] theorem bump_repair (s : State) : (bump s).repair = s.repair := rfl
@[simp] theorem bump_out (s : State) : (bump s).out = s.out := rfl

@[simp] theorem putTok_agenda (n : Nat) (t : Tok) (s : State) : (putTok n t s).agenda = s.agenda := rfl
@[simp] theorem putTok_fresh (n : Nat) (t : Tok) (s : State) : (putTok n t s).fresh = s.fresh := rfl
@[simp] theorem putTok_nextId (n : Nat) (t : Tok) (s : State) : (putTok n t s).nextId = s.nextId := rfl
@[simp] theorem putTok_cur (n : Nat) (t : Tok) (s : State) : (putTok n t s).cur = s.cur := rfl
@[simp] theorem putTok_curCmd (n : Nat) (t : Tok) (s : State) : (putTok n t s).curCmd = s.curCmd := rfl
@[simp] theorem putTok_cyc (n : Nat) (t : Tok) (s : State) : (putTok n t s).cyc = s.cyc := rfl
@[simp] theorem putTok_plat (n : Nat) (t : Tok) (s : State) : (putTok n t s).plat = s.plat := rfl
@[simp] theorem putTok_mem (n : Nat) (t : Tok) (s : State) : (putTok n t s).mem = s.mem := rfl
@[simp] theorem putTok_ecc (n : Nat) (t : Tok) (s : State) : (putTok n t s).ecc = s.ecc := rfl
@[simp] theorem putTok_comp (n : Nat) (t : Tok) (s : State) : (putTok n t s).comp = s.comp := rfl
@[simp] theorem putTok_tiles (n : Nat) (t : Tok) (s : State) : (putTok n t s).tiles = s.tiles := rfl
@[simp] theorem putTok_hands (n : Nat) (t : Tok) (s : State) : (putTok n t s).hands = s.hands := rfl
@[simp] theorem putTok_tlb (n : Nat) (t : Tok) (s : State) : (putTok n t s).tlb = s.tlb := rfl
@[simp] theorem putTok_vlcs (n : Nat) (t : Tok) (s : State) : (putTok n t s).vlcs = s.vlcs := rfl
@[simp] theorem putTok_cores (n : Nat) (t : Tok) (s : State) : (putTok n t s).cores = s.cores := rfl
@[simp] theorem putTok_vaults (n : Nat) (t : Tok) (s : State) : (putTok n t s).vaults = s.vaults := rfl
@[simp] theorem putTok_stackTbl (n : Nat) (t : Tok) (s : State) : (putTok n t s).stackTbl = s.stackTbl := rfl
@[simp] theorem putTok_net (n : Nat) (t : Tok) (s : State) : (putTok n t s).net = s.net := rfl
@[simp] theorem putTok_fills (n : Nat) (t : Tok) (s : State) : (putTok n t s).fills = s.fills := rfl
@[simp] theorem putTok_cmds (n : Nat) (t : Tok) (s : State) : (putTok n t s).cmds = s.cmds := rfl
@[simp] theorem putTok_locks (n : Nat) (t : Tok) (s : State) : (putTok n t s).locks = s.locks := rfl
@[simp] theorem putTok_ops (n : Nat) (t : Tok) (s : State) : (putTok n t s).ops = s.ops := rfl
@[simp] theorem putTok_vis (n : Nat) (t : Tok) (s : State) : (putTok n t s).vis = s.vis := rfl
@[simp] theorem putTok_launches (n : Nat) (t : Tok) (s : State) : (putTok n t s).launches = s.launches := rfl
@[simp] theorem putTok_hostq (n : Nat) (t : Tok) (s : State) : (putTok n t s).hostq = s.hostq := rfl
@[simp] theorem putTok_peerq (n : Nat) (t : Tok) (s : State) : (putTok n t s).peerq = s.peerq := rfl
@[simp] theorem putTok_inbound (n : Nat) (t : Tok) (s : State) : (putTok n t s).inbound = s.inbound := rfl
@[simp] theorem putTok_waits (n : Nat) (t : Tok) (s : State) : (putTok n t s).waits = s.waits := rfl
@[simp] theorem putTok_sched (n : Nat) (t : Tok) (s : State) : (putTok n t s).sched = s.sched := rfl
@[simp] theorem putTok_mgmt (n : Nat) (t : Tok) (s : State) : (putTok n t s).mgmt = s.mgmt := rfl
@[simp] theorem putTok_fabric (n : Nat) (t : Tok) (s : State) : (putTok n t s).fabric = s.fabric := rfl
@[simp] theorem putTok_repair (n : Nat) (t : Tok) (s : State) : (putTok n t s).repair = s.repair := rfl
@[simp] theorem putTok_out (n : Nat) (t : Tok) (s : State) : (putTok n t s).out = s.out := rfl

@[simp] theorem setEcc_agenda (n : Nat) (e : Ecc) (s : State) : (setEcc n e s).agenda = s.agenda := rfl
@[simp] theorem setEcc_fresh (n : Nat) (e : Ecc) (s : State) : (setEcc n e s).fresh = s.fresh := rfl
@[simp] theorem setEcc_nextId (n : Nat) (e : Ecc) (s : State) : (setEcc n e s).nextId = s.nextId := rfl
@[simp] theorem setEcc_cur (n : Nat) (e : Ecc) (s : State) : (setEcc n e s).cur = s.cur := rfl
@[simp] theorem setEcc_curCmd (n : Nat) (e : Ecc) (s : State) : (setEcc n e s).curCmd = s.curCmd := rfl
@[simp] theorem setEcc_cyc (n : Nat) (e : Ecc) (s : State) : (setEcc n e s).cyc = s.cyc := rfl
@[simp] theorem setEcc_plat (n : Nat) (e : Ecc) (s : State) : (setEcc n e s).plat = s.plat := rfl
@[simp] theorem setEcc_mem (n : Nat) (e : Ecc) (s : State) : (setEcc n e s).mem = s.mem := rfl
@[simp] theorem setEcc_comp (n : Nat) (e : Ecc) (s : State) : (setEcc n e s).comp = s.comp := rfl
@[simp] theorem setEcc_tiles (n : Nat) (e : Ecc) (s : State) : (setEcc n e s).tiles = s.tiles := rfl
@[simp] theorem setEcc_toks (n : Nat) (e : Ecc) (s : State) : (setEcc n e s).toks = s.toks := rfl
@[simp] theorem setEcc_hands (n : Nat) (e : Ecc) (s : State) : (setEcc n e s).hands = s.hands := rfl
@[simp] theorem setEcc_tlb (n : Nat) (e : Ecc) (s : State) : (setEcc n e s).tlb = s.tlb := rfl
@[simp] theorem setEcc_vlcs (n : Nat) (e : Ecc) (s : State) : (setEcc n e s).vlcs = s.vlcs := rfl
@[simp] theorem setEcc_cores (n : Nat) (e : Ecc) (s : State) : (setEcc n e s).cores = s.cores := rfl
@[simp] theorem setEcc_vaults (n : Nat) (e : Ecc) (s : State) : (setEcc n e s).vaults = s.vaults := rfl
@[simp] theorem setEcc_stackTbl (n : Nat) (e : Ecc) (s : State) : (setEcc n e s).stackTbl = s.stackTbl := rfl
@[simp] theorem setEcc_net (n : Nat) (e : Ecc) (s : State) : (setEcc n e s).net = s.net := rfl
@[simp] theorem setEcc_fills (n : Nat) (e : Ecc) (s : State) : (setEcc n e s).fills = s.fills := rfl
@[simp] theorem setEcc_cmds (n : Nat) (e : Ecc) (s : State) : (setEcc n e s).cmds = s.cmds := rfl
@[simp] theorem setEcc_locks (n : Nat) (e : Ecc) (s : State) : (setEcc n e s).locks = s.locks := rfl
@[simp] theorem setEcc_ops (n : Nat) (e : Ecc) (s : State) : (setEcc n e s).ops = s.ops := rfl
@[simp] theorem setEcc_vis (n : Nat) (e : Ecc) (s : State) : (setEcc n e s).vis = s.vis := rfl
@[simp] theorem setEcc_launches (n : Nat) (e : Ecc) (s : State) : (setEcc n e s).launches = s.launches := rfl
@[simp] theorem setEcc_hostq (n : Nat) (e : Ecc) (s : State) : (setEcc n e s).hostq = s.hostq := rfl
@[simp] theorem setEcc_peerq (n : Nat) (e : Ecc) (s : State) : (setEcc n e s).peerq = s.peerq := rfl
@[simp] theorem setEcc_inbound (n : Nat) (e : Ecc) (s : State) : (setEcc n e s).inbound = s.inbound := rfl
@[simp] theorem setEcc_waits (n : Nat) (e : Ecc) (s : State) : (setEcc n e s).waits = s.waits := rfl
@[simp] theorem setEcc_sched (n : Nat) (e : Ecc) (s : State) : (setEcc n e s).sched = s.sched := rfl
@[simp] theorem setEcc_mgmt (n : Nat) (e : Ecc) (s : State) : (setEcc n e s).mgmt = s.mgmt := rfl
@[simp] theorem setEcc_fabric (n : Nat) (e : Ecc) (s : State) : (setEcc n e s).fabric = s.fabric := rfl
@[simp] theorem setEcc_repair (n : Nat) (e : Ecc) (s : State) : (setEcc n e s).repair = s.repair := rfl
@[simp] theorem setEcc_out (n : Nat) (e : Ecc) (s : State) : (setEcc n e s).out = s.out := rfl

@[simp] theorem useTile_agenda (n : Nat) (s : State) : (useTile n s).agenda = s.agenda := rfl
@[simp] theorem useTile_fresh (n : Nat) (s : State) : (useTile n s).fresh = s.fresh := rfl
@[simp] theorem useTile_nextId (n : Nat) (s : State) : (useTile n s).nextId = s.nextId := rfl
@[simp] theorem useTile_cur (n : Nat) (s : State) : (useTile n s).cur = s.cur := rfl
@[simp] theorem useTile_curCmd (n : Nat) (s : State) : (useTile n s).curCmd = s.curCmd := rfl
@[simp] theorem useTile_cyc (n : Nat) (s : State) : (useTile n s).cyc = s.cyc := rfl
@[simp] theorem useTile_plat (n : Nat) (s : State) : (useTile n s).plat = s.plat := rfl
@[simp] theorem useTile_mem (n : Nat) (s : State) : (useTile n s).mem = s.mem := rfl
@[simp] theorem useTile_ecc (n : Nat) (s : State) : (useTile n s).ecc = s.ecc := rfl
@[simp] theorem useTile_comp (n : Nat) (s : State) : (useTile n s).comp = s.comp := rfl
@[simp] theorem useTile_toks (n : Nat) (s : State) : (useTile n s).toks = s.toks := rfl
@[simp] theorem useTile_hands (n : Nat) (s : State) : (useTile n s).hands = s.hands := rfl
@[simp] theorem useTile_tlb (n : Nat) (s : State) : (useTile n s).tlb = s.tlb := rfl
@[simp] theorem useTile_vlcs (n : Nat) (s : State) : (useTile n s).vlcs = s.vlcs := rfl
@[simp] theorem useTile_cores (n : Nat) (s : State) : (useTile n s).cores = s.cores := rfl
@[simp] theorem useTile_vaults (n : Nat) (s : State) : (useTile n s).vaults = s.vaults := rfl
@[simp] theorem useTile_stackTbl (n : Nat) (s : State) : (useTile n s).stackTbl = s.stackTbl := rfl
@[simp] theorem useTile_net (n : Nat) (s : State) : (useTile n s).net = s.net := rfl
@[simp] theorem useTile_fills (n : Nat) (s : State) : (useTile n s).fills = s.fills := rfl
@[simp] theorem useTile_cmds (n : Nat) (s : State) : (useTile n s).cmds = s.cmds := rfl
@[simp] theorem useTile_locks (n : Nat) (s : State) : (useTile n s).locks = s.locks := rfl
@[simp] theorem useTile_ops (n : Nat) (s : State) : (useTile n s).ops = s.ops := rfl
@[simp] theorem useTile_vis (n : Nat) (s : State) : (useTile n s).vis = s.vis := rfl
@[simp] theorem useTile_launches (n : Nat) (s : State) : (useTile n s).launches = s.launches := rfl
@[simp] theorem useTile_hostq (n : Nat) (s : State) : (useTile n s).hostq = s.hostq := rfl
@[simp] theorem useTile_peerq (n : Nat) (s : State) : (useTile n s).peerq = s.peerq := rfl
@[simp] theorem useTile_inbound (n : Nat) (s : State) : (useTile n s).inbound = s.inbound := rfl
@[simp] theorem useTile_waits (n : Nat) (s : State) : (useTile n s).waits = s.waits := rfl
@[simp] theorem useTile_sched (n : Nat) (s : State) : (useTile n s).sched = s.sched := rfl
@[simp] theorem useTile_mgmt (n : Nat) (s : State) : (useTile n s).mgmt = s.mgmt := rfl
@[simp] theorem useTile_fabric (n : Nat) (s : State) : (useTile n s).fabric = s.fabric := rfl
@[simp] theorem useTile_repair (n : Nat) (s : State) : (useTile n s).repair = s.repair := rfl
@[simp] theorem useTile_out (n : Nat) (s : State) : (useTile n s).out = s.out := rfl

@[simp] theorem unuseTile_agenda (n : Nat) (s : State) : (unuseTile n s).agenda = s.agenda := rfl
@[simp] theorem unuseTile_fresh (n : Nat) (s : State) : (unuseTile n s).fresh = s.fresh := rfl
@[simp] theorem unuseTile_nextId (n : Nat) (s : State) : (unuseTile n s).nextId = s.nextId := rfl
@[simp] theorem unuseTile_cur (n : Nat) (s : State) : (unuseTile n s).cur = s.cur := rfl
@[simp] theorem unuseTile_curCmd (n : Nat) (s : State) : (unuseTile n s).curCmd = s.curCmd := rfl
@[simp] theorem unuseTile_cyc (n : Nat) (s : State) : (unuseTile n s).cyc = s.cyc := rfl
@[simp] theorem unuseTile_plat (n : Nat) (s : State) : (unuseTile n s).plat = s.plat := rfl
@[simp] theorem unuseTile_mem (n : Nat) (s : State) : (unuseTile n s).mem = s.mem := rfl
@[simp] theorem unuseTile_ecc (n : Nat) (s : State) : (unuseTile n s).ecc = s.ecc := rfl
@[simp] theorem unuseTile_comp (n : Nat) (s : State) : (unuseTile n s).comp = s.comp := rfl
@[simp] theorem unuseTile_toks (n : Nat) (s : State) : (unuseTile n s).toks = s.toks := rfl
@[simp] theorem unuseTile_hands (n : Nat) (s : State) : (unuseTile n s).hands = s.hands := rfl
@[simp] theorem unuseTile_tlb (n : Nat) (s : State) : (unuseTile n s).tlb = s.tlb := rfl
@[simp] theorem unuseTile_vlcs (n : Nat) (s : State) : (unuseTile n s).vlcs = s.vlcs := rfl
@[simp] theorem unuseTile_cores (n : Nat) (s : State) : (unuseTile n s).cores = s.cores := rfl
@[simp] theorem unuseTile_vaults (n : Nat) (s : State) : (unuseTile n s).vaults = s.vaults := rfl
@[simp] theorem unuseTile_stackTbl (n : Nat) (s : State) : (unuseTile n s).stackTbl = s.stackTbl := rfl
@[simp] theorem unuseTile_net (n : Nat) (s : State) : (unuseTile n s).net = s.net := rfl
@[simp] theorem unuseTile_fills (n : Nat) (s : State) : (unuseTile n s).fills = s.fills := rfl
@[simp] theorem unuseTile_cmds (n : Nat) (s : State) : (unuseTile n s).cmds = s.cmds := rfl
@[simp] theorem unuseTile_locks (n : Nat) (s : State) : (unuseTile n s).locks = s.locks := rfl
@[simp] theorem unuseTile_ops (n : Nat) (s : State) : (unuseTile n s).ops = s.ops := rfl
@[simp] theorem unuseTile_vis (n : Nat) (s : State) : (unuseTile n s).vis = s.vis := rfl
@[simp] theorem unuseTile_launches (n : Nat) (s : State) : (unuseTile n s).launches = s.launches := rfl
@[simp] theorem unuseTile_hostq (n : Nat) (s : State) : (unuseTile n s).hostq = s.hostq := rfl
@[simp] theorem unuseTile_peerq (n : Nat) (s : State) : (unuseTile n s).peerq = s.peerq := rfl
@[simp] theorem unuseTile_inbound (n : Nat) (s : State) : (unuseTile n s).inbound = s.inbound := rfl
@[simp] theorem unuseTile_waits (n : Nat) (s : State) : (unuseTile n s).waits = s.waits := rfl
@[simp] theorem unuseTile_sched (n : Nat) (s : State) : (unuseTile n s).sched = s.sched := rfl
@[simp] theorem unuseTile_mgmt (n : Nat) (s : State) : (unuseTile n s).mgmt = s.mgmt := rfl
@[simp] theorem unuseTile_fabric (n : Nat) (s : State) : (unuseTile n s).fabric = s.fabric := rfl
@[simp] theorem unuseTile_repair (n : Nat) (s : State) : (unuseTile n s).repair = s.repair := rfl
@[simp] theorem unuseTile_out (n : Nat) (s : State) : (unuseTile n s).out = s.out := rfl

@[simp] theorem updCmd_agenda (n : Nat) (f : Cmd → Cmd) (s : State) : (updCmd n f s).agenda = s.agenda := rfl
@[simp] theorem updCmd_fresh (n : Nat) (f : Cmd → Cmd) (s : State) : (updCmd n f s).fresh = s.fresh := rfl
@[simp] theorem updCmd_nextId (n : Nat) (f : Cmd → Cmd) (s : State) : (updCmd n f s).nextId = s.nextId := rfl
@[simp] theorem updCmd_cur (n : Nat) (f : Cmd → Cmd) (s : State) : (updCmd n f s).cur = s.cur := rfl
@[simp] theorem updCmd_curCmd (n : Nat) (f : Cmd → Cmd) (s : State) : (updCmd n f s).curCmd = s.curCmd := rfl
@[simp] theorem updCmd_cyc (n : Nat) (f : Cmd → Cmd) (s : State) : (updCmd n f s).cyc = s.cyc := rfl
@[simp] theorem updCmd_plat (n : Nat) (f : Cmd → Cmd) (s : State) : (updCmd n f s).plat = s.plat := rfl
@[simp] theorem updCmd_mem (n : Nat) (f : Cmd → Cmd) (s : State) : (updCmd n f s).mem = s.mem := rfl
@[simp] theorem updCmd_ecc (n : Nat) (f : Cmd → Cmd) (s : State) : (updCmd n f s).ecc = s.ecc := rfl
@[simp] theorem updCmd_comp (n : Nat) (f : Cmd → Cmd) (s : State) : (updCmd n f s).comp = s.comp := rfl
@[simp] theorem updCmd_tiles (n : Nat) (f : Cmd → Cmd) (s : State) : (updCmd n f s).tiles = s.tiles := rfl
@[simp] theorem updCmd_toks (n : Nat) (f : Cmd → Cmd) (s : State) : (updCmd n f s).toks = s.toks := rfl
@[simp] theorem updCmd_hands (n : Nat) (f : Cmd → Cmd) (s : State) : (updCmd n f s).hands = s.hands := rfl
@[simp] theorem updCmd_tlb (n : Nat) (f : Cmd → Cmd) (s : State) : (updCmd n f s).tlb = s.tlb := rfl
@[simp] theorem updCmd_vlcs (n : Nat) (f : Cmd → Cmd) (s : State) : (updCmd n f s).vlcs = s.vlcs := rfl
@[simp] theorem updCmd_cores (n : Nat) (f : Cmd → Cmd) (s : State) : (updCmd n f s).cores = s.cores := rfl
@[simp] theorem updCmd_vaults (n : Nat) (f : Cmd → Cmd) (s : State) : (updCmd n f s).vaults = s.vaults := rfl
@[simp] theorem updCmd_stackTbl (n : Nat) (f : Cmd → Cmd) (s : State) : (updCmd n f s).stackTbl = s.stackTbl := rfl
@[simp] theorem updCmd_net (n : Nat) (f : Cmd → Cmd) (s : State) : (updCmd n f s).net = s.net := rfl
@[simp] theorem updCmd_fills (n : Nat) (f : Cmd → Cmd) (s : State) : (updCmd n f s).fills = s.fills := rfl
@[simp] theorem updCmd_locks (n : Nat) (f : Cmd → Cmd) (s : State) : (updCmd n f s).locks = s.locks := rfl
@[simp] theorem updCmd_ops (n : Nat) (f : Cmd → Cmd) (s : State) : (updCmd n f s).ops = s.ops := rfl
@[simp] theorem updCmd_vis (n : Nat) (f : Cmd → Cmd) (s : State) : (updCmd n f s).vis = s.vis := rfl
@[simp] theorem updCmd_launches (n : Nat) (f : Cmd → Cmd) (s : State) : (updCmd n f s).launches = s.launches := rfl
@[simp] theorem updCmd_hostq (n : Nat) (f : Cmd → Cmd) (s : State) : (updCmd n f s).hostq = s.hostq := rfl
@[simp] theorem updCmd_peerq (n : Nat) (f : Cmd → Cmd) (s : State) : (updCmd n f s).peerq = s.peerq := rfl
@[simp] theorem updCmd_inbound (n : Nat) (f : Cmd → Cmd) (s : State) : (updCmd n f s).inbound = s.inbound := rfl
@[simp] theorem updCmd_waits (n : Nat) (f : Cmd → Cmd) (s : State) : (updCmd n f s).waits = s.waits := rfl
@[simp] theorem updCmd_sched (n : Nat) (f : Cmd → Cmd) (s : State) : (updCmd n f s).sched = s.sched := rfl
@[simp] theorem updCmd_mgmt (n : Nat) (f : Cmd → Cmd) (s : State) : (updCmd n f s).mgmt = s.mgmt := rfl
@[simp] theorem updCmd_fabric (n : Nat) (f : Cmd → Cmd) (s : State) : (updCmd n f s).fabric = s.fabric := rfl
@[simp] theorem updCmd_repair (n : Nat) (f : Cmd → Cmd) (s : State) : (updCmd n f s).repair = s.repair := rfl
@[simp] theorem updCmd_out (n : Nat) (f : Cmd → Cmd) (s : State) : (updCmd n f s).out = s.out := rfl

@[simp] theorem updOp_agenda (n : Nat) (f : Op → Op) (s : State) : (updOp n f s).agenda = s.agenda := rfl
@[simp] theorem updOp_fresh (n : Nat) (f : Op → Op) (s : State) : (updOp n f s).fresh = s.fresh := rfl
@[simp] theorem updOp_nextId (n : Nat) (f : Op → Op) (s : State) : (updOp n f s).nextId = s.nextId := rfl
@[simp] theorem updOp_cur (n : Nat) (f : Op → Op) (s : State) : (updOp n f s).cur = s.cur := rfl
@[simp] theorem updOp_curCmd (n : Nat) (f : Op → Op) (s : State) : (updOp n f s).curCmd = s.curCmd := rfl
@[simp] theorem updOp_cyc (n : Nat) (f : Op → Op) (s : State) : (updOp n f s).cyc = s.cyc := rfl
@[simp] theorem updOp_plat (n : Nat) (f : Op → Op) (s : State) : (updOp n f s).plat = s.plat := rfl
@[simp] theorem updOp_mem (n : Nat) (f : Op → Op) (s : State) : (updOp n f s).mem = s.mem := rfl
@[simp] theorem updOp_ecc (n : Nat) (f : Op → Op) (s : State) : (updOp n f s).ecc = s.ecc := rfl
@[simp] theorem updOp_comp (n : Nat) (f : Op → Op) (s : State) : (updOp n f s).comp = s.comp := rfl
@[simp] theorem updOp_tiles (n : Nat) (f : Op → Op) (s : State) : (updOp n f s).tiles = s.tiles := rfl
@[simp] theorem updOp_toks (n : Nat) (f : Op → Op) (s : State) : (updOp n f s).toks = s.toks := rfl
@[simp] theorem updOp_hands (n : Nat) (f : Op → Op) (s : State) : (updOp n f s).hands = s.hands := rfl
@[simp] theorem updOp_tlb (n : Nat) (f : Op → Op) (s : State) : (updOp n f s).tlb = s.tlb := rfl
@[simp] theorem updOp_vlcs (n : Nat) (f : Op → Op) (s : State) : (updOp n f s).vlcs = s.vlcs := rfl
@[simp] theorem updOp_cores (n : Nat) (f : Op → Op) (s : State) : (updOp n f s).cores = s.cores := rfl
@[simp] theorem updOp_vaults (n : Nat) (f : Op → Op) (s : State) : (updOp n f s).vaults = s.vaults := rfl
@[simp] theorem updOp_stackTbl (n : Nat) (f : Op → Op) (s : State) : (updOp n f s).stackTbl = s.stackTbl := rfl
@[simp] theorem updOp_net (n : Nat) (f : Op → Op) (s : State) : (updOp n f s).net = s.net := rfl
@[simp] theorem updOp_fills (n : Nat) (f : Op → Op) (s : State) : (updOp n f s).fills = s.fills := rfl
@[simp] theorem updOp_cmds (n : Nat) (f : Op → Op) (s : State) : (updOp n f s).cmds = s.cmds := rfl
@[simp] theorem updOp_locks (n : Nat) (f : Op → Op) (s : State) : (updOp n f s).locks = s.locks := rfl
@[simp] theorem updOp_vis (n : Nat) (f : Op → Op) (s : State) : (updOp n f s).vis = s.vis := rfl
@[simp] theorem updOp_launches (n : Nat) (f : Op → Op) (s : State) : (updOp n f s).launches = s.launches := rfl
@[simp] theorem updOp_hostq (n : Nat) (f : Op → Op) (s : State) : (updOp n f s).hostq = s.hostq := rfl
@[simp] theorem updOp_peerq (n : Nat) (f : Op → Op) (s : State) : (updOp n f s).peerq = s.peerq := rfl
@[simp] theorem updOp_inbound (n : Nat) (f : Op → Op) (s : State) : (updOp n f s).inbound = s.inbound := rfl
@[simp] theorem updOp_waits (n : Nat) (f : Op → Op) (s : State) : (updOp n f s).waits = s.waits := rfl
@[simp] theorem updOp_sched (n : Nat) (f : Op → Op) (s : State) : (updOp n f s).sched = s.sched := rfl
@[simp] theorem updOp_mgmt (n : Nat) (f : Op → Op) (s : State) : (updOp n f s).mgmt = s.mgmt := rfl
@[simp] theorem updOp_fabric (n : Nat) (f : Op → Op) (s : State) : (updOp n f s).fabric = s.fabric := rfl
@[simp] theorem updOp_repair (n : Nat) (f : Op → Op) (s : State) : (updOp n f s).repair = s.repair := rfl
@[simp] theorem updOp_out (n : Nat) (f : Op → Op) (s : State) : (updOp n f s).out = s.out := rfl

@[simp] theorem dropAcc_agenda (n : Nat) (s : State) : (dropAcc n s).agenda = s.agenda := rfl
@[simp] theorem dropAcc_fresh (n : Nat) (s : State) : (dropAcc n s).fresh = s.fresh := rfl
@[simp] theorem dropAcc_nextId (n : Nat) (s : State) : (dropAcc n s).nextId = s.nextId := rfl
@[simp] theorem dropAcc_cur (n : Nat) (s : State) : (dropAcc n s).cur = s.cur := rfl
@[simp] theorem dropAcc_curCmd (n : Nat) (s : State) : (dropAcc n s).curCmd = s.curCmd := rfl
@[simp] theorem dropAcc_cyc (n : Nat) (s : State) : (dropAcc n s).cyc = s.cyc := rfl
@[simp] theorem dropAcc_plat (n : Nat) (s : State) : (dropAcc n s).plat = s.plat := rfl
@[simp] theorem dropAcc_mem (n : Nat) (s : State) : (dropAcc n s).mem = s.mem := rfl
@[simp] theorem dropAcc_ecc (n : Nat) (s : State) : (dropAcc n s).ecc = s.ecc := rfl
@[simp] theorem dropAcc_comp (n : Nat) (s : State) : (dropAcc n s).comp = s.comp := rfl
@[simp] theorem dropAcc_tiles (n : Nat) (s : State) : (dropAcc n s).tiles = s.tiles := rfl
@[simp] theorem dropAcc_toks (n : Nat) (s : State) : (dropAcc n s).toks = s.toks := rfl
@[simp] theorem dropAcc_hands (n : Nat) (s : State) : (dropAcc n s).hands = s.hands := rfl
@[simp] theorem dropAcc_tlb (n : Nat) (s : State) : (dropAcc n s).tlb = s.tlb := rfl
@[simp] theorem dropAcc_vlcs (n : Nat) (s : State) : (dropAcc n s).vlcs = s.vlcs := rfl
@[simp] theorem dropAcc_cores (n : Nat) (s : State) : (dropAcc n s).cores = s.cores := rfl
@[simp] theorem dropAcc_vaults (n : Nat) (s : State) : (dropAcc n s).vaults = s.vaults := rfl
@[simp] theorem dropAcc_stackTbl (n : Nat) (s : State) : (dropAcc n s).stackTbl = s.stackTbl := rfl
@[simp] theorem dropAcc_fills (n : Nat) (s : State) : (dropAcc n s).fills = s.fills := rfl
@[simp] theorem dropAcc_cmds (n : Nat) (s : State) : (dropAcc n s).cmds = s.cmds := rfl
@[simp] theorem dropAcc_locks (n : Nat) (s : State) : (dropAcc n s).locks = s.locks := rfl
@[simp] theorem dropAcc_ops (n : Nat) (s : State) : (dropAcc n s).ops = s.ops := rfl
@[simp] theorem dropAcc_vis (n : Nat) (s : State) : (dropAcc n s).vis = s.vis := rfl
@[simp] theorem dropAcc_launches (n : Nat) (s : State) : (dropAcc n s).launches = s.launches := rfl
@[simp] theorem dropAcc_hostq (n : Nat) (s : State) : (dropAcc n s).hostq = s.hostq := rfl
@[simp] theorem dropAcc_peerq (n : Nat) (s : State) : (dropAcc n s).peerq = s.peerq := rfl
@[simp] theorem dropAcc_inbound (n : Nat) (s : State) : (dropAcc n s).inbound = s.inbound := rfl
@[simp] theorem dropAcc_waits (n : Nat) (s : State) : (dropAcc n s).waits = s.waits := rfl
@[simp] theorem dropAcc_sched (n : Nat) (s : State) : (dropAcc n s).sched = s.sched := rfl
@[simp] theorem dropAcc_mgmt (n : Nat) (s : State) : (dropAcc n s).mgmt = s.mgmt := rfl
@[simp] theorem dropAcc_fabric (n : Nat) (s : State) : (dropAcc n s).fabric = s.fabric := rfl
@[simp] theorem dropAcc_repair (n : Nat) (s : State) : (dropAcc n s).repair = s.repair := rfl
@[simp] theorem dropAcc_out (n : Nat) (s : State) : (dropAcc n s).out = s.out := rfl

@[simp] theorem advance_agenda (s : State) : (advance s).agenda = s.agenda := rfl
@[simp] theorem advance_fresh (s : State) : (advance s).fresh = s.fresh := rfl
@[simp] theorem advance_nextId (s : State) : (advance s).nextId = s.nextId := rfl
@[simp] theorem advance_cur (s : State) : (advance s).cur = s.cur := rfl
@[simp] theorem advance_curCmd (s : State) : (advance s).curCmd = s.curCmd := rfl
@[simp] theorem advance_cyc (s : State) : (advance s).cyc = s.cyc := rfl
@[simp] theorem advance_plat (s : State) : (advance s).plat = s.plat := rfl
@[simp] theorem advance_mem (s : State) : (advance s).mem = s.mem := rfl
@[simp] theorem advance_ecc (s : State) : (advance s).ecc = s.ecc := rfl
@[simp] theorem advance_comp (s : State) : (advance s).comp = s.comp := rfl
@[simp] theorem advance_tiles (s : State) : (advance s).tiles = s.tiles := rfl
@[simp] theorem advance_toks (s : State) : (advance s).toks = s.toks := rfl
@[simp] theorem advance_hands (s : State) : (advance s).hands = s.hands := rfl
@[simp] theorem advance_tlb (s : State) : (advance s).tlb = s.tlb := rfl
@[simp] theorem advance_cores (s : State) : (advance s).cores = s.cores := rfl
@[simp] theorem advance_vaults (s : State) : (advance s).vaults = s.vaults := rfl
@[simp] theorem advance_stackTbl (s : State) : (advance s).stackTbl = s.stackTbl := rfl
@[simp] theorem advance_net (s : State) : (advance s).net = s.net := rfl
@[simp] theorem advance_fills (s : State) : (advance s).fills = s.fills := rfl
@[simp] theorem advance_cmds (s : State) : (advance s).cmds = s.cmds := rfl
@[simp] theorem advance_locks (s : State) : (advance s).locks = s.locks := rfl
@[simp] theorem advance_ops (s : State) : (advance s).ops = s.ops := rfl
@[simp] theorem advance_vis (s : State) : (advance s).vis = s.vis := rfl
@[simp] theorem advance_launches (s : State) : (advance s).launches = s.launches := rfl
@[simp] theorem advance_hostq (s : State) : (advance s).hostq = s.hostq := rfl
@[simp] theorem advance_peerq (s : State) : (advance s).peerq = s.peerq := rfl
@[simp] theorem advance_inbound (s : State) : (advance s).inbound = s.inbound := rfl
@[simp] theorem advance_waits (s : State) : (advance s).waits = s.waits := rfl
@[simp] theorem advance_sched (s : State) : (advance s).sched = s.sched := rfl
@[simp] theorem advance_mgmt (s : State) : (advance s).mgmt = s.mgmt := rfl
@[simp] theorem advance_fabric (s : State) : (advance s).fabric = s.fabric := rfl
@[simp] theorem advance_repair (s : State) : (advance s).repair = s.repair := rfl
@[simp] theorem advance_out (s : State) : (advance s).out = s.out := rfl

@[simp] theorem finishX_agenda (n : Nat) (w : Word) (s : State) : (finishX n w s).agenda = s.agenda := rfl
@[simp] theorem finishX_fresh (n : Nat) (w : Word) (s : State) : (finishX n w s).fresh = s.fresh := rfl
@[simp] theorem finishX_nextId (n : Nat) (w : Word) (s : State) : (finishX n w s).nextId = s.nextId := rfl
@[simp] theorem finishX_cur (n : Nat) (w : Word) (s : State) : (finishX n w s).cur = s.cur := rfl
@[simp] theorem finishX_curCmd (n : Nat) (w : Word) (s : State) : (finishX n w s).curCmd = s.curCmd := rfl
@[simp] theorem finishX_cyc (n : Nat) (w : Word) (s : State) : (finishX n w s).cyc = s.cyc := rfl
@[simp] theorem finishX_plat (n : Nat) (w : Word) (s : State) : (finishX n w s).plat = s.plat := rfl
@[simp] theorem finishX_mem (n : Nat) (w : Word) (s : State) : (finishX n w s).mem = s.mem := rfl
@[simp] theorem finishX_ecc (n : Nat) (w : Word) (s : State) : (finishX n w s).ecc = s.ecc := rfl
@[simp] theorem finishX_comp (n : Nat) (w : Word) (s : State) : (finishX n w s).comp = s.comp := rfl
@[simp] theorem finishX_tiles (n : Nat) (w : Word) (s : State) : (finishX n w s).tiles = s.tiles := rfl
@[simp] theorem finishX_toks (n : Nat) (w : Word) (s : State) : (finishX n w s).toks = s.toks := rfl
@[simp] theorem finishX_hands (n : Nat) (w : Word) (s : State) : (finishX n w s).hands = s.hands := rfl
@[simp] theorem finishX_tlb (n : Nat) (w : Word) (s : State) : (finishX n w s).tlb = s.tlb := rfl
@[simp] theorem finishX_cores (n : Nat) (w : Word) (s : State) : (finishX n w s).cores = s.cores := rfl
@[simp] theorem finishX_vaults (n : Nat) (w : Word) (s : State) : (finishX n w s).vaults = s.vaults := rfl
@[simp] theorem finishX_stackTbl (n : Nat) (w : Word) (s : State) : (finishX n w s).stackTbl = s.stackTbl := rfl
@[simp] theorem finishX_net (n : Nat) (w : Word) (s : State) : (finishX n w s).net = s.net := rfl
@[simp] theorem finishX_fills (n : Nat) (w : Word) (s : State) : (finishX n w s).fills = s.fills := rfl
@[simp] theorem finishX_cmds (n : Nat) (w : Word) (s : State) : (finishX n w s).cmds = s.cmds := rfl
@[simp] theorem finishX_locks (n : Nat) (w : Word) (s : State) : (finishX n w s).locks = s.locks := rfl
@[simp] theorem finishX_ops (n : Nat) (w : Word) (s : State) : (finishX n w s).ops = s.ops := rfl
@[simp] theorem finishX_vis (n : Nat) (w : Word) (s : State) : (finishX n w s).vis = s.vis := rfl
@[simp] theorem finishX_launches (n : Nat) (w : Word) (s : State) : (finishX n w s).launches = s.launches := rfl
@[simp] theorem finishX_hostq (n : Nat) (w : Word) (s : State) : (finishX n w s).hostq = s.hostq := rfl
@[simp] theorem finishX_peerq (n : Nat) (w : Word) (s : State) : (finishX n w s).peerq = s.peerq := rfl
@[simp] theorem finishX_inbound (n : Nat) (w : Word) (s : State) : (finishX n w s).inbound = s.inbound := rfl
@[simp] theorem finishX_waits (n : Nat) (w : Word) (s : State) : (finishX n w s).waits = s.waits := rfl
@[simp] theorem finishX_sched (n : Nat) (w : Word) (s : State) : (finishX n w s).sched = s.sched := rfl
@[simp] theorem finishX_mgmt (n : Nat) (w : Word) (s : State) : (finishX n w s).mgmt = s.mgmt := rfl
@[simp] theorem finishX_fabric (n : Nat) (w : Word) (s : State) : (finishX n w s).fabric = s.fabric := rfl
@[simp] theorem finishX_repair (n : Nat) (w : Word) (s : State) : (finishX n w s).repair = s.repair := rfl
@[simp] theorem finishX_out (n : Nat) (w : Word) (s : State) : (finishX n w s).out = s.out := rfl

/-! ### Parts after each update -/

@[simp] theorem getVlc_updVlc_same (s : State) (n : Nat) (f : Vlc → Vlc) : getVlc (updVlc n f s) n = f (getVlc s n) := tget_tupd_same ..

theorem getVlc_updVlc_other (s : State) (f : Vlc → Vlc) {n m : Nat} (h : m ≠ n) : getVlc (updVlc n f s) m = getVlc s m := tget_tupd_other _ _ _ h

@[simp] theorem getCore_updCore_same (s : State) (n : Nat) (f : Core → Core) : getCore (updCore n f s) n = f (getCore s n) := tget_tupd_same ..

theorem getCore_updCore_other (s : State) (f : Core → Core) {n m : Nat} (h : m ≠ n) : getCore (updCore n f s) m = getCore s m := tget_tupd_other _ _ _ h

@[simp] theorem getVault_updVault_same (s : State) (n : Nat) (f : Vault → Vault) : getVault (updVault n f s) n = f (getVault s n) := tget_tupd_same ..

theorem getVault_updVault_other (s : State) (f : Vault → Vault) {n m : Nat} (h : m ≠ n) : getVault (updVault n f s) m = getVault s m := tget_tupd_other _ _ _ h

@[simp] theorem getStack_updStack_same (s : State) (n : Nat) (f : Stack → Stack) : getStack (updStack n f s) n = f (getStack s n) := tget_tupd_same ..

theorem getStack_updStack_other (s : State) (f : Stack → Stack) {n m : Nat} (h : m ≠ n) : getStack (updStack n f s) m = getStack s m := tget_tupd_other _ _ _ h

@[simp] theorem getVi_updVi_same (s : State) (n : Nat) (f : Vi → Vi) : getVi (updVi n f s) n = f (getVi s n) := tget_tupd_same ..

theorem getVi_updVi_other (s : State) (f : Vi → Vi) {n m : Nat} (h : m ≠ n) : getVi (updVi n f s) m = getVi s m := tget_tupd_other _ _ _ h

@[simp] theorem getVlc_updCore (n : Nat) (f : Core → Core) (s : State) (m : Nat) : getVlc (updCore n f s) m = getVlc s m := rfl
@[simp] theorem getVlc_updVault (n : Nat) (f : Vault → Vault) (s : State) (m : Nat) : getVlc (updVault n f s) m = getVlc s m := rfl
@[simp] theorem getVlc_updStack (n : Nat) (f : Stack → Stack) (s : State) (m : Nat) : getVlc (updStack n f s) m = getVlc s m := rfl
@[simp] theorem getVlc_updVi (n : Nat) (f : Vi → Vi) (s : State) (m : Nat) : getVlc (updVi n f s) m = getVlc s m := rfl
@[simp] theorem getVlc_bump (s : State) (m : Nat) : getVlc (bump s) m = getVlc s m := rfl
@[simp] theorem getVlc_putTok (n : Nat) (t : Tok) (s : State) (m : Nat) : getVlc (putTok n t s) m = getVlc s m := rfl
@[simp] theorem getVlc_setEcc (n : Nat) (e : Ecc) (s : State) (m : Nat) : getVlc (setEcc n e s) m = getVlc s m := rfl
@[simp] theorem getVlc_useTile (n : Nat) (s : State) (m : Nat) : getVlc (useTile n s) m = getVlc s m := rfl
@[simp] theorem getVlc_unuseTile (n : Nat) (s : State) (m : Nat) : getVlc (unuseTile n s) m = getVlc s m := rfl
@[simp] theorem getVlc_updCmd (n : Nat) (f : Cmd → Cmd) (s : State) (m : Nat) : getVlc (updCmd n f s) m = getVlc s m := rfl
@[simp] theorem getVlc_updOp (n : Nat) (f : Op → Op) (s : State) (m : Nat) : getVlc (updOp n f s) m = getVlc s m := rfl
@[simp] theorem getVlc_dropAcc (n : Nat) (s : State) (m : Nat) : getVlc (dropAcc n s) m = getVlc s m := rfl

@[simp] theorem getCore_updVlc (n : Nat) (f : Vlc → Vlc) (s : State) (m : Nat) : getCore (updVlc n f s) m = getCore s m := rfl
@[simp] theorem getCore_updMe (f : Vlc → Vlc) (s : State) (m : Nat) : getCore (updMe f s) m = getCore s m := rfl
@[simp] theorem getCore_updVault (n : Nat) (f : Vault → Vault) (s : State) (m : Nat) : getCore (updVault n f s) m = getCore s m := rfl
@[simp] theorem getCore_updStack (n : Nat) (f : Stack → Stack) (s : State) (m : Nat) : getCore (updStack n f s) m = getCore s m := rfl
@[simp] theorem getCore_updVi (n : Nat) (f : Vi → Vi) (s : State) (m : Nat) : getCore (updVi n f s) m = getCore s m := rfl
@[simp] theorem getCore_bump (s : State) (m : Nat) : getCore (bump s) m = getCore s m := rfl
@[simp] theorem getCore_putTok (n : Nat) (t : Tok) (s : State) (m : Nat) : getCore (putTok n t s) m = getCore s m := rfl
@[simp] theorem getCore_setEcc (n : Nat) (e : Ecc) (s : State) (m : Nat) : getCore (setEcc n e s) m = getCore s m := rfl
@[simp] theorem getCore_useTile (n : Nat) (s : State) (m : Nat) : getCore (useTile n s) m = getCore s m := rfl
@[simp] theorem getCore_unuseTile (n : Nat) (s : State) (m : Nat) : getCore (unuseTile n s) m = getCore s m := rfl
@[simp] theorem getCore_updCmd (n : Nat) (f : Cmd → Cmd) (s : State) (m : Nat) : getCore (updCmd n f s) m = getCore s m := rfl
@[simp] theorem getCore_updOp (n : Nat) (f : Op → Op) (s : State) (m : Nat) : getCore (updOp n f s) m = getCore s m := rfl
@[simp] theorem getCore_dropAcc (n : Nat) (s : State) (m : Nat) : getCore (dropAcc n s) m = getCore s m := rfl
@[simp] theorem getCore_advance (s : State) (m : Nat) : getCore (advance s) m = getCore s m := rfl
@[simp] theorem getCore_finishX (n : Nat) (w : Word) (s : State) (m : Nat) : getCore (finishX n w s) m = getCore s m := rfl

@[simp] theorem getVault_updVlc (n : Nat) (f : Vlc → Vlc) (s : State) (m : Nat) : getVault (updVlc n f s) m = getVault s m := rfl
@[simp] theorem getVault_updMe (f : Vlc → Vlc) (s : State) (m : Nat) : getVault (updMe f s) m = getVault s m := rfl
@[simp] theorem getVault_updCore (n : Nat) (f : Core → Core) (s : State) (m : Nat) : getVault (updCore n f s) m = getVault s m := rfl
@[simp] theorem getVault_updStack (n : Nat) (f : Stack → Stack) (s : State) (m : Nat) : getVault (updStack n f s) m = getVault s m := rfl
@[simp] theorem getVault_updVi (n : Nat) (f : Vi → Vi) (s : State) (m : Nat) : getVault (updVi n f s) m = getVault s m := rfl
@[simp] theorem getVault_bump (s : State) (m : Nat) : getVault (bump s) m = getVault s m := rfl
@[simp] theorem getVault_putTok (n : Nat) (t : Tok) (s : State) (m : Nat) : getVault (putTok n t s) m = getVault s m := rfl
@[simp] theorem getVault_setEcc (n : Nat) (e : Ecc) (s : State) (m : Nat) : getVault (setEcc n e s) m = getVault s m := rfl
@[simp] theorem getVault_useTile (n : Nat) (s : State) (m : Nat) : getVault (useTile n s) m = getVault s m := rfl
@[simp] theorem getVault_unuseTile (n : Nat) (s : State) (m : Nat) : getVault (unuseTile n s) m = getVault s m := rfl
@[simp] theorem getVault_updCmd (n : Nat) (f : Cmd → Cmd) (s : State) (m : Nat) : getVault (updCmd n f s) m = getVault s m := rfl
@[simp] theorem getVault_updOp (n : Nat) (f : Op → Op) (s : State) (m : Nat) : getVault (updOp n f s) m = getVault s m := rfl
@[simp] theorem getVault_dropAcc (n : Nat) (s : State) (m : Nat) : getVault (dropAcc n s) m = getVault s m := rfl
@[simp] theorem getVault_advance (s : State) (m : Nat) : getVault (advance s) m = getVault s m := rfl
@[simp] theorem getVault_finishX (n : Nat) (w : Word) (s : State) (m : Nat) : getVault (finishX n w s) m = getVault s m := rfl

@[simp] theorem getStack_updVlc (n : Nat) (f : Vlc → Vlc) (s : State) (m : Nat) : getStack (updVlc n f s) m = getStack s m := rfl
@[simp] theorem getStack_updMe (f : Vlc → Vlc) (s : State) (m : Nat) : getStack (updMe f s) m = getStack s m := rfl
@[simp] theorem getStack_updCore (n : Nat) (f : Core → Core) (s : State) (m : Nat) : getStack (updCore n f s) m = getStack s m := rfl
@[simp] theorem getStack_updVault (n : Nat) (f : Vault → Vault) (s : State) (m : Nat) : getStack (updVault n f s) m = getStack s m := rfl
@[simp] theorem getStack_updVi (n : Nat) (f : Vi → Vi) (s : State) (m : Nat) : getStack (updVi n f s) m = getStack s m := rfl
@[simp] theorem getStack_bump (s : State) (m : Nat) : getStack (bump s) m = getStack s m := rfl
@[simp] theorem getStack_putTok (n : Nat) (t : Tok) (s : State) (m : Nat) : getStack (putTok n t s) m = getStack s m := rfl
@[simp] theorem getStack_setEcc (n : Nat) (e : Ecc) (s : State) (m : Nat) : getStack (setEcc n e s) m = getStack s m := rfl
@[simp] theorem getStack_useTile (n : Nat) (s : State) (m : Nat) : getStack (useTile n s) m = getStack s m := rfl
@[simp] theorem getStack_unuseTile (n : Nat) (s : State) (m : Nat) : getStack (unuseTile n s) m = getStack s m := rfl
@[simp] theorem getStack_updCmd (n : Nat) (f : Cmd → Cmd) (s : State) (m : Nat) : getStack (updCmd n f s) m = getStack s m := rfl
@[simp] theorem getStack_updOp (n : Nat) (f : Op → Op) (s : State) (m : Nat) : getStack (updOp n f s) m = getStack s m := rfl
@[simp] theorem getStack_dropAcc (n : Nat) (s : State) (m : Nat) : getStack (dropAcc n s) m = getStack s m := rfl
@[simp] theorem getStack_advance (s : State) (m : Nat) : getStack (advance s) m = getStack s m := rfl
@[simp] theorem getStack_finishX (n : Nat) (w : Word) (s : State) (m : Nat) : getStack (finishX n w s) m = getStack s m := rfl

@[simp] theorem getVi_updVlc (n : Nat) (f : Vlc → Vlc) (s : State) (m : Nat) : getVi (updVlc n f s) m = getVi s m := rfl
@[simp] theorem getVi_updMe (f : Vlc → Vlc) (s : State) (m : Nat) : getVi (updMe f s) m = getVi s m := rfl
@[simp] theorem getVi_updCore (n : Nat) (f : Core → Core) (s : State) (m : Nat) : getVi (updCore n f s) m = getVi s m := rfl
@[simp] theorem getVi_updVault (n : Nat) (f : Vault → Vault) (s : State) (m : Nat) : getVi (updVault n f s) m = getVi s m := rfl
@[simp] theorem getVi_updStack (n : Nat) (f : Stack → Stack) (s : State) (m : Nat) : getVi (updStack n f s) m = getVi s m := rfl
@[simp] theorem getVi_bump (s : State) (m : Nat) : getVi (bump s) m = getVi s m := rfl
@[simp] theorem getVi_putTok (n : Nat) (t : Tok) (s : State) (m : Nat) : getVi (putTok n t s) m = getVi s m := rfl
@[simp] theorem getVi_setEcc (n : Nat) (e : Ecc) (s : State) (m : Nat) : getVi (setEcc n e s) m = getVi s m := rfl
@[simp] theorem getVi_useTile (n : Nat) (s : State) (m : Nat) : getVi (useTile n s) m = getVi s m := rfl
@[simp] theorem getVi_unuseTile (n : Nat) (s : State) (m : Nat) : getVi (unuseTile n s) m = getVi s m := rfl
@[simp] theorem getVi_updCmd (n : Nat) (f : Cmd → Cmd) (s : State) (m : Nat) : getVi (updCmd n f s) m = getVi s m := rfl
@[simp] theorem getVi_updOp (n : Nat) (f : Op → Op) (s : State) (m : Nat) : getVi (updOp n f s) m = getVi s m := rfl
@[simp] theorem getVi_dropAcc (n : Nat) (s : State) (m : Nat) : getVi (dropAcc n s) m = getVi s m := rfl
@[simp] theorem getVi_advance (s : State) (m : Nat) : getVi (advance s) m = getVi s m := rfl
@[simp] theorem getVi_finishX (n : Nat) (w : Word) (s : State) (m : Nat) : getVi (finishX n w s) m = getVi s m := rfl

@[simp] theorem me_updCore (n : Nat) (f : Core → Core) (s : State) : (updCore n f s).me = s.me := rfl
@[simp] theorem me_updVault (n : Nat) (f : Vault → Vault) (s : State) : (updVault n f s).me = s.me := rfl
@[simp] theorem me_updStack (n : Nat) (f : Stack → Stack) (s : State) : (updStack n f s).me = s.me := rfl
@[simp] theorem me_updVi (n : Nat) (f : Vi → Vi) (s : State) : (updVi n f s).me = s.me := rfl
@[simp] theorem me_bump (s : State) : (bump s).me = s.me := rfl
@[simp] theorem me_putTok (n : Nat) (t : Tok) (s : State) : (putTok n t s).me = s.me := rfl
@[simp] theorem me_setEcc (n : Nat) (e : Ecc) (s : State) : (setEcc n e s).me = s.me := rfl
@[simp] theorem me_useTile (n : Nat) (s : State) : (useTile n s).me = s.me := rfl
@[simp] theorem me_unuseTile (n : Nat) (s : State) : (unuseTile n s).me = s.me := rfl
@[simp] theorem me_updCmd (n : Nat) (f : Cmd → Cmd) (s : State) : (updCmd n f s).me = s.me := rfl
@[simp] theorem me_updOp (n : Nat) (f : Op → Op) (s : State) : (updOp n f s).me = s.me := rfl
@[simp] theorem me_dropAcc (n : Nat) (s : State) : (dropAcc n s).me = s.me := rfl

@[simp] theorem me_updMe (f : Vlc → Vlc) (s : State) : (updMe f s).me = f s.me := getVlc_updVlc_same ..

theorem getVlc_updMe_other (s : State) (f : Vlc → Vlc) {m : Nat} (h : m ≠ s.cur) : getVlc (updMe f s) m = getVlc s m := getVlc_updVlc_other s f h

/-- A token entry reads as it was put, and every other entry as before. -/
theorem tokAt_putTok (s : State) (k j : Nat) (t : Tok) : tokAt (putTok k t s) j = if j = k then t else tokAt s j := tget_tset ..

/-! ### x registers after each update (R165, R175) -/

theorem has_mark (m : BitVec 32) (r k : Nat) (b : Bool) (hr : r < 32) : has (mark m r b) k = if k = r then b else has m k := by
  have hb : (BitVec.ofNat 32 (2 ^ r)).getLsbD k = decide (k = r) := by
    rw [BitVec.getLsbD_ofNat, Nat.testBit_two_pow]
    by_cases h : k = r
    · subst h; simp [hr]
    · simp [h, Ne.symm h]
  unfold has mark
  cases b
  · simp only [Bool.false_eq_true, if_false, BitVec.getLsbD_and, BitVec.getLsbD_not, hb]
    by_cases h : k = r
    · simp [h]
    · by_cases hk : k < 32
      · simp [h, hk]
      · simp [h, hk, BitVec.getLsbD_of_ge m k (by omega)]
  · simp only [if_true, BitVec.getLsbD_or, hb]
    by_cases h : k = r <;> simp [h]

theorem rx_zero (v : Vlc) : v.rx 0 = 0 := rfl

/-- x0 stays 0; another register reads as it was written, and every other register as before. -/
theorem rx_wx (v : Vlc) (r k : Nat) (w : Word) : (v.wx r w).rx k = if k = r then (if r = 0 then 0 else w) else v.rx k := by
  unfold Vlc.wx Vlc.rx
  by_cases h : r = 0 <;> by_cases hk : k = 0 <;> by_cases he : k = r <;> simp_all [tget_tset]

theorem rx_fillX (v : Vlc) (r k : Nat) (w : Word) : (v.fillX r w).rx k = if k = r then (if r = 0 then 0 else w) else v.rx k := by
  unfold Vlc.fillX Vlc.rx
  by_cases h : r = 0 <;> by_cases hk : k = 0 <;> by_cases he : k = r <;> simp_all [tget_tset]

@[simp] theorem rx_drainX (v : Vlc) (r k : Nat) : (v.drainX r).rx k = v.rx k := by
  have h : (v.drainX r).x = v.x := by unfold Vlc.drainX; split <;> rfl
  unfold Vlc.rx; rw [h]

/-- A written register is full; no other register changes. -/
theorem isEmpty_wx (v : Vlc) (r k : Nat) (w : Word) (hr : r < 32) : (v.wx r w).isEmpty k = if k = r then false else v.isEmpty k := by
  unfold Vlc.wx Vlc.isEmpty
  by_cases h : r = 0
  · by_cases hk : k = 0 <;> simp_all
  · simp only [if_neg h, has_mark _ _ _ _ hr]; split <;> simp

theorem isEmpty_fillX (v : Vlc) (r k : Nat) (w : Word) (hr : r < 32) : (v.fillX r w).isEmpty k = if k = r then false else v.isEmpty k := by
  unfold Vlc.fillX Vlc.isEmpty
  by_cases h : r = 0
  · by_cases hk : k = 0 <;> simp_all
  · simp only [if_neg h, has_mark _ _ _ _ hr]; split <;> simp

theorem isPend_fillX (v : Vlc) (r k : Nat) (w : Word) (hr : r < 32) : (v.fillX r w).isPend k = if k = r then false else v.isPend k := by
  unfold Vlc.fillX Vlc.isPend
  by_cases h : r = 0
  · by_cases hk : k = 0 <;> simp_all
  · simp only [if_neg h, has_mark _ _ _ _ hr]; split <;> simp

/-- A register whose fill is to come is empty; x0 never is. -/
theorem isEmpty_drainX (v : Vlc) (r k : Nat) (hr : r < 32) : (v.drainX r).isEmpty k = if k = r then r != 0 else v.isEmpty k := by
  unfold Vlc.drainX Vlc.isEmpty
  by_cases h : r = 0
  · by_cases hk : k = 0 <;> simp_all
  · simp only [if_neg h, has_mark _ _ _ _ hr]; split <;> simp_all

theorem isPend_drainX (v : Vlc) (r k : Nat) (hr : r < 32) : (v.drainX r).isPend k = if k = r then r != 0 else v.isPend k := by
  unfold Vlc.drainX Vlc.isPend
  by_cases h : r = 0
  · by_cases hk : k = 0 <;> simp_all
  · simp only [if_neg h, has_mark _ _ _ _ hr]; split <;> simp_all

/-- Of a VLC, only these fields change when an x register is written, emptied or filled. -/
theorem wx_eq (v : Vlc) (r : Nat) (w : Word) : v.wx r w = { v with x := (v.wx r w).x, empty := (v.wx r w).empty } := by
  unfold Vlc.wx; split <;> rfl

theorem drainX_eq (v : Vlc) (r : Nat) : v.drainX r = { v with empty := (v.drainX r).empty, pend := (v.drainX r).pend } := by
  unfold Vlc.drainX; split <;> rfl

theorem fillX_eq (v : Vlc) (r : Nat) (w : Word) :
    v.fillX r w = { v with x := (v.fillX r w).x, empty := (v.fillX r w).empty, pend := (v.fillX r w).pend, event := true } := by
  unfold Vlc.fillX; split <;> rfl

@[simp] theorem wx_status (v : Vlc) (r : Nat) (w : Word) : (v.wx r w).status = v.status := by rw [wx_eq]
@[simp] theorem wx_vi (v : Vlc) (r : Nat) (w : Word) : (v.wx r w).vi = v.vi := by rw [wx_eq]
@[simp] theorem wx_seq (v : Vlc) (r : Nat) (w : Word) : (v.wx r w).seq = v.seq := by rw [wx_eq]
@[simp] theorem wx_slotNo (v : Vlc) (r : Nat) (w : Word) : (v.wx r w).slotNo = v.slotNo := by rw [wx_eq]
@[simp] theorem wx_agent (v : Vlc) (r : Nat) (w : Word) : (v.wx r w).agent = v.agent := by rw [wx_eq]
@[simp] theorem wx_savep (v : Vlc) (r : Nat) (w : Word) : (v.wx r w).savep = v.savep := by rw [wx_eq]
@[simp] theorem wx_msavep (v : Vlc) (r : Nat) (w : Word) : (v.wx r w).msavep = v.msavep := by rw [wx_eq]
@[simp] theorem wx_resident (v : Vlc) (r : Nat) (w : Word) : (v.wx r w).resident = v.resident := by rw [wx_eq]
@[simp] theorem wx_pc (v : Vlc) (r : Nat) (w : Word) : (v.wx r w).pc = v.pc := by rw [wx_eq]
@[simp] theorem wx_pend (v : Vlc) (r : Nat) (w : Word) : (v.wx r w).pend = v.pend := by rw [wx_eq]
@[simp] theorem wx_sc (v : Vlc) (r : Nat) (w : Word) : (v.wx r w).sc = v.sc := by rw [wx_eq]
@[simp] theorem wx_sb (v : Vlc) (r : Nat) (w : Word) : (v.wx r w).sb = v.sb := by rw [wx_eq]
@[simp] theorem wx_prc (v : Vlc) (r : Nat) (w : Word) : (v.wx r w).prc = v.prc := by rw [wx_eq]
@[simp] theorem wx_ckm (v : Vlc) (r : Nat) (w : Word) : (v.wx r w).ckm = v.ckm := by rw [wx_eq]
@[simp] theorem wx_vl (v : Vlc) (r : Nat) (w : Word) : (v.wx r w).vl = v.vl := by rw [wx_eq]
@[simp] theorem wx_vlGrant (v : Vlc) (r : Nat) (w : Word) : (v.wx r w).vlGrant = v.vlGrant := by rw [wx_eq]
@[simp] theorem wx_vcfg (v : Vlc) (r : Nat) (w : Word) : (v.wx r w).vcfg = v.vcfg := by rw [wx_eq]
@[simp] theorem wx_lanes (v : Vlc) (r : Nat) (w : Word) : (v.wx r w).lanes = v.lanes := by rw [wx_eq]
@[simp] theorem wx_sopen (v : Vlc) (r : Nat) (w : Word) : (v.wx r w).sopen = v.sopen := by rw [wx_eq]
@[simp] theorem wx_np (v : Vlc) (r : Nat) (w : Word) : (v.wx r w).np = v.np := by rw [wx_eq]
@[simp] theorem wx_sbfull (v : Vlc) (r : Nat) (w : Word) : (v.wx r w).sbfull = v.sbfull := by rw [wx_eq]
@[simp] theorem wx_devs (v : Vlc) (r : Nat) (w : Word) : (v.wx r w).devs = v.devs := by rw [wx_eq]
@[simp] theorem wx_estart (v : Vlc) (r : Nat) (w : Word) : (v.wx r w).estart = v.estart := by rw [wx_eq]
@[simp] theorem wx_ocdef (v : Vlc) (r : Nat) (w : Word) : (v.wx r w).ocdef = v.ocdef := by rw [wx_eq]
@[simp] theorem wx_rmode (v : Vlc) (r : Nat) (w : Word) : (v.wx r w).rmode = v.rmode := by rw [wx_eq]
@[simp] theorem wx_fflags (v : Vlc) (r : Nat) (w : Word) : (v.wx r w).fflags = v.fflags := by rw [wx_eq]
@[simp] theorem wx_smm (v : Vlc) (r : Nat) (w : Word) : (v.wx r w).smm = v.smm := by rw [wx_eq]
@[simp] theorem wx_tvec (v : Vlc) (r : Nat) (w : Word) : (v.wx r w).tvec = v.tvec := by rw [wx_eq]
@[simp] theorem wx_epc (v : Vlc) (r : Nat) (w : Word) : (v.wx r w).epc = v.epc := by rw [wx_eq]
@[simp] theorem wx_frec (v : Vlc) (r : Nat) (w : Word) : (v.wx r w).frec = v.frec := by rw [wx_eq]
@[simp] theorem wx_bpa (v : Vlc) (r : Nat) (w : Word) : (v.wx r w).bpa = v.bpa := by rw [wx_eq]
@[simp] theorem wx_scPend (v : Vlc) (r : Nat) (w : Word) : (v.wx r w).scPend = v.scPend := by rw [wx_eq]
@[simp] theorem wx_ckp (v : Vlc) (r : Nat) (w : Word) : (v.wx r w).ckp = v.ckp := by rw [wx_eq]
@[simp] theorem wx_ckmask (v : Vlc) (r : Nat) (w : Word) : (v.wx r w).ckmask = v.ckmask := by rw [wx_eq]
@[simp] theorem wx_spc (v : Vlc) (r : Nat) (w : Word) : (v.wx r w).spc = v.spc := by rw [wx_eq]
@[simp] theorem wx_cksb (v : Vlc) (r : Nat) (w : Word) : (v.wx r w).cksb = v.cksb := by rw [wx_eq]
@[simp] theorem wx_rwd (v : Vlc) (r : Nat) (w : Word) : (v.wx r w).rwd = v.rwd := by rw [wx_eq]
@[simp] theorem wx_rewind (v : Vlc) (r : Nat) (w : Word) : (v.wx r w).rewind = v.rewind := by rw [wx_eq]
@[simp] theorem wx_irrev (v : Vlc) (r : Nat) (w : Word) : (v.wx r w).irrev = v.irrev := by rw [wx_eq]
@[simp] theorem wx_event (v : Vlc) (r : Nat) (w : Word) : (v.wx r w).event = v.event := by rw [wx_eq]
@[simp] theorem wx_hnd (v : Vlc) (r : Nat) (w : Word) : (v.wx r w).hnd = v.hnd := by rw [wx_eq]
@[simp] theorem wx_hndAt (v : Vlc) (r : Nat) (w : Word) : (v.wx r w).hndAt = v.hndAt := by rw [wx_eq]
@[simp] theorem wx_brk (v : Vlc) (r : Nat) (w : Word) : (v.wx r w).brk = v.brk := by rw [wx_eq]
@[simp] theorem wx_bskip (v : Vlc) (r : Nat) (w : Word) : (v.wx r w).bskip = v.bskip := by rw [wx_eq]
@[simp] theorem wx_bskipPc (v : Vlc) (r : Nat) (w : Word) : (v.wx r w).bskipPc = v.bskipPc := by rw [wx_eq]
@[simp] theorem wx_feed (v : Vlc) (r : Nat) (w : Word) : (v.wx r w).feed = v.feed := by rw [wx_eq]
@[simp] theorem wx_feedStop (v : Vlc) (r : Nat) (w : Word) : (v.wx r w).feedStop = v.feedStop := by rw [wx_eq]
@[simp] theorem wx_sbuf (v : Vlc) (r : Nat) (w : Word) : (v.wx r w).sbuf = v.sbuf := by rw [wx_eq]
@[simp] theorem wx_held (v : Vlc) (r : Nat) (w : Word) : (v.wx r w).held = v.held := by rw [wx_eq]
@[simp] theorem wx_refetch (v : Vlc) (r : Nat) (w : Word) : (v.wx r w).refetch = v.refetch := by rw [wx_eq]
@[simp] theorem wx_marks (v : Vlc) (r : Nat) (w : Word) : (v.wx r w).marks = v.marks := by rw [wx_eq]
@[simp] theorem wx_wait (v : Vlc) (r : Nat) (w : Word) : (v.wx r w).wait = v.wait := by rw [wx_eq]
@[simp] theorem wx_sfault (v : Vlc) (r : Nat) (w : Word) : (v.wx r w).sfault = v.sfault := by rw [wx_eq]
@[simp] theorem wx_vfaults (v : Vlc) (r : Nat) (w : Word) : (v.wx r w).vfaults = v.vfaults := by rw [wx_eq]
@[simp] theorem wx_faults (v : Vlc) (r : Nat) (w : Word) : (v.wx r w).faults = v.faults := by rw [wx_eq]
@[simp] theorem wx_late (v : Vlc) (r : Nat) (w : Word) : (v.wx r w).late = v.late := by rw [wx_eq]
@[simp] theorem wx_flip (v : Vlc) (r : Nat) (w : Word) : (v.wx r w).flip = v.flip := by rw [wx_eq]
@[simp] theorem wx_ahead (v : Vlc) (r : Nat) (w : Word) : (v.wx r w).ahead = v.ahead := by rw [wx_eq]
@[simp] theorem wx_early (v : Vlc) (r : Nat) (w : Word) : (v.wx r w).early = v.early := by rw [wx_eq]
@[simp] theorem wx_fences (v : Vlc) (r : Nat) (w : Word) : (v.wx r w).fences = v.fences := by rw [wx_eq]
@[simp] theorem wx_v (v : Vlc) (r : Nat) (w : Word) : (v.wx r w).v = v.v := by rw [wx_eq]
@[simp] theorem wx_k (v : Vlc) (r : Nat) (w : Word) : (v.wx r w).k = v.k := by rw [wx_eq]
@[simp] theorem wx_gath (v : Vlc) (r : Nat) (w : Word) : (v.wx r w).gath = v.gath := by rw [wx_eq]
@[simp] theorem wx_vempty (v : Vlc) (r : Nat) (w : Word) : (v.wx r w).vempty = v.vempty := by rw [wx_eq]
@[simp] theorem wx_cost (v : Vlc) (r : Nat) (w : Word) : (v.wx r w).cost = v.cost := by rw [wx_eq]
@[simp] theorem wx_endRec (v : Vlc) (r : Nat) (w : Word) : (v.wx r w).endRec = v.endRec := by rw [wx_eq]
@[simp] theorem wx_mheld (v : Vlc) (r : Nat) (w : Word) : (v.wx r w).mheld = v.mheld := by rw [wx_eq]
@[simp] theorem wx_mpend (v : Vlc) (r : Nat) (w : Word) : (v.wx r w).mpend = v.mpend := by rw [wx_eq]
@[simp] theorem wx_grouped (v : Vlc) (r : Nat) (w : Word) : (v.wx r w).grouped = v.grouped := by rw [wx_eq]
@[simp] theorem wx_loaded (v : Vlc) (r : Nat) (w : Word) : (v.wx r w).loaded = v.loaded := by rw [wx_eq]
@[simp] theorem wx_recalled (v : Vlc) (r : Nat) (w : Word) : (v.wx r w).recalled = v.recalled := by rw [wx_eq]
@[simp] theorem wx_drainAt (v : Vlc) (r : Nat) (w : Word) : (v.wx r w).drainAt = v.drainAt := by rw [wx_eq]
@[simp] theorem wx_drainLong (v : Vlc) (r : Nat) (w : Word) : (v.wx r w).drainLong = v.drainLong := by rw [wx_eq]
@[simp] theorem wx_cmdEnd (v : Vlc) (r : Nat) (w : Word) : (v.wx r w).cmdEnd = v.cmdEnd := by rw [wx_eq]

@[simp] theorem drainX_status (v : Vlc) (r : Nat) : (v.drainX r).status = v.status := by rw [drainX_eq]
@[simp] theorem drainX_vi (v : Vlc) (r : Nat) : (v.drainX r).vi = v.vi := by rw [drainX_eq]
@[simp] theorem drainX_seq (v : Vlc) (r : Nat) : (v.drainX r).seq = v.seq := by rw [drainX_eq]
@[simp] theorem drainX_slotNo (v : Vlc) (r : Nat) : (v.drainX r).slotNo = v.slotNo := by rw [drainX_eq]
@[simp] theorem drainX_agent (v : Vlc) (r : Nat) : (v.drainX r).agent = v.agent := by rw [drainX_eq]
@[simp] theorem drainX_savep (v : Vlc) (r : Nat) : (v.drainX r).savep = v.savep := by rw [drainX_eq]
@[simp] theorem drainX_msavep (v : Vlc) (r : Nat) : (v.drainX r).msavep = v.msavep := by rw [drainX_eq]
@[simp] theorem drainX_resident (v : Vlc) (r : Nat) : (v.drainX r).resident = v.resident := by rw [drainX_eq]
@[simp] theorem drainX_pc (v : Vlc) (r : Nat) : (v.drainX r).pc = v.pc := by rw [drainX_eq]
@[simp] theorem drainX_x (v : Vlc) (r : Nat) : (v.drainX r).x = v.x := by rw [drainX_eq]
@[simp] theorem drainX_sc (v : Vlc) (r : Nat) : (v.drainX r).sc = v.sc := by rw [drainX_eq]
@[simp] theorem drainX_sb (v : Vlc) (r : Nat) : (v.drainX r).sb = v.sb := by rw [drainX_eq]
@[simp] theorem drainX_prc (v : Vlc) (r : Nat) : (v.drainX r).prc = v.prc := by rw [drainX_eq]
@[simp] theorem drainX_ckm (v : Vlc) (r : Nat) : (v.drainX r).ckm = v.ckm := by rw [drainX_eq]
@[simp] theorem drainX_vl (v : Vlc) (r : Nat) : (v.drainX r).vl = v.vl := by rw [drainX_eq]
@[simp] theorem drainX_vlGrant (v : Vlc) (r : Nat) : (v.drainX r).vlGrant = v.vlGrant := by rw [drainX_eq]
@[simp] theorem drainX_vcfg (v : Vlc) (r : Nat) : (v.drainX r).vcfg = v.vcfg := by rw [drainX_eq]
@[simp] theorem drainX_lanes (v : Vlc) (r : Nat) : (v.drainX r).lanes = v.lanes := by rw [drainX_eq]
@[simp] theorem drainX_sopen (v : Vlc) (r : Nat) : (v.drainX r).sopen = v.sopen := by rw [drainX_eq]
@[simp] theorem drainX_np (v : Vlc) (r : Nat) : (v.drainX r).np = v.np := by rw [drainX_eq]
@[simp] theorem drainX_sbfull (v : Vlc) (r : Nat) : (v.drainX r).sbfull = v.sbfull := by rw [drainX_eq]
@[simp] theorem drainX_devs (v : Vlc) (r : Nat) : (v.drainX r).devs = v.devs := by rw [drainX_eq]
@[simp] theorem drainX_estart (v : Vlc) (r : Nat) : (v.drainX r).estart = v.estart := by rw [drainX_eq]
@[simp] theorem drainX_ocdef (v : Vlc) (r : Nat) : (v.drainX r).ocdef = v.ocdef := by rw [drainX_eq]
@[simp] theorem drainX_rmode (v : Vlc) (r : Nat) : (v.drainX r).rmode = v.rmode := by rw [drainX_eq]
@[simp] theorem drainX_fflags (v : Vlc) (r : Nat) : (v.drainX r).fflags = v.fflags := by rw [drainX_eq]
@[simp] theorem drainX_smm (v : Vlc) (r : Nat) : (v.drainX r).smm = v.smm := by rw [drainX_eq]
@[simp] theorem drainX_tvec (v : Vlc) (r : Nat) : (v.drainX r).tvec = v.tvec := by rw [drainX_eq]
@[simp] theorem drainX_epc (v : Vlc) (r : Nat) : (v.drainX r).epc = v.epc := by rw [drainX_eq]
@[simp] theorem drainX_frec (v : Vlc) (r : Nat) : (v.drainX r).frec = v.frec := by rw [drainX_eq]
@[simp] theorem drainX_bpa (v : Vlc) (r : Nat) : (v.drainX r).bpa = v.bpa := by rw [drainX_eq]
@[simp] theorem drainX_scPend (v : Vlc) (r : Nat) : (v.drainX r).scPend = v.scPend := by rw [drainX_eq]
@[simp] theorem drainX_ckp (v : Vlc) (r : Nat) : (v.drainX r).ckp = v.ckp := by rw [drainX_eq]
@[simp] theorem drainX_ckmask (v : Vlc) (r : Nat) : (v.drainX r).ckmask = v.ckmask := by rw [drainX_eq]
@[simp] theorem drainX_spc (v : Vlc) (r : Nat) : (v.drainX r).spc = v.spc := by rw [drainX_eq]
@[simp] theorem drainX_cksb (v : Vlc) (r : Nat) : (v.drainX r).cksb = v.cksb := by rw [drainX_eq]
@[simp] theorem drainX_rwd (v : Vlc) (r : Nat) : (v.drainX r).rwd = v.rwd := by rw [drainX_eq]
@[simp] theorem drainX_rewind (v : Vlc) (r : Nat) : (v.drainX r).rewind = v.rewind := by rw [drainX_eq]
@[simp] theorem drainX_irrev (v : Vlc) (r : Nat) : (v.drainX r).irrev = v.irrev := by rw [drainX_eq]
@[simp] theorem drainX_event (v : Vlc) (r : Nat) : (v.drainX r).event = v.event := by rw [drainX_eq]
@[simp] theorem drainX_hnd (v : Vlc) (r : Nat) : (v.drainX r).hnd = v.hnd := by rw [drainX_eq]
@[simp] theorem drainX_hndAt (v : Vlc) (r : Nat) : (v.drainX r).hndAt = v.hndAt := by rw [drainX_eq]
@[simp] theorem drainX_brk (v : Vlc) (r : Nat) : (v.drainX r).brk = v.brk := by rw [drainX_eq]
@[simp] theorem drainX_bskip (v : Vlc) (r : Nat) : (v.drainX r).bskip = v.bskip := by rw [drainX_eq]
@[simp] theorem drainX_bskipPc (v : Vlc) (r : Nat) : (v.drainX r).bskipPc = v.bskipPc := by rw [drainX_eq]
@[simp] theorem drainX_feed (v : Vlc) (r : Nat) : (v.drainX r).feed = v.feed := by rw [drainX_eq]
@[simp] theorem drainX_feedStop (v : Vlc) (r : Nat) : (v.drainX r).feedStop = v.feedStop := by rw [drainX_eq]
@[simp] theorem drainX_sbuf (v : Vlc) (r : Nat) : (v.drainX r).sbuf = v.sbuf := by rw [drainX_eq]
@[simp] theorem drainX_held (v : Vlc) (r : Nat) : (v.drainX r).held = v.held := by rw [drainX_eq]
@[simp] theorem drainX_refetch (v : Vlc) (r : Nat) : (v.drainX r).refetch = v.refetch := by rw [drainX_eq]
@[simp] theorem drainX_marks (v : Vlc) (r : Nat) : (v.drainX r).marks = v.marks := by rw [drainX_eq]
@[simp] theorem drainX_wait (v : Vlc) (r : Nat) : (v.drainX r).wait = v.wait := by rw [drainX_eq]
@[simp] theorem drainX_sfault (v : Vlc) (r : Nat) : (v.drainX r).sfault = v.sfault := by rw [drainX_eq]
@[simp] theorem drainX_vfaults (v : Vlc) (r : Nat) : (v.drainX r).vfaults = v.vfaults := by rw [drainX_eq]
@[simp] theorem drainX_faults (v : Vlc) (r : Nat) : (v.drainX r).faults = v.faults := by rw [drainX_eq]
@[simp] theorem drainX_late (v : Vlc) (r : Nat) : (v.drainX r).late = v.late := by rw [drainX_eq]
@[simp] theorem drainX_flip (v : Vlc) (r : Nat) : (v.drainX r).flip = v.flip := by rw [drainX_eq]
@[simp] theorem drainX_ahead (v : Vlc) (r : Nat) : (v.drainX r).ahead = v.ahead := by rw [drainX_eq]
@[simp] theorem drainX_early (v : Vlc) (r : Nat) : (v.drainX r).early = v.early := by rw [drainX_eq]
@[simp] theorem drainX_fences (v : Vlc) (r : Nat) : (v.drainX r).fences = v.fences := by rw [drainX_eq]
@[simp] theorem drainX_v (v : Vlc) (r : Nat) : (v.drainX r).v = v.v := by rw [drainX_eq]
@[simp] theorem drainX_k (v : Vlc) (r : Nat) : (v.drainX r).k = v.k := by rw [drainX_eq]
@[simp] theorem drainX_gath (v : Vlc) (r : Nat) : (v.drainX r).gath = v.gath := by rw [drainX_eq]
@[simp] theorem drainX_vempty (v : Vlc) (r : Nat) : (v.drainX r).vempty = v.vempty := by rw [drainX_eq]
@[simp] theorem drainX_cost (v : Vlc) (r : Nat) : (v.drainX r).cost = v.cost := by rw [drainX_eq]
@[simp] theorem drainX_endRec (v : Vlc) (r : Nat) : (v.drainX r).endRec = v.endRec := by rw [drainX_eq]
@[simp] theorem drainX_mheld (v : Vlc) (r : Nat) : (v.drainX r).mheld = v.mheld := by rw [drainX_eq]
@[simp] theorem drainX_mpend (v : Vlc) (r : Nat) : (v.drainX r).mpend = v.mpend := by rw [drainX_eq]
@[simp] theorem drainX_grouped (v : Vlc) (r : Nat) : (v.drainX r).grouped = v.grouped := by rw [drainX_eq]
@[simp] theorem drainX_loaded (v : Vlc) (r : Nat) : (v.drainX r).loaded = v.loaded := by rw [drainX_eq]
@[simp] theorem drainX_recalled (v : Vlc) (r : Nat) : (v.drainX r).recalled = v.recalled := by rw [drainX_eq]
@[simp] theorem drainX_drainAt (v : Vlc) (r : Nat) : (v.drainX r).drainAt = v.drainAt := by rw [drainX_eq]
@[simp] theorem drainX_drainLong (v : Vlc) (r : Nat) : (v.drainX r).drainLong = v.drainLong := by rw [drainX_eq]
@[simp] theorem drainX_cmdEnd (v : Vlc) (r : Nat) : (v.drainX r).cmdEnd = v.cmdEnd := by rw [drainX_eq]

@[simp] theorem fillX_status (v : Vlc) (r : Nat) (w : Word) : (v.fillX r w).status = v.status := by rw [fillX_eq]
@[simp] theorem fillX_vi (v : Vlc) (r : Nat) (w : Word) : (v.fillX r w).vi = v.vi := by rw [fillX_eq]
@[simp] theorem fillX_seq (v : Vlc) (r : Nat) (w : Word) : (v.fillX r w).seq = v.seq := by rw [fillX_eq]
@[simp] theorem fillX_slotNo (v : Vlc) (r : Nat) (w : Word) : (v.fillX r w).slotNo = v.slotNo := by rw [fillX_eq]
@[simp] theorem fillX_agent (v : Vlc) (r : Nat) (w : Word) : (v.fillX r w).agent = v.agent := by rw [fillX_eq]
@[simp] theorem fillX_savep (v : Vlc) (r : Nat) (w : Word) : (v.fillX r w).savep = v.savep := by rw [fillX_eq]
@[simp] theorem fillX_msavep (v : Vlc) (r : Nat) (w : Word) : (v.fillX r w).msavep = v.msavep := by rw [fillX_eq]
@[simp] theorem fillX_resident (v : Vlc) (r : Nat) (w : Word) : (v.fillX r w).resident = v.resident := by rw [fillX_eq]
@[simp] theorem fillX_pc (v : Vlc) (r : Nat) (w : Word) : (v.fillX r w).pc = v.pc := by rw [fillX_eq]
@[simp] theorem fillX_sc (v : Vlc) (r : Nat) (w : Word) : (v.fillX r w).sc = v.sc := by rw [fillX_eq]
@[simp] theorem fillX_sb (v : Vlc) (r : Nat) (w : Word) : (v.fillX r w).sb = v.sb := by rw [fillX_eq]
@[simp] theorem fillX_prc (v : Vlc) (r : Nat) (w : Word) : (v.fillX r w).prc = v.prc := by rw [fillX_eq]
@[simp] theorem fillX_ckm (v : Vlc) (r : Nat) (w : Word) : (v.fillX r w).ckm = v.ckm := by rw [fillX_eq]
@[simp] theorem fillX_vl (v : Vlc) (r : Nat) (w : Word) : (v.fillX r w).vl = v.vl := by rw [fillX_eq]
@[simp] theorem fillX_vlGrant (v : Vlc) (r : Nat) (w : Word) : (v.fillX r w).vlGrant = v.vlGrant := by rw [fillX_eq]
@[simp] theorem fillX_vcfg (v : Vlc) (r : Nat) (w : Word) : (v.fillX r w).vcfg = v.vcfg := by rw [fillX_eq]
@[simp] theorem fillX_lanes (v : Vlc) (r : Nat) (w : Word) : (v.fillX r w).lanes = v.lanes := by rw [fillX_eq]
@[simp] theorem fillX_sopen (v : Vlc) (r : Nat) (w : Word) : (v.fillX r w).sopen = v.sopen := by rw [fillX_eq]
@[simp] theorem fillX_np (v : Vlc) (r : Nat) (w : Word) : (v.fillX r w).np = v.np := by rw [fillX_eq]
@[simp] theorem fillX_sbfull (v : Vlc) (r : Nat) (w : Word) : (v.fillX r w).sbfull = v.sbfull := by rw [fillX_eq]
@[simp] theorem fillX_devs (v : Vlc) (r : Nat) (w : Word) : (v.fillX r w).devs = v.devs := by rw [fillX_eq]
@[simp] theorem fillX_estart (v : Vlc) (r : Nat) (w : Word) : (v.fillX r w).estart = v.estart := by rw [fillX_eq]
@[simp] theorem fillX_ocdef (v : Vlc) (r : Nat) (w : Word) : (v.fillX r w).ocdef = v.ocdef := by rw [fillX_eq]
@[simp] theorem fillX_rmode (v : Vlc) (r : Nat) (w : Word) : (v.fillX r w).rmode = v.rmode := by rw [fillX_eq]
@[simp] theorem fillX_fflags (v : Vlc) (r : Nat) (w : Word) : (v.fillX r w).fflags = v.fflags := by rw [fillX_eq]
@[simp] theorem fillX_smm (v : Vlc) (r : Nat) (w : Word) : (v.fillX r w).smm = v.smm := by rw [fillX_eq]
@[simp] theorem fillX_tvec (v : Vlc) (r : Nat) (w : Word) : (v.fillX r w).tvec = v.tvec := by rw [fillX_eq]
@[simp] theorem fillX_epc (v : Vlc) (r : Nat) (w : Word) : (v.fillX r w).epc = v.epc := by rw [fillX_eq]
@[simp] theorem fillX_frec (v : Vlc) (r : Nat) (w : Word) : (v.fillX r w).frec = v.frec := by rw [fillX_eq]
@[simp] theorem fillX_bpa (v : Vlc) (r : Nat) (w : Word) : (v.fillX r w).bpa = v.bpa := by rw [fillX_eq]
@[simp] theorem fillX_scPend (v : Vlc) (r : Nat) (w : Word) : (v.fillX r w).scPend = v.scPend := by rw [fillX_eq]
@[simp] theorem fillX_ckp (v : Vlc) (r : Nat) (w : Word) : (v.fillX r w).ckp = v.ckp := by rw [fillX_eq]
@[simp] theorem fillX_ckmask (v : Vlc) (r : Nat) (w : Word) : (v.fillX r w).ckmask = v.ckmask := by rw [fillX_eq]
@[simp] theorem fillX_spc (v : Vlc) (r : Nat) (w : Word) : (v.fillX r w).spc = v.spc := by rw [fillX_eq]
@[simp] theorem fillX_cksb (v : Vlc) (r : Nat) (w : Word) : (v.fillX r w).cksb = v.cksb := by rw [fillX_eq]
@[simp] theorem fillX_rwd (v : Vlc) (r : Nat) (w : Word) : (v.fillX r w).rwd = v.rwd := by rw [fillX_eq]
@[simp] theorem fillX_rewind (v : Vlc) (r : Nat) (w : Word) : (v.fillX r w).rewind = v.rewind := by rw [fillX_eq]
@[simp] theorem fillX_irrev (v : Vlc) (r : Nat) (w : Word) : (v.fillX r w).irrev = v.irrev := by rw [fillX_eq]
@[simp] theorem fillX_hnd (v : Vlc) (r : Nat) (w : Word) : (v.fillX r w).hnd = v.hnd := by rw [fillX_eq]
@[simp] theorem fillX_hndAt (v : Vlc) (r : Nat) (w : Word) : (v.fillX r w).hndAt = v.hndAt := by rw [fillX_eq]
@[simp] theorem fillX_brk (v : Vlc) (r : Nat) (w : Word) : (v.fillX r w).brk = v.brk := by rw [fillX_eq]
@[simp] theorem fillX_bskip (v : Vlc) (r : Nat) (w : Word) : (v.fillX r w).bskip = v.bskip := by rw [fillX_eq]
@[simp] theorem fillX_bskipPc (v : Vlc) (r : Nat) (w : Word) : (v.fillX r w).bskipPc = v.bskipPc := by rw [fillX_eq]
@[simp] theorem fillX_feed (v : Vlc) (r : Nat) (w : Word) : (v.fillX r w).feed = v.feed := by rw [fillX_eq]
@[simp] theorem fillX_feedStop (v : Vlc) (r : Nat) (w : Word) : (v.fillX r w).feedStop = v.feedStop := by rw [fillX_eq]
@[simp] theorem fillX_sbuf (v : Vlc) (r : Nat) (w : Word) : (v.fillX r w).sbuf = v.sbuf := by rw [fillX_eq]
@[simp] theorem fillX_held (v : Vlc) (r : Nat) (w : Word) : (v.fillX r w).held = v.held := by rw [fillX_eq]
@[simp] theorem fillX_refetch (v : Vlc) (r : Nat) (w : Word) : (v.fillX r w).refetch = v.refetch := by rw [fillX_eq]
@[simp] theorem fillX_marks (v : Vlc) (r : Nat) (w : Word) : (v.fillX r w).marks = v.marks := by rw [fillX_eq]
@[simp] theorem fillX_wait (v : Vlc) (r : Nat) (w : Word) : (v.fillX r w).wait = v.wait := by rw [fillX_eq]
@[simp] theorem fillX_sfault (v : Vlc) (r : Nat) (w : Word) : (v.fillX r w).sfault = v.sfault := by rw [fillX_eq]
@[simp] theorem fillX_vfaults (v : Vlc) (r : Nat) (w : Word) : (v.fillX r w).vfaults = v.vfaults := by rw [fillX_eq]
@[simp] theorem fillX_faults (v : Vlc) (r : Nat) (w : Word) : (v.fillX r w).faults = v.faults := by rw [fillX_eq]
@[simp] theorem fillX_late (v : Vlc) (r : Nat) (w : Word) : (v.fillX r w).late = v.late := by rw [fillX_eq]
@[simp] theorem fillX_flip (v : Vlc) (r : Nat) (w : Word) : (v.fillX r w).flip = v.flip := by rw [fillX_eq]
@[simp] theorem fillX_ahead (v : Vlc) (r : Nat) (w : Word) : (v.fillX r w).ahead = v.ahead := by rw [fillX_eq]
@[simp] theorem fillX_early (v : Vlc) (r : Nat) (w : Word) : (v.fillX r w).early = v.early := by rw [fillX_eq]
@[simp] theorem fillX_fences (v : Vlc) (r : Nat) (w : Word) : (v.fillX r w).fences = v.fences := by rw [fillX_eq]
@[simp] theorem fillX_v (v : Vlc) (r : Nat) (w : Word) : (v.fillX r w).v = v.v := by rw [fillX_eq]
@[simp] theorem fillX_k (v : Vlc) (r : Nat) (w : Word) : (v.fillX r w).k = v.k := by rw [fillX_eq]
@[simp] theorem fillX_gath (v : Vlc) (r : Nat) (w : Word) : (v.fillX r w).gath = v.gath := by rw [fillX_eq]
@[simp] theorem fillX_vempty (v : Vlc) (r : Nat) (w : Word) : (v.fillX r w).vempty = v.vempty := by rw [fillX_eq]
@[simp] theorem fillX_cost (v : Vlc) (r : Nat) (w : Word) : (v.fillX r w).cost = v.cost := by rw [fillX_eq]
@[simp] theorem fillX_endRec (v : Vlc) (r : Nat) (w : Word) : (v.fillX r w).endRec = v.endRec := by rw [fillX_eq]
@[simp] theorem fillX_mheld (v : Vlc) (r : Nat) (w : Word) : (v.fillX r w).mheld = v.mheld := by rw [fillX_eq]
@[simp] theorem fillX_mpend (v : Vlc) (r : Nat) (w : Word) : (v.fillX r w).mpend = v.mpend := by rw [fillX_eq]
@[simp] theorem fillX_grouped (v : Vlc) (r : Nat) (w : Word) : (v.fillX r w).grouped = v.grouped := by rw [fillX_eq]
@[simp] theorem fillX_loaded (v : Vlc) (r : Nat) (w : Word) : (v.fillX r w).loaded = v.loaded := by rw [fillX_eq]
@[simp] theorem fillX_recalled (v : Vlc) (r : Nat) (w : Word) : (v.fillX r w).recalled = v.recalled := by rw [fillX_eq]
@[simp] theorem fillX_drainAt (v : Vlc) (r : Nat) (w : Word) : (v.fillX r w).drainAt = v.drainAt := by rw [fillX_eq]
@[simp] theorem fillX_drainLong (v : Vlc) (r : Nat) (w : Word) : (v.fillX r w).drainLong = v.drainLong := by rw [fillX_eq]
@[simp] theorem fillX_cmdEnd (v : Vlc) (r : Nat) (w : Word) : (v.fillX r w).cmdEnd = v.cmdEnd := by rw [fillX_eq]

end Sys2Proof.Machine
end

