-- ==== Sys2Proof/Laws/Ops.lean ====
section
/-! SUPPORT. What each shared operation of scalar words can do: issue, the end of a word, faults, the trap and the return from it. -/
namespace Sys2Proof.Machine

/-! ### Issue (R61, R154, R175, R359) -/

/-- What `issue` can do: nothing, ILLEGAL, FE_EMPTY for a source, or the word's own effect. -/
theorem issue_cases (ill : State → Bool) (srcs : List Src) (dst : Nat) (k : State → State) (s : State) :
    issue ill srcs dst k s = s ∨ (s.me.ready = true ∧ ill s = true ∧ issue ill srcs dst k s = raiseIllegal s) ∨
    (s.me.ready = true ∧ ill s = false ∧ ∃ r ∈ srcs, s.me.isEmpty r.1 = true ∧ r.2 = true ∧
      issue ill srcs dst k s = raiseAt { code := cFE_EMPTY, origin := s.me.pc.toNat, reg := r.1 } s.me.pc.toNat s) ∨
    (s.me.ready = true ∧ ill s = false ∧ (∀ r ∈ srcs, s.me.isEmpty r.1 = false) ∧ s.me.isPend dst = false ∧ issue ill srcs dst k s = k s) := by
  unfold issue
  by_cases hr : s.me.ready = true
  · by_cases hi : ill s = true
    · simp [hr, hi]
    · simp only [hr, hi, Bool.not_true, Bool.false_eq_true, if_false, withSources]
      split
      · rename_i r h
        have h1 := List.find?_some h
        simp only [Bool.and_eq_true] at h1
        exact .inr (.inr (.inl ⟨trivial, trivial, r, List.mem_of_find?_eq_some h, h1.1, h1.2, rfl⟩))
      · by_cases hw : (srcs.any (fun r => s.me.isEmpty r.1) || s.me.isPend dst) = true
        · simp [hw]
        · simp only [hw, Bool.false_eq_true, if_false]
          simp only [Bool.or_eq_true, not_or, List.any_eq_true, not_exists, not_and, Bool.not_eq_true] at hw
          exact .inr (.inr (.inr ⟨trivial, trivial, hw.1, hw.2, trivial⟩))
  · simp [hr]

/-- A word that may issue has its own effect. -/
theorem issue_can {ill : State → Bool} {srcs : List Src} {dst : Nat} (k : State → State) {s : State} (h : CanIssue s (srcs.map Prod.fst) dst)
    (hi : ill s = false) : issue ill srcs dst k s = k s := by
  obtain ⟨h1, h2, h3⟩ := h
  have h2' : ∀ r ∈ srcs, s.me.isEmpty r.1 = false := fun r hr => h2 r.1 (List.mem_map_of_mem hr)
  rcases issue_cases ill srcs dst k s with h | ⟨-, a, -⟩ | ⟨-, -, r, hr, a, -⟩ | ⟨-, -, -, -, a⟩
  · unfold issue withSources at h ⊢
    have f : srcs.find? (fun r => s.me.isEmpty r.1 && r.2) = none := List.find?_eq_none.2 (fun r hr => by simp [h2' r hr])
    have g : srcs.any (fun r => s.me.isEmpty r.1) = false := by simpa using fun a b hab => h2' (a, b) hab
    simp [h1, hi, f, g, h3]
  · simp [hi] at a
  · simp [h2' r hr] at a
  · exact a

/-! ### The end of a word -/

theorem onlyVlc_updVlc (n : Nat) (f : Vlc → Vlc) (s : State) : OnlyVlc n s (updVlc n f s) :=
  ⟨rfl, fun _ => rfl, fun _ h => getVlc_updVlc_other s f h⟩

theorem onlyMe_updMe (f : Vlc → Vlc) (s : State) : OnlyMe s (updMe f s) := onlyVlc_updVlc s.cur f s

/-- `advance` moves the pc on by 4 and changes nothing else but the charge. -/
theorem advance_ends (s : State) : OnlyMe s (advance s) ∧ EndsAt s.me (advance s).me (s.me.pc + 4) ∧
    (advance s).me.x = s.me.x ∧ (advance s).me.empty = s.me.empty ∧ (advance s).me.pend = s.me.pend := by
  unfold advance
  refine ⟨onlyMe_updMe _ s, ?_⟩
  rw [me_updMe]
  exact ⟨⟨rfl, rfl⟩, rfl, rfl, rfl⟩

/-- A register of a VLC takes a value; x0 stays 0 (R175). -/
theorem wx_writes (v : Vlc) {d : Nat} (w : Word) (hd : d < 32) : WritesX v (v.wx d w) d w := by
  refine ⟨by rw [rx_wx, if_pos rfl], by rw [isEmpty_wx _ _ _ _ hd, if_pos rfl], wx_pend .., fun k hk => ⟨by rw [rx_wx, if_neg hk], ?_⟩⟩
  rw [isEmpty_wx _ _ _ _ hd, if_neg hk]

/-- `finishX` writes one register and moves the pc on by 4. -/
theorem finishX_writes {d : Nat} (w : Word) (s : State) (hd : d < 32) :
    OnlyMe s (finishX d w s) ∧ WritesX s.me (finishX d w s).me d w ∧ EndsAt s.me (finishX d w s).me (s.me.pc + 4) := by
  unfold finishX
  refine ⟨onlyMe_updMe _ s, ?_⟩
  rw [me_updMe]
  refine ⟨wx_writes s.me w hd, by simp, ?_⟩
  conv_lhs => rw [wx_eq]
  simp

/-! ### Faults, the trap and the return (R348 to R352) -/

/-- Where a class S fault goes: it waits for older vector words, or lands. -/
theorem raiseAt_cases (f : FRec) (epc : Nat) (s : State) :
    (vecBusy s s.cur = true ∧ s.me.hnd = false ∧ s.me.tvec ≠ 0 ∧ raiseAt f epc s = updMe (fun v => { v with sfault := some (f, epc) }) s) ∨
    ((vecBusy s s.cur = false ∨ s.me.hnd = true ∨ s.me.tvec = 0) ∧ raiseAt f epc s = landFault s.cur f epc s) := by
  unfold raiseAt
  split_ifs with h
  · simp only [Bool.and_eq_true, Bool.not_eq_true', bne_iff_ne] at h
    exact .inl ⟨h.1.1, h.1.2, h.2, rfl⟩
  · simp only [Bool.and_eq_true, Bool.not_eq_true', bne_iff_ne, not_and_or] at h
    refine .inr ⟨?_, rfl⟩
    rcases h with (h | h) | h <;> simp_all

/-- A fault that lands is charged at most; the charge changes no other field. -/
theorem chargeFault_spec (n : Nat) (f : FRec) (s : State) :
    chargeFault n f s = s ∨ chargeFault n f s = updVlc n (fun v => { v with cost := v.cost + 1 }) s := by
  unfold chargeFault; split_ifs <;> simp

@[simp] theorem chargeFault_mem (n : Nat) (f : FRec) (s : State) : (chargeFault n f s).mem = s.mem := by unfold chargeFault; split <;> rfl
@[simp] theorem chargeFault_mgmt (n : Nat) (f : FRec) (s : State) : (chargeFault n f s).mgmt = s.mgmt := by unfold chargeFault; split <;> rfl
@[simp] theorem chargeFault_sched (n : Nat) (f : FRec) (s : State) : (chargeFault n f s).sched = s.sched := by unfold chargeFault; split <;> rfl

/-- Where a fault that lands goes: DOUBLE_FAULT in a handler, the end of the context without one, else the trap. -/
theorem landFault_cases (n : Nat) (f : FRec) (epc : Nat) (s : State) :
    let t := chargeFault n f s
    ((getVlc t n).hnd = true ∧ landFault n f epc s = endCtx n { f with code := cDOUBLE_FAULT } t) ∨
    ((getVlc t n).hnd = false ∧ (getVlc t n).tvec = 0 ∧ landFault n f epc s = endCtx n (withHeld (getVlc t n) f) t) ∨
    ((getVlc t n).hnd = false ∧ (getVlc t n).tvec ≠ 0 ∧ landFault n f epc s = enterTrap n f epc t) := by
  unfold landFault
  by_cases h : (getVlc (chargeFault n f s) n).hnd = true
  · simp [h]
  · by_cases h2 : (getVlc (chargeFault n f s) n).tvec = 0
    · simp [h, h2]
    · exact .inr (.inr ⟨by simpa using h, h2, by rw [if_neg h, if_neg h2]⟩)

/-- Clearing tiles writes zeros into them and touches no other byte. -/
theorem clearTiles_mget (l : List Nat) (s : State) (a : Nat) :
    let t := l.foldl (fun s t => { s with mem := mwrite s.mem t 4096 0, ecc := s.ecc.filter (fun e => e.1 / 512 != t / 4096), tiles := tupd {} s.tiles (t / 4096) (fun x => { x with own := false }) }) s
    mget t.mem a = if ∃ b ∈ l, b ≤ a ∧ a < b + 4096 then 0 else mget s.mem a := by
  induction l generalizing s with
  | nil => simp
  | cons b l ih =>
    simp only [List.foldl_cons, List.mem_cons, exists_eq_or_imp] at ih ⊢
    rw [ih, mget_mwrite]
    by_cases h1 : ∃ c ∈ l, c ≤ a ∧ a < c + 4096 <;> by_cases h2 : b ≤ a ∧ a < b + 4096 <;> simp [h1, h2]

theorem clearTiles_rest (l : List Nat) (s : State) :
    let t := l.foldl (fun s t => { s with mem := mwrite s.mem t 4096 0, ecc := s.ecc.filter (fun e => e.1 / 512 != t / 4096), tiles := tupd {} s.tiles (t / 4096) (fun x => { x with own := false }) }) s
    { t with mem := s.mem, ecc := s.ecc, tiles := s.tiles } = s ∧ (Memory.wf s.mem → Memory.wf t.mem) := by
  induction l generalizing s with
  | nil => exact ⟨rfl, id⟩
  | cons b l ih =>
    have h := ih { s with mem := mwrite s.mem b 4096 0, ecc := s.ecc.filter (fun e => e.1 / 512 != b / 4096), tiles := tupd {} s.tiles (b / 4096) (fun x => { x with own := false }) }
    refine ⟨?_, fun hw => h.2 (mwrite_wf _ _ _ hw)⟩
    have h1 := congrArg (fun t : State => { t with mem := s.mem, ecc := s.ecc, tiles := s.tiles }) h.1
    exact h1

/-- Dropping preloads clears their tiles and nothing else of memory; only memory, owner bits and the list of preloads change. -/
theorem dropPreloads_spec (n : Nat) (s : State) :
    { dropPreloads n s with mem := s.mem, ecc := s.ecc, tiles := s.tiles, sched := s.sched } = s ∧
    (dropPreloads n s).sched = {
      s.sched with
      preloads := s.sched.preloads.filter (fun p => p.vault != n),
      ranks := unrank n (s.sched.preloads.filter (fun p => p.vault == n)) s.sched.ranks } ∧
    (Memory.wf s.mem → Memory.wf (dropPreloads n s).mem) ∧
    ∀ a, (∀ p ∈ s.sched.preloads, p.vault = n → ∀ b ∈ p.tiles, a < b ∨ b + 4096 ≤ a) → mget (dropPreloads n s).mem a = mget s.mem a := by
  have key : ∀ (ps : List Preload) (s : State),
      let t := ps.foldl (fun s p => p.tiles.foldl (fun s t =>
        { s with mem := mwrite s.mem t 4096 0, ecc := s.ecc.filter (fun e => e.1 / 512 != t / 4096), tiles := tupd {} s.tiles (t / 4096) (fun x => { x with own := false }) }) s) s
      { t with mem := s.mem, ecc := s.ecc, tiles := s.tiles } = s ∧ (Memory.wf s.mem → Memory.wf t.mem) ∧
      ∀ a, (∀ p ∈ ps, ∀ b ∈ p.tiles, a < b ∨ b + 4096 ≤ a) → mget t.mem a = mget s.mem a := by
    intro ps
    induction ps with
    | nil => exact fun s => ⟨rfl, id, fun _ _ => rfl⟩
    | cons p ps ih =>
      intro s
      have h := ih (p.tiles.foldl (fun s t =>
        { s with mem := mwrite s.mem t 4096 0, ecc := s.ecc.filter (fun e => e.1 / 512 != t / 4096), tiles := tupd {} s.tiles (t / 4096) (fun x => { x with own := false }) }) s)
      have r := clearTiles_rest p.tiles s
      refine ⟨?_, fun hw => h.2.1 (r.2 hw), fun a ha => ?_⟩
      · have h1 := congrArg (fun t : State => { t with mem := s.mem, ecc := s.ecc, tiles := s.tiles }) h.1
        exact h1.trans r.1
      · refine (h.2.2 a (fun q hq => ha q (List.mem_cons_of_mem _ hq))).trans ?_
        have := clearTiles_mget p.tiles s a
        simp only at this
        rw [this, if_neg]
        rintro ⟨b, hb, h1, h2⟩
        have := ha p (by simp) b hb
        omega
  have h := key (s.sched.preloads.filter (fun p => p.vault == n)) s
  have hs : (List.foldl (fun s p => p.tiles.foldl (fun s t =>
        { s with mem := mwrite s.mem t 4096 0, ecc := s.ecc.filter (fun e => e.1 / 512 != t / 4096), tiles := tupd {} s.tiles (t / 4096) (fun x => { x with own := false }) }) s) s
        (s.sched.preloads.filter (fun p => p.vault == n))).sched = s.sched := by
    have h1 := congrArg State.sched h.1
    exact h1
  refine ⟨?_, ?_, h.2.1, fun a ha => h.2.2 a (fun p hp => ?_)⟩
  · have h1 := congrArg (fun t : State => { t with sched := s.sched }) h.1
    exact h1
  · simp only [dropPreloads, hs]
  · simp only [List.mem_filter, beq_iff_eq] at hp
    exact ha p hp.1 hp.2

/-- The trap (R351): the record, EPC and ESTART are written, the handler runs at TVEC, and nothing else of any context changes. -/
theorem enterTrap_spec (n : Nat) (f : FRec) (epc : Nat) (s : State) :
    getVlc (enterTrap n f epc s) n =
      { getVlc s n with
        frec := (withHeld (getVlc s n) f).words, estart := wN f.estart, epc := wN epc, hnd := true,
        hndAt := s.nextId, pc := (getVlc s n).tvec, wait := .none, sfault := none, flip := none, early := [], feedStop := false, brk := f.bpr,
        bskipPc := if f.bpr && !f.vec then f.origin else (getVlc s n).bskipPc } ∧
    (∀ m, m ≠ n → getVlc (enterTrap n f epc s) m = getVlc s m) ∧ (Memory.wf s.mem → Memory.wf (enterTrap n f epc s).mem) ∧
    (∀ a, (∀ p ∈ s.sched.preloads, p.vault = vaultOf n → ∀ b ∈ p.tiles, a < b ∨ b + 4096 ≤ a) → mget (enterTrap n f epc s).mem a = mget s.mem a) ∧
    { enterTrap n f epc s with mem := s.mem, ecc := s.ecc, tiles := s.tiles, sched := s.sched, vlcs := s.vlcs } = s := by
  have key (g : Vlc → Vlc) (s : State) :
      getVlc (dropPreloads (vaultOf n) (updVlc n g s)) n = g (getVlc s n) ∧
      (∀ m, m ≠ n → getVlc (dropPreloads (vaultOf n) (updVlc n g s)) m = getVlc s m) ∧
      { dropPreloads (vaultOf n) (updVlc n g s) with mem := s.mem, ecc := s.ecc, tiles := s.tiles, sched := s.sched, vlcs := s.vlcs } = s := by
    have h := dropPreloads_spec (vaultOf n) (updVlc n g s)
    have hv : (dropPreloads (vaultOf n) (updVlc n g s)).vlcs = (updVlc n g s).vlcs := by
      have h1 := congrArg State.vlcs h.1
      exact h1
    refine ⟨?_, fun m hm => ?_, ?_⟩
    · unfold getVlc; rw [hv]; exact getVlc_updVlc_same s n _
    · unfold getVlc; rw [hv]; exact getVlc_updVlc_other s _ hm
    · have h1 := congrArg (fun t : State => { t with vlcs := s.vlcs }) h.1
      exact h1
  have k := key (fun v => { v with
    frec := (withHeld v f).words, estart := wN f.estart, epc := wN epc, hnd := true,
    hndAt := s.nextId, pc := v.tvec, wait := .none, sfault := none, flip := none, early := [], feedStop := false, brk := f.bpr,
    bskipPc := if f.bpr && !f.vec then f.origin else v.bskipPc }) s
  have h := dropPreloads_spec (vaultOf n) (updVlc n (fun v => { v with
    frec := (withHeld v f).words, estart := wN f.estart, epc := wN epc, hnd := true,
    hndAt := s.nextId, pc := v.tvec, wait := .none, sfault := none, flip := none, early := [], feedStop := false, brk := f.bpr,
    bskipPc := if f.bpr && !f.vec then f.origin else v.bskipPc }) s)
  exact ⟨k.1, k.2.1, h.2.2.1, h.2.2.2, k.2.2⟩

/-! ### The end of a context (R352, R353) -/

/-- Commands that are dropped give up their tiles: only use counts change. -/
theorem giveUp_rest (cs : List Cmd) (s : State) : { cs.foldl (fun s c => c.tiles.foldl (fun s t => unuseTile t s) s) s with tiles := s.tiles } = s := by
  have one : ∀ (l : List Nat) (s : State), { l.foldl (fun s t => unuseTile t s) s with tiles := s.tiles } = s := by
    intro l
    induction l with
    | nil => exact fun _ => rfl
    | cons t l ih =>
      intro s
      have h := congrArg (fun u : State => { u with tiles := s.tiles }) (ih (unuseTile t s))
      exact h
  induction cs generalizing s with
  | nil => rfl
  | cons c cs ih =>
    have h1 := congrArg (fun u : State => { u with tiles := s.tiles }) (ih (c.tiles.foldl (fun s t => unuseTile t s) s))
    exact h1.trans (one c.tiles s)

theorem giveUp_parts (cs : List Cmd) (s : State) :
    let t := cs.foldl (fun s c => c.tiles.foldl (fun s t => unuseTile t s) s) s
    t.mem = s.mem ∧ t.mgmt = s.mgmt ∧ t.launches = s.launches ∧ t.sched = s.sched ∧ t.vlcs = s.vlcs := by
  have h := giveUp_rest cs s
  have h1 := congrArg State.mem h
  have h2 := congrArg State.mgmt h
  have h3 := congrArg State.launches h
  have h4 := congrArg State.sched h
  have h5 := congrArg State.vlcs h
  exact ⟨h1, h2, h3, h4, h5⟩

/-- The notice that a copy to another module has ended goes out; nothing else changes. -/
theorem noticeEnd_rest (o : Op) (bad : Bool) (s : State) : { noticeEnd o bad s with out := s.out } = s := by
  unfold noticeEnd; dsimp only; split <;> rfl

/-- Operations that are withdrawn leave the list, with their notices; nothing else changes. -/
theorem dropOps_rest (p : Op → Bool) (s : State) : { dropOps p s with ops := s.ops, out := s.out } = s := by
  have key : ∀ (l : List Op) (u : State), { l.foldl (fun s o => noticeEnd o true s) u with out := u.out } = u := by
    intro l
    induction l with
    | nil => exact fun _ => rfl
    | cons o l ih =>
      intro u
      have h := congrArg (fun t : State => { t with out := u.out }) (ih (noticeEnd o true u))
      exact h.trans (noticeEnd_rest o true u)
  have h := congrArg (fun t : State => { t with ops := s.ops }) (key (s.ops.filter p) { s with ops := s.ops.filter (fun o => !p o) })
  exact h

theorem dropOps_parts (p : Op → Bool) (s : State) :
    (dropOps p s).mem = s.mem ∧ (dropOps p s).mgmt = s.mgmt ∧ (dropOps p s).launches = s.launches ∧ (dropOps p s).sched = s.sched ∧ (dropOps p s).vlcs = s.vlcs := by
  have h := dropOps_rest p s
  have h1 := congrArg State.mem h
  have h2 := congrArg State.mgmt h
  have h3 := congrArg State.launches h
  have h4 := congrArg State.sched h
  have h5 := congrArg State.vlcs h
  exact ⟨h1, h2, h3, h4, h5⟩

/-- Words fetched ahead are discarded: only the statistics and the list of the words itself change. -/
theorem discardAhead_spec (n : Nat) (s : State) :
    { discardAhead n s with vlcs := s.vlcs, mgmt := s.mgmt } = s ∧ (discardAhead n s).mgmt.stored = s.mgmt.stored ∧
    (discardAhead n s).vlcs = (if (getVlc s n).ahead.isEmpty then s else updVlc n (fun v => { v with ahead := [] }) s).vlcs := by
  have one (k d l b : Nat) (u : State) : { countCe k d l b u with mgmt := u.mgmt } = u ∧ (countCe k d l b u).mgmt.stored = u.mgmt.stored := by
    unfold countCe; dsimp only; split <;> exact ⟨rfl, rfl⟩
  have key : ∀ (l : List Nat) (u : State), { l.foldl (fun s _ => countCe (stackOf n) 1 16 16 s) u with mgmt := u.mgmt } = u ∧
      (l.foldl (fun s _ => countCe (stackOf n) 1 16 16 s) u).mgmt.stored = u.mgmt.stored := by
    intro l
    induction l with
    | nil => exact fun _ => ⟨rfl, rfl⟩
    | cons a l ih =>
      intro u
      have h := ih (countCe (stackOf n) 1 16 16 u)
      have o := one (stackOf n) 1 16 16 u
      have h1 := congrArg (fun t : State => { t with mgmt := u.mgmt }) h.1
      exact ⟨h1.trans o.1, h.2.trans o.2⟩
  unfold discardAhead
  dsimp only
  split_ifs with h
  · exact ⟨rfl, rfl, rfl⟩
  · have k := key (((getVlc s n).ahead.filter (fun w => w.2.2 = 1 ∨ w.2.2 = 2)).map (fun w => w.1 / 8)).eraseDups (updVlc n (fun v => { v with ahead := [] }) s)
    have h1 := congrArg (fun t : State => { t with vlcs := s.vlcs }) k.1
    have h2 := congrArg State.vlcs k.1
    exact ⟨h1, k.2, h2⟩

theorem discardAhead_parts (n : Nat) (s : State) :
    (discardAhead n s).mem = s.mem ∧ (discardAhead n s).launches = s.launches ∧ (discardAhead n s).sched = s.sched ∧
    ∀ m, m ≠ n → getVlc (discardAhead n s) m = getVlc s m := by
  have h := discardAhead_spec n s
  have h1 := congrArg State.mem h.1
  have h2 := congrArg State.launches h.1
  have h3 := congrArg State.sched h.1
  refine ⟨h1, h2, h3, fun m hm => ?_⟩
  unfold getVlc; rw [h.2.2]
  split
  · rfl
  · exact getVlc_updVlc_other s _ hm

/-- The end of one instance touches no byte of memory, no other VLC, and no launch. -/
theorem endOne_spec (n : Nat) (f : FRec) (s : State) :
    (endOne n f s).mem = s.mem ∧ (endOne n f s).mgmt.stored = s.mgmt.stored ∧ (endOne n f s).launches = s.launches ∧ (endOne n f s).sched = s.sched ∧
    (∀ m, m ≠ n → getVlc (endOne n f s) m = getVlc s m) := by
  by_cases h : (getVlc s n).status = .free ∨ (getVlc s n).status = .ending
  · rw [show endOne n f s = s from if_pos h]
    exact ⟨rfl, rfl, rfl, rfl, fun _ _ => rfl⟩
  · have d := discardAhead_parts n s
    have di := (discardAhead_spec n s).2.1
    have hv : ∃ g, (endOne n f s).vlcs = (updVlc n g (discardAhead n s)).vlcs := by
      simp only [endOne, if_neg h, cancelOps, dropOps_parts, giveUp_parts, leaveQueues, updCore_vlcs, updVault_vlcs]
      exact ⟨_, rfl⟩
    obtain ⟨g, hg⟩ := hv
    refine ⟨?_, ?_, ?_, ?_, fun m hm => ?_⟩
    · simp only [endOne, if_neg h, cancelOps, dropOps_parts, giveUp_parts, leaveQueues, updCore_mem, updVault_mem, updVlc_mem, d]
    · simp only [endOne, if_neg h, cancelOps, dropOps_parts, giveUp_parts, leaveQueues, updCore_mgmt, updVault_mgmt, updVlc_mgmt, di]
    · simp only [endOne, if_neg h, cancelOps, dropOps_parts, giveUp_parts, leaveQueues, updCore_launches, updVault_launches, updVlc_launches, d]
    · simp only [endOne, if_neg h, cancelOps, dropOps_parts, giveUp_parts, leaveQueues, updCore_sched, updVault_sched, updVlc_sched, d]
    · rw [getVlc, hg]; exact (getVlc_updVlc_other _ g hm).trans (d.2.2.2 m hm)

/-- A byte outside the tiles of the preloads of a state. -/
def OffPreloads (s : State) (a : Nat) : Prop := ∀ p ∈ s.sched.preloads, ∀ b ∈ p.tiles, a < b ∨ b + 4096 ≤ a

/-- Dropping the preloads of a vault, read as what it keeps. -/
theorem dropPreloads_keeps (n : Nat) (s : State) :
    (dropPreloads n s).mgmt.stored = s.mgmt.stored ∧ (Memory.wf s.mem → Memory.wf (dropPreloads n s).mem) ∧
    ∀ a, OffPreloads s a → mget (dropPreloads n s).mem a = mget s.mem a ∧ OffPreloads (dropPreloads n s) a := by
  have d := dropPreloads_spec n s
  have h1 := congrArg (fun t : State => t.mgmt.stored) d.1
  refine ⟨h1, d.2.2.1, fun a h => ⟨d.2.2.2 a (fun p hp _ => h p hp), fun p hp => ?_⟩⟩
  rw [d.2.1] at hp
  exact h p (List.mem_filter.1 hp).1

/-- The end of an instance with the preloads of its vault. -/
theorem killOne_keeps (m : Nat) (f : FRec) (s : State) :
    let t := dropPreloads (vaultOf m) (endOne m f s)
    t.mgmt.stored = s.mgmt.stored ∧ (Memory.wf s.mem → Memory.wf t.mem) ∧ ∀ a, OffPreloads s a → mget t.mem a = mget s.mem a ∧ OffPreloads t a := by
  have o := endOne_spec m f s
  have d := dropPreloads_keeps (vaultOf m) (endOne m f s)
  refine ⟨d.1.trans o.2.1, fun h => d.2.1 (o.1 ▸ h), fun a h => ?_⟩
  have h' : OffPreloads (endOne m f s) a := by unfold OffPreloads; rw [o.2.2.2.1]; exact h
  exact ⟨(d.2.2 a h').1.trans (by rw [o.1]), (d.2.2 a h').2⟩

theorem killOnes_keeps (l : List Nat) (s : State) :
    let t := l.foldl (fun s m => killOne m s) s
    t.mgmt.stored = s.mgmt.stored ∧ (Memory.wf s.mem → Memory.wf t.mem) ∧ ∀ a, OffPreloads s a → mget t.mem a = mget s.mem a := by
  induction l generalizing s with
  | nil => exact ⟨rfl, id, fun _ _ => rfl⟩
  | cons m l ih =>
    have h := killOne_keeps m { code := cKILLED, cls := 3 } s
    have i := ih (killOne m s)
    exact ⟨i.1.trans h.1, fun hw => i.2.1 (h.2.1 hw), fun a ha => (i.2.2 a (h.2.2 a ha).2).trans (h.2.2 a ha).1⟩

/-- The end of a context clears the tiles of preloads and touches no other byte of memory. -/
theorem endCtx_mem (n : Nat) (f : FRec) (s : State) :
    (endCtx n f s).mgmt.stored = s.mgmt.stored ∧ (Memory.wf s.mem → Memory.wf (endCtx n f s).mem) ∧
    ∀ a, OffPreloads s a → mget (endCtx n f s).mem a = mget s.mem a := by
  have d := killOne_keeps n f s
  unfold endCtx
  by_cases h : (getVlc s n).resident = true
  · simp only [h, if_true]
    exact ⟨d.1, d.2.1, fun a ha => (d.2.2 a ha).1⟩
  · simp only [h, Bool.false_eq_true, if_false]
    refine ⟨(killOnes_keeps _ _).1.trans d.1, fun hw => (killOnes_keeps _ _).2.1 (d.2.1 hw), fun a ha => ?_⟩
    refine ((killOnes_keeps _ _).2.2 a ?_).trans (d.2.2 a ha).1
    exact (d.2.2 a ha).2

/-- A fault that lands touches no byte of memory outside the tiles of preloads, and keeps the canonical form. -/
theorem landFault_mem (n : Nat) (f : FRec) (epc : Nat) (s : State) :
    (landFault n f epc s).mgmt.stored = s.mgmt.stored ∧ (Memory.wf s.mem → Memory.wf (landFault n f epc s).mem) ∧
    ∀ a, OffPreloads s a → mget (landFault n f epc s).mem a = mget s.mem a := by
  have c (r : FRec) : (endCtx n r (chargeFault n f s)).mgmt.stored = s.mgmt.stored ∧ (Memory.wf s.mem → Memory.wf (endCtx n r (chargeFault n f s)).mem) ∧
      ∀ a, OffPreloads s a → mget (endCtx n r (chargeFault n f s)).mem a = mget s.mem a := by
    have e := endCtx_mem n r (chargeFault n f s)
    simpa only [OffPreloads, chargeFault_mem, chargeFault_mgmt, chargeFault_sched] using e
  rcases landFault_cases n f epc s with ⟨-, h⟩ | ⟨-, -, h⟩ | ⟨-, -, h⟩ <;> rw [h]
  · exact c _
  · exact c _
  · have e := enterTrap_spec n f epc (chargeFault n f s)
    have h1 := congrArg (fun t : State => t.mgmt.stored) e.2.2.2.2
    simp only [chargeFault_mem, chargeFault_mgmt, chargeFault_sched] at e h1
    exact ⟨h1, e.2.2.1, fun a ha => e.2.2.2.1 a (fun p hp _ => ha p hp)⟩

theorem raiseAt_mem (f : FRec) (epc : Nat) (s : State) :
    (raiseAt f epc s).mgmt.stored = s.mgmt.stored ∧ (Memory.wf s.mem → Memory.wf (raiseAt f epc s).mem) ∧
    ∀ a, OffPreloads s a → mget (raiseAt f epc s).mem a = mget s.mem a := by
  rcases raiseAt_cases f epc s with ⟨-, -, -, h⟩ | ⟨-, h⟩ <;> rw [h]
  · exact ⟨rfl, id, fun _ _ => rfl⟩
  · exact landFault_mem ..

/-- `issue` keeps the canonical form of memory when the word's own effect does. -/
theorem issue_inv {ill : State → Bool} {srcs : List Src} {dst : Nat} {k : State → State} {s : State} (hs : s.Inv) (hk : (k s).Inv) :
    (issue ill srcs dst k s).Inv := by
  have r : ∀ f epc, (raiseAt f epc s).Inv := fun f epc =>
    have h := raiseAt_mem f epc s
    ⟨h.2.1 hs.1, fun m hm => hs.2 m (h.1 ▸ hm)⟩
  rcases issue_cases ill srcs dst k s with h | ⟨-, -, h⟩ | ⟨-, -, x, -, -, -, h⟩ | ⟨-, -, -, -, h⟩ <;> rw [h]
  · exact hs
  · exact r _ _
  · exact r _ _
  · exact hk

/-- `tret` changes its VLC and the queue of its core, and nothing else (R351). -/
theorem returnTrap_spec (s : State) :
    { returnTrap s with vlcs := s.vlcs, cores := s.cores } = s ∧ (returnTrap s).me.hnd = false ∧ (returnTrap s).me.pc = s.me.epc ∧
    (returnTrap s).me.held = s.me.held.filter (fun e => !s.me.clearOf e.id) ∧ ∀ m, m ≠ s.cur → getVlc (returnTrap s) m = getVlc s m := by
  refine ⟨?_, ?_, ?_, ?_, fun m hm => by simp only [returnTrap, getVlc_updCore, getVlc_updMe_other _ _ hm]⟩
  · simp only [returnTrap, updCore, updMe, updVlc]
  all_goals simp only [returnTrap, me_updCore, me_updMe]

@[simp] theorem queueFault_mem (n : Nat) (f : FRec) (o : Nat) (s : State) : (queueFault n f o s).mem = s.mem := rfl
@[simp] theorem queueFault_mgmt (n : Nat) (f : FRec) (o : Nat) (s : State) : (queueFault n f o s).mgmt = s.mgmt := rfl
@[simp] theorem holdWords_mem (n : Nat) (l : List VEntry) (o : Nat) (f : FRec) (s : State) : (holdWords n l o f s).mem = s.mem := rfl
@[simp] theorem holdWords_mgmt (n : Nat) (l : List VEntry) (o : Nat) (f : FRec) (s : State) : (holdWords n l o f s).mgmt = s.mgmt := rfl
@[simp] theorem elog_mem (a b c d e f g : Nat) (s : State) : (elog a b c d e f g s).mem = s.mem := rfl
@[simp] theorem elog_stored (a b c d e f g : Nat) (s : State) : (elog a b c d e f g s).mgmt.stored = s.mgmt.stored := rfl
@[simp] theorem countCe_mem (k d l n : Nat) (s : State) : (countCe k d l n s).mem = s.mem := by unfold countCe; dsimp only; split <;> rfl
@[simp] theorem countCe_stored (k d l n : Nat) (s : State) : (countCe k d l n s).mgmt.stored = s.mgmt.stored := by
  unfold countCe; dsimp only; split <;> rfl

end Sys2Proof.Machine
end

