-- ==== Sys2Proof/Laws/Vector.lean ====
section
/-! SUPPORT. What each shared operation of vector words can do: entry, execution, faults and the recheck queue. -/
namespace Sys2Proof.Machine

/-- What the put-off entry checks of a word can do: a fault, a wait, or the word goes on with its x registers read. -/
theorem resumeEntry_cases (e : VEntry) (k : VEntry → State → State) (s : State) :
    (e.reread = false ∧ resumeEntry e k s = k e s) ∨ (e.reread = true ∧ (resumeEntry e k s = s ∨ (∃ f b, resumeEntry e k s = vecFault e f b s) ∨
      ∃ a b, resumeEntry e k s = k { e with xa := a, xb := b, reread := false }
        (updVlc e.vlc (fun v => match (shapeOf e.instr).xd with | some d => v.drainX d | none => v) s))) := by
  unfold resumeEntry
  by_cases hr : e.reread = true
  · refine .inr ⟨hr, ?_⟩
    simp only [hr, Bool.not_true, Bool.false_eq_true, if_false]
    split
    · exact .inr (.inl ⟨_, _, rfl⟩)
    · exact .inl rfl
    · split_ifs
      · exact .inr (.inl ⟨_, _, rfl⟩)
      · exact .inr (.inr ⟨_, _, rfl⟩)
  · exact .inl ⟨by simpa using hr, if_pos (by simpa using hr)⟩

/-- What holds of every result of the put-off entry checks holds of their result. -/
theorem resumeEntry_elim {P : State → Prop} (e : VEntry) (k : VEntry → State → State) (s : State) (h1 : P (k e s)) (h2 : P s)
    (h3 : ∀ f b, P (vecFault e f b s))
    (h4 : ∀ a b, P (k { e with xa := a, xb := b, reread := false }
      (updVlc e.vlc (fun v => match (shapeOf e.instr).xd with | some d => v.drainX d | none => v) s))) : P (resumeEntry e k s) := by
  rcases resumeEntry_cases e k s with ⟨-, h⟩ | ⟨-, h | ⟨f, b, h⟩ | ⟨a, b, h⟩⟩ <;> rw [h]
  · exact h1
  · exact h2
  · exact h3 _ _
  · exact h4 _ _

/-- What `withWord` can do to the oldest word of the core: nothing but turn to its VLC; a fault of class V; or the word's own effect, on a word whose x registers
have been read. -/
theorem withWord_cases (q : Bool) (k : VEntry → State → State) (s : State) :
    withWord q k s = s ∨
    ∃ e, headWord s = some e ∧
      (withWord q k s = { s with cur := e.vlc } ∨
        ∃ u, (u = { s with cur := e.vlc } ∨
            u = updVlc e.vlc (fun v => match (shapeOf e.instr).xd with | some d => v.drainX d | none => v) { s with cur := e.vlc }) ∧
          ((∃ e' f b, withWord q k s = vecFault e' f b u) ∨ ∃ e', withWord q k s = k e' u)) := by
  unfold withWord
  split
  · exact .inl rfl
  · rename_i e he
    refine .inr ⟨e, he, ?_⟩
    dsimp only
    by_cases h1 : (!wordsRun { s with cur := e.vlc } e || (q && decide (rqLen { s with cur := e.vlc } e.vlc ≥ 16))) = true
    · rw [if_pos h1]; exact .inl rfl
    · rw [if_neg h1]
      refine resumeEntry_elim (P := fun t => t = { s with cur := e.vlc } ∨
        ∃ u, (u = { s with cur := e.vlc } ∨
            u = updVlc e.vlc (fun v => match (shapeOf e.instr).xd with | some d => v.drainX d | none => v) { s with cur := e.vlc }) ∧
          ((∃ e' f b, t = vecFault e' f b u) ∨ ∃ e', t = k e' u)) e _ _ ?_ (.inl rfl) (fun f b => .inr ⟨_, .inl rfl, .inl ⟨_, _, _, rfl⟩⟩) (fun a b => ?_)
      · refine .inr ⟨_, .inl rfl, ?_⟩
        split
        · exact .inl ⟨_, _, _, rfl⟩
        · exact .inr ⟨_, rfl⟩
      · refine .inr ⟨_, .inr rfl, ?_⟩
        split
        · exact .inl ⟨_, _, _, rfl⟩
        · exact .inr ⟨_, rfl⟩

@[simp] theorem vecFault_mem (e : VEntry) (f : FRec) (b : Bool) (s : State) : (vecFault e f b s).mem = s.mem := rfl
@[simp] theorem vecFault_mgmt (e : VEntry) (f : FRec) (b : Bool) (s : State) : (vecFault e f b s).mgmt = s.mgmt := rfl
@[simp] theorem dropWord_mem (e : VEntry) (s : State) : (dropWord e s).mem = s.mem := rfl
@[simp] theorem dropWord_mgmt (e : VEntry) (s : State) : (dropWord e s).mgmt = s.mgmt := rfl
@[simp] theorem addFlags_mem (n f : Nat) (s : State) : (addFlags n f s).mem = s.mem := rfl
@[simp] theorem addFlags_mgmt (n f : Nat) (s : State) : (addFlags n f s).mgmt = s.mgmt := rfl
@[simp] theorem wordDone_mem (r : REntry) (c : Nat) (f : Vlc → Vlc) (s : State) : (wordDone r c f s).mem = s.mem := rfl
@[simp] theorem wordDone_mgmt (r : REntry) (c : Nat) (f : Vlc → Vlc) (s : State) : (wordDone r c f s).mgmt = s.mgmt := rfl

/-- `withWord` keeps memory and the management block when the word's own effect does. -/
theorem withWord_mem {q : Bool} {k : VEntry → State → State} {s : State} (hk : ∀ e t, (k e t).mem = t.mem ∧ (k e t).mgmt = t.mgmt) :
    (withWord q k s).mem = s.mem ∧ (withWord q k s).mgmt = s.mgmt := by
  rcases withWord_cases q k s with h | ⟨e, -, h | ⟨u, hu, ⟨e', f, b, h⟩ | ⟨e', h⟩⟩⟩ <;> rw [h]
  · exact ⟨rfl, rfl⟩
  · exact ⟨rfl, rfl⟩
  · rcases hu with rfl | rfl <;> exact ⟨rfl, rfl⟩
  · rcases hu with rfl | rfl <;> exact hk _ _

/-- What an executed word leaves (R371): it has left the VIQ of its core, its entry, with its first result, is the youngest of its vault's recheck queue, and its VLC
has the word's effect and the units charged. -/
theorem wordDone_spec (r : REntry) (c : Nat) (f : Vlc → Vlc) (s : State) :
    { wordDone r c f s with vlcs := s.vlcs, cores := s.cores, vaults := s.vaults } = s ∧
    (getVault (wordDone r c f s) (vaultOf r.e.vlc)).rq = (getVault s (vaultOf r.e.vlc)).rq ++
      [let w := f (getVlc s r.e.vlc); { r with newV := w.v, newK := w.k, newVl := w.vl }] ∧
    (getCore (wordDone r c f s) (coreOf r.e.vlc)).viq = (getCore s (coreOf r.e.vlc)).viq.filter (fun x => x.id != r.e.id) ∧
    getVlc (wordDone r c f s) r.e.vlc = { f (getVlc s r.e.vlc) with estart := 0, cost := (getVlc s r.e.vlc).cost + c } ∧
    (∀ m, m ≠ r.e.vlc → getVlc (wordDone r c f s) m = getVlc s m) ∧ (∀ k, k ≠ coreOf r.e.vlc → getCore (wordDone r c f s) k = getCore s k) ∧
    ∀ v, v ≠ vaultOf r.e.vlc → getVault (wordDone r c f s) v = getVault s v := by
  refine ⟨?_, ?_, ?_, ?_, fun m hm => ?_, fun k hk => ?_, fun v hv => ?_⟩
  · simp only [wordDone, dropWord, updVault, updCore, updVlc]
  · simp only [wordDone, dropWord, getVault_updVault_same, getVault_updCore, getVault_updVlc]
  · simp only [wordDone, dropWord, getCore_updVault, getCore_updCore_same, getCore_updVlc]
  · simp only [wordDone, dropWord, getVlc_updVault, getVlc_updCore, getVlc_updVlc_same]
  · simp only [wordDone, dropWord, getVlc_updVault, getVlc_updCore, getVlc_updVlc_other _ _ hm]
  · simp only [wordDone, dropWord, getCore_updVault, getCore_updCore_other _ _ hk, getCore_updVlc]
  · simp only [wordDone, dropWord, getVault_updVault_other _ _ hv, getVault_updCore, getVault_updVlc]

/-- An element-wise word touches no byte of memory (R196). -/
theorem runEl_mem (mk : VCtx → ElOp) (s : State) : (runEl mk s).mem = s.mem ∧ (runEl mk s).mgmt = s.mgmt := by
  refine withWord_mem (fun e t => ?_)
  dsimp only
  split <;> simp only [wordDone_mem, wordDone_mgmt, and_self]

/-- A word that takes effect whole touches no byte of memory. -/
theorem runWhole_mem (mk : VCtx → WOp) (fill : VCtx → Option (Nat × Nat)) (s : State) :
    (runWhole mk fill s).mem = s.mem ∧ (runWhole mk fill s).mgmt = s.mgmt := by
  refine withWord_mem (fun e t => ?_)
  dsimp only
  split
  · exact ⟨rfl, rfl⟩
  · split
    · exact ⟨rfl, rfl⟩
    · split
      · split <;> simp only [wordDone_mem, wordDone_mgmt, and_self]
      · simp only [wordDone_mem, wordDone_mgmt, and_self]

/-- What an element-wise word does to the state it runs in: it is done with the elements below an empty one, at which it faults, waits, or is done with every
element. -/
theorem runEl_cases (mk : VCtx → ElOp) (e : VEntry) (s : State) :
    let c := vctx s e
    let o := mk c
    let lo := firstEl c.v e
    let on := (upto e.vl).filter (fun i => lo ≤ i && active c.v o.m i)
    let k (e : VEntry) (s : State) : State :=
      let c := vctx s e
      let o := mk c
      let lo := firstEl c.v e
      let on := (upto e.vl).filter (fun i => lo ≤ i && active c.v o.m i)
      let dst : List VRead := if o.toMask then [] else [{ r := o.d, w := o.w }]
      match firstEmpty c.v c.vlen on (o.reads ++ dst) with
      | some (i, true) =>
        let r := applyEl c o lo i
        wordDone { reEntry s e r.2 with els := on.filter (· < i), fault := some { code := cFE_EMPTY, estart := i } } (wordCycles s e (i - lo)) (fun _ => r.1) s
      | some (_, false) => s
      | none =>
        let r := applyEl c o lo e.vl
        wordDone { reEntry s e r.2 with els := on } (wordCycles s e (e.vl - lo)) (fun _ => r.1) s
    runEl mk = withWord true k ∧
    (k e s = s ∨ (∃ i, k e s = wordDone { reEntry s e (applyEl c o lo i).2 with els := on.filter (· < i), fault := some { code := cFE_EMPTY, estart := i } }
        (wordCycles s e (i - lo)) (fun _ => (applyEl c o lo i).1) s) ∨
      k e s = wordDone { reEntry s e (applyEl c o lo e.vl).2 with els := on } (wordCycles s e (e.vl - lo)) (fun _ => (applyEl c o lo e.vl).1) s) := by
  refine ⟨rfl, ?_⟩
  dsimp only
  split
  · exact .inr (.inl ⟨_, rfl⟩)
  · exact .inl rfl
  · exact .inr (.inr rfl)

/-- A word runs when nothing holds it back (R61, R63): its core's oldest word, in a context whose words run, with room in the recheck queue, no breakpoint on it, and
its x registers read at entry. -/
theorem withWord_runs {q : Bool} (k : VEntry → State → State) {s : State} {e : VEntry} (h : headWord s = some e)
    (hw : wordsRun { s with cur := e.vlc } e = true) (hq : q = true → rqLen s e.vlc < 16) (hb : vecBreak (getVlc s e.vlc) e = none)
    (hr : e.reread = false) : withWord q k s = k e { s with cur := e.vlc } := by
  unfold withWord
  rw [h]
  have h1 : (!wordsRun { s with cur := e.vlc } e || (q && decide (rqLen { s with cur := e.vlc } e.vlc ≥ 16))) = false := by
    have : rqLen { s with cur := e.vlc } e.vlc = rqLen s e.vlc := rfl
    cases q
    · simp [hw]
    · have := hq rfl
      simp only [hw, Bool.not_true, Bool.true_and, Bool.false_or, decide_eq_false_iff_not]
      omega
  have hb' : vecBreak (getVlc { s with cur := e.vlc } e.vlc) e = none := hb
  simp only [h1, Bool.false_eq_true, if_false, resumeEntry, hb', hr, Bool.not_false, if_true]

end Sys2Proof.Machine
end

