-- ==== Sys2Proof/Laws/Memory.lean ====
section
/-! SUPPORT. What each operation over memory does to the bytes of memory, and that it keeps the canonical form. -/
namespace Sys2Proof.Machine

/-! ### Operations that leave memory as it is -/

/-- Memory and the stored checkpoint images are as before. -/
def Quiet (s t : State) : Prop := t.mem = s.mem ∧ t.mgmt.stored = s.mgmt.stored

theorem Quiet.refl (s : State) : Quiet s s := ⟨rfl, rfl⟩

theorem Quiet.trans {s t u : State} (h : Quiet s t) (k : Quiet t u) : Quiet s u := ⟨k.1.trans h.1, k.2.trans h.2⟩

theorem Quiet.inv {s t : State} (h : Quiet s t) (hs : s.Inv) : t.Inv := ⟨h.1 ▸ hs.1, fun m hm => hs.2 m (h.2 ▸ hm)⟩

theorem quiet_foldl {α : Type} {f : State → α → State} (h : ∀ s x, Quiet s (f s x)) (l : List α) (s : State) : Quiet s (l.foldl f s) := by
  induction l generalizing s with
  | nil => exact .refl s
  | cons x l ih => exact (h s x).trans (ih _)

theorem inv_foldl {α : Type} {f : State → α → State} (h : ∀ s x, s.Inv → (f s x).Inv) (l : List α) (s : State) (hs : s.Inv) : (l.foldl f s).Inv := by
  induction l generalizing s with
  | nil => exact hs
  | cons x l ih => exact ih _ (h s x hs)

/-- The invariant holds at reset: memory lists nothing, and no image is stored. -/
theorem inv_of_mem {s t : State} (hs : s.Inv) (h : Memory.wf t.mem) (hi : t.mgmt.stored = s.mgmt.stored) : t.Inv := ⟨h, fun m hm => hs.2 m (hi ▸ hm)⟩

theorem reset_mem_wf : Memory.wf State.reset.mem := Memory.wf_nil

theorem quiet_of_mem {s t : State} (h : t.mem = s.mem) (hi : t.mgmt = s.mgmt) : Quiet s t := ⟨h, by rw [hi]⟩

@[simp] theorem noteUnsealed_mem (pa : Nat) (o n : Row) (s : State) : (noteUnsealed pa o n s).mem = s.mem := rfl
@[simp] theorem noteUnsealed_mgmt (pa : Nat) (o n : Row) (s : State) : (noteUnsealed pa o n s).mgmt = s.mgmt := rfl
@[simp] theorem cleanRow_mem (pa : Nat) (s : State) : (cleanRow pa s).mem = s.mem := rfl
@[simp] theorem cleanRow_mgmt (pa : Nat) (s : State) : (cleanRow pa s).mgmt = s.mgmt := rfl

@[simp] theorem payRefresh_mem (b : Nat) (s : State) : (payRefresh b s).mem = s.mem := rfl
@[simp] theorem payRefresh_mgmt (b : Nat) (s : State) : (payRefresh b s).mgmt = s.mgmt := rfl

@[simp] theorem noteServed_mem (pa : Nat) (s : State) : (noteServed pa s).mem = s.mem := by
  unfold noteServed; split
  · rfl
  · split <;> rfl
@[simp] theorem noteServed_mgmt (pa : Nat) (s : State) : (noteServed pa s).mgmt = s.mgmt := by
  unfold noteServed; split
  · rfl
  · split <;> rfl

@[simp] theorem noteWalked_mem (pa : Nat) (s : State) : (noteWalked pa s).mem = s.mem := by
  unfold noteWalked; split
  · split
    · exact noteServed_mem ..
    · rfl
  · exact noteServed_mem ..
@[simp] theorem noteWalked_mgmt (pa : Nat) (s : State) : (noteWalked pa s).mgmt = s.mgmt := by
  unfold noteWalked; split
  · split
    · exact noteServed_mgmt ..
    · rfl
  · exact noteServed_mgmt ..

@[simp] theorem noteCorrected_mem (pa : Nat) (s : State) : (noteCorrected pa s).mem = s.mem := by
  unfold noteCorrected; dsimp only; split <;> simp only [countCe_mem]
@[simp] theorem noteCorrected_stored (pa : Nat) (s : State) : (noteCorrected pa s).mgmt.stored = s.mgmt.stored := by
  unfold noteCorrected; dsimp only; split <;> simp only [countCe_stored]

theorem noteCorrected_quiet (pa : Nat) (s : State) : Quiet s (noteCorrected pa s) := ⟨noteCorrected_mem .., noteCorrected_stored ..⟩

/-- Correcting errors changes no byte: an error of a word is its condition, not its bytes (R390). -/
theorem correctIn_quiet (pa n : Nat) (s : State) : Quiet s (correctIn pa n s) := by
  refine quiet_foldl (fun s i => ?_) _ s
  dsimp only
  split
  · exact .trans (t := setEcc _ .good s) ⟨rfl, rfl⟩ (noteCorrected_quiet ..)
  · exact .refl s

/-- Logging uncorrectable words changes no byte (R391). -/
theorem logUe_quiet (pa n agent : Nat) (s : State) : Quiet s (logUe pa n agent s) := by
  refine quiet_foldl (fun t a => ?_) _ s
  split_ifs
  · exact ⟨rfl, rfl⟩
  · exact .refl t

/-- A read answers the bytes at its address, or none for a word that cannot be corrected, and changes no byte (R390, R391). -/
theorem readMem_spec (pa n agent : Nat) (s : State) :
    (readMem pa n agent s).1 = (if ueIn s pa n then none else some (mread s.mem pa n)) ∧ Quiet s (readMem pa n agent s).2 := by
  unfold readMem
  split_ifs
  · exact ⟨rfl, logUe_quiet ..⟩
  · have h := correctIn_quiet pa n s
    exact ⟨rfl, by rw [noteServed_mem, h.1], by rw [noteServed_mgmt, h.2]⟩

theorem setEcc_quiet (pa : Nat) (e : Ecc) (s : State) : Quiet s (setEcc pa e s) := ⟨rfl, rfl⟩

theorem elog_quiet (a b c d e f g : Nat) (s : State) : Quiet s (elog a b c d e f g s) := ⟨rfl, rfl⟩

/-- A poisoned word keeps its bytes (R377). -/
theorem poisonRow_quiet (c : Cmd) (d : Nat) (s : State) : Quiet s (poisonRow c d s) :=
  quiet_foldl (fun s w => setEcc_quiet (rowPa (c.frames.headD 0) d + 8 * w) .bad s) c.words s

/-- Poisoning begins as a command of its die region. -/
theorem startPoison_quiet (f : Nat) (h : BitVec 256) (b : Row) (s : State) : Quiet s (startPoison f h b s) := ⟨rfl, rfl⟩

/-- Sealing a row changes no byte (R266). -/
theorem sealRow_quiet (f d : Nat) (s : State) : Quiet s (sealRow f d s) := by
  unfold sealRow
  split
  · exact .refl s
  · split_ifs
    · exact .refl s
    · dsimp only
      split
      · split
        · exact ⟨rfl, rfl⟩
        · refine Quiet.trans ?_ (elog_quiet ..)
          refine Quiet.trans ?_ (startPoison_quiet ..)
          exact ⟨rfl, rfl⟩
      · exact ⟨rfl, rfl⟩

/-- An automatic seal begins as a command of its die region, and is logged (R393). -/
theorem startSeal_quiet (f : Nat) (e : Unsealed) (s : State) : Quiet s (startSeal f e s) := ⟨rfl, rfl⟩

theorem correctRow_quiet (pa : Nat) (s : State) : Quiet s (correctRow pa s) := by
  unfold correctRow
  exact quiet_foldl (fun s w => .trans (t := setEcc _ .good s) ⟨rfl, rfl⟩ (noteCorrected_quiet ..)) _ s

/-- What a walk notes of the words it reads changes no byte (R14, R390). -/
theorem noteWords_quiet (l : List Nat) (s : State) : Quiet s (noteWords l s) := by
  refine quiet_foldl (fun s a => ?_) l s
  split
  · exact logUe_quiet ..
  · have h := correctIn_quiet a 8 s
    exact ⟨by rw [noteWalked_mem, h.1], by rw [noteWalked_mgmt, h.2]⟩

theorem holdTlb_quiet (e : Option TlbE) (s : State) : Quiet s (holdTlb e s) := by unfold holdTlb; split <;> exact ⟨rfl, rfl⟩

/-- A walk changes no byte (R75). -/
theorem takeWalk_quiet (l : List Nat) (e : Option TlbE) (s : State) : Quiet s (takeWalk l e s) := by
  unfold takeWalk
  split
  · exact .refl s
  · exact (noteWords_quiet ..).trans (holdTlb_quiet ..)

/-- An access that passed notes its walk, its translation and a pinned frame, and changes no byte (R75, R412). -/
theorem notePin_quiet (p : Passed) (s : State) : Quiet s (notePin p s) := by
  have h := takeWalk_quiet p.walk p.made s
  unfold notePin
  dsimp only
  split
  · split
    · exact h.trans ⟨rfl, rfl⟩
    · exact h
  · exact h

theorem notePinVa_quiet (w : Who) (va : Nat) (s : State) : Quiet s (notePinVa w va s) := by
  unfold notePinVa
  split
  · exact notePin_quiet ..
  · exact noteWords_quiet ..

theorem walked_quiet (va : Nat) (s : State) : Quiet s (walked va s) := takeWalk_quiet ..

/-! ### Waiting at banks (R263, R396) -/

theorem bump_quiet (s : State) : Quiet s (bump s) := ⟨rfl, rfl⟩

theorem endWait_quiet (w : Waiter) (s : State) : Quiet s (endWait w s) := by unfold endWait; split <;> exact ⟨rfl, rfl⟩

/-- What waits at banks is noted, and no byte changes. -/
theorem awaitTurn_quiet (w : Waiter) (a : Nat) (p l : List Nat) (s : State) : Quiet s (awaitTurn w a p l s) := by
  unfold awaitTurn
  dsimp only
  split
  · exact .refl s
  · split
    · split <;> exact ⟨rfl, rfl⟩
    · exact ⟨rfl, rfl⟩

theorem walkAhead_quiet (l : List Passed) (s : State) : Quiet s (walkAhead l s) :=
  quiet_foldl (fun s p => by
    split
    · exact .refl s
    · exact takeWalk_quiet ..) l s

theorem awaitPassed_quiet (w : Waiter) (a : Nat) (l : List Passed) (s : State) : Quiet s (awaitPassed w a l s) :=
  (walkAhead_quiet l s).trans (awaitTurn_quiet ..)

theorem awaitBanks_quiet (l : List Nat) (s : State) : Quiet s (awaitBanks l s) := by
  unfold awaitBanks
  split
  · exact awaitTurn_quiet ..
  · exact .refl s

theorem rootAwait_quiet (w : Waiter) (l : Launch) (ps : List Passed) (s : State) : Quiet s (rootAwait w l ps s) := awaitPassed_quiet ..

/-- What a launch does once its banks serve it keeps the canonical form when it does so by itself. -/
theorem rootTurn_inv {w : Waiter} {l : Launch} {ps : List Passed} {k : State → State} (hk : ∀ s, s.Inv → (k s).Inv) {s : State} (h : s.Inv) :
    (rootTurn w l ps k s).Inv := by
  unfold rootTurn
  split
  · exact (rootAwait_quiet ..).inv h
  · exact hk _ ((endWait_quiet ..).inv h)

theorem keepEarly_quiet (n : Nat) (s : State) : Quiet s (keepEarly n s) := by unfold keepEarly; split <;> exact ⟨rfl, rfl⟩

theorem dropEarly_quiet (n : Nat) (s : State) : Quiet s (dropEarly n s) := by unfold dropEarly; split <;> exact ⟨rfl, rfl⟩

/-- What a step notes of a scalar word that has issued changes no byte (R61). -/
theorem noteIssue_quiet (n : Nat) (i : Instr) (s : State) : Quiet s (noteIssue n i s) := by
  unfold noteIssue
  dsimp only
  split
  · exact .trans ⟨rfl, rfl⟩ (dropEarly_quiet ..)
  · exact .trans ⟨rfl, rfl⟩ (keepEarly_quiet ..)

/-- A scalar word that issues keeps the canonical form when its own effect does. -/
theorem issueWord_inv {n : Nat} {i : Instr} {s t x : State} (hs : ∀ u, exec i s = .next u → u.Inv) (ht : ∀ u, exec i t = .next u → u.Inv)
    (h : issueWord n i s t = .next x) : x.Inv := by
  unfold issueWord at h
  split at h
  · rename_i u hu
    split at h
    · split at h
      · rename_i y hy
        cases h
        exact (noteIssue_quiet ..).inv (ht y hy)
      · rename_i hn
        exact absurd h (by intro e; exact hn _ e)
    · cases h
      exact hs _ (by assumption)
  · rename_i hn
    exact absurd h (hn _)

/-! ### Operations that write memory -/

/-- A write writes its bytes, least significant byte first, and no other byte (R2, R14). -/
theorem writeMem_mem (pa n v : Nat) (s : State) : (writeMem pa n v s).mem = mwrite s.mem pa n v ∧ (writeMem pa n v s).mgmt.stored = s.mgmt.stored := by
  unfold writeMem
  by_cases h : rowUnsealed s pa = true
  · simp only [if_pos h, noteUnsealed_mem, noteUnsealed_mgmt, noteServed_mem, noteServed_mgmt, and_self]
  · rw [if_neg h]
    dsimp only
    split
    · simp only [noteServed_mem, noteServed_mgmt, and_self]
    · split_ifs <;> simp only [noteCorrected_mem, noteCorrected_stored, setEcc_mem, setEcc_mgmt, noteServed_mem, noteServed_mgmt, and_self]
    · split_ifs <;> simp only [setEcc_mem, setEcc_mgmt, noteServed_mem, noteServed_mgmt, and_self]

theorem writeMem_inv (pa n v : Nat) {s : State} (h : s.Inv) : (writeMem pa n v s).Inv := by
  have w := writeMem_mem pa n v s
  exact inv_of_mem h (w.1 ▸ mwrite_wf _ _ _ h.1) w.2

theorem writeWide_inv (pa n v : Nat) {s : State} (h : s.Inv) : (writeWide pa n v s).Inv :=
  inv_foldl (fun _ _ hs => writeMem_inv _ _ _ hs) _ s h

/-- A wide write touches no byte outside the words it writes. -/
theorem writeWide_mget (pa n v a : Nat) (s : State) (h : a < pa ∨ pa + 8 * cdiv n 8 ≤ a) : mget (writeWide pa n v s).mem a = mget s.mem a := by
  have key : ∀ (l : List Nat) (s : State), (∀ i ∈ l, i < cdiv n 8) →
      mget (l.foldl (fun s i => writeMem (pa + 8 * i) (min 8 n) (fld v (64 * i) (8 * min 8 n)) s) s).mem a = mget s.mem a := by
    intro l
    induction l with
    | nil => exact fun _ _ => rfl
    | cons i l ih =>
      intro s hl
      have hi := hl i (by simp)
      simp only [List.foldl_cons]
      rw [ih _ (fun j hj => hl j (List.mem_cons_of_mem _ hj)), (writeMem_mem ..).1]
      exact mget_mwrite_out _ _ (by omega)
  exact key _ s (fun i hi => by simpa [upto] using hi)

theorem writeBytes_inv (l : List Byte) (pa : Nat) {s : State} (h : s.Inv) : (writeBytes pa l s).Inv := by
  induction l generalizing pa s with
  | nil => exact h
  | cons b bs ih =>
    unfold writeBytes
    split_ifs
    · unfold writeBytes.writeWords
      exact inv_foldl (fun _ _ hs => writeMem_inv _ _ _ hs) _ _ (inv_foldl (fun _ _ hs => writeMem_inv _ _ _ hs) _ s h)
    · exact ih _ (writeMem_inv _ _ _ h)

/-- A row that is written takes the new bits and no other row changes (R259). -/
theorem writeRow_mem (pa : Nat) (r : Row) (s : State) : (writeRow pa r s).mem = mwrite s.mem pa 8192 r.toNat ∧ (writeRow pa r s).mgmt = s.mgmt :=
  ⟨rfl, rfl⟩

theorem writeRow_inv (pa : Nat) (r : Row) {s : State} (h : s.Inv) : (writeRow pa r s).Inv :=
  inv_of_mem (t := writeRow pa r s) h ((writeRow_mem pa r s).1 ▸ mwrite_wf _ _ _ h.1) (by rw [(writeRow_mem pa r s).2])

theorem writeSealed_inv (f d : Nat) (r : Row) (l : List Nat) {s : State} (h : s.Inv) : (writeSealed f d r l s).Inv := by
  unfold writeSealed
  dsimp only
  refine inv_foldl (fun s w hs => (setEcc_quiet (rowPa f d + 8 * w) .bad s).inv hs) l _ ?_
  split_ifs
  · exact (sealRow_quiet ..).inv (writeRow_inv _ _ h)
  · exact ⟨mwrite_wf _ _ _ h.1, h.2⟩

theorem logBad_quiet (pa agent : Nat) (s : State) : Quiet s (logBad pa agent s) := quiet_foldl (fun _ _ => elog_quiet ..) _ s

theorem cloneRow_inv (f d g e : Nat) {s : State} (h : s.Inv) : (cloneRow f d g e s).Inv := by
  unfold cloneRow
  dsimp only
  split_ifs
  · exact writeRow_inv _ _ h
  · exact writeSealed_inv _ _ _ _ ((logBad_quiet ..).inv ((correctRow_quiet ..).inv h))

theorem flipBit_inv (pa b : Nat) {s : State} (h : s.Inv) : (flipBit pa b s).Inv := by
  unfold flipBit
  split_ifs
  · exact ⟨mput_wf _ _ h.1, h.2⟩
  · exact Quiet.inv (s := s) ⟨rfl, rfl⟩ h

theorem dropPreloads_inv (n : Nat) {s : State} (h : s.Inv) : (dropPreloads n s).Inv := by
  have d := dropPreloads_spec n s
  have m := congrArg State.mgmt d.1
  exact ⟨d.2.2.1 h.1, fun x hx => h.2 x (by rw [← show (dropPreloads n s).mgmt = s.mgmt from m]; exact hx)⟩

theorem clearScratch_inv {s : State} (h : s.Inv) : (clearScratch s).Inv := ⟨wf_filter _ h.1, h.2⟩

/-- Bytes without a defined value keep the canonical form. -/
theorem freeOver_wf (p : Nat → Bool) {s : State} (h : Memory.wf s.mem) : Memory.wf (freeOver p s) := by
  have key : ∀ (l m : List Host.Cell), Memory.wf m → Memory.wf (l.foldl (fun m c => if p c.1 then mput m c.1 c.2 else m) m) := by
    intro l
    induction l with
    | nil => exact fun _ h => h
    | cons c l ih =>
      intro m hm
      refine ih _ ?_
      by_cases hc : p c.1 = true
      · simp only [hc, if_true]; exact mput_wf _ _ hm
      · simp only [hc, Bool.false_eq_true, if_false]; exact hm
  exact key _ _ (wf_filter _ h)

/-- A failed restore leaves a canonical memory, whatever DRAM holds. -/
theorem failRestore_inv (c : Nat) {s : State} (h : s.Inv) : (failRestore c s).Inv := by
  refine ⟨?_, h.2⟩
  simp only [failRestore]
  exact freeOver_wf _ h.1

/-- A reset keeps the images at the targets, and leaves a canonical memory (R416). -/
theorem resetModule_inv {s : State} (h : s.Inv) : (resetModule s).Inv := by
  refine ⟨?_, h.2⟩
  simp only [resetModule]
  exact freeOver_wf _ h.1

/-- An image that is brought to the targets is kept only in canonical form (R411). -/
theorem takeStored_inv (x : Stored) {s : State} (h : s.Inv) : (takeStored x s).Inv := by
  unfold takeStored
  split
  · rename_i hw
    refine ⟨h.1, fun y hy => ?_⟩
    simp only [List.mem_append, List.mem_singleton] at hy
    rcases hy with hy | rfl
    · exact h.2 y hy
    · exact hw
  · exact h

theorem takeImage_wf {s : State} (h : s.Inv) : Memory.wf (takeImage s).mem := h.1

/-- The start of the resident program writes its argument block (R331). -/
theorem startResident_mem (img : List Host.Cell) (s : State) :
    (startResident img s).mem = mwrite (mwrite img resArgPa 128 0) (resArgPa + 0x48) 8 resEntry ∧ (startResident img s).mgmt = s.mgmt := ⟨rfl, rfl⟩

theorem startResident_inv {img : List Host.Cell} {s : State} (hi : Memory.wf img) (h : s.Inv) : (startResident img s).Inv := by
  have m := startResident_mem img s
  exact inv_of_mem h (m.1 ▸ mwrite_wf _ _ _ (mwrite_wf _ _ _ hi)) (by rw [m.2])

/-- Placing a word for the next step keeps the canonical form. -/
theorem withIssuer_inv {s : State} (h : s.Inv) : (withIssuer s).Inv := by
  unfold withIssuer
  dsimp only
  split
  · exact h
  · exact startResident_inv h.1 h

theorem placeScalar_inv (w : Nat) {s : State} (h : s.Inv) : (placeScalar w s).Inv :=
  ⟨mwrite_wf _ _ _ (withIssuer_inv h).1, (withIssuer_inv h).2⟩

/-! ### Accesses that perform (R110) -/

theorem dropAcc_quiet (n : Nat) (s : State) : Quiet s (dropAcc n s) := ⟨rfl, rfl⟩

theorem noteDone_quiet (a : Access) (s : State) : Quiet s (noteDone a s) := by unfold noteDone; split <;> exact ⟨rfl, rfl⟩

theorem deferFault_quiet (a : Access) (c : Nat) (s : State) : Quiet s (deferFault a c s) := by
  unfold deferFault
  refine Quiet.trans (t := match a.kind with | .store => s | _ => updVlc a.vlc (fun v => v.fillX a.reg 0) s) ?_ ⟨rfl, rfl⟩
  split <;> exact ⟨rfl, rfl⟩

theorem sendFill_quiet (a : Access) (v : Nat) (s : State) : Quiet s (sendFill a v s) := by unfold sendFill; split <;> exact ⟨rfl, rfl⟩

theorem consumeLoad_quiet (a : Access) (s : State) : Quiet s (consumeLoad a s) := by
  unfold consumeLoad; split
  · exact ⟨rfl, rfl⟩
  · exact deferFault_quiet ..

theorem gatherEnd_quiet (n : Nat) (g : Gather) (s : State) : Quiet s (gatherEnd n g s) := by unfold gatherEnd; split <;> exact ⟨rfl, rfl⟩

theorem gatherDone_quiet (a : Access) (b : Option (Nat × Nat)) (s : State) : Quiet s (gatherDone a b s) := by
  unfold gatherDone
  split
  · exact .refl s
  · dsimp only
    split
    · exact .trans ⟨rfl, rfl⟩ (gatherEnd_quiet ..)
    · exact ⟨rfl, rfl⟩

theorem elementBad_quiet (c : Nat) (a : Access) (s : State) : Quiet s (elementBad c a s) := by
  unfold elementBad
  exact .trans ⟨rfl, rfl⟩ (gatherDone_quiet ..)

theorem answer_quiet (n r : Nat) (w : Word) (s : State) : Quiet s (answer n r w s) := ⟨rfl, rfl⟩

/-- A load or a store that performs keeps the canonical form. -/
theorem performAt_inv (a : Access) (pa : Nat) {s : State} (h : s.Inv) : (performAt a pa s).Inv := by
  have h0 := (noteDone_quiet a s).inv h
  unfold performAt
  dsimp only
  split
  · split
    · split_ifs
      · exact h0
      · exact (deferFault_quiet ..).inv h0
    · split_ifs
      · exact h0
      · exact (deferFault_quiet ..).inv h0
      · exact writeWide_inv _ _ _ h0
  · split
    · split_ifs
      · exact h0
      · exact (deferFault_quiet ..).inv h0
    · have r := (readMem_spec pa a.size (getVlc (noteDone a s) a.vlc).agent (noteDone a s)).2.inv h0
      split
      · rename_i s1 e
        rw [e] at r
        split_ifs
        · exact r
        · exact (consumeLoad_quiet ..).inv r
      · rename_i v s1 e
        rw [e] at r
        exact (sendFill_quiet ..).inv r

/-- What a reset leaves in rows that were unsealed keeps the canonical form (R394). -/
theorem staleRows_inv {s : State} (h : s.Inv) : (staleRows s).Inv := by
  unfold staleRows
  split
  · exact h
  · exact ⟨freeOver_wf _ h.1, h.2⟩

/-- A far atomic that performs keeps the canonical form. -/
theorem atomicAt_inv (a : Access) (pa : Nat) {s : State} (h : s.Inv) : (atomicAt a pa s).Inv := by
  have h0 := (noteDone_quiet a s).inv h
  unfold atomicAt
  dsimp only
  split
  · rename_i c _
    have h1 : (if c = cUE_CONSUMED then logUe pa a.size (getVlc (noteDone a s) a.vlc).agent (noteDone a s) else noteDone a s).Inv := by
      split
      · exact (logUe_quiet ..).inv h0
      · exact h0
    generalize (if c = cUE_CONSUMED then logUe pa a.size (getVlc (noteDone a s) a.vlc).agent (noteDone a s) else noteDone a s) = t at h1
    split_ifs
    · exact h1
    · exact (elementBad_quiet ..).inv h1
    · exact (deferFault_quiet ..).inv h1
  · have h1 := writeMem_inv pa a.size (atomicNew a.op (8 * a.size) (mread (correctIn pa a.size (noteDone a s)).mem pa a.size) a.data a.cmp)
      ((correctIn_quiet pa a.size _).inv h0)
    split_ifs
    · exact (gatherDone_quiet ..).inv ((sendFill_quiet ..).inv h1)
    · exact (sendFill_quiet ..).inv h1

/-- A barrier operation that performs keeps the canonical form. -/
theorem barrierAt_inv (a : Access) (pa : Nat) {s : State} (h : s.Inv) : (barrierAt a pa s).Inv := by
  have h0 := (noteDone_quiet a s).inv h
  unfold barrierAt
  dsimp only
  have hu := (logUe_quiet pa 8 (getVlc (noteDone a s) a.vlc).agent (noteDone a s)).inv h0
  split_ifs
  · exact hu
  · exact Quiet.inv (s := logUe pa 8 (getVlc (noteDone a s) a.vlc).agent (noteDone a s)) ⟨rfl, rfl⟩ hu
  · exact writeMem_inv _ _ _ ((correctIn_quiet ..).inv h0)
  · exact (answer_quiet ..).inv (writeMem_inv _ _ _ ((correctIn_quiet ..).inv h0))

theorem performStore_inv (n : Nat) (b : Buf) {s : State} (h : s.Inv) : (performStore n b s).Inv := by
  unfold performStore
  split
  · exact writeWide_inv _ _ _ h
  · exact Quiet.inv (s := s) ⟨rfl, rfl⟩ h

theorem sendNet_quiet (a : Access) (s : State) : Quiet s (sendNet a s) := ⟨rfl, rfl⟩

theorem flushStore_inv (n : Nat) (b : Buf) {s : State} (h : s.Inv) : (flushStore n b s).Inv := by
  unfold flushStore
  split
  · split
    · exact (sendNet_quiet ..).inv h
    · exact performStore_inv n b h
  · exact (sendNet_quiet ..).inv h

theorem flushBuf_inv (n : Nat) {s : State} (h : s.Inv) : (flushBuf n s).Inv :=
  Quiet.inv (s := (getVlc s n).sbuf.foldl (fun s b => flushStore n b s) s) ⟨rfl, rfl⟩
    (inv_foldl (f := fun s b => flushStore n b s) (fun _ b hs => flushStore_inv n b hs) (getVlc s n).sbuf s h)

end Sys2Proof.Machine
end

