-- ==== Sys2Proof/Laws/PerInstr.lean ====
section
/-! SUPPORT. One lemma for each constructor of Instr: the word that the encoder gives fits the width of its kind. -/
namespace Sys2Proof.Laws

/-- A bit as a number is at most 1. -/
theorem b2n_le (b : Bool) : b2n b ≤ 1 := by cases b <;> decide

/-- A class field fits its four bits. -/
theorem clsFn_lt (c : Option (BitVec 4)) : clsFn c < 16 := by unfold clsFn; exact (c.getD 0).isLt

/-- A number of `m` bits fits `k`. -/
theorem bv_lt {m k : Nat} (x : BitVec m) (h : 2 ^ m ≤ k) : x.toNat < k := Nat.lt_of_lt_of_le x.isLt h

theorem packRR_lt {maj op d a b arg : Nat} {fa fb : Bool} (h1 : maj < 64) (h2 : op < 32) (h3 : d < 32) (h4 : a < 32) (h5 : b < 32) (h6 : arg < 16) :
    packRR maj op d a b fa fb arg < 2 ^ 32 := by
  have := b2n_le fa; have := b2n_le fb; unfold packRR; omega

theorem packAT_lt {maj aop d a b sc c : Nat} {fa fb : Bool} (h1 : maj < 64) (h2 : aop < 4) (h3 : d < 32) (h4 : a < 32) (h5 : b < 32) (h6 : sc < 8)
    (h7 : c < 16) : packAT maj aop d a b fa fb sc c < 2 ^ 32 := by
  have := b2n_le fa; have := b2n_le fb; unfold packAT; omega

theorem packRI_lt {maj d a imm : Nat} (h1 : maj < 64) (h2 : d < 32) (h3 : a < 32) (h4 : imm < 65536) : packRI maj d a imm < 2 ^ 32 := by
  unfold packRI; omega

theorem packMEM_lt {maj r a c p : Nat} (h1 : maj < 64) (h2 : r < 32) (h3 : a < 32) (h4 : c < 16) (h5 : p < 4096) : packMEM maj r a c p < 2 ^ 32 := by
  unfold packMEM; omega

theorem packJ_lt {maj off : Nat} (h1 : maj < 64) (h2 : off < 67108864) : packJ maj off < 2 ^ 32 := by unfold packJ; omega

theorem packVF_lt {maj a off : Nat} (h1 : maj < 64) (h2 : a < 32) (h3 : off < 2097152) : packVF maj a off < 2 ^ 32 := by unfold packVF; omega

theorem packSys_lt {sfn d a imm : Nat} (h1 : sfn < 32) (h2 : d < 32) (h3 : a < 32) (h4 : imm < 2048) : packSys sfn d a imm < 2 ^ 32 := by
  unfold packSys; omega

theorem packV_lt {vop vd va vb vc ma mb km fn imm : Nat} {kp fa fb dc : Bool} (h1 : vop < 256) (h2 : vd < 32) (h3 : va < 32) (h4 : vb < 32)
    (h5 : vc < 32) (h6 : ma < 8) (h7 : mb < 8) (h8 : km < 8) (h9 : fn < 16) (h10 : imm < 262144) :
    packV vop vd va vb vc ma mb km kp fn fa fb dc imm < 2 ^ 64 := by
  have := b2n_le kp; have := b2n_le fa; have := b2n_le fb; have := b2n_le dc; unfold packV; omega

/-- The word of an instruction fits: 32 bits for scalar words and micro-ops, 64 for vector words (R152, R155, R260). -/
def Encodes.Statement (i : Instr) : Prop :=
  match encode i with
  | .scalar w => w < 2 ^ 32
  | .vector w => w < 2 ^ 64
  | .micro w => w < 2 ^ 32
  | .none => True

theorem Encodes.lpktLatch : ∀ x0 x1 x2 x3, Encodes.Statement (.lpktLatch x0 x1 x2 x3) := by intros; trivial

theorem Encodes.launchSubmit : ∀ x0 x1 x2, Encodes.Statement (.launchSubmit x0 x1 x2) := by intros; trivial

theorem Encodes.rcptRead : ∀ x0 x1, Encodes.Statement (.rcptRead x0 x1) := by intros; trivial

theorem Encodes.trootWrite : ∀ x0 x1, Encodes.Statement (.trootWrite x0 x1) := by intros; trivial

theorem Encodes.tinvWrite : ∀ x0 x1, Encodes.Statement (.tinvWrite x0 x1) := by intros; trivial

theorem Encodes.tinvComplete : ∀ x0, Encodes.Statement (.tinvComplete x0) := by intros; trivial

theorem Encodes.tsyncRead : ∀ x0, Encodes.Statement (.tsyncRead x0) := by intros; trivial

theorem Encodes.handleCommit : ∀ x0 x1, Encodes.Statement (.handleCommit x0 x1) := by intros; trivial

theorem Encodes.handleFetch : ∀ x0 x1, Encodes.Statement (.handleFetch x0 x1) := by intros; trivial

theorem Encodes.give : ∀ x0 x1, Encodes.Statement (.give x0 x1) := by intros; trivial

theorem Encodes.home : ∀ x0 x1, Encodes.Statement (.home x0 x1) := by intros; trivial

theorem Encodes.unhome : ∀ x0 x1, Encodes.Statement (.unhome x0 x1) := by intros; trivial

theorem Encodes.carve : ∀ x0, Encodes.Statement (.carve x0) := by intros; trivial

theorem Encodes.carveDelete : ∀ x0, Encodes.Statement (.carveDelete x0) := by intros; trivial

theorem Encodes.vschedWrite : ∀ x0 x1, Encodes.Statement (.vschedWrite x0 x1) := by intros; trivial

theorem Encodes.hdmbWrite : ∀ x0 x1, Encodes.Statement (.hdmbWrite x0 x1) := by intros; trivial

theorem Encodes.modidWrite : ∀ x0, Encodes.Statement (.modidWrite x0) := by intros; trivial

theorem Encodes.routeWrite : ∀ x0 x1, Encodes.Statement (.routeWrite x0 x1) := by intros; trivial

theorem Encodes.mrootWrite : ∀ x0, Encodes.Statement (.mrootWrite x0) := by intros; trivial

theorem Encodes.serviceModeRequest : ∀ x0, Encodes.Statement (.serviceModeRequest x0) := by intros; trivial

theorem Encodes.svnRaise : ∀ x0, Encodes.Statement (.svnRaise x0) := by intros; trivial

theorem Encodes.svnFuseDone : Encodes.Statement .svnFuseDone := trivial

theorem Encodes.scanctlWrite : ∀ x0, Encodes.Statement (.scanctlWrite x0) := by intros; trivial

theorem Encodes.cestatWrite : ∀ x0 x1, Encodes.Statement (.cestatWrite x0 x1) := by intros; trivial

theorem Encodes.spareWrite : ∀ x0 x1, Encodes.Statement (.spareWrite x0 x1) := by intros; trivial

theorem Encodes.checkpoint : ∀ x0, Encodes.Statement (.checkpoint x0) := by intros; trivial

theorem Encodes.quiesceTimeout : Encodes.Statement .quiesceTimeout := trivial

theorem Encodes.checkpointDone : ∀ x0, Encodes.Statement (.checkpointDone x0) := by intros; trivial

theorem Encodes.restore : ∀ x0, Encodes.Statement (.restore x0) := by intros; trivial

theorem Encodes.restoreDone : ∀ x0, Encodes.Statement (.restoreDone x0) := by intros; trivial

theorem Encodes.registerWrite : ∀ x0 x1 x2 x3, Encodes.Statement (.registerWrite x0 x1 x2 x3) := by intros; trivial

theorem Encodes.getVersion : ∀ x0, Encodes.Statement (.getVersion x0) := by intros; trivial

theorem Encodes.getCapabilities : ∀ x0, Encodes.Statement (.getCapabilities x0) := by intros; trivial

theorem Encodes.negotiateAlgorithms : ∀ x0, Encodes.Statement (.negotiateAlgorithms x0) := by intros; trivial

theorem Encodes.getDigests : ∀ x0, Encodes.Statement (.getDigests x0) := by intros; trivial

theorem Encodes.getCertificate : ∀ x0, Encodes.Statement (.getCertificate x0) := by intros; trivial

theorem Encodes.challenge : ∀ x0, Encodes.Statement (.challenge x0) := by intros; trivial

theorem Encodes.getMeasurements : ∀ x0, Encodes.Statement (.getMeasurements x0) := by intros; trivial

theorem Encodes.unsupportedRequest : ∀ x0, Encodes.Statement (.unsupportedRequest x0) := by intros; trivial

theorem Encodes.hostMemRead : ∀ x0 x1 x2 x3, Encodes.Statement (.hostMemRead x0 x1 x2 x3) := by intros; trivial

theorem Encodes.hostMemWrite : ∀ x0 x1 x2 x3, Encodes.Statement (.hostMemWrite x0 x1 x2 x3) := by intros; trivial

theorem Encodes.remoteAccessRequest : ∀ x0, Encodes.Statement (.remoteAccessRequest x0) := by intros; trivial

theorem Encodes.remoteCopyCheck : ∀ x0, Encodes.Statement (.remoteCopyCheck x0) := by intros; trivial

theorem Encodes.remoteCopyWrite : ∀ x0, Encodes.Statement (.remoteCopyWrite x0) := by intros; trivial

theorem Encodes.flitCrcFail : ∀ x0, Encodes.Statement (.flitCrcFail x0) := by intros; trivial

theorem Encodes.linkRetrain : ∀ x0 x1, Encodes.Statement (.linkRetrain x0 x1) := by intros; trivial

theorem Encodes.moduleUnreachable : ∀ x0, Encodes.Statement (.moduleUnreachable x0) := by intros; trivial

theorem Encodes.remotePromiseMissed : ∀ x0, Encodes.Statement (.remotePromiseMissed x0) := by intros; trivial

theorem Encodes.schedulerTick : Encodes.Statement .schedulerTick := trivial

theorem Encodes.place : ∀ x0, Encodes.Statement (.place x0) := by intros; trivial

theorem Encodes.lockGroupTake : ∀ x0, Encodes.Statement (.lockGroupTake x0) := by intros; trivial

theorem Encodes.preempt : ∀ x0, Encodes.Statement (.preempt x0) := by intros; trivial

theorem Encodes.preemptionComplete : ∀ x0, Encodes.Statement (.preemptionComplete x0) := by intros; trivial

theorem Encodes.preload : ∀ x0, Encodes.Statement (.preload x0) := by intros; trivial

theorem Encodes.dealreq : ∀ x0, Encodes.Statement (.dealreq x0) := by intros; trivial

theorem Encodes.stealreq : ∀ x0, Encodes.Statement (.stealreq x0) := by intros; trivial

theorem Encodes.deal : ∀ x0, Encodes.Statement (.deal x0) := by intros; trivial

theorem Encodes.done : ∀ x0, Encodes.Statement (.done x0) := by intros; trivial

theorem Encodes.cost : ∀ x0, Encodes.Statement (.cost x0) := by intros; trivial

theorem Encodes.cmdAck : ∀ x0 x1, Encodes.Statement (.cmdAck x0 x1) := by intros; trivial

theorem Encodes.launchComplete : ∀ x0 x1, Encodes.Statement (.launchComplete x0 x1) := by intros; trivial

theorem Encodes.schedulerFailover : Encodes.Statement .schedulerFailover := trivial

theorem Encodes.moduleStop : Encodes.Statement .moduleStop := trivial

theorem Encodes.powerWindow : ∀ x0 x1, Encodes.Statement (.powerWindow x0 x1) := by intros; trivial

theorem Encodes.dramOver85c : ∀ x0, Encodes.Statement (.dramOver85c x0) := by intros; trivial

theorem Encodes.thermalShutdown : Encodes.Statement .thermalShutdown := trivial

theorem Encodes.resetRelease : Encodes.Statement .resetRelease := trivial

theorem Encodes.functionLevelReset : ∀ x0, Encodes.Statement (.functionLevelReset x0) := by intros; trivial

theorem Encodes.cxlLinkLoss : ∀ x0, Encodes.Statement (.cxlLinkLoss x0) := by intros; trivial

theorem Encodes.reclamation : ∀ x0, Encodes.Statement (.reclamation x0) := by intros; trivial

theorem Encodes.quadRetire : ∀ x0, Encodes.Statement (.quadRetire x0) := by intros; trivial

theorem Encodes.vaultRetire : ∀ x0, Encodes.Statement (.vaultRetire x0) := by intros; trivial

theorem Encodes.frameRelocate : ∀ x0 x1, Encodes.Statement (.frameRelocate x0 x1) := by intros; trivial

theorem Encodes.rowSpare : ∀ x0, Encodes.Statement (.rowSpare x0) := by intros; trivial

theorem Encodes.patrolScrub : ∀ x0, Encodes.Statement (.patrolScrub x0) := by intros; trivial

theorem Encodes.refreshDue : ∀ x0, Encodes.Statement (.refreshDue x0) := by intros; trivial

theorem Encodes.autoSeal : ∀ x0, Encodes.Statement (.autoSeal x0) := by intros; trivial

theorem Encodes.scanTest : Encodes.Statement .scanTest := trivial

theorem Encodes.scanTestEnd : ∀ x0, Encodes.Statement (.scanTestEnd x0) := by intros; trivial

theorem Encodes.targetAccess : ∀ x0, Encodes.Statement (.targetAccess x0) := by intros; trivial

theorem Encodes.registerFill : ∀ x0, Encodes.Statement (.registerFill x0) := by intros; trivial

theorem Encodes.homeAtomic : ∀ x0, Encodes.Statement (.homeAtomic x0) := by intros; trivial

theorem Encodes.homeBarInit : ∀ x0, Encodes.Statement (.homeBarInit x0) := by intros; trivial

theorem Encodes.homeCredit : ∀ x0, Encodes.Statement (.homeCredit x0) := by intros; trivial

theorem Encodes.homeDebit : ∀ x0, Encodes.Statement (.homeDebit x0) := by intros; trivial

theorem Encodes.homeWait : ∀ x0, Encodes.Statement (.homeWait x0) := by intros; trivial

theorem Encodes.laneGrant : ∀ x0, Encodes.Statement (.laneGrant x0) := by intros; trivial

theorem Encodes.claimGrant : ∀ x0, Encodes.Statement (.claimGrant x0) := by intros; trivial

theorem Encodes.sleepcExpiry : ∀ x0, Encodes.Statement (.sleepcExpiry x0) := by intros; trivial

theorem Encodes.wfeTimeout : ∀ x0, Encodes.Statement (.wfeTimeout x0) := by intros; trivial

theorem Encodes.trapEntry : ∀ x0, Encodes.Statement (.trapEntry x0) := by intros; trivial

theorem Encodes.leaseExpiry : ∀ x0, Encodes.Statement (.leaseExpiry x0) := by intros; trivial

theorem Encodes.lockGrant : ∀ x0, Encodes.Statement (.lockGrant x0) := by intros; trivial

theorem Encodes.sequencerTurn : ∀ x0 x1, Encodes.Statement (.sequencerTurn x0 x1) := by intros; trivial

theorem Encodes.quantumBoundary : ∀ x0, Encodes.Statement (.quantumBoundary x0) := by intros; trivial

theorem Encodes.commandResponse : ∀ x0, Encodes.Statement (.commandResponse x0) := by intros; trivial

theorem Encodes.slotLoadDone : ∀ x0, Encodes.Statement (.slotLoadDone x0) := by intros; trivial

theorem Encodes.slotInvalidateDone : ∀ x0, Encodes.Statement (.slotInvalidateDone x0) := by intros; trivial

theorem Encodes.copyAccept : ∀ x0, Encodes.Statement (.copyAccept x0) := by intros; trivial

theorem Encodes.chunkDebit : ∀ x0 x1, Encodes.Statement (.chunkDebit x0 x1) := by intros; trivial

theorem Encodes.operationComplete : ∀ x0, Encodes.Statement (.operationComplete x0) := by intros; trivial

theorem Encodes.drainEnd : ∀ x0, Encodes.Statement (.drainEnd x0) := by intros; trivial

theorem Encodes.tokenOpComplete : ∀ x0, Encodes.Statement (.tokenOpComplete x0) := by intros; trivial

theorem Encodes.recheck : ∀ x0 x1, Encodes.Statement (.recheck x0 x1) := by intros; trivial

theorem Encodes.stripRewind : ∀ x0, Encodes.Statement (.stripRewind x0) := by intros; trivial

theorem Encodes.add : ∀ o, Encodes.Statement (.add o) := by
  intro o; exact packRR_lt (by decide) (by decide) (bv_lt _ (by decide)) (bv_lt _ (by decide)) (bv_lt _ (by decide)) (by decide)

theorem Encodes.sub : ∀ o, Encodes.Statement (.sub o) := by
  intro o; exact packRR_lt (by decide) (by decide) (bv_lt _ (by decide)) (bv_lt _ (by decide)) (bv_lt _ (by decide)) (by decide)

theorem Encodes.and : ∀ o, Encodes.Statement (.and o) := by
  intro o; exact packRR_lt (by decide) (by decide) (bv_lt _ (by decide)) (bv_lt _ (by decide)) (bv_lt _ (by decide)) (by decide)

theorem Encodes.or : ∀ o, Encodes.Statement (.or o) := by
  intro o; exact packRR_lt (by decide) (by decide) (bv_lt _ (by decide)) (bv_lt _ (by decide)) (bv_lt _ (by decide)) (by decide)

theorem Encodes.xor : ∀ o, Encodes.Statement (.xor o) := by
  intro o; exact packRR_lt (by decide) (by decide) (bv_lt _ (by decide)) (bv_lt _ (by decide)) (bv_lt _ (by decide)) (by decide)

theorem Encodes.andn : ∀ o, Encodes.Statement (.andn o) := by
  intro o; exact packRR_lt (by decide) (by decide) (bv_lt _ (by decide)) (bv_lt _ (by decide)) (bv_lt _ (by decide)) (by decide)

theorem Encodes.orn : ∀ o, Encodes.Statement (.orn o) := by
  intro o; exact packRR_lt (by decide) (by decide) (bv_lt _ (by decide)) (bv_lt _ (by decide)) (bv_lt _ (by decide)) (by decide)

theorem Encodes.sll : ∀ o, Encodes.Statement (.sll o) := by
  intro o; exact packRR_lt (by decide) (by decide) (bv_lt _ (by decide)) (bv_lt _ (by decide)) (bv_lt _ (by decide)) (by decide)

theorem Encodes.srl : ∀ o, Encodes.Statement (.srl o) := by
  intro o; exact packRR_lt (by decide) (by decide) (bv_lt _ (by decide)) (bv_lt _ (by decide)) (bv_lt _ (by decide)) (by decide)

theorem Encodes.sra : ∀ o, Encodes.Statement (.sra o) := by
  intro o; exact packRR_lt (by decide) (by decide) (bv_lt _ (by decide)) (bv_lt _ (by decide)) (bv_lt _ (by decide)) (by decide)

theorem Encodes.rotl : ∀ o, Encodes.Statement (.rotl o) := by
  intro o; exact packRR_lt (by decide) (by decide) (bv_lt _ (by decide)) (bv_lt _ (by decide)) (bv_lt _ (by decide)) (by decide)

theorem Encodes.rotr : ∀ o, Encodes.Statement (.rotr o) := by
  intro o; exact packRR_lt (by decide) (by decide) (bv_lt _ (by decide)) (bv_lt _ (by decide)) (bv_lt _ (by decide)) (by decide)

theorem Encodes.min : ∀ o, Encodes.Statement (.min o) := by
  intro o; exact packRR_lt (by decide) (by decide) (bv_lt _ (by decide)) (bv_lt _ (by decide)) (bv_lt _ (by decide)) (by decide)

theorem Encodes.max : ∀ o, Encodes.Statement (.max o) := by
  intro o; exact packRR_lt (by decide) (by decide) (bv_lt _ (by decide)) (bv_lt _ (by decide)) (bv_lt _ (by decide)) (by decide)

theorem Encodes.minn : ∀ o, Encodes.Statement (.minn o) := by
  intro o; exact packRR_lt (by decide) (by decide) (bv_lt _ (by decide)) (bv_lt _ (by decide)) (bv_lt _ (by decide)) (by decide)

theorem Encodes.maxn : ∀ o, Encodes.Statement (.maxn o) := by
  intro o; exact packRR_lt (by decide) (by decide) (bv_lt _ (by decide)) (bv_lt _ (by decide)) (bv_lt _ (by decide)) (by decide)

theorem Encodes.slt : ∀ o, Encodes.Statement (.slt o) := by
  intro o; exact packRR_lt (by decide) (by decide) (bv_lt _ (by decide)) (bv_lt _ (by decide)) (bv_lt _ (by decide)) (by decide)

theorem Encodes.sltn : ∀ o, Encodes.Statement (.sltn o) := by
  intro o; exact packRR_lt (by decide) (by decide) (bv_lt _ (by decide)) (bv_lt _ (by decide)) (bv_lt _ (by decide)) (by decide)

theorem Encodes.clz : ∀ o, Encodes.Statement (.clz o) := by
  intro o; exact packRR_lt (by decide) (by decide) (bv_lt _ (by decide)) (bv_lt _ (by decide)) (by decide) (by decide)

theorem Encodes.ctz : ∀ o, Encodes.Statement (.ctz o) := by
  intro o; exact packRR_lt (by decide) (by decide) (bv_lt _ (by decide)) (bv_lt _ (by decide)) (by decide) (by decide)

theorem Encodes.popc : ∀ o, Encodes.Statement (.popc o) := by
  intro o; exact packRR_lt (by decide) (by decide) (bv_lt _ (by decide)) (bv_lt _ (by decide)) (by decide) (by decide)

theorem Encodes.bext : ∀ o, Encodes.Statement (.bext o) := by
  intro o; exact packRR_lt (by decide) (by decide) (bv_lt _ (by decide)) (bv_lt _ (by decide)) (bv_lt _ (by decide)) (by decide)

theorem Encodes.bins : ∀ o, Encodes.Statement (.bins o) := by
  intro o; exact packRR_lt (by decide) (by decide) (bv_lt _ (by decide)) (bv_lt _ (by decide)) (bv_lt _ (by decide)) (by decide)

theorem Encodes.mul : ∀ o, Encodes.Statement (.mul o) := by
  intro o; exact packRR_lt (by decide) (by decide) (bv_lt _ (by decide)) (bv_lt _ (by decide)) (bv_lt _ (by decide)) (by decide)

theorem Encodes.mulh : ∀ o, Encodes.Statement (.mulh o) := by
  intro o; exact packRR_lt (by decide) (by decide) (bv_lt _ (by decide)) (bv_lt _ (by decide)) (bv_lt _ (by decide)) (by decide)

theorem Encodes.mulhn : ∀ o, Encodes.Statement (.mulhn o) := by
  intro o; exact packRR_lt (by decide) (by decide) (bv_lt _ (by decide)) (bv_lt _ (by decide)) (bv_lt _ (by decide)) (by decide)

theorem Encodes.div : ∀ o, Encodes.Statement (.div o) := by
  intro o; exact packRR_lt (by decide) (by decide) (bv_lt _ (by decide)) (bv_lt _ (by decide)) (bv_lt _ (by decide)) (by decide)

theorem Encodes.divn : ∀ o, Encodes.Statement (.divn o) := by
  intro o; exact packRR_lt (by decide) (by decide) (bv_lt _ (by decide)) (bv_lt _ (by decide)) (bv_lt _ (by decide)) (by decide)

theorem Encodes.rem : ∀ o, Encodes.Statement (.rem o) := by
  intro o; exact packRR_lt (by decide) (by decide) (bv_lt _ (by decide)) (bv_lt _ (by decide)) (bv_lt _ (by decide)) (by decide)

theorem Encodes.remn : ∀ o, Encodes.Statement (.remn o) := by
  intro o; exact packRR_lt (by decide) (by decide) (bv_lt _ (by decide)) (bv_lt _ (by decide)) (bv_lt _ (by decide)) (by decide)

theorem Encodes.addi : ∀ o, Encodes.Statement (.addi o) := by
  intro o; exact packRI_lt (by decide) (bv_lt _ (by decide)) (bv_lt _ (by decide)) (bv_lt _ (by decide))

theorem Encodes.andi : ∀ o, Encodes.Statement (.andi o) := by
  intro o; exact packRI_lt (by decide) (bv_lt _ (by decide)) (bv_lt _ (by decide)) (bv_lt _ (by decide))

theorem Encodes.ori : ∀ o, Encodes.Statement (.ori o) := by
  intro o; exact packRI_lt (by decide) (bv_lt _ (by decide)) (bv_lt _ (by decide)) (bv_lt _ (by decide))

theorem Encodes.xori : ∀ o, Encodes.Statement (.xori o) := by
  intro o; exact packRI_lt (by decide) (bv_lt _ (by decide)) (bv_lt _ (by decide)) (bv_lt _ (by decide))

theorem Encodes.slti : ∀ o, Encodes.Statement (.slti o) := by
  intro o; exact packRI_lt (by decide) (bv_lt _ (by decide)) (bv_lt _ (by decide)) (bv_lt _ (by decide))

theorem Encodes.sltni : ∀ o, Encodes.Statement (.sltni o) := by
  intro o; exact packRI_lt (by decide) (bv_lt _ (by decide)) (bv_lt _ (by decide)) (bv_lt _ (by decide))

theorem Encodes.slli : ∀ o, Encodes.Statement (.slli o) := by
  intro o; exact packRI_lt (by decide) (bv_lt _ (by decide)) (bv_lt _ (by decide)) (by omega)

theorem Encodes.srli : ∀ o, Encodes.Statement (.srli o) := by
  intro o; exact packRI_lt (by decide) (bv_lt _ (by decide)) (bv_lt _ (by decide)) (by omega)

theorem Encodes.srai : ∀ o, Encodes.Statement (.srai o) := by
  intro o; exact packRI_lt (by decide) (bv_lt _ (by decide)) (bv_lt _ (by decide)) (by omega)

theorem Encodes.ldhi : ∀ o, Encodes.Statement (.ldhi o) := by
  intro o; exact packRI_lt (by decide) (bv_lt _ (by decide)) (by decide) (bv_lt _ (by decide))

theorem Encodes.addpc : ∀ o, Encodes.Statement (.addpc o) := by
  intro o; exact packRI_lt (by decide) (bv_lt _ (by decide)) (by decide) (bv_lt _ (by decide))

theorem Encodes.bexti : ∀ o, Encodes.Statement (.bexti o) := by
  intro o; exact packRI_lt (by decide) (bv_lt _ (by decide)) (bv_lt _ (by decide)) (by omega)

theorem Encodes.binsi : ∀ o, Encodes.Statement (.binsi o) := by
  intro o; exact packRI_lt (by decide) (bv_lt _ (by decide)) (bv_lt _ (by decide)) (by omega)

theorem Encodes.jalr : ∀ o, Encodes.Statement (.jalr o) := by
  intro o; exact packRI_lt (by decide) (bv_lt _ (by decide)) (bv_lt _ (by decide)) (bv_lt _ (by decide))

theorem Encodes.jal : ∀ off, Encodes.Statement (.jal off) := by
  intro off; exact packJ_lt (by decide) (bv_lt _ (by decide))

theorem Encodes.beq : ∀ o, Encodes.Statement (.beq o) := by
  intro o; exact packRI_lt (by decide) (bv_lt _ (by decide)) (bv_lt _ (by decide)) (bv_lt _ (by decide))

theorem Encodes.bne : ∀ o, Encodes.Statement (.bne o) := by
  intro o; exact packRI_lt (by decide) (bv_lt _ (by decide)) (bv_lt _ (by decide)) (bv_lt _ (by decide))

theorem Encodes.blt : ∀ o, Encodes.Statement (.blt o) := by
  intro o; exact packRI_lt (by decide) (bv_lt _ (by decide)) (bv_lt _ (by decide)) (bv_lt _ (by decide))

theorem Encodes.bltn : ∀ o, Encodes.Statement (.bltn o) := by
  intro o; exact packRI_lt (by decide) (bv_lt _ (by decide)) (bv_lt _ (by decide)) (bv_lt _ (by decide))

theorem Encodes.bge : ∀ o, Encodes.Statement (.bge o) := by
  intro o; exact packRI_lt (by decide) (bv_lt _ (by decide)) (bv_lt _ (by decide)) (bv_lt _ (by decide))

theorem Encodes.bgen : ∀ o, Encodes.Statement (.bgen o) := by
  intro o; exact packRI_lt (by decide) (bv_lt _ (by decide)) (bv_lt _ (by decide)) (bv_lt _ (by decide))

theorem Encodes.vstrip : ∀ off, Encodes.Statement (.vstrip off) := by
  intro off; exact packRI_lt (by decide) (by decide) (by decide) (bv_lt _ (by decide))

theorem Encodes.vfetch : ∀ off, Encodes.Statement (.vfetch off) := by
  intro off; exact packVF_lt (by decide) (by decide) (bv_lt _ (by decide))

theorem Encodes.vfetchr : ∀ a off, Encodes.Statement (.vfetchr a off) := by
  intro a off; exact packVF_lt (by decide) (bv_lt _ (by decide)) (bv_lt _ (by decide))

theorem Encodes.ldbC : ∀ o, Encodes.Statement (.ldbC o) := by
  intro o; exact packMEM_lt (by decide) (bv_lt _ (by decide)) (bv_lt _ (by decide)) (bv_lt _ (by decide)) (bv_lt _ (by decide))

theorem Encodes.ldbnC : ∀ o, Encodes.Statement (.ldbnC o) := by
  intro o; exact packMEM_lt (by decide) (bv_lt _ (by decide)) (bv_lt _ (by decide)) (bv_lt _ (by decide)) (bv_lt _ (by decide))

theorem Encodes.ldhC : ∀ o, Encodes.Statement (.ldhC o) := by
  intro o; exact packMEM_lt (by decide) (bv_lt _ (by decide)) (bv_lt _ (by decide)) (bv_lt _ (by decide)) (bv_lt _ (by decide))

theorem Encodes.ldhnC : ∀ o, Encodes.Statement (.ldhnC o) := by
  intro o; exact packMEM_lt (by decide) (bv_lt _ (by decide)) (bv_lt _ (by decide)) (bv_lt _ (by decide)) (bv_lt _ (by decide))

theorem Encodes.ldwC : ∀ o, Encodes.Statement (.ldwC o) := by
  intro o; exact packMEM_lt (by decide) (bv_lt _ (by decide)) (bv_lt _ (by decide)) (bv_lt _ (by decide)) (bv_lt _ (by decide))

theorem Encodes.ldwnC : ∀ o, Encodes.Statement (.ldwnC o) := by
  intro o; exact packMEM_lt (by decide) (bv_lt _ (by decide)) (bv_lt _ (by decide)) (bv_lt _ (by decide)) (bv_lt _ (by decide))

theorem Encodes.lddC : ∀ o, Encodes.Statement (.lddC o) := by
  intro o; exact packMEM_lt (by decide) (bv_lt _ (by decide)) (bv_lt _ (by decide)) (bv_lt _ (by decide)) (bv_lt _ (by decide))

theorem Encodes.stbC : ∀ o, Encodes.Statement (.stbC o) := by
  intro o; exact packMEM_lt (by decide) (bv_lt _ (by decide)) (bv_lt _ (by decide)) (bv_lt _ (by decide)) (bv_lt _ (by decide))

theorem Encodes.sthC : ∀ o, Encodes.Statement (.sthC o) := by
  intro o; exact packMEM_lt (by decide) (bv_lt _ (by decide)) (bv_lt _ (by decide)) (bv_lt _ (by decide)) (bv_lt _ (by decide))

theorem Encodes.stwC : ∀ o, Encodes.Statement (.stwC o) := by
  intro o; exact packMEM_lt (by decide) (bv_lt _ (by decide)) (bv_lt _ (by decide)) (bv_lt _ (by decide)) (bv_lt _ (by decide))

theorem Encodes.stdC : ∀ o, Encodes.Statement (.stdC o) := by
  intro o; exact packMEM_lt (by decide) (bv_lt _ (by decide)) (bv_lt _ (by decide)) (bv_lt _ (by decide)) (bv_lt _ (by decide))

theorem Encodes.ldb : ∀ o, Encodes.Statement (.ldb o) := by
  intro o; exact packMEM_lt (by decide) (bv_lt _ (by decide)) (bv_lt _ (by decide)) (by decide) (bv_lt _ (by decide))

theorem Encodes.ldbn : ∀ o, Encodes.Statement (.ldbn o) := by
  intro o; exact packMEM_lt (by decide) (bv_lt _ (by decide)) (bv_lt _ (by decide)) (by decide) (bv_lt _ (by decide))

theorem Encodes.ldh : ∀ o, Encodes.Statement (.ldh o) := by
  intro o; exact packMEM_lt (by decide) (bv_lt _ (by decide)) (bv_lt _ (by decide)) (by decide) (bv_lt _ (by decide))

theorem Encodes.ldhn : ∀ o, Encodes.Statement (.ldhn o) := by
  intro o; exact packMEM_lt (by decide) (bv_lt _ (by decide)) (bv_lt _ (by decide)) (by decide) (bv_lt _ (by decide))

theorem Encodes.ldw : ∀ o, Encodes.Statement (.ldw o) := by
  intro o; exact packMEM_lt (by decide) (bv_lt _ (by decide)) (bv_lt _ (by decide)) (by decide) (bv_lt _ (by decide))

theorem Encodes.ldwn : ∀ o, Encodes.Statement (.ldwn o) := by
  intro o; exact packMEM_lt (by decide) (bv_lt _ (by decide)) (bv_lt _ (by decide)) (by decide) (bv_lt _ (by decide))

theorem Encodes.ldd : ∀ o, Encodes.Statement (.ldd o) := by
  intro o; exact packMEM_lt (by decide) (bv_lt _ (by decide)) (bv_lt _ (by decide)) (by decide) (bv_lt _ (by decide))

theorem Encodes.stb : ∀ o, Encodes.Statement (.stb o) := by
  intro o; exact packMEM_lt (by decide) (bv_lt _ (by decide)) (bv_lt _ (by decide)) (by decide) (bv_lt _ (by decide))

theorem Encodes.sth : ∀ o, Encodes.Statement (.sth o) := by
  intro o; exact packMEM_lt (by decide) (bv_lt _ (by decide)) (bv_lt _ (by decide)) (by decide) (bv_lt _ (by decide))

theorem Encodes.stw : ∀ o, Encodes.Statement (.stw o) := by
  intro o; exact packMEM_lt (by decide) (bv_lt _ (by decide)) (bv_lt _ (by decide)) (by decide) (bv_lt _ (by decide))

theorem Encodes.std : ∀ o, Encodes.Statement (.std o) := by
  intro o; exact packMEM_lt (by decide) (bv_lt _ (by decide)) (bv_lt _ (by decide)) (by decide) (bv_lt _ (by decide))

theorem Encodes.aaddWC : ∀ o, Encodes.Statement (.aaddWC o) := by
  intro o; exact packAT_lt (by decide) (by decide) (bv_lt _ (by decide)) (bv_lt _ (by decide)) (bv_lt _ (by decide)) (bv_lt _ (by decide)) (bv_lt _ (by decide))

theorem Encodes.aandWC : ∀ o, Encodes.Statement (.aandWC o) := by
  intro o; exact packAT_lt (by decide) (by decide) (bv_lt _ (by decide)) (bv_lt _ (by decide)) (bv_lt _ (by decide)) (bv_lt _ (by decide)) (bv_lt _ (by decide))

theorem Encodes.aorWC : ∀ o, Encodes.Statement (.aorWC o) := by
  intro o; exact packAT_lt (by decide) (by decide) (bv_lt _ (by decide)) (bv_lt _ (by decide)) (bv_lt _ (by decide)) (bv_lt _ (by decide)) (bv_lt _ (by decide))

theorem Encodes.axorWC : ∀ o, Encodes.Statement (.axorWC o) := by
  intro o; exact packAT_lt (by decide) (by decide) (bv_lt _ (by decide)) (bv_lt _ (by decide)) (bv_lt _ (by decide)) (bv_lt _ (by decide)) (bv_lt _ (by decide))

theorem Encodes.aminWC : ∀ o, Encodes.Statement (.aminWC o) := by
  intro o; exact packAT_lt (by decide) (by decide) (bv_lt _ (by decide)) (bv_lt _ (by decide)) (bv_lt _ (by decide)) (bv_lt _ (by decide)) (bv_lt _ (by decide))

theorem Encodes.amaxWC : ∀ o, Encodes.Statement (.amaxWC o) := by
  intro o; exact packAT_lt (by decide) (by decide) (bv_lt _ (by decide)) (bv_lt _ (by decide)) (bv_lt _ (by decide)) (bv_lt _ (by decide)) (bv_lt _ (by decide))

theorem Encodes.aswapWC : ∀ o, Encodes.Statement (.aswapWC o) := by
  intro o; exact packAT_lt (by decide) (by decide) (bv_lt _ (by decide)) (bv_lt _ (by decide)) (bv_lt _ (by decide)) (bv_lt _ (by decide)) (bv_lt _ (by decide))

theorem Encodes.acasWC : ∀ o, Encodes.Statement (.acasWC o) := by
  intro o; exact packAT_lt (by decide) (by decide) (bv_lt _ (by decide)) (bv_lt _ (by decide)) (bv_lt _ (by decide)) (bv_lt _ (by decide)) (bv_lt _ (by decide))

theorem Encodes.aaddDC : ∀ o, Encodes.Statement (.aaddDC o) := by
  intro o; exact packAT_lt (by decide) (by decide) (bv_lt _ (by decide)) (bv_lt _ (by decide)) (bv_lt _ (by decide)) (bv_lt _ (by decide)) (bv_lt _ (by decide))

theorem Encodes.aandDC : ∀ o, Encodes.Statement (.aandDC o) := by
  intro o; exact packAT_lt (by decide) (by decide) (bv_lt _ (by decide)) (bv_lt _ (by decide)) (bv_lt _ (by decide)) (bv_lt _ (by decide)) (bv_lt _ (by decide))

theorem Encodes.aorDC : ∀ o, Encodes.Statement (.aorDC o) := by
  intro o; exact packAT_lt (by decide) (by decide) (bv_lt _ (by decide)) (bv_lt _ (by decide)) (bv_lt _ (by decide)) (bv_lt _ (by decide)) (bv_lt _ (by decide))

theorem Encodes.axorDC : ∀ o, Encodes.Statement (.axorDC o) := by
  intro o; exact packAT_lt (by decide) (by decide) (bv_lt _ (by decide)) (bv_lt _ (by decide)) (bv_lt _ (by decide)) (bv_lt _ (by decide)) (bv_lt _ (by decide))

theorem Encodes.aminDC : ∀ o, Encodes.Statement (.aminDC o) := by
  intro o; exact packAT_lt (by decide) (by decide) (bv_lt _ (by decide)) (bv_lt _ (by decide)) (bv_lt _ (by decide)) (bv_lt _ (by decide)) (bv_lt _ (by decide))

theorem Encodes.amaxDC : ∀ o, Encodes.Statement (.amaxDC o) := by
  intro o; exact packAT_lt (by decide) (by decide) (bv_lt _ (by decide)) (bv_lt _ (by decide)) (bv_lt _ (by decide)) (bv_lt _ (by decide)) (bv_lt _ (by decide))

theorem Encodes.aswapDC : ∀ o, Encodes.Statement (.aswapDC o) := by
  intro o; exact packAT_lt (by decide) (by decide) (bv_lt _ (by decide)) (bv_lt _ (by decide)) (bv_lt _ (by decide)) (bv_lt _ (by decide)) (bv_lt _ (by decide))

theorem Encodes.acasDC : ∀ o, Encodes.Statement (.acasDC o) := by
  intro o; exact packAT_lt (by decide) (by decide) (bv_lt _ (by decide)) (bv_lt _ (by decide)) (bv_lt _ (by decide)) (bv_lt _ (by decide)) (bv_lt _ (by decide))

theorem Encodes.aaddW : ∀ o, Encodes.Statement (.aaddW o) := by
  intro o; exact packAT_lt (by decide) (by decide) (bv_lt _ (by decide)) (bv_lt _ (by decide)) (bv_lt _ (by decide)) (bv_lt _ (by decide)) (by decide)

theorem Encodes.aandW : ∀ o, Encodes.Statement (.aandW o) := by
  intro o; exact packAT_lt (by decide) (by decide) (bv_lt _ (by decide)) (bv_lt _ (by decide)) (bv_lt _ (by decide)) (bv_lt _ (by decide)) (by decide)

theorem Encodes.aorW : ∀ o, Encodes.Statement (.aorW o) := by
  intro o; exact packAT_lt (by decide) (by decide) (bv_lt _ (by decide)) (bv_lt _ (by decide)) (bv_lt _ (by decide)) (bv_lt _ (by decide)) (by decide)

theorem Encodes.axorW : ∀ o, Encodes.Statement (.axorW o) := by
  intro o; exact packAT_lt (by decide) (by decide) (bv_lt _ (by decide)) (bv_lt _ (by decide)) (bv_lt _ (by decide)) (bv_lt _ (by decide)) (by decide)

theorem Encodes.aminW : ∀ o, Encodes.Statement (.aminW o) := by
  intro o; exact packAT_lt (by decide) (by decide) (bv_lt _ (by decide)) (bv_lt _ (by decide)) (bv_lt _ (by decide)) (bv_lt _ (by decide)) (by decide)

theorem Encodes.amaxW : ∀ o, Encodes.Statement (.amaxW o) := by
  intro o; exact packAT_lt (by decide) (by decide) (bv_lt _ (by decide)) (bv_lt _ (by decide)) (bv_lt _ (by decide)) (bv_lt _ (by decide)) (by decide)

theorem Encodes.aswapW : ∀ o, Encodes.Statement (.aswapW o) := by
  intro o; exact packAT_lt (by decide) (by decide) (bv_lt _ (by decide)) (bv_lt _ (by decide)) (bv_lt _ (by decide)) (bv_lt _ (by decide)) (by decide)

theorem Encodes.acasW : ∀ o, Encodes.Statement (.acasW o) := by
  intro o; exact packAT_lt (by decide) (by decide) (bv_lt _ (by decide)) (bv_lt _ (by decide)) (bv_lt _ (by decide)) (bv_lt _ (by decide)) (by decide)

theorem Encodes.aaddD : ∀ o, Encodes.Statement (.aaddD o) := by
  intro o; exact packAT_lt (by decide) (by decide) (bv_lt _ (by decide)) (bv_lt _ (by decide)) (bv_lt _ (by decide)) (bv_lt _ (by decide)) (by decide)

theorem Encodes.aandD : ∀ o, Encodes.Statement (.aandD o) := by
  intro o; exact packAT_lt (by decide) (by decide) (bv_lt _ (by decide)) (bv_lt _ (by decide)) (bv_lt _ (by decide)) (bv_lt _ (by decide)) (by decide)

theorem Encodes.aorD : ∀ o, Encodes.Statement (.aorD o) := by
  intro o; exact packAT_lt (by decide) (by decide) (bv_lt _ (by decide)) (bv_lt _ (by decide)) (bv_lt _ (by decide)) (bv_lt _ (by decide)) (by decide)

theorem Encodes.axorD : ∀ o, Encodes.Statement (.axorD o) := by
  intro o; exact packAT_lt (by decide) (by decide) (bv_lt _ (by decide)) (bv_lt _ (by decide)) (bv_lt _ (by decide)) (bv_lt _ (by decide)) (by decide)

theorem Encodes.aminD : ∀ o, Encodes.Statement (.aminD o) := by
  intro o; exact packAT_lt (by decide) (by decide) (bv_lt _ (by decide)) (bv_lt _ (by decide)) (bv_lt _ (by decide)) (bv_lt _ (by decide)) (by decide)

theorem Encodes.amaxD : ∀ o, Encodes.Statement (.amaxD o) := by
  intro o; exact packAT_lt (by decide) (by decide) (bv_lt _ (by decide)) (bv_lt _ (by decide)) (bv_lt _ (by decide)) (bv_lt _ (by decide)) (by decide)

theorem Encodes.aswapD : ∀ o, Encodes.Statement (.aswapD o) := by
  intro o; exact packAT_lt (by decide) (by decide) (bv_lt _ (by decide)) (bv_lt _ (by decide)) (bv_lt _ (by decide)) (bv_lt _ (by decide)) (by decide)

theorem Encodes.acasD : ∀ o, Encodes.Statement (.acasD o) := by
  intro o; exact packAT_lt (by decide) (by decide) (bv_lt _ (by decide)) (bv_lt _ (by decide)) (bv_lt _ (by decide)) (bv_lt _ (by decide)) (by decide)

theorem Encodes.fenceC : ∀ mask, Encodes.Statement (.fenceC mask) := by
  intro mask; exact packRI_lt (by decide) (by decide) (by decide) (bv_lt _ (by decide))

theorem Encodes.fenceS : ∀ sc, Encodes.Statement (.fenceS sc) := by
  intro sc; exact packRR_lt (by decide) (by decide) (by decide) (by decide) (by decide) (bv_lt _ (by decide))

theorem Encodes.feSet : ∀ d, Encodes.Statement (.feSet d) := by
  intro d; exact packRR_lt (by decide) (by decide) (bv_lt _ (by decide)) (by decide) (by decide) (by decide)

theorem Encodes.feClr : ∀ d, Encodes.Statement (.feClr d) := by
  intro d; exact packRR_lt (by decide) (by decide) (bv_lt _ (by decide)) (by decide) (by decide) (by decide)

theorem Encodes.vsetl : ∀ d sew grp, Encodes.Statement (.vsetl d sew grp) := by
  intro d sew grp; exact packRR_lt (by decide) (by decide) (bv_lt _ (by decide)) (by decide) (by decide) (by omega)

theorem Encodes.vckm : ∀ o, Encodes.Statement (.vckm o) := by
  intro o; exact packRR_lt (by decide) (by decide) (bv_lt _ (by decide)) (bv_lt _ (by decide)) (by decide) (by decide)

theorem Encodes.vrel : Encodes.Statement (.vrel) := by
  exact packRR_lt (by decide) (by decide) (by decide) (by decide) (by decide) (by decide)

theorem Encodes.cpy : ∀ o, Encodes.Statement (.cpy o) := by
  intro o; exact packRR_lt (by decide) (by decide) (bv_lt _ (by decide)) (bv_lt _ (by decide)) (by decide) (bv_lt _ (by decide))

theorem Encodes.cpyg : ∀ o, Encodes.Statement (.cpyg o) := by
  intro o; exact packRR_lt (by decide) (by decide) (bv_lt _ (by decide)) (bv_lt _ (by decide)) (by decide) (bv_lt _ (by decide))

theorem Encodes.cpyr : ∀ o, Encodes.Statement (.cpyr o) := by
  intro o; exact packRR_lt (by decide) (by decide) (bv_lt _ (by decide)) (bv_lt _ (by decide)) (by decide) (bv_lt _ (by decide))

theorem Encodes.cpyk : ∀ o, Encodes.Statement (.cpyk o) := by
  intro o; exact packRR_lt (by decide) (by decide) (bv_lt _ (by decide)) (bv_lt _ (by decide)) (by decide) (by decide)

theorem Encodes.wmark : ∀ o, Encodes.Statement (.wmark o) := by
  intro o; exact packRR_lt (by decide) (by decide) (bv_lt _ (by decide)) (bv_lt _ (by decide)) (by decide) (by decide)

theorem Encodes.tmv : ∀ o, Encodes.Statement (.tmv o) := by
  intro o; exact packRR_lt (by decide) (by decide) (bv_lt _ (by decide)) (bv_lt _ (by decide)) (bv_lt _ (by decide)) (by have := b2n_le o.ret; omega)

theorem Encodes.tflip : ∀ o, Encodes.Statement (.tflip o) := by
  intro o; exact packRR_lt (by decide) (by decide) (bv_lt _ (by decide)) (bv_lt _ (by decide)) (by decide) (by decide)

theorem Encodes.barInit : ∀ o, Encodes.Statement (.barInit o) := by
  intro o; exact packRR_lt (by decide) (by decide) (bv_lt _ (by decide)) (bv_lt _ (by decide)) (bv_lt _ (by decide)) (bv_lt _ (by decide))

theorem Encodes.barArrive : ∀ o, Encodes.Statement (.barArrive o) := by
  intro o; exact packRR_lt (by decide) (by decide) (bv_lt _ (by decide)) (bv_lt _ (by decide)) (bv_lt _ (by decide)) (bv_lt _ (by decide))

theorem Encodes.barWait : ∀ o, Encodes.Statement (.barWait o) := by
  intro o; exact packRR_lt (by decide) (by decide) (bv_lt _ (by decide)) (bv_lt _ (by decide)) (bv_lt _ (by decide)) (by have := b2n_le o.exp; omega)

theorem Encodes.own : ∀ o, Encodes.Statement (.own o) := by
  intro o; exact packRR_lt (by decide) (by decide) (bv_lt _ (by decide)) (bv_lt _ (by decide)) (by decide) (by have := b2n_le o.x; omega)

theorem Encodes.lend : ∀ o, Encodes.Statement (.lend o) := by
  intro o; exact packRR_lt (by decide) (by decide) (bv_lt _ (by decide)) (bv_lt _ (by decide)) (bv_lt _ (by decide)) (by have := b2n_le o.x; omega)

theorem Encodes.ret : ∀ o, Encodes.Statement (.ret o) := by
  intro o; exact packRR_lt (by decide) (by decide) (bv_lt _ (by decide)) (bv_lt _ (by decide)) (by decide) (by have := b2n_le o.x; omega)

theorem Encodes.split : ∀ o, Encodes.Statement (.split o) := by
  intro o; exact packRR_lt (by decide) (by decide) (bv_lt _ (by decide)) (bv_lt _ (by decide)) (bv_lt _ (by decide)) (by have := b2n_le o.x; omega)

theorem Encodes.merge : ∀ o, Encodes.Statement (.merge o) := by
  intro o; exact packRR_lt (by decide) (by decide) (bv_lt _ (by decide)) (bv_lt _ (by decide)) (bv_lt _ (by decide)) (by have := b2n_le o.x; omega)

theorem Encodes.rshare : ∀ o, Encodes.Statement (.rshare o) := by
  intro o; exact packRR_lt (by decide) (by decide) (bv_lt _ (by decide)) (bv_lt _ (by decide)) (bv_lt _ (by decide)) (by have := b2n_le o.x; omega)

theorem Encodes.rdrop : ∀ o, Encodes.Statement (.rdrop o) := by
  intro o; exact packRR_lt (by decide) (by decide) (bv_lt _ (by decide)) (bv_lt _ (by decide)) (by decide) (by have := b2n_le o.x; omega)

theorem Encodes.tq : ∀ o, Encodes.Statement (.tq o) := by
  intro o; exact packRR_lt (by decide) (by decide) (bv_lt _ (by decide)) (bv_lt _ (by decide)) (bv_lt _ (by decide)) (by have := b2n_le o.x; omega)

theorem Encodes.bkx : ∀ o, Encodes.Statement (.bkx o) := by
  intro o; exact packRR_lt (by decide) (by decide) (bv_lt _ (by decide)) (bv_lt _ (by decide)) (by decide) (by decide)

theorem Encodes.bkseal : ∀ o, Encodes.Statement (.bkseal o) := by
  intro o; exact packRR_lt (by decide) (by decide) (bv_lt _ (by decide)) (bv_lt _ (by decide)) (by decide) (by decide)

theorem Encodes.bklock : ∀ o, Encodes.Statement (.bklock o) := by
  intro o; exact packRR_lt (by decide) (by decide) (bv_lt _ (by decide)) (bv_lt _ (by decide)) (bv_lt _ (by decide)) (by decide)

theorem Encodes.bkunlock : ∀ a fa, Encodes.Statement (.bkunlock a fa) := by
  intro a fa; exact packRR_lt (by decide) (by decide) (by decide) (bv_lt _ (by decide)) (by decide) (by decide)

theorem Encodes.bkfence : Encodes.Statement (.bkfence) := by
  exact packRR_lt (by decide) (by decide) (by decide) (by decide) (by decide) (by decide)

theorem Encodes.bkload : ∀ o, Encodes.Statement (.bkload o) := by
  intro o; exact packRR_lt (by decide) (by decide) (bv_lt _ (by decide)) (bv_lt _ (by decide)) (bv_lt _ (by decide)) (by decide)

theorem Encodes.bkinv : ∀ o, Encodes.Statement (.bkinv o) := by
  intro o; exact packRR_lt (by decide) (by decide) (bv_lt _ (by decide)) (bv_lt _ (by decide)) (by decide) (by decide)

theorem Encodes.bkst : ∀ o, Encodes.Statement (.bkst o) := by
  intro o; exact packRR_lt (by decide) (by decide) (bv_lt _ (by decide)) (bv_lt _ (by decide)) (by decide) (by decide)

theorem Encodes.bkclone : ∀ o, Encodes.Statement (.bkclone o) := by
  intro o; exact packRR_lt (by decide) (by decide) (bv_lt _ (by decide)) (bv_lt _ (by decide)) (bv_lt _ (by decide)) (by decide)

theorem Encodes.bkred : ∀ o, Encodes.Statement (.bkred o) := by
  intro o; exact packRR_lt (by decide) (by decide) (bv_lt _ (by decide)) (bv_lt _ (by decide)) (bv_lt _ (by decide)) (by decide)

theorem Encodes.csrr : ∀ d n, Encodes.Statement (.csrr d n) := by
  intro d n; exact packSys_lt (by decide) (bv_lt _ (by decide)) (by decide) (bv_lt _ (by decide))

theorem Encodes.csrw : ∀ n a, Encodes.Statement (.csrw n a) := by
  intro n a; exact packSys_lt (by decide) (by decide) (bv_lt _ (by decide)) (bv_lt _ (by decide))

theorem Encodes.csrs : ∀ n a, Encodes.Statement (.csrs n a) := by
  intro n a; exact packSys_lt (by decide) (by decide) (bv_lt _ (by decide)) (bv_lt _ (by decide))

theorem Encodes.csrc : ∀ n a, Encodes.Statement (.csrc n a) := by
  intro n a; exact packSys_lt (by decide) (by decide) (bv_lt _ (by decide)) (bv_lt _ (by decide))

theorem Encodes.trap : ∀ code, Encodes.Statement (.trap code) := by
  intro code; exact packSys_lt (by decide) (by decide) (by decide) (bv_lt _ (by decide))

theorem Encodes.tret : Encodes.Statement (.tret) := by
  exact packSys_lt (by decide) (by decide) (by decide) (by decide)

theorem Encodes.wfe : ∀ t, Encodes.Statement (.wfe t) := by
  intro t; exact packSys_lt (by decide) (by decide) (by decide) (bv_lt _ (by decide))

theorem Encodes.sleepc : ∀ a, Encodes.Statement (.sleepc a) := by
  intro a; exact packSys_lt (by decide) (by decide) (bv_lt _ (by decide)) (by decide)

theorem Encodes.brk : ∀ code, Encodes.Statement (.brk code) := by
  intro code; exact packSys_lt (by decide) (by decide) (by decide) (bv_lt _ (by decide))

theorem Encodes.nop : Encodes.Statement (.nop) := by
  exact packSys_lt (by decide) (by decide) (by decide) (by decide)

theorem Encodes.fin : Encodes.Statement (.fin) := by
  exact packSys_lt (by decide) (by decide) (by decide) (by decide)

theorem Encodes.vstop : Encodes.Statement (.vstop) := by
  exact packV_lt (by decide) (by decide) (by decide) (by decide) (by decide) (by decide) (by decide) (by decide) (by decide) (by decide)

theorem Encodes.vbrk : ∀ code, Encodes.Statement (.vbrk code) := by
  intro code; exact packV_lt (by decide) (by decide) (by decide) (by decide) (by decide) (by decide) (by decide) (by decide) (by decide) (bv_lt _ (by decide))

theorem Encodes.vaddVr : ∀ o, Encodes.Statement (.vaddVr o) := by
  intro o; exact packV_lt (by decide) (bv_lt _ (by decide)) (bv_lt _ (by decide)) (bv_lt _ (by decide)) (by decide) (bv_lt _ (by decide)) (bv_lt _ (by decide)) (bv_lt _ (by decide)) (by decide) (by decide)

theorem Encodes.vaddSc : ∀ o, Encodes.Statement (.vaddSc o) := by
  intro o; exact packV_lt (by decide) (bv_lt _ (by decide)) (bv_lt _ (by decide)) (bv_lt _ (by decide)) (by decide) (bv_lt _ (by decide)) (by decide) (bv_lt _ (by decide)) (by decide) (by decide)

theorem Encodes.vaddIm : ∀ o, Encodes.Statement (.vaddIm o) := by
  intro o; exact packV_lt (by decide) (bv_lt _ (by decide)) (bv_lt _ (by decide)) (by decide) (by decide) (bv_lt _ (by decide)) (by decide) (bv_lt _ (by decide)) (by decide) (bv_lt _ (by decide))

theorem Encodes.vsubVr : ∀ o, Encodes.Statement (.vsubVr o) := by
  intro o; exact packV_lt (by decide) (bv_lt _ (by decide)) (bv_lt _ (by decide)) (bv_lt _ (by decide)) (by decide) (bv_lt _ (by decide)) (bv_lt _ (by decide)) (bv_lt _ (by decide)) (by decide) (by decide)

theorem Encodes.vsubSc : ∀ o, Encodes.Statement (.vsubSc o) := by
  intro o; exact packV_lt (by decide) (bv_lt _ (by decide)) (bv_lt _ (by decide)) (bv_lt _ (by decide)) (by decide) (bv_lt _ (by decide)) (by decide) (bv_lt _ (by decide)) (by decide) (by decide)

theorem Encodes.vrsubSc : ∀ o, Encodes.Statement (.vrsubSc o) := by
  intro o; exact packV_lt (by decide) (bv_lt _ (by decide)) (bv_lt _ (by decide)) (bv_lt _ (by decide)) (by decide) (bv_lt _ (by decide)) (by decide) (bv_lt _ (by decide)) (by decide) (by decide)

theorem Encodes.vrsubIm : ∀ o, Encodes.Statement (.vrsubIm o) := by
  intro o; exact packV_lt (by decide) (bv_lt _ (by decide)) (bv_lt _ (by decide)) (by decide) (by decide) (bv_lt _ (by decide)) (by decide) (bv_lt _ (by decide)) (by decide) (bv_lt _ (by decide))

theorem Encodes.vmulVr : ∀ o, Encodes.Statement (.vmulVr o) := by
  intro o; exact packV_lt (by decide) (bv_lt _ (by decide)) (bv_lt _ (by decide)) (bv_lt _ (by decide)) (by decide) (bv_lt _ (by decide)) (bv_lt _ (by decide)) (bv_lt _ (by decide)) (by decide) (by decide)

theorem Encodes.vmulSc : ∀ o, Encodes.Statement (.vmulSc o) := by
  intro o; exact packV_lt (by decide) (bv_lt _ (by decide)) (bv_lt _ (by decide)) (bv_lt _ (by decide)) (by decide) (bv_lt _ (by decide)) (by decide) (bv_lt _ (by decide)) (by decide) (by decide)

theorem Encodes.vmulhVr : ∀ o, Encodes.Statement (.vmulhVr o) := by
  intro o; exact packV_lt (by decide) (bv_lt _ (by decide)) (bv_lt _ (by decide)) (bv_lt _ (by decide)) (by decide) (bv_lt _ (by decide)) (bv_lt _ (by decide)) (bv_lt _ (by decide)) (by decide) (by decide)

theorem Encodes.vmulhSc : ∀ o, Encodes.Statement (.vmulhSc o) := by
  intro o; exact packV_lt (by decide) (bv_lt _ (by decide)) (bv_lt _ (by decide)) (bv_lt _ (by decide)) (by decide) (bv_lt _ (by decide)) (by decide) (bv_lt _ (by decide)) (by decide) (by decide)

theorem Encodes.vmulhnVr : ∀ o, Encodes.Statement (.vmulhnVr o) := by
  intro o; exact packV_lt (by decide) (bv_lt _ (by decide)) (bv_lt _ (by decide)) (bv_lt _ (by decide)) (by decide) (bv_lt _ (by decide)) (bv_lt _ (by decide)) (bv_lt _ (by decide)) (by decide) (by decide)

theorem Encodes.vmulhnSc : ∀ o, Encodes.Statement (.vmulhnSc o) := by
  intro o; exact packV_lt (by decide) (bv_lt _ (by decide)) (bv_lt _ (by decide)) (bv_lt _ (by decide)) (by decide) (bv_lt _ (by decide)) (by decide) (bv_lt _ (by decide)) (by decide) (by decide)

theorem Encodes.vmaccVr : ∀ o, Encodes.Statement (.vmaccVr o) := by
  intro o; exact packV_lt (by decide) (bv_lt _ (by decide)) (bv_lt _ (by decide)) (bv_lt _ (by decide)) (by decide) (bv_lt _ (by decide)) (bv_lt _ (by decide)) (bv_lt _ (by decide)) (by decide) (by decide)

theorem Encodes.vmaccSc : ∀ o, Encodes.Statement (.vmaccSc o) := by
  intro o; exact packV_lt (by decide) (bv_lt _ (by decide)) (bv_lt _ (by decide)) (bv_lt _ (by decide)) (by decide) (bv_lt _ (by decide)) (by decide) (bv_lt _ (by decide)) (by decide) (by decide)

theorem Encodes.vnmsacVr : ∀ o, Encodes.Statement (.vnmsacVr o) := by
  intro o; exact packV_lt (by decide) (bv_lt _ (by decide)) (bv_lt _ (by decide)) (bv_lt _ (by decide)) (by decide) (bv_lt _ (by decide)) (bv_lt _ (by decide)) (bv_lt _ (by decide)) (by decide) (by decide)

theorem Encodes.vnmsacSc : ∀ o, Encodes.Statement (.vnmsacSc o) := by
  intro o; exact packV_lt (by decide) (bv_lt _ (by decide)) (bv_lt _ (by decide)) (bv_lt _ (by decide)) (by decide) (bv_lt _ (by decide)) (by decide) (bv_lt _ (by decide)) (by decide) (by decide)

theorem Encodes.vdivVr : ∀ o, Encodes.Statement (.vdivVr o) := by
  intro o; exact packV_lt (by decide) (bv_lt _ (by decide)) (bv_lt _ (by decide)) (bv_lt _ (by decide)) (by decide) (bv_lt _ (by decide)) (bv_lt _ (by decide)) (bv_lt _ (by decide)) (by decide) (by decide)

theorem Encodes.vdivSc : ∀ o, Encodes.Statement (.vdivSc o) := by
  intro o; exact packV_lt (by decide) (bv_lt _ (by decide)) (bv_lt _ (by decide)) (bv_lt _ (by decide)) (by decide) (bv_lt _ (by decide)) (by decide) (bv_lt _ (by decide)) (by decide) (by decide)

theorem Encodes.vdivnVr : ∀ o, Encodes.Statement (.vdivnVr o) := by
  intro o; exact packV_lt (by decide) (bv_lt _ (by decide)) (bv_lt _ (by decide)) (bv_lt _ (by decide)) (by decide) (bv_lt _ (by decide)) (bv_lt _ (by decide)) (bv_lt _ (by decide)) (by decide) (by decide)

theorem Encodes.vdivnSc : ∀ o, Encodes.Statement (.vdivnSc o) := by
  intro o; exact packV_lt (by decide) (bv_lt _ (by decide)) (bv_lt _ (by decide)) (bv_lt _ (by decide)) (by decide) (bv_lt _ (by decide)) (by decide) (bv_lt _ (by decide)) (by decide) (by decide)

theorem Encodes.vremVr : ∀ o, Encodes.Statement (.vremVr o) := by
  intro o; exact packV_lt (by decide) (bv_lt _ (by decide)) (bv_lt _ (by decide)) (bv_lt _ (by decide)) (by decide) (bv_lt _ (by decide)) (bv_lt _ (by decide)) (bv_lt _ (by decide)) (by decide) (by decide)

theorem Encodes.vremSc : ∀ o, Encodes.Statement (.vremSc o) := by
  intro o; exact packV_lt (by decide) (bv_lt _ (by decide)) (bv_lt _ (by decide)) (bv_lt _ (by decide)) (by decide) (bv_lt _ (by decide)) (by decide) (bv_lt _ (by decide)) (by decide) (by decide)

theorem Encodes.vremnVr : ∀ o, Encodes.Statement (.vremnVr o) := by
  intro o; exact packV_lt (by decide) (bv_lt _ (by decide)) (bv_lt _ (by decide)) (bv_lt _ (by decide)) (by decide) (bv_lt _ (by decide)) (bv_lt _ (by decide)) (bv_lt _ (by decide)) (by decide) (by decide)

theorem Encodes.vremnSc : ∀ o, Encodes.Statement (.vremnSc o) := by
  intro o; exact packV_lt (by decide) (bv_lt _ (by decide)) (bv_lt _ (by decide)) (bv_lt _ (by decide)) (by decide) (bv_lt _ (by decide)) (by decide) (bv_lt _ (by decide)) (by decide) (by decide)

theorem Encodes.vminVr : ∀ o, Encodes.Statement (.vminVr o) := by
  intro o; exact packV_lt (by decide) (bv_lt _ (by decide)) (bv_lt _ (by decide)) (bv_lt _ (by decide)) (by decide) (bv_lt _ (by decide)) (bv_lt _ (by decide)) (bv_lt _ (by decide)) (by decide) (by decide)

theorem Encodes.vminSc : ∀ o, Encodes.Statement (.vminSc o) := by
  intro o; exact packV_lt (by decide) (bv_lt _ (by decide)) (bv_lt _ (by decide)) (bv_lt _ (by decide)) (by decide) (bv_lt _ (by decide)) (by decide) (bv_lt _ (by decide)) (by decide) (by decide)

theorem Encodes.vmaxVr : ∀ o, Encodes.Statement (.vmaxVr o) := by
  intro o; exact packV_lt (by decide) (bv_lt _ (by decide)) (bv_lt _ (by decide)) (bv_lt _ (by decide)) (by decide) (bv_lt _ (by decide)) (bv_lt _ (by decide)) (bv_lt _ (by decide)) (by decide) (by decide)

theorem Encodes.vmaxSc : ∀ o, Encodes.Statement (.vmaxSc o) := by
  intro o; exact packV_lt (by decide) (bv_lt _ (by decide)) (bv_lt _ (by decide)) (bv_lt _ (by decide)) (by decide) (bv_lt _ (by decide)) (by decide) (bv_lt _ (by decide)) (by decide) (by decide)

theorem Encodes.vminnVr : ∀ o, Encodes.Statement (.vminnVr o) := by
  intro o; exact packV_lt (by decide) (bv_lt _ (by decide)) (bv_lt _ (by decide)) (bv_lt _ (by decide)) (by decide) (bv_lt _ (by decide)) (bv_lt _ (by decide)) (bv_lt _ (by decide)) (by decide) (by decide)

theorem Encodes.vminnSc : ∀ o, Encodes.Statement (.vminnSc o) := by
  intro o; exact packV_lt (by decide) (bv_lt _ (by decide)) (bv_lt _ (by decide)) (bv_lt _ (by decide)) (by decide) (bv_lt _ (by decide)) (by decide) (bv_lt _ (by decide)) (by decide) (by decide)

theorem Encodes.vmaxnVr : ∀ o, Encodes.Statement (.vmaxnVr o) := by
  intro o; exact packV_lt (by decide) (bv_lt _ (by decide)) (bv_lt _ (by decide)) (bv_lt _ (by decide)) (by decide) (bv_lt _ (by decide)) (bv_lt _ (by decide)) (bv_lt _ (by decide)) (by decide) (by decide)

theorem Encodes.vmaxnSc : ∀ o, Encodes.Statement (.vmaxnSc o) := by
  intro o; exact packV_lt (by decide) (bv_lt _ (by decide)) (bv_lt _ (by decide)) (bv_lt _ (by decide)) (by decide) (bv_lt _ (by decide)) (by decide) (bv_lt _ (by decide)) (by decide) (by decide)

theorem Encodes.vandVr : ∀ o, Encodes.Statement (.vandVr o) := by
  intro o; exact packV_lt (by decide) (bv_lt _ (by decide)) (bv_lt _ (by decide)) (bv_lt _ (by decide)) (by decide) (bv_lt _ (by decide)) (bv_lt _ (by decide)) (bv_lt _ (by decide)) (by decide) (by decide)

theorem Encodes.vandSc : ∀ o, Encodes.Statement (.vandSc o) := by
  intro o; exact packV_lt (by decide) (bv_lt _ (by decide)) (bv_lt _ (by decide)) (bv_lt _ (by decide)) (by decide) (bv_lt _ (by decide)) (by decide) (bv_lt _ (by decide)) (by decide) (by decide)

theorem Encodes.vandIm : ∀ o, Encodes.Statement (.vandIm o) := by
  intro o; exact packV_lt (by decide) (bv_lt _ (by decide)) (bv_lt _ (by decide)) (by decide) (by decide) (bv_lt _ (by decide)) (by decide) (bv_lt _ (by decide)) (by decide) (bv_lt _ (by decide))

theorem Encodes.vorVr : ∀ o, Encodes.Statement (.vorVr o) := by
  intro o; exact packV_lt (by decide) (bv_lt _ (by decide)) (bv_lt _ (by decide)) (bv_lt _ (by decide)) (by decide) (bv_lt _ (by decide)) (bv_lt _ (by decide)) (bv_lt _ (by decide)) (by decide) (by decide)

theorem Encodes.vorSc : ∀ o, Encodes.Statement (.vorSc o) := by
  intro o; exact packV_lt (by decide) (bv_lt _ (by decide)) (bv_lt _ (by decide)) (bv_lt _ (by decide)) (by decide) (bv_lt _ (by decide)) (by decide) (bv_lt _ (by decide)) (by decide) (by decide)

theorem Encodes.vorIm : ∀ o, Encodes.Statement (.vorIm o) := by
  intro o; exact packV_lt (by decide) (bv_lt _ (by decide)) (bv_lt _ (by decide)) (by decide) (by decide) (bv_lt _ (by decide)) (by decide) (bv_lt _ (by decide)) (by decide) (bv_lt _ (by decide))

theorem Encodes.vxorVr : ∀ o, Encodes.Statement (.vxorVr o) := by
  intro o; exact packV_lt (by decide) (bv_lt _ (by decide)) (bv_lt _ (by decide)) (bv_lt _ (by decide)) (by decide) (bv_lt _ (by decide)) (bv_lt _ (by decide)) (bv_lt _ (by decide)) (by decide) (by decide)

theorem Encodes.vxorSc : ∀ o, Encodes.Statement (.vxorSc o) := by
  intro o; exact packV_lt (by decide) (bv_lt _ (by decide)) (bv_lt _ (by decide)) (bv_lt _ (by decide)) (by decide) (bv_lt _ (by decide)) (by decide) (bv_lt _ (by decide)) (by decide) (by decide)

theorem Encodes.vxorIm : ∀ o, Encodes.Statement (.vxorIm o) := by
  intro o; exact packV_lt (by decide) (bv_lt _ (by decide)) (bv_lt _ (by decide)) (by decide) (by decide) (bv_lt _ (by decide)) (by decide) (bv_lt _ (by decide)) (by decide) (bv_lt _ (by decide))

theorem Encodes.vsllVr : ∀ o, Encodes.Statement (.vsllVr o) := by
  intro o; exact packV_lt (by decide) (bv_lt _ (by decide)) (bv_lt _ (by decide)) (bv_lt _ (by decide)) (by decide) (bv_lt _ (by decide)) (bv_lt _ (by decide)) (bv_lt _ (by decide)) (by decide) (by decide)

theorem Encodes.vsllSc : ∀ o, Encodes.Statement (.vsllSc o) := by
  intro o; exact packV_lt (by decide) (bv_lt _ (by decide)) (bv_lt _ (by decide)) (bv_lt _ (by decide)) (by decide) (bv_lt _ (by decide)) (by decide) (bv_lt _ (by decide)) (by decide) (by decide)

theorem Encodes.vsllIm : ∀ o, Encodes.Statement (.vsllIm o) := by
  intro o; exact packV_lt (by decide) (bv_lt _ (by decide)) (bv_lt _ (by decide)) (by decide) (by decide) (bv_lt _ (by decide)) (by decide) (bv_lt _ (by decide)) (by decide) (bv_lt _ (by decide))

theorem Encodes.vsrlVr : ∀ o, Encodes.Statement (.vsrlVr o) := by
  intro o; exact packV_lt (by decide) (bv_lt _ (by decide)) (bv_lt _ (by decide)) (bv_lt _ (by decide)) (by decide) (bv_lt _ (by decide)) (bv_lt _ (by decide)) (bv_lt _ (by decide)) (by decide) (by decide)

theorem Encodes.vsrlSc : ∀ o, Encodes.Statement (.vsrlSc o) := by
  intro o; exact packV_lt (by decide) (bv_lt _ (by decide)) (bv_lt _ (by decide)) (bv_lt _ (by decide)) (by decide) (bv_lt _ (by decide)) (by decide) (bv_lt _ (by decide)) (by decide) (by decide)

theorem Encodes.vsrlIm : ∀ o, Encodes.Statement (.vsrlIm o) := by
  intro o; exact packV_lt (by decide) (bv_lt _ (by decide)) (bv_lt _ (by decide)) (by decide) (by decide) (bv_lt _ (by decide)) (by decide) (bv_lt _ (by decide)) (by decide) (bv_lt _ (by decide))

theorem Encodes.vsraVr : ∀ o, Encodes.Statement (.vsraVr o) := by
  intro o; exact packV_lt (by decide) (bv_lt _ (by decide)) (bv_lt _ (by decide)) (bv_lt _ (by decide)) (by decide) (bv_lt _ (by decide)) (bv_lt _ (by decide)) (bv_lt _ (by decide)) (by decide) (by decide)

theorem Encodes.vsraSc : ∀ o, Encodes.Statement (.vsraSc o) := by
  intro o; exact packV_lt (by decide) (bv_lt _ (by decide)) (bv_lt _ (by decide)) (bv_lt _ (by decide)) (by decide) (bv_lt _ (by decide)) (by decide) (bv_lt _ (by decide)) (by decide) (by decide)

theorem Encodes.vsraIm : ∀ o, Encodes.Statement (.vsraIm o) := by
  intro o; exact packV_lt (by decide) (bv_lt _ (by decide)) (bv_lt _ (by decide)) (by decide) (by decide) (bv_lt _ (by decide)) (by decide) (bv_lt _ (by decide)) (by decide) (bv_lt _ (by decide))

theorem Encodes.vshrnVr : ∀ o, Encodes.Statement (.vshrnVr o) := by
  intro o; exact packV_lt (by decide) (bv_lt _ (by decide)) (bv_lt _ (by decide)) (bv_lt _ (by decide)) (by decide) (bv_lt _ (by decide)) (bv_lt _ (by decide)) (bv_lt _ (by decide)) (by decide) (by decide)

theorem Encodes.vshrnIm : ∀ o, Encodes.Statement (.vshrnIm o) := by
  intro o; exact packV_lt (by decide) (bv_lt _ (by decide)) (bv_lt _ (by decide)) (by decide) (by decide) (bv_lt _ (by decide)) (by decide) (bv_lt _ (by decide)) (by decide) (bv_lt _ (by decide))

theorem Encodes.vsarnVr : ∀ o, Encodes.Statement (.vsarnVr o) := by
  intro o; exact packV_lt (by decide) (bv_lt _ (by decide)) (bv_lt _ (by decide)) (bv_lt _ (by decide)) (by decide) (bv_lt _ (by decide)) (bv_lt _ (by decide)) (bv_lt _ (by decide)) (by decide) (by decide)

theorem Encodes.vsarnIm : ∀ o, Encodes.Statement (.vsarnIm o) := by
  intro o; exact packV_lt (by decide) (bv_lt _ (by decide)) (bv_lt _ (by decide)) (by decide) (by decide) (bv_lt _ (by decide)) (by decide) (bv_lt _ (by decide)) (by decide) (bv_lt _ (by decide))

theorem Encodes.vwadd : ∀ o, Encodes.Statement (.vwadd o) := by
  intro o; exact packV_lt (by decide) (bv_lt _ (by decide)) (bv_lt _ (by decide)) (bv_lt _ (by decide)) (by decide) (bv_lt _ (by decide)) (bv_lt _ (by decide)) (bv_lt _ (by decide)) (by decide) (by decide)

theorem Encodes.vwaddn : ∀ o, Encodes.Statement (.vwaddn o) := by
  intro o; exact packV_lt (by decide) (bv_lt _ (by decide)) (bv_lt _ (by decide)) (bv_lt _ (by decide)) (by decide) (bv_lt _ (by decide)) (bv_lt _ (by decide)) (bv_lt _ (by decide)) (by decide) (by decide)

theorem Encodes.vwmul : ∀ o, Encodes.Statement (.vwmul o) := by
  intro o; exact packV_lt (by decide) (bv_lt _ (by decide)) (bv_lt _ (by decide)) (bv_lt _ (by decide)) (by decide) (bv_lt _ (by decide)) (bv_lt _ (by decide)) (bv_lt _ (by decide)) (by decide) (by decide)

theorem Encodes.vwmuln : ∀ o, Encodes.Statement (.vwmuln o) := by
  intro o; exact packV_lt (by decide) (bv_lt _ (by decide)) (bv_lt _ (by decide)) (bv_lt _ (by decide)) (by decide) (bv_lt _ (by decide)) (bv_lt _ (by decide)) (bv_lt _ (by decide)) (by decide) (by decide)

theorem Encodes.vsaddVr : ∀ o, Encodes.Statement (.vsaddVr o) := by
  intro o; exact packV_lt (by decide) (bv_lt _ (by decide)) (bv_lt _ (by decide)) (bv_lt _ (by decide)) (by decide) (bv_lt _ (by decide)) (bv_lt _ (by decide)) (bv_lt _ (by decide)) (by decide) (by decide)

theorem Encodes.vsaddSc : ∀ o, Encodes.Statement (.vsaddSc o) := by
  intro o; exact packV_lt (by decide) (bv_lt _ (by decide)) (bv_lt _ (by decide)) (bv_lt _ (by decide)) (by decide) (bv_lt _ (by decide)) (by decide) (bv_lt _ (by decide)) (by decide) (by decide)

theorem Encodes.vsaddnVr : ∀ o, Encodes.Statement (.vsaddnVr o) := by
  intro o; exact packV_lt (by decide) (bv_lt _ (by decide)) (bv_lt _ (by decide)) (bv_lt _ (by decide)) (by decide) (bv_lt _ (by decide)) (bv_lt _ (by decide)) (bv_lt _ (by decide)) (by decide) (by decide)

theorem Encodes.vsaddnSc : ∀ o, Encodes.Statement (.vsaddnSc o) := by
  intro o; exact packV_lt (by decide) (bv_lt _ (by decide)) (bv_lt _ (by decide)) (bv_lt _ (by decide)) (by decide) (bv_lt _ (by decide)) (by decide) (bv_lt _ (by decide)) (by decide) (by decide)

theorem Encodes.vssubVr : ∀ o, Encodes.Statement (.vssubVr o) := by
  intro o; exact packV_lt (by decide) (bv_lt _ (by decide)) (bv_lt _ (by decide)) (bv_lt _ (by decide)) (by decide) (bv_lt _ (by decide)) (bv_lt _ (by decide)) (bv_lt _ (by decide)) (by decide) (by decide)

theorem Encodes.vssubSc : ∀ o, Encodes.Statement (.vssubSc o) := by
  intro o; exact packV_lt (by decide) (bv_lt _ (by decide)) (bv_lt _ (by decide)) (bv_lt _ (by decide)) (by decide) (bv_lt _ (by decide)) (by decide) (bv_lt _ (by decide)) (by decide) (by decide)

theorem Encodes.vssubnVr : ∀ o, Encodes.Statement (.vssubnVr o) := by
  intro o; exact packV_lt (by decide) (bv_lt _ (by decide)) (bv_lt _ (by decide)) (bv_lt _ (by decide)) (by decide) (bv_lt _ (by decide)) (bv_lt _ (by decide)) (bv_lt _ (by decide)) (by decide) (by decide)

theorem Encodes.vssubnSc : ∀ o, Encodes.Statement (.vssubnSc o) := by
  intro o; exact packV_lt (by decide) (bv_lt _ (by decide)) (bv_lt _ (by decide)) (bv_lt _ (by decide)) (by decide) (bv_lt _ (by decide)) (by decide) (bv_lt _ (by decide)) (by decide) (by decide)

theorem Encodes.vclip : ∀ o, Encodes.Statement (.vclip o) := by
  intro o; exact packV_lt (by decide) (bv_lt _ (by decide)) (bv_lt _ (by decide)) (by decide) (by decide) (bv_lt _ (by decide)) (by decide) (bv_lt _ (by decide)) (by decide) (bv_lt _ (by decide))

theorem Encodes.vclipn : ∀ o, Encodes.Statement (.vclipn o) := by
  intro o; exact packV_lt (by decide) (bv_lt _ (by decide)) (bv_lt _ (by decide)) (by decide) (by decide) (bv_lt _ (by decide)) (by decide) (bv_lt _ (by decide)) (by decide) (bv_lt _ (by decide))

theorem Encodes.vfaddVr : ∀ o, Encodes.Statement (.vfaddVr o) := by
  intro o; exact packV_lt (by decide) (bv_lt _ (by decide)) (bv_lt _ (by decide)) (bv_lt _ (by decide)) (by decide) (bv_lt _ (by decide)) (bv_lt _ (by decide)) (bv_lt _ (by decide)) (by decide) (by decide)

theorem Encodes.vfaddSc : ∀ o, Encodes.Statement (.vfaddSc o) := by
  intro o; exact packV_lt (by decide) (bv_lt _ (by decide)) (bv_lt _ (by decide)) (bv_lt _ (by decide)) (by decide) (bv_lt _ (by decide)) (by decide) (bv_lt _ (by decide)) (by decide) (by decide)

theorem Encodes.vfsubVr : ∀ o, Encodes.Statement (.vfsubVr o) := by
  intro o; exact packV_lt (by decide) (bv_lt _ (by decide)) (bv_lt _ (by decide)) (bv_lt _ (by decide)) (by decide) (bv_lt _ (by decide)) (bv_lt _ (by decide)) (bv_lt _ (by decide)) (by decide) (by decide)

theorem Encodes.vfsubSc : ∀ o, Encodes.Statement (.vfsubSc o) := by
  intro o; exact packV_lt (by decide) (bv_lt _ (by decide)) (bv_lt _ (by decide)) (bv_lt _ (by decide)) (by decide) (bv_lt _ (by decide)) (by decide) (bv_lt _ (by decide)) (by decide) (by decide)

theorem Encodes.vfmulVr : ∀ o, Encodes.Statement (.vfmulVr o) := by
  intro o; exact packV_lt (by decide) (bv_lt _ (by decide)) (bv_lt _ (by decide)) (bv_lt _ (by decide)) (by decide) (bv_lt _ (by decide)) (bv_lt _ (by decide)) (bv_lt _ (by decide)) (by decide) (by decide)

theorem Encodes.vfmulSc : ∀ o, Encodes.Statement (.vfmulSc o) := by
  intro o; exact packV_lt (by decide) (bv_lt _ (by decide)) (bv_lt _ (by decide)) (bv_lt _ (by decide)) (by decide) (bv_lt _ (by decide)) (by decide) (bv_lt _ (by decide)) (by decide) (by decide)

theorem Encodes.vfmaccVr : ∀ o, Encodes.Statement (.vfmaccVr o) := by
  intro o; exact packV_lt (by decide) (bv_lt _ (by decide)) (bv_lt _ (by decide)) (bv_lt _ (by decide)) (by decide) (bv_lt _ (by decide)) (bv_lt _ (by decide)) (bv_lt _ (by decide)) (by decide) (by decide)

theorem Encodes.vfmaccSc : ∀ o, Encodes.Statement (.vfmaccSc o) := by
  intro o; exact packV_lt (by decide) (bv_lt _ (by decide)) (bv_lt _ (by decide)) (bv_lt _ (by decide)) (by decide) (bv_lt _ (by decide)) (by decide) (bv_lt _ (by decide)) (by decide) (by decide)

theorem Encodes.vfdivVr : ∀ o, Encodes.Statement (.vfdivVr o) := by
  intro o; exact packV_lt (by decide) (bv_lt _ (by decide)) (bv_lt _ (by decide)) (bv_lt _ (by decide)) (by decide) (bv_lt _ (by decide)) (bv_lt _ (by decide)) (bv_lt _ (by decide)) (by decide) (by decide)

theorem Encodes.vfdivSc : ∀ o, Encodes.Statement (.vfdivSc o) := by
  intro o; exact packV_lt (by decide) (bv_lt _ (by decide)) (bv_lt _ (by decide)) (bv_lt _ (by decide)) (by decide) (bv_lt _ (by decide)) (by decide) (bv_lt _ (by decide)) (by decide) (by decide)

theorem Encodes.vfminVr : ∀ o, Encodes.Statement (.vfminVr o) := by
  intro o; exact packV_lt (by decide) (bv_lt _ (by decide)) (bv_lt _ (by decide)) (bv_lt _ (by decide)) (by decide) (bv_lt _ (by decide)) (bv_lt _ (by decide)) (bv_lt _ (by decide)) (by decide) (by decide)

theorem Encodes.vfminSc : ∀ o, Encodes.Statement (.vfminSc o) := by
  intro o; exact packV_lt (by decide) (bv_lt _ (by decide)) (bv_lt _ (by decide)) (bv_lt _ (by decide)) (by decide) (bv_lt _ (by decide)) (by decide) (bv_lt _ (by decide)) (by decide) (by decide)

theorem Encodes.vfmaxVr : ∀ o, Encodes.Statement (.vfmaxVr o) := by
  intro o; exact packV_lt (by decide) (bv_lt _ (by decide)) (bv_lt _ (by decide)) (bv_lt _ (by decide)) (by decide) (bv_lt _ (by decide)) (bv_lt _ (by decide)) (bv_lt _ (by decide)) (by decide) (by decide)

theorem Encodes.vfmaxSc : ∀ o, Encodes.Statement (.vfmaxSc o) := by
  intro o; exact packV_lt (by decide) (bv_lt _ (by decide)) (bv_lt _ (by decide)) (bv_lt _ (by decide)) (by decide) (bv_lt _ (by decide)) (by decide) (bv_lt _ (by decide)) (by decide) (by decide)

theorem Encodes.vfcpsVr : ∀ o, Encodes.Statement (.vfcpsVr o) := by
  intro o; exact packV_lt (by decide) (bv_lt _ (by decide)) (bv_lt _ (by decide)) (bv_lt _ (by decide)) (by decide) (bv_lt _ (by decide)) (bv_lt _ (by decide)) (bv_lt _ (by decide)) (by decide) (by decide)

theorem Encodes.vfcpsSc : ∀ o, Encodes.Statement (.vfcpsSc o) := by
  intro o; exact packV_lt (by decide) (bv_lt _ (by decide)) (bv_lt _ (by decide)) (bv_lt _ (by decide)) (by decide) (bv_lt _ (by decide)) (by decide) (bv_lt _ (by decide)) (by decide) (by decide)

theorem Encodes.vfcpsnVr : ∀ o, Encodes.Statement (.vfcpsnVr o) := by
  intro o; exact packV_lt (by decide) (bv_lt _ (by decide)) (bv_lt _ (by decide)) (bv_lt _ (by decide)) (by decide) (bv_lt _ (by decide)) (bv_lt _ (by decide)) (bv_lt _ (by decide)) (by decide) (by decide)

theorem Encodes.vfcpsnSc : ∀ o, Encodes.Statement (.vfcpsnSc o) := by
  intro o; exact packV_lt (by decide) (bv_lt _ (by decide)) (bv_lt _ (by decide)) (bv_lt _ (by decide)) (by decide) (bv_lt _ (by decide)) (by decide) (bv_lt _ (by decide)) (by decide) (by decide)

theorem Encodes.vfcpsxVr : ∀ o, Encodes.Statement (.vfcpsxVr o) := by
  intro o; exact packV_lt (by decide) (bv_lt _ (by decide)) (bv_lt _ (by decide)) (bv_lt _ (by decide)) (by decide) (bv_lt _ (by decide)) (bv_lt _ (by decide)) (bv_lt _ (by decide)) (by decide) (by decide)

theorem Encodes.vfcpsxSc : ∀ o, Encodes.Statement (.vfcpsxSc o) := by
  intro o; exact packV_lt (by decide) (bv_lt _ (by decide)) (bv_lt _ (by decide)) (bv_lt _ (by decide)) (by decide) (bv_lt _ (by decide)) (by decide) (bv_lt _ (by decide)) (by decide) (by decide)

theorem Encodes.vfsqrt : ∀ o, Encodes.Statement (.vfsqrt o) := by
  intro o; exact packV_lt (by decide) (bv_lt _ (by decide)) (bv_lt _ (by decide)) (by decide) (by decide) (bv_lt _ (by decide)) (by decide) (bv_lt _ (by decide)) (by decide) (by decide)

theorem Encodes.vfexp2 : ∀ o, Encodes.Statement (.vfexp2 o) := by
  intro o; exact packV_lt (by decide) (bv_lt _ (by decide)) (bv_lt _ (by decide)) (by decide) (by decide) (bv_lt _ (by decide)) (by decide) (bv_lt _ (by decide)) (by decide) (by decide)

theorem Encodes.vfrcp : ∀ o, Encodes.Statement (.vfrcp o) := by
  intro o; exact packV_lt (by decide) (bv_lt _ (by decide)) (bv_lt _ (by decide)) (by decide) (by decide) (bv_lt _ (by decide)) (by decide) (bv_lt _ (by decide)) (by decide) (by decide)

theorem Encodes.vfrsq : ∀ o, Encodes.Statement (.vfrsq o) := by
  intro o; exact packV_lt (by decide) (bv_lt _ (by decide)) (bv_lt _ (by decide)) (by decide) (by decide) (bv_lt _ (by decide)) (by decide) (bv_lt _ (by decide)) (by decide) (by decide)

theorem Encodes.vflog2 : ∀ o, Encodes.Statement (.vflog2 o) := by
  intro o; exact packV_lt (by decide) (bv_lt _ (by decide)) (bv_lt _ (by decide)) (by decide) (by decide) (bv_lt _ (by decide)) (by decide) (bv_lt _ (by decide)) (by decide) (by decide)

theorem Encodes.vfcvtFI : ∀ o, Encodes.Statement (.vfcvtFI o) := by
  intro o; exact packV_lt (by decide) (bv_lt _ (by decide)) (bv_lt _ (by decide)) (by decide) (by decide) (bv_lt _ (by decide)) (by decide) (bv_lt _ (by decide)) (by decide) (by decide)

theorem Encodes.vfcvtFN : ∀ o, Encodes.Statement (.vfcvtFN o) := by
  intro o; exact packV_lt (by decide) (bv_lt _ (by decide)) (bv_lt _ (by decide)) (by decide) (by decide) (bv_lt _ (by decide)) (by decide) (bv_lt _ (by decide)) (by decide) (by decide)

theorem Encodes.vfcvtIF : ∀ o, Encodes.Statement (.vfcvtIF o) := by
  intro o; exact packV_lt (by decide) (bv_lt _ (by decide)) (bv_lt _ (by decide)) (by decide) (by decide) (bv_lt _ (by decide)) (by decide) (bv_lt _ (by decide)) (by decide) (by decide)

theorem Encodes.vfcvtNF : ∀ o, Encodes.Statement (.vfcvtNF o) := by
  intro o; exact packV_lt (by decide) (bv_lt _ (by decide)) (bv_lt _ (by decide)) (by decide) (by decide) (bv_lt _ (by decide)) (by decide) (bv_lt _ (by decide)) (by decide) (by decide)

theorem Encodes.vfcvtBfF : ∀ o, Encodes.Statement (.vfcvtBfF o) := by
  intro o; exact packV_lt (by decide) (bv_lt _ (by decide)) (bv_lt _ (by decide)) (by decide) (by decide) (bv_lt _ (by decide)) (by decide) (bv_lt _ (by decide)) (by decide) (by decide)

theorem Encodes.vfcvtFBf : ∀ o, Encodes.Statement (.vfcvtFBf o) := by
  intro o; exact packV_lt (by decide) (bv_lt _ (by decide)) (bv_lt _ (by decide)) (by decide) (by decide) (bv_lt _ (by decide)) (by decide) (bv_lt _ (by decide)) (by decide) (by decide)

theorem Encodes.vfcvtDxb8F : ∀ o, Encodes.Statement (.vfcvtDxb8F o) := by
  intro o; exact packV_lt (by decide) (bv_lt _ (by decide)) (bv_lt _ (by decide)) (by decide) (by decide) (bv_lt _ (by decide)) (by decide) (by decide) (by decide) (bv_lt _ (by decide))

theorem Encodes.vfcvtDxb4F : ∀ o, Encodes.Statement (.vfcvtDxb4F o) := by
  intro o; exact packV_lt (by decide) (bv_lt _ (by decide)) (bv_lt _ (by decide)) (by decide) (by decide) (bv_lt _ (by decide)) (by decide) (by decide) (by decide) (bv_lt _ (by decide))

theorem Encodes.vfcvtFDxb8 : ∀ o, Encodes.Statement (.vfcvtFDxb8 o) := by
  intro o; exact packV_lt (by decide) (bv_lt _ (by decide)) (bv_lt _ (by decide)) (by decide) (by decide) (bv_lt _ (by decide)) (by decide) (bv_lt _ (by decide)) (by decide) (by decide)

theorem Encodes.vfcvtFDxb4 : ∀ o, Encodes.Statement (.vfcvtFDxb4 o) := by
  intro o; exact packV_lt (by decide) (bv_lt _ (by decide)) (bv_lt _ (by decide)) (by decide) (by decide) (bv_lt _ (by decide)) (by decide) (bv_lt _ (by decide)) (by decide) (by decide)

theorem Encodes.vceqVr : ∀ o, Encodes.Statement (.vceqVr o) := by
  intro o; exact packV_lt (by decide) (bv_lt _ (by decide)) (bv_lt _ (by decide)) (bv_lt _ (by decide)) (by decide) (bv_lt _ (by decide)) (bv_lt _ (by decide)) (bv_lt _ (by decide)) (by decide) (by decide)

theorem Encodes.vceqSc : ∀ o, Encodes.Statement (.vceqSc o) := by
  intro o; exact packV_lt (by decide) (bv_lt _ (by decide)) (bv_lt _ (by decide)) (bv_lt _ (by decide)) (by decide) (bv_lt _ (by decide)) (by decide) (bv_lt _ (by decide)) (by decide) (by decide)

theorem Encodes.vcneVr : ∀ o, Encodes.Statement (.vcneVr o) := by
  intro o; exact packV_lt (by decide) (bv_lt _ (by decide)) (bv_lt _ (by decide)) (bv_lt _ (by decide)) (by decide) (bv_lt _ (by decide)) (bv_lt _ (by decide)) (bv_lt _ (by decide)) (by decide) (by decide)

theorem Encodes.vcneSc : ∀ o, Encodes.Statement (.vcneSc o) := by
  intro o; exact packV_lt (by decide) (bv_lt _ (by decide)) (bv_lt _ (by decide)) (bv_lt _ (by decide)) (by decide) (bv_lt _ (by decide)) (by decide) (bv_lt _ (by decide)) (by decide) (by decide)

theorem Encodes.vcltVr : ∀ o, Encodes.Statement (.vcltVr o) := by
  intro o; exact packV_lt (by decide) (bv_lt _ (by decide)) (bv_lt _ (by decide)) (bv_lt _ (by decide)) (by decide) (bv_lt _ (by decide)) (bv_lt _ (by decide)) (bv_lt _ (by decide)) (by decide) (by decide)

theorem Encodes.vcltSc : ∀ o, Encodes.Statement (.vcltSc o) := by
  intro o; exact packV_lt (by decide) (bv_lt _ (by decide)) (bv_lt _ (by decide)) (bv_lt _ (by decide)) (by decide) (bv_lt _ (by decide)) (by decide) (bv_lt _ (by decide)) (by decide) (by decide)

theorem Encodes.vcltnVr : ∀ o, Encodes.Statement (.vcltnVr o) := by
  intro o; exact packV_lt (by decide) (bv_lt _ (by decide)) (bv_lt _ (by decide)) (bv_lt _ (by decide)) (by decide) (bv_lt _ (by decide)) (bv_lt _ (by decide)) (bv_lt _ (by decide)) (by decide) (by decide)

theorem Encodes.vcltnSc : ∀ o, Encodes.Statement (.vcltnSc o) := by
  intro o; exact packV_lt (by decide) (bv_lt _ (by decide)) (bv_lt _ (by decide)) (bv_lt _ (by decide)) (by decide) (bv_lt _ (by decide)) (by decide) (bv_lt _ (by decide)) (by decide) (by decide)

theorem Encodes.vcleVr : ∀ o, Encodes.Statement (.vcleVr o) := by
  intro o; exact packV_lt (by decide) (bv_lt _ (by decide)) (bv_lt _ (by decide)) (bv_lt _ (by decide)) (by decide) (bv_lt _ (by decide)) (bv_lt _ (by decide)) (bv_lt _ (by decide)) (by decide) (by decide)

theorem Encodes.vcleSc : ∀ o, Encodes.Statement (.vcleSc o) := by
  intro o; exact packV_lt (by decide) (bv_lt _ (by decide)) (bv_lt _ (by decide)) (bv_lt _ (by decide)) (by decide) (bv_lt _ (by decide)) (by decide) (bv_lt _ (by decide)) (by decide) (by decide)

theorem Encodes.vclenVr : ∀ o, Encodes.Statement (.vclenVr o) := by
  intro o; exact packV_lt (by decide) (bv_lt _ (by decide)) (bv_lt _ (by decide)) (bv_lt _ (by decide)) (by decide) (bv_lt _ (by decide)) (bv_lt _ (by decide)) (bv_lt _ (by decide)) (by decide) (by decide)

theorem Encodes.vclenSc : ∀ o, Encodes.Statement (.vclenSc o) := by
  intro o; exact packV_lt (by decide) (bv_lt _ (by decide)) (bv_lt _ (by decide)) (bv_lt _ (by decide)) (by decide) (bv_lt _ (by decide)) (by decide) (bv_lt _ (by decide)) (by decide) (by decide)

theorem Encodes.vcgtSc : ∀ o, Encodes.Statement (.vcgtSc o) := by
  intro o; exact packV_lt (by decide) (bv_lt _ (by decide)) (bv_lt _ (by decide)) (bv_lt _ (by decide)) (by decide) (bv_lt _ (by decide)) (by decide) (bv_lt _ (by decide)) (by decide) (by decide)

theorem Encodes.vcgtnSc : ∀ o, Encodes.Statement (.vcgtnSc o) := by
  intro o; exact packV_lt (by decide) (bv_lt _ (by decide)) (bv_lt _ (by decide)) (bv_lt _ (by decide)) (by decide) (bv_lt _ (by decide)) (by decide) (bv_lt _ (by decide)) (by decide) (by decide)

theorem Encodes.vfceqVr : ∀ o, Encodes.Statement (.vfceqVr o) := by
  intro o; exact packV_lt (by decide) (bv_lt _ (by decide)) (bv_lt _ (by decide)) (bv_lt _ (by decide)) (by decide) (bv_lt _ (by decide)) (bv_lt _ (by decide)) (bv_lt _ (by decide)) (by decide) (by decide)

theorem Encodes.vfceqSc : ∀ o, Encodes.Statement (.vfceqSc o) := by
  intro o; exact packV_lt (by decide) (bv_lt _ (by decide)) (bv_lt _ (by decide)) (bv_lt _ (by decide)) (by decide) (bv_lt _ (by decide)) (by decide) (bv_lt _ (by decide)) (by decide) (by decide)

theorem Encodes.vfcneVr : ∀ o, Encodes.Statement (.vfcneVr o) := by
  intro o; exact packV_lt (by decide) (bv_lt _ (by decide)) (bv_lt _ (by decide)) (bv_lt _ (by decide)) (by decide) (bv_lt _ (by decide)) (bv_lt _ (by decide)) (bv_lt _ (by decide)) (by decide) (by decide)

theorem Encodes.vfcneSc : ∀ o, Encodes.Statement (.vfcneSc o) := by
  intro o; exact packV_lt (by decide) (bv_lt _ (by decide)) (bv_lt _ (by decide)) (bv_lt _ (by decide)) (by decide) (bv_lt _ (by decide)) (by decide) (bv_lt _ (by decide)) (by decide) (by decide)

theorem Encodes.vfcltVr : ∀ o, Encodes.Statement (.vfcltVr o) := by
  intro o; exact packV_lt (by decide) (bv_lt _ (by decide)) (bv_lt _ (by decide)) (bv_lt _ (by decide)) (by decide) (bv_lt _ (by decide)) (bv_lt _ (by decide)) (bv_lt _ (by decide)) (by decide) (by decide)

theorem Encodes.vfcltSc : ∀ o, Encodes.Statement (.vfcltSc o) := by
  intro o; exact packV_lt (by decide) (bv_lt _ (by decide)) (bv_lt _ (by decide)) (bv_lt _ (by decide)) (by decide) (bv_lt _ (by decide)) (by decide) (bv_lt _ (by decide)) (by decide) (by decide)

theorem Encodes.vfcleVr : ∀ o, Encodes.Statement (.vfcleVr o) := by
  intro o; exact packV_lt (by decide) (bv_lt _ (by decide)) (bv_lt _ (by decide)) (bv_lt _ (by decide)) (by decide) (bv_lt _ (by decide)) (bv_lt _ (by decide)) (bv_lt _ (by decide)) (by decide) (by decide)

theorem Encodes.vfcleSc : ∀ o, Encodes.Statement (.vfcleSc o) := by
  intro o; exact packV_lt (by decide) (bv_lt _ (by decide)) (bv_lt _ (by decide)) (bv_lt _ (by decide)) (by decide) (bv_lt _ (by decide)) (by decide) (bv_lt _ (by decide)) (by decide) (by decide)

theorem Encodes.kand : ∀ o, Encodes.Statement (.kand o) := by
  intro o; exact packV_lt (by decide) (bv_lt _ (by decide)) (bv_lt _ (by decide)) (bv_lt _ (by decide)) (by decide) (by decide) (by decide) (by decide) (by decide) (by decide)

theorem Encodes.kor : ∀ o, Encodes.Statement (.kor o) := by
  intro o; exact packV_lt (by decide) (bv_lt _ (by decide)) (bv_lt _ (by decide)) (bv_lt _ (by decide)) (by decide) (by decide) (by decide) (by decide) (by decide) (by decide)

theorem Encodes.kxor : ∀ o, Encodes.Statement (.kxor o) := by
  intro o; exact packV_lt (by decide) (bv_lt _ (by decide)) (bv_lt _ (by decide)) (bv_lt _ (by decide)) (by decide) (by decide) (by decide) (by decide) (by decide) (by decide)

theorem Encodes.knot : ∀ o, Encodes.Statement (.knot o) := by
  intro o; exact packV_lt (by decide) (bv_lt _ (by decide)) (bv_lt _ (by decide)) (by decide) (by decide) (by decide) (by decide) (by decide) (by decide) (by decide)

theorem Encodes.kffs : ∀ o, Encodes.Statement (.kffs o) := by
  intro o; exact packV_lt (by decide) (bv_lt _ (by decide)) (bv_lt _ (by decide)) (by decide) (by decide) (by decide) (by decide) (by decide) (by decide) (by decide)

theorem Encodes.kpopc : ∀ o, Encodes.Statement (.kpopc o) := by
  intro o; exact packV_lt (by decide) (bv_lt _ (by decide)) (bv_lt _ (by decide)) (by decide) (by decide) (by decide) (by decide) (by decide) (by decide) (by decide)

theorem Encodes.kmvx : ∀ o, Encodes.Statement (.kmvx o) := by
  intro o; exact packV_lt (by decide) (bv_lt _ (by decide)) (bv_lt _ (by decide)) (by decide) (by decide) (by decide) (by decide) (by decide) (by decide) (bv_lt _ (by decide))

theorem Encodes.vmergeVr : ∀ o, Encodes.Statement (.vmergeVr o) := by
  intro o; exact packV_lt (by decide) (bv_lt _ (by decide)) (bv_lt _ (by decide)) (bv_lt _ (by decide)) (by decide) (bv_lt _ (by decide)) (bv_lt _ (by decide)) (bv_lt _ (by decide)) (by decide) (by decide)

theorem Encodes.vmergeSc : ∀ o, Encodes.Statement (.vmergeSc o) := by
  intro o; exact packV_lt (by decide) (bv_lt _ (by decide)) (bv_lt _ (by decide)) (bv_lt _ (by decide)) (by decide) (bv_lt _ (by decide)) (by decide) (bv_lt _ (by decide)) (by decide) (by decide)

theorem Encodes.vmergeIm : ∀ o, Encodes.Statement (.vmergeIm o) := by
  intro o; exact packV_lt (by decide) (bv_lt _ (by decide)) (bv_lt _ (by decide)) (by decide) (by decide) (bv_lt _ (by decide)) (by decide) (bv_lt _ (by decide)) (by decide) (bv_lt _ (by decide))

theorem Encodes.vsumr : ∀ o, Encodes.Statement (.vsumr o) := by
  intro o; exact packV_lt (by decide) (bv_lt _ (by decide)) (bv_lt _ (by decide)) (bv_lt _ (by decide)) (by decide) (bv_lt _ (by decide)) (bv_lt _ (by decide)) (bv_lt _ (by decide)) (by decide) (by decide)

theorem Encodes.vmaxr : ∀ o, Encodes.Statement (.vmaxr o) := by
  intro o; exact packV_lt (by decide) (bv_lt _ (by decide)) (bv_lt _ (by decide)) (bv_lt _ (by decide)) (by decide) (bv_lt _ (by decide)) (bv_lt _ (by decide)) (bv_lt _ (by decide)) (by decide) (by decide)

theorem Encodes.vmaxnr : ∀ o, Encodes.Statement (.vmaxnr o) := by
  intro o; exact packV_lt (by decide) (bv_lt _ (by decide)) (bv_lt _ (by decide)) (bv_lt _ (by decide)) (by decide) (bv_lt _ (by decide)) (bv_lt _ (by decide)) (bv_lt _ (by decide)) (by decide) (by decide)

theorem Encodes.vminr : ∀ o, Encodes.Statement (.vminr o) := by
  intro o; exact packV_lt (by decide) (bv_lt _ (by decide)) (bv_lt _ (by decide)) (bv_lt _ (by decide)) (by decide) (bv_lt _ (by decide)) (bv_lt _ (by decide)) (bv_lt _ (by decide)) (by decide) (by decide)

theorem Encodes.vminnr : ∀ o, Encodes.Statement (.vminnr o) := by
  intro o; exact packV_lt (by decide) (bv_lt _ (by decide)) (bv_lt _ (by decide)) (bv_lt _ (by decide)) (by decide) (bv_lt _ (by decide)) (bv_lt _ (by decide)) (bv_lt _ (by decide)) (by decide) (by decide)

theorem Encodes.vfsumr : ∀ o, Encodes.Statement (.vfsumr o) := by
  intro o; exact packV_lt (by decide) (bv_lt _ (by decide)) (bv_lt _ (by decide)) (bv_lt _ (by decide)) (by decide) (bv_lt _ (by decide)) (bv_lt _ (by decide)) (bv_lt _ (by decide)) (by decide) (by decide)

theorem Encodes.vfmaxr : ∀ o, Encodes.Statement (.vfmaxr o) := by
  intro o; exact packV_lt (by decide) (bv_lt _ (by decide)) (bv_lt _ (by decide)) (bv_lt _ (by decide)) (by decide) (bv_lt _ (by decide)) (bv_lt _ (by decide)) (bv_lt _ (by decide)) (by decide) (by decide)

theorem Encodes.vfminr : ∀ o, Encodes.Statement (.vfminr o) := by
  intro o; exact packV_lt (by decide) (bv_lt _ (by decide)) (bv_lt _ (by decide)) (bv_lt _ (by decide)) (by decide) (bv_lt _ (by decide)) (bv_lt _ (by decide)) (bv_lt _ (by decide)) (by decide) (by decide)

theorem Encodes.vslideupSc : ∀ o, Encodes.Statement (.vslideupSc o) := by
  intro o; exact packV_lt (by decide) (bv_lt _ (by decide)) (bv_lt _ (by decide)) (bv_lt _ (by decide)) (by decide) (bv_lt _ (by decide)) (by decide) (bv_lt _ (by decide)) (by decide) (by decide)

theorem Encodes.vslideupIm : ∀ o, Encodes.Statement (.vslideupIm o) := by
  intro o; exact packV_lt (by decide) (bv_lt _ (by decide)) (bv_lt _ (by decide)) (by decide) (by decide) (bv_lt _ (by decide)) (by decide) (bv_lt _ (by decide)) (by decide) (bv_lt _ (by decide))

theorem Encodes.vslidednSc : ∀ o, Encodes.Statement (.vslidednSc o) := by
  intro o; exact packV_lt (by decide) (bv_lt _ (by decide)) (bv_lt _ (by decide)) (bv_lt _ (by decide)) (by decide) (bv_lt _ (by decide)) (by decide) (bv_lt _ (by decide)) (by decide) (by decide)

theorem Encodes.vslidednIm : ∀ o, Encodes.Statement (.vslidednIm o) := by
  intro o; exact packV_lt (by decide) (bv_lt _ (by decide)) (bv_lt _ (by decide)) (by decide) (by decide) (bv_lt _ (by decide)) (by decide) (bv_lt _ (by decide)) (by decide) (bv_lt _ (by decide))

theorem Encodes.vslide1up : ∀ o, Encodes.Statement (.vslide1up o) := by
  intro o; exact packV_lt (by decide) (bv_lt _ (by decide)) (bv_lt _ (by decide)) (bv_lt _ (by decide)) (by decide) (bv_lt _ (by decide)) (by decide) (bv_lt _ (by decide)) (by decide) (by decide)

theorem Encodes.vrgather : ∀ o, Encodes.Statement (.vrgather o) := by
  intro o; exact packV_lt (by decide) (bv_lt _ (by decide)) (bv_lt _ (by decide)) (bv_lt _ (by decide)) (by decide) (bv_lt _ (by decide)) (bv_lt _ (by decide)) (bv_lt _ (by decide)) (by decide) (by decide)

theorem Encodes.vcompress : ∀ o, Encodes.Statement (.vcompress o) := by
  intro o; exact packV_lt (by decide) (bv_lt _ (by decide)) (bv_lt _ (by decide)) (by decide) (by decide) (bv_lt _ (by decide)) (by decide) (bv_lt _ (by decide)) (by decide) (by decide)

theorem Encodes.vreshp : ∀ o, Encodes.Statement (.vreshp o) := by
  intro o; exact packV_lt (by decide) (bv_lt _ (by decide)) (bv_lt _ (by decide)) (bv_lt _ (by decide)) (by decide) (bv_lt _ (by decide)) (by decide) (by decide) (by decide) (bv_lt _ (by decide))

theorem Encodes.vidx : ∀ o, Encodes.Statement (.vidx o) := by
  intro o; exact packV_lt (by decide) (bv_lt _ (by decide)) (by decide) (by decide) (by decide) (by decide) (by decide) (bv_lt _ (by decide)) (by decide) (bv_lt _ (by decide))

theorem Encodes.vmvVr : ∀ o, Encodes.Statement (.vmvVr o) := by
  intro o; exact packV_lt (by decide) (bv_lt _ (by decide)) (bv_lt _ (by decide)) (by decide) (by decide) (bv_lt _ (by decide)) (by decide) (bv_lt _ (by decide)) (by decide) (by decide)

theorem Encodes.vmvSc : ∀ o, Encodes.Statement (.vmvSc o) := by
  intro o; exact packV_lt (by decide) (bv_lt _ (by decide)) (by decide) (bv_lt _ (by decide)) (by decide) (by decide) (by decide) (bv_lt _ (by decide)) (by decide) (by decide)

theorem Encodes.vmvIm : ∀ o, Encodes.Statement (.vmvIm o) := by
  intro o; exact packV_lt (by decide) (bv_lt _ (by decide)) (by decide) (by decide) (by decide) (by decide) (by decide) (bv_lt _ (by decide)) (by decide) (bv_lt _ (by decide))

theorem Encodes.vmvxs : ∀ o, Encodes.Statement (.vmvxs o) := by
  intro o; exact packV_lt (by decide) (bv_lt _ (by decide)) (bv_lt _ (by decide)) (by decide) (by decide) (bv_lt _ (by decide)) (by decide) (by decide) (by decide) (by decide)

theorem Encodes.vmvsx : ∀ o, Encodes.Statement (.vmvsx o) := by
  intro o; exact packV_lt (by decide) (bv_lt _ (by decide)) (bv_lt _ (by decide)) (by decide) (by decide) (by decide) (by decide) (by decide) (by decide) (by decide)

theorem Encodes.vld : ∀ o, Encodes.Statement (.vld o) := by
  intro o; exact packV_lt (by decide) (bv_lt _ (by decide)) (bv_lt _ (by decide)) (by decide) (by decide) (by decide) (by decide) (bv_lt _ (by decide)) (clsFn_lt _) (by decide)

theorem Encodes.vlds : ∀ o, Encodes.Statement (.vlds o) := by
  intro o; exact packV_lt (by decide) (bv_lt _ (by decide)) (bv_lt _ (by decide)) (bv_lt _ (by decide)) (by decide) (by decide) (by decide) (bv_lt _ (by decide)) (clsFn_lt _) (by decide)

theorem Encodes.vldx : ∀ o, Encodes.Statement (.vldx o) := by
  intro o; exact packV_lt (by decide) (bv_lt _ (by decide)) (bv_lt _ (by decide)) (bv_lt _ (by decide)) (by decide) (by decide) (bv_lt _ (by decide)) (bv_lt _ (by decide)) (clsFn_lt _) (bv_lt _ (by decide))

theorem Encodes.vldff : ∀ o, Encodes.Statement (.vldff o) := by
  intro o; exact packV_lt (by decide) (bv_lt _ (by decide)) (bv_lt _ (by decide)) (by decide) (by decide) (by decide) (by decide) (bv_lt _ (by decide)) (clsFn_lt _) (by decide)

theorem Encodes.vldseg : ∀ o, Encodes.Statement (.vldseg o) := by
  intro o; exact packV_lt (by decide) (bv_lt _ (by decide)) (bv_lt _ (by decide)) (bv_lt _ (by decide)) (by decide) (by decide) (by decide) (bv_lt _ (by decide)) (clsFn_lt _) (by have := b2n_le o.ext; omega)

theorem Encodes.vst : ∀ o, Encodes.Statement (.vst o) := by
  intro o; exact packV_lt (by decide) (bv_lt _ (by decide)) (bv_lt _ (by decide)) (by decide) (by decide) (by decide) (by decide) (bv_lt _ (by decide)) (clsFn_lt _) (by decide)

theorem Encodes.vsts : ∀ o, Encodes.Statement (.vsts o) := by
  intro o; exact packV_lt (by decide) (bv_lt _ (by decide)) (bv_lt _ (by decide)) (bv_lt _ (by decide)) (by decide) (by decide) (by decide) (bv_lt _ (by decide)) (clsFn_lt _) (by decide)

theorem Encodes.vstx : ∀ o, Encodes.Statement (.vstx o) := by
  intro o; exact packV_lt (by decide) (bv_lt _ (by decide)) (bv_lt _ (by decide)) (bv_lt _ (by decide)) (by decide) (by decide) (bv_lt _ (by decide)) (bv_lt _ (by decide)) (clsFn_lt _) (bv_lt _ (by decide))

theorem Encodes.vstseg : ∀ o, Encodes.Statement (.vstseg o) := by
  intro o; exact packV_lt (by decide) (bv_lt _ (by decide)) (bv_lt _ (by decide)) (bv_lt _ (by decide)) (by decide) (by decide) (by decide) (bv_lt _ (by decide)) (clsFn_lt _) (by have := b2n_le o.ext; omega)

theorem Encodes.vaadd : ∀ o, Encodes.Statement (.vaadd o) := by
  intro o; exact packV_lt (by decide) (bv_lt _ (by decide)) (bv_lt _ (by decide)) (bv_lt _ (by decide)) (bv_lt _ (by decide)) (by decide) (bv_lt _ (by decide)) (bv_lt _ (by decide)) (clsFn_lt _) (bv_lt _ (by decide))

theorem Encodes.vaand : ∀ o, Encodes.Statement (.vaand o) := by
  intro o; exact packV_lt (by decide) (bv_lt _ (by decide)) (bv_lt _ (by decide)) (bv_lt _ (by decide)) (bv_lt _ (by decide)) (by decide) (bv_lt _ (by decide)) (bv_lt _ (by decide)) (clsFn_lt _) (bv_lt _ (by decide))

theorem Encodes.vaor : ∀ o, Encodes.Statement (.vaor o) := by
  intro o; exact packV_lt (by decide) (bv_lt _ (by decide)) (bv_lt _ (by decide)) (bv_lt _ (by decide)) (bv_lt _ (by decide)) (by decide) (bv_lt _ (by decide)) (bv_lt _ (by decide)) (clsFn_lt _) (bv_lt _ (by decide))

theorem Encodes.vaxor : ∀ o, Encodes.Statement (.vaxor o) := by
  intro o; exact packV_lt (by decide) (bv_lt _ (by decide)) (bv_lt _ (by decide)) (bv_lt _ (by decide)) (bv_lt _ (by decide)) (by decide) (bv_lt _ (by decide)) (bv_lt _ (by decide)) (clsFn_lt _) (bv_lt _ (by decide))

theorem Encodes.vamin : ∀ o, Encodes.Statement (.vamin o) := by
  intro o; exact packV_lt (by decide) (bv_lt _ (by decide)) (bv_lt _ (by decide)) (bv_lt _ (by decide)) (bv_lt _ (by decide)) (by decide) (bv_lt _ (by decide)) (bv_lt _ (by decide)) (clsFn_lt _) (bv_lt _ (by decide))

theorem Encodes.vamax : ∀ o, Encodes.Statement (.vamax o) := by
  intro o; exact packV_lt (by decide) (bv_lt _ (by decide)) (bv_lt _ (by decide)) (bv_lt _ (by decide)) (bv_lt _ (by decide)) (by decide) (bv_lt _ (by decide)) (bv_lt _ (by decide)) (clsFn_lt _) (bv_lt _ (by decide))

theorem Encodes.vaswap : ∀ o, Encodes.Statement (.vaswap o) := by
  intro o; exact packV_lt (by decide) (bv_lt _ (by decide)) (bv_lt _ (by decide)) (bv_lt _ (by decide)) (bv_lt _ (by decide)) (by decide) (bv_lt _ (by decide)) (bv_lt _ (by decide)) (clsFn_lt _) (bv_lt _ (by decide))

theorem Encodes.vacas : ∀ o, Encodes.Statement (.vacas o) := by
  intro o; exact packV_lt (by decide) (bv_lt _ (by decide)) (bv_lt _ (by decide)) (bv_lt _ (by decide)) (bv_lt _ (by decide)) (by decide) (bv_lt _ (by decide)) (bv_lt _ (by decide)) (clsFn_lt _) (bv_lt _ (by decide))

theorem Encodes.mprec : ∀ xa fa, Encodes.Statement (.mprec xa fa) := by
  intro xa fa; exact packV_lt (by decide) (by decide) (bv_lt _ (by decide)) (by decide) (by decide) (by decide) (by decide) (by decide) (by decide) (by decide)

theorem Encodes.mclaim : Encodes.Statement (.mclaim) := by
  exact packV_lt (by decide) (by decide) (by decide) (by decide) (by decide) (by decide) (by decide) (by decide) (by decide) (by decide)

theorem Encodes.mrel : Encodes.Statement (.mrel) := by
  exact packV_lt (by decide) (by decide) (by decide) (by decide) (by decide) (by decide) (by decide) (by decide) (by decide) (by decide)

theorem Encodes.mldb : ∀ o, Encodes.Statement (.mldb o) := by
  intro o; exact packV_lt (by decide) (by decide) (bv_lt _ (by decide)) (by decide) (by decide) (by decide) (by decide) (by decide) (clsFn_lt _) (bv_lt _ (by decide))

theorem Encodes.mzero : Encodes.Statement (.mzero) := by
  exact packV_lt (by decide) (by decide) (by decide) (by decide) (by decide) (by decide) (by decide) (by decide) (by decide) (by decide)

theorem Encodes.mma : ∀ o, Encodes.Statement (.mma o) := by
  intro o; exact packV_lt (by decide) (by decide) (bv_lt _ (by decide)) (by decide) (by decide) (by decide) (by decide) (by decide) (by decide) (bv_lt _ (by decide))

theorem Encodes.mmaf : ∀ o, Encodes.Statement (.mmaf o) := by
  intro o; exact packV_lt (by decide) (by decide) (bv_lt _ (by decide)) (by decide) (by decide) (by decide) (by decide) (by decide) (by decide) (bv_lt _ (by decide))

theorem Encodes.mmat : ∀ o, Encodes.Statement (.mmat o) := by
  intro o; exact packV_lt (by decide) (by decide) (bv_lt _ (by decide)) (by decide) (by decide) (by decide) (by decide) (by decide) (by decide) (bv_lt _ (by decide))

theorem Encodes.mscale : ∀ o, Encodes.Statement (.mscale o) := by
  intro o; exact packV_lt (by decide) (by decide) (bv_lt _ (by decide)) (bv_lt _ (by decide)) (by decide) (by decide) (by decide) (by decide) (by decide) (by have := b2n_le o.src; have := b2n_le o.sfmt; omega)

theorem Encodes.mcvt : ∀ o, Encodes.Statement (.mcvt o) := by
  intro o; exact packV_lt (by decide) (bv_lt _ (by decide)) (by decide) (by decide) (by decide) (by decide) (by decide) (by decide) (by decide) (by omega)

theorem Encodes.endOp : Encodes.Statement (.endOp) := by
  show 0 * 134217728 < 2 ^ 32; omega

theorem Encodes.rcpy : ∀ o, Encodes.Statement (.rcpy o) := by
  intro o; show 1 * 134217728 + o.dst.toNat * 262144 + o.src.toNat * 512 < 2 ^ 32; omega

theorem Encodes.tra : ∀ o, Encodes.Statement (.tra o) := by
  intro o; show 2 * 134217728 + o.dst.toNat * 262144 + o.ta.toNat * 16384 + o.tb.toNat * 1024 + o.tc.toNat * 64 < 2 ^ 32; omega

theorem Encodes.tran : ∀ o, Encodes.Statement (.tran o) := by
  intro o; show 3 * 134217728 + o.dst.toNat * 262144 + o.ta.toNat * 16384 + o.tb.toNat * 1024 + o.tc.toNat * 64 < 2 ^ 32; omega

theorem Encodes.negr : ∀ o, Encodes.Statement (.negr o) := by
  intro o; show 4 * 134217728 + o.dst.toNat * 262144 + o.src.toNat * 512 < 2 ^ 32; omega

theorem Encodes.shl : ∀ o, Encodes.Statement (.shl o) := by
  intro o; show 5 * 134217728 + o.dst.toNat * 262144 + o.src.toNat * 512 + o.k.toNat * 32 < 2 ^ 32; omega

theorem Encodes.shr : ∀ o, Encodes.Statement (.shr o) := by
  intro o; show 6 * 134217728 + o.dst.toNat * 262144 + o.src.toNat * 512 + o.k.toNat * 32 < 2 ^ 32; omega

theorem Encodes.clr : ∀ dst, Encodes.Statement (.clr dst) := by
  intro dst; show 7 * 134217728 + dst.toNat * 262144 < 2 ^ 32; omega

theorem Encodes.set : ∀ dst, Encodes.Statement (.set dst) := by
  intro dst; show 8 * 134217728 + dst.toNat * 262144 < 2 ^ 32; omega

theorem Encodes.seal : ∀ dst, Encodes.Statement (.seal dst) := by
  intro dst; show 9 * 134217728 + dst.toNat * 262144 < 2 ^ 32; omega

theorem Encodes.brd : ∀ o, Encodes.Statement (.brd o) := by
  intro o; have := b2n_le o.x; show 10 * 134217728 + o.dst.toNat * 262144 + o.ksel.toNat * 65536 + b2n o.x * 32768 + o.off.toNat * 1024 < 2 ^ 32; omega

theorem Encodes.loopc : ∀ o, Encodes.Statement (.loopc o) := by
  intro o; have := b2n_le o.n; show 11 * 134217728 + b2n o.n * 67108864 + o.inc.toNat * 16777216 + o.rst.toNat * 4194304 + o.target.toNat < 2 ^ 32; omega

theorem Encodes.brz : ∀ o, Encodes.Statement (.brz o) := by
  intro o; show 12 * 134217728 + o.row.toNat * 262144 + o.flg.toNat * 32768 + o.target.toNat < 2 ^ 32; omega

theorem Encodes.yield : Encodes.Statement (.yield) := by
  show 13 * 134217728 < 2 ^ 32; omega

theorem Encodes.sync : Encodes.Statement (.sync) := by
  show 14 * 134217728 < 2 ^ 32; omega

theorem Encodes.unassignedEncoding : ∀ x0, Encodes.Statement (.unassignedEncoding x0) := by intros; trivial

theorem Encodes.hselDone : ∀ x0, Encodes.Statement (.hselDone x0) := by intros; trivial

theorem Encodes.dramBelow85c : ∀ x0, Encodes.Statement (.dramBelow85c x0) := by intros; trivial

end Sys2Proof.Laws
end

