-- ==== Sys2Proof/Tests/Slice0.lean ====
section
/-! SUPPORT. Tests on fixed values, and a state that meets the hypotheses of each statement.

Words are written out from the encoding tables of spec/; expected results are worked out by hand from the rules. -/
namespace Sys2Proof.Tests
open Sys2Proof Sys2Proof.Machine
noncomputable section
set_option Elab.async false

/-! ### Small states -/

/-- A context of the resident program at the start of its I-store window, with a handler. -/
def tv : Vlc :=
  { status := .running, resident := true, agent := sysAgent, pc := 0xFF000000100000, tvec := 0xFF000000100800,
    x := [(1, 0x1000), (2, 0x2000), (3, 5), (6, 100), (7, 7), (8, 0xFFFFFFFFFFFFFFFF), (9, 0xFF000000000000), (10, 0xFF000000001000), (11, 0xFF000000100010)] }

/-- A module whose VLC 0 is `v`; the DRAM of vault 0 is a region of the system agent (R331). -/
def ts (v : Vlc) : State :=
  { State.reset with nextId := 9, plat := { released := true, service := true }, vlcs := [(0, v)], toks := [(0, { kind := 1, base := 0, pages := 0x180000, owner := sysAgent })] }

/-- The state that a meaning answers. -/
def after (r : Host.Outcome State Fault Refusal) : State := match r with | .next t => t | _ => State.reset

/-- Whether a check passes with `x`. -/
def okIs {ε α : Type} [DecidableEq α] (r : Except ε α) (x : α) : Bool := match r with | .ok y => decide (y = x) | .error _ => false

/-- Whether a check fails with `x`. -/
def badIs {ε α : Type} [DecidableEq ε] (r : Except ε α) (x : ε) : Bool := match r with | .ok _ => false | .error y => decide (y = x)

theorem okIs_eq {ε α : Type} [DecidableEq α] (r : Except ε α) (x : α) (h : okIs r x = true) : r = .ok x := by
  cases r <;> simp_all [okIs]

theorem badIs_eq {ε α : Type} [DecidableEq ε] (r : Except ε α) (x : ε) (h : badIs r x = true) : r = .error x := by
  cases r <;> simp_all [badIs]

/-- x register `k` of VLC 0 after a word. -/
def xAfter (i : Instr) (v : Vlc) (k : Nat) : Word := (after (exec i (ts v))).me.rx k

/-! ### Statements 1 to 6 -/

theorem witness_issue : CanIssue (ts tv) [6, 7] 5 ∧ CanIssue (ts tv) [6] 5 ∧ CanIssue (ts tv) [] 5 ∧ CanIssue (ts tv) [6, 0] 0 ∧ CanIssue (ts tv) [] 31 ∧
    tv.isEmpty 5 = false ∧ MayTrap (ts tv) := by unfold CanIssue MayTrap; decide +kernel

theorem witness_branches :
    inIstore (tv.pc + BitVec.ofInt 64 ((2 : BitVec 16).toInt * 4)).toNat = true ∧ inIstore (tv.pc + BitVec.ofInt 64 ((-1 : BitVec 16).toInt * 4)).toNat = false ∧
    inIstore (tv.rx 11 + BitVec.ofInt 64 ((4 : BitVec 16).toInt)).toNat = true ∧ (tv.rx 11 + BitVec.ofInt 64 ((4 : BitVec 16).toInt)).toNat % 4 = 0 ∧
    (tv.rx 11 + BitVec.ofInt 64 ((3 : BitVec 16).toInt)).toNat % 4 ≠ 0 ∧ inIstore (tv.rx 1).toNat = false ∧ (tv.rx 1).toNat % 4 = 0 ∧
    tv.rx 3 ≠ tv.rx 7 ∧ (tv.rx 8).toInt < (tv.rx 0).toInt ∧ (tv.rx 0).toNat < (tv.rx 8).toNat := by decide +kernel

/-- A context in its handler. -/
def tvH : Vlc := { tv with hnd := true, hndAt := 3, epc := 0xFF000000100040 }

theorem witness_traps : CanIssue (ts tvH) [] 0 ∧ tvH.hnd = true ∧ CanIssue (ts { tv with tvec := 0 }) [] 0 ∧ MayTrap (ts tv) ∧ (ts tvH).me.ready = true ∧
    (let s := ts { tv with empty := 64 }
     MayTrap s ∧ s.me.ready = true ∧ s.me.isEmpty 6 = true ∧ s.me.isEmpty 7 = false ∧ (locksOf s 0).length < 4) := by
  unfold CanIssue MayTrap; decide +kernel

/-- A waiting fault. -/
def tf (c ord : Nat) : PFault := { fr := { code := 9, cls := c }, ord := ord }

/-! ### Statements 7 to 14: accesses, fences, waits -/

/-- `ts` with accesses in flight. -/
def tn (v : Vlc) (l : List Access) : State := { ts v with net := l }

/-- What R360 answers for a DRAM byte of the resident program. -/
def tq (pa : Nat) : Passed := { tgt := .loc pa, dev := false, cc := false, pin := true }

/-- A context in an open strip. -/
def tvS : Vlc := { tv with lanes := true, sopen := true, vl := 4, sc := 10, prc := 10, sb := 3 }

/-- A buffered store, and one that fills the buffer. -/
def tbuf (size : Nat) : Buf := { id := 2, tgt := .loc 0x1000, va := 0x1000, size := size, data := 0x1122334455667788, cls := 1 }

theorem witness_loads :
    effAddr (ts tv) 1 1 8 = 0x1008 ∧ okIs (addrCheck (ts tv) (whoOf (ts tv) 0) 0x1008 8 .read) (tq 0x1008) ∧ heldBack (ts tv) 0 1 (tq 0x1008) 8 = false ∧
    (forwarded [tbuf 8] (.loc 0x1000) 8).2 = 2 ^ 8 - 1 ∧ (forwarded [tbuf 4] (.loc 0x1000) 8).2 ≠ 2 ^ 8 - 1 ∧ tv.early = [] ∧
    okIs (addrCheck (ts tvS) (whoOf (ts tvS) 0) 0x1000 8 .read) (tq 0x1000) ∧ heldBack (ts tvS) 0 1 (tq 0x1000) 8 = false ∧ MayTrap (ts tv) ∧ CanIssue (ts tv) [3, 8] 5 ∧
    (∀ k ∈ [Want.read, .write, .atomic], badIs (addrCheck (ts tv) (whoOf (ts tv) 0) (effAddr (ts tv) 3 0 8) 8 k) 2 ∧
      badIs (addrCheck (ts tv) (whoOf (ts tv) 0) (effAddr (ts tv) 8 0xFFF 1) 1 k) 3) := by
  unfold MayTrap CanIssue; decide +kernel

theorem witness_stores :
    (∀ v ∈ [tv, tvS, { tvS with sbuf := [tbuf 8192] }], okIs (addrCheck (ts v) (whoOf (ts v) 0) 0x1008 8 .write) (tq 0x1008) ∧
      heldBack (ts v) 0 1 (tq 0x1008) 8 = false ∧ tokenCheck (ts v) v.agent 0x1008 .write true = none ∧ isLost (ts v) 0x1008 = false ∧ mayFlush (ts v) 0 = true) ∧
    bufBytes [tbuf 8184] + 8 ≤ 8192 ∧ bufBytes [tbuf 8192] + 8 > 8192 ∧ paDram 0x1008 = true ∧
    (let s : State := { ts tvS with toks := [] }
     okIs (addrCheck s (whoOf s 0) 0x1008 8 .write) (tq 0x1008) ∧ heldBack s 0 1 (tq 0x1008) 8 = false ∧ tokenCheck s tvS.agent 0x1008 .write true = some 9) ∧
    (let s : State := { ts tvS with repair := { lost := [0] } }
     okIs (addrCheck s (whoOf s 0) 0x1008 8 .write) (tq 0x1008) ∧ tokenCheck s tvS.agent 0x1008 .write true = none ∧ isLost s 0x1008 = true) := by decide +kernel

theorem witness_atomics : okIs (addrCheck (ts tv) (whoOf (ts tv) 0) 0x1000 8 .atomic) (tq 0x1000) ∧ inScope 0 0 (.loc 0x1000) = true ∧
    heldBack (ts tv) 0 1 (tq 0x1000) 8 = false ∧ okIs (addrCheck (ts tv) (whoOf (ts tv) 0) (2 ^ 37) 8 .atomic) (tq (2 ^ 37)) ∧ inScope 0 0 (.loc (2 ^ 37)) = false := by
  decide +kernel

/-- An access in flight, and a module in which its word has its home. -/
def ta (k : AccKind) (size : Nat) : Access := { id := 4, ser := 5, vlc := 0, kind := k, va := 0x1000, tgt := .loc 0x1000, size := size, cls := 1, data := 0x80, reg := 5 }
def th (v : Vlc) (l : List Access) : State :=
  { tn v l with toks := [(0, { kind := 1, base := 0, pages := 0x180000, owner := homeAgent 0 })], mem := [(0x1000, 3), (0x1004, 7)] }

/-- A context with a waiting fault: class D before another, class D before one of class V with the feed stopped, class V before another, class S, class A at a word, in a wait for
time and in a barrier wait; and the fault of a handler's instruction. -/
theorem witness_trap_entry :
    (∀ v ∈ [{ tv with faults := [tf 2 4, tf 2 6] }, { tv with faults := [tf 2 4], vfaults := [tf 1 6], feed := some (0, 1), feedStop := true },
        { tv with vfaults := [tf 1 4, tf 1 6], faults := [tf 2 6] }, { tv with sfault := some ({ code := 1 }, 0xFF000000100000) }, { tv with faults := [tf 3 4] },
        { tv with faults := [tf 3 4], wait := .sleep 9 }, { tv with faults := [tf 3 4], wait := .barrier 5 }],
      v.status = .running ∧ v.rewind = false ∧ v.hnd = false ∧ v.tvec ≠ 0 ∧ vecBusy (tn v [ta .barWait 8]) 0 = false ∧ (v.feed = none ∨ v.feedStop = true) ∧
        (v.wait = .none ∨ v.wait = .sleep 9 ∨ (v.wait = .barrier 5 ∧ findAcc (tn v [ta .barWait 8]) 5 = some (ta .barWait 8)))) ∧
    (tf 2 4).ord < (tf 2 6).ord ∧ ({ code := 1 } : FRec).cls = 0 ∧ tvH.status = .running ∧ tvH.hnd = true ∧ tvH.hndAt ≤ (tf 2 4).ord := by decide +kernel

theorem witness_access : findAcc (tn tv [ta .load 4]) 5 = some (ta .load 4) ∧ mayPerform (tn tv [ta .load 4]) (ta .load 4) = true ∧
    targetCheck (tn tv [ta .load 4]) (ta .load 4) .read 0x1000 = none ∧ ueIn (tn tv [ta .load 4]) 0x1000 4 = false ∧
    targetCheck (tn tv [ta .store 8]) (ta .store 8) .write 0x1000 = none ∧ isLost (tn tv [ta .store 8]) 0x1000 = false ∧
    mayPerform (th tv [ta .atomic 8]) (ta .atomic 8) = true ∧ homeCheck (th tv [ta .atomic 8]) tv.agent 0x1000 8 = none ∧ tv.faults.length < 16 ∧
    (ta .load 4).vdst = none ∧ (ta .atomic 8).chk = false ∧ homeCheck { ts tv with toks := [] } tv.agent 0x1000 8 = some 9 ∧
    (let s : State := { tn tv [ta .load 4] with toks := [] }
     targetCheck s (ta .load 4) .read 0x1000 = some 9 ∧ targetCheck s (ta .store 8) .write 0x1000 = some 9) ∧
    (let s : State := { tn tv [ta .store 8] with repair := { lost := [0] } }
     targetCheck s (ta .store 8) .write 0x1000 = none ∧ isLost s 0x1000 = true) ∧
    (∀ v ∈ [tv, tvS], let s : State := { tn v [ta .load 4] with ecc := [(0x200, .bad)] }
     targetCheck s (ta .load 4) .read 0x1000 = none ∧ ueIn s 0x1000 4 = true ∧ mayPerform s (ta .load 4) = true) ∧ tv.rewindable = false ∧ tvS.rewindable = true := by
  decide +kernel

theorem witness_fill : [({ vlc := 0, reg := 5, val := 9 } : Fill)][0]? = some { vlc := 0, reg := 5, val := 9 } := by decide

theorem witness_barriers : findAcc (th tv [ta .barInit 8]) 5 = some (ta .barInit 8) ∧ mayPerform (th tv [ta .barInit 8]) (ta .barInit 8) = true ∧
    ueIn (th tv [ta .barInit 8]) 0x1000 8 = false ∧ (ta .barInit 8).data ≤ 16777215 ∧ (ta .barArrive 8).data > mread (th tv []).mem 0x1000 8 % 2 ^ 24 ∧
    mread (th tv []).mem 0x1000 8 % 2 ^ 24 ≠ 0 ∧ mread (th tv []).mem 0x1000 8 / 2 ^ 32 = 7 ∧ mread (ts tv).mem 0x1000 8 % 2 ^ 24 = 0 ∧ bankTurn (th tv [ta .barWait 8]) (.acc 5) tv.agent [0x1000] = true ∧
    (∀ e ∈ [none, some 6], let a : Access := { ta .barWait 8 with e0 := e }
     findAcc (th tv [a]) 5 = some a ∧ (e = none ∨ mread (th tv []).mem 0x1000 8 / 2 ^ 32 ≠ a.e0.getD 7)) := by decide +kernel

theorem witness_control : CanIssue (ts { tv with event := true }) [] 0 ∧ CanIssue (ts tv) [3] 0 ∧ (ts tv).cyc < (tv.rx 3).toNat ∧ (ts tv).cyc ≥ (tv.rx 0).toNat ∧
    (getVlc (ts { tv with wait := .event 256 }) 0).status = .running ∧ ({ ts tv with cyc := 256 } : State).cyc ≥ 256 := by unfold CanIssue; decide +kernel

/-- Two accesses to one word, and a fence between an access and the next word. -/
theorem witness_order :
    findAcc (tn tv [ta .load 8, { ta .load 8 with id := 6, ser := 7 }]) 7 = some { ta .load 8 with id := 6, ser := 7 } ∧
    (ta .load 8).counts = true ∧ sameByte (.loc 0x1000) 8 (.loc 0x1000) 8 = true ∧ (0xFFFF : BitVec 16).getLsbD 1 = true ∧ inScope 0 4 (.loc 0x1000) = true ∧
    (let s := tn { tv with fences := [⟨6, 0xFFFF, 4⟩] } [ta .load 8]
     okIs (addrCheck s (whoOf s 0) (effAddr s 1 1 8) 8 .read) (tq 0x1008) ∧ okIs (addrCheck s (whoOf s 0) (effAddr s 1 1 8) 8 .write) (tq 0x1008) ∧ (ta .load 8).id < 6 ∧ 6 < s.nextId ∧
       okIs (addrCheck s (whoOf s 0) (s.me.rx 1).toNat 8 .atomic) (tq 0x1000) ∧ (∀ n ∈ [1, 2, 4], okIs (addrCheck s (whoOf s 0) (effAddr s 1 0 n) n .read) (tq 0x1000)) ∧
       CanIssue s [1] 5 ∧ CanIssue s [1, 5] 0 ∧ CanIssue s [1, 7, 5] 5 ∧ (1 : BitVec 4).toNat = (ta .load 8).cls) := by
  unfold CanIssue
  decide +kernel

/-! ### Statements 15 to 20: special registers, lanes and strips -/

/-- `ts` with vault 0 as given. -/
def tvt (v : Vlc) (x : Vault) : State := { ts v with vaults := [(0, x)] }

theorem witness_csr : CanIssue (ts tv) [] 5 ∧ CanIssue (ts tv) [3] 0 ∧ vecBusy (ts tv) 0 = false ∧ MayTrap (ts tv) ∧ tv.hnd = false ∧
    (getVault (tvt tv { slice := { holder := some 0 } }) 0).slice.holder = some 0 ∧ (getVault (ts tv) 0).slice.holder ≠ some 0 ∧ bpaBad (tv.rx 3).toNat = false ∧
    lprRefused (ts tv) 0 (4 % 8) = false ∧ (getVault (ts tv) 0).lprAt ≠ (ts tv).cyc + 1 ∧ (getVault (tvt tv { lprAt := 1 }) 0).lprAt = (ts tv).cyc + 1 ∧
    (0x85 : Nat) % 128 = ({ mstat := 5 } : Slice).mstat.toNat % 128 ∧ (tv.rx 3).toNat % 8 ≥ 5 ∧ precBad 0x00080008 = false ∧ precBad 0 = true ∧
    (tv.rx 8).getLsbD 1 = true ∧ (tv.rx 8).getLsbD 2 = true ∧ (tv.rx 3).getLsbD 1 = false ∧ (tv.rx 3).toNat / 2 ^ 56 % 2 ^ 6 = 0 ∧
    (tv.rx 8).toNat % 128 ≠ ({ mstat := 5 } : Slice).mstat.toNat % 128 ∧ (ts tv).launches = [] ∧ (∀ j, j < 8 → (getVlc (ts tv) j).lanes = false) ∧
    (let s : State := { ts tv with cur := 4, vlcs := [(4, tv)] }
     s.cur / 4 % 2 = 1 ∧ CanIssue s [3] 0 ∧ MayTrap s) := by unfold CanIssue MayTrap; decide +kernel

/-- `ts` with core 0 as given. -/
def tc (v : Vlc) (c : Core) : State := { ts v with cores := [(0, c)] }

theorem witness_strip_opens :
    (∀ v ∈ [tv, { tv with lanes := true }, { tvS with vl := 192 }, { tvS with vl := 384 }], CanIssue (ts v) [] 5 ∧ v.hnd = false ∧ viqOf (ts v) 0 = []) ∧
    lanesOf (getVault (ts tv) 0).lpr 0 = 8 ∧ 192 * 8 * 2 ^ (0 : BitVec 2).toNat / (8 * 2 ^ (0 : BitVec 2).toNat) = 192 ∧
    lanesOf (getVault (tvt tv { lpr := 4 }) 0).lpr 0 = 0 ∧ (getCore (ts tv) 0).holder = none ∧ (getCore (tc tv { holder := some 1 }) 0).holder ≠ none := by
  unfold CanIssue; decide +kernel

theorem witness_lanes : CanIssue (ts { tv with lanes := true }) [] 0 ∧ vecBusy (ts { tv with lanes := true }) 0 = false ∧ CanIssue (ts tvS) [] 0 ∧ MayTrap (ts tvS) ∧
    (getCore (tc { tv with wait := .lanes } { queue := [0] }) 0).queue = [0] ∧ tv.status ≠ .restoring ∧ tv.empty = 0 := by unfold CanIssue MayTrap; decide +kernel

theorem witness_strip_closes :
    (∀ v ∈ [tvS, { tvS with sbuf := [tbuf 8] }, { tvS with vl := 0 }, { tvS with vl := 0, np := true }, { tvS with vl := 10 }],
      CanIssue (ts v) [] 0 ∧ v.hnd = false ∧ vecBusy (ts v) 0 = false ∧ loadsOut (ts v) 0 = false ∧ mayFlush (ts v) 0 = true ∧ v.tvec ≠ 0) ∧
    10 - tvS.vl < tvS.prc.toNat ∧ ¬(10 - 0 < tvS.prc.toNat) := by unfold CanIssue; decide +kernel

theorem witness_fetch : CanIssue (ts { tv with lanes := true }) [11] 0 ∧ (tv.pc &&& ~~~4).toNat % 8 = 0 ∧ inIstore (tv.pc &&& ~~~4).toNat = true ∧
    ((tv.rx 11) - 4).toNat % 8 ≠ 0 ∧ (tv.rx 1).toNat % 8 = 0 ∧ inIstore (tv.rx 1).toNat = false := by unfold CanIssue; decide +kernel

/-! ### Statements 21 to 27: copy engines, marks, tiles, tokens -/

/-- `ts` with the tiles of the VS of vault 0 that belong to the engines, and its operations. -/
def tt (v : Vlc) (tiles : List Nat) (ops : List Op) : State :=
  { ts v with tiles := tiles.map (fun k => ((dramEnd + 4096 * k) / 4096, { own := true })), ops := ops }

/-- A `tmv` of tile 0 to tile 1 of the VS window. -/
def tOp : Op :=
  { id := 5, vlc := 0, agent := sysAgent, vi := resVi, quad := 0, kind := .tmv, mark := 3, reg := 5, va := 0xFF000000001000, desc := [0xFF000000001000, 0xFF000000000000],
    total := 512 }

/-- The walk of a window address reads no table; a descriptor in one tile, and one that spans two. -/
theorem witness_walks (s : State) (h : s = tt tv [0, 1] []) :
    WalksTo 0xFF000000000000 256 s s ∧ WalksTo 0xFF000000000F40 256 s s ∧ NameTo 0xFF000000001000 false s s ∧ NameTo 7 true s s := by
  subst h
  refine ⟨?_, ?_, ?_, rfl⟩
  · rw [WalksTo, if_pos (by decide)]; exact ⟨by decide +kernel, by decide +kernel⟩
  · rw [WalksTo, if_neg (by decide)]; exact ⟨_, ⟨by decide +kernel, rfl⟩, by decide +kernel, by decide +kernel⟩
  · exact ⟨by decide +kernel, by decide +kernel⟩

theorem witness_engines_issue : CanIssue (tt tv [0, 1] []) [9] 5 ∧ CanIssue (tt tv [0, 1] []) [10, 9] 5 ∧ tv.faults.length < 16 ∧
    okIs (tilesAt (tt tv [0, 1] []) 0xFF000000000000 256 64) [dramEnd] ∧ okIs (tilesAt (tt tv [0, 1] []) 0xFF000000000F40 256 64) [dramEnd + 0xF40, dramEnd + 4096] ∧
    badIs (tilesAt (tt tv [] []) 0xFF000000000000 256 64) (12, 0xFF000000000000) ∧
    okIs (tmvTile (tt tv [0, 1] []) 0xFF000000000000 false) dramEnd ∧ okIs (tmvTile (tt tv [0, 1] []) 0xFF000000001000 true) (dramEnd + 4096) ∧
    badIs (tmvTile (tt tv [] []) 0xFF000000000000 false) 12 ∧ MayTrap (ts tv) := by unfold CanIssue MayTrap; decide +kernel

/-- A page of a local window. -/
def tw (pa : Nat) : Page := { pa := pa, rd := true, wr := true }

theorem witness_engine_moves :
    let o : Op := { tOp with accepted := true, left := [(0, 512)] }
    let s := tt tv [0, 1] [o]
    let src := dw o.desc 1 + 8 * 0
    let dst := dw o.desc 0 + 8 * 0
    let s1 := (engRead s o (opWho o) src 8 s).2
    getOp s 5 = some o ∧ o.bad < 2 ∧ chunkUnits o 1 = [[0]] ∧ okIs (engCheck s o.agent (opWho o) src 8 .read) dramEnd ∧ engWaits s o [engPassed s (opWho o) src dramEnd] = false ∧
    ueIn s dramEnd 8 = false ∧ (∀ k, k ≤ 1 → tget none o.old (dramEnd / 8 + k) = none) ∧
    okIs (engCheck s1 o.agent (opWho o) dst 8 .write) (dramEnd + 4096) ∧ pageOf s1 (opWho o) dst = some (tw (dramEnd + 4096)) ∧ isIstore (dramEnd + 4096) = false ∧
    engWaits s o [engPassed s1 (opWho o) dst (dramEnd + 4096)] = false ∧ dst % 4096 ≤ 4088 ∧ src % 4096 ≤ 4088 ∧ o.bar = none := by decide +kernel

/-- A copy of one 8-byte element, with its descriptor: FMT INT64 to INT64, NDIM 1, BOUND 1; and the same with BEN and BCR. -/
def tCpy : Op := { tOp with kind := .cpy, va := 0xFF000000000000, pa := dramEnd, desc := [] }
def tDesc (bar : Nat) : List Nat := [0x1000, 0x2000, 0, 0x433, bar, 0, 0, 0, 8, 8, 1]
def tMem (bar : Nat) : List Host.Cell := (tDesc bar).zipIdx.foldl (fun m p => mwrite m (dramEnd + 8 * p.2) 8 p.1) []

theorem witness_accept :
    getOp (tt tv [0] [tCpy]) 5 = some tCpy ∧ mayAccept (tt tv [0] [tCpy]) tCpy = true ∧ mayAccept (tt tv [0, 1] [tOp]) tOp = true ∧ tCpy.credited = false ∧ tCpy.asked = false ∧
    (let s : State := { tt tv [0] [tCpy] with mem := tMem 0 }
     let d := (upto 32).map (fun i => mread s.mem (descPa tCpy (8 * i)) 8)
     (∀ i, i < 32 → ueIn s (descPa tCpy (8 * i)) 8 = false) ∧ (readDesc d).bcr = false ∧ okIs (copyCheck s { tCpy with desc := d }) none) ∧
    (let s : State := { tt tv [0] [tCpy] with mem := tMem (0x3000 + 3 * 2 ^ 56), toks := (th tv []).toks }
     let d := (upto 32).map (fun i => mread s.mem (descPa tCpy (8 * i)) 8)
     (readDesc d).bcr = true ∧ (readDesc d).bar = 0x3000 ∧ okIs (copyCheck s { tCpy with desc := d }) (some 0x3000) ∧ ueIn s 0x3000 8 = false ∧
       engWaits s tCpy [engPassed s (opWho tCpy) 0x3000 0x3000] = false ∧
       mread s.mem 0x3000 8 % 2 ^ 24 + (readDesc d).destBytes false ≤ 16777215 ∧ 0 < (readDesc d).destBytes false) ∧
    (∀ o ∈ [{ tCpy with credited := true, desc := tDesc 0 }, { tCpy with kind := .cpyr, asked := true, reply := some 0 }], let s := tt tv [0] [o]
     getOp s 5 = some o ∧ mayAccept s o = true ∧ o.reg < 32) ∧
    (let o : Op := { tCpy with kind := .cpyr, vi := 0 }
     let s : State := { tt tv [0] [o] with mem := ([0x1000, 0x2000, 0, 0x433, 0, 2 ^ 24, 0, 0, 8, 8, 1] : List Nat).zipIdx.foldl (fun m p => mwrite m (dramEnd + 8 * p.2) 8 p.1) [] }
     let d := (upto 32).map (fun i => mread s.mem (descPa o (8 * i)) 8)
     mayAccept s o = true ∧ (readDesc d).route = 1 ∧ (readDesc d).bcr = false ∧ okIs (copyCheck s { o with desc := d }) none) := by decide +kernel

theorem witness_complete :
    let o : Op := { tOp with accepted := true, done := 512, prom := 5 }
    let s := tt { tv with marks := [(3, { count := 1, prom := 5 })] } [] [o]
    getOp s 5 = some o ∧ opFinished o = true ∧ o.dead = false ∧ o.agent = (getVlc s 0).agent ∧ o.seq = (getVlc s 0).seq ∧ (getVlc s 0).status ≠ .free ∧
    (getVlc s 0).wait = .none ∧ o.prom < ({ s with cyc := 6 } : State).cyc ∧
    (let v : Vlc := { tv with marks := [(3, { count := 1, err := 21 })] }
     getOp (tt v [] [{ o with err := 26 }]) 5 = some { o with err := 26 } ∧ (tget {} v.marks 3).err = 21) := by decide +kernel

/-- Marks 0 and 2 (x3 = 5) quiescent, the second with an error. -/
theorem witness_marks : CanIssue (ts tv) [3] 5 ∧ (∀ k, k < 8 → (5 : Nat).testBit k = true → (tget {} tv.marks k).count = 0 ∧ (tget {} tv.marks k).err = 0) ∧
    (let v : Vlc := { tv with marks := [(2, { err := 21 })] }
     (5 : Nat).testBit 2 = true ∧ (tget {} v.marks 2).err = 21 ∧ (∀ j, j < 8 → (5 : Nat).testBit j = true → (tget {} v.marks j).count = 0) ∧ MayTrap (ts v)) ∧
    (let o : Op := { tOp with accepted := true, done := 512 }
     let s := tt tv [] [o]
     CanIssue s [8] 5 ∧ o ∈ s.ops ∧ o.vlc = s.cur ∧ o.agent = s.me.agent ∧ o.seq = s.me.seq ∧ (tv.rx 8).toNat.testBit o.mark = true ∧ (tv.rx 3).toNat.testBit o.mark = false) ∧
    (let o : Op := { tOp with accepted := true, done := 512, dead := true }
     let s := tt { tv with wait := .cancel 8 1 5 } [] [o]
     getOp s 5 = some o ∧ opFinished o = true ∧ (getVlc s 0).wait = .cancel 8 1 5 ∧ (getVlc s 0).status ≠ .free) := by
  unfold CanIssue MayTrap; decide +kernel

/-- A `tflip` finds bit 0, bit 1 of a tile that no engine uses, and bit 1 of one that an engine uses; the bit that it found first may have changed since. -/
theorem witness_tiles :
    (∀ s ∈ [tt tv [] [], tt tv [0] [], { tt tv [] [] with tiles := [(dramEnd / 4096, { own := true, use := 1 })] }, tt { tv with flip := some true } [] []],
      CanIssue s [9] 5 ∧ s.me.sopen = false ∧ walkWaits s (walkOf 0xFF000000000000 s) = false ∧ walked 0xFF000000000000 s = s ∧
      pageOf s (whoOf s s.cur) (s.me.rx 9).toNat = some (tw dramEnd) ∧ tileAwaited s 0 dramEnd = false) ∧
    inAperture 0xFF000000000000 = false ∧ isScratch dramEnd = true ∧ (tget {} (tt tv [] []).tiles (dramEnd / 4096)).own = false ∧
    (tget {} (tt tv [0] []).tiles (dramEnd / 4096)).own = true ∧
    CanIssue (ts tv) [1] 5 ∧ walkWaits (ts tv) (walkOf 0x1000 (ts tv)) = false ∧ (pageOf (ts tv) (whoOf (ts tv) 0) (tv.rx 1).toNat).isSome = true ∧
    isScratch 0x1000 = false := by
  unfold CanIssue; decide +kernel

/-- A context of a launch, and a table with regions 0 to 2, share 3 of region 1, and region 4 of the far-atomic home. -/
def tl : Vlc := { tv with resident := false, agent := ctxAgent 0 0, vi := 0, seq := 7, x := [(1, 0), (2, 1), (3, 2), (4, 3), (5, 0x1000), (6, rootAgent 0 7), (7, 5)] }
def tk (owner : Nat) : State :=
  { ts tl with
    toks := [(0, { kind := 1, base := 0, pages := 2, owner := owner }), (1, { kind := 1, base := 2, pages := 4, owner := owner, shares := 1 }),
      (2, { kind := 1, base := 2, pages := 4, owner := owner }), (3, { kind := 2, parent := 1, base := 2, pages := 4, owner := ctxAgent 0 0 })] }

theorem witness_tokens_change :
    CanIssue (tk 0) [1, 5] 8 ∧ CanIssue (tk 0) [1, 3] 8 ∧ CanIssue (tk 0) [4] 8 ∧ okIs (nameRegion (tk (rootAgent 0 7)) (tl.rx 1).toNat true 1) 0 ∧
    rootOfVlc tl = some (rootAgent 0 7) ∧ (let s := tk tl.agent
     okIs (nameRegion s (tl.rx 1).toNat true 1) 0 ∧ okIs (nameRegion s (tl.rx 3).toNat true 1) 2 ∧ okIs (nameRegion s (tl.rx 4).toNat true 2) 3 ∧
     freeTok s 0 = some 4 ∧ (tokAt s 4).kind = 0 ∧ (tl.rx 5).toNat < (tokAt s 0).pages * 4096 ∧ (tokAt s 0).base + (tokAt s 0).pages = (tokAt s 2).base ∧
     (tokAt s 0).owner = s.me.agent ∧ (tokAt s 3).owner = s.me.agent ∧ regionAwaited s 0 (tokAt s 3) true = false) ∧
    (let s : State := { tk tl.agent with vlcs := [(0, { tl with resident := true, x := [(1, 0x2000)] })] }
     CanIssue s [1] 8 ∧ walkWaits s (walkOf 0x2000 s) = false ∧ walked 0x2000 s = s ∧ okIs (nameRegion s (s.me.rx 1).toNat false 1) 1 ∧ myShare s 1 = some 3 ∧
     (tokAt s 3).parent = 1 ∧ regionAwaited s 0 (tokAt s 3) true = false) := by unfold CanIssue; decide +kernel

theorem witness_tokens_drain :
    (let s := tk tl.agent
     CanIssue s [1, 6] 8 ∧ s.me.sopen = false ∧ (tl.rx 6).toNat < 4294967296 ∧ badRecipient (tl.rx 6).toNat = false ∧ lendTo s tl 0 (tl.rx 6).toNat = true ∧
     (tokAt s 0).shares = 0 ∧ (freeTok s 0).isSome = true ∧ okIs (tqEntry s (tl.rx 1).toNat true) (some 0)) ∧
    (∀ op ∈ [1, 2, 5], let s : State := { tk tl.agent with vlcs := [(0, { tl with wait := .token op 0 6 false 8 0 })] }
     drainOver s 0 0 (op == 2 && agentType (tokAt s 0).owner == 4) = true ∧ (getVlc s 0).wait = .token op 0 6 false 8 0) ∧
    agentType tl.agent ≠ 4 ∧ (tokAt (tk tl.agent) 0).lender = 0 ∧ rootOfVlc tl = some (rootAgent 0 7) ∧ ({ tkres := 1, tkDrained := true } : Vi).tkDrained = true ∧
    (getVlc (ts { tl with wait := .token 1 0 6 true 8 0 }) 0).wait = .token 1 0 6 true 8 0 := by unfold CanIssue; decide +kernel

/-! ### Statements 28 to 34: near-bank commands -/

/-- A row range of handle 0: rows 2 to 3 (R270), and one that crosses the frame. -/
def tRange (row n : Nat) : Nat := 16384 * row + 4194304 * n

/-- A context with operands of near-bank instructions. -/
def tb : Vlc := { tl with x := [(1, BitVec.ofNat 64 (tRange 2 2)), (2, BitVec.ofNat 64 (tRange 255 2)), (3, 255), (4, 256), (5, 200), (6, 0xFF000000000000), (7, 65536), (8, 0x100)] }

/-- A lock of the context, and a command. -/
def tLock (num : Nat) : Lock := { id := 20 + num, vlc := 0, agent := tl.agent, num := num, stack := 0, frame := 0, row0 := 2, count := 2, desc := tRange 2 2, until_ := 3300, cmd := 5 }
def tCmd (k : CmdKind) (st : CmdStage) : Cmd := { id := 5, vlc := 0, agent := tl.agent, vi := 0, kind := k, stage := st, stack := 0, xa := tRange 2 2, xb := 1, reg := 5 }

theorem witness_commands_issue :
    CanIssue (ts tb) [1] 9 ∧ CanIssue (ts tb) [1, 5] 9 ∧ cmdsOut (ts tb) 0 < 8 ∧ tb.faults.length < 16 ∧ fencesOpen (ts tb) 0 = false ∧
    fencesOpen (tn { tb with fences := [⟨6, 0xFFFF, 4⟩] } [ta .load 8]) 0 = true ∧
    cmdsOut { ts tb with cmds := List.replicate 8 (tCmd .seal .sent) } 0 ≥ 8 ∧ okIs (tilesAt (tt tb [0] []) (tb.rx 6).toNat 64 64) [dramEnd] ∧
    walkWaits (tt tb [0] []) (walkOf (tb.rx 6).toNat (tt tb [0] [])) = false ∧ walked (tb.rx 6).toNat (tt tb [0] []) = tt tb [0] [] ∧
    badIs (tilesAt (tt tb [] []) (tb.rx 6).toNat 64 64) (12, 0xFF000000000000) ∧
    rangeBad (tb.rx 1).toNat = none ∧ rangeBad (tb.rx 2).toNat = some 6 ∧ (tb.rx 3).toNat < 256 ∧ (tb.rx 4).toNat ≥ 256 ∧ bkstBad 0 = false ∧ bkstBad 4 = true ∧
    rrCount (tb.rx 1).toNat ≤ 16 ∧ (tb.rx 7).toNat % 131072 ≤ 65536 ∧ (tb.rx 7).toNat % 131072 ≠ 0 ∧ (tb.rx 7).toNat < 262144 ∧ (locksOf (ts tb) 0).length < 4 ∧
    0 < (tb.rx 5).toNat ∧ (tb.rx 5).toNat ≤ 200 ∧
    (locksOf { ts tb with locks := [tLock 0, tLock 1, tLock 2, tLock 3] } 0).length ≥ 4 ∧ (tb.rx 8).toNat / 256 % 128 = 1 ∧ (tb.rx 8).toNat < 32768 ∧
    okIs (tilesAt (tt tb [0] []) (tb.rx 6).toNat 4 8) [dramEnd] ∧ MayTrap (ts tb) := by unfold CanIssue MayTrap; decide +kernel

theorem witness_locks :
    CanIssue (ts tb) [] 0 ∧ CanIssue (ts tb) [3] 0 ∧ tb.sopen = false ∧ allPerformed (ts tb) 0 = true ∧ cmdsOut { ts tb with cmds := [tCmd .seal .sent] } 0 ≠ 0 ∧
    locksOf (ts tb) 0 = [] ∧ allPerformed (tn tb [ta .load 8]) 0 = false ∧
    (let l : Lock := { tLock 3 with granted := true }
     let s : State := { ts tb with locks := [l] }
     (locksOf s 0).find? (fun k => k.num == (tb.rx 3).toNat % 4) = some l ∧ rowsAwaited s 0 l = false ∧ frameAwaited s 0 l.cmd l.frame = false ∧
     s.locks.find? (fun k => k.id == l.id) = some l ∧ l.until_ ≤ ({ s with cyc := 3300 } : State).cyc ∧ (getVlc s l.vlc).status = .running ∧ (getVlc s l.vlc).faults.length < 16) ∧
    (let l : Lock := { tLock 3 with queued := true }
     let s : State := { ts tb with locks := [l], cmds := [tCmd .lock .running] }
     s.locks.find? (fun k => k.id == l.id) = some l ∧ mayGrant s l = true ∧ getCmd s l.cmd = some (tCmd .lock .running) ∧ (tCmd .lock .running).dropped = false) ∧
    (let s : State := { ts tb with cyc := 3300000, vaults := [(0, { unsealed := [{ frame := 0, u := 1 }] })] }
     unsealedOf s (paMVault 0) (frameNo 0) = some { frame := 0, u := 1 } ∧ banksIdle s 0 = true ∧ (1 : BitVec 256) ≠ 0 ∧ 0 + 3300000 ≤ s.cyc ∧ cmdOver s 0 = none ∧ ownWork s 0 = false) ∧
    (∀ k ∈ [CmdKind.seal, .autoSeal], let c : Cmd := { tCmd k .running with frames := [0], todo := [0, 255], quantum := 31 }
     getCmd { ts tb with cmds := [c] } 5 = some c ∧ c.boundary = false) ∧
    (∀ b ∈ [[], [tbuf 8]],
      let l : Lock := { tLock 3 with granted := true }
      let s : State := { ts { tb with sopen := true, sbuf := b } with locks := [l] }
      let u := stripFlush 0 s
      s.me.sopen = true ∧ mayFlush s 0 = true ∧ CanIssue s [3] 0 ∧ allPerformed u 0 = true ∧ cmdsOut u 0 = 0 ∧
        (locksOf s 0).find? (fun k => k.num == (tb.rx 3).toNat % 4) = some l ∧ rowsAwaited u 0 l = false ∧ frameAwaited u 0 l.cmd l.frame = false) ∧
    (let s := tn { tb with sopen := true } [ta .load 8]
     mayFlush s 0 = true ∧ allPerformed (stripFlush 0 s) 0 = false) := by
  unfold CanIssue; decide +kernel

theorem witness_barriers_issue : CanIssue (th tv []) [1, 3] 5 ∧ CanIssue (th tv []) [1, 8] 5 ∧ okIs (barrierCheck (th tv []) (tv.rx 1).toNat) (tq 0x1000) ∧
    (tv.rx 3).toNat ≤ 16777215 ∧ (tv.rx 8).toNat > 16777215 ∧ heldBack (th tv []) 0 1 (tq 0x1000) 8 = false ∧ mayFlush (th tv []) 0 = true ∧
    okIs (barrierCheck (stripFlush 0 (th tv [])) (tv.rx 1).toNat) (tq 0x1000) ∧ allPerformed (stripFlush 0 (th tv [])) 0 = true ∧
    heldBack (stripFlush 0 (th tv [])) 0 1 (tq 0x1000) 8 = false ∧ allPerformed (stripFlush 0 (th tv [ta .load 4])) 0 = false ∧ tv.faults.length < 16 ∧
    walkWaits (th tv []) (tq 0x1000).walk = false ∧ MayTrap (th tv []) := by
  unfold CanIssue MayTrap; decide +kernel

/-- The dwords of a block of slot 1 with operands A and C, 64 lanes, one frame; widths of 8 planes from row 0 and row 8. -/
def tBlk (sealIt : Nat) : List Nat := [1 + 256 + 4096 * sealIt + 16384 + 65536 + 64 * 2 ^ 32, 0, 8 * 65536 + 8 * 2 ^ 24 + 8 * 2 ^ 34, 3, 5, 0, 0, 0]
def tRun (quantum : Nat) : Cmd := { tCmd .bkx .running with block := tBlk 1, frames := [0], quantum := quantum, lc0 := 2, lc1 := 1, written := 256, words := [0x68EA5822, 0] }
def tm (c : Cmd) : State := { ts tb with cmds := [c], curCmd := 5 }

theorem witness_micro :
    (∀ q ∈ [0, 31, 32], getCmd (tm (tRun q)) 5 = some (tRun q) ∧ (tRun q).stage = .running ∧ (tRun q).kind = .bkx ∧ (tRun q).boundary = false ∧ (tRun q).sealing = false ∧
      (tRun q).frames = [0]) ∧
    writtenRow (tRun 0) (readBlk (tBlk 1)) 256 = some 8 ∧ writtenRow (tRun 0) (readBlk (tBlk 1)) 263 = some 15 ∧ writtenRow (tRun 0) (readBlk (tBlk 1)) 264 = none ∧
    (let c : Cmd := { tRun 0 with frames := [0, 64 * 2097152] }
     getCmd (tm c) 5 = some c ∧ (∀ f ∈ c.frames, f % 2097152 = 0 ∧ paDram f = true) ∧ (c.frames.map (fun f => subarrayNo (realPa (tm c) f))).Nodup) ∧
    (∀ x ∈ (readBlk (tBlk 1)).opnds, x.org + x.w ≤ 256) ∧ paDram 0 = true ∧ (tRun 0).lc0 ≥ 2 ∧ (tRun 0).lc1 < 2 ∧ (readBlk (tBlk 1)).sealIt = true ∧ (readBlk (tBlk 0)).sealIt = false := by decide +kernel

/-- A handle over the first frame for near-bank compute, its region, and a slot with an image. -/
def tsq (c : Cmd) : State :=
  { ts tb with
    cmds := [c], hands := [(0, { v := true, rd := true, wr := true, nb := true, base := 0, pages := 512, token := 0 })],
    toks := [(0, { kind := 1, base := 0, pages := 512, owner := tl.agent })],
    stackTbl := [(0, { slots := [(1, { valid := true, vi := 0, words := [0x68EA5822, 0], mask := 5 })] })] }

theorem witness_sequencer :
    (∀ k ∈ [CmdKind.seal, .clone, .red, .lock, .bkx], nextAccept (tsq (tCmd k .sent)) 0 0 = some (tCmd k .sent) ∧ nextIssue (tsq (tCmd k .sent)) 0 0 = none) ∧
    (let s : State := { tsq { tCmd .bkx .sent with pa := dramEnd } with mem := (tBlk 1).zipIdx.foldl (fun m p => mwrite m (dramEnd + 8 * p.2) 8 p.1) [] }
     ueIn s dramEnd 64 = false ∧ blockBad (readBlk ((upto 8).map (fun i => fld (mread s.mem dramEnd 64) (64 * i) 64))) = none) ∧
    blockBad (readBlk []) = some 8 ∧
    (∀ k ∈ [CmdKind.seal, .bkx], let c : Cmd := { tCmd k .queued with block := tBlk 1 }
     nextAccept (tsq c) 0 0 = none ∧ nextIssue (tsq c) 0 0 = some c ∧ issueCheck (tsq c) c = none) ∧ (tCmd .seal .queued).dropped = false ∧ tb.status = .running ∧
    tb.faults.length < 16 ∧
    (let c : Cmd := { tCmd .seal .queued with xa := tRange 2 2 + 1 }
     nextIssue (tsq c) 0 0 = some c ∧ issueCheck (tsq c) c = some (7, some 1)) := by decide +kernel

/-- A boundary whose first step has served a bank, and one at step 3; a bank that owes a refresh; a command that has ended; idle slots; a refresh that falls due. -/
theorem witness_commands_end :
    (∀ c ∈ [{ tRun 32 with boundary := true, served := [0] }, { tRun 32 with boundary := true, third := true, since := 9 }],
      getCmd (tm c) 5 = some c ∧ (tm c).hostq = [] ∧ c.cxl = [] ∧ stepOpen (tm c) c = false ∧ (cmdBanks (tm c) c).Nodup ∧ 3 ∈ cmdBanks (tm c) c ∧
        c ∈ (tm c).cmds ∧ c.stage = .running ∧ tget 0 (tm c).repair.refAt 3 + refreshInterval (tm c) 3 ≤ ({ tm c with cyc := 12870 } : State).cyc) ∧
    tget 0 ([(3, 1)] : Tbl Nat) 3 ≠ 0 ∧
    getCmd (tm (tCmd .seal .ended)) 5 = some (tCmd .seal .ended) ∧ (tCmd .seal .ended).dropped = false ∧ (tCmd .seal .ended).ue = false ∧
    slotIdle (tsq (tCmd .load .queued)) (tCmd .load .queued) = true ∧ slotIdle (tsq (tCmd .inv .queued)) (tCmd .inv .queued) = true := by decide +kernel

/-! ### Statements 35 to 45: vector and matrix words -/

/-- A word at the head of the queue of core 0, and a module that holds it; v8 and v9 hold 32-bit elements. -/
def te (i : Instr) (vl sew : Nat) : VEntry := { id := 5, vlc := 0, instr := i, word := 0, blk := 0xFF000000100100, slot := 1, xa := 0x1000, xb := 8, vl := vl, sew := sew }
def tvec (e : VEntry) (x : Vault) : State :=
  { ts { tv with lanes := true, v := [(8, 0x00000005FFFFFFFE), (9, 0x000000080000000C)], k := [(1, 5)] } with
    cores := [(0, { holder := some 0, viq := [e] })], vaults := [(0, x)], mem := [(0x1000, 7), (0x1004, 9)] }

/-- `vadd.vv v10, v8, v9`. -/
def tAdd : Instr := .vaddVr { vd := 10, va := 8, vb := 9, ma := 0, mb := 0, m := { km := 0, kp := false }, fa := false, fb := false }

theorem witness_word_ready :
    (∀ sew, sew < 4 → WordReady (tvec (te tAdd 2 sew) {}) (te tAdd 2 sew) true) ∧ WordReady (tvec (te .vstop 0 0) {}) (te .vstop 0 0) false := by
  unfold WordReady WordFirst; decide +kernel

/-- One, minus one, zero, the infinities and NaNs of both kinds, in both formats. -/
theorem witness_floats :
    (isFin 23 0x3F800000 ∧ valQ 23 0x3F800000 = 1 ∧ isFin 23 0xBF800000 ∧ valQ 23 0xBF800000 = -1 ∧ isFin 23 0 ∧ valQ 23 0 = 0 ∧ isInf 23 0x7F800000 ∧ isInf 23 0xFF800000 ∧
      signOf 23 0xFF800000 = true ∧ isNan 23 0x7FC00000 ∧ ¬isSig 23 0x7FC00000 ∧ isSig 23 0x7F800001 ∧ ¬isNan 23 0) ∧
    isFin 7 0x3F80 ∧ valQ 7 0x3F80 = 1 ∧ isFin 7 0 ∧ valQ 7 0 = 0 ∧ isInf 7 0x7F80 ∧ isNan 7 0x7FC0 ∧ ¬isSig 7 0x7FC0 ∧ isSig 7 0x7F81 ∧ ¬isNan 7 0 := by
  unfold isSig isFin isInf isNan; decide +kernel

/-- Blocks of zeros, and of a one among zeros. -/
theorem witness_blocks :
    (let xs := List.replicate 31 (FV.fin false 0 0)
     xs.length = 31 ∧ ∀ x ∈ xs, fvQ x = 0 ∧ x ≠ .inf true ∧ x ≠ .inf false) ∧
    (let xs := FV.fin false 1 0 :: List.replicate 29 (.fin false 0 0)
     xs.length = 30 ∧ fvQ (.fin false 1 0) = 1 ∧ ∀ x ∈ xs, -1 ≤ fvQ x ∧ fvQ x ≤ 1 ∧ x ≠ .inf true ∧ x ≠ .inf false) ∧ (te tAdd 2 2).sew = 2 := by decide +kernel

/-- Every access of some word of each addressing mode passes, to the byte its address names: element `i` of 4 bytes at 0x1000 + 4i, and so on. -/
theorem witness_vector_memory :
    let e := te tAdd 2 2
    let s := tvec e {}
    let m : VMask := { km := 0, kp := false }
    let ws : List MemWord := [vmWord { vd := 10, xa := 1, m := m, fa := false, cls := none } false false, vmWord { vd := 10, xa := 1, m := m, fa := false, cls := none } true false,
      vmsWord { vd := 10, xa := 1, xb := 3, m := m, fa := false, fb := false, cls := some 3 } true,
      vsgWord { vd := 10, xa := 1, xb := 0, fw := 2, nf := 1, ext := false, m := m, fa := false, fb := false, cls := none } false,
      vmxWord { vd := 10, xa := 1, vb := 9, sc := 2, mb := 0, m := m, fa := false, fb := false, cls := none } false]
    s.me.sopen = false ∧ ∀ w ∈ ws, memElems (vctx s e) w ≠ [] ∧ ∀ p ∈ memElems (vctx s e) w, ∀ x ∈ p.2,
      okIs (elemCheck s e w x) (tq x.va) ∧ ueIn s x.va x.size = false ∧ scopeMiss w 0 (.loc x.va) = false ∧
        elemHeld s e (wordClass w e) (x, tq x.va) = false ∧ elemsWait s e [(x, tq x.va)] = false := by decide +kernel

/-- The same of a gather-atomic whose words have their home in the stack. -/
theorem witness_gather :
    let e := te tAdd 2 2
    let s : State := { tvec e {} with toks := [(0, { kind := 1, base := 0, pages := 0x180000, owner := homeAgent 0 })] }
    let w := vatWord { vd := 10, xa := 1, vb := 9, vc := 8, sc := 0, mb := 0, m := { km := 0, kp := false }, fa := false, fb := false, cls := none } 0
    memElems (vctx s e) w ≠ [] ∧ ∀ p ∈ memElems (vctx s e) w, ∀ x ∈ p.2,
      okIs (elemCheck s e w x) (tq x.va) ∧ scopeMiss w 0 (.loc x.va) = false ∧
        elemHeld s e (wordClass w e) (x, tq x.va) = false ∧ elemsWait s e [(x, tq x.va)] = false := by decide +kernel

/-- The slice of vault 0 held by VLC 0, with M = 1: VL 192 at 8 bits; the residue of 3 is 0. -/
def tSlice : Slice := { holder := some 0, c := [(0, 3)], b := [(0, 5)] }

theorem witness_residues : ResiduesRight tSlice ∧ tget 0 tSlice.c 0 = 3 := by
  refine ⟨fun i => ?_, rfl⟩
  by_cases h : i = 0
  · subst h; decide +kernel
  · have h0 : ¬(0 = i) := fun hh => h hh.symm
    simp [tSlice, tget, h0, resOf]

theorem witness_matrix : MatrixReady (tvec (te .mclaim 192 0) { slice := tSlice }) (te .mclaim 192 0) ∧ 192 * sewBits 0 = 1536 * 1 ∧ tSlice.slip = none ∧
    WordReady (tvec (te .mclaim 0 0) {}) (te .mclaim 0 0) false ∧ ({} : Slice).holder = none ∧ ({} : Slice).queue = [] ∧
    rqOf (tvec (te .mclaim 0 0) {}) 0 = [] ∧ savedClaim (ts tv) 0 = false ∧ (getVault (ts tv) 0).claimAt ≠ (ts tv).cyc + 1 ∧
    nextClaim (tvt { tv with wait := .none } { slice := { queue := [0] } }) 0 = some 0 ∧ tv.status ≠ .restoring ∧
    nextClaim (tvt { tv with status := .restoring } { slice := { queue := [0] } }) 0 = some 0 ∧ WordReady (tvec (te .mrel 0 0) {}) (te .mrel 0 0) false ∧
    (let s := tvec (te .mclaim 0 0) { slice := tSlice }
     MatrixFirst { s with vlcs := [(0, { s.me with vempty := [(8, true)] })] } (te .mclaim 0 0)) := by
  unfold MatrixReady MatrixFirst WordReady WordFirst; decide +kernel

/-- Operands of an `mldb` in the VS window: every dword passes its checks and may be read now. -/
theorem witness_mldb :
    let e : VEntry := { te .mclaim 192 0 with xa := 0xFF000000000000 }
    let s := tvec e { slice := tSlice }
    ((mldbCheck s 0 e.xa.toNat).toOption.isSome = true ∧ s.me.sopen = false) ∧ ∀ j, j < 768 →
      (match pageOf s (whoOf s 0) (e.xa.toNat + 8 * j) with
        | some p =>
          let x : Elem := (⟨j, 0, e.xa.toNat + 8 * j, 8⟩, pagePassed s (whoOf s 0) (e.xa.toNat + 8 * j) p)
          !ueIn s p.pa 8 && !elemHeld s e e.cls x && !elemsWait s e [x]
        | none => false) = true := by decide +kernel

/-- A word that waits for its recheck, with a store. -/
def tRe : REntry := { core := 0, e := te tAdd 2 2, flags := 33, stores := [tbuf 8] }

theorem witness_recheck : (getVault (tvt tv { rq := [tRe] }) 0).rq = [tRe] ∧ mayRetire (tvt tv { rq := [tRe] }) tRe = true ∧ tRe.atoms = [] ∧ tRe.smm = none ∧
    tRe.fault = none ∧ tv.rewind = false ∧ tv.sopen = false ∧ (ts { tvS with rewind := true }).sched.preloads = [] ∧
    (getVlc (ts { tvS with rewind := true }) 0).rewind = true ∧ loadsOut (ts { tvS with rewind := true }) 0 = false ∧
    (∀ v ∈ [tvS, { tvS with sbuf := [tbuf 8192] }], mayRetire (tvt v { rq := [tRe] }) tRe = true ∧ v.sopen = true ∧ v.sbfull = false ∧ v.rewindable = true) ∧
    (∀ b ∈ tRe.stores, b.dev = false) ∧ overflows (tvt tvS { rq := [tRe] }) tRe = false ∧ overflows (tvt { tvS with sbuf := [tbuf 8192] } { rq := [tRe] }) tRe = true ∧
    (∀ r ∈ [{ tRe with stores := [], atoms := [ta .atomic 4], smm := some 7 }, { tRe with stores := [], fault := some { code := 3, cls := 1, estart := 1 } }],
      mayRetire (tvt tv { rq := [r] }) r = true) ∧ tv.rewindable = false ∧
    (let e := te (.kpopc ⟨5, 1⟩) 2 2
     let s : State := { tvec e {} with vlcs := [(0, { tvS with rewind := true, empty := 32, pend := 32 })] }
     viqOf s 0 = [e] ∧ (shapeOf e.instr).xd = some 5 ∧ (getVlc s 0).isPend 5 = true ∧ (getVlc s 0).ckmask.getLsbD 5 = false ∧ loadsOut s 0 = false) := by decide +kernel

/-! ### Statements 46 to 57: host, management, scheduler, failures -/

/-- `ts` with an idle core array and virtual interface 0 as given; the first 2 MiB of its address space map to the first frame. -/
def tvi (v : Vi) : State := { ts {} with vis := [(0, v)], tlb := [⟨0, 0, 2097152, 15, []⟩] }

/-- The dwords of a well-formed packet: entry at the I-store window, N = 4, record at 0x40. -/
def tPkt : List Nat := [0xFF000000100000, 4, 0x40, 0, 0, 0, 0, 0]

/-- A port whose packet is latched but for its last dword, and one with a full FIFO. -/
def tPort : Port := latch 0 ((tPkt.take 7).flatMap (wordBytes 8)) {}
def tFull : Port := { tPort with fifo := List.replicate 64 (1, 0) }

/-- The packet with BARV and a barrier word at 0x1000, and a port that lacks its last dword. -/
def tBarPkt : List Nat := [0xFF000000100000, 4, 0x40 + 2 ^ 60, 0x1000, 0, 0, 0, 0]

theorem witness_ports :
    (upto 7).map (pktWord tPort) ++ [(0 : Word).toNat] = tPkt ∧ malformed tPkt = false ∧ malformed [2] = true ∧ isFull (tvi { host := tPort }) 0 tPkt = false ∧
    isFull (tvi { failed := true }) 0 tPkt = true ∧ tFull.fifo.length ≥ 64 ∧ tPort.fifo.length < 64 ∧ (tvi {}).launches = [] ∧ pktBarv tPkt = false ∧
    (tvi {}).plat.service = true ∧ State.reset.plat.service = false ∧
    (let p : Port := latch 0 ((tBarPkt.take 7).flatMap (wordBytes 8)) {}
     let s : State := { tvi { host := p } with toks := [(0, { kind := 1, base := 0, pages := 512, owner := homeAgent 0 })] }
     (upto 7).map (pktWord p) ++ [(0 : Word).toNat] = tBarPkt ∧ malformed tBarPkt = false ∧ isFull s 0 tBarPkt = false ∧ pktBarv tBarPkt = true ∧
       okIs (barWord s { vi := 0, seq := 0, pkt := tBarPkt, rel := true, bound := 330000, ready := none }) 0x1000 ∧ ueIn s 0x1000 8 = false) ∧
    (getPort ({ host := { fifo := [(5, 6)] } } : Vi) false).fifo = [(5, 6)] ∧ (∀ p ∈ ({ tinv := [(0, 3)] } : Vi).tinv, p.2 = 3) ∧ ({ tinv := [(0, 3)] } : Vi).tinv ≠ [] := by
  decide +kernel

theorem witness_handles :
    commitBad (tvi {}) 0 0 3 (wordsHandle 0 15 512) = false ∧ commitBad (tvi {}) 0 12 3 (wordsHandle 0 15 512) = true ∧ ({ hjob := some (3, none) } : Vi).hjob = some (3, none) ∧
    (let s : State := { tvi { hjob := some (3, some {}) } with hands := [(3, { v := true, vi := 1 })] }
     commitBad s 0 (3 / 16384) (3 % 16384) {} = true ∧ commitBad (tvi {}) 0 (3 / 16384) (3 % 16384) {} = false) ∧
    (let s : State := { tvi {} with toks := [(0, { kind := 1, base := 0, pages := 512, owner := hostAgent 0 }), (1, { kind := 1, base := 512, pages := 1, owner := homeAgent 0, lender := hostAgent 0 })], launches := [{ vi := 0, seq := 7, pkt := tPkt, rel := false, bound := 9, ready := some 1 }], mgmt := { carve0 := 0x400000 } }
     (tokAt s 0).owner = hostAgent 0 ∧ (tokAt s 0).shares = 0 ∧ (tokAt s 1).owner = homeAgent 0 ∧ (tokAt s 1).lender = hostAgent 0 ∧
     (∃ l ∈ s.launches, l.vi = 0 ∧ l.seq % 65536 = 7) ∧ backed s 0x400000 4096 = true ∧ freeTok s 0 = some 2 ∧
     (∀ p ∈ s.toks, rangesMeet (p.2.base * 4096) (p.2.pages * 4096) 0x400000 4096 = false) ∧
     s.toks.find? (fun p => p.2.kind == 1 && p.2.base == 0 && p.2.owner == hostAgent 0 && p.2.shares == 0) = some (0, { kind := 1, base := 0, pages := 512, owner := hostAgent 0 })) := by
  decide +kernel

/-- Mailbox mode: after reset, before service. -/
def tBox : State := { State.reset with plat := { released := true, resDone := true } }

theorem witness_management :
    (1000 + ((((ts {}).vis.filter (fun p => p.1 != 0)).map (fun p => p.2.floor)).sum) ≤ 1000) ∧ 1 + ((((tvi { floor := 1000 }).vis.filter (fun p => p.1 != 1)).map (fun p => p.2.floor)).sum) > 1000 ∧
    tBox.plat.service = false ∧ tBox.plat.resDone = true ∧ State.reset.plat.resDone = false ∧ (ts {}).plat.service = true ∧ (ts {}).plat.svnState ≠ 1 ∧
    ({ State.reset with plat := { svnState := 1 } } : State).plat.svnState = 1 ∧ (0 : Nat) / 2 % 256 / 64 = 15 / 16 ∧ 128 / 2 % 256 / 64 ≠ 0 / 16 ∧
    (({} : Mgmt).scanDue ≤ State.reset.cyc ∧ ({ scanDue := 5 } : Mgmt).scanDue > State.reset.cyc ∧ ({ scanDue := 5 } : Mgmt).scanFrom ≤ State.reset.cyc) ∧
    16777216 % 16777216 = 0 ∧ 1 % 16777216 ≠ 0 := by decide +kernel

/-- An image of one byte; a checkpoint under way and a restore, with targets 0 and 24. -/
def tImg : Image :=
  { mem := [(0x1000, 3)], ecc := [], tiles := [], toks := [], hands := [], stackTbl := [], lprs := [], vis := [], launches := [], sched := {}, cyc := 4, ser := 0 }
def tCk (dir : Bool) : State :=
  { (if dir then tBox else ts {}) with mgmt := { ckstate := 1, ckdir := dir, cktgt := [(0, 1), (48, 1)], stored := [⟨tImg, [(24, 0, 0)], 1⟩] }, cyc := 132000001 }

theorem witness_checkpoints :
    (ts tv).mgmt.ckstate ≠ 1 ∧ (getVlc (ts tl) 0).resident = false ∧ quiesced (tCk false) = true ∧ quiesced { tCk false with vlcs := [(0, tv)] } = false ∧
    (ts tv).plat.service = true ∧ (ts tv).plat.stopped = false ∧ (tCk false).mgmt.ckQuiet = 0 ∧ (tCk false).cyc > (tCk false).mgmt.ckAt + 132000000 ∧
    enabledTargets (tCk false) = [(0, 0, 0), (24, 0, 0)] ∧
    (let s : State := { tCk false with cyc := 132000000 }
     let ts (lost : Bool) := (enabledTargets s).filter (fun p => if p.1 < 24 then s.fabric.linkup.getLsbD p.1 else !lost)
     quiesced s = true ∧ s.cyc ≤ s.mgmt.ckAt + 132000000 ∧ ts true = [] ∧ ts false = [(24, 0, 0)]) ∧
    tBox.mgmt.ckstate ≠ 1 ∧ tBox.plat.stopped = false ∧ (tCk true).mgmt.stored = [] ++ ⟨tImg, [(24, 0, 0)], 1⟩ :: [] ∧ (24, 0, 0) ∈ enabledTargets (tCk true) ∧
    imageFits (tCk true) tImg = true ∧ imageFits { tCk true with repair := { lost := [0] } } tImg = false ∧
    (24, 0, 0) ∉ enabledTargets { tCk true with mgmt := { (tCk true).mgmt with cktgt := [(0, 1)] } } := by decide +kernel

theorem witness_security : tBox.plat.code = 0 ∧ tBox.plat.stopped = false ∧ tget false tBox.plat.doeBusy 3 = false ∧ tget false [(3, true)] 3 = true ∧
    State.reset.plat.released = false ∧ State.reset.plat.service = false ∧ State.reset.plat.code = 0 ∧ ((0x800 : BitVec 192).getLsbD 11 = true) ∧ (3 : Nat) % 4 = 3 ∧ (∀ p ∈ State.reset.vaults, p.2.unsealed = []) ∧ State.reset.plat.bootFault = 0 ∧ imageOk State.reset 0 (flashImage State.reset 0) = false := by decide +kernel

/-- A decoder bound to VI 0 at VA 0, and a region of its host. -/
def tHost : State :=
  { tvi {} with toks := [(0, { kind := 1, base := 0, pages := 512, owner := hostAgent 0 }), (65536, { kind := 1, base := 0x2000000, pages := 1, owner := remAgent 1 0 })], mgmt := { hdmb := [(0, 1)] } }
def tReq (d : Option (List Byte)) : HostReq := { id := 9, port := 0, vi := 0, va := 0x1000, size := 4, data := d, tag := 2, arr := 0 }
def tRem : State := { tHost with toks := [(0, { kind := 1, base := 0, pages := 512, owner := remAgent 1 0 })] }
def tRq (op : Nat) : RemoteReq := { mod := 1, vi := 0, rvi := 0, op := op, aop := 0, va := 0x1000, ctl := false, size := 4, data := 5, cmp := 0, tag := 2 }

theorem witness_outside :
    tHost.plat.stopped = false ∧ tHost.hostq = [] ∧ bindOn tHost 0 = true ∧ 4 ≤ 64 - 0x1000 % 64 ∧ okIs (hostCheck tHost (tReq none)) { tgt := .loc 0x1000, dev := false, cc := false } ∧
    okIs (hostCheck tHost (tReq (some [1, 2, 3, 4]))) { tgt := .loc 0x1000, dev := false, cc := false } ∧ bankTurn { tHost with hostq := [tReq none] } (.host 9) (hostAgent 0) [0x1000] = true ∧
    (∀ d ∈ [none, some [1, 2, 3, 4]],
      let r : HostReq := { id := 9, port := 0, vi := bindVi tHost 0, va := bindVa tHost 0 0x1000, size := 4, data := d, tag := 2, arr := 0 }
      let q := bump { tHost with hostq := [r] }
      okIs (hostCheck q r) { tgt := .loc 0x1000, dev := false, cc := false } ∧ bankTurn q (.host 9) (hostAgent 0) [0x1000] = true ∧ walkWaits q [] = false) ∧
    ueIn tHost 0x1000 4 = false ∧ ueIn { tHost with ecc := [(0x200, .bad)] } 0x1000 4 = true ∧ isLost tHost 0x1000 = false ∧
    badIs (hostCheck tRem (tReq none)) 9 ∧ okIs (addrCheck tRem { vi := 0, vault := none } 0x1000 4 .read) { tgt := .loc 0x1000, dev := false, cc := false } ∧
    (tRq 0).ctl = false ∧ engWaits tRem (peerOp 0 1 0 0) [{ tgt := .loc 0x1000, dev := false, cc := false }] = false ∧
    remoteTarget tRem (tRq 0) 0x1000 = none ∧ remoteTarget tRem (tRq 1) 0x1000 = none ∧ remoteTarget tRem (tRq 9) 0x1000 = none ∧
    remoteTarget { tRem with toks := [(0, { kind := 1, base := 0, pages := 512, owner := homeAgent 0 })] } (tRq 2) 0x1000 = none ∧
    badIs (addrCheck tRem { vi := 0, vault := none } 0x400000 4 .read) 3 ∧ (getVi tRem 0).vctl.toNat % 2 = 0 ∧ (getVi (tvi { vctl := 1 }) 0).vctl.toNat % 2 = 1 ∧
    (∀ off ∈ [0, 0x38, 0x40, 0x48, 0x50], (off : Nat) / 1048576 % 131072 = 0 ∧ off % 4096 = off ∧ off % 8 = 0) ∧
    remoteData tRem { tRq 1 with pa := some 0x1000 } 0x1000 = none ∧ remoteData { tRem with repair := { lost := [0] } } { tRq 1 with pa := some 0x1000 } 0x1000 = some 22 ∧
    okIs (engCheck tRem (remAgent 1 0) { vi := 0, vault := none } 0x1000 8 .write) 0x1000 ∧ engWaits tRem (peerOp 0 1 0 0) [engPassed tRem { vi := 0, vault := none } 0x1000 0x1000] = false ∧
    notRemote 0x1000 = false ∧ notRemote 0xFF000000000000 = true ∧
    firstFail (dstSide tRem { vi := 0, vault := none } .cpyr (readDesc (tDesc 0))) = none ∧ (readDesc (tDesc 0)).ben = false ∧
    dstUnowned tRem (remAgent 1 0) { peerOp 0 1 0 0 with desc := tDesc 0 } (readDesc (tDesc 0)) = none ∧
    dstUnowned tHost (remAgent 1 0) { peerOp 0 1 0 0 with desc := tDesc 0 } (readDesc (tDesc 0)) = some 9 ∧
    (let s : State := { tRem with toks := [(0, { kind := 1, base := 0, pages := 3, owner := remAgent 1 0 }), (1, { kind := 1, base := 3, pages := 1, owner := homeAgent 0 })] }
     let d := readDesc (tDesc (0x3000 + 3 * 2 ^ 56))
     let o : Op := { peerOp 0 1 0 0 with desc := tDesc (0x3000 + 3 * 2 ^ 56) }
     firstFail (dstSide s { vi := 0, vault := none } .cpyr d) = none ∧ dstUnowned s (remAgent 1 0) o d = none ∧ notRemote d.bar = false ∧ d.ben = true ∧ d.bcr = true ∧
       okIs (barCheck s { vi := 0, vault := none } (remAgent 1 0) d.bar) 0x3000 ∧ engWaits s o [engPassed s { vi := 0, vault := none } d.bar 0x3000] = false ∧ ueIn s 0x3000 8 = false ∧
       0 < d.destBytes false) := by
  decide +kernel

theorem witness_links :
    (0xFFFFFF : BitVec 24).getLsbD 23 = true ∧ (tget 0 [(23, 7)] 23 < 8) ∧ tget 0 [(23, 8)] 23 ≥ 8 ∧ (0 : BitVec 24).getLsbD 0 = false ∧
    tget 0 [(1, 5)] 1 ≠ 0 ∧ tget 0 [(1, 5)] 1 + 3300000 ≤ 3300004 + 1 ∧
    (let a : Access := { ta .load 8 with tgt := .rem 1 false 0x1000, due := 3 }
     let s : State := { tn tv [a] with cyc := 4 }
     findAcc s 5 = some a ∧ (∀ pa ∈ [0, 0x1000], a.tgt ≠ .loc pa) ∧ a.missed = false ∧ a.dead = false ∧ a.due < s.cyc ∧ (getVlc s a.vlc).status = .running ∧
       (getVlc s a.vlc).faults.length < 16 ∧ s.net.filter (fun b => match b.tgt with | .rem k _ _ => k == 1 | .loc _ => false) = [a] ∧ a.vdst = none ∧ a.kind ≠ .probe ∧
       tv.status ≠ .free ∧ tv.status ≠ .ending) ∧
    (let o : Op := { tOp with kind := .cpyr, accepted := true, desc := [0, 0, 0, 0, 0, 1] }
     ([o].map (·.id)).Nodup ∧ (readDesc o.desc).route = 0 ∧ (readDesc o.desc).mod = 1) := by decide +kernel

/-- A launch of VI 0 with one slot on VLC 0: grain 1, chunk 2, save area at 0x8000, DONEW at 0x3000. -/
def tLn : Launch :=
  { vi := 0, seq := 7, pkt := tPkt, recd := [2 * 2 ^ 32 + 32768 + 2 * 4096, 0x8000, 0, 0x3000, 0, 0, 0, 0], rel := false, bound := 9, ready := some 1, slots := [0], undealt := [(0, (0, 4))] }
def tCand : Cand := ⟨0, 7, 0⟩
/-- The module with this launch, the commands of quad 0 as given, and the root's region. -/
def tSch (l : Launch) (down up : List Msg) : State :=
  { tvi {} with
    launches := [l], toks := [(0, { kind := 1, base := 0, pages := 512, owner := rootAgent 0 7 })],
    sched := { down := [(0, { queue := down, acks := 1 })], up := [(0, { queue := up })] }, cyc := 33000, mgmt := { scanDue := 2 ^ 42 } }

theorem witness_scheduler_links :
    getLaunch (tSch tLn [] []) 0 7 = some tLn ∧ quadOfVlc 0 = 0 ∧ tLn.slots.getD 0 0 = 0 ∧ (getLink (tSch tLn [] []).sched.down 0).acks > 0 ∧
    (getLink (tSch tLn [] []).sched.down 0).permits > 0 ∧ recChunk tLn.recd = 2 ∧ recSteal tLn.recd = true ∧ recLpr tLn.recd = 2 ∧
    (getLink (tSch tLn [] [.dealreq tCand]).sched.up 0).queue = .dealreq tCand :: [] ∧
    richest { tLn with undealt := [(3, (0, 8))] } = some (3, 0, 8) ∧ (3 : Nat) ≠ 0 / 128 ∧ recGrain tLn.recd * cdiv 8 (2 * recGrain tLn.recd) = 4 ∧
    (let s := tSch tLn [.deal tCand (some (0, 2))] []
     (rootWrite tLn (saveArea tLn 0 + 0x6800) (argBlock tLn) (awaitDeal 0 none (endWait (.area 0) (popDown 0 s)))).isSome = true ∧
     rootWaits s (.area 0) tLn (argAccs s tLn 0) = false ∧ s.mgmt.scan ≠ some 0 ∧ s.sched.failed = false ∧ s.mgmt.retq.getLsbD 0 = false ∧ (getVlc s 0).status = .free ∧ tget none s.sched.pend 0 = none ∧
     tget none s.sched.awaits 0 = none ∧ quadOut s 0 = false ∧ closed s = false ∧ needsPreload s tLn 0 = false ∧ (getVault s 0).lpr = recLpr tLn.recd ∧
     slotState tLn 0 = .unplaced ∧ tget (0, 0) tLn.ranges 0 = (0, 0) ∧ (getVi s 0).preld.toNat % 2 = 0) ∧
    (let s : State := { tSch tLn [] [] with vlcs := [(0, tl)], sched := { down := [(0, { queue := [.preempt 0] })] } }
     (getLink s.sched.down 0).queue = .preempt 0 :: [] ∧ (getVlc s 0).status = .running ∧ (getVlc s 0).resident = false) ∧
    (let s : State := { tSch { tLn with started := true } [] [.done 0 tCand] with sched := { up := [(0, { queue := [.done 0 tCand] })], ranks := [(0, [tCand])] } }
     (tget [] s.sched.ranks 0).filter (fun d => (candsOf s 0).contains d) = [tCand] ∧ vlcTaken s 0 = false ∧
       vlcTaken { s with sched := { s.sched with awaits := [(0, some tCand)] } } 0 = true) := by decide +kernel

/-- A context of the launch with nothing under way that drains, and its saved record. -/
def tDr : Vlc := { tl with status := .draining, slotNo := 0, tvec := 0 }
def tSaved : Saved := { slotNo := 0, vlcNo := 0, ctx := tDr, locks := [{ tLock 1 with granted := true }] }

theorem witness_launches :
    tickDue (tSch tLn [] []) = true ∧ costsOut (tSch tLn [] []) = false ∧ tLn.recd ≠ [] ∧ getVlc (tSch tLn [] []) 0 = {} ∧ tLn.lprTodo = [] ∧ tLn.saved = [] ∧
    quadOut (tSch tLn [] []) 0 = false ∧ closed (tSch tLn [] []) = false ∧ (getVi (tSch tLn [] []) 0).floor = 0 ∧
    (let s : State := { tSch { tLn with saved := [tSaved] } [] [] with vlcs := [(0, { tDr with status := .restoring })] }
     (savedOf s 0).isSome = true ∧ (getVlc s 0).grouped = false ∧ (getVlc s 0).recalled = false ∧ rootWaits s (.area 0) { tLn with saved := [tSaved] } (areaAccs s { tLn with saved := [tSaved] } 0 .read) = false ∧ groupFree s (tSaved.locks.filter (fun k => k.granted)) = true ∧
       (readRanges { tLn with saved := [tSaved] } (saveArea tLn 0) (tSaved.locks.map (fun k => (0x380 + 16 * k.num, 2))) s).1.isSome = true) ∧
    (let s : State := { tSch tLn [] [] with vlcs := [(0, tDr)] }
     let u := notePreemption 0 (endWait (.area 0) s)
     rootWaits s (.area 0) tLn (areaAccs s tLn 0 .write) = false ∧ drained s 0 = true ∧ viqOf s 0 = [] ∧ tDr.sbuf = [] ∧
       (writeItems tLn (saveArea tLn 0) (saveItems { u with cur := 0 } { tDr with wait := .none, status := .free, recalled := false } [] []) u).isSome = true) ∧
    (let s : State := { tSch tLn [.preload 0 tCand] [] with vis := [(0, { preld := 0x2001 })], mem := [(0x2001, 0x40), (0x200A, 1)] }
     rootWaits s (.preload 0) tLn (preloadAccs s tLn 0) = false ∧ (readPreload tLn ((getVi s 0).preld.toNat / 64 % 1125899906842624 * 64) 16 (endWait (.preload 0) (popDown 0 s))).1.bind preloadEntries = some [(0x4000, 0, 0, 1)] ∧
     (rootRead tLn 0x4000 512 (endWait (.preload 0) (popDown 0 s))).1.isSome = true) ∧
    (let l : Launch := { tLn with started := true, undealt := [] }
     let s : State := { tSch l [] [] with toks := [(0, { kind := 1, base := 0, pages := 2, owner := rootAgent 0 7 }), (1, { kind := 1, base := 2, pages := 2, owner := homeAgent 0 })] }
     launchOver s l = true ∧ s.sched.failed = false ∧ rootWaits s (.root 0 7) l (addAccs s l) = false ∧ l.origin = none ∧ recDonew l.recd % 8 = 0 ∧ recDonew l.recd ≠ 0 ∧ okIs (donewPa (passRegions l s) l) 0x3000 ∧
       (s.toks.map Prod.fst).Nodup ∧ launchOver s { l with fault := some {}, recd := [] } = true ∧ rootWaits s (.root 0 7) l (addAccs s { l with fault := some {}, recd := [] }) = false ∧
       launchOver s { l with origin := some 1 } = true ∧ rootWaits s (.root 0 7) l (addAccs s { l with origin := some 1 }) = false) ∧
    (ts {}).sched.active ≠ 11 ∧ (ts {}).sched.standby = true ∧ ((ts {}).sched.copy.vis.map Prod.fst).Nodup := by decide +kernel

/-- No VLC has an occupant, and no VI has a floor, where none is listed. -/
theorem witness_idle : (∀ n, occupant (tvi {}) n = none) ∧ (∀ v, (getVi (tSch tLn [] []) v).floor = 0) ∧ tickDue { tvi {} with cyc := 33000 } = true := by
  refine ⟨fun n => ?_, fun v => ?_, by decide +kernel⟩
  · by_cases h : 0 = n
    · subst h; decide +kernel
    · simp [occupant, getVlc, tvi, ts, tget, h]
  · by_cases h : 0 = v
    · subst h; decide +kernel
    · simp [getVi, tSch, tvi, ts, tget, h]

/-- R65, R67: a restore takes the PC, x31, SC and TVEC from the dwords of the save area at offsets 0, 0xF8, 0x108 and 0x1C0. -/
theorem test_restore_reads_area :
    (let l : Launch := { tLn with saved := [tSaved] }
     let s : State := { tSch l [] [] with mem := mwrite (mwrite (mwrite (mwrite [] 0x8000 8 0x5678) 0x80F8 8 9) 0x8108 8 3) 0x81C0 8 0x40 }
     let v := getVlc (reloadCtx 0 l tSaved (beginRestore 0 l tSaved s)) 0
     v.status = .restoring ∧ v.loaded = true ∧ v.pc = 0x5678 ∧ v.rx 31 = 9 ∧ v.sc = 3 ∧ v.tvec = 0x40) := by decide +kernel

theorem witness_failures :
    (let s : State := { tvi { failed := true } with toks := [(0, { kind := 1, base := 0, pages := 2, owner := hostAgent 0, lender := hostAgent 1 })] }
     hasFailed s (hostAgent 0) = true ∧ stillActs s (hostAgent 0) = false ∧ isLive s (hostAgent 1) = true ∧ (s.toks.map Prod.fst).Nodup) ∧
    (ts {}).mgmt.retq.getLsbD 47 = false ∧ (ts {}).mgmt.retv.getLsbD 191 = false ∧ freeSpares (ts {}) = [] ∧
    (let s : State := { ts {} with mgmt := { spare := [(0, BitVec.ofNat 64 (1 + 2097152 + 2199023255552))] } }
     freeSpares s = [1] ∧ isPinned s 0 = false ∧ isPinned { s with repair := { pinned := [0] } } 0 = true ∧ isLost s 0 = false ∧ inSpare s 0 2097152 = false ∧ cmdOver s 0 = none) ∧
    8 ≤ tget 0 ({ ts {} with repair := { spareUsed := [(0, 8)] } } : State).repair.spareUsed (subarrayOf (ts {}) 0) ∧
    regionIdle (ts {}) 0 = true ∧ badWords { ts {} with ecc := [(3, .bad)] } 0 = [3] ∧ (tget [] [(0, [1, 2, 3, 4])] 0).length = 4 ∧ cmdOver (tm (tRun 0)) 0 = some (tRun 0) ∧ getCmd (tm (tRun 0)) 5 = some (tRun 0) ∧ regionIdle (tm { tRun 0 with boundary := true }) 0 = true ∧ rowUnsealed (ts {}) 0 = false ∧ cmdOver (ts {}) 0 = none ∧
    (ts {}).mgmt.scanEn = true ∧ (ts {}).mgmt.scanDue ≤ (ts {}).sched.lastTick * 33000 ∧ closed (ts {}) = false ∧ scanReady { ts {} with mgmt := { scan := some 47 } } 47 = true := by decide +kernel

/-! ### Statements 58 to 60 and the steps -/

/-- A module whose VLC 0 is at its first word, which is `w`. -/
def tStep (w : Nat) (v : Vlc) : State := { ts v with mem := mwrite [] (dramEnd + 0x100000) 4 w, agenda := [.vlc 0] }

theorem witness_steps :
    (∀ a ∈ [[], [(0xFF000000100000, 0x00A63C00, 0)]],
     let s := tStep 0x00A63C00 { tv with ahead := a }
     s.plat.stopped = false ∧ (getVlc s 0).ready = true ∧ (getVlc s 0).pc.toNat % 4 = 0 ∧ inIstore (getVlc s 0).pc.toNat = true ∧ scalarBreak (getVlc s 0) = none ∧
       (nextFault (getVlc s 0)).isNone = true ∧ barrelBefore s 0 = [] ∧
       eccAt s (istorePa 0 (getVlc s 0).pc.toNat / 8 * 8) = .good ∧ mread s.mem (istorePa 0 (getVlc s 0).pc.toNat) 4 = 0x00A63C00) ∧
    (let s : State := { tStep 0x00A63C00 tv with cores := [(0, { last := 2 })], agenda := [.vlc 0] }
     barrelBefore s 0 = [3] ∧ issues 3 { s with agenda := [] } = false ∧ issues 3 { s with agenda := [], vlcs := [(0, tv), (3, tv)] } = true) ∧
    hasIssued 0 (ts tv) (after (exec .nop (ts tv))) = true ∧ hasIssued 0 (ts { tv with empty := 64 }) (after (exec (.add ⟨5, 6, 7, false, false⟩) (ts { tv with empty := 64 }))) = false ∧
    (handlerFault tvH).isNone = true ∧ (getCore (tvec (te tAdd 2 2) {}) 0).viq = [te tAdd 2 2] ∧ (te tAdd 2 2).raw = false ∧
    (let c : Cmd := { tRun 0 with words := [0x68000000, 0] }
     getCmd (tm c) 5 = some c ∧ c.sealing = false ∧ decodeMicro (c.words.getD c.upc 0) = .ok .yield) ∧
    isEvent .thermalShutdown = true ∧ ({ ts tv with plat := { stopped := true } } : State).plat.stopped = true := by decide +kernel

/-- A well-formed instruction of each kind, and a step from a state in canonical form. -/
theorem witness_invariant :
    (.add { d := 5, a := 6, b := 7, fa := true, fb := false } : Instr).wf = true ∧ tAdd.wf = true ∧ (.yield : Instr).wf = true ∧
    Memory.wf (tStep 0x00A63C00 tv).mem ∧ (tStep 0x00A63C00 tv).mgmt.stored = [] ∧
    (after (step (tStep 0x00A63C00 tv))).me.rx 5 = 107 := by decide +kernel

theorem test_stopped : step { ts tv with plat := { stopped := true } } = .fault .stopped := rfl

/-! ### Words written out from the encoding tables -/

/-- R177, R178. -/
theorem words_integer : ([
    (0x00A63C00, .add ⟨5,6,7,true,false⟩),
    (0x00A63E10, .sub ⟨5,6,7,true,true⟩),
    (0x00A63C20, .and ⟨5,6,7,true,false⟩),
    (0x00A63E30, .or ⟨5,6,7,true,true⟩),
    (0x00A63C40, .xor ⟨5,6,7,true,false⟩),
    (0x00A63E50, .andn ⟨5,6,7,true,true⟩),
    (0x00A63C60, .orn ⟨5,6,7,true,false⟩),
    (0x00A63E70, .sll ⟨5,6,7,true,true⟩),
    (0x00A63C80, .srl ⟨5,6,7,true,false⟩),
    (0x00A63E90, .sra ⟨5,6,7,true,true⟩),
    (0x00A63CA0, .rotl ⟨5,6,7,true,false⟩),
    (0x00A63EB0, .rotr ⟨5,6,7,true,true⟩),
    (0x00A63CC0, .min ⟨5,6,7,true,false⟩),
    (0x00A63ED0, .max ⟨5,6,7,true,true⟩),
    (0x00A63CE0, .minn ⟨5,6,7,true,false⟩),
    (0x00A63EF0, .maxn ⟨5,6,7,true,true⟩),
    (0x00A63D00, .slt ⟨5,6,7,true,false⟩),
    (0x00A63F10, .sltn ⟨5,6,7,true,true⟩),
    (0x00A60520, .clz ⟨5,6,true⟩),
    (0x00A60530, .ctz ⟨5,6,true⟩),
    (0x00A60540, .popc ⟨5,6,true⟩),
    (0x00A63F50, .bext ⟨5,6,7,true,true⟩),
    (0x00A63D60, .bins ⟨5,6,7,true,false⟩),
    (0x04A63A00, .mul ⟨5,6,7,false,true⟩),
    (0x04A63A10, .mulh ⟨5,6,7,false,true⟩),
    (0x04A63A20, .mulhn ⟨5,6,7,false,true⟩),
    (0x04A63A30, .div ⟨5,6,7,false,true⟩),
    (0x04A63A40, .divn ⟨5,6,7,false,true⟩),
    (0x04A63A50, .rem ⟨5,6,7,false,true⟩),
    (0x04A63A60, .remn ⟨5,6,7,false,true⟩)] : List (Nat × Instr)).all (fun p => decide (decodeTableWord 32 p.1 = some p.2)) = true := by
  decide +kernel

/-- R179 to R182. -/
theorem words_immediate : ([
    (0x08A68001, .addi ⟨5,6,0x8001⟩),
    (0x0CA68001, .andi ⟨5,6,0x8001⟩),
    (0x10A68001, .ori ⟨5,6,0x8001⟩),
    (0x14A68001, .xori ⟨5,6,0x8001⟩),
    (0x18A68001, .slti ⟨5,6,0x8001⟩),
    (0x1CA68001, .sltni ⟨5,6,0x8001⟩),
    (0x34A68001, .jalr ⟨5,6,0x8001⟩),
    (0x20A60021, .slli ⟨5,6,33⟩),
    (0x20A60061, .srli ⟨5,6,33⟩),
    (0x20A600A1, .srai ⟨5,6,33⟩),
    (0x24A08001, .ldhi ⟨5,0x8001⟩),
    (0x28A08001, .addpc ⟨5,0x8001⟩),
    (0x2CA6043C, .bexti ⟨5,6,60,8⟩),
    (0x30A6043C, .binsi ⟨5,6,60,8⟩)] : List (Nat × Instr)).all (fun p => decide (decodeTableWord 32 p.1 = some p.2)) = true := by
  decide +kernel

/-- R184, R189, R190. -/
theorem words_branch : ([
    (0x40A6FFFE, .beq ⟨5,6,0xFFFE⟩),
    (0x44A6FFFE, .bne ⟨5,6,0xFFFE⟩),
    (0x48A6FFFE, .blt ⟨5,6,0xFFFE⟩),
    (0x4CA6FFFE, .bltn ⟨5,6,0xFFFE⟩),
    (0x50A6FFFE, .bge ⟨5,6,0xFFFE⟩),
    (0x54A6FFFE, .bgen ⟨5,6,0xFFFE⟩),
    (0x3A000001, .jal 0x2000001),
    (0x5800FFFC, .vstrip 0xFFFC),
    (0x5C100001, .vfetch 0x100001),
    (0x60D00001, .vfetchr 6 0x100001)] : List (Nat × Instr)).all (fun p => decide (decodeTableWord 32 p.1 = some p.2)) = true := by
  decide +kernel

/-- R183. -/
theorem words_memory : ([
    (0x80A63801, .ldbC ⟨5,6,3,0x801⟩),
    (0xC0A60801, .ldb ⟨5,6,0x801⟩),
    (0x84A63801, .ldbnC ⟨5,6,3,0x801⟩),
    (0xC4A60801, .ldbn ⟨5,6,0x801⟩),
    (0x88A63801, .ldhC ⟨5,6,3,0x801⟩),
    (0xC8A60801, .ldh ⟨5,6,0x801⟩),
    (0x8CA63801, .ldhnC ⟨5,6,3,0x801⟩),
    (0xCCA60801, .ldhn ⟨5,6,0x801⟩),
    (0x90A63801, .ldwC ⟨5,6,3,0x801⟩),
    (0xD0A60801, .ldw ⟨5,6,0x801⟩),
    (0x94A63801, .ldwnC ⟨5,6,3,0x801⟩),
    (0xD4A60801, .ldwn ⟨5,6,0x801⟩),
    (0x98A63801, .lddC ⟨5,6,3,0x801⟩),
    (0xD8A60801, .ldd ⟨5,6,0x801⟩),
    (0x9CA63801, .stbC ⟨5,6,3,0x801⟩),
    (0xDCA60801, .stb ⟨5,6,0x801⟩),
    (0xA0A63801, .sthC ⟨5,6,3,0x801⟩),
    (0xE0A60801, .sth ⟨5,6,0x801⟩),
    (0xA4A63801, .stwC ⟨5,6,3,0x801⟩),
    (0xE4A60801, .stw ⟨5,6,0x801⟩),
    (0xA8A63801, .stdC ⟨5,6,3,0x801⟩),
    (0xE8A60801, .std ⟨5,6,0x801⟩)] : List (Nat × Instr)).all (fun p => decide (decodeTableWord 32 p.1 = some p.2)) = true := by
  decide +kernel

/-- R185. -/
theorem words_atomic : ([
    (0x3CA63A29, .aaddWC ⟨5,6,7,false,true,2,9⟩),
    (0x3CA63AA9, .aandWC ⟨5,6,7,false,true,2,9⟩),
    (0x3CA63B29, .aorWC ⟨5,6,7,false,true,2,9⟩),
    (0x3CA63BA9, .axorWC ⟨5,6,7,false,true,2,9⟩),
    (0x64A63A29, .aminWC ⟨5,6,7,false,true,2,9⟩),
    (0x64A63AA9, .amaxWC ⟨5,6,7,false,true,2,9⟩),
    (0x64A63B29, .aswapWC ⟨5,6,7,false,true,2,9⟩),
    (0x64A63BA9, .acasWC ⟨5,6,7,false,true,2,9⟩),
    (0x68A63A29, .aaddDC ⟨5,6,7,false,true,2,9⟩),
    (0x68A63AA9, .aandDC ⟨5,6,7,false,true,2,9⟩),
    (0x68A63B29, .aorDC ⟨5,6,7,false,true,2,9⟩),
    (0x68A63BA9, .axorDC ⟨5,6,7,false,true,2,9⟩),
    (0x6CA63A29, .aminDC ⟨5,6,7,false,true,2,9⟩),
    (0x6CA63AA9, .amaxDC ⟨5,6,7,false,true,2,9⟩),
    (0x6CA63B29, .aswapDC ⟨5,6,7,false,true,2,9⟩),
    (0x6CA63BA9, .acasDC ⟨5,6,7,false,true,2,9⟩),
    (0x70A63A20, .aaddW ⟨5,6,7,false,true,2⟩),
    (0x70A63AA0, .aandW ⟨5,6,7,false,true,2⟩),
    (0x70A63B20, .aorW ⟨5,6,7,false,true,2⟩),
    (0x70A63BA0, .axorW ⟨5,6,7,false,true,2⟩),
    (0x74A63A20, .aminW ⟨5,6,7,false,true,2⟩),
    (0x74A63AA0, .amaxW ⟨5,6,7,false,true,2⟩),
    (0x74A63B20, .aswapW ⟨5,6,7,false,true,2⟩),
    (0x74A63BA0, .acasW ⟨5,6,7,false,true,2⟩),
    (0x78A63A20, .aaddD ⟨5,6,7,false,true,2⟩),
    (0x78A63AA0, .aandD ⟨5,6,7,false,true,2⟩),
    (0x78A63B20, .aorD ⟨5,6,7,false,true,2⟩),
    (0x78A63BA0, .axorD ⟨5,6,7,false,true,2⟩),
    (0x7CA63A20, .aminD ⟨5,6,7,false,true,2⟩),
    (0x7CA63AA0, .amaxD ⟨5,6,7,false,true,2⟩),
    (0x7CA63B20, .aswapD ⟨5,6,7,false,true,2⟩),
    (0x7CA63BA0, .acasD ⟨5,6,7,false,true,2⟩)] : List (Nat × Instr)).all (fun p => decide (decodeTableWord 32 p.1 = some p.2)) = true := by
  decide +kernel

/-- R188, R191 to R194. -/
theorem words_system : ([
    (0xAC008006, .fenceC 0x8006),
    (0xB0000004, .fenceS 4),
    (0xB0A00010, .feSet 5),
    (0xB0A00020, .feClr 5),
    (0xB0A00039, .vsetl 5 1 2),
    (0xB0A60440, .vckm ⟨5,6,true⟩),
    (0xB0000050, .vrel),
    (0xFCA00021, .csrr 5 0x21),
    (0xFC060821, .csrw 0x21 6),
    (0xFC061021, .csrs 0x21 6),
    (0xFC061821, .csrc 0x21 6),
    (0xFC00204D, .trap 77),
    (0xFC002800, .tret),
    (0xFC00304D, .wfe 77),
    (0xFC063800, .sleepc 6),
    (0xFC00404D, .brk 77),
    (0xFC004800, .nop),
    (0xFC005000, .fin)] : List (Nat × Instr)).all (fun p => decide (decodeTableWord 32 p.1 = some p.2)) = true := by
  decide +kernel

/-- R270, R297: the worked encodings. -/
theorem words_worked : ([
    (0xB5840002, .cpy ⟨12,4,false,2⟩),
    (0xB5840010, .cpyg ⟨12,4,false,0⟩),
    (0xB5840027, .cpyr ⟨12,4,false,7⟩),
    (0xB58B0030, .cpyk ⟨12,11,false⟩),
    (0xB5AB0040, .wmark ⟨13,11,false⟩),
    (0xB584285B, .tmv ⟨12,4,5,false,false,3,true⟩),
    (0xB5C40060, .tflip ⟨14,4,false⟩),
    (0xB5653071, .barInit ⟨11,5,6,false,false,1⟩),
    (0xB4053080, .barArrive ⟨0,5,6,false,false,0⟩),
    (0xB5C57891, .barWait ⟨14,5,15,false,false,true⟩),
    (0xBD840000, .bkx ⟨12,4,false⟩),
    (0xBD840010, .bkseal ⟨12,4,false⟩),
    (0xBDA32020, .bklock ⟨13,3,4,false,false⟩),
    (0xBC0B0030, .bkunlock 11 false),
    (0xBC000040, .bkfence),
    (0xBDC53050, .bkload ⟨14,5,6,false,false⟩),
    (0xBDC50060, .bkinv ⟨14,5,false⟩),
    (0xBD840070, .bkst ⟨12,4,false⟩),
    (0xBD842880, .bkclone ⟨12,4,5,false,false⟩),
    (0xBD842890, .bkred ⟨12,4,5,false,false⟩)] : List (Nat × Instr)).all (fun p => decide (decodeTableWord 32 p.1 = some p.2)) = true := by
  decide +kernel

/-- R299. -/
theorem words_token : ([
    (0xB8A60401, .own ⟨5,6,true,true⟩),
    (0xB8A63E11, .lend ⟨5,6,7,true,true,true⟩),
    (0xB8A60421, .ret ⟨5,6,true,true⟩),
    (0xB8A63E31, .split ⟨5,6,7,true,true,true⟩),
    (0xB8A63E41, .merge ⟨5,6,7,true,true,true⟩),
    (0xB8A63E51, .rshare ⟨5,6,7,true,true,true⟩),
    (0xB8A60461, .rdrop ⟨5,6,true,true⟩),
    (0xB8A63E71, .tq ⟨5,6,7,true,true,true⟩)] : List (Nat × Instr)).all (fun p => decide (decodeTableWord 32 p.1 = some p.2)) = true := by
  decide +kernel

/-- R209 to R213. -/
theorem words_vinteger : ([
    (0x0000000000000000, .vstop),
    (0x010000000000004D, .vbrk 77),
    (0x0222180954200000, .vaddVr ⟨4,8,12,4,5,⟨2,true⟩,true,false⟩),
    (0x03221A0C10100000, .vaddSc ⟨4,8,13,6,⟨2,false⟩,false,true⟩),
    (0x0422000E1C23FFFE, .vaddIm ⟨4,8,0x3FFFE,7,⟨3,true⟩,true⟩),
    (0x0522180954200000, .vsubVr ⟨4,8,12,4,5,⟨2,true⟩,true,false⟩),
    (0x06221A0C10100000, .vsubSc ⟨4,8,13,6,⟨2,false⟩,false,true⟩),
    (0x07221A0C10100000, .vrsubSc ⟨4,8,13,6,⟨2,false⟩,false,true⟩),
    (0x0822000E1C23FFFE, .vrsubIm ⟨4,8,0x3FFFE,7,⟨3,true⟩,true⟩),
    (0x0922180954200000, .vmulVr ⟨4,8,12,4,5,⟨2,true⟩,true,false⟩),
    (0x0A221A0C10100000, .vmulSc ⟨4,8,13,6,⟨2,false⟩,false,true⟩),
    (0x0B22180954200000, .vmulhVr ⟨4,8,12,4,5,⟨2,true⟩,true,false⟩),
    (0x0C221A0C10100000, .vmulhSc ⟨4,8,13,6,⟨2,false⟩,false,true⟩),
    (0x0D22180954200000, .vmulhnVr ⟨4,8,12,4,5,⟨2,true⟩,true,false⟩),
    (0x0E221A0C10100000, .vmulhnSc ⟨4,8,13,6,⟨2,false⟩,false,true⟩),
    (0x0F22180954200000, .vmaccVr ⟨4,8,12,4,5,⟨2,true⟩,true,false⟩),
    (0x10221A0C10100000, .vmaccSc ⟨4,8,13,6,⟨2,false⟩,false,true⟩),
    (0x1122180954200000, .vnmsacVr ⟨4,8,12,4,5,⟨2,true⟩,true,false⟩),
    (0x12221A0C10100000, .vnmsacSc ⟨4,8,13,6,⟨2,false⟩,false,true⟩),
    (0x1322180954200000, .vdivVr ⟨4,8,12,4,5,⟨2,true⟩,true,false⟩),
    (0x14221A0C10100000, .vdivSc ⟨4,8,13,6,⟨2,false⟩,false,true⟩),
    (0x1522180954200000, .vdivnVr ⟨4,8,12,4,5,⟨2,true⟩,true,false⟩),
    (0x16221A0C10100000, .vdivnSc ⟨4,8,13,6,⟨2,false⟩,false,true⟩),
    (0x1722180954200000, .vremVr ⟨4,8,12,4,5,⟨2,true⟩,true,false⟩),
    (0x18221A0C10100000, .vremSc ⟨4,8,13,6,⟨2,false⟩,false,true⟩),
    (0x1922180954200000, .vremnVr ⟨4,8,12,4,5,⟨2,true⟩,true,false⟩),
    (0x1A221A0C10100000, .vremnSc ⟨4,8,13,6,⟨2,false⟩,false,true⟩),
    (0x1B22180954200000, .vminVr ⟨4,8,12,4,5,⟨2,true⟩,true,false⟩),
    (0x1C221A0C10100000, .vminSc ⟨4,8,13,6,⟨2,false⟩,false,true⟩),
    (0x1D22180954200000, .vmaxVr ⟨4,8,12,4,5,⟨2,true⟩,true,false⟩),
    (0x1E221A0C10100000, .vmaxSc ⟨4,8,13,6,⟨2,false⟩,false,true⟩),
    (0x1F22180954200000, .vminnVr ⟨4,8,12,4,5,⟨2,true⟩,true,false⟩),
    (0x20221A0C10100000, .vminnSc ⟨4,8,13,6,⟨2,false⟩,false,true⟩),
    (0x2122180954200000, .vmaxnVr ⟨4,8,12,4,5,⟨2,true⟩,true,false⟩),
    (0x22221A0C10100000, .vmaxnSc ⟨4,8,13,6,⟨2,false⟩,false,true⟩),
    (0x2322180954200000, .vandVr ⟨4,8,12,4,5,⟨2,true⟩,true,false⟩),
    (0x24221A0C10100000, .vandSc ⟨4,8,13,6,⟨2,false⟩,false,true⟩),
    (0x2522000E1C23FFFE, .vandIm ⟨4,8,0x3FFFE,7,⟨3,true⟩,true⟩),
    (0x2622180954200000, .vorVr ⟨4,8,12,4,5,⟨2,true⟩,true,false⟩),
    (0x27221A0C10100000, .vorSc ⟨4,8,13,6,⟨2,false⟩,false,true⟩),
    (0x2822000E1C23FFFE, .vorIm ⟨4,8,0x3FFFE,7,⟨3,true⟩,true⟩),
    (0x2922180954200000, .vxorVr ⟨4,8,12,4,5,⟨2,true⟩,true,false⟩),
    (0x2A221A0C10100000, .vxorSc ⟨4,8,13,6,⟨2,false⟩,false,true⟩),
    (0x2B22000E1C23FFFE, .vxorIm ⟨4,8,0x3FFFE,7,⟨3,true⟩,true⟩),
    (0x2C22180954200000, .vsllVr ⟨4,8,12,4,5,⟨2,true⟩,true,false⟩),
    (0x2D221A0C10100000, .vsllSc ⟨4,8,13,6,⟨2,false⟩,false,true⟩),
    (0x2E22000E1C23FFFE, .vsllIm ⟨4,8,0x3FFFE,7,⟨3,true⟩,true⟩),
    (0x2F22180954200000, .vsrlVr ⟨4,8,12,4,5,⟨2,true⟩,true,false⟩),
    (0x30221A0C10100000, .vsrlSc ⟨4,8,13,6,⟨2,false⟩,false,true⟩),
    (0x3122000E1C23FFFE, .vsrlIm ⟨4,8,0x3FFFE,7,⟨3,true⟩,true⟩),
    (0x3222180954200000, .vsraVr ⟨4,8,12,4,5,⟨2,true⟩,true,false⟩),
    (0x33221A0C10100000, .vsraSc ⟨4,8,13,6,⟨2,false⟩,false,true⟩),
    (0x3422000E1C23FFFE, .vsraIm ⟨4,8,0x3FFFE,7,⟨3,true⟩,true⟩),
    (0x3522180954200000, .vshrnVr ⟨4,8,12,4,5,⟨2,true⟩,true,false⟩),
    (0x3622000E1C23FFFE, .vshrnIm ⟨4,8,0x3FFFE,7,⟨3,true⟩,true⟩),
    (0x3722180954200000, .vsarnVr ⟨4,8,12,4,5,⟨2,true⟩,true,false⟩),
    (0x3822000E1C23FFFE, .vsarnIm ⟨4,8,0x3FFFE,7,⟨3,true⟩,true⟩),
    (0x3922180954200000, .vwadd ⟨4,8,12,4,5,⟨2,true⟩,true,false⟩),
    (0x3A22180954200000, .vwaddn ⟨4,8,12,4,5,⟨2,true⟩,true,false⟩),
    (0x3B22180954200000, .vwmul ⟨4,8,12,4,5,⟨2,true⟩,true,false⟩),
    (0x3C22180954200000, .vwmuln ⟨4,8,12,4,5,⟨2,true⟩,true,false⟩),
    (0x3D22180954200000, .vsaddVr ⟨4,8,12,4,5,⟨2,true⟩,true,false⟩),
    (0x3E221A0C10100000, .vsaddSc ⟨4,8,13,6,⟨2,false⟩,false,true⟩),
    (0x3F22180954200000, .vsaddnVr ⟨4,8,12,4,5,⟨2,true⟩,true,false⟩),
    (0x40221A0C10100000, .vsaddnSc ⟨4,8,13,6,⟨2,false⟩,false,true⟩),
    (0x4122180954200000, .vssubVr ⟨4,8,12,4,5,⟨2,true⟩,true,false⟩),
    (0x42221A0C10100000, .vssubSc ⟨4,8,13,6,⟨2,false⟩,false,true⟩),
    (0x4322180954200000, .vssubnVr ⟨4,8,12,4,5,⟨2,true⟩,true,false⟩),
    (0x44221A0C10100000, .vssubnSc ⟨4,8,13,6,⟨2,false⟩,false,true⟩),
    (0x452200081020003F, .vclip ⟨4,8,63,4,⟨2,false⟩,true⟩),
    (0x462200081020003F, .vclipn ⟨4,8,63,4,⟨2,false⟩,true⟩)] : List (Nat × Instr)).all (fun p => decide (decodeTableWord 64 p.1 = some p.2)) = true := by
  decide +kernel

/-- R214 to R216. -/
theorem words_vfloat : ([
    (0x5022180954200000, .vfaddVr ⟨4,8,12,4,5,⟨2,true⟩,true,false⟩),
    (0x51221A0C10100000, .vfaddSc ⟨4,8,13,6,⟨2,false⟩,false,true⟩),
    (0x5222180954200000, .vfsubVr ⟨4,8,12,4,5,⟨2,true⟩,true,false⟩),
    (0x53221A0C10100000, .vfsubSc ⟨4,8,13,6,⟨2,false⟩,false,true⟩),
    (0x5422180954200000, .vfmulVr ⟨4,8,12,4,5,⟨2,true⟩,true,false⟩),
    (0x55221A0C10100000, .vfmulSc ⟨4,8,13,6,⟨2,false⟩,false,true⟩),
    (0x5622180954200000, .vfmaccVr ⟨4,8,12,4,5,⟨2,true⟩,true,false⟩),
    (0x57221A0C10100000, .vfmaccSc ⟨4,8,13,6,⟨2,false⟩,false,true⟩),
    (0x5822180954200000, .vfdivVr ⟨4,8,12,4,5,⟨2,true⟩,true,false⟩),
    (0x59221A0C10100000, .vfdivSc ⟨4,8,13,6,⟨2,false⟩,false,true⟩),
    (0x5A22180954200000, .vfminVr ⟨4,8,12,4,5,⟨2,true⟩,true,false⟩),
    (0x5B221A0C10100000, .vfminSc ⟨4,8,13,6,⟨2,false⟩,false,true⟩),
    (0x5C22180954200000, .vfmaxVr ⟨4,8,12,4,5,⟨2,true⟩,true,false⟩),
    (0x5D221A0C10100000, .vfmaxSc ⟨4,8,13,6,⟨2,false⟩,false,true⟩),
    (0x5E22180954200000, .vfcpsVr ⟨4,8,12,4,5,⟨2,true⟩,true,false⟩),
    (0x5F221A0C10100000, .vfcpsSc ⟨4,8,13,6,⟨2,false⟩,false,true⟩),
    (0x6022180954200000, .vfcpsnVr ⟨4,8,12,4,5,⟨2,true⟩,true,false⟩),
    (0x61221A0C10100000, .vfcpsnSc ⟨4,8,13,6,⟨2,false⟩,false,true⟩),
    (0x6222180954200000, .vfcpsxVr ⟨4,8,12,4,5,⟨2,true⟩,true,false⟩),
    (0x63221A0C10100000, .vfcpsxSc ⟨4,8,13,6,⟨2,false⟩,false,true⟩),
    (0x6422000C14200000, .vfsqrt ⟨4,8,6,⟨2,true⟩,true⟩),
    (0x6522000C14200000, .vfexp2 ⟨4,8,6,⟨2,true⟩,true⟩),
    (0x6622000C14200000, .vfrcp ⟨4,8,6,⟨2,true⟩,true⟩),
    (0x6722000C14200000, .vfrsq ⟨4,8,6,⟨2,true⟩,true⟩),
    (0x6822000C14200000, .vflog2 ⟨4,8,6,⟨2,true⟩,true⟩),
    (0x6F22000C14200000, .vfcvtFI ⟨4,8,6,⟨2,true⟩,true⟩),
    (0x6F22000C14600000, .vfcvtFN ⟨4,8,6,⟨2,true⟩,true⟩),
    (0x6F22000C14A00000, .vfcvtIF ⟨4,8,6,⟨2,true⟩,true⟩),
    (0x6F22000C14E00000, .vfcvtNF ⟨4,8,6,⟨2,true⟩,true⟩),
    (0x6F22000C15200000, .vfcvtBfF ⟨4,8,6,⟨2,true⟩,true⟩),
    (0x6F22000C15600000, .vfcvtFBf ⟨4,8,6,⟨2,true⟩,true⟩),
    (0x6F22000C01A00002, .vfcvtDxb8F ⟨4,8,2,6,true⟩),
    (0x6F22000C01E00002, .vfcvtDxb4F ⟨4,8,2,6,true⟩),
    (0x6F22000C16200000, .vfcvtFDxb8 ⟨4,8,6,⟨2,true⟩,true⟩),
    (0x6F22000C16600000, .vfcvtFDxb4 ⟨4,8,6,⟨2,true⟩,true⟩)] : List (Nat × Instr)).all (fun p => decide (decodeTableWord 64 p.1 = some p.2)) = true := by
  decide +kernel

/-- R217 to R221. -/
theorem words_vcompare : ([
    (0x701A180954100000, .vceqVr ⟨3,8,12,4,5,⟨2,true⟩,false,true⟩),
    (0x711A1A0C10100000, .vceqSc ⟨3,8,13,6,⟨2,false⟩,false,true⟩),
    (0x721A180954100000, .vcneVr ⟨3,8,12,4,5,⟨2,true⟩,false,true⟩),
    (0x731A1A0C10100000, .vcneSc ⟨3,8,13,6,⟨2,false⟩,false,true⟩),
    (0x741A180954100000, .vcltVr ⟨3,8,12,4,5,⟨2,true⟩,false,true⟩),
    (0x751A1A0C10100000, .vcltSc ⟨3,8,13,6,⟨2,false⟩,false,true⟩),
    (0x761A180954100000, .vcltnVr ⟨3,8,12,4,5,⟨2,true⟩,false,true⟩),
    (0x771A1A0C10100000, .vcltnSc ⟨3,8,13,6,⟨2,false⟩,false,true⟩),
    (0x781A180954100000, .vcleVr ⟨3,8,12,4,5,⟨2,true⟩,false,true⟩),
    (0x791A1A0C10100000, .vcleSc ⟨3,8,13,6,⟨2,false⟩,false,true⟩),
    (0x7A1A180954100000, .vclenVr ⟨3,8,12,4,5,⟨2,true⟩,false,true⟩),
    (0x7B1A1A0C10100000, .vclenSc ⟨3,8,13,6,⟨2,false⟩,false,true⟩),
    (0x7C1A1A0C10100000, .vcgtSc ⟨3,8,13,6,⟨2,false⟩,false,true⟩),
    (0x7D1A1A0C10100000, .vcgtnSc ⟨3,8,13,6,⟨2,false⟩,false,true⟩),
    (0x801A180954100000, .vfceqVr ⟨3,8,12,4,5,⟨2,true⟩,false,true⟩),
    (0x811A1A0C10100000, .vfceqSc ⟨3,8,13,6,⟨2,false⟩,false,true⟩),
    (0x821A180954100000, .vfcneVr ⟨3,8,12,4,5,⟨2,true⟩,false,true⟩),
    (0x831A1A0C10100000, .vfcneSc ⟨3,8,13,6,⟨2,false⟩,false,true⟩),
    (0x841A180954100000, .vfcltVr ⟨3,8,12,4,5,⟨2,true⟩,false,true⟩),
    (0x851A1A0C10100000, .vfcltSc ⟨3,8,13,6,⟨2,false⟩,false,true⟩),
    (0x861A180954100000, .vfcleVr ⟨3,8,12,4,5,⟨2,true⟩,false,true⟩),
    (0x871A1A0C10100000, .vfcleSc ⟨3,8,13,6,⟨2,false⟩,false,true⟩),
    (0x9018440000000000, .kand ⟨3,1,2⟩),
    (0x9118440000000000, .kor ⟨3,1,2⟩),
    (0x9218440000000000, .kxor ⟨3,1,2⟩),
    (0x9318400000000000, .knot ⟨3,1⟩),
    (0x94A8400000000000, .kffs ⟨21,1⟩),
    (0x95A8400000000000, .kpopc ⟨21,1⟩),
    (0x96A840000000002F, .kmvx ⟨21,1,47⟩),
    (0x9722180954200000, .vmergeVr ⟨4,8,12,4,5,⟨2,true⟩,true,false⟩),
    (0x98221A0C10100000, .vmergeSc ⟨4,8,13,6,⟨2,false⟩,false,true⟩),
    (0x9922000E1C23FFFE, .vmergeIm ⟨4,8,0x3FFFE,7,⟨3,true⟩,true⟩)] : List (Nat × Instr)).all (fun p => decide (decodeTableWord 64 p.1 = some p.2)) = true := by
  decide +kernel

/-- R222 to R228. -/
theorem words_vpermute : ([
    (0xA022180954200000, .vsumr ⟨4,8,12,4,5,⟨2,true⟩,true,false⟩),
    (0xA122180954200000, .vmaxr ⟨4,8,12,4,5,⟨2,true⟩,true,false⟩),
    (0xA222180954200000, .vmaxnr ⟨4,8,12,4,5,⟨2,true⟩,true,false⟩),
    (0xA322180954200000, .vminr ⟨4,8,12,4,5,⟨2,true⟩,true,false⟩),
    (0xA422180954200000, .vminnr ⟨4,8,12,4,5,⟨2,true⟩,true,false⟩),
    (0xA522180954200000, .vfsumr ⟨4,8,12,4,5,⟨2,true⟩,true,false⟩),
    (0xA622180954200000, .vfmaxr ⟨4,8,12,4,5,⟨2,true⟩,true,false⟩),
    (0xA722180954200000, .vfminr ⟨4,8,12,4,5,⟨2,true⟩,true,false⟩),
    (0xB0221A0C10100000, .vslideupSc ⟨4,8,13,6,⟨2,false⟩,false,true⟩),
    (0xB122000E1C23FFFE, .vslideupIm ⟨4,8,0x3FFFE,7,⟨3,true⟩,true⟩),
    (0xB2221A0C10100000, .vslidednSc ⟨4,8,13,6,⟨2,false⟩,false,true⟩),
    (0xB322000E1C23FFFE, .vslidednIm ⟨4,8,0x3FFFE,7,⟨3,true⟩,true⟩),
    (0xB4221A0C10100000, .vslide1up ⟨4,8,13,6,⟨2,false⟩,false,true⟩),
    (0xB522180954200000, .vrgather ⟨4,8,12,4,5,⟨2,true⟩,true,false⟩),
    (0xB622000C14200000, .vcompress ⟨4,8,6,⟨2,true⟩,true⟩),
    (0xB7221A0C00100002, .vreshp ⟨4,8,13,2,6,false,true⟩),
    (0xB820000000000001, .vidx ⟨4,1,⟨0,false⟩⟩),
    (0xB922000C14200000, .vmvVr ⟨4,8,6,⟨2,true⟩,true⟩),
    (0xBA201A0010100000, .vmvSc ⟨4,13,⟨2,false⟩,true⟩),
    (0xBB2000001003FFFF, .vmvIm ⟨4,0x3FFFF,⟨2,false⟩⟩),
    (0xBCAA000800200000, .vmvxs ⟨21,8,4,true⟩),
    (0xBD25400000200000, .vmvsx ⟨4,21,true⟩)] : List (Nat × Instr)).all (fun p => decide (decodeTableWord 64 p.1 = some p.2)) = true := by
  decide +kernel

/-- R231 to R234. -/
theorem words_vmemory : ([
    (0xC021800016600000, .vld ⟨4,6,⟨2,true⟩,true,some 9⟩),
    (0xC321800014240000, .vldff ⟨4,6,⟨2,true⟩,true,none⟩),
    (0xC821800016600000, .vst ⟨4,6,⟨2,true⟩,true,some 9⟩),
    (0xC1218E0012500000, .vlds ⟨4,6,7,⟨2,false⟩,false,true,some 9⟩),
    (0xC9218E0012500000, .vsts ⟨4,6,7,⟨2,false⟩,false,true,some 9⟩),
    (0xC221980152500003, .vldx ⟨4,6,12,3,5,⟨2,false⟩,false,true,some 9⟩),
    (0xCA21980152500003, .vstx ⟨4,6,12,3,5,⟨2,false⟩,false,true,some 9⟩),
    (0xC4218E001014002A, .vldseg ⟨4,6,7,2,1,true,⟨2,false⟩,false,true,none⟩),
    (0xCB218E001014002A, .vstseg ⟨4,6,7,2,1,true,⟨2,false⟩,false,true,none⟩),
    (0xD021990152500003, .vaadd ⟨4,6,12,16,3,5,⟨2,false⟩,false,true,some 9⟩),
    (0xD121990152500003, .vaand ⟨4,6,12,16,3,5,⟨2,false⟩,false,true,some 9⟩),
    (0xD221990152500003, .vaor ⟨4,6,12,16,3,5,⟨2,false⟩,false,true,some 9⟩),
    (0xD321990152500003, .vaxor ⟨4,6,12,16,3,5,⟨2,false⟩,false,true,some 9⟩),
    (0xD421990152500003, .vamin ⟨4,6,12,16,3,5,⟨2,false⟩,false,true,some 9⟩),
    (0xD521990152500003, .vamax ⟨4,6,12,16,3,5,⟨2,false⟩,false,true,some 9⟩),
    (0xD621990152500003, .vaswap ⟨4,6,12,16,3,5,⟨2,false⟩,false,true,some 9⟩),
    (0xD721990152500003, .vacas ⟨4,6,12,16,3,5,⟨2,false⟩,false,true,some 9⟩)] : List (Nat × Instr)).all (fun p => decide (decodeTableWord 64 p.1 = some p.2)) = true := by
  decide +kernel

/-- R245. -/
theorem words_matrix : ([
    (0xE001400000000000, .mprec 5 false),
    (0xE100000000000000, .mclaim),
    (0xE200000000000000, .mrel),
    (0xE30180000260002F, .mldb ⟨6,47,true,some 9⟩),
    (0xE400000000000000, .mzero),
    (0xE50200000020002F, .mma ⟨8,47,true⟩),
    (0xE60200000020002F, .mmaf ⟨8,47,true⟩),
    (0xE70200000020002F, .mmat ⟨8,47,true⟩),
    (0xE802180000100002, .mscale ⟨8,12,false,true,false,true⟩),
    (0xE960000000000058, .mcvt ⟨12,8,5⟩)] : List (Nat × Instr)).all (fun p => decide (decodeTableWord 64 p.1 = some p.2)) = true := by
  decide +kernel

/-- R160, R260. -/
theorem words_micro : ([
    (0x00000000, .endOp),
    (0x0C154600, .rcpy ⟨0x105,0x0A3⟩),
    (0x141476C0, .tra ⟨0x105,1,13,11⟩),
    (0x1C1476C0, .tran ⟨0x105,1,13,11⟩),
    (0x24154600, .negr ⟨0x105,0x0A3⟩),
    (0x2C1547E0, .shl ⟨0x105,0x0A3,15⟩),
    (0x341547E0, .shr ⟨0x105,0x0A3,15⟩),
    (0x3C140000, .clr 0x105),
    (0x44140000, .set 0x105),
    (0x4C140000, .seal 0x105),
    (0x5416C400, .brd ⟨0x105,2,true,17⟩),
    (0x5E400021, .loopc ⟨true,2,1,33⟩),
    (0x64168021, .brz ⟨0x105,5,33⟩),
    (0x68000000, .yield),
    (0x70000000, .sync)] : List (Nat × Instr)).all (fun p => decide (decodeMicro p.1 = .ok p.2)) = true := by
  decide +kernel

/-- R155, R164, R183, R299: other words that the manual writes out. -/
theorem words_written :
    decodeTableWord 32 0x91823004 = some (.ldwC ⟨12, 2, 3, 4⟩) ∧ decodeTableWord 32 0x2DA3043C = some (.bexti ⟨13, 3, 60, 8⟩) ∧
    decodeTableWord 32 0xEABE0001 = some (.std ⟨21, 30, 1⟩) ∧ decodeTableWord 32 0xB9630021 = some (.ret ⟨11, 3, false, true⟩) ∧
    decodeTableWord 64 0x0222180154000000 = some (.vaddVr ⟨4, 8, 12, 0, 5, ⟨2, true⟩, false, false⟩) ∧
    decodeTableWord 64 0xC040C00000400000 = some (.vld ⟨8, 3, ⟨0, false⟩, false, some 1⟩) := by decide +kernel

/-- R164: a word of each kind of unassigned encoding is refused: major, function value, shift kind, scope, class, VOP, FN, bit 19, modifier, mask, DC, unused field. -/
theorem words_refused :
    ([0xEC000000, 0x00000170, 0x20A600C0, 0xB0000005, 0xC0A61000, 0x00A63C01, 0xFC003801] : List Nat).all (fun w => !(decodeScalar w).toOption.isSome) = true ∧
    ([0x4700000000000000, 0x6F22000002800000, 0x0222180000080000, 0x0222180200000000, 0x0222180004000000, 0x0222180000040000, 0x0222181000000000] : List Nat).all
      (fun w => !(decodeVector w).toOption.isSome) = true ∧ (decodeMicro (15 * 134217728)).toOption.isSome = false := by decide +kernel

/-- A term that breaks each field rule is ill-formed, and its word is refused. -/
theorem illformed_refused :
    ([.fenceS 5, .aaddW ⟨5, 6, 7, false, false, 6⟩, .vaddVr ⟨4, 8, 12, 0, 0, ⟨0, true⟩, false, false⟩, .vaddVr ⟨4, 8, 12, 1, 0, ⟨0, false⟩, false, false⟩,
      .vaddVr ⟨4, 8, 12, 0, 3, ⟨0, false⟩, false, false⟩, .vceqVr ⟨0, 8, 12, 0, 0, ⟨0, false⟩, false, false⟩, .kand ⟨0, 1, 2⟩, .vmergeVr ⟨4, 8, 12, 0, 0, ⟨0, false⟩, false, false⟩,
      .vcompress ⟨4, 8, 0, ⟨0, false⟩, false⟩, .vreshp ⟨4, 8, 13, 3, 0, false, false⟩, .vaadd ⟨4, 6, 12, 16, 5, 0, ⟨0, false⟩, false, false, none⟩, .mma ⟨8, 48, false⟩,
      .mcvt ⟨12, 9, 0⟩, .mcvt ⟨12, 5, 1⟩, .mcvt ⟨12, 7, 8⟩] : List Instr).all
      (fun i => !i.wf && (match encode i with | .scalar w => !(decodeScalar w).toOption.isSome | .vector w => !(decodeVector w).toOption.isSome | _ => false)) = true := by
  decide +kernel

/-! ### Single steps, with results worked out by hand from the rules -/

/-- R177, R178, R182: a wrap, the examples of `div`, `rem`, `bexti` and `binsi`, and a source that is also the destination. -/
theorem test_integer :
    xAfter (.add ⟨5, 8, 7, false, false⟩) tv 5 = 6 ∧ xAfter (.sub ⟨6, 7, 6, false, false⟩) tv 6 = 0xFFFFFFFFFFFFFFA3 ∧
    xAfter (.div ⟨5, 1, 2, false, false⟩) { tv with x := [(1, 0xFFFFFFFFFFFFFFF9), (2, 2)] } 5 = 0xFFFFFFFFFFFFFFFD ∧
    xAfter (.rem ⟨5, 1, 2, false, false⟩) { tv with x := [(1, 0xFFFFFFFFFFFFFFF9), (2, 2)] } 5 = 0xFFFFFFFFFFFFFFFF ∧
    xAfter (.bexti ⟨13, 3, 60, 8⟩) { tv with x := [(3, 0xF123456789ABCDEF)] } 13 = 0xF ∧
    xAfter (.binsi ⟨13, 3, 60, 8⟩) { tv with x := [(3, 0xF123456789ABCDEF)] } 13 = 0xF000000000000000 ∧
    xAfter (.addpc ⟨11, 2⟩) { tv with pc := 0xFF000000100040 } 11 = 0xFF000000120040 := by decide +kernel

/-- R179, R181: immediates are sign-extended or zero-extended, and `ldhi` sign-extends 32 bits. -/
theorem test_immediate :
    xAfter (.addi ⟨5, 7, 0xFFFF⟩) tv 5 = 6 ∧ xAfter (.ori ⟨5, 0, 0xFFFF⟩) tv 5 = 0xFFFF ∧ xAfter (.sltni ⟨5, 7, 0xFFFF⟩) tv 5 = 1 ∧
    xAfter (.srai ⟨5, 8, 63⟩) tv 5 = 0xFFFFFFFFFFFFFFFF ∧ xAfter (.ldhi ⟨5, 0x8001⟩) tv 5 = 0xFFFFFFFF80010000 := by decide +kernel

/-- R184: a taken branch counts from its own word; `jal` writes nothing to x0. -/
theorem test_branch :
    (after (exec (.beq ⟨0, 0, 0xFFFE⟩) (ts { tv with pc := 0xFF000000100040 }))).me.pc = 0xFF000000100038 ∧
    (after (exec (.bltn ⟨8, 0, 0xFFFE⟩) (ts { tv with pc := 0xFF000000100040 }))).me.pc = 0xFF000000100044 ∧
    (after (exec (.jalr ⟨1, 11, 4⟩) (ts tv))).me.pc = 0xFF000000100014 ∧ xAfter (.jalr ⟨1, 11, 4⟩) tv 1 = 0xFF000000100004 := by decide +kernel

/-- R183: a byte load sign-extends; R105: `amin` is signed and leaves the old word as its answer. -/
theorem test_memory :
    (after (exec (.targetAccess 5) { tn tv [{ ta .load 1 with sgn := true }] with mem := [(0x1000, 0x80)] })).fills.map (fun f => f.val) = [0xFFFFFFFFFFFFFF80] ∧
    mread (after (exec (.targetAccess 5) (tn tv [{ ta .store 4 with data := 0x1122334455667788 }]))).mem 0x1000 8 = 0x55667788 := by decide +kernel

/-- R184, R349: `trap` saves its own address and goes to the vector; `tret` comes back past it. -/
theorem test_trap :
    (after (exec (.trap 77) (ts tv))).me.pc = 0xFF000000100800 ∧ (after (exec (.trap 77) (ts tv))).me.hnd = true ∧
    (after (exec .tret (ts tvH))).me.pc = 0xFF000000100040 ∧ (after (exec .tret (ts tvH))).me.hnd = false := by decide +kernel

/-- The register that a vector word leaves in v10, with `x` in v8, `y` in v9 and `xb` in its x register. -/
def vAfter (i : Instr) (vl sew xb x y : Nat) : Nat :=
  let s := tvec { te i vl sew with xb := BitVec.ofNat 64 xb } {}
  (tget 0 (after (exec i { s with vlcs := [(0, { s.me with v := [(8, BitVec.ofNat _ x), (9, BitVec.ofNat _ y)] })] })).me.v 10).toNat

/-- R210: lanes wrap and stop at VL; R213: the example of `vclip`; R227: the example of `vreshp`, with L in xb; R228. -/
theorem test_vector :
    vAfter tAdd 2 2 0 0x00000005FFFFFFFE 0x000000080000000C = 0x0000000D0000000A ∧
    vAfter (.vclip ⟨10, 8, 4, 0, ⟨0, false⟩, false⟩) 4 0 0 0xF7CC0028FFE803E8 0 = 0x8002FE3E ∧
    vAfter (.vreshp ⟨10, 8, 3, 0, 0, false, false⟩) 6 2 3 0x000000050000000400000003000000020000000100000000 0 = 0x000000050000000200000004000000010000000300000000 ∧
    vAfter (.vidx ⟨10, 0x00403, ⟨0, false⟩⟩) 3 1 0 0 0 = 0x000800050002 := by decide +kernel

/-- R260: a majority of c0, c1 and a compute row is that row; R261: a loop with turns left goes back. -/
theorem test_micro :
    (let c : Cmd := { tRun 0 with words := [0, 0], lc0 := 3 }
     let t := after (exec (.loopc ⟨false, 1, 0, 5⟩) (tm c))
     (getCmd t 5).map (fun d => (d.upc, d.lc0, d.i0, d.i1)) = some (5, 2, 1, 0)) ∧
    (let s : State := { tm (tRun 0) with comp := [(compKey (ts tb) 0 3, some 0xA5)] }
     fixedRow (after (exec (.tra ⟨0x182, 3, 14, 15⟩) s)) (tRun 0) false 0 2 = 0xA5) := by decide +kernel

end
end Sys2Proof.Tests
end

section
/-! SUPPORT. The reset state, and what a step runs for each kind of move (R21, R22, R25, R61, R63, R260, R336). -/
namespace Sys2Proof.Machine

/-- Settles O60: nothing is listed in the memory of the reset state, and no image is stored. -/
theorem resetInvariant : Obligations.ResetInvariant :=
  ⟨⟨reset_mem_wf, fun _ hx => absurd hx List.not_mem_nil⟩, rfl, mget_nil⟩

/-! ### The move of the agenda (log 1) -/

theorem step_of_stopped {s : State} (hs : s.plat.stopped = true) (hr : s.agenda.head? ≠ some .reset) : step s = .fault .stopped := by
  rw [step, hs, Bool.true_and, if_pos (bne_iff_ne.2 hr)]

/-- A module that has not stopped, or whose next move is its reset, makes the move at the head of its agenda. -/
theorem step_of_agenda {s : State} {m : Move} {rest : List Move} (ha : s.agenda = m :: rest) (h : s.plat.stopped = false ∨ m = .reset) :
    step s = runSel (select m { s with agenda := rest }) := by
  have hgo : (s.plat.stopped && s.agenda.head? != some .reset) = false := by
    rcases h with h | rfl
    · rw [h, Bool.false_and]
    · rw [ha, List.head?_cons, bne_self_eq_false, Bool.and_false]
  rw [step, hgo, if_neg Bool.false_ne_true, nextMove, ha]

/-! ### The fetch of a scalar word (R21, R357, R390) -/

/-- An address of the I-store window lies behind the DRAM of its vault (R26, R77). -/
theorem istorePa_not_dram {n va : Nat} (h : inIstore va = true) : paDram (istorePa n va) = false := by
  simp only [inIstore, Bool.and_eq_true, decide_eq_true_eq] at h
  simp only [istoreLo, istoreHi] at h
  simp only [paDram, decide_eq_false_iff_not]
  simp only [paOff, istorePa, vaultPa, dramEnd]
  omega

/-- The four bytes of an aligned word lie in one word with check bits. -/
theorem one_word_of_aligned {pa : Nat} (h : pa % 4 = 0) : upto ((4 + pa % 8 + 7) / 8) = [0] := by
  rw [show (4 + pa % 8 + 7) / 8 = 1 by omega]; rfl

theorem istorePa_aligned {n va : Nat} (h : va % 4 = 0) : istorePa n va % 4 = 0 := by
  simp only [istorePa, vaultPa, dramEnd]; omega

/-- A word of the I-store without an error is fetched as it is stored, and its fetch changes nothing (R390). -/
theorem fetchBits_of_good {n va : Nat} {s : State} (hi : inIstore va = true) (ha : va % 4 = 0) (hg : eccAt s (istorePa n va / 8 * 8) = .good) :
    fetchBits n va 4 s = (mread s.mem (istorePa n va) 4, s) := by
  have hw := one_word_of_aligned (istorePa_aligned (n := n) ha)
  have hue : ueIn s (istorePa n va) 4 = false := by simp [ueIn, isLost, istorePa_not_dram hi, hw, hg]
  have hco : correctIn (istorePa n va) 4 s = s := by simp [correctIn, hw, hg]
  simp only [fetchBits, hue, Bool.false_eq_true, if_false, hco]

/-- The words behind one that was fetched ahead without an error stay as they are. -/
theorem takeAhead_of_good {n : Nat} {w : Nat × Nat × Nat} {l : List (Nat × Nat × Nat)} (hw : w.2.2 = 0) (s : State) :
    takeAhead n w l s = updVlc n (fun v => { v with ahead := l }) s := by
  simp only [takeAhead, takeHead, hw, ne_eq, not_true_eq_false, false_and, if_false, if_true, List.map_id_fun', id_eq]

theorem nextWord_of_stored {n : Nat} {s : State} (hh : (getVlc s n).ahead = []) : nextWord n s = fetchBits n (getVlc s n).pc.toNat 4 s := by
  simp only [nextWord, hh]

/-- A word that was fetched ahead without an error is taken from what the core holds (R357). -/
theorem nextWord_of_ahead {n w : Nat} {l : List (Nat × Nat × Nat)} {s : State} (hh : (getVlc s n).ahead = ((getVlc s n).pc.toNat, w, 0) :: l) :
    nextWord n s = (w, { s with vlcs := tupd {} s.vlcs n (fun v => { v with ahead := v.ahead.tail }) }) := by
  have htail : updVlc n (fun v => { v with ahead := l }) s = updVlc n (fun v => { v with ahead := v.ahead.tail }) s := by
    have : (tget {} s.vlcs n).ahead.tail = l := congrArg List.tail hh
    rw [updVlc, updVlc, tupd, tupd, this]
  have htake := (takeAhead_of_good (n := n) (w := ((getVlc s n).pc.toNat, w, 0)) (l := l) rfl s).trans htail
  simp only [nextWord, hh, ne_eq, not_true_eq_false, if_false, Nat.zero_lt_two, if_true, htake]
  rfl

/-! ### The turn of a VLC (R61, R63) -/

/-- VLC `v` stands before a scalar word that it may issue: at an aligned address of the I-store, with no breakpoint and no fault to take. -/
structure AtScalar (v : Vlc) : Prop where
  ready : v.ready = true
  aligned : v.pc.toNat % 4 = 0
  inside : inIstore v.pc.toNat = true
  unbroken : scalarBreak v = none
  faultless : (if v.hnd then (handlerFault v).isNone else (nextFault v).isNone) = true

/-- What a decoded word acts as: itself, or the instruction that answers ILLEGAL for an unassigned word (R164). -/
def ActsAs (w : Nat) (i : Instr) : Prop := decodeScalar w = .ok i ∨ (∃ e, decodeScalar w = .error e) ∧ i = .unassignedEncoding (BitVec.ofNat 32 w)

theorem exists_actsAs (w : Nat) : ∃ i, ActsAs w i := by
  cases h : decodeScalar w with
  | ok i => exact ⟨i, .inl h⟩
  | error e => exact ⟨_, .inr ⟨⟨e, h⟩, rfl⟩⟩

theorem ready_iff (v : Vlc) : v.ready = true ↔ v.status = .running ∧ v.wait = .none ∧ v.sfault = none ∧ v.rewind = false ∧
    (v.hnd = false → v.feed = none ∧ v.refetch = none ∧ v.vfaults = []) := by
  cases h : v.hnd <;> simp [Vlc.ready, and_assoc, h]

/-- A VLC that stands before a scalar word has nothing else to do in its turn. -/
theorem vlcTurn_of_atScalar {n : Nat} {s : State} (h : AtScalar (getVlc s n)) : vlcTurn n s = issueScalar n { s with cur := n } := by
  obtain ⟨hrun, hwait, -, hrew, hfront⟩ := (ready_iff _).1 h.ready
  have hv : getVlc { s with cur := n } n = getVlc s n := rfl
  have hf := h.faultless
  cases hh : (getVlc s n).hnd with
  | true =>
    rw [hh, if_pos rfl, Option.isNone_iff_eq_none] at hf
    simp [vlcTurn, hv, hrun, hwait, hrew, hh, hf, frontWord]
  | false =>
    obtain ⟨hfeed, href, -⟩ := hfront hh
    rw [hh, if_neg Bool.false_ne_true, Option.isNone_iff_eq_none] at hf
    simp [vlcTurn, hv, hrun, hwait, hrew, hh, hf, refetchDue, href, frontWord, hfeed]

/-- A VLC before a scalar word issues what the word that it fetches stands for. -/
theorem issueScalar_of_atScalar {n w : Nat} {s t : State} {i : Instr} (h : AtScalar (getVlc s n)) (hw : nextWord n s = (w, t)) (hi : ActsAs w i) :
    issueScalar n s = .issue n i s t := by
  have hne : (getVlc s n).pc.toNat ≠ istoreHi := by
    have := h.inside
    simp only [inIstore, Bool.and_eq_true, decide_eq_true_eq] at this
    omega
  rcases hi with hi | ⟨⟨e, he⟩, rfl⟩
  · simp [issueScalar, h.ready, h.aligned, h.inside, h.unbroken, hne, hw, hi]
  · simp [issueScalar, h.ready, h.aligned, h.inside, h.unbroken, hne, hw, he]

/-- A VLC before a scalar word issues it when no VLC before it in the barrel would issue (R61). -/
theorem barrelTurn_of_first {n w : Nat} {s t : State} {i : Instr} (h : AtScalar (getVlc s n)) (hw : nextWord n { s with cur := n } = (w, t))
    (hi : ActsAs w i) (hb : ∀ k ∈ barrelBefore s n, issues k s = false) : barrelTurn n s = .issue n i { s with cur := n } t := by
  have hb' : (barrelBefore s n).any (fun k => issues k s) = false := by simpa using hb
  rw [barrelTurn, vlcTurn_of_atScalar h, issueScalar_of_atScalar (s := { s with cur := n }) h hw hi]
  simp only [hb', Bool.false_eq_true, if_false]

/-- A VLC before a scalar word makes no step while a VLC before it in the barrel would issue (R61). -/
theorem barrelTurn_of_behind {n : Nat} {s : State} (h : AtScalar (getVlc s n)) (hb : ∃ k ∈ barrelBefore s n, issues k s = true) :
    barrelTurn n s = .over s := by
  obtain ⟨i, hi⟩ := exists_actsAs (nextWord n { s with cur := n }).1
  rw [barrelTurn, vlcTurn_of_atScalar h, issueScalar_of_atScalar (s := { s with cur := n }) h rfl hi]
  simp only [List.any_eq_true.2 hb, if_true]

/-- A word that issues acts on the state that its fetch leaves; one that does not has not been fetched (R357). -/
theorem issueWord_of_exec {n : Nat} {i : Instr} {s t x y : State} (hs : exec i s = .next y) (ht : exec i t = .next x) :
    issueWord n i s t = .next (if hasIssued n s y then noteIssue n i x else y) := by
  simp only [issueWord, hs, ht]
  split_ifs <;> rfl

/-! ### What a step notes of a word that has issued (R61, R114 to R127) -/

/-- A part of the loads that VLC `n` performed early stays, and nothing else changes. -/
def KeepsEarly (n : Nat) (x t : State) : Prop :=
  { t with vlcs := x.vlcs } = x ∧ (∀ m, m ≠ n → getVlc t m = getVlc x m) ∧ getVlc t n = { getVlc x n with early := (getVlc t n).early } ∧
    ∀ e ∈ (getVlc t n).early, e ∈ (getVlc x n).early

theorem keepsEarly_refl (n : Nat) (x : State) : KeepsEarly n x x := ⟨rfl, fun _ _ => rfl, rfl, fun _ h => h⟩

theorem keepsEarly_updVlc {n : Nat} {x : State} {l : List Early} (hl : ∀ e ∈ l, e ∈ (getVlc x n).early) :
    KeepsEarly n x (updVlc n (fun v => { v with early := l }) x) := by
  refine ⟨rfl, fun m hm => getVlc_updVlc_other _ _ hm, ?_, ?_⟩ <;> rw [getVlc_updVlc_same]
  exact hl

theorem dropEarly_keepsEarly (n : Nat) (x : State) : KeepsEarly n x (dropEarly n x) := by
  unfold dropEarly
  split_ifs
  · exact keepsEarly_refl n x
  · exact keepsEarly_updVlc (by simp)

theorem keepEarly_keepsEarly (n : Nat) (x : State) : KeepsEarly n x (keepEarly n x) := by
  unfold keepEarly
  split_ifs
  · exact keepsEarly_refl n x
  · exact keepsEarly_updVlc fun e he => (List.mem_filter.1 he).1

theorem noteIssue_keepsEarly (n : Nat) (i : Instr) (x : State) : KeepsEarly n (updCore (coreOf n) (fun c => { c with last := n % 4 }) x) (noteIssue n i x) := by
  unfold noteIssue
  dsimp only
  split_ifs
  · exact dropEarly_keepsEarly ..
  · exact keepEarly_keepsEarly ..

/-! ### The moves of cores, commands and events (R63, R260) -/

theorem viqTurn_of_head {s : State} {c : Nat} {e : VEntry} {q : List VEntry} (hq : (getCore s c).viq = e :: q) (hr : e.raw = false) :
    viqTurn c s = .run e.instr { s with cur := e.vlc } := by
  simp [viqTurn, hq, hr]

theorem microTurn_of_running {s : State} {k : Nat} {c : Cmd} {i : Instr} (hc : getCmd s k = some c) (hk : c.kind = .bkx) (hr : c.stage = .running)
    (hs : c.sealing = false) (hi : decodeMicro (c.words.getD c.upc 0) = .ok i) : microTurn k s = .run i { s with curCmd := k } := by
  have hc' : getCmd { s with curCmd := k } k = some c := hc
  simp only [microTurn, hc', hk, hs, hr, hi, and_self, if_true, ne_eq, not_true_eq_false, if_false]

/-! ### The step of a VLC -/

section
variable {s : State} {rest : List Move} {n : Nat} (ha : s.agenda = .vlc n :: rest) (hgo : s.plat.stopped = false) (hat : AtScalar (getVlc s n))
include ha hgo hat

/-- The step of a VLC that is the first of its barrel to issue runs the word that it fetches. -/
theorem step_of_first (hb : ∀ k ∈ barrelBefore s n, issues k { s with agenda := rest } = false) {w : Nat} {t : State}
    (hw : nextWord n { s with agenda := rest, cur := n } = (w, t)) {i : Instr} {y x : State} (hi : ActsAs w i)
    (hy : exec i { s with agenda := rest, cur := n } = .next y) (hx : exec i t = .next x) :
    step s = .next (if hasIssued n { s with agenda := rest, cur := n } y then noteIssue n i x else y) := by
  rw [step_of_agenda ha (.inl hgo), select, barrelTurn_of_first (s := { s with agenda := rest }) hat hw hi hb]
  exact issueWord_of_exec hy hx

theorem step_of_behind (hb : ∃ k ∈ barrelBefore s n, issues k { s with agenda := rest } = true) : step s = .next { s with agenda := rest } := by
  rw [step_of_agenda ha (.inl hgo), select, barrelTurn_of_behind (s := { s with agenda := rest }) hat hb]; rfl

end

/-- Settles O56, by the kinds of moves. -/
theorem stepRunsDecoded : Obligations.StepRunsDecoded := by
  unfold Obligations.StepRunsDecoded
  refine fun s rest => ⟨step_of_stopped, fun ha => step_of_agenda ha (.inr rfl), fun hgo => ⟨?_, ?_, ?_, ?_, ?_⟩⟩
  · intro n ha hready halign hin hbrk hfault pa u held Runs
    have hat : AtScalar (getVlc s n) := ⟨hready, halign, hin, hbrk, hfault⟩
    refine ⟨fun hb => ⟨fun hh hg i y x => ?_, fun w l hl i y x => ?_⟩, fun hb _ _ => ⟨_, step_of_behind ha hgo hat hb, rfl, rfl⟩⟩
    · exact step_of_first ha hgo hat hb ((nextWord_of_stored (s := u) hh).trans (fetchBits_of_good (s := u) hin halign hg))
    · exact step_of_first ha hgo hat hb (nextWord_of_ahead (s := u) hl)
  · intro n i x t
    obtain ⟨hrest, hother, hsame, hsub⟩ := noteIssue_keepsEarly n i x
    exact ⟨congrArg (fun y : State => { y with cores := x.cores }) hrest, congrArg State.cores hrest, hother, hsame, hsub⟩
  · intro c e q ha hq hr
    rw [step_of_agenda ha (.inl hgo), select, viqTurn_of_head (s := { s with agenda := rest }) hq hr]; rfl
  · intro k c i ha hc hk hr hs hi
    rw [step_of_agenda ha (.inl hgo), select, microTurn_of_running (s := { s with agenda := rest }) hc hk hr hs hi]; rfl
  · intro i ha hi
    rw [step_of_agenda ha (.inl hgo), select, if_pos hi]; rfl

end Sys2Proof.Machine
end

section
/-! SUPPORT. Rows of memory, entries of the unsealed-row table and compute rows: what an operation in one frame leaves of another (R15, R26, R29, R266, R376). -/
namespace Sys2Proof.Machine

/-! ### Reading a row (R2, R29) -/

/-- What a cell adds to the number that the `n` bytes from `a` on hold. -/
def cellAdds (a n : Nat) (c : Host.Cell) : Nat := if a ≤ c.1 ∧ c.1 < a + n then c.2.toNat * 256 ^ (c.1 - a) else 0

theorem mreadFast_eq_sum (m : List Host.Cell) (a n : Nat) : mreadFast m a n = (m.map (cellAdds a n)).sum := by
  have key : ∀ (m : List Host.Cell) (x : Nat),
      m.foldl (fun acc c => if a ≤ c.1 ∧ c.1 < a + n then acc + c.2.toNat * 256 ^ (c.1 - a) else acc) x = x + (m.map (cellAdds a n)).sum := by
    intro m
    induction m with
    | nil => intro x; rfl
    | cons c m ih =>
      intro x
      rw [List.foldl_cons, ih, List.map_cons, List.sum_cons, cellAdds]
      split_ifs <;> omega
  exact (key m 0).trans (Nat.zero_add _)

theorem mreadFast_append (l m : List Host.Cell) (a n : Nat) : mreadFast (l ++ m) a n = mreadFast l a n + mreadFast m a n := by
  simp only [mreadFast_eq_sum, List.map_append, List.sum_append]

theorem mreadFast_cons (c : Host.Cell) (m : List Host.Cell) (a n : Nat) : mreadFast (c :: m) a n = cellAdds a n c + mreadFast m a n := by
  simp only [mreadFast_eq_sum, List.map_cons, List.sum_cons]

theorem mreadFast_outside {m : List Host.Cell} {a n : Nat} (h : ∀ c ∈ m, c.1 < a ∨ a + n ≤ c.1) : mreadFast m a n = 0 := by
  rw [mreadFast_eq_sum, List.sum_eq_zero_iff]
  intro x hx
  obtain ⟨c, hc, rfl⟩ := List.mem_map.1 hx
  exact if_neg (by have := h c hc; omega)

/-- Cells outside the bytes that are read may be left out. -/
theorem mreadFast_filter {m : List Host.Cell} {a n : Nat} {p : Host.Cell → Bool} (h : ∀ c, a ≤ c.1 → c.1 < a + n → p c = true) :
    mreadFast (m.filter p) a n = mreadFast m a n := by
  induction m with
  | nil => rfl
  | cons c m ih =>
    by_cases hc : p c = true
    · rw [List.filter_cons_of_pos hc, mreadFast_cons, mreadFast_cons, ih]
    · have hz : cellAdds a n c = 0 := if_neg fun hin => hc (h c hin.1 hin.2)
      rw [List.filter_cons_of_neg hc, mreadFast_cons, ih, hz, Nat.zero_add]

/-- The cells of a number read back as the number, in the place where they stand. -/
theorem mreadFast_cellsOf (a n v k : Nat) : mreadFast (cellsOf (a + k) n v) a (k + n) = v % 256 ^ n * 256 ^ k := by
  induction n generalizing k v with
  | zero => simp [cellsOf, mreadFast, Nat.mod_one]
  | succ n ih =>
    have hrest := ih (v / 256) (k + 1)
    rw [show a + (k + 1) = a + k + 1 by omega, show k + 1 + n = k + (n + 1) by omega] at hrest
    have hmod : v % 256 ^ (n + 1) = v % 256 + 256 * (v / 256 % 256 ^ n) := by rw [Nat.pow_succ', Nat.mod_mul]
    have hsum : v % 256 ^ (n + 1) * 256 ^ k = v % 256 * 256 ^ k + v / 256 % 256 ^ n * 256 ^ (k + 1) := by rw [hmod]; ring
    by_cases hz : v % 256 = 0
    · rw [cellsOf, if_pos hz, hrest, hsum, hz, Nat.zero_mul, Nat.zero_add]
    · have hc : cellAdds a (k + (n + 1)) (a + k, BitVec.ofNat 8 (v % 256)) = v % 256 * 256 ^ k := by
        rw [cellAdds, if_pos (by dsimp only; omega)]
        simp
      rw [cellsOf, if_neg hz, mreadFast_cons, hc, hrest, hsum]

/-- Bytes just written read back as they were written, whatever memory listed before. -/
theorem mreadFast_mwrite (m : List Host.Cell) (a n v : Nat) : mreadFast (mwrite m a n v) a n = v % 256 ^ n := by
  have hlow : mreadFast (m.filter (fun c => c.1 < a)) a n = 0 := mreadFast_outside fun c hc => .inl (by simpa using (List.mem_filter.1 hc).2)
  have hhigh : mreadFast (m.filter (fun c => a + n ≤ c.1)) a n = 0 := mreadFast_outside fun c hc => .inr (by simpa using (List.mem_filter.1 hc).2)
  have hnew := mreadFast_cellsOf a n v 0
  rw [Nat.add_zero, Nat.zero_add, Nat.pow_zero, Nat.mul_one] at hnew
  rw [mwrite, mreadFast_append, mreadFast_append, hlow, hhigh, hnew, Nat.zero_add, Nat.add_zero]

theorem mreadFast_mwrite_out (m : List Host.Cell) {a b n k : Nat} (v : Nat) (h : b + k ≤ a ∨ a + n ≤ b) :
    mreadFast (mwrite m a n v) b k = mreadFast m b k := by
  have hnew : mreadFast (cellsOf a n v) b k = 0 := mreadFast_outside fun c hc => by have := mem_cellsOf hc; omega
  rw [mwrite, mreadFast_append, mreadFast_append, hnew, Nat.add_zero]
  rcases h with h | h
  · have hhigh : mreadFast (m.filter (fun c => a + n ≤ c.1)) b k = 0 :=
      mreadFast_outside fun c hc => .inr (le_trans (show b + k ≤ a + n by omega) (by simpa using (List.mem_filter.1 hc).2))
    rw [hhigh, Nat.add_zero]
    exact mreadFast_filter fun c _ h2 => by simp only [decide_eq_true_eq]; omega
  · have hlow : mreadFast (m.filter (fun c => c.1 < a)) b k = 0 :=
      mreadFast_outside fun c hc => .inl (lt_of_lt_of_le (by simpa using (List.mem_filter.1 hc).2) (show a ≤ b by omega))
    rw [hlow, Nat.zero_add]
    exact mreadFast_filter fun c h1 _ => by simp only [decide_eq_true_eq]; omega

/-- The bits of a number of `n` bytes are those of its `n` lowest bytes. -/
theorem ofNat_toNat_mod (n : Nat) (r : BitVec (8 * n)) : BitVec.ofNat (8 * n) (r.toNat % 256 ^ n) = r := by
  have hlt : r.toNat < 256 ^ n := r.isLt.trans_eq (Nat.pow_mul 2 8 n)
  rw [Nat.mod_eq_of_lt hlt, BitVec.ofNat_toNat, BitVec.setWidth_eq]

/-- A row that has been written reads as the new bits (R259). -/
theorem readRow_writeRow (pa : Nat) (r : Row) (s : State) : readRow (writeRow pa r s) pa = r := by
  rw [readRow, (writeRow_mem pa r s).1, mreadFast_mwrite]
  exact ofNat_toNat_mod 8192 r

/-! ### Addresses of frames and rows (R26, R29) -/

/-- The base of a frame of 2 MiB. -/
abbrev AtFrame (f : Nat) : Prop := f % 2097152 = 0

theorem rowPa_div {f : Nat} (hf : AtFrame f) (d : Nat) : rowPa f d / 8192 = f / 8192 + d := by
  simp only [rowPa]; omega

section
variable {f g d e : Nat} (hf : AtFrame f) (hd : d < 256)
include hf hd

theorem paMVault_rowPa : paMVault (rowPa f d) = paMVault f := by
  simp only [paMVault, paStack, paVault, rowPa]; omega

theorem frameNo_rowPa : frameNo (rowPa f d) = frameNo f := by
  simp only [frameNo, paOff, rowPa]; omega

theorem paRow_rowPa : paRow (rowPa f d) = d := by
  simp only [paRow, rowPa]; omega

theorem paDram_rowPa : paDram (rowPa f d) = paDram f := by
  exact decide_eq_decide.2 (by simp only [paOff, rowPa, dramEnd]; omega)

theorem rowPa_apart (hg : AtFrame g) (he : e < 256) (h : g ≠ f) : rowPa g e + 8192 ≤ rowPa f d ∨ rowPa f d + 8192 ≤ rowPa g e := by
  simp only [rowPa]; omega

theorem rowPa_div_ne (hg : AtFrame g) (he : e < 256) (h : g ≠ f) : rowPa f d / 8192 ≠ rowPa g e / 8192 := by
  simp only [rowPa]; omega

end

/-- A vault and a frame number name one frame (R26). -/
theorem frame_eq_of_entry {f g : Nat} (hf : AtFrame f) (hg : AtFrame g) (hv : paMVault f = paMVault g) (hn : frameNo f = frameNo g) : f = g := by
  simp only [paMVault, paStack, paVault, frameNo, paOff] at hv hn
  omega

/-! ### The unsealed-row table (R266, R376) -/

/-- The entries of frame number `f` in a vault become those of `l`. -/
def putEntries (vault f : Nat) (l : List Unsealed) (s : State) : State :=
  updVault vault (fun v => { v with unsealed := v.unsealed.filter (fun x => x.frame != f) ++ l }) s

theorem unsealedOf_putEntries_same (vault f : Nat) {l : List Unsealed} (hl : ∀ e ∈ l, e.frame = f) (s : State) :
    unsealedOf (putEntries vault f l s) vault f = l.head? := by
  have hnone : (((getVault s vault).unsealed.filter (fun x => x.frame != f)).find? (fun e => e.frame == f)) = none := by simp
  have hhead : l.find? (fun e => e.frame == f) = l.head? := by
    cases l with
    | nil => rfl
    | cons e l => simp [hl e]
  rw [unsealedOf, putEntries, getVault_updVault_same, List.find?_append, hnone, Option.none_or, hhead]

theorem unsealedOf_putEntries_other {vault f v n : Nat} {l : List Unsealed} (hl : ∀ e ∈ l, e.frame = f) (s : State) (h : v = vault → n ≠ f) :
    unsealedOf (putEntries vault f l s) v n = unsealedOf s v n := by
  by_cases hv : v = vault
  · subst hv
    have hn := h rfl
    have hnone : l.find? (fun e => e.frame == n) = none := by
      rw [List.find?_eq_none]
      intro e he
      simp [hl e he, hn.symm]
    have hfilter : ((getVault s v).unsealed.filter (fun x => x.frame != f)).find? (fun e => e.frame == n) = (getVault s v).unsealed.find? (fun e => e.frame == n) := by
      rw [List.find?_filter]
      congr 1
      funext e
      by_cases he : e.frame = n
      · simp [he, hn]
      · simp [he]
    rw [unsealedOf, putEntries, getVault_updVault_same, List.find?_append, hnone, Option.or_none, hfilter]
    rfl
  · rw [unsealedOf, putEntries, getVault_updVault_other _ _ hv]
    rfl

theorem getLsbD_ofNat_two_pow {d k : Nat} (hk : k < 256) : (BitVec.ofNat 256 (2 ^ d)).getLsbD k = decide (d = k) := by
  rw [BitVec.getLsbD_ofNat, decide_eq_true hk, Bool.true_and, Nat.testBit_two_pow]

/-- A row that is written stands in the entry of its frame from then on. -/
theorem noteUnsealed_eq (pa : Nat) (old new : Row) (s : State) : ∃ e : Unsealed, e.frame = frameNo pa ∧ e.u.getLsbD (paRow pa) = true ∧
    noteUnsealed pa old new s = putEntries (paMVault pa) (frameNo pa) [e] s := by
  have hframe : ((unsealedOf s (paMVault pa) (frameNo pa)).getD { frame := frameNo pa, u := 0 }).frame = frameNo pa := by
    cases h : unsealedOf s (paMVault pa) (frameNo pa) with
    | none => rfl
    | some e => simpa using List.find?_some h
  refine ⟨_, ?_, ?_, rfl⟩
  · exact hframe
  · have hrow : paRow pa < 256 := Nat.mod_lt _ (by omega)
    rw [BitVec.getLsbD_or, getLsbD_ofNat_two_pow hrow, decide_eq_true rfl, Bool.or_true]

/-- A row of a frame is unsealed when the entry of the frame has its bit. -/
theorem rowUnsealed_rowPa {f d : Nat} (hf : AtFrame f) (hd : d < 256) (s : State) :
    rowUnsealed s (rowPa f d) = (paDram f && (unsealedOf s (paMVault f) (frameNo f)).any (fun e => e.u.getLsbD d)) := by
  rw [rowUnsealed, paDram_rowPa hf hd, paMVault_rowPa hf hd, frameNo_rowPa hf hd, paRow_rowPa hf hd]
  cases unsealedOf s (paMVault f) (frameNo f) <;> rfl

/-! ### What is kept of a frame -/

/-- Rows, conditions of words, table entry and compute rows of the frame at `f` are as before, and frames are stored where they were. -/
structure FrameKept (f : Nat) (s t : State) : Prop where
  stored : t.repair.redirect = s.repair.redirect
  rows : ∀ d, d < 256 → readRow t (rowPa f d) = readRow s (rowPa f d)
  words : ∀ d, d < 256 → t.ecc.filter (fun p => p.1 / 1024 == rowPa f d / 8192) = s.ecc.filter (fun p => p.1 / 1024 == rowPa f d / 8192)
  entry : unsealedOf t (paMVault f) (frameNo f) = unsealedOf s (paMVault f) (frameNo f)
  compute : ∀ k, k < 16 → tget none t.comp (compKey s f k) = tget none s.comp (compKey s f k)

/-- Two frames are stored in different subarrays. -/
def Apart (s : State) (f g : Nat) : Prop := subarrayNo (realPa s f) ≠ subarrayNo (realPa s g)

theorem realPa_congr {s t : State} (h : t.repair.redirect = s.repair.redirect) (pa : Nat) : realPa t pa = realPa s pa := by
  rw [realPa, realPa, h]

theorem compKey_congr {s t : State} (h : t.repair.redirect = s.repair.redirect) (f k : Nat) : compKey t f k = compKey s f k := by
  rw [compKey, compKey, realPa_congr h]

theorem Apart.ne {s : State} {f g : Nat} (h : Apart s f g) : f ≠ g := fun e => h (e ▸ rfl)

theorem Apart.symm {s : State} {f g : Nat} (h : Apart s f g) : Apart s g f := Ne.symm h

theorem Apart.congr {s t : State} {f g : Nat} (h : Apart s f g) (hst : t.repair.redirect = s.repair.redirect) : Apart t f g := by
  unfold Apart
  rwa [realPa_congr hst, realPa_congr hst]

/-- Compute rows of frames in different subarrays have different numbers. -/
theorem Apart.compKey_ne {s : State} {f g j k : Nat} (h : Apart s f g) (hj : j < 16) (hk : k < 16) : compKey s g k ≠ compKey s f j := by
  have := h
  unfold Apart at this
  unfold compKey
  omega

theorem FrameKept.refl (f : Nat) (s : State) : FrameKept f s s := ⟨rfl, fun _ _ => rfl, fun _ _ => rfl, rfl, fun _ _ => rfl⟩

theorem FrameKept.trans {f : Nat} {s t u : State} (h : FrameKept f s t) (k : FrameKept f t u) : FrameKept f s u where
  stored := k.stored.trans h.stored
  rows d hd := (k.rows d hd).trans (h.rows d hd)
  words d hd := (k.words d hd).trans (h.words d hd)
  entry := k.entry.trans h.entry
  compute j hj := by rw [← compKey_congr h.stored, k.compute j hj, compKey_congr h.stored, h.compute j hj]

section
variable {f : Nat} {s t : State} (h : FrameKept f s t)
include h

theorem FrameKept.rowUnsealed_eq {d : Nat} (hf : AtFrame f) (hd : d < 256) : rowUnsealed t (rowPa f d) = rowUnsealed s (rowPa f d) := by
  rw [rowUnsealed_rowPa hf hd, rowUnsealed_rowPa hf hd, h.entry]

theorem FrameKept.rawRow_eq {d : Nat} (hf : AtFrame f) (hd : d < 256) (use : Nat) : rawRow t use (rowPa f d) = rawRow s use (rowPa f d) := by
  rw [rawRow, rawRow, h.rowUnsealed_eq hf hd, h.rows d hd, h.words d hd]

/-- The constant rows are the same in every state, and the others are kept. -/
theorem FrameKept.fixedRow_eq {k : Nat} (hk : k ≤ 16) (c : Cmd) (ovm : Bool) : fixedRow t c ovm f k = fixedRow s c ovm f k := by
  by_cases h16 : k = 16
  · subst h16; rfl
  · rw [fixedRow, fixedRow, compKey_congr h.stored, h.compute k (by omega)]

end

/-! ### Operands of a command (R259) -/

/-- The planes of the operands of a block lie within a frame (R255). -/
def InFrame (b : Blk) : Prop := ∀ o ∈ b.opnds, o.org + max o.w 1 ≤ 256

theorem inFrame_readBlk {l : List Nat} (h : ∀ o ∈ (readBlk l).opnds, o.org + o.w ≤ 256) : InFrame (readBlk l) := by
  have horg : ∀ o ∈ (readBlk l).opnds, o.org < 256 := by
    simp only [Blk.opnds, readBlk, List.forall_mem_cons, List.not_mem_nil, false_imp_iff, implies_true, and_true, fld]
    omega
  intro o ho
  have := h o ho
  have := horg o ho
  omega

theorem planeOf_lt {o : Opnd} {j : Int} {p : Nat} (h : planeOf o j = some p) : p < max o.w 1 := by
  unfold planeOf at h
  split_ifs at h <;> simp only [Option.some.injEq] at h <;> omega

/-- Plane `j` of an operand in the frame at `f`, as R259 reads it. -/
def operandRow (s : State) (c : Cmd) (f : Nat) (o : Opnd) (j : Int) : Row :=
  match planeOf o j with
  | none => 0
  | some p => if o.t2 && p == 1 then rawRow s c.free (rowPa f (o.org + 1)) &&& rawRow s c.free (rowPa f o.org) else rawRow s c.free (rowPa f (o.org + p))

/-- The plane of operand `o` that a row specifier names, aligned by the difference of the binary points (R259). -/
def alignedAt (c : Cmd) (b : Blk) (rs : Nat) (o : Opnd) : Int := (rsIdx c rs : Int) - (if rsAln rs && true then (b.c.frac : Int) - (o.frac : Int) else 0)

/-- A row specifier reads a plane of A, B or C, or a fixed row (R259). -/
theorem readRs_cases (c : Cmd) (b : Blk) (f rs : Nat) : (∃ o ∈ b.opnds, ∃ j, ∀ s, readRs s c b f rs = operandRow s c f o j) ∨
    (rsBase rs = 3 ∧ ∀ s, readRs s c b f rs = fixedRow s c b.ovm f (rs % 128)) := by
  have hlt : rsBase rs < 4 := Nat.mod_lt _ (by omega)
  match h : rsBase rs, hlt with
  | 0, _ => exact .inl ⟨b.a, by simp [Blk.opnds], alignedAt c b rs b.a, fun s => by rw [readRs, h]; rfl⟩
  | 1, _ => exact .inl ⟨b.b, by simp [Blk.opnds], alignedAt c b rs b.b, fun s => by rw [readRs, h]; rfl⟩
  | 2, _ => exact .inl ⟨b.c, by simp [Blk.opnds], (rsIdx c rs : Int) - (if rsAln rs && false then (b.c.frac : Int) - (b.c.frac : Int) else 0), fun s => by rw [readRs, h]; rfl⟩
  | 3, _ => exact .inr ⟨rfl, fun s => by rw [readRs, h]; rfl⟩

theorem FrameKept.operandRow_eq {f : Nat} {s t : State} (h : FrameKept f s t) (hf : AtFrame f) {o : Opnd} (ho : o.org + max o.w 1 ≤ 256) (c : Cmd) (j : Int) :
    operandRow t c f o j = operandRow s c f o j := by
  unfold operandRow
  cases hp : planeOf o j with
  | none => rfl
  | some p =>
    have hlt := planeOf_lt hp
    dsimp only
    by_cases ht : (o.t2 && p == 1) = true
    · have h1 : p = 1 := by simpa using (Bool.and_eq_true_iff.1 ht).2
      rw [if_pos ht, if_pos ht, h.rawRow_eq hf (by omega), h.rawRow_eq hf (by omega)]
    · rw [if_neg ht, if_neg ht, h.rawRow_eq hf (by omega)]

/-- What a row specifier reads in a frame is kept with the frame. -/
theorem FrameKept.readRs_eq {f : Nat} {s t : State} (h : FrameKept f s t) (hf : AtFrame f) {c : Cmd} {b : Blk} (hb : InFrame b) {rs : Nat}
    (hrs : rsBase rs = 3 → rs % 128 ≤ 16) : readRs t c b f rs = readRs s c b f rs := by
  rcases readRs_cases c b f rs with ⟨o, ho, j, hread⟩ | ⟨h3, hread⟩
  · rw [hread, hread, h.operandRow_eq hf (hb o ho)]
  · rw [hread, hread, h.fixedRow_eq (hrs h3)]

/-! ### What an operation in one frame leaves of another -/

/-- Bits of compute row `k` of the frame at `f` stay within its subarray. -/
theorem setFixed_frameKept {f g k : Nat} {s : State} (h : Apart s f g) (hk : k < 16) (r : Row) : FrameKept g s (setFixed f k r s) where
  stored := rfl
  rows _ _ := rfl
  words _ _ := rfl
  entry := rfl
  compute _ hj := tget_tset_other none (some r) s.comp (h.compKey_ne hk hj)

theorem cleanRow_words {x y : Nat} (s : State) (h : x ≠ y / 8192) :
    (cleanRow y s).ecc.filter (fun p => p.1 / 1024 == x) = s.ecc.filter (fun p => p.1 / 1024 == x) := by
  rw [cleanRow, List.filter_filter]
  refine List.filter_congr fun p _ => ?_
  by_cases hp : p.1 / 1024 = x
  · simp [hp, h]
  · simp [hp]

section
variable {f g : Nat} (hf : AtFrame f) (hg : AtFrame g) (hne : f ≠ g) {d : Nat} (hd : d < 256)
include hf hg hne

theorem putEntries_frameKept {l : List Unsealed} (hl : ∀ e ∈ l, e.frame = frameNo f) (s : State) : FrameKept g s (putEntries (paMVault f) (frameNo f) l s) where
  stored := rfl
  rows _ _ := rfl
  words _ _ := rfl
  entry := unsealedOf_putEntries_other hl s fun hv hn => hne (frame_eq_of_entry hf hg hv.symm hn.symm)
  compute _ _ := rfl

include hd

theorem cleanRow_frameKept (s : State) : FrameKept g s (cleanRow (rowPa f d) s) where
  stored := rfl
  rows _ _ := rfl
  words _ he := cleanRow_words s (rowPa_div_ne hf hd hg he hne.symm).symm
  entry := rfl
  compute _ _ := rfl

theorem mwrite_frameKept (v : Nat) (s : State) : FrameKept g s { s with mem := mwrite s.mem (rowPa f d) 8192 v } where
  stored := rfl
  rows _ he := congrArg (BitVec.ofNat 65536) (mreadFast_mwrite_out _ _ (rowPa_apart hf hd hg he hne.symm))
  words _ _ := rfl
  entry := rfl
  compute _ _ := rfl

/-- A row that is written changes nothing of another frame (R259). -/
theorem writeRow_frameKept (r : Row) (s : State) : FrameKept g s (writeRow (rowPa f d) r s) := by
  have hclean := (mwrite_frameKept hf hg hne hd r.toNat s).trans (cleanRow_frameKept hf hg hne hd _)
  obtain ⟨e, hframe, -, hput⟩ := noteUnsealed_eq (rowPa f d) (readRow s (rowPa f d)) r (cleanRow (rowPa f d) { s with mem := mwrite s.mem (rowPa f d) 8192 r.toNat })
  rw [paMVault_rowPa hf hd, frameNo_rowPa hf hd] at hput
  rw [frameNo_rowPa hf hd] at hframe
  rw [writeRow, hput]
  exact hclean.trans (putEntries_frameKept hf hg hne (by simpa using hframe) _)

end

/-- A row that is written is unsealed from then on (R266). -/
theorem rowUnsealed_writeRow {f d : Nat} (hf : AtFrame f) (hdram : paDram f = true) (hd : d < 256) (r : Row) (s : State) :
    rowUnsealed (writeRow (rowPa f d) r s) (rowPa f d) = true := by
  obtain ⟨e, hframe, hbit, hput⟩ := noteUnsealed_eq (rowPa f d) (readRow s (rowPa f d)) r (cleanRow (rowPa f d) { s with mem := mwrite s.mem (rowPa f d) 8192 r.toNat })
  rw [paMVault_rowPa hf hd, frameNo_rowPa hf hd] at hput
  rw [frameNo_rowPa hf hd] at hframe
  rw [paRow_rowPa hf hd] at hbit
  rw [rowUnsealed_rowPa hf hd, hdram, writeRow, hput, unsealedOf_putEntries_same _ _ (by simpa using hframe)]
  simpa using hbit

end Sys2Proof.Machine
end

section
/-! SUPPORT. A row operation of a running command: the micro-op counter, the write in one frame, and the frames one after another (R259, R260, R263, R266). -/
namespace Sys2Proof.Machine

/-! ### The command that runs -/

theorem getCmd_id {s : State} {id : Nat} {c : Cmd} (h : getCmd s id = some c) : c.id = id := by simpa using List.find?_some h

theorem getCmd_updCmd {s : State} {id : Nat} {c : Cmd} {f : Cmd → Cmd} (h : getCmd s id = some c) (hf : ∀ d, (f d).id = d.id) :
    getCmd (updCmd id f s) id = some (f c) := by
  have hsame : (fun d => d.id == id) ∘ (fun d : Cmd => if d.id == id then f d else d) = fun d => d.id == id := by
    funext d
    by_cases hd : d.id = id
    · simp [hd, hf]
    · simp [hd]
  have hfind : s.cmds.find? (fun d => d.id == id) = some c := h
  have hid := getCmd_id h
  simp only [getCmd, updCmd, List.find?_map, hsame, hfind, Option.map_some]
  simp [hid]

/-- A command with the cost of a micro-op that writes rows counted (R260, R267). -/
def Cmd.counted (cost : Nat) (c : Cmd) : Cmd := { c with quantum := c.quantum + cost, rc := c.rc + cost, last := c.rc + cost }

/-- The command `c` runs a microprogram, and its next micro-op may act (R260, R263). -/
structure RunsMicro (s : State) (c : Cmd) : Prop where
  current : getCmd s s.curCmd = some c
  running : c.stage = .running
  kind : c.kind = .bkx
  noBoundary : c.boundary = false
  notSealing : c.sealing = false

section
variable {s : State} {c : Cmd} (h : RunsMicro s c)
include h

theorem RunsMicro.getCmd_self : getCmd s c.id = some c := getCmd_id h.current ▸ h.current

/-- A micro-op that would take the quantum past 32 rc waits for a boundary (R263). -/
theorem microOp_of_full {cost : Nat} (hq : c.quantum + cost > 32) (row : Bool) (k : Cmd → Blk → State → State) :
    microOp cost row k s = updCmd c.id (fun c => { c with boundary := true }) s := by
  simp [microOp, h.current, h.running, h.kind, h.noBoundary, h.notSealing, hq]

/-- A micro-op that writes rows and fits the quantum acts, and its cost is counted (R260). -/
theorem microOp_of_fits {cost : Nat} (hq : c.quantum + cost ≤ 32) (k : Cmd → Blk → State → State) :
    microOp cost true k s = updCmd c.id (Cmd.counted cost) (k c (readBlk c.block) s) := by
  simp only [microOp, h.current, h.running, h.kind, h.noBoundary, h.notSealing, Nat.not_lt.2 hq, ne_eq, not_true_eq_false, Bool.false_eq_true, or_self, if_false, if_true]
  rfl

end

/-- Only the records of commands differ. -/
def OnlyCmds (s t : State) : Prop := { t with cmds := s.cmds } = s

theorem OnlyCmds.frameKept {s t : State} (h : OnlyCmds s t) (f : Nat) : FrameKept f s t :=
  have hkept : FrameKept f { t with cmds := s.cmds } t := ⟨rfl, fun _ _ => rfl, fun _ _ => rfl, rfl, fun _ _ => rfl⟩
  (congrArg (FrameKept f · t) h).mp hkept

theorem OnlyCmds.updCmd {s t : State} (h : OnlyCmds s t) (id : Nat) (f : Cmd → Cmd) : OnlyCmds s (updCmd id f t) := h

theorem OnlyCmds.mem_eq {s t : State} (h : OnlyCmds s t) : t.mem = s.mem :=
  have e := congrArg State.mem h
  e

theorem OnlyCmds.vlcs_eq {s t : State} (h : OnlyCmds s t) : t.vlcs = s.vlcs :=
  have e := congrArg State.vlcs h
  e

/-- The C row of a write is noted in the record of its command, and nothing else changes. -/
theorem noteWritten_cases (c : Cmd) (b : Blk) (rs : Nat) (s : State) :
    noteWritten c b rs s = s ∨ ∃ d, noteWritten c b rs s = updCmd c.id (fun c => { c with written := c.written ||| BitVec.ofNat 256 (2 ^ d) }) s := by
  unfold noteWritten
  cases writtenRow c b rs with
  | none => exact .inl rfl
  | some d => exact .inr ⟨d, rfl⟩

theorem noteWritten_getCmd {s : State} {c : Cmd} (h : getCmd s c.id = some c) (b : Blk) (rs : Nat) :
    ∃ w, getCmd (noteWritten c b rs s) c.id = some { c with written := w } := by
  rcases noteWritten_cases c b rs s with hw | ⟨d, hw⟩ <;> rw [hw]
  · exact ⟨c.written, h⟩
  · exact ⟨_, getCmd_updCmd h fun _ => rfl⟩

theorem noteWritten_onlyCmds (c : Cmd) (b : Blk) (rs : Nat) (s : State) : OnlyCmds s (noteWritten c b rs s) := by
  rcases noteWritten_cases c b rs s with hw | ⟨d, hw⟩ <;> rw [hw] <;> rfl

/-- A micro-op that has written rows: its C row is noted, the command goes on, and its cost is counted. -/
def afterRow (c : Cmd) (b : Blk) (dst cost : Nat) (s : State) : State := updCmd c.id (Cmd.counted cost) (microNext c (noteWritten c b dst s))

theorem afterRow_onlyCmds (c : Cmd) (b : Blk) (dst cost : Nat) (s : State) : OnlyCmds s (afterRow c b dst cost s) :=
  ((noteWritten_onlyCmds c b dst s).updCmd c.id fun c => { c with upc := c.upc + 1 }).updCmd c.id (Cmd.counted cost)

theorem afterRow_getCmd {c : Cmd} {s : State} (h : getCmd s c.id = some c) (b : Blk) (dst cost : Nat) :
    ∃ c', getCmd (afterRow c b dst cost s) c.id = some c' ∧ c'.upc = c.upc + 1 ∧ c'.rc = c.rc + cost ∧ c'.quantum = c.quantum + cost ∧ c'.boundary = c.boundary := by
  obtain ⟨w, hw⟩ := noteWritten_getCmd h b dst
  have hnext := getCmd_updCmd (f := fun c => { c with upc := c.upc + 1 }) hw fun _ => rfl
  exact ⟨_, getCmd_updCmd hnext fun _ => rfl, rfl, rfl, rfl, rfl⟩

/-! ### A write in one frame (R259) -/

/-- Nothing differs but rows: bytes of memory, conditions of words, compute rows and the tables of the vault complexes. -/
def RowsOnly (s t : State) : Prop := { t with mem := s.mem, ecc := s.ecc, comp := s.comp, vaults := s.vaults } = s

theorem RowsOnly.refl (s : State) : RowsOnly s s := rfl

theorem RowsOnly.trans {s t u : State} (h : RowsOnly s t) (k : RowsOnly t u) : RowsOnly s u :=
  have e := congrArg (fun x : State => { x with mem := s.mem, ecc := s.ecc, comp := s.comp, vaults := s.vaults }) k
  Eq.trans e h

theorem RowsOnly.cmds_eq {s t : State} (h : RowsOnly s t) : t.cmds = s.cmds :=
  have e := congrArg State.cmds h
  e

theorem RowsOnly.vlcs_eq {s t : State} (h : RowsOnly s t) : t.vlcs = s.vlcs :=
  have e := congrArg State.vlcs h
  e

/-- Nothing differs but compute rows of the subarray that stores the frame at `f`. -/
structure ComputeOnly (f : Nat) (s t : State) : Prop where
  rest : { t with comp := s.comp } = s
  others : ∀ g, Apart s f g → FrameKept g s t

theorem ComputeOnly.refl (f : Nat) (s : State) : ComputeOnly f s s := ⟨rfl, fun g _ => .refl g s⟩

theorem ComputeOnly.stored {f : Nat} {s t : State} (h : ComputeOnly f s t) : t.repair.redirect = s.repair.redirect :=
  have e := congrArg (fun x : State => x.repair.redirect) h.rest
  e

theorem ComputeOnly.trans {f : Nat} {s t u : State} (h : ComputeOnly f s t) (k : ComputeOnly f t u) : ComputeOnly f s u where
  rest :=
    have e := congrArg (fun x : State => { x with comp := s.comp }) k.rest
    Eq.trans e h.rest
  others g hg := (h.others g hg).trans (k.others g (hg.congr h.stored))

theorem ComputeOnly.rowsOnly {f : Nat} {s t : State} (h : ComputeOnly f s t) : RowsOnly s t :=
  have e := congrArg (fun x : State => ({ x with mem := s.mem, ecc := s.ecc, comp := s.comp, vaults := s.vaults } : State)) h.rest
  e

theorem ComputeOnly.mem_eq {f : Nat} {s t : State} (h : ComputeOnly f s t) : t.mem = s.mem :=
  have e := congrArg State.mem h.rest
  e

theorem ComputeOnly.rawRow_eq {f : Nat} {s t : State} (h : ComputeOnly f s t) (use pa : Nat) : rawRow t use pa = rawRow s use pa :=
  have e := congrArg (rawRow · use pa) h.rest
  e

theorem setFixed_computeOnly (f : Nat) {k : Nat} (hk : k < 16) (r : Row) (s : State) : ComputeOnly f s (setFixed f k r s) :=
  ⟨rfl, fun _ hg => setFixed_frameKept hg hk r⟩

/-- A temporary or negation row reads as it was set, and every other compute row as before. -/
theorem fixedRow_setFixed (f : Nat) {j k : Nat} (hk : k < 14) (r : Row) (s : State) (c : Cmd) (ovm : Bool) :
    fixedRow (setFixed f j r s) c ovm f k = if j = k then r else fixedRow s c ovm f k := by
  have hget : tget none (setFixed f j r s).comp (compKey s f k) = if j = k then some r else tget none s.comp (compKey s f k) := by
    by_cases h : j = k
    · subst h; simp only [setFixed, tget_tset_same, if_true]
    · rw [if_neg h]
      exact tget_tset_other none (some r) s.comp (by unfold compKey; omega)
  rw [fixedRow, fixedRow, show compKey (setFixed f j r s) f k = compKey s f k from rfl, hget]
  by_cases h : j = k
  · simp only [h, if_true, if_neg (show k ≠ 14 by omega), if_neg (show k ≠ 15 by omega), if_neg (show k ≠ 16 by omega)]
  · simp only [if_neg h]

/-- A destination names a C row that lies in the frame, a temporary, or a negation row (R259, R262). -/
structure DestOk (c : Cmd) (b : Blk) (dst : Nat) : Prop where
  nine : dst < 512
  fixed : rsBase dst = 3 → dst % 128 ≤ 13
  inFrame : ∀ d, writtenRow c b dst = some d → d < 256

theorem writtenRow_lt {c : Cmd} {b : Blk} (hb : InFrame b) {rs d : Nat} (h : writtenRow c b rs = some d) : d < 256 := by
  have hc := hb b.c (by simp [Blk.opnds])
  unfold writtenRow at h
  split_ifs at h with hw
  rw [Option.some.injEq] at h
  omega

theorem writtenRow_of_fixed {c : Cmd} {b : Blk} {rs : Nat} (h : rsBase rs = 3) : writtenRow c b rs = none := by
  rw [writtenRow, if_neg (by omega)]

/-- The row that a write leaves: `v` in the lanes below n, and elsewhere what the banks hold (R259). -/
def mergedRow (s : State) (c : Cmd) (b : Blk) (f d : Nat) (v : Row) : Row := (rawRow s c.free (rowPa f d) &&& ~~~lanesBelow b.nl) ||| (v &&& lanesBelow b.nl)

/-- What a write by a row specifier is: of a fixed row, of a C row, or nothing (R259). -/
theorem writeRs_cases (c : Cmd) (b : Blk) (f rs : Nat) (v : Row) (s : State) :
    (rsBase rs = 3 ∧ writeRs c b f rs v s = setFixed f (rs % 128) (if rs % 128 ≥ 12 then ~~~v else v) s) ∨
    (rsBase rs ≠ 3 ∧ writtenRow c b rs = none ∧ writeRs c b f rs v s = s) ∨
    (rsBase rs ≠ 3 ∧ ∃ d, writtenRow c b rs = some d ∧ writeRs c b f rs v s = writeRow (rowPa f d) (mergedRow s c b f d v) s) := by
  by_cases h3 : rsBase rs = 3
  · exact .inl ⟨h3, by rw [writeRs, if_pos h3]⟩
  · cases hw : writtenRow c b rs with
    | none => exact .inr (.inl ⟨h3, rfl, by rw [writeRs, if_neg h3, hw]⟩)
    | some d => exact .inr (.inr ⟨h3, d, rfl, by rw [writeRs, if_neg h3, hw]; rfl⟩)

theorem writeRs_rowsOnly (c : Cmd) (b : Blk) (f rs : Nat) (v : Row) (s : State) : RowsOnly s (writeRs c b f rs v s) := by
  rcases writeRs_cases c b f rs v s with ⟨-, h⟩ | ⟨-, -, h⟩ | ⟨-, d, -, h⟩ <;> rw [h] <;> rfl

theorem writeRs_mem_of_none {c : Cmd} {b : Blk} {rs : Nat} (hw : writtenRow c b rs = none) (f : Nat) (v : Row) (s : State) : (writeRs c b f rs v s).mem = s.mem := by
  rcases writeRs_cases c b f rs v s with ⟨-, h⟩ | ⟨-, -, h⟩ | ⟨-, d, hd, -⟩
  · rw [h]; rfl
  · rw [h]
  · rw [hw] at hd; cases hd

theorem writeRs_mget {c : Cmd} {b : Blk} {f rs a : Nat} (ha : ∀ d, writtenRow c b rs = some d → a < rowPa f d ∨ rowPa f d + 8192 ≤ a) (v : Row) (s : State) :
    mget (writeRs c b f rs v s).mem a = mget s.mem a := by
  rcases writeRs_cases c b f rs v s with ⟨-, h⟩ | ⟨-, -, h⟩ | ⟨-, d, hd, h⟩
  · rw [h]; rfl
  · rw [h]
  · rw [h, (writeRow_mem ..).1]; exact mget_mwrite_out _ _ (ha d hd)

section
variable {c : Cmd} {b : Blk} {f dst : Nat} (hdst : DestOk c b dst) (hf : AtFrame f) (v : Row) (s : State)
include hdst

theorem writeRs_frameKept {g : Nat} (hf : AtFrame f) (hg : AtFrame g) (h : Apart s f g) : FrameKept g s (writeRs c b f dst v s) := by
  rcases writeRs_cases c b f dst v s with ⟨h3, hw⟩ | ⟨-, -, hw⟩ | ⟨-, d, hd, hw⟩ <;> rw [hw]
  · exact setFixed_frameKept h (by have := hdst.fixed h3; omega) _
  · exact .refl g s
  · exact writeRow_frameKept hf hg h.ne (hdst.inFrame d hd) _ s

theorem fixedRow_writeRs {k : Nat} (hk : k < 14) (ovm : Bool) :
    fixedRow (writeRs c b f dst v s) c ovm f k = if dst / 128 = 3 ∧ dst % 128 = k then (if k ≥ 12 then ~~~v else v) else fixedRow s c ovm f k := by
  have hbase : rsBase dst = dst / 128 := by have := hdst.nine; unfold rsBase; omega
  rcases writeRs_cases c b f dst v s with ⟨h3, hw⟩ | ⟨h3, -, hw⟩ | ⟨h3, d, -, hw⟩ <;> rw [hw]
  · rw [fixedRow_setFixed f hk]
    by_cases h : dst % 128 = k
    · subst h
      have hthis : dst / 128 = 3 ∧ dst % 128 = dst % 128 := ⟨hbase.symm.trans h3, rfl⟩
      rw [if_pos rfl, if_pos hthis]
    · rw [if_neg h, if_neg fun hh => h hh.2]
  · rw [if_neg fun hh => h3 (hbase.trans hh.1)]
  · rw [if_neg fun hh => h3 (hbase.trans hh.1)]; rfl

theorem row_writeRs (hf : AtFrame f) (hdram : paDram f = true) {d : Nat} (hd : writtenRow c b dst = some d) :
    readRow (writeRs c b f dst v s) (rowPa f d) = mergedRow s c b f d v ∧ rowUnsealed (writeRs c b f dst v s) (rowPa f d) = true := by
  rcases writeRs_cases c b f dst v s with ⟨h3, -⟩ | ⟨-, hn, -⟩ | ⟨-, e, he, hw⟩
  · rw [writtenRow_of_fixed h3] at hd; cases hd
  · rw [hn] at hd; cases hd
  · rw [hd, Option.some.injEq] at he
    subst he
    rw [hw]
    exact ⟨readRow_writeRow .., rowUnsealed_writeRow hf hdram (hdst.inFrame d hd) _ s⟩

end

/-! ### One frame after another (R260) -/

/-- The frames of a command are bases of frames in DRAM, stored in subarrays of their own. -/
structure FramesOk (s : State) (l : List Nat) : Prop where
  aligned : ∀ f ∈ l, AtFrame f ∧ paDram f = true
  apart : l.Pairwise (Apart s)

theorem framesOk_of_nodup {s : State} {l : List Nat} (h : ∀ f ∈ l, f % 2097152 = 0 ∧ paDram f = true) (hn : (l.map (fun f => subarrayNo (realPa s f))).Nodup) :
    FramesOk s l :=
  have hn' := List.pairwise_map.1 hn
  ⟨h, hn'⟩

theorem FramesOk.tail {s : State} {f : Nat} {l : List Nat} (h : FramesOk s (f :: l)) : FramesOk s l :=
  ⟨fun g hg => h.aligned g (List.mem_cons_of_mem _ hg), h.apart.tail⟩

section
variable {k : State → Nat → State} (hk : ∀ f g u, AtFrame f → AtFrame g → Apart u f g → FrameKept g u (k u f))
include hk

/-- A frame stays as it is while an operation goes through frames of other subarrays. -/
theorem foldl_frameKept {g : Nat} (hg : AtFrame g) {l : List Nat} {u : State} (hl : ∀ f ∈ l, AtFrame f ∧ Apart u f g) : FrameKept g u (l.foldl k u) := by
  induction l generalizing u with
  | nil => exact .refl g u
  | cons f l ih =>
    have ⟨hf, hfg⟩ := hl f (by simp)
    have hstep := hk f g u hf hg hfg
    exact hstep.trans (ih fun e he => ⟨(hl e (List.mem_cons_of_mem _ he)).1, (hl e (List.mem_cons_of_mem _ he)).2.congr hstep.stored⟩)

/-- What an operation does in one frame, as it was before any frame, holds in every frame after all of them. -/
theorem foldl_frames {P : Nat → State → Prop} {s : State} {l : List Nat} (hl : FramesOk s l) (hdo : ∀ f ∈ l, ∀ u, FrameKept f s u → P f (k u f))
    (hstay : ∀ f ∈ l, ∀ u t, P f u → FrameKept f u t → P f t) : ∀ f ∈ l, P f (l.foldl k s) := by
  have key : ∀ u, (∀ f ∈ l, FrameKept f s u) → ∀ f ∈ l, P f (l.foldl k u) := by
    induction l with
    | nil => simp
    | cons f l ih =>
      intro u hu
      have hf := (hl.aligned f (by simp)).1
      have hstored := (hu f (by simp)).stored
      have hapart : ∀ g ∈ l, Apart u f g := fun g hg => (List.rel_of_pairwise_cons hl.apart hg).congr hstored
      have hfirst := hdo f (by simp) u (hu f (by simp))
      have hrest : ∀ g ∈ l, FrameKept g u (k u f) := fun g hg => hk f g u hf (hl.tail.aligned g hg).1 (hapart g hg)
      intro g hg
      rcases List.mem_cons.1 hg with rfl | hg
      · refine hstay g (by simp) _ _ hfirst (foldl_frameKept hk hf fun e he => ⟨(hl.tail.aligned e he).1, ?_⟩)
        exact (hapart e he).symm.congr (hrest e he).stored
      · exact ih hl.tail (fun e he => hdo e (List.mem_cons_of_mem _ he)) (fun e he => hstay e (List.mem_cons_of_mem _ he)) (k u f)
          (fun e he => (hu e (List.mem_cons_of_mem _ he)).trans (hrest e he)) g hg
  exact key s fun f _ => .refl f s

end

/-! ### Row operations -/

/-- What a row operation leaves in the frame at `f`: the value `v` in its destination, the rows of `side`, and every other compute row as it was. -/
structure RowLeft (s : State) (c : Cmd) (b : Blk) (dst : Nat) (v : Nat → Row) (side : Nat → Nat → Option Row) (f : Nat) (t : State) : Prop where
  fixed : ∀ k, k < 14 → fixedRow t c b.ovm f k =
    (if dst / 128 = 3 ∧ dst % 128 = k then (if k ≥ 12 then ~~~v f else v f) else (side f k).getD (fixedRow s c b.ovm f k))
  row : ∀ d, d < 256 → writtenRow c b dst = some d → readRow t (rowPa f d) = mergedRow s c b f d (v f) ∧ rowUnsealed t (rowPa f d) = true

theorem RowLeft.of_frameKept {s : State} {c : Cmd} {b : Blk} {dst : Nat} {v : Nat → Row} {side : Nat → Nat → Option Row} {f : Nat} {u t : State}
    (h : RowLeft s c b dst v side f u) (hf : AtFrame f) (hk : FrameKept f u t) : RowLeft s c b dst v side f t where
  fixed k hlt := (hk.fixedRow_eq (by omega) c b.ovm).trans (h.fixed k hlt)
  row d hd hw := by rw [hk.rows d hd, hk.rowUnsealed_eq hf hd]; exact h.row d hd hw

/-- A row operation in one frame: `pre` sets compute rows, and `val` is the value that goes to the destination. -/
structure RowKernel (s : State) (c : Cmd) (b : Blk) (v : Nat → Row) (side : Nat → Nat → Option Row) (val : Nat → State → Row) (pre : Nat → State → State) : Prop where
  pre_only : ∀ f u, ComputeOnly f u (pre f u)
  val_eq : ∀ f ∈ c.frames, ∀ u, FrameKept f s u → val f u = v f
  side_eq : ∀ f ∈ c.frames, ∀ u, FrameKept f s u → ∀ k, k < 14 → fixedRow (pre f u) c b.ovm f k = (side f k).getD (fixedRow s c b.ovm f k)

section
variable {s : State} {c : Cmd} {b : Blk} {dst : Nat} {v : Nat → Row} {side : Nat → Nat → Option Row} {val : Nat → State → Row} {pre : Nat → State → State}
  (hk : RowKernel s c b v side val pre) (hdst : DestOk c b dst)
include hk

theorem kernel_rowsOnly (l : List Nat) (u : State) : RowsOnly u (l.foldl (fun u f => writeRs c b f dst (val f u) (pre f u)) u) := by
  induction l generalizing u with
  | nil => exact .refl u
  | cons f l ih =>
    exact ((hk.pre_only f u).rowsOnly.trans (writeRs_rowsOnly c b f dst _ _)).trans (ih _)

theorem kernel_mem_of_none (hw : writtenRow c b dst = none) (l : List Nat) (u : State) :
    (l.foldl (fun u f => writeRs c b f dst (val f u) (pre f u)) u).mem = u.mem := by
  induction l generalizing u with
  | nil => rfl
  | cons f l ih => rw [List.foldl_cons, ih, writeRs_mem_of_none hw, (hk.pre_only f u).mem_eq]

theorem kernel_mget {a : Nat} {l : List Nat} (ha : ∀ f ∈ l, ∀ d, writtenRow c b dst = some d → a < rowPa f d ∨ rowPa f d + 8192 ≤ a) (u : State) :
    mget (l.foldl (fun u f => writeRs c b f dst (val f u) (pre f u)) u).mem a = mget u.mem a := by
  induction l generalizing u with
  | nil => rfl
  | cons f l ih =>
    rw [List.foldl_cons, ih fun g hg => ha g (List.mem_cons_of_mem _ hg), writeRs_mget (ha f (by simp)), (hk.pre_only f u).mem_eq]

include hdst

theorem kernel_frameKept (f g : Nat) (u : State) (hf : AtFrame f) (hg : AtFrame g) (h : Apart u f g) :
    FrameKept g u (writeRs c b f dst (val f u) (pre f u)) :=
  ((hk.pre_only f u).others g h).trans (writeRs_frameKept hdst _ _ hf hg (h.congr (hk.pre_only f u).stored))

theorem kernel_rowLeft {f : Nat} (hmem : f ∈ c.frames) (hf : AtFrame f) (hdram : paDram f = true) {u : State} (hu : FrameKept f s u) :
    RowLeft s c b dst v side f (writeRs c b f dst (val f u) (pre f u)) where
  fixed j hj := by rw [fixedRow_writeRs hdst _ _ hj, hk.val_eq f hmem u hu, hk.side_eq f hmem u hu j hj]
  row d hd hw := by
    have hraw : mergedRow (pre f u) c b f d (v f) = mergedRow s c b f d (v f) := by
      rw [mergedRow, mergedRow, (hk.pre_only f u).rawRow_eq, hu.rawRow_eq hf hd]
    rw [← hraw, ← hk.val_eq f hmem u hu]
    exact row_writeRs hdst _ _ hf hdram hw

/-- A row operation leaves in every frame what it leaves in one. -/
theorem kernel_rowLeft_all (hl : FramesOk s c.frames) :
    ∀ f ∈ c.frames, RowLeft s c b dst v side f (c.frames.foldl (fun u f => writeRs c b f dst (val f u) (pre f u)) s) :=
  foldl_frames (k := fun u f => writeRs c b f dst (val f u) (pre f u)) (kernel_frameKept hk hdst) hl
    (fun f hf _ hu => kernel_rowLeft hk hdst hf (hl.aligned f hf).1 (hl.aligned f hf).2 hu) (fun f hf _ _ h ht => h.of_frameKept (hl.aligned f hf).1 ht)

end

end Sys2Proof.Machine
end

section
/-! SUPPORT. The row operations and the seal of a running command, in all its frames (R15, R255, R259, R260, R262, R266). -/
namespace Sys2Proof.Machine

/-! ### What a row operation does -/

/-- What a row operation of cost `cost` does: it waits for a boundary when its cost would take the quantum past 32 rc; otherwise its cost is counted, and it
leaves `v` in its destination and the rows of `side` in every frame, and changes nothing else there (R259, R260, R263). -/
def RowOpDoes (s : State) (c : Cmd) (b : Blk) (i : Instr) (cost dst : Nat) (v : Nat → Row) (side : Nat → Nat → Option Row) : Prop :=
  (dst / 128 = 3 → dst % 128 ≤ 13) →
    (c.quantum + cost > 32 → ∃ t, exec i s = .next t ∧ getCmd t c.id = some { c with boundary := true } ∧ t.mem = s.mem ∧ t.comp = s.comp) ∧
    (c.quantum + cost ≤ 32 → ∃ t c', exec i s = .next t ∧ getCmd t c.id = some c' ∧ c'.upc = c.upc + 1 ∧ c'.rc = c.rc + cost ∧ c'.quantum = c.quantum + cost ∧
      c'.boundary = false ∧ t.vlcs = s.vlcs ∧ (writtenRow c b dst = none → t.mem = s.mem) ∧
      (∀ a, (∀ f ∈ c.frames, ∀ d, writtenRow c b dst = some d → a < rowPa f d ∨ rowPa f d + 8192 ≤ a) → mget t.mem a = mget s.mem a) ∧
      ∀ f ∈ c.frames,
        (∀ k, k < 14 → fixedRow t c b.ovm f k = (if dst / 128 = 3 ∧ dst % 128 = k then (if k ≥ 12 then ~~~v f else v f) else (side f k).getD (fixedRow s c b.ovm f k))) ∧
        ∀ d, d < 256 → writtenRow c b dst = some d → readRow t (rowPa f d) = mergedRow s c b f d (v f) ∧ rowUnsealed t (rowPa f d) = true)

theorem rsBase_of_lt {rs : Nat} (h : rs < 512) : rsBase rs = rs / 128 := by unfold rsBase; omega

section
variable {s : State} {c : Cmd} (hm : RunsMicro s c) (hl : FramesOk s c.frames) (hb : InFrame (readBlk c.block))
include hm hl hb

/-- A micro-op whose meaning is a row operation does what its kernel does in one frame. -/
theorem rowOpDoes_of_kernel {v : Nat → Row} {side : Nat → Nat → Option Row} {val : Nat → State → Row} {pre : Nat → State → State}
    (hk : RowKernel s c (readBlk c.block) v side val pre) {i : Instr} {cost : Nat} {dst : BitVec 9} {k : Cmd → Blk → Nat → State → State}
    (hexec : exec i s = .next (rowOp cost dst.toNat k s))
    (hkern : ∀ f u, k c (readBlk c.block) f u = writeRs c (readBlk c.block) f dst.toNat (val f u) (pre f u)) :
    RowOpDoes s c (readBlk c.block) i cost dst.toNat v side := by
  intro hassigned
  have hdst : DestOk c (readBlk c.block) dst.toNat :=
    ⟨dst.isLt, fun h => hassigned (rsBase_of_lt dst.isLt ▸ h), fun d hd => writtenRow_lt hb hd⟩
  refine ⟨fun hq => ⟨_, hexec, ?_⟩, fun hq => ?_⟩
  · rw [rowOp, microOp_of_full hm hq]
    exact ⟨getCmd_updCmd hm.getCmd_self fun _ => rfl, rfl, rfl⟩
  · have hrows := kernel_rowsOnly (dst := dst.toNat) hk c.frames s
    have hleft := kernel_rowLeft_all hk hdst hl
    have hnone := fun hw => kernel_mem_of_none (dst := dst.toNat) hk hw c.frames s
    have hbytes := fun a ha => kernel_mget (dst := dst.toNat) (a := a) hk (l := c.frames) ha s
    generalize hx : c.frames.foldl (fun u f => writeRs c (readBlk c.block) f dst.toNat (val f u) (pre f u)) s = x at hrows hleft hnone hbytes
    have hrun : rowOp cost dst.toNat k s = afterRow c (readBlk c.block) dst.toNat cost x := by
      rw [rowOp, microOp_of_fits hm hq, ← hx]
      simp only [hkern]
      rfl
    have hget : getCmd x c.id = some c := by rw [getCmd, hrows.cmds_eq]; exact hm.getCmd_self
    obtain ⟨c', hc', hupc, hrc, hqu, hbo⟩ := afterRow_getCmd hget (readBlk c.block) dst.toNat cost
    have honly := afterRow_onlyCmds c (readBlk c.block) dst.toNat cost x
    refine ⟨_, c', hrun ▸ hexec, hc', hupc, hrc, hqu, hbo.trans hm.noBoundary, honly.vlcs_eq.trans hrows.vlcs_eq, fun hw => honly.mem_eq.trans (hnone hw),
      fun a ha => honly.mem_eq ▸ hbytes a ha, fun f hf => ?_⟩
    have hthis := (hleft f hf).of_frameKept (hl.aligned f hf).1 (honly.frameKept f)
    exact ⟨hthis.fixed, hthis.row⟩

end

/-! ### The kernels of the row operations (R260) -/

/-- No row but the destination changes. -/
def noSide (_ _ : Nat) : Option Row := none

section
variable {s : State} {c : Cmd} {b : Blk}

/-- An operation that only writes its destination. -/
theorem plainKernel {v : Nat → Row} {val : Nat → State → Row} (h : ∀ f ∈ c.frames, ∀ u, FrameKept f s u → val f u = v f) :
    RowKernel s c b v noSide val (fun _ u => u) where
  pre_only f u := .refl f u
  val_eq := h
  side_eq _ _ _ hu _ hk := hu.fixedRow_eq (by omega) c b.ovm

/-- A value made of one row that is read is the same in every frame that is still as it was. -/
theorem readRs_kept (hl : FramesOk s c.frames) (hb : InFrame b) {src : BitVec 9} (hsrc : src.toNat / 128 = 3 → src.toNat % 128 ≤ 16) (g : Row → Row) :
    ∀ f ∈ c.frames, ∀ u, FrameKept f s u → g (readRs u c b f src.toNat) = g (readRs s c b f src.toNat) := fun f hf u hu => by
  rw [hu.readRs_eq (hl.aligned f hf).1 hb fun h3 => hsrc (rsBase_of_lt src.isLt ▸ h3)]

/-- `negr` sets n0 to the complement of its source before it writes that to its destination. -/
theorem negrKernel (hl : FramesOk s c.frames) (hb : InFrame b) {src : BitVec 9} (hsrc : src.toNat / 128 = 3 → src.toNat % 128 ≤ 16) :
    RowKernel s c b (fun f => ~~~readRs s c b f src.toNat) (fun f k => if k = 12 then some (~~~readRs s c b f src.toNat) else none)
      (fun f u => ~~~readRs u c b f src.toNat) (fun f u => setFixed f 12 (~~~readRs u c b f src.toNat) u) where
  pre_only f u := setFixed_computeOnly f (by omega) _ u
  val_eq := readRs_kept hl hb hsrc (~~~·)
  side_eq f hf u hu k hk := by
    rw [fixedRow_setFixed f hk, readRs_kept hl hb hsrc (~~~·) f hf u hu, hu.fixedRow_eq (by omega)]
    by_cases h : k = 12
    · rw [if_pos h.symm, if_pos h]; rfl
    · rw [if_neg (Ne.symm h), if_neg h]; rfl

/-- The majority of the three rows of TRA and TRAN in the frame at `f`. -/
def majOf (s : State) (c : Cmd) (b : Blk) (o : MTRop) (f : Nat) : Row :=
  maj3 (fixedRow s c b.ovm f o.ta.toNat) (fixedRow s c b.ovm f o.tb.toNat) (fixedRow s c b.ovm f o.tc.toNat)

theorem majOf_eq (o : MTRop) {f : Nat} {u : State} (hu : FrameKept f s u) : majOf u c b o f = majOf s c b o f := by
  have hlt : ∀ t : BitVec 4, t.toNat ≤ 16 := fun t => Nat.le_of_lt t.isLt
  rw [majOf, majOf, hu.fixedRow_eq (hlt _), hu.fixedRow_eq (hlt _), hu.fixedRow_eq (hlt _)]

theorem triple_computeOnly (f : Nat) (o : MTRop) (u : State) : ComputeOnly f u (triple c b f o u).2 :=
  (setFixed_computeOnly f o.ta.isLt _ u).trans ((setFixed_computeOnly f o.tb.isLt _ _).trans (setFixed_computeOnly f o.tc.isLt _ _))

/-- TRA and TRAN leave the majority in their three rows before they write it, or its complement, to their destination. -/
theorem tripleKernel (o : MTRop) (g : Row → Row) :
    RowKernel s c b (fun f => g (majOf s c b o f))
      (fun f k => if k = o.ta.toNat ∨ k = o.tb.toNat ∨ k = o.tc.toNat then some (majOf s c b o f) else none)
      (fun f u => g (triple c b f o u).1) (fun f u => (triple c b f o u).2) where
  pre_only f u := triple_computeOnly f o u
  val_eq f _ u hu := congrArg g (majOf_eq o hu)
  side_eq f _ u hu k hk := by
    have hset : (triple c b f o u).2 = setFixed f o.tc.toNat (majOf u c b o f) (setFixed f o.tb.toNat (majOf u c b o f) (setFixed f o.ta.toNat (majOf u c b o f) u)) := rfl
    rw [hset, majOf_eq o hu, fixedRow_setFixed f hk, fixedRow_setFixed f hk, fixedRow_setFixed f hk, hu.fixedRow_eq (by omega)]
    by_cases h : k = o.ta.toNat ∨ k = o.tb.toNat ∨ k = o.tc.toNat
    · rw [if_pos h]
      rcases h with h | h | h <;> simp [h]
    · obtain ⟨ha, hb, hc⟩ : k ≠ o.ta.toNat ∧ k ≠ o.tb.toNat ∧ k ≠ o.tc.toNat := by simpa [not_or] using h
      rw [if_neg h, if_neg hc.symm, if_neg hb.symm, if_neg ha.symm]
      rfl

end

/-! ### Lanes of shifted rows (R260) -/

theorem lanesBelow_getLsbD {n k : Nat} (hk : k < 65536) : (lanesBelow n).getLsbD k = decide (k < n) := by
  rw [lanesBelow, BitVec.getLsbD_ofNat, decide_eq_true hk, Bool.true_and, Nat.testBit_two_pow_sub_one]

/-- Lane `k` takes lane `k` − `j` where both lie below n. -/
theorem shiftedUp_getLsbD (r : Row) (n j : Nat) {k : Nat} (hk : k < 65536) :
    ((r &&& lanesBelow n) <<< j &&& lanesBelow n).getLsbD k = (decide (k < n) && decide (j ≤ k) && r.getLsbD (k - j)) := by
  rw [BitVec.getLsbD_and, BitVec.getLsbD_shiftLeft, BitVec.getLsbD_and, lanesBelow_getLsbD hk, lanesBelow_getLsbD (by omega), decide_eq_true hk]
  by_cases h1 : k < n <;> by_cases h2 : j ≤ k
  · have h3 : k - j < n := by omega
    simp [h1, h2, h3, Nat.not_lt.2 h2]
  · simp [h2, Nat.lt_of_not_le h2]
  · simp [h1]
  · simp [h1]

/-- Lane `k` takes lane `k` + `j` where that lies below n. -/
theorem shiftedDown_getLsbD (r : Row) (n j k : Nat) :
    ((r &&& lanesBelow n) >>> j).getLsbD k = (decide (k + j < n) && r.getLsbD (k + j)) := by
  rw [BitVec.getLsbD_ushiftRight, BitVec.getLsbD_and, Nat.add_comm j k]
  by_cases hk : k + j < 65536
  · rw [lanesBelow_getLsbD hk, Bool.and_comm]
  · rw [BitVec.getLsbD_of_ge r _ (Nat.le_of_not_lt hk), Bool.false_and, Bool.and_false]

/-! ### Seals (R266) -/

/-- Everything that says what the banks of a frame hold is as before, and so is every context. -/
structure BanksSame (s t : State) : Prop where
  mem : t.mem = s.mem
  ecc : t.ecc = s.ecc
  comp : t.comp = s.comp
  vaults : t.vaults = s.vaults
  repair : t.repair = s.repair
  vlcs : t.vlcs = s.vlcs

theorem BanksSame.frameKept {s t : State} (h : BanksSame s t) (f : Nat) : FrameKept f s t where
  stored := by rw [h.repair]
  rows _ _ := by rw [readRow, readRow, h.mem]
  words _ _ := by rw [h.ecc]
  entry := by rw [unsealedOf, unsealedOf, getVault, getVault, h.vaults]
  compute _ _ := by rw [h.comp]

/-- A sealed row stays as it is; otherwise the entry of the frame loses the bit of the row, or goes with its last bit. -/
theorem sealRow_cases (f d : Nat) (s : State) :
    ((unsealedOf s (paMVault f) (frameNo f)).any (fun e => e.u.getLsbD d) = false ∧ sealRow f d s = s) ∨
    ∃ e l, unsealedOf s (paMVault f) (frameNo f) = some e ∧ (∀ x ∈ l, x.frame = frameNo f ∧ x.u = e.u &&& ~~~BitVec.ofNat 256 (2 ^ d)) ∧
      BanksSame (putEntries (paMVault f) (frameNo f) l (cleanRow (rowPa f d) s)) (sealRow f d s) := by
  cases he : unsealedOf s (paMVault f) (frameNo f) with
  | none => exact .inl ⟨rfl, by rw [sealRow, he]⟩
  | some e =>
    have hframe : e.frame = frameNo f := by simpa using List.find?_some he
    by_cases hbit : e.u.getLsbD d = true
    · right
      unfold sealRow
      rw [he]
      simp only [hbit, Bool.not_true, Bool.false_eq_true, if_false]
      split_ifs
      · exact ⟨e, [], rfl, by simp, rfl, rfl, rfl, rfl, rfl, rfl⟩
      · exact ⟨e, [], rfl, by simp, rfl, rfl, rfl, rfl, rfl, rfl⟩
      · refine ⟨e, [_], rfl, ?_, rfl, rfl, rfl, rfl, rfl, rfl⟩
        simp [hframe]
    · exact .inl ⟨by simpa using hbit, by simp [sealRow, he, hbit]⟩

/-- A seal changes nothing of a frame in another subarray. -/
theorem sealRow_frameKept {f g d : Nat} (hf : AtFrame f) (hg : AtFrame g) (hd : d < 256) {s : State} (h : Apart s f g) : FrameKept g s (sealRow f d s) := by
  rcases sealRow_cases f d s with ⟨-, hs⟩ | ⟨e, l, -, hl, hsame⟩
  · rw [hs]; exact .refl g s
  · have hclean := cleanRow_frameKept hf hg h.ne hd s
    have hput := putEntries_frameKept hf hg h.ne (fun x hx => (hl x hx).1) (cleanRow (rowPa f d) s)
    exact (hclean.trans hput).trans (hsame.frameKept g)

theorem sealRow_vlcs (f d : Nat) (s : State) : (sealRow f d s).vlcs = s.vlcs := by
  rcases sealRow_cases f d s with ⟨-, hs⟩ | ⟨e, l, -, -, hsame⟩
  · rw [hs]
  · exact hsame.vlcs

/-- The sealed row has check bits, and no row that had them has lost them. -/
theorem rowUnsealed_sealRow {f d : Nat} (hf : AtFrame f) (hd : d < 256) (s : State) : rowUnsealed (sealRow f d s) (rowPa f d) = false ∧
    ∀ e, e < 256 → rowUnsealed (sealRow f d s) (rowPa f e) = true → rowUnsealed s (rowPa f e) = true := by
  rcases sealRow_cases f d s with ⟨hno, hs⟩ | ⟨x, l, hx, hl, hsame⟩
  · rw [hs, rowUnsealed_rowPa hf hd, hno, Bool.and_false]
    exact ⟨rfl, fun _ _ h => h⟩
  · have hentry : unsealedOf (sealRow f d s) (paMVault f) (frameNo f) = l.head? :=
      (hsame.frameKept f).entry.trans (unsealedOf_putEntries_same _ _ (fun y hy => (hl y hy).1) _)
    have hbits : ∀ e, e < 256 → l.head?.any (fun y => y.u.getLsbD e) = true → e ≠ d ∧ x.u.getLsbD e = true := by
      intro e he hany
      obtain ⟨y, hy, hbit⟩ := (Option.any_eq_true ..).1 hany
      rw [(hl y (List.mem_of_mem_head? hy)).2, BitVec.getLsbD_and, BitVec.getLsbD_not, getLsbD_ofNat_two_pow he] at hbit
      simp only [Bool.and_eq_true, Bool.not_eq_true', decide_eq_true_eq, decide_eq_false_iff_not] at hbit
      exact ⟨fun h => hbit.2.2 h.symm, hbit.1⟩
    refine ⟨?_, fun e he => ?_⟩
    · rw [rowUnsealed_rowPa hf hd, hentry, Bool.and_eq_false_iff]
      exact .inr (Bool.eq_false_iff.2 fun hany => (hbits d hd hany).1 rfl)
    · rw [rowUnsealed_rowPa hf he, rowUnsealed_rowPa hf he, hentry, hx, Bool.and_eq_true, Bool.and_eq_true]
      exact fun ⟨hdram, hany⟩ => ⟨hdram, (hbits e he hany).2⟩

theorem sealRows_same (d : Nat) (l : List Nat) (s : State) :
    (l.foldl (fun s f => sealRow f d s) s).mem = s.mem ∧ (l.foldl (fun s f => sealRow f d s) s).vlcs = s.vlcs := by
  induction l generalizing s with
  | nil => exact ⟨rfl, rfl⟩
  | cons f l ih =>
    obtain ⟨hmem, hvlcs⟩ := ih (sealRow f d s)
    exact ⟨hmem.trans (sealRow_quiet f d s).1, hvlcs.trans (sealRow_vlcs f d s)⟩

/-- What a seal of row `d` leaves in the frame at `f`. -/
def SealLeft (s : State) (d f : Nat) (t : State) : Prop := rowUnsealed t (rowPa f d) = false ∧
  ∀ e, e < 256 → rowUnsealed t (rowPa f e) = true → rowUnsealed s (rowPa f e) = true

theorem SealLeft.of_frameKept {s u t : State} {d f : Nat} (h : SealLeft s d f u) (hf : AtFrame f) (hd : d < 256) (hk : FrameKept f u t) : SealLeft s d f t :=
  ⟨(hk.rowUnsealed_eq hf hd).trans h.1, fun e he ht => h.2 e he ((hk.rowUnsealed_eq hf he).symm.trans ht)⟩

theorem sealRows_left {s : State} {l : List Nat} (hl : FramesOk s l) {d : Nat} (hd : d < 256) :
    ∀ f ∈ l, SealLeft s d f (l.foldl (fun s f => sealRow f d s) s) := by
  refine foldl_frames (k := fun s f => sealRow f d s) (fun f g u hf hg h => sealRow_frameKept hf hg hd h) hl (fun f hf u hu => ?_)
    fun f hf u t h ht => h.of_frameKept (hl.aligned f hf).1 hd ht
  have hframe := (hl.aligned f hf).1
  obtain ⟨hrow, hothers⟩ := rowUnsealed_sealRow hframe hd u
  exact ⟨hrow, fun e he h => (hu.rowUnsealed_eq hframe he).symm.trans (hothers e he h)⟩

/-- A seal of a C row gives it check bits in every frame, and unseals no other row. -/
theorem seal_does {s : State} {c : Cmd} (hm : RunsMicro s c) (hl : FramesOk s c.frames) {dst : BitVec 9} {d : Nat} (hq : c.quantum < 32)
    (hw : writtenRow c (readBlk c.block) dst.toNat = some d) (hd : d < 256) :
    ∃ t, exec (.seal dst) s = .next t ∧ t.mem = s.mem ∧ t.vlcs = s.vlcs ∧ ∀ f ∈ c.frames, SealLeft s d f t := by
  obtain ⟨hmem, hvlcs⟩ := sealRows_same d c.frames s
  have hleft := sealRows_left hl hd
  have honly := afterRow_onlyCmds c (readBlk c.block) dst.toNat 1 (c.frames.foldl (fun s f => sealRow f d s) s)
  have hexec : execSeal dst s = .next (afterRow c (readBlk c.block) dst.toNat 1 (c.frames.foldl (fun s f => sealRow f d s) s)) := by
    rw [execSeal, microOp_of_fits hm hq, hw]; rfl
  exact ⟨_, hexec, honly.mem_eq.trans hmem, honly.vlcs_eq.trans hvlcs, fun f hf => (hleft f hf).of_frameKept (hl.aligned f hf).1 hd (honly.frameKept f)⟩

/-- Settles O30: each row operation is a kernel in one frame, and the frames do not meet. -/
theorem microRows : Obligations.MicroRows := by
  unfold Obligations.MicroRows
  intro s c hcur hrun hkind hbnd hseal hframes hnodup b hops m assigned RowOp no
  have hm : RunsMicro s c := ⟨hcur, hrun, hkind, hbnd, hseal⟩
  have hl := framesOk_of_nodup hframes hnodup
  have hb : InFrame b := inFrame_readBlk hops
  refine ⟨fun o hsrc => ⟨?_, ?_⟩, fun o => ⟨?_, ?_⟩, fun o hsrc => ⟨⟨_, ?_, fun f k hk => shiftedUp_getLsbD _ _ _ hk⟩, ⟨_, ?_, fun f k _ => shiftedDown_getLsbD _ _ _ k⟩⟩,
    fun dst => ⟨?_, ?_⟩, fun o => ?_, fun dst d hq hw hd => ?_⟩
  · exact rowOpDoes_of_kernel hm hl hb (plainKernel (readRs_kept hl hb hsrc id)) rfl fun _ _ => rfl
  · exact rowOpDoes_of_kernel hm hl hb (negrKernel hl hb hsrc) rfl fun _ _ => rfl
  · exact rowOpDoes_of_kernel hm hl hb (tripleKernel o id) rfl fun _ _ => rfl
  · exact rowOpDoes_of_kernel hm hl hb (tripleKernel o (~~~·)) rfl fun _ _ => rfl
  · exact rowOpDoes_of_kernel hm hl hb (plainKernel (readRs_kept hl hb hsrc fun r => (r &&& lanesBelow b.nl) <<< 2 ^ o.k.toNat &&& lanesBelow b.nl)) rfl fun _ _ => rfl
  · exact rowOpDoes_of_kernel hm hl hb (plainKernel (readRs_kept hl hb hsrc fun r => (r &&& lanesBelow b.nl) >>> 2 ^ o.k.toNat)) rfl fun _ _ => rfl
  · exact rowOpDoes_of_kernel hm hl hb (plainKernel (val := fun _ _ => 0) fun _ _ _ _ => rfl) rfl fun _ _ => rfl
  · exact rowOpDoes_of_kernel hm hl hb (plainKernel (val := fun _ _ => BitVec.allOnes 65536) fun _ _ _ _ => rfl) rfl fun _ _ => rfl
  · refine rowOpDoes_of_kernel hm hl hb (plainKernel (val := fun _ _ =>
      if bitN b.k (16 * o.ksel.toNat + min ((if o.x then c.i1 else c.i0) + o.off.toNat) 15) then BitVec.allOnes 65536 else 0) fun _ _ _ _ => ?_) rfl fun _ _ => rfl
    simp only [bitN, beq_iff_eq]
  · obtain ⟨t, hexec, hmem, hvlcs, hleft⟩ := seal_does hm hl hq hw hd
    exact ⟨t, hexec, hmem, hvlcs, fun f hf => ⟨(hleft f hf).1, fun e he _ => (hleft f hf).2 e he⟩⟩

end Sys2Proof.Machine
end

section
/-! SUPPORT. The exception that a scalar word takes at once: what is kept of the tiles of preloads, the record, and the frame (R347, R350, R351, R358). -/
namespace Sys2Proof.Machine

/-- A tile is cleared, with its check bits and its owner bit (R358). -/
def clearTile (s : State) (t : Nat) : State :=
  { s with mem := mwrite s.mem t 4096 0, ecc := s.ecc.filter (fun e => e.1 / 512 != t / 4096), tiles := tupd {} s.tiles (t / 4096) (fun x => { x with own := false }) }

theorem clearTiles_ecc {k : Nat} : ∀ (l : List Nat) (s : State), (∀ b ∈ l, k / 512 ≠ b / 4096) → tget .good (l.foldl clearTile s).ecc k = tget .good s.ecc k
  | [], _, _ => rfl
  | b :: l, s, h => by
    rw [List.foldl_cons, clearTiles_ecc l _ fun c hc => h c (List.mem_cons_of_mem _ hc)]
    have hb : (k / 512 != b / 4096) = true := bne_iff_ne.2 (h b List.mem_cons_self)
    exact (tget_filter Ecc.good k (fun j => j / 512 != b / 4096) s.ecc).trans (if_pos hb)

theorem dropPreloads_ecc {n k : Nat} {s : State} (h : ∀ p ∈ s.sched.preloads, p.vault = n → ∀ b ∈ p.tiles, k / 512 ≠ b / 4096) :
    tget .good (dropPreloads n s).ecc k = tget .good s.ecc k := by
  have hfold : (dropPreloads n s).ecc = (((s.sched.preloads.filter (fun p => p.vault == n)).flatMap Preload.tiles).foldl clearTile s).ecc := by
    rw [List.foldl_flatMap]; rfl
  rw [hfold]
  refine clearTiles_ecc _ s fun b hb => ?_
  obtain ⟨p, hp, hbp⟩ := List.mem_flatMap.1 hb
  obtain ⟨hmem, hv⟩ := List.mem_filter.1 hp
  exact h p hmem (beq_iff_eq.1 hv) b hbp

/-- The trap of VLC `n` leaves the other VLCs and every byte outside the tiles of the preloads of its vault (R351, R358). -/
theorem enterTrap_frame (n : Nat) (f : FRec) (epc : Nat) (s : State) : TookFrame n s (enterTrap n f epc s) ∧ (enterTrap n f epc s).net = s.net := by
  obtain ⟨-, hother, -, hmem, hrest⟩ := enterTrap_spec n f epc s
  have hvaults := congrArg State.vaults hrest
  have hnet := congrArg State.net hrest
  have hsame := congrArg (fun t : State => { t with net := s.net }) hrest
  refine ⟨⟨hother, hmem, fun a ha => ?_, hsame⟩, hnet⟩
  have hecc : tget .good (enterTrap n f epc s).ecc (a / 8) = tget .good s.ecc (a / 8) := by
    refine dropPreloads_ecc (s := updVlc n _ s) fun p hp hv b hb => ?_
    have := ha p hp hv b hb
    omega
  have hrow : rowUnsealed (enterTrap n f epc s) a = rowUnsealed s a :=
    congrArg (fun l : Tbl Vault => paDram a && (match (tget {} l (paMVault a)).unsealed.find? (fun e => e.frame == frameNo a) with | some e => e.u.getLsbD (paRow a) | none => false)) hvaults
  rw [eccAt, eccAt, hrow, hecc]

/-- A fault lands as a trap where the VLC runs no handler, has one, and has no vector word outstanding (R351). -/
theorem raiseAt_of_mayTrap {u : State} (hm : MayTrap u) (f : FRec) (epc : Nat) : raiseAt f epc u = enterTrap u.cur f epc (chargeFault u.cur f u) := by
  obtain ⟨hh, ht, hb⟩ := hm
  have hraise : raiseAt f epc u = landFault u.cur f epc u := by
    rcases raiseAt_cases f epc u with ⟨h, -⟩ | ⟨-, h⟩
    · rw [hb] at h; cases h
    · exact h
  have hkeep : (getVlc (chargeFault u.cur f u) u.cur).hnd = u.me.hnd ∧ (getVlc (chargeFault u.cur f u) u.cur).tvec = u.me.tvec := by
    rcases chargeFault_spec u.cur f u with h | h <;> rw [h]
    · exact ⟨rfl, rfl⟩
    · rw [getVlc_updVlc_same]; exact ⟨rfl, rfl⟩
  rw [hraise]
  rcases landFault_cases u.cur f epc u with ⟨h, -⟩ | ⟨-, h, -⟩ | ⟨-, -, h⟩
  · rw [hkeep.1, hh] at h; cases h
  · exact absurd (hkeep.2.symm.trans h) ht
  · exact h

/-- The context of a VLC that takes a fault of class S: the charge, the record and the handler (R302, R347, R351). -/
theorem enterTrap_took (n : Nat) (f : FRec) (epc : Nat) (u : State) (hcls : f.cls = 0) :
    TookVlc (getVlc u n) (getVlc (enterTrap n f epc (chargeFault n f u)) n) f.word0 f.word1 f.word2 f.word3 (wN epc) (if f.code = 17 ∨ f.code = 19 then 1 else 0) := by
  have hheld (v : Vlc) : withHeld v f = f := by simp [withHeld, hcls]
  have hcharge : getVlc (chargeFault n f u) n = { getVlc u n with cost := (getVlc u n).cost + if f.code = 17 ∨ f.code = 19 then 1 else 0 } := by
    simp only [chargeFault, hcls, true_and, cTRAP, cNO_PROGRESS]
    split_ifs
    · rw [getVlc_updVlc_same]
    · rfl
  rw [(enterTrap_spec n f epc (chargeFault n f u)).1, hcharge, hheld]
  refine ⟨rfl, rfl, rfl, ?_, ?_, ?_, ?_, rfl⟩ <;> simp [FRec.words, tget_tset]

/-- A charge changes nothing outside its VLC. -/
theorem tookFrame_of_charged {n : Nat} {f : FRec} {u t : State} (h : TookFrame n (chargeFault n f u) t) : TookFrame n u t := by
  rcases chargeFault_spec n f u with hc | hc
  · rwa [hc] at h
  · rw [hc] at h
    obtain ⟨hother, hmem, hecc, hrest⟩ := h
    exact ⟨fun m hm => (hother m hm).trans (getVlc_updVlc_other _ _ hm), hmem, hecc, congrArg (fun x : State => { x with vlcs := u.vlcs }) hrest⟩

@[simp] theorem chargeFault_net (n : Nat) (f : FRec) (s : State) : (chargeFault n f s).net = s.net := by unfold chargeFault; split <;> rfl

@[simp] theorem chargeFault_cur (n : Nat) (f : FRec) (s : State) : (chargeFault n f s).cur = s.cur := by unfold chargeFault; split <;> rfl

@[simp] theorem enterTrap_cur (n : Nat) (f : FRec) (epc : Nat) (s : State) : (enterTrap n f epc s).cur = s.cur := by
  have h := congrArg State.cur (enterTrap_spec n f epc s).2.2.2.2
  exact h

/-- The words of a record of class S that names its word, an address and a register (R347). -/
theorem word0_of_scalar {code reg : Nat} (hcode : code < 256) (hreg : reg < 32) (origin addr : Nat) :
    FRec.word0 { code := code, origin := origin, addr := addr, reg := reg } = BitVec.ofNat 64 (code + 134217728 * reg) := by
  simp only [FRec.word0, wN, b2n, Bool.false_eq_true, if_false, Nat.mod_eq_of_lt hcode, Nat.mod_eq_of_lt hreg]
  congr 1; omega

/-- A class S fault that names its word, an address and a register is taken with this record, from the state `u` in which it is raised (R347, R350). -/
theorem trapsFrom_of_raiseAt {u s : State} {i : Instr} {code reg origin addr epc : Nat} (hm : MayTrap u) (hcur : u.cur = s.cur) (hvlcs : u.vlcs = s.vlcs)
    (hcode : code < 256) (hreg : reg < 32) (hi : exec i s = .next (raiseAt { code := code, origin := origin, addr := addr, reg := reg } epc u)) :
    TrapsFrom u i s (code + 134217728 * reg) origin addr (wN epc) := by
  generalize hf : ({ code := code, origin := origin, addr := addr, reg := reg } : FRec) = f at hi
  rw [raiseAt_of_mayTrap hm, hcur] at hi
  obtain ⟨hframe, hnet⟩ := enterTrap_frame s.cur f epc (chargeFault s.cur f u)
  refine ⟨_, hi, ?_, tookFrame_of_charged hframe, hnet.trans (chargeFault_net ..)⟩
  have htook := enterTrap_took s.cur f epc u (hf ▸ rfl)
  have hbefore : getVlc u s.cur = s.me := by rw [State.me, getVlc, getVlc, hvlcs]
  have hcodeIs : f.code = (code + 134217728 * reg) % 2048 := by
    have hmod : (code + 134217728 * reg) % 2048 = code := by omega
    rw [hmod, ← hf]
  have hword0 : f.word0 = BitVec.ofNat 64 (code + 134217728 * reg) := hf ▸ word0_of_scalar hcode hreg origin addr
  have hword1 : f.word1 = BitVec.ofNat 64 origin := hf ▸ rfl
  have hword2 : f.word2 = BitVec.ofNat 64 addr := hf ▸ rfl
  have hword3 : f.word3 = 0 := by rw [← hf]; simp [FRec.word3, wN]
  rw [hbefore, hcodeIs, hword0, hword1, hword2, hword3] at htook
  have hafter : (enterTrap s.cur f epc (chargeFault s.cur f u)).me = getVlc (enterTrap s.cur f epc (chargeFault s.cur f u)) s.cur := by
    rw [State.me, enterTrap_cur, chargeFault_cur, hcur]
  rw [hafter]
  exact htook

/-- A fault that `raise` makes is taken with the pc of its word (R350). -/
theorem trapsFrom_of_raise {u s : State} {i : Instr} {code addr : Nat} (hm : MayTrap u) (hcur : u.cur = s.cur) (hvlcs : u.vlcs = s.vlcs) (hcode : code < 256)
    (hi : exec i s = .next (raise code addr u)) : TrapsFrom u i s code s.me.pc.toNat addr s.me.pc := by
  have hme : u.me = s.me := by rw [State.me, State.me, getVlc, getVlc, hvlcs, hcur]
  rw [raise, hme] at hi
  have h := trapsFrom_of_raiseAt (reg := 0) hm hcur hvlcs hcode (by omega) hi
  rwa [Nat.mul_zero, Nat.add_zero, wN, BitVec.ofNat_toNat, BitVec.setWidth_eq] at h

theorem traps_of_raise {s : State} {i : Instr} {code addr : Nat} (hm : MayTrap s) (hcode : code < 256) (hi : exec i s = .next (raise code addr s)) :
    Traps i s code s.me.pc.toNat addr s.me.pc := trapsFrom_of_raise hm rfl rfl hcode hi

/-- A word that stage 3 refuses takes ILLEGAL (R359). -/
theorem issue_refused {ill : State → Bool} {srcs : List Src} {dst : Nat} (k : State → State) {s : State} (hr : s.me.ready = true) (hi : ill s = true) :
    issue ill srcs dst k s = raiseIllegal s := by
  rw [issue, hr, hi]; rfl

end Sys2Proof.Machine
end

section
/-! SUPPORT. Control registers: what `csrr` reads (R51, R54, R167, R168, R190). -/
namespace Sys2Proof.Machine

/-- `csrr` of a listed number, with its older vector words retired and its claim held where it needs them, puts the value in xd (R168, R190). -/
theorem csrr_puts {s : State} {d : XReg} {c : BitVec 11} {w : Word} (hc : CanIssue s [] d.toNat) (hw : csrRead s s.cur c.toNat = some w)
    (hwait : csrWaits c.toNat = true → vecBusy s s.cur = false) (hclaim : csrSlice c.toNat = true → holdsClaim s s.cur = true) : Puts (.csrr d c) s d w := by
  have hbusy : (csrWaits c.toNat && vecBusy s s.cur) = false := by rw [Bool.and_eq_false_imp]; exact hwait
  have hheld : (csrSlice c.toNat && !holdsClaim s s.cur) = false := by rw [Bool.and_eq_false_imp]; exact fun h => by rw [hclaim h]; rfl
  have hexec : exec (.csrr d c) s = .next (finishX d.toNat w s) := by
    refine congrArg Host.Outcome.next ((issue_can (srcs := []) _ hc (by rw [hw]; rfl)).trans ?_)
    rw [hbusy, hheld, hw]; rfl
  obtain ⟨honly, hwrites, hends⟩ := finishX_writes w s d.isLt
  exact ⟨_, hexec, honly, hwrites, hends⟩

/-- The same for a register that waits for nothing. -/
theorem csrr_puts_at_once {s : State} {d : XReg} {c : BitVec 11} {w : Word} (hc : CanIssue s [] d.toNat) (hw : csrRead s s.cur c.toNat = some w)
    (hwait : csrWaits c.toNat = false) (hclaim : csrSlice c.toNat = false) : Puts (.csrr d c) s d w :=
  csrr_puts hc hw (fun h => absurd h (by rw [hwait]; decide)) (fun h => absurd h (by rw [hclaim]; decide))

/-- `csrr` of a register of the slice without the claim takes ILLEGAL (R168). -/
theorem csrr_unclaimed {s : State} {d : XReg} {c : BitVec 11} (hc : CanIssue s [] d.toNat) (hm : MayTrap s) (hs : csrSlice c.toNat = true)
    (hn : holdsClaim s s.cur = false) : Traps (.csrr d c) s 1 s.me.pc.toNat 0 s.me.pc := by
  have hread : (csrRead s s.cur c.toNat).isNone = false := by
    simp only [csrSlice, Bool.or_eq_true, beq_iff_eq] at hs
    rcases hs with h | h <;> rw [h] <;> rfl
  refine traps_of_raise hm (by decide) (congrArg Host.Outcome.next ((issue_can (srcs := []) _ hc hread).trans ?_))
  simp only [hm.2.2, hs, hn, Bool.and_false, Bool.not_false, Bool.and_self, Bool.false_eq_true, if_false, if_true]
  rfl

/-- The numbers that R167 lists. -/
theorem csrRead_unlisted {s : State} {n c : Nat}
    (h : c ∉ [0, 1, 0x10, 0x11, 0x12, 0x13, 0x14, 0x15, 0x16, 0x17, 0x20, 0x21, 0x22, 0x23, 0x30, 0x40, 0x41, 0x100, 0x101, 0x102, 0x103, 0x104, 0x105,
      0x110, 0x111, 0x112, 0x113]) : csrRead s n c = none := by
  unfold csrRead
  dsimp only
  split
  case h_28 => rfl
  all_goals exact absurd (by decide) h

theorem csrr_unlisted {s : State} {d : XReg} {c : BitVec 11} (hc : CanIssue s [] d.toNat) (hm : MayTrap s) (hn : csrRead s s.cur c.toNat = none) :
    Traps (.csrr d c) s 1 s.me.pc.toNat 0 s.me.pc :=
  traps_of_raise hm (by decide) (congrArg Host.Outcome.next (issue_refused _ hc.1 (by rw [hn]; rfl)))

theorem holdsClaim_iff (s : State) (n : Nat) : holdsClaim s n = true ↔ (getVault s (n / 8)).slice.holder = some n := beq_iff_eq

/-- Settles O15. -/
theorem csrReads : Obligations.CsrReads := by
  unfold Obligations.CsrReads
  intro s d hc
  have now {n : BitVec 11} {w : Word} (hw : csrRead s s.cur n.toNat = some w) (h : csrWaits n.toNat = false ∧ csrSlice n.toNat = false) : Puts (.csrr d n) s d w :=
    csrr_puts_at_once hc hw h.1 h.2
  refine ⟨now rfl (by decide), now rfl (by decide), now rfl (by decide), now rfl (by decide), now rfl (by decide), now rfl (by decide), now rfl (by decide),
    now rfl (by decide), now rfl (by decide), now rfl (by decide), now rfl (by decide), fun k hk => ?_, fun hb => ?_, fun n hm hn => csrr_unlisted hc hm (csrRead_unlisted hn)⟩
  · have h : k = 0 ∨ k = 1 ∨ k = 2 ∨ k = 3 := by omega
    rcases h with rfl | rfl | rfl | rfl <;> exact ⟨now rfl (by decide), now rfl (by decide)⟩
  have then_ {n : BitVec 11} {w : Word} (hw : csrRead s s.cur n.toNat = some w) (h : csrSlice n.toNat = false) : Puts (.csrr d n) s d w :=
    csrr_puts hc hw (fun _ => hb) (fun hs => by rw [h] at hs; cases hs)
  refine ⟨then_ rfl (by decide), then_ rfl (by decide), then_ ?_ (by decide), then_ rfl (by decide), then_ rfl (by decide), then_ rfl (by decide), fun hh => ?_, fun hh hm => ?_⟩
  · show some (vstat s.me) = _
    simp only [vstat, b2n, wN, mul_ite, mul_one, mul_zero, pow_zero, pow_one, Nat.reducePow]
  · have hclaim := (holdsClaim_iff s s.cur).2 hh
    exact ⟨csrr_puts hc rfl (fun _ => hb) fun _ => hclaim, csrr_puts hc rfl (fun _ => hb) fun _ => hclaim⟩
  · have hclaim : holdsClaim s s.cur = false := by rw [← Bool.not_eq_true, holdsClaim_iff]; exact hh
    exact ⟨csrr_unclaimed hc hm (by decide) hclaim, csrr_unclaimed hc hm (by decide) hclaim⟩

end Sys2Proof.Machine
end

section
/-! SUPPORT. Control registers: what `csrw`, `csrs` and `csrc` leave (R51, R54, R58, R144, R167, R168, R190, R356). -/
namespace Sys2Proof.Machine

/-! ### The end of a word that changed its own context -/

theorem becomes_updVlc (n : Nat) (f : Vlc → Vlc) (s : State) : Becomes n (f (getVlc s n)) s (updVlc n f s) :=
  ⟨rfl, getVlc_updVlc_same s n f, fun _ hm => getVlc_updVlc_other s f hm⟩

theorem Becomes.updVlc {n : Nat} {v : Vlc} {s t : State} (h : Becomes n v s t) (f : Vlc → Vlc) : Becomes n (f v) s (updVlc n f t) := by
  obtain ⟨hrest, hv, hother⟩ := h
  exact ⟨hrest, by rw [getVlc_updVlc_same, hv], fun m hm => (getVlc_updVlc_other t f hm).trans (hother m hm)⟩

theorem leaves_of_updMe {i : Instr} {s : State} {h : Vlc → Vlc} (hi : exec i s = .next (advance (updMe h s))) (hpc : (h s.me).pc = s.me.pc) :
    Leaves i s (ended (h s.me) (s.me.pc + 4)) := by
  have h2 := (becomes_updVlc s.cur h s).updVlc (fun v => { v with pc := v.pc + 4, bskip := v.skipOn, cost := v.cost + 1 })
  refine ⟨_, hi, ?_⟩
  rw [ended, ← hpc]
  exact h2

/-! ### A write that goes through, and one that is refused -/

/-- What each form of a CSR write runs. -/
theorem csrForm_exec {mk : BitVec 11 → XReg → Instr} {g : Word → Word} {s : State} {a : XReg} (h : CsrForm mk g (s.me.rx a.toNat)) :
    ∃ f : Word → Word → Word, (∀ c, exec (mk c a) s = .next (csrWrite c a f s)) ∧ ∀ w, f w (s.me.rx a.toNat) = g w := by
  rcases h with ⟨rfl, rfl⟩ | ⟨rfl, rfl⟩ | ⟨rfl, rfl⟩
  · exact ⟨fun _ x => x, fun _ => rfl, fun _ => rfl⟩
  · exact ⟨fun c x => c ||| x, fun _ => rfl, fun _ => rfl⟩
  · exact ⟨fun c x => c &&& ~~~x, fun _ => rfl, fun _ => rfl⟩

/-- The register `c` may be written, and its old value is `old` (R168, R190). -/
structure CsrOpen (s : State) (c : Nat) (old : Word) : Prop where
  read : csrRead s s.cur c = some old
  writable : csrReadOnly c = false
  outside : (c == 0x100 && s.me.hnd) = false
  retired : (csrWaits c && vecBusy s s.cur) = false
  turn : lprTurn s c = false
  claimed : (csrSlice c && !holdsClaim s s.cur) = false

section
variable {s : State} {a : XReg} {c : BitVec 11} {old : Word} {f : Word → Word → Word} (hc : CanIssue s [a.toNat] 0)
include hc

theorem csrWrite_of_open (ho : CsrOpen s c.toNat old) : csrWrite c a f s =
    if csrRefused s c.toNat (f old (s.me.rx a.toNat)) then raiseIllegal (noteLpr c.toNat s) else advance (csrPut c.toNat (f old (s.me.rx a.toNat)) s) := by
  refine (issue_can (srcs := [(a.toNat, false)]) _ hc ?_).trans ?_
  · rw [ho.read, ho.writable, ho.outside]; rfl
  · rw [ho.retired, ho.turn, ho.claimed, ho.read]; rfl

omit hc in
theorem csrWrite_of_readOnly (hr : s.me.ready = true) (h : csrReadOnly c.toNat = true) : csrWrite c a f s = raiseIllegal s :=
  issue_refused _ hr (by rw [h, Bool.or_true, Bool.true_or])

/-- Without the claim a write of PREC or MSTAT is refused (R168). -/
theorem csrWrite_unclaimed (hb : vecBusy s s.cur = false) (h : c.toNat = 0x040 ∨ c.toNat = 0x041) (hn : holdsClaim s s.cur = false) : csrWrite c a f s = raiseIllegal s := by
  refine (issue_can (srcs := [(a.toNat, false)]) _ hc ?_).trans ?_
  · rcases h with h | h <;> rw [h] <;> rfl
  · have hs : csrSlice c.toNat = true := by rcases h with h | h <;> rw [h] <;> rfl
    have ht : lprTurn s c.toNat = false := by rcases h with h | h <;> rw [h] <;> rfl
    rw [hb, ht, hs, hn, Bool.and_false]; rfl

end

/-! ### Values that are refused (R54, R356) -/

theorem bitN_toNat {n : Nat} (w : BitVec n) (i : Nat) : bitN w.toNat i = w.getLsbD i := by
  rw [bitN, BitVec.getLsbD, Nat.testBit_eq_decide_div_mod_eq]; rfl

theorem bpaBad_iff (w : Word) : bpaBad w.toNat = true ↔ if w.getLsbD 1 then w.getLsbD 2 = true else w.toNat / 2 ^ 56 % 2 ^ 6 ≠ 0 := by
  rw [bpaBad, bitN_toNat, bitN_toNat, fld]
  split <;> simp

/-- Lanes of a core by PART (R53). -/
theorem lanesOf_eq (p c : Nat) : lanesOf p c =
    let k := if p = 0 then 16 else if p = 1 then 12 else if p = 2 then 8 else if p = 3 then 4 else 0; if c = 0 then k else 16 - k := by
  unfold lanesOf; rcases p with _ | _ | _ | _ | p <;> rfl

theorem lprRefused_iff (s : State) (v p : Nat) : lprRefused s v p = true ↔ p ≥ 5 ∨ (∃ j, j < 8 ∧ (getVlc s (8 * v + j)).lanes = true) ∨
    ∃ l ∈ s.launches, ∃ x ∈ l.saved, x.ctx.lanes = true ∧ x.vlcNo / 8 = v ∧ lanesOf p (x.vlcNo / 4 % 2) ≠ lanesOf (getVault s v).lpr (x.vlcNo / 4 % 2) := by
  simp [lprRefused, vaultOf, coreOf, and_assoc, or_assoc]

/-! ### Writes of the vault's registers (R54, R144, R168) -/

/-- A write of a register of the vault changes that vault, ends its word, and changes nothing else. -/
theorem sets_of_updVault {i : Instr} {s : State} {n : Nat} {h : Vault → Vault} (hi : exec i s = .next (advance (updVault n h s))) :
    ∃ t, exec i s = .next t ∧ { t with vlcs := s.vlcs, vaults := s.vaults } = s ∧ getVault t n = h (getVault s n) ∧ (∀ m, m ≠ n → getVault t m = getVault s m) ∧
      t.me = ended s.me (s.me.pc + 4) ∧ ∀ m, m ≠ s.cur → getVlc t m = getVlc s m := by
  refine ⟨_, hi, by simp only [advance, updMe, updVlc, updVault], ?_, fun m hm => ?_, ?_, fun m hm => getVlc_updMe_other (updVault n h s) _ hm⟩
  · rw [getVault_advance, getVault_updVault_same]
  · rw [getVault_advance, getVault_updVault_other _ _ hm]
  · rw [advance, me_updMe, me_updVault, ended]

/-- A change of a vault that keeps its recheck queue leaves every VLC as busy as it was. -/
theorem vecBusy_updVault {n : Nat} {h : Vault → Vault} (hh : ∀ v, (h v).rq = v.rq) (s : State) (m : Nat) : vecBusy (updVault n h s) m = vecBusy s m := by
  have hrq : rqOf (updVault n h s) m = rqOf s m := by
    by_cases hm : vaultOf m = n
    · rw [rqOf, rqOf, hm, getVault_updVault_same, hh]
    · rw [rqOf, rqOf, getVault_updVault_other _ _ hm]
  rw [vecBusy, vecBusy, hrq]; rfl

theorem mayTrap_updVault {n : Nat} {h : Vault → Vault} (hh : ∀ v, (h v).rq = v.rq) {s : State} (hm : MayTrap s) : MayTrap (updVault n h s) :=
  ⟨hm.1, hm.2.1, (vecBusy_updVault hh s s.cur).trans hm.2.2⟩

theorem holdsClaim_false_iff (s : State) (n : Nat) : holdsClaim s n = false ↔ (getVault s (n / 8)).slice.holder ≠ some n := by
  rw [← Bool.not_eq_true, holdsClaim_iff]

/-- SAT of MSTAT takes its value; every other bit stays (R168). -/
theorem putSat (m : Word) (x : Nat) :
    let w : Word := wN (putFld m.toNat 7 1 (fld x 7 1))
    w.toNat / 128 % 2 = x / 128 % 2 ∧ w.toNat % 128 = m.toNat % 128 ∧ w.toNat / 256 = m.toNat / 256 := by
  have := m.isLt
  simp only [wN, putFld, fld, BitVec.toNat_ofNat]
  omega

end Sys2Proof.Machine
end

section
/-! SUPPORT. The CSR words themselves: the forms of a write, and the statement about all of them (R51, R54, R144, R167, R168, R190, R356). -/
namespace Sys2Proof.Machine

/-! ### The forms of a write -/

section
variable {s : State} {a : XReg} {mk : BitVec 11 → XReg → Instr} {g : Word → Word} (hc : CanIssue s [a.toNat] 0) (hform : CsrForm mk g (s.me.rx a.toNat))
include hc hform

/-- A value that is not refused is written. -/
theorem csrForm_stores {c : BitVec 11} {old : Word} (ho : CsrOpen s c.toNat old) (hok : csrRefused s c.toNat (g old) = false) :
    exec (mk c a) s = .next (advance (csrPut c.toNat (g old) s)) := by
  obtain ⟨f, hexec, hf⟩ := csrForm_exec hform
  rw [hexec, csrWrite_of_open hc ho, hf, hok, if_neg Bool.false_ne_true]

theorem csrForm_refuses {c : BitVec 11} {old : Word} (ho : CsrOpen s c.toNat old) (hbad : csrRefused s c.toNat (g old) = true) :
    exec (mk c a) s = .next (raiseIllegal (noteLpr c.toNat s)) := by
  obtain ⟨f, hexec, hf⟩ := csrForm_exec hform
  rw [hexec, csrWrite_of_open hc ho, hf, hbad, if_pos rfl]

/-- A write of a register of the context leaves the context with that field changed. -/
theorem csrForm_leaves {c : BitVec 11} {old : Word} (h : Word → Vlc → Vlc) (ho : CsrOpen s c.toNat old) (hput : ∀ w, csrPut c.toNat w s = updMe (h w) s)
    (hpc : ∀ w, (h w s.me).pc = s.me.pc) (hok : csrRefused s c.toNat (g old) = false) : Leaves (mk c a) s (ended (h (g old) s.me) (s.me.pc + 4)) :=
  leaves_of_updMe ((csrForm_stores hc hform ho hok).trans (by rw [hput])) (hpc _)

omit hc in
theorem csrForm_readOnly (hr : s.me.ready = true) (hm : MayTrap s) {c : BitVec 11} (h : csrReadOnly c.toNat = true) : Traps (mk c a) s 1 s.me.pc.toNat 0 s.me.pc := by
  obtain ⟨f, hexec, -⟩ := csrForm_exec hform
  exact traps_of_raise hm (by decide) ((hexec c).trans (congrArg _ (csrWrite_of_readOnly hr h)))

theorem csrForm_unclaimed (hm : MayTrap s) {c : BitVec 11} (h : c.toNat = 0x040 ∨ c.toNat = 0x041) (hn : holdsClaim s s.cur = false) :
    Traps (mk c a) s 1 s.me.pc.toNat 0 s.me.pc := by
  obtain ⟨f, hexec, -⟩ := csrForm_exec hform
  exact traps_of_raise hm (by decide) ((hexec c).trans (congrArg _ (csrWrite_unclaimed hc hm.2.2 h hn)))

end

/-! ### Breakpoint registers (R356) -/

/-- The number of breakpoint register `k`. -/
theorem csr_bpa {k : Nat} (hk : k < 4) (s : State) : (BitVec.ofNat 11 (0x110 + k)).toNat = 0x110 + k ∧ CsrOpen s (0x110 + k) (tget 0 s.me.bpa k) ∧
    (∀ w : Word, csrRefused s (0x110 + k) w = bpaBad w.toNat) ∧ noteLpr (0x110 + k) s = s ∧
    ∀ w, csrPut (0x110 + k) w s = updMe (fun v => { v with bpa := tset 0 v.bpa k (w &&& 0x3FFFFFFFFFFFFFFF) }) s := by
  have h : k = 0 ∨ k = 1 ∨ k = 2 ∨ k = 3 := by omega
  rcases h with rfl | rfl | rfl | rfl <;> exact ⟨rfl, ⟨rfl, rfl, rfl, rfl, rfl, rfl⟩, fun _ => rfl, rfl, fun _ => rfl⟩

/-- A write of LPR has its turn unless core 0 makes it after core 1 has (R168). -/
theorem lprTurn_iff (s : State) : lprTurn s 0x030 = false ↔ s.cur / 4 % 2 = 1 ∨ (getVault s (s.cur / 8)).lprAt ≠ s.cyc + 1 := by
  simp only [lprTurn, coreOf, vaultOf, beq_self_eq_true, Bool.true_and, Bool.and_eq_false_iff, beq_eq_false_iff_ne]
  exact or_congr_left (by omega)

/-- Settles O16. -/
theorem csrWrites : Obligations.CsrWrites := by
  unfold Obligations.CsrWrites
  intro s a mk g hc hform v pc
  have W {c : BitVec 11} {old : Word} (h : Word → Vlc → Vlc) (ho : CsrOpen s c.toNat old) (hput : ∀ w, csrPut c.toNat w s = updMe (h w) s)
      (hok : ∀ w, csrRefused s c.toNat w = false) (hpc : ∀ w, (h w s.me).pc = s.me.pc) : Leaves (mk c a) s (ended (h (g old) s.me) pc) :=
    csrForm_leaves hc hform h ho hput hpc (hok _)
  have ro (hm : MayTrap s) {c : BitVec 11} (h : csrReadOnly c.toNat = true) := csrForm_readOnly hform hc.1 hm h
  refine ⟨⟨?_, ?_, ?_, ?_, ?_, ?_, fun hh => ?_, fun hb => ⟨?_, ?_, ?_⟩, fun k hk => ?_, fun hm => ?_⟩, ?_, fun hb hh => ⟨?_, ?_⟩, fun hm hh => ?_⟩
  · exact W (fun w v => if v.sopen then { v with scPend := some w } else { v with sc := w }) ⟨rfl, rfl, rfl, rfl, rfl, rfl⟩ (fun _ => rfl) (fun _ => rfl) fun _ => by split <;> rfl
  · exact W (fun w v => { v with sb := w }) ⟨rfl, rfl, rfl, rfl, rfl, rfl⟩ (fun _ => rfl) (fun _ => rfl) fun _ => rfl
  · exact W (fun w v => { v with ckm := w.truncate 32 &&& 0xFFFFFFFE }) ⟨rfl, rfl, rfl, rfl, rfl, rfl⟩ (fun _ => rfl) (fun _ => rfl) fun _ => rfl
  · exact W (fun w v => { v with ocdef := w.truncate 4 }) ⟨rfl, rfl, rfl, rfl, rfl, rfl⟩ (fun _ => rfl) (fun _ => rfl) fun _ => rfl
  · exact W (fun w v => { v with rmode := w.truncate 2 }) ⟨rfl, rfl, rfl, rfl, rfl, rfl⟩ (fun _ => rfl) (fun _ => rfl) fun _ => rfl
  · exact W (fun w v => { v with epc := w }) ⟨rfl, rfl, rfl, rfl, rfl, rfl⟩ (fun _ => rfl) (fun _ => rfl) fun _ => rfl
  · exact W (fun w v => { v with tvec := w }) ⟨rfl, rfl, hh, rfl, rfl, rfl⟩ (fun _ => rfl) (fun _ => rfl) fun _ => rfl
  · exact W (fun w v => { v with estart := w }) ⟨rfl, rfl, rfl, hb, rfl, rfl⟩ (fun _ => rfl) (fun _ => rfl) fun _ => rfl
  · exact W (fun w v => { v with fflags := w.truncate 6 }) ⟨rfl, rfl, rfl, hb, rfl, rfl⟩ (fun _ => rfl) (fun _ => rfl) fun _ => rfl
  · exact W (fun w v => { v with smm := w }) ⟨rfl, rfl, rfl, hb, rfl, rfl⟩ (fun _ => rfl) (fun _ => rfl) fun _ => rfl
  · obtain ⟨hn, ho, href, hnote, hput⟩ := csr_bpa hk s
    rw [← hn] at ho href hput hnote
    refine ⟨fun hok => ?_, fun hm hbad => ?_⟩
    · exact csrForm_leaves hc hform (fun w v => { v with bpa := tset 0 v.bpa k (w &&& 0x3FFFFFFFFFFFFFFF) }) ho hput (fun _ => rfl)
        ((href _).trans (by rw [← Bool.not_eq_true, bpaBad_iff]; exact hok))
    · have hi := csrForm_refuses hc hform ho ((href _).trans ((bpaBad_iff _).2 hbad))
      rw [hnote] at hi
      exact traps_of_raise hm (by decide) hi
  · exact ⟨ro hm rfl, ro hm rfl, ro hm rfl, ro hm rfl, ro hm rfl, ro hm rfl, ro hm rfl, ro hm rfl, ro hm rfl, ro hm rfl⟩
  · have hturn := lprTurn_iff s
    have ho (ht : lprTurn s 0x030 = false) : CsrOpen s (0x030 : BitVec 11).toNat (BitVec.ofNat 64 (getVault s (s.cur / 8)).lpr) := ⟨rfl, rfl, rfl, rfl, ht, rfl⟩
    have hpart (w : Word) : fld w.toNat 0 3 = w.toNat % 8 := by simp [fld]
    have hrefused (w : Word) : csrRefused s (0x030 : BitVec 11).toNat w = lprRefused s (s.cur / 8) (w.toNat % 8) := by rw [← hpart]; rfl
    refine ⟨fun ht hok => ?_, fun ht => ?_, fun hm ht hbad => ?_⟩
    · have hi := csrForm_stores hc hform (ho (hturn.2 ht)) (by rw [hrefused, ← Bool.not_eq_true, lprRefused_iff]; simpa only [lanesOf_eq] using hok)
      rw [← hpart]
      exact sets_of_updVault hi
    · obtain ⟨f, hexec, -⟩ := csrForm_exec hform
      have hlater : lprTurn s 0x030 = true := by rw [← Bool.not_eq_false, hturn]; exact ht
      exact (hexec _).trans (congrArg _ ((issue_can (srcs := [(a.toNat, false)]) _ hc rfl).trans (if_pos (Bool.or_eq_true_iff.2 (.inr hlater)))))
    · have hi := csrForm_refuses hc hform (ho (hturn.2 ht)) (by rw [hrefused, lprRefused_iff]; simpa only [lanesOf_eq] using hbad)
      by_cases h2 : s.cur / 4 % 2 = 1
      · rw [noteLpr, if_pos ⟨rfl, h2⟩] at hi
        rw [if_pos h2]
        exact trapsFrom_of_raise (mayTrap_updVault (h := fun v => { v with lprAt := s.cyc + 1 }) (fun _ => rfl) hm) rfl rfl (by decide) hi
      · rw [noteLpr, if_neg fun h => h2 h.2] at hi
        rw [if_neg h2]
        exact traps_of_raise hm (by decide) hi
  · have hclaim := (holdsClaim_iff s s.cur).2 hh
    have ho : CsrOpen s (0x040 : BitVec 11).toNat (getVault s (s.cur / 8)).slice.prec := ⟨rfl, rfl, rfl, hb, rfl, by rw [hclaim]; rfl⟩
    exact ⟨fun hok => sets_of_updVault (csrForm_stores hc hform ho hok), fun hm hbad => traps_of_raise hm (by decide) (csrForm_refuses hc hform ho hbad)⟩
  · have hclaim := (holdsClaim_iff s s.cur).2 hh
    have ho : CsrOpen s (0x041 : BitVec 11).toNat (getVault s (s.cur / 8)).slice.mstat := ⟨rfl, rfl, rfl, hb, rfl, by rw [hclaim]; rfl⟩
    have hlow (w : Word) : csrRefused s (0x041 : BitVec 11).toNat w = (w.toNat % 128 != (getVault s (s.cur / 8)).slice.mstat.toNat % 128) := by
      show (fld w.toNat 0 7 != fld _ 0 7) = _
      simp [fld, sliceOf, vaultOf]
    refine ⟨fun hok => ⟨_, sets_of_updVault (csrForm_stores hc hform ho ?_), putSat _ _⟩, fun hm hbad => traps_of_raise hm (by decide) (csrForm_refuses hc hform ho ?_)⟩
    · rw [hlow, hok, bne_self_eq_false]
    · rw [hlow]; exact bne_iff_ne.2 hbad
  · have hclaim := (holdsClaim_false_iff s s.cur).2 hh
    exact ⟨csrForm_unclaimed hc hform hm (.inl rfl) hclaim, csrForm_unclaimed hc hform hm (.inr rfl) hclaim⟩

end Sys2Proof.Machine
end

section
/-! SUPPORT. `vsetl`: the strip that it opens or keeps, the lanes, and the checkpoint (R53, R55, R56, R200, R205). -/
namespace Sys2Proof.Machine

/-! ### The strip (R56) -/

/-- The context in which a strip has opened. -/
def openStrip (vl : Nat) (cfg : BitVec 4) (v : Vlc) : Vlc :=
  { v with vl := vl, vlGrant := vl, prc := v.sc, ckp := checkpoint v, ckmask := v.ckm, spc := v.pc, cksb := v.sb, sopen := true, sbfull := false, devs := false, irrev := false, vcfg := cfg }

/-- The context whose open strip is kept. -/
def keepStrip (cfg : BitVec 4) (v : Vlc) : Vlc := { v with vcfg := cfg, vlGrant := v.vl }

theorem grantStrip_of_closed {s : State} (d : XReg) (sew grp : Nat) (h : s.me.sopen = false) : grantStrip d sew grp s =
    finishX d.toNat (wN (min s.me.sc.toNat (vlmax s s.cur sew grp))) (updMe (openStrip (min s.me.sc.toNat (vlmax s s.cur sew grp)) (BitVec.ofNat 4 (sew + 4 * grp))) s) := by
  rw [grantStrip, h]; rfl

theorem grantStrip_of_open {s : State} (d : XReg) (sew grp : Nat) (h : s.me.sopen = true) :
    grantStrip d sew grp s = finishX d.toNat (wN s.me.vl) (updMe (keepStrip (BitVec.ofNat 4 (sew + 4 * grp))) s) := by
  rw [grantStrip, h]; rfl

/-- A fold of writes at the numbers of a list that meet a condition. -/
theorem tget_foldl_tset {α : Type} [DecidableEq α] (z : α) (p : Nat → Bool) (f : Nat → α) (i : Nat) :
    ∀ (l : List Nat) (t : Tbl α), tget z (l.foldl (fun t j => if p j then tset z t j (f j) else t) t) i = if i ∈ l ∧ p i = true then f i else tget z t i
  | [], t => by simp
  | j :: l, t => by
    rw [List.foldl_cons, tget_foldl_tset z p f i l]
    by_cases hl : i ∈ l ∧ p i = true
    · rw [if_pos hl, if_pos ⟨List.mem_cons_of_mem j hl.1, hl.2⟩]
    · rw [if_neg hl]
      by_cases hj : i = j
      · subst hj; cases hp : p i <;> simp
      · have hout : ¬(i ∈ j :: l ∧ p i = true) := by simpa [hj] using hl
        rw [if_neg hout]
        split
        · exact tget_tset_other _ _ _ hj
        · rfl

/-- The checkpoint holds the registers that CKM names (R56). -/
theorem tget_checkpoint {v : Vlc} {i : Nat} (h0 : 0 < i) (hi : i < 32) (hb : v.ckm.getLsbD i = true) : tget 0 (checkpoint v) i = v.rx i := by
  refine (tget_foldl_tset 0 (fun j => has v.ckm j && j != 0) v.rx i (upto 32) []).trans (if_pos ⟨List.mem_range.2 hi, ?_⟩)
  rw [Bool.and_eq_true]
  exact ⟨hb, bne_iff_ne.2 (by omega)⟩

/-- VLMAX (R53). -/
theorem vlmax_eq (s : State) (n : Nat) (sew grp : BitVec 2) : vlmax s n sew.toNat grp.toNat =
    192 * lanesOf (getVault s (n / 8)).lpr (n / 4 % 2) * 2 ^ grp.toNat / (8 * 2 ^ sew.toNat) := by
  have hs := sew.isLt
  have hg := grp.isLt
  rw [vlmax, grpN, sewBits, Nat.mod_eq_of_lt hs, Nat.mod_eq_of_lt hg]; rfl

/-- The codes of SEW and GRP in VCFG (R53). -/
theorem toNat_vcfg (sew grp : BitVec 2) : (BitVec.ofNat 4 (sew.toNat + 4 * grp.toNat)).toNat = sew.toNat + 4 * grp.toNat := by
  have := sew.isLt; have := grp.isLt
  rw [BitVec.toNat_ofNat, Nat.mod_eq_of_lt (by omega)]

/-! ### What the word runs (R200, R205) -/

/-- No `vldff` of a VLC is still to execute, where no word of its queue trims VL. -/
theorem vldffOut_false {s : State} {n : Nat} (h : ∀ e ∈ viqOf s n, ∀ w, memWordOf e.instr = some w → w.first = false) : vldffOut s n = false := by
  rw [vldffOut, List.any_eq_false]
  intro e he
  cases hw : memWordOf e.instr with
  | none => exact Bool.false_ne_true
  | some w => simp [h e he w hw]

/-- `u` is `s` once its VLC holds the lanes: it held them, or it has taken them free, with its vector state 0 (R55, R56). -/
structure HoldsLanes (s u : State) : Prop where
  cur : u.cur = s.cur
  mem : u.mem = s.mem
  vaults : u.vaults = s.vaults
  others : ∀ m, m ≠ s.cur → getVlc u m = getVlc s m
  me : u.me = { s.me with lanes := true, v := u.me.v, k := u.me.k, vempty := u.me.vempty, wait := u.me.wait }
  fresh : s.me.lanes = false → FreshLanes u.me ∧ (getCore u (s.cur / 4)).holder = some s.cur
  kept : s.me.lanes = true → u.me = s.me

theorem HoldsLanes.refl {s : State} (h : s.me.lanes = true) : HoldsLanes s s :=
  ⟨rfl, rfl, rfl, fun _ _ => rfl, by rw [← h], fun hf => by simp [h] at hf, fun _ => rfl⟩

@[simp] theorem takeLanes_mem (n : Nat) (s : State) : (takeLanes n s).mem = s.mem := by simp only [takeLanes, updCore_mem, updVlc_mem]
@[simp] theorem takeLanes_cur (n : Nat) (s : State) : (takeLanes n s).cur = s.cur := by simp only [takeLanes, updCore_cur, updVlc_cur]
@[simp] theorem takeLanes_vaults (n : Nat) (s : State) : (takeLanes n s).vaults = s.vaults := by simp only [takeLanes, updCore_vaults, updVlc_vaults]

theorem HoldsLanes.takeLanes {s : State} (h : s.me.lanes = false) : HoldsLanes s (takeLanes s.cur s) := by
  have hme : (Machine.takeLanes s.cur s).me = { s.me with lanes := true, v := [], k := [], vempty := [], wait := .none } := by
    rw [Machine.takeLanes, me_updCore]; exact me_updMe _ s
  refine ⟨takeLanes_cur .., takeLanes_mem .., takeLanes_vaults .., fun m hm => ?_, ?_, fun _ => ⟨?_, ?_⟩, fun hl => ?_⟩
  · rw [Machine.takeLanes, getVlc_updCore, getVlc_updVlc_other _ _ hm]
  · rw [hme]
  · rw [hme]; exact ⟨rfl, rfl, rfl, rfl⟩
  · rw [Machine.takeLanes, coreOf, getCore_updCore_same]
  · rw [h] at hl; cases hl

section
variable {s : State} {d : XReg} {sew grp : BitVec 2} (hc : CanIssue s [] d.toNat) (hh : s.me.hnd = false) (hv : vldffOut s s.cur = false)
  (hl : lanesOf (getVault s (s.cur / 8)).lpr (s.cur / 4 % 2) ≠ 0)
include hc hh hv hl

theorem vsetl_legal (hvl : s.me.sopen = true → s.me.vl ≤ vlmax s s.cur sew.toNat grp.toNat) : exec (.vsetl d sew grp) s = .next (
    if s.me.lanes then grantStrip d sew.toNat grp.toNat s
    else if (getCore s (s.cur / 4)).holder.isNone && (getCore s (s.cur / 4)).queue.isEmpty then grantStrip d sew.toNat grp.toNat (takeLanes s.cur s)
    else updCore (s.cur / 4) (fun c => { c with queue := c.queue ++ [s.cur] }) (updMe (fun v => { v with wait := .lanes }) s)) := by
  refine congrArg Host.Outcome.next ((issue_can (srcs := []) _ hc ?_).trans (by rw [hv]; rfl))
  have hl' : (lanesOf (getVault s (vaultOf s.cur)).lpr (coreOf s.cur % 2) == 0) = false := beq_eq_false_iff_ne.2 hl
  rw [hl', hh, hv]
  cases ho : s.me.sopen
  · rfl
  · simpa using hvl ho

/-- With the lanes held or free the strip is granted to the VLC that holds them (R56). -/
theorem vsetl_grants (hvl : s.me.sopen = true → s.me.vl ≤ vlmax s s.cur sew.toNat grp.toNat)
    (hfree : s.me.lanes = true ∨ (getCore s (s.cur / 4)).holder = none ∧ (getCore s (s.cur / 4)).queue = []) :
    ∃ u, HoldsLanes s u ∧ exec (.vsetl d sew grp) s = .next (grantStrip d sew.toNat grp.toNat u) := by
  rw [vsetl_legal hc hh hv hl hvl]
  cases hlanes : s.me.lanes with
  | true => exact ⟨s, .refl hlanes, rfl⟩
  | false =>
    obtain h | ⟨h1, h2⟩ := hfree
    · rw [hlanes] at h; cases h
    · exact ⟨_, .takeLanes hlanes, by rw [h1, h2]; rfl⟩

end

/-- The context after the grant of a strip: the strip, xd, and the end of the word. -/
theorem finishX_updMe_me (d : Nat) (w : Word) (f : Vlc → Vlc) (u : State) : (finishX d w (updMe f u)).me =
    { (f u.me).wx d w with pc := (f u.me).pc + 4, bskip := (f u.me).skipOn, cost := (f u.me).cost + 1 } := by
  rw [finishX, me_updMe, me_updMe]

/-- A change of a context that leaves its registers, its pc and its lanes alone. -/
structure KeepsRegs (v w : Vlc) : Prop where
  x : w.x = v.x
  empty : w.empty = v.empty
  pend : w.pend = v.pend
  pc : w.pc = v.pc
  lanes : w.lanes = v.lanes
  vregs : w.v = v.v ∧ w.k = v.k ∧ w.vempty = v.vempty

/-- What a `vsetl` leaves: its word ends with VL in xd, in an open strip, with the lanes held (R55, R56). -/
structure StripGranted (s t : State) (d vl : Nat) (cfg : BitVec 4) : Prop where
  xd : WritesX s.me t.me d (BitVec.ofNat 64 vl)
  pc : t.me.pc = s.me.pc + 4
  vl : t.me.vl = vl
  isOpen : t.me.sopen = true
  vcfg : t.me.vcfg = cfg
  lanes : t.me.lanes = true
  fresh : s.me.lanes = false → FreshLanes t.me ∧ (getCore t (s.cur / 4)).holder = some s.cur
  kept : s.me.lanes = true → t.me.v = s.me.v ∧ t.me.k = s.me.k
  mem : t.mem = s.mem
  others : ∀ m, m ≠ s.cur → getVlc t m = getVlc s m

theorem stripGranted {s u : State} {d vl : Nat} {cfg : BitVec 4} {f : Vlc → Vlc} (hd : d < 32) (hu : HoldsLanes s u) (hf : KeepsRegs u.me (f u.me))
    (hvl : (f u.me).vl = vl) (hopen : (f u.me).sopen = true) (hcfg : (f u.me).vcfg = cfg) : StripGranted s (finishX d (wN vl) (updMe f u)) d vl cfg := by
  have hme := finishX_updMe_me d (wN vl) f u
  obtain ⟨hv, hk, hve⟩ := hf.vregs
  refine ⟨?_, ?_, ?_, ?_, ?_, ?_, fun h => ?_, fun h => ?_, hu.mem, fun m hm => ?_⟩
  · obtain ⟨h1, h2, h3, h4⟩ := wx_writes (f u.me) (wN vl) hd
    have hregs (j : Nat) : (f u.me).rx j = s.me.rx j ∧ (f u.me).isEmpty j = s.me.isEmpty j := by
      rw [Vlc.rx, Vlc.isEmpty, hf.x, hf.empty, hu.me]; exact ⟨rfl, rfl⟩
    have hpend : (f u.me).pend = s.me.pend := by rw [hf.pend, hu.me]
    rw [hme]
    exact ⟨h1, h2, h3.trans hpend, fun j hj => ⟨(h4 j hj).1.trans (hregs j).1, (h4 j hj).2.trans (hregs j).2⟩⟩
  · rw [hme, hf.pc, hu.me]
  · rw [hme]; exact (wx_vl ..).trans hvl
  · rw [hme]; exact (wx_sopen ..).trans hopen
  · rw [hme]; exact (wx_vcfg ..).trans hcfg
  · rw [hme]; exact (wx_lanes ..).trans (hf.lanes.trans (by rw [hu.me]))
  · obtain ⟨⟨hl, h1, h2, h3⟩, hholder⟩ := hu.fresh h
    refine ⟨?_, hholder⟩
    rw [hme]
    exact ⟨(wx_lanes ..).trans (hf.lanes.trans hl), (wx_v ..).trans (hv.trans h1), (wx_k ..).trans (hk.trans h2), (wx_vempty ..).trans (hve.trans h3)⟩
  · rw [hme]
    exact ⟨(wx_v ..).trans (hv.trans (by rw [hu.kept h])), (wx_k ..).trans (hk.trans (by rw [hu.kept h]))⟩
  · have hm' : m ≠ u.cur := by rw [hu.cur]; exact hm
    exact (getVlc_updMe_other (updMe f u) _ hm').trans ((getVlc_updMe_other u f hm').trans (hu.others m hm))

/-- Settles O17. -/
theorem stripOpens : Obligations.StripOpens := by
  unfold Obligations.StripOpens
  intro s d sew grp hc hh hviq v c lanes vmax free Grants
  have hv := vldffOut_false hviq
  have hmaxs : vlmax s s.cur sew.toNat grp.toNat = vmax := vlmax_eq ..
  have hmax {u : State} (hu : HoldsLanes s u) : vlmax u u.cur sew.toNat grp.toNat = vmax := by rw [vlmax_eq, hu.cur, getVault, hu.vaults]; rfl
  have grants {t : State} {vl : Nat} (h : StripGranted s t d.toNat vl (BitVec.ofNat 4 (sew.toNat + 4 * grp.toNat))) : Grants t vl :=
    ⟨h.xd, h.pc, h.vl, h.isOpen, by rw [h.vcfg, toNat_vcfg], h.lanes, h.fresh, h.kept, h.mem, h.others⟩
  refine ⟨fun hl ho hfree => ?_, fun hl ho hlanes hvl => ?_, fun hl ho hlanes hfree => ?_, fun hm hill => ?_⟩
  · obtain ⟨u, hu, hi⟩ := vsetl_grants hc hh hv hl (fun h => by rw [ho] at h; cases h) hfree
    have hou : u.me.sopen = false := by rw [hu.me]; exact ho
    have hsc : u.me.sc = v.sc := by rw [hu.me]
    rw [grantStrip_of_closed d sew.toNat grp.toNat hou, hmax hu, hsc] at hi
    have hme := finishX_updMe_me d.toNat (wN (min v.sc.toNat vmax)) (openStrip (min v.sc.toNat vmax) (BitVec.ofNat 4 (sew.toNat + 4 * grp.toNat))) u
    refine ⟨_, hi, grants (stripGranted d.isLt hu ⟨rfl, rfl, rfl, rfl, rfl, rfl, rfl, rfl⟩ rfl rfl rfl), ?_⟩
    rw [hme]
    have hpc : u.me.pc = v.pc := by rw [hu.me]
    have hsb : u.me.sb = v.sb := by rw [hu.me]
    have hckm : u.me.ckm = v.ckm := by rw [hu.me]
    have hrx (i : Nat) : u.me.rx i = v.rx i := by rw [hu.me]; rfl
    refine ⟨(wx_prc ..).trans hsc, (wx_spc ..).trans hpc, (wx_cksb ..).trans hsb, (wx_sb ..).trans hsb, wx_sbfull .., wx_devs .., (wx_ckmask ..).trans hckm,
      fun i h0 hi hb => ?_⟩
    exact (congrArg (fun l => tget 0 l i) (wx_ckp ..)).trans ((tget_checkpoint h0 hi (hckm ▸ hb)).trans (hrx i))
  · obtain ⟨u, hu, hi⟩ := vsetl_grants hc hh hv hl (fun _ => hmaxs ▸ hvl) (.inl hlanes)
    have hou : u.me.sopen = true := by rw [hu.me]; exact ho
    have hvlu : u.me.vl = v.vl := by rw [hu.me]
    rw [grantStrip_of_open d sew.toNat grp.toNat hou, hvlu] at hi
    refine ⟨_, hi, grants (stripGranted d.isLt hu ⟨rfl, rfl, rfl, rfl, rfl, rfl, rfl, rfl⟩ hvlu hou rfl), ?_⟩
    rw [finishX_updMe_me, hu.kept hlanes]
    exact ⟨wx_prc .., wx_ckp ..⟩
  · have hi := vsetl_legal hc hh hv hl (sew := sew) (grp := grp) fun h => by rw [ho] at h; cases h
    have hqueue : ((getCore s (s.cur / 4)).holder.isNone && (getCore s (s.cur / 4)).queue.isEmpty) = false := by
      simpa [free, c] using hfree
    rw [hlanes, hqueue, if_neg Bool.false_ne_true, if_neg Bool.false_ne_true] at hi
    refine ⟨_, hi, ?_, ?_, rfl, fun m hm => ?_⟩
    · rw [me_updCore, me_updMe]
    · rw [getCore_updCore_same]; rfl
    · rw [getVlc_updCore, getVlc_updMe_other _ _ hm]
  · refine traps_of_raise hm (by decide) (congrArg Host.Outcome.next (issue_refused _ hc.1 ?_))
    rw [hh, hv, hmaxs]
    rcases hill with hl | ⟨ho, hvl⟩
    · exact Bool.or_eq_true_iff.2 (.inl (Bool.or_eq_true_iff.2 (.inl (beq_iff_eq.2 hl))))
    · rw [ho, decide_eq_true hvl]; simp

end Sys2Proof.Machine
end

section
/-! SUPPORT. `vrel`, LANE_GRANT and `fin`: lanes given up and passed on (R55, R59, R60, R207, R237). -/
namespace Sys2Proof.Machine

/-! ### Lanes given up (R59, R237) -/

/-- The context without lanes. -/
def withoutLanes (v : Vlc) : Vlc := { v with lanes := false, vl := 0, vlGrant := 0, v := [], k := [], vempty := [] }

theorem getVlc_releaseLanes_same (n : Nat) (s : State) : getVlc (releaseLanes n s) n = withoutLanes (getVlc s n) := by
  rw [releaseLanes, getVlc_updVlc_same, getVlc_updCore, endClaim, getVlc_updVault, withoutLanes]

theorem getVlc_releaseLanes_other {n m : Nat} (h : m ≠ n) (s : State) : getVlc (releaseLanes n s) m = getVlc s m := by
  rw [releaseLanes, getVlc_updVlc_other _ _ h, getVlc_updCore, endClaim, getVlc_updVault]

/-- The lanes of the core are free, or another VLC's. -/
theorem releaseLanes_holder (n : Nat) (s : State) : (getCore (releaseLanes n s) (n / 4)).holder ≠ some n := by
  have h : getCore (releaseLanes n s) (n / 4) = (fun c : Core => if c.holder = some n then { c with holder := none } else c) (getCore s (n / 4)) := by
    rw [releaseLanes, getCore_updVlc, coreOf, getCore_updCore_same, endClaim, getCore_updVault]
  rw [h]
  dsimp only
  split_ifs with hh
  · exact nofun
  · exact hh

/-- The slice is unclaimed, or another VLC's. -/
theorem releaseLanes_claim (n : Nat) (s : State) : (getVault (releaseLanes n s) (n / 8)).slice.holder ≠ some n := by
  have h : getVault (releaseLanes n s) (n / 8) = (fun v : Vault => if v.slice.holder = some n then { v with slice := { queue := v.slice.queue } } else v) (getVault s (n / 8)) := by
    rw [releaseLanes, getVault_updVlc, getVault_updCore, endClaim, vaultOf, getVault_updVault_same]
  rw [h]
  dsimp only
  split_ifs with hh
  · exact nofun
  · exact hh

@[simp] theorem releaseLanes_mem (n : Nat) (s : State) : (releaseLanes n s).mem = s.mem := by
  simp only [releaseLanes, endClaim, updVlc_mem, updCore_mem, updVault_mem]

@[simp] theorem releaseLanes_cur (n : Nat) (s : State) : (releaseLanes n s).cur = s.cur := by
  simp only [releaseLanes, endClaim, updVlc_cur, updCore_cur, updVault_cur]

@[simp] theorem releaseLanes_ops (n : Nat) (s : State) : (releaseLanes n s).ops = s.ops := by
  simp only [releaseLanes, endClaim, updVlc_ops, updCore_ops, updVault_ops]

/-- Words fetched ahead are discarded: of the context only their list changes. -/
theorem getVlc_discardAhead_same (n : Nat) (s : State) : getVlc (discardAhead n s) n = { getVlc s n with ahead := [] } := by
  rw [getVlc, (discardAhead_spec n s).2.2]
  split_ifs with h
  · have heta : getVlc s n = { getVlc s n with ahead := (getVlc s n).ahead } := rfl
    rw [List.isEmpty_iff.1 h] at heta
    exact heta
  · exact getVlc_updVlc_same s n _

/-- What the discarding of words fetched ahead leaves as it was. -/
theorem discardAhead_kept (n : Nat) (s : State) : (discardAhead n s).cur = s.cur ∧ (discardAhead n s).locks = s.locks ∧ (discardAhead n s).cores = s.cores ∧
    (discardAhead n s).vaults = s.vaults ∧ (discardAhead n s).ops = s.ops := by
  have h := (discardAhead_spec n s).1
  have hcur := congrArg State.cur h
  have hlocks := congrArg State.locks h
  have hcores := congrArg State.cores h
  have hvaults := congrArg State.vaults h
  have hops := congrArg State.ops h
  exact ⟨hcur, hlocks, hcores, hvaults, hops⟩

/-! ### LANE_GRANT (R55) -/

/-- Free lanes pass to the VLC at the head of the core's queue. -/
theorem laneGrant_takes {s : State} {n : Nat} {q : List Nat} (hh : (getCore s (n / 4)).holder = none) (hq : (getCore s (n / 4)).queue = n :: q)
    (hr : (getVlc s n).status ≠ .restoring) : exec (.laneGrant (n / 4)) s = .next (takeLanes n s) := by
  show execLaneGrant (n / 4) s = _
  simp only [execLaneGrant, hh, hq, if_neg hr]

/-! ### `fin` (R60) -/

/-- The lanes, the claim and the locks of VLC `cur` go (R60). -/
def giveUpAll (s : State) : State := { releaseLanes s.cur s with locks := s.locks.filter (fun l => l.vlc != s.cur) }

theorem fin_ends {s : State} (hc : CanIssue s [] 0) (ho : s.me.sopen = false) (hh : s.me.hnd = false) (hb : vecBusy s s.cur = false) (he : s.me.empty = 0)
    (hcmd : ∀ c ∈ s.cmds, c.vlc ≠ s.cur) :
    exec .fin s = .next (updMe (fun v => { v with status := .finishing, cost := v.cost + 1 }) (discardAhead s.cur (giveUpAll s))) := by
  refine congrArg Host.Outcome.next ((issue_can (srcs := []) _ hc (by rw [ho, hh]; rfl)).trans ?_)
  have hcmds : s.cmds.any (fun c => c.vlc == s.cur) = false := by simpa using hcmd
  rw [hb, he, hcmds]; rfl

/-- Settles O18. -/
theorem lanesPass : Obligations.LanesPass := by
  unfold Obligations.LanesPass
  refine ⟨fun s => ⟨fun hc ho hh hb => ?_, fun hm hc ho => ?_, fun n q hfree hq hr => ?_⟩, fun s hc => ⟨fun ho hh hb he hcmd => ?_, fun hm ho => ?_⟩⟩
  · have hi : exec .vrel s = .next (advance (releaseLanes s.cur s)) := by
      refine congrArg Host.Outcome.next ((issue_can (srcs := []) _ hc (by rw [ho, hh]; rfl)).trans ?_)
      rw [hb, if_neg Bool.false_ne_true]
    refine ⟨_, hi, ?_, ?_, ?_, ?_, fun m hm => ?_⟩
    · have hme : (releaseLanes s.cur s).me = withoutLanes s.me := getVlc_releaseLanes_same s.cur s
      rw [advance, me_updMe, hme]; rfl
    · rw [getCore_advance]; exact releaseLanes_holder s.cur s
    · rw [getVault_advance]; exact releaseLanes_claim s.cur s
    · rw [advance_mem, releaseLanes_mem]
    · rw [advance, getVlc_updMe_other (releaseLanes s.cur s) _ hm, getVlc_releaseLanes_other hm]
  · exact traps_of_raise hm (by decide) (congrArg Host.Outcome.next (issue_refused _ hc.1 (by rw [ho]; rfl)))
  · have hv : getVlc (takeLanes n s) n = { getVlc s n with lanes := true, v := [], k := [], vempty := [], wait := .none } := by
      rw [takeLanes, getVlc_updCore, getVlc_updVlc_same]
    refine ⟨_, laneGrant_takes hfree hq hr, ?_, ?_, ?_, ?_, ?_, takeLanes_mem .., fun m hm => ?_⟩
    · rw [takeLanes, coreOf, getCore_updCore_same]
    · rw [hv]; exact ⟨rfl, rfl, rfl, rfl⟩
    · rw [hv]
    · rw [hv]
    · rw [hv]
    · rw [takeLanes, getVlc_updCore, getVlc_updVlc_other _ _ hm]
  · have hi := fin_ends hc ho hh hb he hcmd
    obtain ⟨hcur, hlocks, hcores, hvaults, hops⟩ := discardAhead_kept s.cur (giveUpAll s)
    have hcur' : (discardAhead s.cur (giveUpAll s)).cur = s.cur := hcur.trans (releaseLanes_cur s.cur s)
    have hme : (discardAhead s.cur (giveUpAll s)).me = { withoutLanes s.me with ahead := [] } := by
      rw [State.me, hcur', getVlc_discardAhead_same]
      exact congrArg (fun v : Vlc => { v with ahead := [] }) (getVlc_releaseLanes_same s.cur s)
    refine ⟨_, hi, ?_, ?_, ?_, ?_, fun l => ?_, ?_, ?_, ?_, ?_, fun m hm => ?_⟩
    · rw [me_updMe]
    · rw [me_updMe, hme]; rfl
    · rw [me_updMe, hme]; rfl
    · rw [me_updMe, hme]; rfl
    · rw [updMe_locks, hlocks, giveUpAll, List.mem_filter, bne_iff_ne]
    · rw [getCore_updMe, getCore, hcores]; exact releaseLanes_holder s.cur s
    · rw [getVault_updMe, getVault, hvaults]; exact releaseLanes_claim s.cur s
    · rw [updMe_mem, (discardAhead_parts ..).1]; exact releaseLanes_mem s.cur s
    · rw [updMe_ops, hops]; exact releaseLanes_ops s.cur s
    · rw [getVlc_updMe_other _ _ (by rw [hcur']; exact hm), (discardAhead_parts ..).2.2.2 m hm]
      exact getVlc_releaseLanes_other hm s
  · exact traps_of_raise hm (by decide) (congrArg Host.Outcome.next (issue_refused _ hc.1 (by rw [ho]; rfl)))

end Sys2Proof.Machine
end

section
/-! SUPPORT. What the base die changes as it serves an access: memory, check bits, unsealed rows, and what it notes of them; and nothing of contexts, cores, accesses in
flight or launches (R14, R75, R266, R376, R390, R391). -/
namespace Sys2Proof.Machine

/-- Only memory with its check bits and unsealed rows, and what the base die notes as it serves an access, differ. -/
structure DieOnly (s t : State) : Prop where
  rest : { t with mem := s.mem, ecc := s.ecc, vaults := s.vaults, cmds := s.cmds, repair := s.repair, mgmt := s.mgmt, out := s.out, tlb := s.tlb } = s
  vault : ∀ v, { getVault t v with unsealed := (getVault s v).unsealed } = getVault s v
  lost : t.repair.lost = s.repair.lost

namespace DieOnly

theorem refl (s : State) : DieOnly s s := ⟨rfl, fun _ => rfl, rfl⟩

theorem trans {s t u : State} (h : DieOnly s t) (k : DieOnly t u) : DieOnly s u where
  rest := by
    have h1 := congrArg (fun x : State => { x with mem := s.mem, ecc := s.ecc, vaults := s.vaults, cmds := s.cmds, repair := s.repair, mgmt := s.mgmt, out := s.out, tlb := s.tlb }) k.rest
    exact h1.trans h.rest
  vault v := by
    have h1 := congrArg (fun x : Vault => { x with unsealed := (getVault s v).unsealed }) (k.vault v)
    exact h1.trans (h.vault v)
  lost := k.lost.trans h.lost

section
variable {s t : State} (h : DieOnly s t)
include h

theorem cur : t.cur = s.cur := by have e := congrArg State.cur h.rest; exact e
theorem cyc : t.cyc = s.cyc := by have e := congrArg State.cyc h.rest; exact e
theorem nextId : t.nextId = s.nextId := by have e := congrArg State.nextId h.rest; exact e
theorem vlcs : t.vlcs = s.vlcs := by have e := congrArg State.vlcs h.rest; exact e
theorem cores : t.cores = s.cores := by have e := congrArg State.cores h.rest; exact e
theorem net : t.net = s.net := by have e := congrArg State.net h.rest; exact e
theorem fills : t.fills = s.fills := by have e := congrArg State.fills h.rest; exact e
theorem vis : t.vis = s.vis := by have e := congrArg State.vis h.rest; exact e
theorem launches : t.launches = s.launches := by have e := congrArg State.launches h.rest; exact e
theorem sched : t.sched = s.sched := by have e := congrArg State.sched h.rest; exact e
theorem tiles : t.tiles = s.tiles := by have e := congrArg State.tiles h.rest; exact e
theorem toks : t.toks = s.toks := by have e := congrArg State.toks h.rest; exact e

theorem getVlc_eq (n : Nat) : getVlc t n = getVlc s n := by rw [getVlc, h.vlcs, getVlc]
theorem me_eq : t.me = s.me := by rw [State.me, h.cur, h.getVlc_eq, State.me]
theorem rq (v : Nat) : (getVault t v).rq = (getVault s v).rq := by have e := congrArg Vault.rq (h.vault v); exact e

/-- A VLC is as busy as it was. -/
theorem vecBusy_eq (n : Nat) : vecBusy t n = vecBusy s n := by
  rw [vecBusy, vecBusy, viqOf, viqOf, rqOf, rqOf, gathOf, gathOf, getCore, h.cores, h.rq, h.getVlc_eq, h.fills, getCore]

theorem mayTrap (hm : MayTrap s) : MayTrap t := ⟨by rw [h.me_eq]; exact hm.1, by rw [h.me_eq]; exact hm.2.1, by rw [h.vecBusy_eq, h.cur]; exact hm.2.2⟩

end

/-- An update that leaves the vaults alone. -/
theorem of_vaults {s t : State} (hv : t.vaults = s.vaults)
    (h : { t with mem := s.mem, ecc := s.ecc, vaults := s.vaults, cmds := s.cmds, repair := s.repair, mgmt := s.mgmt, out := s.out, tlb := s.tlb } = s)
    (hl : t.repair.lost = s.repair.lost := by rfl) : DieOnly s t :=
  ⟨h, fun v => by rw [getVault, hv, getVault], hl⟩

theorem foldl {α : Type} {f : State → α → State} (h : ∀ s x, DieOnly s (f s x)) : ∀ (l : List α) (s : State), DieOnly s (l.foldl f s)
  | [], s => refl s
  | x :: l, s => (h s x).trans (foldl h l (f s x))

end DieOnly

/-! ### The parts of an access -/

theorem noteUnsealed_dieOnly (pa : Nat) (o n : Row) (s : State) : DieOnly s (noteUnsealed pa o n s) where
  rest := by simp only [noteUnsealed, updVault]
  vault v := by
    by_cases hv : v = paMVault pa
    · rw [noteUnsealed, hv, getVault_updVault_same]
    · rw [noteUnsealed, getVault_updVault_other _ _ hv]
  lost := rfl

theorem mem_dieOnly (m : List Host.Cell) (s : State) : DieOnly s { s with mem := m } := .of_vaults rfl rfl

/-- What only notes, corrects and counts: no word becomes uncorrectable, and no row is unsealed (R390). -/
structure Mends (s t : State) : Prop extends DieOnly s t where
  vaults : t.vaults = s.vaults
  ecc : ∀ k, tget .good t.ecc k = .bad → tget .good s.ecc k = .bad

namespace Mends

theorem refl (s : State) : Mends s s := ⟨.refl s, rfl, fun _ h => h⟩

theorem trans {s t u : State} (h : Mends s t) (k : Mends t u) : Mends s u :=
  ⟨h.toDieOnly.trans k.toDieOnly, k.vaults.trans h.vaults, fun x hx => h.ecc x (k.ecc x hx)⟩

theorem foldl {α : Type} {f : State → α → State} (h : ∀ s x, Mends s (f s x)) : ∀ (l : List α) (s : State), Mends s (l.foldl f s)
  | [], s => refl s
  | x :: l, s => (h s x).trans (foldl h l (f s x))

/-- An update that leaves memory, vaults and check bits alone. -/
theorem of_ecc {s t : State} (he : t.ecc = s.ecc) (hv : t.vaults = s.vaults)
    (h : { t with mem := s.mem, ecc := s.ecc, vaults := s.vaults, cmds := s.cmds, repair := s.repair, mgmt := s.mgmt, out := s.out, tlb := s.tlb } = s)
    (hl : t.repair.lost = s.repair.lost := by rfl) : Mends s t := ⟨.of_vaults hv h hl, hv, fun k hk => by rwa [he] at hk⟩

/-- No uncorrectable word is met where none was. -/
theorem ueIn_eq {s t : State} (h : Mends s t) {pa n : Nat} (hs : ueIn s pa n = false) : ueIn t pa n = false := by
  rw [ueIn, Bool.or_eq_false_iff, List.any_eq_false] at hs ⊢
  obtain ⟨hlost, hwords⟩ := hs
  refine ⟨by rw [isLost, h.lost]; exact hlost, fun i hi hbad => hwords i hi ?_⟩
  have hrow : rowUnsealed t = rowUnsealed s := by
    funext a
    rw [rowUnsealed, rowUnsealed, unsealedOf, unsealedOf, getVault, getVault, h.vaults]
  rw [beq_iff_eq, eccAt, hrow] at hbad
  rw [beq_iff_eq, eccAt]
  split at hbad
  · cases hbad
  · next hu => rw [if_neg hu]; exact h.ecc _ hbad

end Mends

theorem setGood_mends (pa : Nat) (s : State) : Mends s (setEcc pa .good s) where
  toDieOnly := .of_vaults rfl (by simp only [setEcc])
  vaults := rfl
  ecc k hk := by
    rw [setEcc] at hk
    dsimp only at hk
    rw [tget_tset] at hk
    split at hk
    · cases hk
    · exact hk

theorem countCe_mends (k d lo n : Nat) (s : State) : Mends s (countCe k d lo n s) := by
  unfold countCe
  dsimp only
  split_ifs
  · exact .refl s
  · exact .of_ecc rfl rfl rfl

theorem noteCorrected_mends (pa : Nat) (s : State) : Mends s (noteCorrected pa s) := by
  unfold noteCorrected
  dsimp only
  split_ifs
  · exact (countCe_mends (paStack pa) 0 0 32 s).trans (.of_ecc rfl rfl rfl)
  · exact countCe_mends ..

theorem noteServed_mends (pa : Nat) (s : State) : Mends s (noteServed pa s) := by
  unfold noteServed
  split
  · exact .of_ecc rfl rfl rfl
  · split_ifs
    · exact .of_ecc rfl rfl (by simp only [payRefresh])
    · exact .refl s

theorem noteWalked_mends (pa : Nat) (s : State) : Mends s (noteWalked pa s) := by
  unfold noteWalked
  split
  · split_ifs
    · exact noteServed_mends ..
    · exact .of_ecc rfl rfl rfl
  · exact noteServed_mends ..

theorem correctIn_mends (pa n : Nat) (s : State) : Mends s (correctIn pa n s) := by
  refine .foldl (fun s i => ?_) _ s
  dsimp only
  split_ifs
  · exact (setGood_mends ..).trans (noteCorrected_mends ..)
  · exact .refl s

theorem elog_mends (a b c d e f g : Nat) (s : State) : Mends s (elog a b c d e f g s) := .of_ecc rfl rfl (by simp only [elog])

theorem logUe_mends (pa n agent : Nat) (s : State) : Mends s (logUe pa n agent s) := by
  refine .foldl (fun t a => ?_) _ s
  split_ifs
  · exact elog_mends ..
  · exact .refl t

theorem noteWords_mends (l : List Nat) (s : State) : Mends s (noteWords l s) := by
  refine .foldl (fun t a => ?_) _ s
  split_ifs
  · exact logUe_mends ..
  · exact (correctIn_mends ..).trans (noteWalked_mends ..)

theorem noteWords_dieOnly (l : List Nat) (s : State) : DieOnly s (noteWords l s) := (noteWords_mends l s).toDieOnly

theorem takeWalk_mends (l : List Nat) (e : Option TlbE) (s : State) : Mends s (takeWalk l e s) := by
  unfold takeWalk holdTlb
  split_ifs
  · exact .refl s
  · split
    · exact (noteWords_mends l s).trans (.of_ecc rfl rfl rfl)
    · exact noteWords_mends l s

theorem notePin_mends (p : Passed) (s : State) : Mends s (notePin p s) := by
  have h := takeWalk_mends p.walk p.made s
  unfold notePin
  dsimp only
  split
  · split_ifs
    · exact h.trans (.of_ecc rfl rfl rfl)
    · exact h
  · exact h

theorem notePin_dieOnly (p : Passed) (s : State) : DieOnly s (notePin p s) := (notePin_mends p s).toDieOnly

theorem notePinVa_mends (w : Who) (va : Nat) (s : State) : Mends s (notePinVa w va s) := by
  unfold notePinVa
  split
  · exact notePin_mends ..
  · exact noteWords_mends ..

theorem writeMem_dieOnly (pa n v : Nat) (s : State) : DieOnly s (writeMem pa n v s) := by
  have h := (mem_dieOnly (mwrite s.mem pa n v) s).trans (noteServed_mends pa { s with mem := mwrite s.mem pa n v }).toDieOnly
  unfold writeMem
  by_cases hu : rowUnsealed s pa = true
  · rw [if_pos hu]
    exact h.trans (noteUnsealed_dieOnly ..)
  · rw [if_neg hu]
    have hgood := h.trans (setGood_mends pa _).toDieOnly
    dsimp only
    split
    · exact h
    · split_ifs
      · exact hgood
      · exact hgood.trans ((noteCorrected_mends ..).toDieOnly)
    · split_ifs
      · exact hgood
      · exact h

theorem writeWide_dieOnly (pa n v : Nat) (s : State) : DieOnly s (writeWide pa n v s) := .foldl (fun _ _ => writeMem_dieOnly ..) _ s

/-! ### Bytes of a write -/

/-- The bytes that a write of `n` bytes touches: whole words where it has more than eight. -/
def reach (n : Nat) : Nat := if n ≤ 8 then n else (n + 7) / 8 * 8

theorem writeWide_mget_out {pa n a : Nat} (v : Nat) (s : State) (h : a < pa ∨ pa + reach n ≤ a) : mget (writeWide pa n v s).mem a = mget s.mem a := by
  have one (i : Nat) (hi : i < cdiv n 8) (t : State) : mget (writeMem (pa + 8 * i) (min 8 n) (fld v (64 * i) (8 * min 8 n)) t).mem a = mget t.mem a := by
    rw [(writeMem_mem ..).1]
    refine mget_mwrite_out _ _ ?_
    simp only [cdiv] at hi
    simp only [reach] at h
    split at h <;> omega
  have fold : ∀ (l : List Nat), (∀ i ∈ l, i < cdiv n 8) → ∀ t : State,
      mget (l.foldl (fun s i => writeMem (pa + 8 * i) (min 8 n) (fld v (64 * i) (8 * min 8 n)) s) t).mem a = mget t.mem a := by
    intro l
    induction l with
    | nil => exact fun _ _ => rfl
    | cons i l ih => exact fun hl t => (ih (fun j hj => hl j (List.mem_cons_of_mem i hj)) _).trans (one i (hl i List.mem_cons_self) t)
  exact fold _ (fun i hi => List.mem_range.1 hi) s

/-- A store of 1, 2, 4 or 8 bytes is one write (R112). -/
theorem writeWide_eq {n : Nat} (hn : n ∈ [1, 2, 4, 8]) (pa v : Nat) (s : State) : writeWide pa n v s = writeMem pa n (v % 2 ^ (8 * n)) s := by
  simp only [List.mem_cons, List.not_mem_nil, or_false] at hn
  rcases hn with rfl | rfl | rfl | rfl <;> simp [writeWide, cdiv, fld]

theorem mread_writeWide {n : Nat} (hn : n ∈ [1, 2, 4, 8]) (pa v : Nat) (s : State) : mread (writeWide pa n v s).mem pa n = v % 2 ^ (8 * n) := by
  rw [writeWide_eq hn, (writeMem_mem ..).1, mread_mwrite, show 256 = 2 ^ 8 from rfl, ← Nat.pow_mul, Nat.mod_mod]

end Sys2Proof.Machine
end

section
/-! SUPPORT. Stores that perform from a strip store buffer: the flush, what it leaves alone, and the bytes it writes (R57, R89, R115). -/
namespace Sys2Proof.Machine

/-! ### Stores that perform or leave -/

/-- Only what the base die changes, and the accesses in flight, differ. -/
def StoresOnly (s t : State) : Prop := DieOnly s { t with net := s.net, nextId := s.nextId }

namespace StoresOnly

theorem refl (s : State) : StoresOnly s s := DieOnly.refl s

theorem of_dieOnly {s t : State} (h : DieOnly s t) : StoresOnly s t where
  rest := by
    have h1 := congrArg (fun x : State => { x with net := s.net, nextId := s.nextId }) h.rest
    exact h1
  vault := h.vault
  lost := h.lost

theorem trans {s t u : State} (h : StoresOnly s t) (k : StoresOnly t u) : StoresOnly s u where
  rest := by
    have h1 := congrArg (fun x : State => { x with mem := s.mem, ecc := s.ecc, vaults := s.vaults, cmds := s.cmds, repair := s.repair, mgmt := s.mgmt, out := s.out, tlb := s.tlb,
                                                   net := s.net, nextId := s.nextId }) k.rest
    exact h1.trans h.rest
  vault v := by
    have h1 := congrArg (fun x : Vault => { x with unsealed := (getVault s v).unsealed }) (k.vault v)
    exact h1.trans (h.vault v)
  lost := k.lost.trans h.lost

theorem foldl {α : Type} {f : State → α → State} (h : ∀ s x, StoresOnly s (f s x)) : ∀ (l : List α) (s : State), StoresOnly s (l.foldl f s)
  | [], s => refl s
  | x :: l, s => (h s x).trans (foldl h l (f s x))

section
variable {s t : State} (h : StoresOnly s t)
include h

theorem dieOnly : DieOnly s { t with net := s.net, nextId := s.nextId } := h

theorem cur : t.cur = s.cur := h.dieOnly.cur
theorem cores : t.cores = s.cores := h.dieOnly.cores
theorem sched : t.sched = s.sched := h.dieOnly.sched
theorem getVlc_eq (n : Nat) : getVlc t n = getVlc s n := h.dieOnly.getVlc_eq n
theorem me_eq : t.me = s.me := h.dieOnly.me_eq
theorem rq (v : Nat) : (getVault t v).rq = (getVault s v).rq := h.dieOnly.rq v
theorem vecBusy_eq (n : Nat) : vecBusy t n = vecBusy s n := h.dieOnly.vecBusy_eq n

end

end StoresOnly

theorem sendNet_storesOnly (a : Access) (s : State) : StoresOnly s (sendNet a s) := .of_vaults rfl rfl

theorem performStore_storesOnly (n : Nat) (b : Buf) (s : State) : StoresOnly s (performStore n b s) := by
  unfold performStore
  split
  · exact .of_dieOnly (writeWide_dieOnly ..)
  · exact sendNet_storesOnly ..

theorem flushStore_storesOnly (n : Nat) (b : Buf) (s : State) : StoresOnly s (flushStore n b s) := by
  unfold flushStore
  split
  · split_ifs
    · exact sendNet_storesOnly ..
    · exact performStore_storesOnly ..
  · exact sendNet_storesOnly ..

/-! ### Bytes of stores -/

/-- A byte that no store of a list reaches in this module. -/
def OffStores (l : List Buf) (x : Nat) : Prop := ∀ b ∈ l, ∀ pa, b.tgt = .loc pa → x < pa ∨ pa + reach b.size ≤ x

theorem performStore_mget {n x : Nat} {b : Buf} (h : ∀ pa, b.tgt = .loc pa → x < pa ∨ pa + reach b.size ≤ x) (s : State) :
    mget (performStore n b s).mem x = mget s.mem x := by
  unfold performStore
  split
  · next pa hb => exact writeWide_mget_out _ s (h pa hb)
  · rfl

theorem flushStore_mget {n x : Nat} {b : Buf} (h : ∀ pa, b.tgt = .loc pa → x < pa ∨ pa + reach b.size ≤ x) (s : State) :
    mget (flushStore n b s).mem x = mget s.mem x := by
  unfold flushStore
  split
  · split_ifs
    · rfl
    · exact performStore_mget h s
  · rfl

/-- Stores one after another write no byte that none of them reaches. -/
theorem foldl_mget {f : State → Buf → State} {x : Nat} (hf : ∀ (b : Buf) (s : State), (∀ pa, b.tgt = .loc pa → x < pa ∨ pa + reach b.size ≤ x) → mget (f s b).mem x = mget s.mem x) :
    ∀ (l : List Buf), OffStores l x → ∀ s : State, mget (l.foldl f s).mem x = mget s.mem x
  | [], _, _ => rfl
  | b :: l, h, s => (foldl_mget hf l (fun c hc => h c (List.mem_cons_of_mem b hc)) (f s b)).trans (hf b s (h b List.mem_cons_self))

/-! ### The flush (R89, R115) -/

/-- The buffered stores of VLC `n` perform in order. -/
def flushed (n : Nat) (s : State) : State := (getVlc s n).sbuf.foldl (fun s b => flushStore n b s) s

theorem flushed_storesOnly (n : Nat) (s : State) : StoresOnly s (flushed n s) := .foldl (fun _ _ => flushStore_storesOnly ..) _ s

theorem flushed_mget {n x : Nat} {s : State} (h : OffStores (getVlc s n).sbuf x) : mget (flushed n s).mem x = mget s.mem x :=
  foldl_mget (fun _ s hb => flushStore_mget hb s) _ h s

theorem flushBuf_eq (n : Nat) (s : State) : flushBuf n s = updVlc n (fun v => { v with sbuf := [], early := [] }) (flushed n s) := rfl

/-- No store of a flush of VLC `n` is in flight. -/
def NoneSeqd (n : Nat) (s : State) : Prop := ∀ a ∈ s.net, a.vlc = n → a.seqd = false

theorem flushStore_of_local {n pa : Nat} {b : Buf} {s : State} (hs : NoneSeqd n s) (hb : b.tgt = .loc pa) : flushStore n b s = writeWide pa b.size b.data s := by
  have hany : s.net.any (fun a => a.vlc == n && a.seqd) = false := by
    rw [List.any_eq_false]
    intro a ha h
    rw [Bool.and_eq_true, beq_iff_eq] at h
    rw [hs a ha h.1] at h
    exact Bool.false_ne_true h.2
  simp only [flushStore, performStore, hb, hany, Bool.false_eq_true, if_false]

theorem flushStores_noneSeqd {n : Nat} : ∀ (l : List Buf), (∀ b ∈ l, ∃ p, b.tgt = .loc p) → ∀ s : State, NoneSeqd n s → NoneSeqd n (l.foldl (fun s b => flushStore n b s) s)
  | [], _, _, h => h
  | b :: l, hl, s, h => by
    obtain ⟨p, hp⟩ := hl b List.mem_cons_self
    rw [List.foldl_cons, flushStore_of_local h hp]
    refine flushStores_noneSeqd l (fun c hc => hl c (List.mem_cons_of_mem b hc)) _ ?_
    rw [NoneSeqd, (writeWide_dieOnly ..).net]
    exact h

/-- The last store of a buffer that lies in this module stands in memory after the flush. -/
theorem mread_flushed {n pa : Nat} {s : State} {l : List Buf} {b : Buf} (hbuf : (getVlc s n).sbuf = l ++ [b]) (hl : ∀ x ∈ l, ∃ p, x.tgt = .loc p) (hs : NoneSeqd n s)
    (hb : b.tgt = .loc pa) (hsize : b.size ∈ [1, 2, 4, 8]) : mread (flushed n s).mem pa b.size = b.data % 2 ^ (8 * b.size) := by
  rw [flushed, hbuf, List.foldl_append, List.foldl_cons, List.foldl_nil, flushStore_of_local (flushStores_noneSeqd l hl s hs) hb]
  exact mread_writeWide hsize ..

end Sys2Proof.Machine
end

section
/-! SUPPORT. `vstrip`: the strip that it closes, and NO_PROGRESS (R58, R190, R208, R350). -/
namespace Sys2Proof.Machine

/-- What is left of SC after a strip (R58). -/
def scLeft (v : Vlc) : Nat := (v.scPend.getD v.sc).toNat - v.vl

/-- Where a `vstrip` goes: to its target while SC is left (R208). -/
def stripTarget (v : Vlc) (off : BitVec 16) : Word := if scLeft v > 0 then v.pc + BitVec.ofInt 64 (off.toInt * 4) else v.pc + 4

/-- Whether a strip has made progress (R58). -/
def progressed (v : Vlc) : Bool := decide (scLeft v = 0) || decide (scLeft v < v.prc.toNat)

/-- The context behind a strip that closes, but for its pc and charge (R58). -/
def closeStrip (u v : Vlc) : Vlc :=
  { v with sb := v.sb + wN v.vl, sc := wN (scLeft u), scPend := none, sopen := false, rwd := false, irrev := false, np := if progressed u then false else v.np }

/-- The state in which the strip has closed, before the pc moves or NO_PROGRESS is raised. -/
def stripClosed (s : State) : State := updMe (closeStrip s.me) (flushBuf s.cur s)

/-- The end of a `vstrip` that has made progress, or is the first that has not. -/
def endStrip (off : BitVec 16) (u v : Vlc) : Vlc := { v with np := !progressed u, pc := stripTarget u off, bskip := v.skipOn, cost := v.cost + 1 }

section
variable {s : State} {off : BitVec 16} (hc : CanIssue s [] 0) (hl : s.me.lanes = true) (ho : s.me.sopen = true) (hh : s.me.hnd = false)
  (hb : vecBusy s s.cur = false) (hld : loadsOut s s.cur = false) (hf : mayFlush s s.cur = true)
include hc hl ho hh hb hld hf

/-- What `vstrip` runs once its flush may be made. -/
theorem vstrip_closes : exec (.vstrip off) s = .next (
    if !progressed s.me && s.me.np then raiseAt { code := cNO_PROGRESS, origin := s.me.pc.toNat } (stripTarget s.me off).toNat (stripClosed s)
    else updMe (endStrip off s.me) (stripClosed s)) := by
  refine congrArg Host.Outcome.next ((issue_can (srcs := []) _ hc (by rw [hl, ho, hh]; rfl)).trans ?_)
  have hnew : (if s.me.vl ≥ (s.me.scPend.getD s.me.sc).toNat then 0 else (s.me.scPend.getD s.me.sc).toNat - s.me.vl) = scLeft s.me := by
    rw [scLeft]; split <;> omega
  rw [hb, hld, hf]
  simp only [hnew]
  rfl

end

/-! ### The state behind the flush -/

theorem flushBuf_cur (n : Nat) (s : State) : (flushBuf n s).cur = s.cur := by rw [flushBuf_eq, updVlc_cur, (flushed_storesOnly n s).cur]

theorem flushBuf_mem (n : Nat) (s : State) : (flushBuf n s).mem = (flushed n s).mem := by rw [flushBuf_eq, updVlc_mem]

theorem getVlc_flushBuf_same (n : Nat) (s : State) : getVlc (flushBuf n s) n = { getVlc s n with sbuf := [], early := [] } := by
  rw [flushBuf_eq, getVlc_updVlc_same, (flushed_storesOnly n s).getVlc_eq]

theorem getVlc_flushBuf_other {n m : Nat} (h : m ≠ n) (s : State) : getVlc (flushBuf n s) m = getVlc s m := by
  rw [flushBuf_eq, getVlc_updVlc_other _ _ h, (flushed_storesOnly n s).getVlc_eq]

theorem me_flushBuf (s : State) : (flushBuf s.cur s).me = { s.me with sbuf := [], early := [] } := by
  rw [State.me, flushBuf_cur, getVlc_flushBuf_same, State.me]

/-- A change of a context that keeps its gather-atomics leaves every VLC as busy as it was. -/
theorem vecBusy_updVlc {n : Nat} {f : Vlc → Vlc} (hf : ∀ v, (f v).gath = v.gath) (s : State) (m : Nat) : vecBusy (updVlc n f s) m = vecBusy s m := by
  have hg : gathOf (updVlc n f s) m = gathOf s m := by
    by_cases hm : m = n
    · rw [gathOf, gathOf, hm, getVlc_updVlc_same, hf]
    · rw [gathOf, gathOf, getVlc_updVlc_other _ _ hm]
  rw [vecBusy, vecBusy, hg]; rfl

theorem vecBusy_flushBuf (n : Nat) (s : State) (m : Nat) : vecBusy (flushBuf n s) m = vecBusy s m := by
  rw [flushBuf_eq]
  exact (vecBusy_updVlc (by exact fun _ => rfl) _ m).trans ((flushed_storesOnly n s).vecBusy_eq m)

/-! ### The state behind `vstrip` -/

theorem stripClosed_cur (s : State) : (stripClosed s).cur = s.cur := by rw [stripClosed, updMe_cur, flushBuf_cur]

theorem stripClosed_me (s : State) : (stripClosed s).me = closeStrip s.me { s.me with sbuf := [], early := [] } := by
  rw [stripClosed, me_updMe, me_flushBuf]

theorem stripClosed_mem (s : State) : (stripClosed s).mem = (flushed s.cur s).mem := by rw [stripClosed, updMe_mem, flushBuf_mem]

theorem getVlc_stripClosed_other {m : Nat} {s : State} (h : m ≠ s.cur) : getVlc (stripClosed s) m = getVlc s m := by
  rw [stripClosed, getVlc_updMe_other _ _ (by rw [flushBuf_cur]; exact h), getVlc_flushBuf_other h]

theorem vecBusy_stripClosed (s : State) (m : Nat) : vecBusy (stripClosed s) m = vecBusy s m := by
  rw [stripClosed, updMe]
  exact (vecBusy_updVlc (by exact fun _ => rfl) _ m).trans (vecBusy_flushBuf ..)

/-- Settles O19. -/
theorem stripCloses : Obligations.StripCloses := by
  unfold Obligations.StripCloses
  intro s off hc hl ho hh hb hld hf v sc new tgt progress Closed
  have hi := vstrip_closes (off := off) hc hl ho hh hb hld hf
  have hprog : progressed v = true ↔ progress := by
    rw [progressed, Bool.or_eq_true, decide_eq_true_eq, decide_eq_true_eq]; rfl
  have hme := stripClosed_me s
  refine ⟨fun hp => ?_, fun hp hnp ht => ?_⟩
  · have hgo : (!progressed s.me && s.me.np) = false := by
      rcases hp with hp | hp
      · rw [hprog.2 hp]; rfl
      · rw [show s.me.np = false from hp, Bool.and_false]
    rw [hgo, if_neg Bool.false_ne_true] at hi
    have ht : (updMe (endStrip off s.me) (stripClosed s)).me = endStrip off s.me (closeStrip s.me { s.me with sbuf := [], early := [] }) := by rw [me_updMe, hme]
    have hmem : (updMe (endStrip off s.me) (stripClosed s)).mem = (flushed s.cur s).mem := by rw [updMe_mem, stripClosed_mem]
    have hnp : (!progressed s.me) = decide (¬progress) := by
      cases hpr : progressed s.me <;> simp [← hprog, v, hpr]
    refine ⟨_, hi, ⟨?_, ?_, ?_, ?_, ?_, ?_, ?_, ?_, fun m hm => ?_⟩, ?_, ?_, fun l b pa hbuf hl hs hbt hsz _ => ?_, fun x hx => ?_⟩
    · rw [ht]; rfl
    · rw [ht]; rfl
    · rw [ht]; rfl
    · rw [ht]; rfl
    · rw [ht]; rfl
    · rw [ht]; rfl
    · rw [ht]; rfl
    · rw [ht]; rfl
    · rw [getVlc_updMe_other _ _ (by rw [stripClosed_cur]; exact hm), getVlc_stripClosed_other hm]
    · rw [ht]; exact hnp
    · rw [ht]; rfl
    · rw [hmem]; exact mread_flushed hbuf hl hs hbt hsz
    · rw [hmem]; exact flushed_mget hx
  · have hstop : (!progressed s.me && s.me.np) = true := by
      rw [show s.me.np = true from hnp, show progressed s.me = false by rw [← Bool.not_eq_true]; exact fun h => hp (hprog.1 h)]; rfl
    rw [hstop, if_pos rfl] at hi
    have hm : MayTrap (stripClosed s) := by
      refine ⟨?_, ?_, ?_⟩
      · rw [hme]; exact hh
      · rw [hme]; exact ht
      · rw [vecBusy_stripClosed, stripClosed_cur]; exact hb
    rw [raiseAt_of_mayTrap hm, stripClosed_cur] at hi
    have htook := enterTrap_took s.cur { code := cNO_PROGRESS, origin := s.me.pc.toNat } (stripTarget s.me off).toNat (stripClosed s) rfl
    have hframe := tookFrame_of_charged (enterTrap_frame s.cur { code := cNO_PROGRESS, origin := s.me.pc.toNat } (stripTarget s.me off).toNat
      (chargeFault s.cur { code := cNO_PROGRESS, origin := s.me.pc.toNat } (stripClosed s))).1
    generalize hu : enterTrap s.cur { code := cNO_PROGRESS, origin := s.me.pc.toNat } (stripTarget s.me off).toNat
      (chargeFault s.cur { code := cNO_PROGRESS, origin := s.me.pc.toNat } (stripClosed s)) = u at hi htook hframe
    have hcur : u.cur = s.cur := by rw [← hu, enterTrap_cur, chargeFault_cur, stripClosed_cur]
    have hbefore : getVlc (stripClosed s) s.cur = closeStrip s.me { s.me with sbuf := [], early := [] } := by rw [← hme, State.me, stripClosed_cur]
    have hafter : getVlc u s.cur = u.me := by rw [State.me, hcur]
    rw [hbefore, hafter] at htook
    obtain ⟨hpc, hhnd, hepc, hr0, hr1, -, -, hrest⟩ := htook
    refine ⟨u, hi, ⟨?_, ?_, ?_, ?_, ?_, ?_, ?_, ?_, fun m hm' => (hframe.1 m hm').trans (getVlc_stripClosed_other hm')⟩, ?_, hhnd, hpc, ?_, ?_, ?_⟩
    · rw [hrest]; rfl
    · rw [hrest]; rfl
    · rw [hrest]; rfl
    · rw [hrest]; rfl
    · rw [hrest]; rfl
    · rw [hrest]; rfl
    · rw [hrest]; rfl
    · rw [hrest]; rfl
    · rw [hrest]
      exact (if_neg fun h => hp (hprog.1 h)).trans hnp
    · rw [hepc, wN, BitVec.ofNat_toNat, BitVec.setWidth_eq]; rfl
    · rw [hr0]
      exact word0_of_scalar (reg := 0) (code := 19) (by decide) (by decide) s.me.pc.toNat 0
    · rw [hr1]
      exact (BitVec.ofNat_toNat ..).trans (BitVec.setWidth_eq ..)

end Sys2Proof.Machine
end

section
/-! SUPPORT. Scalar stores at issue: refused, sent, buffered, removed at once, or sent behind a full buffer (R57, R183, R360, R361). -/
namespace Sys2Proof.Machine

/-! ### What the notes of a walk leave alone -/

namespace DieOnly

section
variable {s t : State} (h : DieOnly s t)
include h

theorem regionCheck_eq : regionCheck t = regionCheck s := by
  have hshare : holdsShare t = holdsShare s := by
    funext agent key
    rw [holdsShare, holdsShare, h.toks]
  funext agent key e k fine
  rw [regionCheck, regionCheck, hshare]

theorem tokenCheck_eq : tokenCheck t = tokenCheck s := by
  have hreg : regionAt t = regionAt s := by
    funext pa
    rw [regionAt, regionAt, h.toks]
  funext agent pa k fine
  rw [tokenCheck, tokenCheck, hreg, h.regionCheck_eq]

theorem isLost_eq (pa : Nat) : isLost t pa = isLost s pa := by rw [isLost, isLost, h.lost]

end

end DieOnly

theorem notePin_mem (p : Passed) (s : State) : (notePin p s).mem = s.mem := (notePin_quiet p s).1

/-! ### An address that fails (R350, R360) -/

theorem aperture_error_lt {s : State} {vi va f : Nat} (h : aperture s vi va = .error f) : f < 256 := by
  unfold aperture at h
  dsimp only at h
  split at h
  · cases h; decide
  · cases h

theorem pageCheck_lt {s : State} {p : Page} {k : Want} {f : Nat} (h : pageCheck s p k = some f) : f < 256 := by
  unfold pageCheck at h
  split_ifs at h <;> cases h <;> decide

/-- The code of an address check fits the record (R347). -/
theorem addrCheck_error_lt {s : State} {w : Who} {va al f : Nat} {k : Want} (h : addrCheck s w va al k = .error f) : f < 256 := by
  unfold addrCheck at h
  split_ifs at h
  · cases h; decide
  · cases h; decide
  · exact aperture_error_lt h
  · split at h
    · cases h; decide
    · split at h
      · next hp => cases h; exact pageCheck_lt hp
      · cases h

/-- The fault of an address check is taken once the words of its walk are noted. -/
theorem trapsAddr_of_raiseAddr {s : State} {i : Instr} {f va : Nat} (hm : MayTrap s) (hf : f < 256) (hi : exec i s = .next (raiseAddr f va s)) : TrapsAddr i s va f := by
  unfold TrapsAddr
  unfold raiseAddr at hi
  change exec i s = .next (raise f va (if f = 2 then s else _)) at hi
  split_ifs at hi ⊢
  · exact trapsFrom_of_raise hm rfl rfl hf hi
  · have hd := noteWords_dieOnly (tableReads s (whoOf s s.cur).vi va) s
    exact trapsFrom_of_raise (hd.mayTrap hm) hd.cur hd.vlcs hf hi

/-! ### The access, and the place in the buffer, of a store -/

/-- The access of a scalar store of the low bytes of `data` (R183). -/
def storeAcc (s : State) (q : Passed) (va size data c : Nat) : Access :=
  { id := 0, vlc := s.cur, kind := .store, va := va, tgt := q.tgt, size := size, cls := c, dev := q.dev, cc := q.cc, data := data % 2 ^ (8 * size), origin := s.me.pc.toNat }

/-- The store as the strip store buffer keeps it (R57). -/
def storeBuf (s : State) (q : Passed) (va size data c : Nat) : Buf :=
  { id := s.nextId, tgt := q.tgt, va := va, size := size, data := data % 2 ^ (8 * size), cls := c, cc := q.cc, origin := s.me.pc.toNat }

section
variable {s : State} {q : Passed} {va size data c : Nat} (ha : addrCheck s (whoOf s s.cur) va size .write = .ok q) (hb : heldBack s s.cur c q size = false)
include ha hb

/-- Outside the buffer a store is sent. -/
theorem storeAt_sends (hbuf : (s.me.sopen && !s.me.sbfull && !q.dev) = false) :
    storeAt va size data c s = advance (sendAcc (storeAcc s q va size data c) (noteDev q s)) := by
  rw [storeAt, ha]
  simp only [storeSend, hb, hbuf, Bool.false_eq_true, if_false]
  rfl

/-- In a strip whose buffer has room a store enters it. -/
theorem storeAt_buffers (hbuf : (s.me.sopen && !s.me.sbfull && !q.dev) = true) (hroom : bufBytes s.me.sbuf + size ≤ 8192) :
    storeAt va size data c s = advance (bufferStore (storeBuf s q va size data c) (bump (notePin q s))) := by
  rw [storeAt, ha]
  simp only [storeSend, hb, hbuf, Bool.false_eq_true, if_false, if_true, if_neg (Nat.not_lt.2 hroom)]
  rfl

/-- A store that the buffer has no room for makes it perform, and is sent behind it. -/
theorem storeAt_overflows (hbuf : (s.me.sopen && !s.me.sbfull && !q.dev) = true) (hfull : bufBytes s.me.sbuf + size > 8192) (hf : mayFlush s s.cur = true) :
    storeAt va size data c s = advance (sendAcc (storeAcc s q va size data c) (stripFlush s.cur (notePin q s))) := by
  rw [storeAt, ha]
  simp only [storeSend, hb, hbuf, hf, Bool.false_eq_true, if_false, if_true, if_pos hfull]
  rfl

end

theorem storeForm_can {s : State} {r a : XReg} {p : BitVec 12} {size : Nat} (c : Option (BitVec 4)) (hc : CanIssue s [a.toNat, r.toNat] 0) :
    storeForm r a c p size s = storeAt (effAddr s a p size) size (s.me.rx r.toNat).toNat (classOf c s) s :=
  issue_can (srcs := [(a.toNat, false), (r.toNat, false)]) _ hc rfl

/-! ### A store that is sent -/

theorem sendAcc_net (a : Access) (s : State) : (sendAcc a s).net = s.net ++ [routed s { a with id := s.nextId, ser := s.nextId }] := rfl

theorem sendAcc_storesOnly (a : Access) (s : State) : StoresOnly s (sendAcc a s) := sendNet_storesOnly ..

theorem sendAcc_mem (a : Access) (s : State) : (sendAcc a s).mem = s.mem := rfl

/-- The access of a scalar store in flight. -/
def IsStore (s : State) (q : Passed) (size data c : Nat) (x : Access) : Prop :=
  x.vlc = s.cur ∧ x.kind = .store ∧ x.tgt = q.tgt ∧ x.size = size ∧ x.cls = c ∧ x.data = data % 2 ^ (8 * size)

theorem sendAcc_isStore (s : State) (q : Passed) (va size data c : Nat) (u : State) :
    ∃ x, (advance (sendAcc (storeAcc s q va size data c) u)).net = u.net ++ [x] ∧ IsStore s q size data c x := by
  refine ⟨_, sendAcc_net .., ?_⟩
  unfold routed
  split <;> exact ⟨rfl, rfl, rfl, rfl, rfl, rfl⟩

theorem finishes_issued {s t : State} (hcur : t.cur = s.cur) (hme : ∃ d, t.me = { s.me with devs := d }) (hvlc : ∀ m, m ≠ s.cur → getVlc t m = getVlc s m)
    (hmem : t.mem = s.mem) : Issued s (advance t) 0 := by
  obtain ⟨d, hd⟩ := hme
  have ht : (advance t).me = { s.me with devs := d, pc := s.me.pc + 4, bskip := s.me.skipOn, cost := s.me.cost + 1 } := by
    rw [advance, me_updMe, hd]; rfl
  refine ⟨⟨?_, fun h => absurd rfl h, fun k _ => ?_⟩, ?_, ?_, fun m hm => ?_, fun a => ?_⟩
  · rw [ht]
  · rw [ht]; exact ⟨rfl, rfl⟩
  · rw [ht]
  · rw [ht]
  · rw [advance, getVlc_updMe_other _ _ (by rw [hcur]; exact hm), hvlc m hm]
  · rw [advance, updMe_mem, hmem]

/-- An access that is sent from a state in which its word differs in DEVS only ends the word (R57, R183). -/
theorem noteDev_me (q : Passed) (s : State) : ∃ d, (noteDev q s).me = { s.me with devs := d } := by
  rw [noteDev, me_updMe, (notePin_dieOnly q s).me_eq]
  split
  · exact ⟨true, rfl⟩
  · exact ⟨_, rfl⟩

theorem noteDev_cur (q : Passed) (s : State) : (noteDev q s).cur = s.cur := by rw [noteDev, updMe_cur, (notePin_dieOnly q s).cur]

theorem noteDev_net (q : Passed) (s : State) : (noteDev q s).net = s.net := by rw [noteDev, updMe_net, (notePin_dieOnly q s).net]

theorem noteDev_mem (q : Passed) (s : State) : (noteDev q s).mem = s.mem := by rw [noteDev, updMe_mem, notePin_mem]

theorem getVlc_noteDev_other {m : Nat} {s : State} (q : Passed) (h : m ≠ s.cur) : getVlc (noteDev q s) m = getVlc s m := by
  have hd := notePin_dieOnly q s
  rw [noteDev, getVlc_updMe_other _ _ (by rw [hd.cur]; exact h), hd.getVlc_eq]

/-- A store that is sent ends its word. -/
theorem sent_issued (a : Access) (q : Passed) (s : State) : Issued s (advance (sendAcc a (noteDev q s))) 0 := by
  have hso := sendAcc_storesOnly a (noteDev q s)
  refine finishes_issued (hso.cur.trans (noteDev_cur q s)) ?_ (fun m hm => (hso.getVlc_eq m).trans (getVlc_noteDev_other q hm)) ((sendAcc_mem ..).trans (noteDev_mem q s))
  rw [hso.me_eq]
  exact noteDev_me q s

/-! ### A store that enters the buffer, or fails its checks there -/

/-- The fault of a store that enters the buffer (R361). -/
def bufFail (s : State) (t : Target) : Option Nat :=
  match t with
  | .loc pa => if paDram pa then (match tokenCheck s s.me.agent pa .write true with
      | some c => some c
      | none => if isLost s pa then some cUE_CONSUMED else none) else none
  | .rem _ _ _ => none

/-- A store stands in the buffer; one to another module is sent there for its checks (R361). -/
def enterBuf (b : Buf) (s : State) : State :=
  match b.tgt with
  | .loc _ => updMe (fun v => { v with sbuf := putBuf b v.sbuf }) s
  | .rem _ _ _ => sendNet (bufProbe s.cur b) (updMe (fun v => { v with sbuf := putBuf b v.sbuf }) s)

theorem bufferStore_eq (b : Buf) (s : State) :
    bufferStore b s = (bufFail s b.tgt).elim (enterBuf b s) fun c => deferFault { bufProbe s.cur b with kind := .store, op := 0 } c s := by
  unfold bufferStore bufFail enterBuf
  cases b.tgt with
  | rem m c a => rfl
  | loc pa =>
    dsimp only
    cases paDram pa
    · rfl
    · cases tokenCheck s s.me.agent pa .write true
      · cases isLost s pa <;> rfl
      · rfl

theorem enterBuf_storesOnly (b : Buf) (s : State) : StoresOnly (updMe (fun v => { v with sbuf := putBuf b v.sbuf }) s) (enterBuf b s) := by
  unfold enterBuf
  split
  · exact .refl _
  · exact sendNet_storesOnly ..

theorem enterBuf_mem (b : Buf) (s : State) : (enterBuf b s).mem = s.mem := by
  unfold enterBuf
  split <;> rfl

theorem bufFail_notePin (q : Passed) (s : State) (t : Target) : bufFail (bump (notePin q s)) t = bufFail s t := by
  have hd : DieOnly s (notePin q s) := notePin_dieOnly q s
  have hagent : (bump (notePin q s)).me.agent = s.me.agent := congrArg Vlc.agent hd.me_eq
  have htok : tokenCheck (bump (notePin q s)) = tokenCheck s := hd.tokenCheck_eq
  have hlost (pa : Nat) : isLost (bump (notePin q s)) pa = isLost s pa := hd.isLost_eq pa
  cases t with
  | loc pa => rw [bufFail, bufFail, hagent, htok, hlost]
  | rem m c a => rfl

/-- A fault that reaches a running context which fewer than 16 wait for is the last of those (R349). -/
theorem getVlc_queueFault_same {n : Nat} {s : State} (hst : (getVlc s n).status = .running) (hlen : (getVlc s n).faults.length < 16) (g : FRec) (ord : Nat) :
    getVlc (queueFault n g ord s) n = { getVlc s n with faults := (getVlc s n).faults ++ [⟨g, ord⟩] } := by
  rw [queueFault, getVlc_updVlc_same, if_neg (by rw [hst]; decide), if_neg (Nat.not_le.2 hlen)]

/-- A store that fails at its target queues a record that names it (R347, R349). -/
theorem deferFault_of_store {a : Access} (hk : a.kind = .store) (code : Nat) (s : State) :
    ∃ g, ChargedTo g code a.reg a.origin a.va ∧ deferFault a code s = queueFault a.vlc g a.id s := by
  simp only [deferFault, hk]
  refine ⟨_, ?_, rfl⟩
  cases a.tgt with
  | rem m c x => exact ⟨rfl, rfl, rfl, rfl, rfl⟩
  | loc pa =>
    dsimp only
    split_ifs
    · unfold withToken
      split <;> exact ⟨rfl, rfl, rfl, rfl, rfl⟩
    · exact ⟨rfl, rfl, rfl, rfl, rfl⟩

/-! ### A store behind a full buffer (R57, R89) -/

theorem stripFlush_me {s : State} (ho : s.me.sopen = true) : (stripFlush s.cur s).me = { s.me with sbuf := [], early := [], sbfull := true } := by
  rw [State.me, stripFlush]
  have hcur := flushBuf_cur s.cur s
  have hbuf := getVlc_flushBuf_same s.cur s
  dsimp only
  rw [updVlc_cur, hcur, getVlc_updVlc_same, hbuf]
  exact if_pos ho

end Sys2Proof.Machine
end

section
/-! SUPPORT. Every store form issues (R57, R183, R350, R360, R361). -/
namespace Sys2Proof.Machine

/-- No access issues while 16 faults wait (R349). -/
theorem faults_lt_of_heldBack {s : State} {n c size : Nat} {q : Passed} (h : heldBack s n c q size = false) : (getVlc s n).faults.length < 16 := by
  rw [heldBack, mustWait, Bool.or_eq_false_iff, Bool.or_eq_false_iff] at h
  exact Nat.not_le.1 (of_decide_eq_false h.1.2)

/-- A word that may issue is of a running context (R61). -/
theorem status_of_ready {v : Vlc} (h : v.ready = true) : v.status = .running := by
  simp only [Vlc.ready, Bool.and_eq_true, beq_iff_eq] at h
  exact h.1.1.1.1

/-- Where `q` has passed, VLC `cur` may issue the store of `size` bytes at `va` with the class `c`. -/
structure StorePasses (s : State) (q : Passed) (va size c : Nat) : Prop where
  check : addrCheck s (whoOf s s.cur) va size .write = .ok q
  free : heldBack s s.cur c q size = false

section
variable {s : State} {q : Passed} {va size data c : Nat} (h : StorePasses s q va size c)
include h

theorem storeAt_issued (hbuf : (s.me.sopen && !s.me.sbfull && !q.dev) = false) :
    Issued s (storeAt va size data c s) 0 ∧ ∃ x, (storeAt va size data c s).net = s.net ++ [x] ∧ IsStore s q size data c x := by
  rw [storeAt_sends h.check h.free hbuf]
  obtain ⟨x, hx, hi⟩ := sendAcc_isStore s q va size data c (noteDev q s)
  exact ⟨sent_issued .., x, hx.trans (congrArg (· ++ [x]) (noteDev_net q s)), hi⟩

section
variable (hbuf : (s.me.sopen && !s.me.sbfull && !q.dev) = true)
include hbuf

theorem storeAt_entered (hroom : bufBytes s.me.sbuf + size ≤ 8192) (hpass : bufFail s q.tgt = none) :
    storeAt va size data c s = advance (enterBuf (storeBuf s q va size data c) (bump (notePin q s))) := by
  rw [storeAt_buffers h.check h.free hbuf hroom, bufferStore_eq, bufFail_notePin]
  exact congrArg (fun o : Option Nat => advance (o.elim _ _)) hpass

theorem storeAt_removed {f : Nat} (hroom : bufBytes s.me.sbuf + size ≤ 8192) (hfail : bufFail s q.tgt = some f) :
    ∃ g, ChargedTo g f 0 s.me.pc.toNat va ∧ storeAt va size data c s = advance (queueFault s.cur g s.nextId (bump (notePin q s))) := by
  have hd := notePin_dieOnly q s
  obtain ⟨g, hg, hdefer⟩ := deferFault_of_store (a := { bufProbe (bump (notePin q s)).cur (storeBuf s q va size data c) with kind := .store, op := 0 }) rfl f (bump (notePin q s))
  refine ⟨g, hg, ?_⟩
  rw [storeAt_buffers h.check h.free hbuf hroom, bufferStore_eq, bufFail_notePin]
  refine (congrArg (fun o : Option Nat => advance (o.elim _ _)) hfail).trans (congrArg advance (hdefer.trans ?_))
  exact congrArg (fun n => queueFault n g s.nextId (bump (notePin q s))) hd.cur

theorem storeAt_behind (hfull : bufBytes s.me.sbuf + size > 8192) (hf : mayFlush s s.cur = true) :
    (storeAt va size data c s).me.sbuf = [] ∧ (storeAt va size data c s).me.sbfull = true ∧ (storeAt va size data c s).me.pc = s.me.pc + 4 ∧
      ∃ l x, (storeAt va size data c s).net = l ++ [x] ∧ IsStore s q size data c x := by
  have hd := notePin_dieOnly q s
  have ho : s.me.sopen = true := by rw [Bool.and_eq_true, Bool.and_eq_true] at hbuf; exact hbuf.1.1
  have hme := stripFlush_me (s := notePin q s) (by rw [hd.me_eq]; exact ho)
  rw [hd.cur, hd.me_eq] at hme
  rw [storeAt_overflows h.check h.free hbuf hfull hf]
  have hend : (advance (sendAcc (storeAcc s q va size data c) (stripFlush s.cur (notePin q s)))).me =
      { s.me with sbuf := [], early := [], sbfull := true, pc := s.me.pc + 4, bskip := s.me.skipOn, cost := s.me.cost + 1 } := by
    rw [advance, me_updMe, (sendAcc_storesOnly ..).me_eq, hme]; rfl
  rw [hend]
  exact ⟨rfl, rfl, rfl, _, sendAcc_isStore ..⟩

end
end

/-! ### The state behind a store in the buffer -/

theorem bufFail_none {s : State} {t : Target} (h : ∀ pa, t = .loc pa → paDram pa = true → tokenCheck s s.me.agent pa .write true = none ∧ isLost s pa = false) :
    bufFail s t = none := by
  cases t with
  | rem m c a => rfl
  | loc pa =>
    rw [bufFail]
    cases hp : paDram pa with
    | false => rfl
    | true => rw [(h pa rfl hp).1, (h pa rfl hp).2]; rfl

theorem bufFail_some {s : State} {pa f : Nat} (hp : paDram pa = true)
    (h : tokenCheck s s.me.agent pa .write true = some f ∨ (tokenCheck s s.me.agent pa .write true = none ∧ isLost s pa = true ∧ f = 22)) : bufFail s (.loc pa) = some f := by
  rw [bufFail, if_pos hp]
  rcases h with h | ⟨h, hl, rfl⟩
  · rw [h]
  · rw [h, hl]; rfl

theorem bump_notePin_me (q : Passed) (s : State) : (bump (notePin q s)).me = s.me := (notePin_dieOnly q s).me_eq

theorem entered_me (b : Buf) (q : Passed) (s : State) :
    (advance (enterBuf b (bump (notePin q s)))).me = { s.me with sbuf := putBuf b s.me.sbuf, pc := s.me.pc + 4, bskip := s.me.skipOn, cost := s.me.cost + 1 } := by
  rw [advance, me_updMe, (enterBuf_storesOnly ..).me_eq, me_updMe, bump_notePin_me]; rfl

theorem getVlc_entered_other {m : Nat} {s : State} (b : Buf) (q : Passed) (h : m ≠ s.cur) : getVlc (advance (enterBuf b (bump (notePin q s)))) m = getVlc s m := by
  have hd := notePin_dieOnly q s
  have hcur : (bump (notePin q s)).cur = s.cur := hd.cur
  have hb := enterBuf_storesOnly b (bump (notePin q s))
  rw [advance, getVlc_updMe_other _ _ (by rw [hb.cur, updMe_cur, hcur]; exact h), hb.getVlc_eq, getVlc_updMe_other _ _ (by rw [hcur]; exact h)]
  exact hd.getVlc_eq m

theorem entered_mem (b : Buf) (q : Passed) (s : State) : (advance (enterBuf b (bump (notePin q s)))).mem = s.mem := by
  rw [advance, updMe_mem, enterBuf_mem]; exact notePin_mem q s

/-- A buffered store goes to another module as a probe of its size. -/
theorem sendNet_bufProbe (n : Nat) (b : Buf) (u : State) :
    ∃ y, (sendNet (bufProbe n b) u).net = u.net ++ [y] ∧ y.vlc = n ∧ y.kind = .probe ∧ y.op = 9 ∧ y.tgt = b.tgt ∧ y.size = b.size := by
  refine ⟨_, rfl, ?_⟩
  unfold routed
  split <;> exact ⟨rfl, rfl, rfl, rfl, rfl⟩

theorem entered_net (q : Passed) (s : State) (va size data c : Nat) :
    let t := advance (enterBuf (storeBuf s q va size data c) (bump (notePin q s)))
    match q.tgt with
    | .loc _ => t.net = s.net
    | .rem _ _ _ => ∃ y, t.net = s.net ++ [y] ∧ y.vlc = s.cur ∧ y.kind = .probe ∧ y.op = 9 ∧ y.tgt = q.tgt ∧ y.size = size := by
  have hd := notePin_dieOnly q s
  have hnet : (bump (notePin q s)).net = s.net := hd.net
  cases ht : q.tgt with
  | loc pa =>
    have he : enterBuf (storeBuf s q va size data c) (bump (notePin q s)) = updMe (fun v => { v with sbuf := putBuf (storeBuf s q va size data c) v.sbuf }) (bump (notePin q s)) := by
      rw [enterBuf, storeBuf, ht]
    dsimp only
    rw [he, advance, updMe_net, updMe_net, hnet]
  | rem m d x =>
    have he : enterBuf (storeBuf s q va size data c) (bump (notePin q s)) =
        sendNet (bufProbe (bump (notePin q s)).cur (storeBuf s q va size data c)) (updMe (fun v => { v with sbuf := putBuf (storeBuf s q va size data c) v.sbuf }) (bump (notePin q s))) := by
      rw [enterBuf, storeBuf, ht]
    obtain ⟨y, hy, hvlc, hkind, hop, htgt, hsize⟩ := sendNet_bufProbe (bump (notePin q s)).cur (storeBuf s q va size data c)
      (updMe (fun v => { v with sbuf := putBuf (storeBuf s q va size data c) v.sbuf }) (bump (notePin q s)))
    refine ⟨y, ?_, hvlc.trans hd.cur, hkind, hop, htgt.trans ht, hsize⟩
    rw [he, advance, updMe_net, hy, updMe_net, hnet]

/-! ### The forms -/

/-- Every word that answers as `storeForm` does is a store of its size and class. -/
theorem issuesStore_of_form {i : Instr} {s : State} {r a : XReg} {p : BitVec 12} {size : Nat} (c : Option (BitVec 4))
    (hi : exec i s = .next (storeForm r a c p size s)) : IssuesStore i s r a p size (classOf c s) := by
  refine ⟨fun f hm hc hf => ?_, fun q hc hq hb => ?_⟩
  · rw [storeForm_can c hc, storeAt, hf] at hi
    exact trapsAddr_of_raiseAddr hm (addrCheck_error_lt hf) hi
  have h : StorePasses s q (effAddr s a p size) size (classOf c s) := ⟨hq, hb⟩
  rw [storeForm_can c hc] at hi
  refine ⟨fun hbuf => ?_, fun hbuf hroom hpass => ?_, fun pa f hbuf hroom htgt hp hfail => ?_, fun hbuf hfull hf => ?_⟩
  · obtain ⟨hissued, x, hnet, hx⟩ := storeAt_issued (data := (s.me.rx r.toNat).toNat) h hbuf
    exact ⟨_, hi, hissued, x, hnet, hx⟩
  · rw [storeAt_entered h hbuf hroom (bufFail_none hpass)] at hi
    have hme := entered_me (storeBuf s q (effAddr s a p size) size (s.me.rx r.toNat).toNat (classOf c s)) q s
    refine ⟨_, storeBuf s q (effAddr s a p size) size (s.me.rx r.toNat).toNat (classOf c s), hi, ?_, rfl, rfl, rfl, rfl, rfl, entered_net .., ?_,
      fun m hm => getVlc_entered_other _ q hm, fun b => congrArg (mget · b) (entered_mem ..)⟩
    · rw [hme]
    · rw [hme]
  · have hd := notePin_dieOnly q s
    have hcur : (bump (notePin q s)).cur = s.cur := hd.cur
    have hbefore (m : Nat) : getVlc (bump (notePin q s)) m = getVlc s m := hd.getVlc_eq m
    obtain ⟨g, hg, hremoved⟩ := storeAt_removed (data := (s.me.rx r.toNat).toNat) h hbuf hroom (htgt ▸ bufFail_some hp hfail)
    rw [hremoved] at hi
    have hqueued := getVlc_queueFault_same (n := s.cur) (s := bump (notePin q s)) (by rw [hbefore]; exact status_of_ready hc.1) (by rw [hbefore]; exact faults_lt_of_heldBack hb) g s.nextId
    refine ⟨_, g, hi, ?_, hg, ?_, fun m hm => ?_, fun b => ?_⟩
    · rw [advance, me_updMe, State.me, queueFault, updVlc_cur, hcur]
      rw [queueFault] at hqueued
      rw [hqueued, hbefore]; rfl
    · rw [advance, updMe_net, queueFault, updVlc_net]; exact hd.net
    · rw [advance, queueFault, getVlc_updMe_other _ _ (by rw [updVlc_cur, hcur]; exact hm), getVlc_updVlc_other _ _ hm, hbefore]
    · rw [advance, updMe_mem, queueFault_mem]; exact congrArg (mget · b) (notePin_mem q s)
  · obtain ⟨hsbuf, hsbfull, hpc, l, x, hnet, hx⟩ := storeAt_behind (data := (s.me.rx r.toNat).toNat) h hbuf hfull hf
    exact ⟨_, l, x, hi, hsbuf, hsbfull, hpc, hnet, hx⟩

/-- Settles O8. -/
theorem storesIssue : Obligations.StoresIssue := by
  unfold Obligations.StoresIssue
  intro s
  refine ⟨fun o => ⟨?_, ?_, ?_, ?_⟩, fun o => ⟨?_, ?_, ?_, ?_⟩⟩
  · exact issuesStore_of_form (some o.c) rfl
  · exact issuesStore_of_form (some o.c) rfl
  · exact issuesStore_of_form (some o.c) rfl
  · exact issuesStore_of_form (some o.c) rfl
  · exact issuesStore_of_form none rfl
  · exact issuesStore_of_form none rfl
  · exact issuesStore_of_form none rfl
  · exact issuesStore_of_form none rfl

end Sys2Proof.Machine
end

section
/-! SUPPORT. The ports of a virtual interface: latched bytes, receipts, roots and invalidations (R35 to R37, R70, R75, R316). -/
namespace Sys2Proof.Machine

/-! ### A virtual interface that a step sets -/

theorem viIs_updVi {vi : Nat} {f : Vi → Vi} {s : State} : ViIs vi (f (getVi s vi)) s (updVi vi f s) :=
  ⟨rfl, getVi_updVi_same .., fun _ h => getVi_updVi_other _ _ h⟩

theorem ViIs.trans {vi : Nat} {v w : Vi} {s t u : State} (h : ViIs vi v s t) (k : ViIs vi w t u) : ViIs vi w s u := by
  obtain ⟨hr, -, ho⟩ := h
  obtain ⟨kr, kv, ko⟩ := k
  exact ⟨(congrArg (fun x : State => { x with vis := s.vis }) kr).trans hr, kv, fun m hm => (ko m hm).trans (ho m hm)⟩

/-- The virtual interface with its port of one kind replaced. -/
def putPort (fab : Bool) (p : Port) (v : Vi) : Vi := if fab then { v with fab := p } else { v with host := p }

@[simp] theorem getPort_putPort (fab : Bool) (p : Port) (v : Vi) : getPort (putPort fab p v) fab = p := by cases fab <;> rfl

@[simp] theorem putPort_seq (fab : Bool) (p : Port) (v : Vi) : (putPort fab p v).seq = v.seq := by cases fab <;> rfl

theorem viIs_updPort (vi : Nat) (fab : Bool) (f : Port → Port) (s : State) : ViIs vi (putPort fab (f (getPort (getVi s vi) fab)) (getVi s vi)) s (updPort vi fab f s) := by
  have h := viIs_updVi (vi := vi) (f := fun v => if fab then { v with fab := f v.fab } else { v with host := f v.host }) (s := s)
  cases fab <;> exact h

/-! ### The bytes latched (R35) -/

theorem tget_latched {k : Nat} (hk : k < 64) : ∀ (bytes : List Byte) (off : Nat) (t : Tbl Byte),
    tget 0 ((bytes.mapIdx (fun i b => (off + i, b))).foldl (fun t x => if x.1 < 64 then tset 0 t x.1 x.2 else t) t) k =
      if off ≤ k ∧ k < off + bytes.length then bytes.getD (k - off) 0 else tget 0 t k
  | [], off, t => by rw [if_neg (by simp only [List.length_nil]; omega)]; rfl
  | b :: bs, off, t => by
    have hshift : (fun i (c : Byte) => (off + (i + 1), c)) = fun i c => (off + 1 + i, c) := by
      funext i c; rw [Nat.add_right_comm, Nat.add_assoc]
    have hfirst : tget 0 (if off < 64 then tset 0 t off b else t) k = if k = off then b else tget 0 t k := by
      by_cases ho : off < 64
      · rw [if_pos ho, tget_tset]
      · rw [if_neg ho, if_neg (by omega)]
    rw [List.mapIdx_cons, hshift, List.foldl_cons, tget_latched hk bs (off + 1), List.length_cons]
    refine (congrArg (ite _ _) hfirst).trans ?_
    rcases Nat.lt_trichotomy k off with h | h | h
    · rw [if_neg (by omega), if_neg (by omega), if_neg (by omega)]
    · rw [h, if_neg (by omega), if_pos rfl, if_pos (by omega), Nat.sub_self]; rfl
    · have hi : k - off = (k - (off + 1)) + 1 := by omega
      rw [if_neg (by omega : ¬ k = off), hi, List.getD_cons_succ]
      exact if_congr (by omega) rfl rfl

theorem tget_latch {k : Nat} (hk : k < 64) (off : Nat) (bytes : List Byte) (p : Port) :
    tget 0 (latch off bytes p).lpkt k = if off ≤ k ∧ k < off + bytes.length then bytes.getD (k - off) 0 else tget 0 p.lpkt k := tget_latched hk bytes off p.lpkt

/-- The dwords below the last are those latched before. -/
theorem pktWord_latch_lt {i : Nat} (hi : i < 7) (w : Word) (p : Port) : pktWord (latch 56 (wordBytes 8 w.toNat) p) i = pktWord p i := by
  have hb : ∀ j < 8, tget 0 (latch 56 (wordBytes 8 w.toNat) p).lpkt (8 * i + j) = tget 0 p.lpkt (8 * i + j) := fun j hj => by
    rw [tget_latch (by omega), if_neg (by omega)]
  exact List.foldr_ext _ _ _ fun j hj a => by rw [hb j (List.mem_range.1 hj)]

/-- The last dword is the one written. -/
theorem pktWord_latch_last (w : Word) (p : Port) : pktWord (latch 56 (wordBytes 8 w.toNat) p) 7 = w.toNat := by
  have hb : ∀ j < 8, tget 0 (latch 56 (wordBytes 8 w.toNat) p).lpkt (8 * 7 + j) = (wordBytes 8 w.toNat).getD j 0 := fun j hj => by
    rw [tget_latch (by omega), if_pos (by constructor; omega; exact Nat.add_lt_add_left hj 56), Nat.add_sub_cancel_left]
  have hsum : pktWord (latch 56 (wordBytes 8 w.toNat) p) 7 = (upto 8).foldr (fun j a => ((wordBytes 8 w.toNat).getD j 0).toNat + 256 * a) 0 :=
    List.foldr_ext _ _ _ fun j hj a => by rw [hb j (List.mem_range.1 hj)]
  rw [hsum]
  have hw : w.toNat < 2 ^ 64 := w.isLt
  generalize w.toNat = x at hw
  simp [upto, List.range_succ, wordBytes, bv, BitVec.toNat_ofNat]
  omega

theorem pktWords_latch (w : Word) (p : Port) : (upto 8).map (pktWord (latch 56 (wordBytes 8 w.toNat) p)) = (upto 7).map (pktWord p) ++ [w.toNat] := by
  rw [upto, List.range_succ, List.map_append, List.map_singleton, pktWord_latch_last]
  refine congrArg (· ++ _) (List.map_congr_left fun i hi => pktWord_latch_lt (List.mem_range.1 hi) w p)

end Sys2Proof.Machine
end

section
/-! SUPPORT. Packets submitted and answered, receipts read, roots and invalidations (R35 to R37, R70, R75, R307, R316). -/
namespace Sys2Proof.Machine

/-! ### A submission and its receipt (R35, R36, R316) -/

/-- The state in which the last dword of a packet is latched. -/
def submitted (vi : Nat) (fab : Bool) (w : Word) (s : State) : State := updPort vi fab (latch 56 (wordBytes 8 w.toNat)) s

/-- A port with one more receipt, and the bound beside it. -/
def withReceipt (st seq b : Nat) (p : Port) : Port := { p with fifo := p.fifo ++ [(wN (st + seq * 65536), wN b)] }

/-- A packet is answered by a receipt and takes its SEQ. -/
def answered (vi : Nat) (fab : Bool) (st b : Nat) (s : State) : State :=
  updVi vi (fun v => { v with seq := v.seq + 1 }) (updPort vi fab (withReceipt st (getVi s vi).seq b) s)

/-- The port behind a latched dword. -/
def latchedPort (w : Word) (p : Port) : Port := latch 56 (wordBytes 8 w.toNat) p

/-- The packet that a port holds once its last dword is written. -/
def packetOf (w : Word) (p : Port) : List Nat := (upto 7).map (pktWord p) ++ [w.toNat]

theorem submitted_viIs (vi : Nat) (fab : Bool) (w : Word) (s : State) :
    ViIs vi (putPort fab (latchedPort w (getPort (getVi s vi) fab)) (getVi s vi)) s (submitted vi fab w s) := viIs_updPort ..

theorem answered_viIs (vi : Nat) (fab : Bool) (st b : Nat) (s : State) :
    ViIs vi (putPort fab (withReceipt st (getVi s vi).seq b (getPort (getVi s vi) fab)) { getVi s vi with seq := (getVi s vi).seq + 1 }) s (answered vi fab st b s) := by
  have h := viIs_updPort vi fab (withReceipt st (getVi s vi).seq b) s
  have k := viIs_updVi (vi := vi) (f := fun v => { v with seq := v.seq + 1 }) (s := updPort vi fab (withReceipt st (getVi s vi).seq b) s)
  rw [h.2.1] at k
  cases fab <;> exact h.trans k

/-- The virtual interface behind a submission that has been answered. -/
def receiptVi (fab : Bool) (w : Word) (st b : Nat) (v : Vi) : Vi :=
  putPort fab (withReceipt st v.seq b (latchedPort w (getPort v fab))) { v with seq := v.seq + 1 }

theorem answered_submitted_viIs (vi : Nat) (fab : Bool) (w : Word) (st b : Nat) (s : State) :
    ViIs vi (receiptVi fab w st b (getVi s vi)) s (answered vi fab st b (submitted vi fab w s)) := by
  have h := submitted_viIs vi fab w s
  have k := answered_viIs vi fab st b (submitted vi fab w s)
  rw [h.2.1, getPort_putPort] at k
  cases fab <;> exact h.trans k

section
variable {vi : Nat} {fab : Bool} {w : Word} {s : State} (hvi : vi < 256)
include hvi

theorem submit_full_fifo (hf : (getPort (getVi s vi) fab).fifo.length ≥ 64) : exec (.launchSubmit vi fab w) s = .next (submitted vi fab w s) := by
  have hport : getPort (getVi (submitted vi fab w s) vi) fab = latchedPort w (getPort (getVi s vi) fab) := by rw [(submitted_viIs ..).2.1, getPort_putPort]
  refine congrArg Host.Outcome.next ((if_neg (Nat.not_le.2 hvi)).trans (if_pos ?_))
  exact (congrArg (fun p : Port => p.fifo.length ≥ 64) hport).mpr hf

/-- What a submission runs while the receipt FIFO has room. -/
theorem submit_answered (hf : (getPort (getVi s vi) fab).fifo.length < 64) : exec (.launchSubmit vi fab w) s = .next (
    let p := packetOf w (getPort (getVi s vi) fab)
    let rel := pktBarv p || pktSer p
    let u := submitted vi fab w s
    if !s.plat.service then answered vi fab 2 0 u
    else if malformed p then answered vi fab 3 0 u
    else if isFull u vi p then answered vi fab 2 0 u
    else
      let b := startBound u vi rel
      let l : Launch := { vi := vi, seq := (getVi s vi).seq, pkt := p, rel := rel, bound := b, ready := if rel then none else some s.cyc }
      noteReady (headWaits vi 64 (answered vi fab (1 + 4 * b2n rel) b { u with launches := u.launches ++ [l] }))) := by
  have hlatched := submitted_viIs vi fab w s
  have hport : getPort (getVi (submitted vi fab w s) vi) fab = latchedPort w (getPort (getVi s vi) fab) := by rw [hlatched.2.1, getPort_putPort]
  have hseq : (getVi (submitted vi fab w s) vi).seq = (getVi s vi).seq := by rw [hlatched.2.1, putPort_seq]
  have hp : (upto 8).map (pktWord (getPort (getVi (submitted vi fab w s) vi) fab)) = packetOf w (getPort (getVi s vi) fab) := by
    rw [hport]; exact pktWords_latch ..
  have hroom : ¬ (getPort (getVi (submitted vi fab w s) vi) fab).fifo.length ≥ 64 := by
    rw [hport]; exact Nat.not_le.2 hf
  refine congrArg Host.Outcome.next ((if_neg (Nat.not_le.2 hvi)).trans ((if_neg hroom).trans ?_))
  rw [← hp, ← hseq]
  rfl

end

end Sys2Proof.Machine
end

section
/-! SUPPORT. An accepted packet: the launch at the head of an empty queue (R35, R38, R49, R307). -/
namespace Sys2Proof.Machine

/-! ### Address checks read no port and no launch -/

/-- Two tables of virtual interfaces with the same roots, views and controls. -/
def SameRoots (V W : Tbl Vi) : Prop := ∀ v, (tget {} W v).troot = (tget {} V v).troot ∧ (tget {} W v).tview = (tget {} V v).tview ∧ (tget {} W v).vctl = (tget {} V v).vctl

section
variable {s : State} {V : Tbl Vi} (L : List Launch) (h : SameRoots s.vis V)
include h

theorem rootOf_of_sameRoots : rootOf { s with vis := V, launches := L } = rootOf s := by
  funext vi
  have hr : (getVi { s with vis := V, launches := L } vi).troot = (getVi s vi).troot := (h vi).1
  rw [rootOf, rootOf, hr]

theorem tablesOf_of_sameRoots : tablesOf { s with vis := V, launches := L } = tablesOf s := by
  funext vi
  have hr : (getVi { s with vis := V, launches := L } vi).tview = (getVi s vi).tview := (h vi).2.1
  rw [tablesOf, tablesOf, hr]

theorem translate_of_sameRoots : translate { s with vis := V, launches := L } = translate s := by
  funext vi va
  rw [translate, translate, rootOf_of_sameRoots L h, tablesOf_of_sameRoots L h]
  rfl

theorem addrCheck_of_sameRoots : addrCheck { s with vis := V, launches := L } = addrCheck s := by
  funext w va al k
  have ha : aperture { s with vis := V, launches := L } = aperture s := by
    funext vi va
    have hr : (getVi { s with vis := V, launches := L } vi).vctl = (getVi s vi).vctl := (h vi).2.2
    rw [aperture, aperture, hr]
  have hp : pageOf { s with vis := V, launches := L } = pageOf s := by
    funext w va
    rw [pageOf, pageOf, translate_of_sameRoots L h]
  have hr : tableReads { s with vis := V, launches := L } = tableReads s := by
    funext vi va
    rw [tableReads, tableReads, rootOf_of_sameRoots L h, tablesOf_of_sameRoots L h]
    rfl
  have hm : madeFor { s with vis := V, launches := L } = madeFor s := by
    funext vi va
    rw [madeFor, madeFor, rootOf_of_sameRoots L h, tablesOf_of_sameRoots L h]
    rfl
  have hq : pagePassed { s with vis := V, launches := L } = pagePassed s := by
    funext w va p
    rw [pagePassed, pagePassed, hr, hm]
  rw [addrCheck, addrCheck, ha, hp, hq]
  rfl

/-- Neither ports nor launches change what the barrier word of a launch is. -/
theorem barWord_of_sameRoots (l : Launch) : barWord { s with vis := V, launches := L } l = barWord s l := by
  rw [barWord, barWord, addrCheck_of_sameRoots L h]
  rfl

end

end Sys2Proof.Machine
end

section
/-! SUPPORT. The wait of a launch at the head of its queue (R38, R49, R109). -/
namespace Sys2Proof.Machine

/-! ### What waits at banks -/

/-- Only what the base die changes, and the list of what waits, differ. -/
def WaitsOnly (s t : State) : Prop := Mends s { t with waits := s.waits, nextId := s.nextId }

namespace WaitsOnly

theorem of_mends {s t : State} (h : Mends s t) : WaitsOnly s t where
  rest := by
    have e := congrArg (fun x : State => { x with waits := s.waits, nextId := s.nextId }) h.rest
    exact e
  vault := h.vault
  lost := h.lost
  vaults := h.vaults
  ecc := h.ecc

theorem trans {s t u : State} (h : WaitsOnly s t) (k : WaitsOnly t u) : WaitsOnly s u where
  rest := by
    have e := congrArg (fun x : State => { x with mem := s.mem, ecc := s.ecc, vaults := s.vaults, cmds := s.cmds, repair := s.repair, mgmt := s.mgmt, out := s.out, tlb := s.tlb,
                                                  waits := s.waits, nextId := s.nextId }) k.rest
    exact e.trans h.rest
  vault v := by
    have e := congrArg (fun x : Vault => { x with unsealed := (getVault s v).unsealed }) (k.vault v)
    exact e.trans (h.vault v)
  lost := k.lost.trans h.lost
  vaults := k.vaults.trans h.vaults
  ecc x hx := h.ecc x (k.ecc x hx)

section
variable {s t : State} (h : WaitsOnly s t)
include h

theorem launches : t.launches = s.launches := h.toDieOnly.launches
theorem vis : t.vis = s.vis := h.toDieOnly.vis
theorem vlcs : t.vlcs = s.vlcs := h.toDieOnly.vlcs

end

end WaitsOnly

theorem endWait_waitsOnly (who : Waiter) (s : State) : WaitsOnly s (endWait who s) := by
  unfold endWait
  split_ifs
  · exact .refl s
  · exact .of_ecc rfl rfl rfl

theorem awaitTurn_waitsOnly (who : Waiter) (agent : Nat) (pas walk : List Nat) (s : State) : WaitsOnly s (awaitTurn who agent pas walk s) := by
  unfold awaitTurn
  dsimp only
  split_ifs
  · exact .refl s
  · split
    · split_ifs
      · exact .refl s
      · exact .of_ecc rfl rfl rfl
    · exact .of_ecc rfl rfl rfl

theorem walkAhead_mends (l : List Passed) (s : State) : Mends s (walkAhead l s) := by
  refine .foldl (fun t p => ?_) l s
  split_ifs
  · exact .refl t
  · exact takeWalk_mends ..

theorem rootAwait_waitsOnly (who : Waiter) (l : Launch) (ps : List Passed) (s : State) : WaitsOnly s (rootAwait who l ps s) :=
  (WaitsOnly.of_mends (walkAhead_mends ps s)).trans (awaitTurn_waitsOnly ..)

/-! ### The wait begins -/

/-- The launch whose wait on the barrier word at `pa` begins with the word `w` (R49, R109). -/
def Launch.waiting (pa w : Nat) (l : Launch) : Launch := { l with e0 := some (barEpoch w), barPa := pa, passed := barPend w == 0 }

/-- The barrier word of a launch is sampled. -/
def sampled (vi seq pa va w : Nat) (s : State) : State :=
  updLaunch vi seq (Launch.waiting pa w) (noteServed pa (correctIn pa 8 (notePinVa { vi := vi, vault := none } va s)))

theorem headWaits_of_noBarrier {vi n : Nat} {s : State} {l : Launch} (hq : (queuedOf s vi).head? = some l) (hb : pktBarv l.pkt = false) : headWaits vi (n + 1) s = s := by
  rw [headWaits, hq]
  simp only [hb, Bool.not_false, Bool.true_or, if_true]

theorem headWaits_of_barrier {vi n pa : Nat} {s : State} {l : Launch} (hq : (queuedOf s vi).head? = some l) (hb : pktBarv l.pkt = true) (he : l.e0 = none)
    (hw : barWord s l = .ok pa) : headWaits vi (n + 1) s =
      rootTurn (.root vi l.seq) l [engPassed s { vi := vi, vault := none } (pktBarrier l.pkt) pa] (sampled vi l.seq pa (pktBarrier l.pkt) (mread s.mem pa 8)) s := by
  rw [headWaits, hq]
  simp only [hb, he, hw, Bool.not_true, Option.isSome_none, Bool.or_self, Bool.false_eq_true, if_false]
  rfl

theorem rootTurn_cases (who : Waiter) (l : Launch) (ps : List Passed) (k : State → State) (s : State) :
    rootTurn who l ps k s = rootAwait who l ps s ∨ rootTurn who l ps k s = k (endWait who s) := by
  unfold rootTurn
  split_ifs
  · exact .inl rfl
  · exact .inr rfl

theorem homeCheck_of_barWord {s : State} {l : Launch} {pa : Nat} (h : barWord s l = .ok pa) : homeCheck s (rootAgent l.vi l.seq) pa 8 = none := by
  unfold barWord at h
  dsimp only at h
  split at h
  · cases h
  · split at h
    · cases h
    · split at h
      · cases h
      · split at h
        · cases h
        · next hc => cases h; exact hc

theorem homeCheck_none_iff {s : State} {agent pa n : Nat} :
    homeCheck s agent pa n = none ↔ paDram pa = true ∧ tokenCheck s agent pa .atomic (pa % n == 0) = none ∧ ueIn s pa n = false := by
  rw [homeCheck]
  cases paDram pa <;> cases tokenCheck s agent pa .atomic (pa % n == 0) <;> cases ueIn s pa n <;> simp

/-- A home word stays one that may be read while only errors are corrected (R390). -/
theorem Mends.homeCheck_none {s t : State} (h : Mends s t) {agent pa n : Nat} (hs : homeCheck s agent pa n = none) : homeCheck t agent pa n = none := by
  rw [homeCheck_none_iff] at hs ⊢
  rw [h.tokenCheck_eq]
  exact ⟨hs.1, hs.2.1, h.ueIn_eq hs.2.2⟩

/-- Updating one launch of a list in which no other has its VI and SEQ. -/
theorem updLaunch_last {s : State} {old : List Launch} {l : Launch} {f : Launch → Launch} (hl : s.launches = old ++ [l]) (hold : ∀ k ∈ old, k.vi = l.vi → k.seq ≠ l.seq) :
    (updLaunch l.vi l.seq f s).launches = old ++ [f l] := by
  have hmap : old.map (fun k => if k.vi == l.vi && k.seq == l.seq then f k else k) = old := by
    refine (List.map_congr_left fun k hk => if_neg ?_).trans (List.map_id' _)
    rw [Bool.and_eq_true, beq_iff_eq, beq_iff_eq]
    exact fun h => hold k hk h.1 h.2
  rw [updLaunch]
  dsimp only
  rw [hl, List.map_append, hmap]
  simp

/-! ### What has begun its wait stays as it is -/

theorem watchBarrier_of_started {l : Launch} {s : State} (h : l.started = true) : watchBarrier l s = s := by
  rw [watchBarrier, h]; rfl

theorem watchBarrier_of_unsampled {l : Launch} {s : State} (h : l.e0 = none) : watchBarrier l s = s := by
  rw [watchBarrier, h]; simp

/-- A wait that has just begun has not ended, unless PEND was 0 as it began (R109). -/
theorem watchBarrier_of_sampled {pa : Nat} {l : Launch} {s : State} (hc : homeCheck s (rootAgent l.vi l.seq) pa 8 = none) :
    watchBarrier (l.waiting pa (mread s.mem pa 8)) s = s := by
  rw [watchBarrier]
  split_ifs with h1 h2
  · rfl
  · refine absurd h2 ?_
    have hp : (barPend (mread s.mem pa 8) == 0) = false := by
      rw [← Bool.not_eq_true]
      exact fun hp => h1 (by rw [Launch.waiting, hp, Bool.or_true])
    rw [barEnded]
    simp [Launch.waiting, hp]
  · have hc' : homeCheck s (rootAgent (l.waiting pa (mread s.mem pa 8)).vi (l.waiting pa (mread s.mem pa 8)).seq) (l.waiting pa (mread s.mem pa 8)).barPa 8 = none := hc
    rw [hc']

/-! ### The wait of a launch alone in its queue -/

/-- Memory, contexts and virtual interfaces are as before. -/
structure LaunchesOnly (s t : State) : Prop where
  mem : t.mem = s.mem
  vlcs : t.vlcs = s.vlcs
  vis : t.vis = s.vis

theorem LaunchesOnly.trans {s t u : State} (h : LaunchesOnly s t) (k : LaunchesOnly t u) : LaunchesOnly s u :=
  ⟨k.mem.trans h.mem, k.vlcs.trans h.vlcs, k.vis.trans h.vis⟩

/-- The last launch of `t` is `l`, but for the sample of its barrier word, and what it waits for has not changed. -/
structure Headed (old : List Launch) (l : Launch) (t : State) : Prop where
  last : ∃ k, t.launches = old ++ [k] ∧ { k with e0 := l.e0, barPa := l.barPa, passed := l.passed } = l ∧ watchBarrier k t = t

theorem sampled_mends (vi pa va : Nat) (s : State) : Mends s (noteServed pa (correctIn pa 8 (notePinVa { vi := vi, vault := none } va s))) :=
  ((notePinVa_mends ..).trans (correctIn_mends ..)).trans (noteServed_mends ..)

theorem sampled_launchesOnly (vi seq pa va w : Nat) (s : State) : LaunchesOnly s (sampled vi seq pa va w s) := by
  have h := (sampled_mends vi pa va s).toDieOnly
  exact ⟨(noteServed_mem ..).trans ((correctIn_quiet ..).1.trans (notePinVa_quiet ..).1), h.vlcs, h.vis⟩

section
variable {s : State} {old : List Launch} {l : Launch} (hl : s.launches = old ++ [l]) (hold : ∀ k ∈ old, k.started = true ∧ (k.vi = l.vi → k.seq ≠ l.seq))
  (hs : l.started = false) (hf : l.fault = none) (ho : l.origin = none)
include hl hold hs hf ho

/-- A launch is alone in its queue while every other has started. -/
theorem queuedOf_alone : (queuedOf s l.vi).head? = some l := by
  have hnone : old.filter (fun k => k.vi == l.vi && !k.started && k.fault.isNone && k.origin.isNone) = [] := by
    rw [List.filter_eq_nil_iff]
    intro k hk
    simp [(hold k hk).1]
  rw [queuedOf, hl, List.filter_append, hnone]
  simp [hs, hf, ho]

theorem headWaits_headed (he : l.e0 = none) (hb : pktBarv l.pkt = false ∨ ∃ pa, barWord s l = .ok pa) :
    LaunchesOnly s (headWaits l.vi 64 s) ∧ Headed old l (headWaits l.vi 64 s) := by
  have hq := queuedOf_alone hl hold hs hf ho
  have hstill : Headed old l s := ⟨l, hl, rfl, watchBarrier_of_unsampled he⟩
  cases hbar : pktBarv l.pkt with
  | false =>
    rw [headWaits_of_noBarrier hq hbar]
    exact ⟨⟨rfl, rfl, rfl⟩, hstill⟩
  | true =>
    obtain ⟨pa, hpa⟩ := hb.resolve_left (by rw [hbar]; exact Bool.noConfusion)
    rw [headWaits_of_barrier hq hbar he hpa]
    rcases rootTurn_cases (.root l.vi l.seq) l [engPassed s { vi := l.vi, vault := none } (pktBarrier l.pkt) pa] (sampled l.vi l.seq pa (pktBarrier l.pkt) (mread s.mem pa 8)) s
      with ht | ht <;> rw [ht]
    · have hw := rootAwait_waitsOnly (.root l.vi l.seq) l [engPassed s { vi := l.vi, vault := none } (pktBarrier l.pkt) pa] s
      exact ⟨⟨(rootAwait_quiet ..).1, hw.vlcs, hw.vis⟩, l, hw.launches.trans hl, rfl, watchBarrier_of_unsampled he⟩
    · have hw := endWait_waitsOnly (.root l.vi l.seq) s
      have hm := sampled_mends l.vi pa (pktBarrier l.pkt) (endWait (.root l.vi l.seq) s)
      have hmem := sampled_launchesOnly l.vi l.seq pa (pktBarrier l.pkt) (mread s.mem pa 8) (endWait (.root l.vi l.seq) s)
      have hend : LaunchesOnly s (endWait (.root l.vi l.seq) s) := ⟨(endWait_quiet ..).1, hw.vlcs, hw.vis⟩
      have hall := hend.trans hmem
      refine ⟨hall, l.waiting pa (mread s.mem pa 8), ?_, ?_, ?_⟩
      · exact updLaunch_last ((hm.toDieOnly.launches.trans hw.launches).trans hl) fun k hk => (hold k hk).2
      · rfl
      · have hhome := hm.homeCheck_none (Mends.homeCheck_none hw (homeCheck_of_barWord hpa))
        have hword := watchBarrier_of_sampled (l := l) (s := sampled l.vi l.seq pa (pktBarrier l.pkt) (mread s.mem pa 8) (endWait (.root l.vi l.seq) s)) hhome
        rwa [hall.mem] at hword

end

/-! ### Readiness (R38) -/

/-- A launch that may start and had not been ready is so from now on. -/
def Launch.readyAt (s : State) (l : Launch) : Launch := if l.ready.isNone && mayStart s l then { l with ready := some s.cyc } else l

theorem noteReady_of_watched {s : State} (h : ∀ l ∈ s.launches, watchBarrier l s = s) : noteReady s = { s with launches := s.launches.map (Launch.readyAt s) } := by
  have hfold : ∀ L : List Launch, (∀ l ∈ L, watchBarrier l s = s) → L.foldl (fun s l => watchBarrier l s) s = s := by
    intro L
    induction L with
    | nil => exact fun _ => rfl
    | cons l L ih =>
      intro hL
      rw [List.foldl_cons, hL l List.mem_cons_self]
      exact ih fun k hk => hL k (List.mem_cons_of_mem l hk)
  rw [noteReady, hfold _ h]
  rfl

theorem readyAt_of_started {s : State} {l : Launch} (h : l.started = true) : l.readyAt s = l := by
  rw [Launch.readyAt, mayStart, h]; simp

theorem readyAt_kept (s : State) (l : Launch) : { l.readyAt s with ready := l.ready } = l := by
  unfold Launch.readyAt; split <;> rfl

/-- What a submission leaves of the launches: one more, that waits. -/
theorem noteReady_headed {old : List Launch} {l : Launch} {s : State} (hold : ∀ k ∈ old, k.started = true) (h : Headed old l s) :
    LaunchesOnly s (noteReady s) ∧
      ∃ k, (noteReady s).launches = old ++ [k] ∧ { k with e0 := l.e0, barPa := l.barPa, passed := l.passed, ready := l.ready } = l := by
  obtain ⟨k, hl, hk, hw⟩ := h.last
  have hready := noteReady_of_watched (s := s) (by
    rw [hl]
    intro m hm
    rcases List.mem_append.1 hm with hm | hm
    · exact watchBarrier_of_started (hold m hm)
    · rw [List.mem_singleton.1 hm]; exact hw)
  rw [hready]
  refine ⟨⟨rfl, rfl, rfl⟩, k.readyAt s, ?_, ?_⟩
  · have hmap : old.map (Launch.readyAt s) = old :=
      (List.map_congr_left fun m hm => readyAt_of_started (hold m hm)).trans (List.map_id' old)
    dsimp only
    rw [hl, List.map_append, List.map_singleton, hmap]
  · have hr := congrArg (fun m : Launch => { m with e0 := l.e0, barPa := l.barPa, passed := l.passed, ready := l.ready }) (readyAt_kept s k)
    refine hr.trans ?_
    have := congrArg (fun m : Launch => { m with ready := l.ready }) hk
    exact this

end Sys2Proof.Machine
end

section
/-! SUPPORT. The ports of a virtual interface (R35 to R37, R70, R75, R307, R316). -/
namespace Sys2Proof.Machine

/-! ### An accepted packet -/

namespace ViIs

section
variable {vi : Nat} {v : Vi} {s t : State} (h : ViIs vi v s t)
include h

theorem mem : t.mem = s.mem := by have e := congrArg State.mem h.1; exact e
theorem vlcs : t.vlcs = s.vlcs := by have e := congrArg State.vlcs h.1; exact e

/-- The launches of a module are no part of its virtual interfaces. -/
theorem withLaunches (L : List Launch) : ViIs vi v s { { t with launches := L } with launches := s.launches } :=
  ⟨congrArg (fun x : State => { x with launches := s.launches }) h.1, h.2⟩

end

end ViIs

theorem isFull_submitted (vi : Nat) (fab : Bool) (w : Word) (s : State) (p : List Nat) : isFull (submitted vi fab w s) vi p = isFull s vi p := by
  have hv : (getVi (submitted vi fab w s) vi).failed = (getVi s vi).failed := by
    rw [(submitted_viIs ..).2.1]; cases fab <;> rfl
  rw [isFull, isFull, hv]
  rfl

/-- The bound of a packet whose queue holds no launch that has a bound of its own (R307). -/
theorem startBound_alone {s : State} {vi : Nat} (h : ∀ l ∈ s.launches, l.started = true) (rel : Bool) : startBound s vi rel = (if rel then 0 else s.cyc) + 330000 + longTail s := by
  have hq : queuedOf s vi = [] := by
    rw [queuedOf, List.filter_eq_nil_iff]
    intro l hl
    simp [h l hl]
  rw [startBound, hq]
  cases rel with
  | true => simp
  | false => rfl

/-- A receipt and a latched dword leave every root as it is. -/
theorem sameRoots_of_receipt {vi : Nat} {fab : Bool} {w : Word} {st b : Nat} {s t : State} (h : ViIs vi (receiptVi fab w st b (getVi s vi)) s t) : SameRoots s.vis t.vis := by
  intro v
  obtain ⟨-, hv, ho⟩ := h
  by_cases hvi : v = vi
  · have hk : (getVi t v).troot = (getVi s v).troot ∧ (getVi t v).tview = (getVi s v).tview ∧ (getVi t v).vctl = (getVi s v).vctl := by
      rw [hvi, hv]; cases fab <;> exact ⟨rfl, rfl, rfl⟩
    exact hk
  · have hk : getVi t v = getVi s v := ho v hvi
    exact ⟨congrArg Vi.troot hk, congrArg Vi.tview hk, congrArg Vi.vctl hk⟩

/-- Behind a receipt a barrier word is what it was. -/
theorem barWord_of_viIs {vi : Nat} {fab : Bool} {w : Word} {st b : Nat} {s t : State} (h : ViIs vi (receiptVi fab w st b (getVi s vi)) s { t with launches := s.launches })
    (l : Launch) : barWord t l = barWord s l := by
  have hrec := congrArg (fun x : State => { x with vis := t.vis, launches := t.launches }) h.1
  have heq : t = { s with vis := t.vis, launches := t.launches } := hrec
  have hroots : SameRoots s.vis t.vis := sameRoots_of_receipt (t := { t with launches := s.launches }) h
  rw [heq]
  exact barWord_of_sameRoots _ hroots l

/-- The launch of an accepted packet (R35, R307). -/
def newLaunch (vi : Nat) (fab : Bool) (w : Word) (s : State) : Launch :=
  let p := packetOf w (getPort (getVi s vi) fab)
  let rel := pktBarv p || pktSer p
  { vi := vi, seq := (getVi s vi).seq, pkt := p, rel := rel, bound := (if rel then 0 else s.cyc) + 330000 + longTail s, ready := if rel then none else some s.cyc }

theorem getVi_withLaunches (t : State) (L : List Launch) (vi : Nat) : getVi { t with launches := L } vi = getVi t vi := rfl

/-- The state in which an accepted packet has its receipt and its launch stands last. -/
def accepted (vi : Nat) (fab : Bool) (w : Word) (s : State) : State :=
  { answered vi fab (1 + 4 * b2n (newLaunch vi fab w s).rel) (newLaunch vi fab w s).bound (submitted vi fab w s) with launches := s.launches ++ [newLaunch vi fab w s] }

section
variable {vi : Nat} {fab : Bool} {w : Word} {s : State}

theorem accepted_viIs :
    ViIs vi (receiptVi fab w (1 + 4 * b2n (newLaunch vi fab w s).rel) (newLaunch vi fab w s).bound (getVi s vi)) s { accepted vi fab w s with launches := s.launches } := by
  unfold accepted
  exact (answered_submitted_viIs vi fab w _ _ s).withLaunches _

/-- The receipt of an accepted packet, RELATIVE where its bound is (R36, R307). -/
theorem accepted_vi : getVi (accepted vi fab w s) vi = receiptVi fab w (if (newLaunch vi fab w s).rel then 5 else 1) (newLaunch vi fab w s).bound (getVi s vi) := by
  have hst : 1 + 4 * b2n (newLaunch vi fab w s).rel = if (newLaunch vi fab w s).rel then 5 else 1 := by
    cases (newLaunch vi fab w s).rel <;> rfl
  have h := (answered_submitted_viIs vi fab w (1 + 4 * b2n (newLaunch vi fab w s).rel) (newLaunch vi fab w s).bound s).2.1
  rw [← hst, ← h, accepted]
  exact getVi_withLaunches _ _ vi

theorem accepted_launchesKept : (accepted vi fab w s).mem = s.mem ∧ (accepted vi fab w s).vlcs = s.vlcs := by
  have h := accepted_viIs (vi := vi) (fab := fab) (w := w) (s := s)
  exact ⟨h.mem, h.vlcs⟩

theorem barWord_accepted (l : Launch) : barWord (accepted vi fab w s) l = barWord s l := barWord_of_viIs accepted_viIs l

/-- The three ways in which a packet is refused (R36, R307). -/
theorem submit_offline (hvi : vi < 256) (hf : (getPort (getVi s vi) fab).fifo.length < 64) (hs : s.plat.service = false) :
    exec (.launchSubmit vi fab w) s = .next (answered vi fab 2 0 (submitted vi fab w s)) := by
  rw [submit_answered hvi hf, hs]; rfl

theorem submit_malformed (hvi : vi < 256) (hf : (getPort (getVi s vi) fab).fifo.length < 64) (hs : s.plat.service = true)
    (hm : malformed (packetOf w (getPort (getVi s vi) fab)) = true) : exec (.launchSubmit vi fab w) s = .next (answered vi fab 3 0 (submitted vi fab w s)) := by
  rw [submit_answered hvi hf]
  dsimp only
  rw [hs, hm]; rfl

theorem submit_isFull (hvi : vi < 256) (hf : (getPort (getVi s vi) fab).fifo.length < 64) (hm : malformed (packetOf w (getPort (getVi s vi) fab)) = false)
    (hfull : isFull s vi (packetOf w (getPort (getVi s vi) fab)) = true) : exec (.launchSubmit vi fab w) s = .next (answered vi fab 2 0 (submitted vi fab w s)) := by
  rw [submit_answered hvi hf]
  dsimp only
  rw [hm, isFull_submitted, hfull]
  exact congrArg Host.Outcome.next (ite_self _)

/-- What a submission that is accepted runs. -/
theorem submit_accepts (hvi : vi < 256) (hf : (getPort (getVi s vi) fab).fifo.length < 64) (hm : malformed (packetOf w (getPort (getVi s vi) fab)) = false)
    (hfull : isFull s vi (packetOf w (getPort (getVi s vi) fab)) = false) (hq : ∀ l ∈ s.launches, l.started = true) :
    exec (.launchSubmit vi fab w) s = .next (noteReady (headWaits vi 64 (accepted vi fab w s))) := by
  have hservice : s.plat.service = true := by
    have h := hfull
    simp only [isFull, Bool.or_eq_false_iff, Bool.not_eq_false'] at h
    exact h.1.1.1.1.1.1
  have hbound (rel : Bool) : startBound (submitted vi fab w s) vi rel = (if rel then 0 else s.cyc) + 330000 + longTail s := startBound_alone (s := submitted vi fab w s) hq rel
  rw [submit_answered hvi hf]
  dsimp only
  rw [hservice, hm, isFull_submitted, hfull, hbound]
  rfl

/-- The launch of an accepted packet stands last, waits, and nothing but its queue's port has changed (R35, R307). -/
theorem submit_launches (hvi : vi < 256) (hf : (getPort (getVi s vi) fab).fifo.length < 64) (hm : malformed (packetOf w (getPort (getVi s vi) fab)) = false)
    (hfull : isFull s vi (packetOf w (getPort (getVi s vi) fab)) = false) (hq : ∀ l ∈ s.launches, l.started = true ∧ (l.vi = vi → l.seq ≠ (getVi s vi).seq))
    (hbar : pktBarv (packetOf w (getPort (getVi s vi) fab)) = false ∨ ∃ pa, barWord s (newLaunch vi fab w s) = .ok pa) :
    ∃ t k, exec (.launchSubmit vi fab w) s = .next t ∧ LaunchesOnly (accepted vi fab w s) t ∧ t.launches = s.launches ++ [k] ∧
      { k with e0 := none, barPa := (newLaunch vi fab w s).barPa, passed := (newLaunch vi fab w s).passed, ready := (newLaunch vi fab w s).ready } = newLaunch vi fab w s := by
  have hrun := submit_accepts hvi hf hm hfull fun l hl => (hq l hl).1
  have hhead := headWaits_headed (s := accepted vi fab w s) (old := s.launches) (l := newLaunch vi fab w s) rfl hq rfl rfl rfl rfl (by
    rw [funext barWord_accepted]; exact hbar)
  have hready := noteReady_headed (fun l hl => (hq l hl).1) hhead.2
  obtain ⟨k, hk, hkept⟩ := hready.2
  exact ⟨_, k, hrun, hhead.1.trans hready.1, hk, hkept⟩

end

/-! ### The other ports -/

theorem rcptRead_none {vi : Nat} {fab : Bool} {s : State} (hvi : vi < 256) (h : (getPort (getVi s vi) fab).fifo = []) : exec (.rcptRead vi fab) s = .next (regOut 0 s) := by
  refine congrArg Host.Outcome.next ((if_neg (Nat.not_le.2 hvi)).trans ?_)
  rw [h]

theorem rcptRead_some {vi : Nat} {fab : Bool} {s : State} {r b : Word} {q : List (Word × Word)} (hvi : vi < 256) (h : (getPort (getVi s vi) fab).fifo = (r, b) :: q) :
    exec (.rcptRead vi fab) s = .next (regOut r (updPort vi fab (fun p => { p with fifo := q, rbound := b }) s)) := by
  refine congrArg Host.Outcome.next ((if_neg (Nat.not_le.2 hvi)).trans ?_)
  rw [h]

/-- The bits that TROOT and TINV keep of a written word (R70, R75). -/
theorem rootBits_eq (w : Word) : rootBits w = BitVec.ofNat 64 (w.toNat % 2 + w.toNat / 4096 % 536870912 * 4096) := by
  simp [rootBits, fld, wN]

theorem tinvBits_eq (w : Word) : (fld w.toNat 12 44 * 4096, fld w.toNat 0 2) = (w.toNat / 4096 % 17592186044416 * 4096, w.toNat % 4) := by
  simp [fld]

theorem tsyncRead_exec {vi : Nat} {s : State} (hvi : vi < 256) : exec (.tsyncRead vi) s = .next (regOut (if (getVi s vi).tinv = [] then 1 else 0) s) := by
  refine congrArg Host.Outcome.next ((if_neg (Nat.not_le.2 hvi)).trans ?_)
  cases (getVi s vi).tinv <;> rfl

/-- Invalidations of the whole space bring memory into effect (R75). -/
theorem foldl_takeRange_whole {m : List Host.Cell} {root : Nat} : ∀ {ps : List (Nat × Nat)} {view : List Host.Cell}, ps ≠ [] → (∀ p ∈ ps, p.2 = 3) →
    ps.foldl (fun t p => takeRange m root p t) view = m
  | [p], _, _, h => if_pos (h p List.mem_cons_self)
  | p :: q :: ps, _, _, h => foldl_takeRange_whole (ps := q :: ps) (List.cons_ne_nil q ps) fun x hx => h x (List.mem_cons_of_mem p hx)

/-- The view of a space behind its invalidations (R75). -/
def viewAfter (vi : Nat) (s : State) (x : Vi) : Option (List Host.Cell) :=
  if x.tview.isNone && !(getVi s vi).tinv.any (fun p => p.2 == 3) then none else some ((getVi s vi).tinv.foldl (fun t p => takeRange s.mem x.troot.toNat p t) (tablesOf s vi))

/-- The state behind the invalidations of a virtual interface. -/
def invalidated (vi : Nat) (s : State) : State :=
  updVi vi (fun x => { x with tinv := [], tview := viewAfter vi s x })
    { s with tlb := s.tlb.filter (fun e => !(e.vi == vi && (getVi s vi).tinv.any (fun p => invCovers p e))) }

theorem tinvComplete_exec {vi : Nat} {s : State} (hvi : vi < 256) : exec (.tinvComplete vi) s = .next (invalidated vi s) :=
  congrArg Host.Outcome.next (if_neg (Nat.not_le.2 hvi))

theorem mem_invalidated_tlb {vi : Nat} {s : State} {e : TlbE} :
    e ∈ (invalidated vi s).tlb ↔ e ∈ s.tlb ∧ (e.vi = vi → ∀ p ∈ (getVi s vi).tinv, invCovers p e = false) := by
  rw [invalidated, updVi_tlb, List.mem_filter]
  refine and_congr_right fun _ => ?_
  by_cases h : e.vi = vi <;> simp [h]

theorem invalidated_tview {vi : Nat} {s : State} (hne : (getVi s vi).tinv ≠ []) (h : ∀ p ∈ (getVi s vi).tinv, p.2 = 3) :
    (getVi (invalidated vi s) vi).tview = some s.mem := by
  rw [invalidated, getVi_updVi_same]
  have hany : (getVi s vi).tinv.any (fun p => p.2 == 3) = true := by
    obtain ⟨p, hp⟩ := List.exists_mem_of_ne_nil _ hne
    exact List.any_eq_true.2 ⟨p, hp, by rw [h p hp]; rfl⟩
  dsimp only
  rw [viewAfter, hany, Bool.not_true, Bool.and_false, if_neg Bool.false_ne_true, foldl_takeRange_whole hne h]

theorem invalidated_viIs (vi : Nat) (s : State) :
    ViIs vi { getVi s vi with tinv := [], tview := (getVi (invalidated vi s) vi).tview } s { invalidated vi s with tlb := s.tlb } := by
  refine ⟨rfl, ?_, fun m hm => ?_⟩
  · have h : getVi (invalidated vi s) vi = { getVi s vi with tinv := [], tview := viewAfter vi s (getVi s vi) } := getVi_updVi_same ..
    have hv : (getVi (invalidated vi s) vi).tview = viewAfter vi s (getVi s vi) := congrArg Vi.tview h
    rw [hv]
    exact h
  · have h : getVi (invalidated vi s) m = getVi s m := getVi_updVi_other _ _ hm
    exact h

/-- Settles O46. -/
theorem hostPorts : Obligations.HostPorts := by
  unfold Obligations.HostPorts
  intro s vi hvi v put
  have hput : put = putPort := rfl
  rw [hput]
  refine ⟨fun fab off bytes => ?_, fun fab w => ?_, fun fab => ⟨fun he => ?_, fun r b q he => ?_⟩, fun w => ⟨?_, ?_⟩, ?_, ?_⟩
  · refine ⟨latch off bytes (getPort v fab), ⟨_, congrArg Host.Outcome.next (if_neg (Nat.not_le.2 hvi)), viIs_updPort ..⟩, rfl, rfl, fun k hk => tget_latch hk off bytes _⟩
  · intro old p port receipt rel b
    refine ⟨fun hf => ?_, fun hf hs => ?_, fun hf hs hm => ?_, fun hf hm hfull => ?_, fun hf hm hfull hq hbar => ?_⟩
    · exact ⟨_, submit_full_fifo hvi hf, submitted_viIs ..⟩
    · exact ⟨_, submit_offline hvi hf hs, answered_submitted_viIs vi fab w 2 0 s⟩
    · exact ⟨_, submit_malformed hvi hf hs hm, answered_submitted_viIs vi fab w 3 0 s⟩
    · exact ⟨_, submit_isFull hvi hf hm hfull, answered_submitted_viIs vi fab w 2 0 s⟩
    · obtain ⟨t, k, hrun, hkept, hl, hk⟩ := submit_launches hvi hf hm hfull hq (hbar.imp id fun ⟨pa, hpa, _⟩ => ⟨pa, hpa⟩)
      have hvi' : getVi t vi = getVi (accepted vi fab w s) vi := by rw [getVi, getVi, hkept.vis]
      have hfield {α : Type} (g : Launch → α) : g _ = g (newLaunch vi fab w s) := congrArg g hk
      refine ⟨t, k, hrun, ?_, hl, hfield Launch.vi, hfield Launch.seq, hfield Launch.pkt, hfield Launch.rel, hfield Launch.bound, hfield Launch.started, hfield Launch.fault,
        hkept.mem.trans accepted_launchesKept.1, hkept.vlcs.trans accepted_launchesKept.2⟩
      exact hvi'.trans accepted_vi
  · exact ⟨_, rcptRead_none hvi he, rfl, rfl⟩
  · exact ⟨_, rcptRead_some hvi he, rfl, viIs_updPort vi fab (fun p => { p with fifo := q, rbound := b }) s⟩
  · rw [← rootBits_eq]
    exact ⟨_, congrArg Host.Outcome.next (if_neg (Nat.not_le.2 hvi)), viIs_updVi⟩
  · rw [← tinvBits_eq]
    exact ⟨_, congrArg Host.Outcome.next (if_neg (Nat.not_le.2 hvi)), viIs_updVi⟩
  · exact ⟨_, tsyncRead_exec hvi, rfl, rfl⟩
  · exact ⟨_, tinvComplete_exec hvi, invalidated_viIs vi s, invalidated_tview, fun e => mem_invalidated_tlb⟩

end Sys2Proof.Machine
end

section
/-! SUPPORT. A word without stores that retires under a strip store buffer of more than 8 KiB (R57, R372). -/
namespace Sys2Proof.Machine

/-- A store of more than 8 KiB to another module. -/
def hugeStore : Buf := { id := 1, tgt := .rem 0 false 0, va := 0, size := 8193, data := 0, cls := 0 }

/-- A `vstop` that has executed: it stores nothing. -/
def storelessWord : REntry := { core := 0, e := { id := 2, vlc := 0, instr := .vstop, word := 0, blk := 0, slot := 0 } }

/-- VLC 0 has an open strip whose buffer holds more than 8 KiB, and its only word has executed. -/
def overfullState : State := { State.reset with vlcs := [(0, { sopen := true, sbuf := [hugeStore] })], vaults := [(0, { rq := [storelessWord] })] }

theorem overfullState_overflows : overflows overfullState storelessWord = true := by decide

theorem overfullState_mayRetire : mayRetire overfullState storelessWord = true := by decide

/-- The word retires, and the buffer stays: no store makes it perform. -/
theorem recheck_overfullState : ∃ u, exec (.recheck 0 0) overfullState = .next u ∧ (getVlc u 0).sbuf = [hugeStore] := ⟨_, rfl, rfl⟩

/-- Refutes O45: a word without stores does not make the buffer of its strip perform, and the statement admits a buffer that has passed 8 KiB before. -/
theorem not_retireAndRewind : ¬ Obligations.RetireAndRewind := by
  unfold Obligations.RetireAndRewind
  intro h
  have hword := (h overfullState).1 0 0 storelessWord [] rfl rfl rfl
  obtain ⟨-, -, hover, -⟩ := hword.1 (by decide) overfullState_mayRetire
  obtain ⟨t, ht, -, -, -, -, hbuf, -⟩ := hover rfl rfl (fun _ hb => absurd hb List.not_mem_nil) overfullState_overflows
  obtain ⟨u, hu, hkept⟩ := recheck_overfullState
  have hut : u = t := Host.Outcome.next.inj (hu.symm.trans ht)
  rw [hut] at hkept
  exact List.cons_ne_nil _ _ (hkept.symm.trans hbuf)

end Sys2Proof.Machine
end

section
/-! SUPPORT. Command links and launches by number: what a message that is sent, taken or acknowledged changes (R300). -/
namespace Sys2Proof.Machine

/-! ### Launches by VI and SEQ -/

theorem getLaunch_key {s : State} {vi seq : Nat} {l : Launch} (h : getLaunch s vi seq = some l) : l.vi = vi ∧ l.seq = seq := by
  have hp := List.find?_some h
  rw [Bool.and_eq_true, beq_iff_eq, beq_iff_eq] at hp
  exact hp

/-- An update of a launch that keeps its VI and SEQ is found under them. -/
theorem getLaunch_updLaunch {s : State} {vi seq : Nat} {l : Launch} {f : Launch → Launch} (hf : ∀ k, (f k).vi = k.vi ∧ (f k).seq = k.seq) (h : getLaunch s vi seq = some l) :
    getLaunch (updLaunch vi seq f s) vi seq = some (f l) := by
  unfold getLaunch updLaunch at *
  dsimp only
  rw [List.find?_map]
  have hsame : ((fun k : Launch => k.vi == vi && k.seq == seq) ∘ fun k => if (k.vi == vi && k.seq == seq) = true then f k else k) = fun k => k.vi == vi && k.seq == seq := by
    funext k
    dsimp only [Function.comp]
    split
    · rw [(hf k).1, (hf k).2]
    · rfl
  rw [hsame, h, Option.map_some]
  obtain ⟨hv, hs⟩ := getLaunch_key (s := s) h
  rw [if_pos (by rw [hv, hs, beq_self_eq_true, beq_self_eq_true]; rfl)]

/-! ### Messages of the links (R300) -/

/-- Only the scheduler's part differs. -/
def SchedOnly (s t : State) : Prop := { t with sched := s.sched } = s

section
variable {q : Nat} {m : Msg} {s : State}

theorem sendDown_of_permit (hp : (getLink s.sched.down q).permits > 0) (hw : tget [] s.sched.waitDown q = []) :
    sendDown q m s = { s with sched := { s.sched with down := tupd {} s.sched.down q (fun l => { l with queue := l.queue ++ [m], permits := l.permits - 1 }) } } := if_pos ⟨hp, hw⟩

theorem sendUp_of_permit (hp : (getLink s.sched.up q).permits > 0) (hw : tget [] s.sched.waitUp q = []) :
    sendUp q m s = { s with sched := { s.sched with up := tupd {} s.sched.up q (fun l => { l with queue := l.queue ++ [m], permits := l.permits - 1 }) } } := if_pos ⟨hp, hw⟩

end

theorem getLink_tupd_same (t : Tbl Link) (q : Nat) (f : Link → Link) : getLink (tupd {} t q f) q = f (getLink t q) := tget_tupd_same ..

theorem entryIs_tupd {α : Type} [DecidableEq α] (d : α) (t : Tbl α) (q : Nat) (f : α → α) : EntryIs d t (tupd d t q f) q (f (tget d t q)) :=
  ⟨tget_tupd_same .., fun _ h => tget_tupd_other _ _ _ h⟩

end Sys2Proof.Machine
end

section
/-! SUPPORT. Acknowledgements, cost reports, deals and steals (R46, R300, R302). -/
namespace Sys2Proof.Machine

/-! ### Acknowledgements (R300) -/

/-- A link one of whose acknowledgements has come back. -/
def Link.acked (l : Link) : Link := { l with acks := l.acks - 1, permits := l.permits + 1 }

/-- A link on which a message has been sent. -/
def Link.sent (m : Msg) (l : Link) : Link := { l with queue := l.queue ++ [m], permits := l.permits - 1 }

/-- A link whose first message has been acted on. -/
def Link.popped (l : Link) : Link := { l with queue := l.queue.tail, acks := l.acks + 1 }

section
variable {s : State} {q : Nat} (h : (getLink s.sched.down q).acks > 0)
include h

theorem cmdAck_idle (hw : tget [] s.sched.waitDown q = []) :
    exec (.cmdAck q false) s = .next { s with sched := { s.sched with down := tupd {} s.sched.down q Link.acked } } := by
  refine congrArg Host.Outcome.next ((if_neg Bool.false_ne_true).trans ((if_neg (Nat.ne_of_gt h)).trans ?_))
  rw [hw]; rfl

/-- A message that waits for a permit is sent with the one that comes back. -/
theorem cmdAck_sends {m : Msg} {w : List Msg} (hw : tget [] s.sched.waitDown q = m :: w) :
    exec (.cmdAck q false) s = .next { s with sched := { s.sched with
      down := tupd {} (tupd {} s.sched.down q Link.acked) q (Link.sent m), waitDown := tset [] (tset [] s.sched.waitDown q []) q w } } := by
  refine congrArg Host.Outcome.next ((if_neg Bool.false_ne_true).trans ((if_neg (Nat.ne_of_gt h)).trans ?_))
  rw [hw]
  dsimp only
  rw [sendDown_of_permit]
  · rfl
  · dsimp only
    rw [getLink_tupd_same]
    exact Nat.succ_pos _
  · dsimp only
    rw [tget_tset_same]

end

/-- The link behind an acknowledgement that lets a message go: no permit is left over. -/
theorem sent_acked (m : Msg) (l : Link) : (Link.acked l).sent m = { l with queue := l.queue ++ [m], acks := l.acks - 1 } := by
  simp only [Link.sent, Link.acked, Nat.add_sub_cancel]

/-! ### Messages acted on -/

theorem cost_exec {s : State} {q vi u : Nat} {l : List Msg} (hf : s.sched.failed = false) (hq : (getLink s.sched.up q).queue = .cost vi u :: l) :
    exec (.cost q) s = .next (updVi vi (fun v => { v with cost := v.cost + u }) (popUp q s)) := by
  refine congrArg Host.Outcome.next ((if_neg (by rw [hf]; exact Bool.false_ne_true)).trans ?_)
  rw [hq]

/-! ### Deals (R46) -/

section
variable {s : State} {q : Nat} {c : Cand} {l : Launch} {rest : List Msg} (hl : getLaunch s c.vi c.seq = some l) (hf : s.sched.failed = false)
include hl hf

theorem dealreq_deals (hq : (getLink s.sched.up q).queue = .dealreq c :: rest)
    (hleft : (tget (0, 0) l.undealt (stackOf (l.slots.getD c.slotNo 0))).1 < (tget (0, 0) l.undealt (stackOf (l.slots.getD c.slotNo 0))).2 ∨ leftFor l (stackOf (l.slots.getD c.slotNo 0)) = false) :
    exec (.dealreq q) s = .next (dealTo c l (stackOf (l.slots.getD c.slotNo 0)) (popUp q s)) := by
  have hl' : getLaunch (popUp q s) c.vi c.seq = some l := hl
  refine congrArg Host.Outcome.next ((if_neg (by rw [hf]; exact Bool.false_ne_true)).trans ?_)
  rw [hq]
  dsimp only
  rw [hl']
  refine if_neg fun hno => ?_
  rcases hleft with h | h
  · exact absurd h (Nat.not_lt.2 hno.1)
  · rw [h] at hno; exact Bool.false_ne_true hno.2

theorem dealreq_steals (hq : (getLink s.sched.up q).queue = .dealreq c :: rest)
    (hempty : (tget (0, 0) l.undealt (stackOf (l.slots.getD c.slotNo 0))).2 ≤ (tget (0, 0) l.undealt (stackOf (l.slots.getD c.slotNo 0))).1)
    (hleft : leftFor l (stackOf (l.slots.getD c.slotNo 0)) = true) : exec (.dealreq q) s = .next (sendUp q (.stealreq c) (popUp q s)) := by
  have hl' : getLaunch (popUp q s) c.vi c.seq = some l := hl
  refine congrArg Host.Outcome.next ((if_neg (by rw [hf]; exact Bool.false_ne_true)).trans ?_)
  rw [hq]
  dsimp only
  rw [hl']
  exact if_pos ⟨hempty, hleft⟩

theorem stealreq_exec (hq : (getLink s.sched.up q).queue = .stealreq c :: rest)
    (hempty : (tget (0, 0) l.undealt (stackOf (l.slots.getD c.slotNo 0))).2 ≤ (tget (0, 0) l.undealt (stackOf (l.slots.getD c.slotNo 0))).1) :
    exec (.stealreq q) s = .next (dealTo c { l with undealt := steal l (stackOf (l.slots.getD c.slotNo 0)) } (stackOf (l.slots.getD c.slotNo 0))
      (updLaunch l.vi l.seq (fun k => { k with undealt := steal l (stackOf (l.slots.getD c.slotNo 0)) }) (popUp q s))) := by
  have hl' : getLaunch (popUp q s) c.vi c.seq = some l := hl
  refine congrArg Host.Outcome.next ((if_neg (by rw [hf]; exact Bool.false_ne_true)).trans ?_)
  rw [hq]
  dsimp only
  rw [hl']
  dsimp only
  rw [if_neg (Nat.not_lt.2 hempty)]

end

/-- A launch that has dealt the range `r` of stack `k` to slot `j`, with `e` the first index left. -/
def Launch.dealt (k j : Nat) (r : Nat × Nat) (e : Nat) (l : Launch) : Launch :=
  { l with undealt := tset (0, 0) l.undealt k (if e < r.2 then (e, r.2) else (0, 0)), ranges := tset (0, 0) l.ranges j (r.1, e) }

/-- A deal of the next chunk of a stack. -/
theorem dealTo_some {c : Cand} {l : Launch} {k : Nat} {s : State} {r : Nat × Nat} (hr : tget (0, 0) l.undealt k = r) (hlt : r.1 < r.2) (hfault : l.fault = none)
    (hquad : s.mgmt.retq.getLsbD (quadOfVlc (l.slots.getD c.slotNo 0)) = false) :
    dealTo c l k s = sendDown (quadOfVlc (l.slots.getD c.slotNo 0)) (.deal c (some (r.1, min (r.1 + recChunk l.recd) r.2)))
      (updLaunch l.vi l.seq (Launch.dealt k c.slotNo r (min (r.1 + recChunk l.recd) r.2)) s) := by
  subst hr
  exact if_pos ⟨hlt, by rw [hfault]; rfl, hquad⟩

theorem dealTo_none {c : Cand} {l : Launch} {k : Nat} {s : State} (h : (tget (0, 0) l.undealt k).2 ≤ (tget (0, 0) l.undealt k).1) :
    dealTo c l k s = sendDown (quadOfVlc (l.slots.getD c.slotNo 0)) (.deal c none) s := if_neg fun hlt => absurd hlt.1 (Nat.not_lt.2 h)

/-- A message that has a permit stands last in its link's queue, and nothing outside the links differs. -/
theorem sendDown_sends {q : Nat} {m : Msg} {s u : State} (hd : u.sched.down = s.sched.down) (hw : u.sched.waitDown = s.sched.waitDown)
    (hp : (getLink s.sched.down q).permits > 0) (hq : tget [] s.sched.waitDown q = []) :
    (getLink (sendDown q m u).sched.down q).queue = (getLink s.sched.down q).queue ++ [m] ∧ SchedOnly u (sendDown q m u) ∧
      { (sendDown q m u).sched with down := u.sched.down } = u.sched := by
  rw [sendDown_of_permit (by rw [hd]; exact hp) (by rw [hw]; exact hq)]
  refine ⟨?_, rfl, rfl⟩
  dsimp only
  rw [getLink_tupd_same, hd]

theorem sendUp_sends {q : Nat} {m : Msg} {u : State} (hp : (getLink u.sched.up q).permits > 0) (hq : tget [] u.sched.waitUp q = []) :
    (getLink (sendUp q m u).sched.up q).queue = (getLink u.sched.up q).queue ++ [m] ∧ SchedOnly u (sendUp q m u) ∧
      { (sendUp q m u).sched with up := u.sched.up } = u.sched := by
  rw [sendUp_of_permit hp hq]
  refine ⟨?_, rfl, rfl⟩
  dsimp only
  rw [getLink_tupd_same]

namespace SchedOnly

section
variable {s t : State} (h : SchedOnly s t)
include h

theorem mem : t.mem = s.mem := by have e := congrArg State.mem h; exact e
theorem vlcs : t.vlcs = s.vlcs := by have e := congrArg State.vlcs h; exact e
theorem launches : t.launches = s.launches := by have e := congrArg State.launches h; exact e
theorem vaults : t.vaults = s.vaults := by have e := congrArg State.vaults h; exact e

theorem getLaunch_eq (vi seq : Nat) : getLaunch t vi seq = getLaunch s vi seq := by rw [getLaunch, h.launches, getLaunch]

end

end SchedOnly

end Sys2Proof.Machine
end

section
/-! SUPPORT. What a deal, a steal and the answer of either leave (R46). -/
namespace Sys2Proof.Machine

/-- VLC of the slot of a candidate. -/
def slotVlc (c : Cand) (l : Launch) : Nat := l.slots.getD c.slotNo 0

/-- A link may take a message at once. -/
def MaySend (t : Tbl Link) (w : Tbl (List Msg)) (q : Nat) : Prop := (getLink t q).permits > 0 ∧ tget [] w q = []

/-- The answer to a request for a deal goes to the leaf controller of the slot. -/
def DealSent (c : Cand) (l : Launch) (m : Option (Nat × Nat)) (s t : State) : Prop :=
  (getLink t.sched.down (quadOfVlc (slotVlc c l))).queue = (getLink s.sched.down (quadOfVlc (slotVlc c l))).queue ++ [.deal c m]

section
variable {s : State} {q : Nat} {c : Cand} {l : Launch} {rest : List Msg} (hl : getLaunch s c.vi c.seq = some l) (hf : s.sched.failed = false)
include hl hf

theorem dealreq_gives {r : Nat × Nat} (hq : (getLink s.sched.up q).queue = .dealreq c :: rest) (hmay : MaySend s.sched.down s.sched.waitDown (quadOfVlc (slotVlc c l)))
    (hfault : l.fault = none) (hr : tget (0, 0) l.undealt (stackOf (slotVlc c l)) = r) (hlt : r.1 < r.2) (hquad : s.mgmt.retq.getLsbD (quadOfVlc (slotVlc c l)) = false) :
    ∃ t, exec (.dealreq q) s = .next t ∧ DealSent c l (some (r.1, min (r.1 + recChunk l.recd) r.2)) s t ∧
      getLaunch t c.vi c.seq = some (l.dealt (stackOf (slotVlc c l)) c.slotNo r (min (r.1 + recChunk l.recd) r.2)) ∧ t.mem = s.mem := by
  obtain ⟨hv, hs⟩ := getLaunch_key hl
  have hrun := (dealreq_deals hl hf hq (.inl (by rw [slotVlc] at hr; rw [hr]; exact hlt))).trans (congrArg Host.Outcome.next (dealTo_some hr hlt hfault hquad))
  have hpop : getLaunch (popUp q s) c.vi c.seq = some l := hl
  obtain ⟨hsent, honly, -⟩ := sendDown_sends (m := .deal c (some (r.1, min (r.1 + recChunk l.recd) r.2)))
    (u := updLaunch l.vi l.seq (Launch.dealt (stackOf (slotVlc c l)) c.slotNo r (min (r.1 + recChunk l.recd) r.2)) (popUp q s)) rfl rfl hmay.1 hmay.2
  refine ⟨_, hrun, hsent, ?_, honly.mem⟩
  have hfound := getLaunch_updLaunch (f := Launch.dealt (stackOf (slotVlc c l)) c.slotNo r (min (r.1 + recChunk l.recd) r.2)) (fun _ => ⟨rfl, rfl⟩) hpop
  rw [← hv, ← hs] at hfound ⊢
  exact (honly.getLaunch_eq l.vi l.seq).trans hfound

theorem dealreq_refuses (hq : (getLink s.sched.up q).queue = .dealreq c :: rest) (hmay : MaySend s.sched.down s.sched.waitDown (quadOfVlc (slotVlc c l)))
    (hempty : (tget (0, 0) l.undealt (stackOf (slotVlc c l))).2 ≤ (tget (0, 0) l.undealt (stackOf (slotVlc c l))).1) (hsteal : recSteal l.recd = false) :
    ∃ t, exec (.dealreq q) s = .next t ∧ DealSent c l none s t ∧ t.launches = s.launches ∧ t.mem = s.mem := by
  have hleft : leftFor l (stackOf (slotVlc c l)) = false := by
    rw [leftFor, hsteal, Bool.false_and, Bool.or_false]
    exact decide_eq_false (Nat.not_lt.2 hempty)
  have hrun := (dealreq_deals hl hf hq (.inr hleft)).trans (congrArg Host.Outcome.next (dealTo_none hempty))
  obtain ⟨hsent, honly, -⟩ := sendDown_sends (m := .deal c none) (u := popUp q s) rfl rfl hmay.1 hmay.2
  exact ⟨_, hrun, hsent, honly.launches, honly.mem⟩

theorem dealreq_asks (hq : (getLink s.sched.up q).queue = .dealreq c :: rest) (hmay : MaySend s.sched.up s.sched.waitUp q)
    (hempty : (tget (0, 0) l.undealt (stackOf (slotVlc c l))).2 ≤ (tget (0, 0) l.undealt (stackOf (slotVlc c l))).1) (hsteal : recSteal l.recd = true)
    (hsome : ∃ p ∈ l.undealt, p.2.1 < p.2.2) :
    ∃ t, exec (.dealreq q) s = .next t ∧ (getLink t.sched.up q).queue = rest ++ [.stealreq c] ∧ t.launches = s.launches ∧ t.mem = s.mem := by
  have hleft : leftFor l (stackOf (slotVlc c l)) = true := by
    rw [leftFor, hsteal, Bool.true_and, Bool.or_eq_true]
    obtain ⟨p, hp, hlt⟩ := hsome
    exact .inr (List.any_eq_true.2 ⟨p, hp, decide_eq_true hlt⟩)
  have hpop : getLink (popUp q s).sched.up q = Link.popped (getLink s.sched.up q) := getLink_tupd_same s.sched.up q Link.popped
  obtain ⟨hsent, honly, -⟩ := sendUp_sends (q := q) (m := .stealreq c) (u := popUp q s) (by rw [hpop]; exact hmay.1) hmay.2
  refine ⟨_, dealreq_steals hl hf hq hempty hleft, ?_, honly.launches, honly.mem⟩
  rw [hsent, hpop, Link.popped, hq]
  rfl

/-- A steal takes the upper half of the richest stack, and deals from it (R46). -/
theorem stealreq_gives {v lo hi : Nat} (hq : (getLink s.sched.up q).queue = .stealreq c :: rest) (hmay : MaySend s.sched.down s.sched.waitDown (quadOfVlc (slotVlc c l)))
    (hfault : l.fault = none) (hquad : s.mgmt.retq.getLsbD (quadOfVlc (slotVlc c l)) = false)
    (hempty : (tget (0, 0) l.undealt (stackOf (slotVlc c l))).2 ≤ (tget (0, 0) l.undealt (stackOf (slotVlc c l))).1) (hrich : richest l = some (v, lo, hi))
    {p : Nat} (hp : lo + recGrain l.recd * cdiv (hi - lo) (2 * recGrain l.recd) = p) (hlt : p < hi) :
    ∃ t, exec (.stealreq q) s = .next t ∧ DealSent c l (some (p, min (p + recChunk l.recd) hi)) s t ∧
      getLaunch t c.vi c.seq = some ({ l with undealt := tset (0, 0) (tset (0, 0) l.undealt v (lo, p)) (stackOf (slotVlc c l)) (p, hi) }.dealt
        (stackOf (slotVlc c l)) c.slotNo (p, hi) (min (p + recChunk l.recd) hi)) ∧ t.mem = s.mem := by
  obtain ⟨hv, hs⟩ := getLaunch_key hl
  have hstolen : steal l (stackOf (slotVlc c l)) = tset (0, 0) (tset (0, 0) l.undealt v (lo, p)) (stackOf (slotVlc c l)) (p, hi) := by
    subst hp
    rw [steal, hrich]
    exact if_pos hlt
  generalize hst : steal l (stackOf (slotVlc c l)) = u at hstolen
  have hr : tget (0, 0) ({ l with undealt := u } : Launch).undealt (stackOf (slotVlc c l)) = (p, hi) := by
    dsimp only
    rw [hstolen, tget_tset_same]
  have hsteal := stealreq_exec hl hf hq hempty
  rw [← slotVlc, hst] at hsteal
  have hrun := hsteal.trans (congrArg Host.Outcome.next (dealTo_some hr hlt hfault hquad))
  have hpop : getLaunch (popUp q s) c.vi c.seq = some l := hl
  obtain ⟨hsent, honly, -⟩ := sendDown_sends (m := .deal c (some (p, min (p + recChunk l.recd) hi)))
    (u := updLaunch l.vi l.seq (Launch.dealt (stackOf (slotVlc c l)) c.slotNo (p, hi) (min (p + recChunk l.recd) hi)) (updLaunch l.vi l.seq (fun k => { k with undealt := u }) (popUp q s)))
    rfl rfl hmay.1 hmay.2
  refine ⟨_, hrun, hsent, ?_, honly.mem⟩
  have hfound := getLaunch_updLaunch (f := Launch.dealt (stackOf (slotVlc c l)) c.slotNo (p, hi) (min (p + recChunk l.recd) hi)) (fun _ => ⟨rfl, rfl⟩)
    (getLaunch_updLaunch (f := fun k => { k with undealt := u }) (fun _ => ⟨rfl, rfl⟩) hpop)
  rw [← hv, ← hs] at hfound
  rw [← hv, ← hs, ← hstolen]
  exact (honly.getLaunch_eq l.vi l.seq).trans hfound

end

/-- A launch whose slot `j` is in the state `x`. -/
def Launch.slotAt (j : Nat) (x : SlotState) (l : Launch) : Launch := { l with state := tset .unplaced l.state j x }

theorem slotState_slotAt (j : Nat) (x : SlotState) (l : Launch) : slotState (l.slotAt j x) j = x := tget_tset_same ..

theorem getLaunch_setSlotState {s : State} {vi seq : Nat} {l : Launch} (j : Nat) (x : SlotState) (h : getLaunch s vi seq = some l) :
    getLaunch (setSlotState vi seq j x s) vi seq = some (l.slotAt j x) := getLaunch_updLaunch (f := Launch.slotAt j x) (fun _ => ⟨rfl, rfl⟩) h

/-- With nothing left to deal a slot takes no further work (R46, R60). -/
theorem deal_ends {s : State} {q : Nat} {c : Cand} {l : Launch} {rest : List Msg} (hl : getLaunch s c.vi c.seq = some l) (hscan : s.mgmt.scan ≠ some q)
    (hq : (getLink s.sched.down q).queue = .deal c none :: rest) :
    ∃ t l', exec (.deal q) s = .next t ∧ getLaunch t c.vi c.seq = some l' ∧ slotState l' c.slotNo = .done ∧ t.mem = s.mem ∧ t.vlcs = s.vlcs := by
  have hheld : heldLink s q = false := by rw [heldLink]; exact beq_eq_false_iff_ne.2 hscan
  have hl' : getLaunch (popDown q s) c.vi c.seq = some l := hl
  have hrun : exec (.deal q) s = .next (
      if tget none (setSlotState c.vi c.seq c.slotNo .done (popDown q s)).sched.awaits (slotVlc c l) = some c then
        awaitDeal (slotVlc c l) none (setSlotState c.vi c.seq c.slotNo .done (popDown q s))
      else setSlotState c.vi c.seq c.slotNo .done (popDown q s)) := by
    refine congrArg Host.Outcome.next ?_
    rw [hq]
    dsimp only
    rw [hheld, hl']
    rfl
  have hfound := getLaunch_setSlotState c.slotNo .done hl'
  refine ⟨_, l.slotAt c.slotNo .done, hrun, ?_, slotState_slotAt .., ?_, ?_⟩
  · split <;> exact hfound
  · split <;> rfl
  · split <;> rfl

end Sys2Proof.Machine
end

section
/-! SUPPORT. The start of a context, and a placement that asks for a deal (R46, R49, R52, R54). -/
namespace Sys2Proof.Machine

/-! ### Accesses of a launch -/

theorem DieOnly.lpr {s t : State} (h : DieOnly s t) (v : Nat) : (getVault t v).lpr = (getVault s v).lpr := by have e := congrArg Vault.lpr (h.vault v); exact e

theorem DieOnly.vlenOf_eq {s t : State} (h : DieOnly s t) (n : Nat) : vlenOf t n = vlenOf s n := by rw [vlenOf, h.lpr, vlenOf]

theorem rootWrite_dieOnly {l : Launch} : ∀ {ws : List Nat} {va : Nat} {s u : State}, rootWrite l va ws s = some u → DieOnly s u
  | [], _, s, u, h => by
    rw [rootWrite] at h
    cases h
    exact .refl s
  | w :: ws, va, s, u, h => by
    rw [rootWrite] at h
    split at h
    · cases h
    · exact ((notePinVa_mends ..).toDieOnly.trans (writeMem_dieOnly ..)).trans (rootWrite_dieOnly h)

/-! ### The start (R52) -/

/-- A context that starts with its range and its argument block at `block`. -/
def begun (n : Nat) (l : Launch) (j lo hi block vlen : Nat) : Vlc :=
  { vi := l.vi, seq := l.seq, slotNo := j, agent := ctxAgent n l.vi, savep := recSavep l.recd, msavep := recMsavep l.recd, status := .running, pc := wN (pktEntry l.pkt),
    x := tset 0 (tset 0 (tset 0 (tset 0 (tset 0 [] 1 (wN lo)) 2 (wN (hi - lo))) 3 (wN block)) 4 (wN (vlen / 8))) 5
      (wN (j % 2048 + n / 8 % 16 * 2 ^ 12 + n / 128 * 2 ^ 16 + n / 4 % 2 * 2 ^ 20 + n % 4 * 2 ^ 21)),
    sb := wN lo, sc := wN (hi - lo), prc := wN (hi - lo), ocdef := BitVec.ofNat 4 (recOcdef l.recd) }

/-- Where a launch is as its slot `j` starts. -/
def Launch.began (j : Nat) (l : Launch) : Launch := { l with state := tset .unplaced l.state j .running, ranges := tset (0, 0) l.ranges j (0, 0) }

/-- The state in which a context runs, once its argument block is written. -/
def started (n : Nat) (l : Launch) (j lo hi : Nat) (u : State) : State :=
  startCtx n { vi := l.vi, seq := l.seq, slotNo := j, agent := ctxAgent n l.vi, savep := recSavep l.recd, msavep := recMsavep l.recd }
    (pktEntry l.pkt) lo (hi - lo) (saveArea l j + 0x6800) (recOcdef l.recd) (updLaunch l.vi l.seq (Launch.began j) u)

theorem started_mem (n : Nat) (l : Launch) (j lo hi : Nat) (u : State) : (started n l j lo hi u).mem = u.mem := by
  rw [started, startCtx]
  rw [updVlc_mem, updVlc_mem]
  rfl

theorem getVlc_started_same (n : Nat) (l : Launch) (j lo hi : Nat) (u : State) :
    getVlc (started n l j lo hi u) n = begun n l j lo hi (saveArea l j + 0x6800) (vlenOf u n) := by
  rw [started, startCtx]
  rw [getVlc_updVlc_same, getVlc_updVlc_same, ctxid, getVlc_updVlc_same]
  rfl

theorem getVlc_started_other {n m : Nat} (hm : m ≠ n) (l : Launch) (j lo hi : Nat) (u : State) : getVlc (started n l j lo hi u) m = getVlc u m := by
  rw [started, startCtx]
  rw [getVlc_updVlc_other _ _ hm, getVlc_updVlc_other _ _ hm]
  rfl

theorem startInstance_eq {n : Nat} {l : Launch} {j lo hi : Nat} {s u : State} (h : rootWrite l (saveArea l j + 0x6800) (argBlock l) s = some u) :
    startInstance n l j lo hi s = started n l j lo hi u := by
  rw [startInstance, h]
  rfl

/-! ### Its registers -/

section
variable {n : Nat} {l : Launch} {j lo hi block vlen : Nat}

theorem begun_rx1 : (begun n l j lo hi block vlen).rx 1 = wN lo := by simp [begun, Vlc.rx, tget_tset]
theorem begun_rx2 : (begun n l j lo hi block vlen).rx 2 = wN (hi - lo) := by simp [begun, Vlc.rx, tget_tset]
theorem begun_rx3 : (begun n l j lo hi block vlen).rx 3 = wN block := by simp [begun, Vlc.rx, tget_tset]
theorem begun_rx4 : (begun n l j lo hi block vlen).rx 4 = wN (vlen / 8) := by simp [begun, Vlc.rx, tget_tset]
theorem begun_rx5 : (begun n l j lo hi block vlen).rx 5 = wN (j % 2048 + n / 8 % 16 * 2 ^ 12 + n / 128 * 2 ^ 16 + n / 4 % 2 * 2 ^ 20 + n % 4 * 2 ^ 21) := by
  simp [begun, Vlc.rx]

theorem begun_rx_gt {k : Nat} (hk : 5 < k) : (begun n l j lo hi block vlen).rx k = 0 := by
  have h (i : Nat) (hi : i ≤ 5) : k ≠ i := fun e => absurd (e ▸ hk) (Nat.not_lt.2 hi)
  simp only [begun, Vlc.rx, tget_tset, if_neg (h 0 (by decide)), if_neg (h 1 (by decide)), if_neg (h 2 (by decide)), if_neg (h 3 (by decide)), if_neg (h 4 (by decide)), if_neg (h 5 (by decide))]
  rfl

end

/-! ### Messages that start or place -/

section
variable {s : State} {q : Nat} {c : Cand} {l : Launch} {rest : List Msg} (hl : getLaunch s c.vi c.seq = some l) (hscan : s.mgmt.scan ≠ some q) (hfault : l.fault = none)
include hl hscan hfault

theorem deal_starts {lo hi : Nat} (hq : (getLink s.sched.down q).queue = .deal c (some (lo, hi)) :: rest) (hfree : (getVlc s (slotVlc c l)).status = .free)
    (hpend : tget none s.sched.pend (slotVlc c l) = none) (hwait : tget none s.sched.awaits (slotVlc c l) = none ∨ tget none s.sched.awaits (slotVlc c l) = some c)
    (hquad : quadOut s (quadOfVlc (slotVlc c l)) = false) (hclosed : closed s = false) (hturn : rootWaits s (.area (slotVlc c l)) l (argAccs s l c.slotNo) = false) :
    exec (.deal q) s = .next (startInstance (slotVlc c l) l c.slotNo lo hi (awaitDeal (slotVlc c l) none (endWait (.area (slotVlc c l)) (popDown q s)))) := by
  have hheld : heldLink s q = false := by rw [heldLink]; exact beq_eq_false_iff_ne.2 hscan
  have hl' : getLaunch (popDown q s) c.vi c.seq = some l := hl
  have hmine : ((tget none s.sched.awaits (slotVlc c l)).getD c == c) = true := by
    rcases hwait with h | h <;> rw [h] <;> exact beq_self_eq_true c
  refine congrArg Host.Outcome.next ?_
  rw [hq]
  dsimp only
  rw [hheld, hl', if_neg Bool.false_ne_true]
  dsimp only
  rw [hfault, if_neg (by exact Bool.false_ne_true)]
  exact (if_pos ⟨hfree, hpend, hmine, hquad, hclosed⟩).trans (if_neg (by rw [slotVlc] at hturn; rw [hturn]; exact Bool.false_ne_true))

/-- The state in which a new slot is placed and waits for its deal. -/
def placed (q n : Nat) (c : Cand) (l : Launch) (s : State) : State :=
  awaitDeal n (some c) (setSlotState l.vi l.seq c.slotNo .waiting { popDown q s with sched := { (popDown q s).sched with
    preloads := s.sched.preloads.filter (fun p => !(p.vi == l.vi && p.seq == l.seq && p.vault == vaultOf n)) } })

theorem place_asks {n : Nat} (hclosed : closed s = false) (hq : (getLink s.sched.down q).queue = .place n c :: rest) (hquad : quadOut s (quadOfVlc n) = false)
    (hfree : (getVlc s n).status = .free) (hsaved : ∀ x ∈ l.saved, x.slotNo ≠ c.slotNo) (hslot : slotState l c.slotNo = .unplaced) (hpre : needsPreload s l (vaultOf n) = false)
    (hlpr : (getVault s (vaultOf n)).lpr = recLpr l.recd) (hr : tget (0, 0) l.ranges c.slotNo = (0, 0)) :
    exec (.place q) s = .next (sendUp (quadOfVlc n) (.dealreq c) (placed q n c l s)) := by
  have hheld : heldLink s q = false := by rw [heldLink]; exact beq_eq_false_iff_ne.2 hscan
  have hl' : getLaunch (popDown q s) c.vi c.seq = some l := hl
  have hnone : l.saved.find? (fun x => x.slotNo == c.slotNo) = none := List.find?_eq_none.2 fun x hx h => hsaved x hx (beq_iff_eq.1 h)
  have hwrite : writeLpr l (vaultOf n) (popDown q s) = popDown q s := if_pos hlpr
  have hready : lprWaits l.vi l.seq (vaultOf n) (coreOf n) (popDown q s) = false := by
    have hsame : (getVault (popDown q s) (vaultOf n)).lpr = recLpr l.recd := hlpr
    obtain ⟨hv, hs⟩ := getLaunch_key hl
    rw [lprWaits, hv, hs, hl', hsame]
    simp
  refine congrArg Host.Outcome.next ?_
  rw [hq]
  dsimp only
  rw [hheld, if_neg Bool.false_ne_true, leafPlace, hl']
  dsimp only
  have hopen : (l.fault.isSome || quadOut (popDown q s) (quadOf (vaultOf n)) || closed (popDown q s)) = false := by
    rw [hfault]
    exact Bool.or_eq_false_iff.2 ⟨hquad, hclosed⟩
  have hfree' : (getVlc (popDown q s) n).status = .free := hfree
  have hpre' : needsPreload (popDown q s) l (vaultOf n) = false := hpre
  rw [hopen, if_neg Bool.false_ne_true, hnone, if_neg (not_not.2 hfree'), hslot]
  dsimp only
  rw [hpre', if_neg Bool.false_ne_true, hwrite, ite_self, hready, if_neg Bool.false_ne_true, hr]
  rfl

end

end Sys2Proof.Machine
end

section
/-! SUPPORT. A pre-emption begins, and the next candidate takes a VLC (R60, R64, R301). -/
namespace Sys2Proof.Machine

/-! ### A pre-emption (R64) -/

/-- Whether a command of VLC `n` runs long (R64, R308). -/
def runsLong (n : Nat) (s : State) : Bool := s.cmds.any (fun c => c.vlc == n && c.kind == .bkx && c.stage == .running && c.worst > 1500)

/-- A command that is withdrawn as VLC `n` drains (R64 step 4). -/
def Cmd.drained (n : Nat) (c : Cmd) : Cmd :=
  if c.vlc == n && !c.dropped && (c.stage == .sent || c.stage == .queued || (c.kind == .lock && c.stage == .running)) then { c with stage := .withdrawn } else c

/-- A context that begins to drain. -/
def Vlc.drains (cyc : Nat) (long : Bool) (v : Vlc) : Vlc := { v with status := .draining, drainAt := cyc, drainLong := long, cmdEnd := cyc, flip := none, early := [] }

theorem beginDrain_running {n : Nat} {s : State} (hst : (getVlc s n).status = .running) (hres : (getVlc s n).resident = false) :
    beginDrain n s = { updVlc n (Vlc.drains s.cyc (runsLong n s)) (discardAhead n s) with
      cmds := (updVlc n (Vlc.drains s.cyc (runsLong n s)) (discardAhead n s)).cmds.map (Cmd.drained n) } := by
  rw [beginDrain, hst, hres]
  rfl

theorem runsLong_iff {n : Nat} {s : State} : runsLong n s = true ↔ ∃ c ∈ s.cmds, c.vlc = n ∧ c.kind = .bkx ∧ c.stage = .running ∧ c.worst > 1500 := by
  rw [runsLong, List.any_eq_true]
  simp only [Bool.and_eq_true, beq_iff_eq, decide_eq_true_eq, and_assoc]

/-- No command of a draining context is still on its way to the frames. -/
theorem drained_stage {n : Nat} {c : Cmd} (hv : (c.drained n).vlc = n) (hd : (c.drained n).dropped = false) : (c.drained n).stage ≠ .sent ∧ (c.drained n).stage ≠ .queued := by
  unfold Cmd.drained at *
  split at hv
  · next h =>
    rw [if_pos h]
    exact ⟨fun e => (nomatch e), fun e => (nomatch e)⟩
  · next h =>
    rw [if_neg h] at hd ⊢
    simp only [hv, hd, beq_self_eq_true, Bool.not_false, Bool.and_self, Bool.true_and, Bool.or_eq_true, beq_iff_eq, not_or] at h
    exact ⟨h.1.1, h.1.2⟩

section
variable {s : State} {n : Nat} (hst : (getVlc s n).status = .running) (hres : (getVlc s n).resident = false)
include hst hres

theorem beginDrain_same : getVlc (beginDrain n s) n = { (getVlc s n).drains s.cyc (runsLong n s) with ahead := [] } := by
  rw [beginDrain_running hst hres]
  have h : getVlc (updVlc n (Vlc.drains s.cyc (runsLong n s)) (discardAhead n s)) n = Vlc.drains s.cyc (runsLong n s) { getVlc s n with ahead := [] } := by
    rw [getVlc_updVlc_same, getVlc_discardAhead_same]
  exact h

theorem beginDrain_other {m : Nat} (hm : m ≠ n) : getVlc (beginDrain n s) m = getVlc s m := by
  rw [beginDrain_running hst hres]
  have h : getVlc (updVlc n (Vlc.drains s.cyc (runsLong n s)) (discardAhead n s)) m = getVlc s m := by
    rw [getVlc_updVlc_other _ _ hm, (discardAhead_parts n s).2.2.2 m hm]
  exact h

theorem beginDrain_mem : (beginDrain n s).mem = s.mem := by
  rw [beginDrain_running hst hres]
  exact (discardAhead_parts n s).1

theorem beginDrain_cmds {c : Cmd} (hc : c ∈ (beginDrain n s).cmds) (hv : c.vlc = n) (hd : c.dropped = false) : c.stage ≠ .sent ∧ c.stage ≠ .queued := by
  rw [beginDrain_running hst hres] at hc
  obtain ⟨d, -, rfl⟩ := List.mem_map.1 hc
  exact drained_stage hv hd

end

/-! ### The next candidate (R301) -/

/-- A candidate that needs no preload is placed on a free VLC, and no launch starts that has started before. -/
theorem bring_places {n : Nat} {d : Cand} {k : Launch} {u : State} (hfree : (getVlc u n).status = .free) (hk : getLaunch u d.vi d.seq = some k) (hstarted : k.started = true)
    (hpre : needsPreload u k (vaultOf n) = false) : bring n d u = sendDown (quadOfVlc n) (.place n d) u := by
  have hstart : noteStart d u = u := by
    rw [noteStart, hk]
    exact if_pos hstarted
  have hidle : (Status.free != Status.free) = false := rfl
  rw [bring, hfree, hidle]
  simp only [Bool.false_eq_true, if_false, hk, hpre, Bool.false_and, reduceCtorEq, or_self, hstart]

theorem needsPreload_of_off {s : State} {l : Launch} {vault : Nat} (h : (getVi s l.vi).preld.toNat % 2 = 0) : needsPreload s l vault = false := by
  rw [needsPreload, bitN, Nat.pow_zero, Nat.div_one, h]
  rfl

section
variable {s : State} {q n : Nat} {c : Cand} {l : List Msg} (hf : s.sched.failed = false) (hq : (getLink s.sched.up q).queue = .done n c :: l)
include hf hq

theorem done_idle (h : vlcTaken s n = true ∨ quadOut s (quadOfVlc n) = true ∨ (tget [] s.sched.ranks n).filter (fun d => (candsOf s n).contains d) = []) :
    exec (.done q) s = .next (popUp q s) := by
  refine congrArg Host.Outcome.next ((if_neg (by rw [hf]; exact Bool.false_ne_true)).trans ?_)
  rw [hq]
  dsimp only
  by_cases hout : (vlcTaken s n || quadOut s (quadOfVlc n)) = true
  · exact if_pos hout
  · refine (if_neg hout).trans ?_
    have hempty : (tget [] (popUp q s).sched.ranks n).filter (fun d => (candsOf (popUp q s) n).contains d) = [] := by
      rcases h with h | h | h
      · rw [h] at hout; exact absurd rfl hout
      · rw [h, Bool.or_true] at hout; exact absurd rfl hout
      · exact h
    rw [hempty]

theorem done_places {d : Cand} {r : List Cand} {k : Launch} (hr : (tget [] s.sched.ranks n).filter (fun d => (candsOf s n).contains d) = d :: r)
    (hk : getLaunch s d.vi d.seq = some k) (hstarted : k.started = true) (hclosed : closed s = false) (htaken : vlcTaken s n = false) (hquad : quadOut s (quadOfVlc n) = false)
    (hpre : (getVi s d.vi).preld.toNat % 2 = 0) :
    exec (.done q) s = .next (sendDown (quadOfVlc n) (.place n d) { popUp q s with sched := { (popUp q s).sched with ranks := tset [] s.sched.ranks n r } }) := by
  have hout : (vlcTaken (popUp q s) n || quadOut (popUp q s) (quadOfVlc n)) = false := Bool.or_eq_false_iff.2 ⟨htaken, hquad⟩
  have hr' : (tget [] (popUp q s).sched.ranks n).filter (fun d => (candsOf (popUp q s) n).contains d) = d :: r := hr
  have hclosed' : closed (popUp q s) = false := hclosed
  have hfree : (getVlc s n).status = .free := by
    simp only [vlcTaken, Bool.or_eq_false_iff, bne_eq_false_iff_eq] at htaken
    exact htaken.1.1.1
  refine congrArg Host.Outcome.next ((if_neg (by rw [hf]; exact Bool.false_ne_true)).trans ?_)
  rw [hq]
  dsimp only
  rw [hout, if_neg Bool.false_ne_true, hr']
  dsimp only
  rw [hclosed', if_neg Bool.false_ne_true]
  exact bring_places hfree hk hstarted (needsPreload_of_off (by rw [(getLaunch_key hk).1]; exact hpre))

end

end Sys2Proof.Machine
end

section
/-! SUPPORT. The messages of the command links, assembled (R46, R52, R54, R60, R64, R300 to R302, R385). -/
namespace Sys2Proof.Machine

/-- What a context is as it starts, whatever wrote its argument block (R52). -/
theorem started_context {n : Nat} {l : Launch} {j lo hi q : Nat} {s u : State}
    (h : rootWrite l (saveArea l j + 0x6800) (argBlock l) (awaitDeal n none (endWait (.area n) (popDown q s))) = some u) :
    getVlc (started n l j lo hi u) n = begun n l j lo hi (saveArea l j + 0x6800) (vlenOf s n) ∧ ∀ m, m ≠ n → getVlc (started n l j lo hi u) m = getVlc s m := by
  have hd := rootWrite_dieOnly h
  have hw := endWait_waitsOnly (.area n) (popDown q s)
  have hvlen : vlenOf (awaitDeal n none (endWait (.area n) (popDown q s))) n = vlenOf s n := hw.toDieOnly.vlenOf_eq n
  have hother (m : Nat) : getVlc (awaitDeal n none (endWait (.area n) (popDown q s))) m = getVlc s m := hw.toDieOnly.getVlc_eq m
  refine ⟨?_, fun m hm => ?_⟩
  · rw [getVlc_started_same, hd.vlenOf_eq, hvlen]
  · rw [getVlc_started_other hm, hd.getVlc_eq, hother]

theorem getLaunch_placed {s : State} {q n : Nat} {c : Cand} {l : Launch} (hl : getLaunch s c.vi c.seq = some l) :
    getLaunch (placed q n c l s) c.vi c.seq = some (l.slotAt c.slotNo .waiting) := by
  obtain ⟨hv, hs⟩ := getLaunch_key hl
  rw [placed, hv, hs]
  exact getLaunch_setSlotState (s := { popDown q s with sched := _ }) c.slotNo .waiting hl

/-- A link behind its first message (R300). -/
theorem popUp_entry {s : State} {q : Nat} {m : Msg} {l : List Msg} (hq : (getLink s.sched.up q).queue = m :: l) :
    EntryIs {} s.sched.up (popUp q s).sched.up q { getLink s.sched.up q with queue := l, acks := (getLink s.sched.up q).acks + 1 } := by
  have h := entryIs_tupd {} s.sched.up q Link.popped
  have hpop : Link.popped (getLink s.sched.up q) = { getLink s.sched.up q with queue := l, acks := (getLink s.sched.up q).acks + 1 } := by rw [Link.popped, hq]; rfl
  rw [← hpop]
  exact h

theorem updVi_entry (vi : Nat) (f : Vi → Vi) (s : State) : EntryIs {} s.vis (updVi vi f s).vis vi (f (getVi s vi)) := entryIs_tupd ..

/-- Settles O53. -/
theorem schedulerLinks : Obligations.SchedulerLinks := by
  unfold Obligations.SchedulerLinks
  intro s q down up may
  refine ⟨fun hacks => ⟨fun hw => ?_, fun m w hw => ?_⟩, fun vi u l hf hq => ?_, fun c l hl => ?_, fun n l hscan hq hst hres => ?_, fun n c l hf hq => ⟨fun h => ?_, fun d r k hr hk hstarted hclosed htaken hquad hpre hmay => ?_⟩⟩
  · exact ⟨_, cmdAck_idle hacks hw, rfl, entryIs_tupd .., rfl⟩
  · refine ⟨_, cmdAck_sends hacks hw, rfl, ⟨?_, fun k hk => ?_⟩, tget_tset_same ..⟩
    · exact (tget_tupd_same ..).trans ((congrArg (Link.sent m) (tget_tupd_same ..)).trans (sent_acked m _))
    · exact (tget_tupd_other _ _ _ hk).trans (tget_tupd_other _ _ _ hk)
  · exact ⟨_, cost_exec hf hq, updVi_entry vi _ (popUp q s), popUp_entry hq, rfl, rfl⟩
  · intro n k r Deals
    refine ⟨fun rest hf hq hmay => ⟨fun hfault hlt hquad => ?_, fun hempty hsteal => ?_⟩, fun rest hf hq hempty hsteal hsome hmay => ?_,
      fun rest v lo hi hf hq hmay hfault hquad hempty hrich hv => ?_, fun rest hscan hq => ?_,
      fun rest lo hi u hscan hq hfault hfree hpend hwait hquad hclosed => ?_,
      fun rest hscan hclosed hq hfault hquad hfree hsaved hslot hpre hlpr hr hmay => ?_⟩
    · obtain ⟨t, hrun, hsent, hfound, hmem⟩ := dealreq_gives hl hf hq hmay hfault rfl hlt hquad
      exact ⟨t, _, hrun, hsent, hfound, rfl, ⟨tget_tset_same .., fun j hj => tget_tset_other _ _ _ hj⟩, ⟨tget_tset_same .., fun j hj => tget_tset_other _ _ _ hj⟩, hmem⟩
    · exact dealreq_refuses hl hf hq hmay hempty hsteal
    · exact dealreq_asks hl hf hq hmay hempty hsteal hsome
    · intro p hlt e
      obtain ⟨t, hrun, hsent, hfound, hmem⟩ := stealreq_gives hl hf hq hmay hfault hquad hempty hrich rfl hlt
      refine ⟨t, _, hrun, hsent, hfound, ?_, tget_tset_same .., tget_tset_same .., hmem⟩
      exact (tget_tset_other _ _ _ hv).trans ((tget_tset_other _ _ _ hv).trans (tget_tset_same ..))
    · exact deal_ends hl hscan hq
    · intro block hturn hwrite
      have hrun := (deal_starts hl hscan hfault hq hfree hpend hwait hquad hclosed hturn).trans (congrArg Host.Outcome.next (startInstance_eq hwrite))
      obtain ⟨hme, hother⟩ := started_context (n := slotVlc c l) hwrite
      refine ⟨_, hrun, started_mem .., ?_, hother⟩
      have hbegun : getVlc (started (slotVlc c l) l c.slotNo lo hi u) n = begun n l c.slotNo lo hi block (vlenOf s n) := hme
      rw [hbegun]
      exact ⟨rfl, rfl, begun_rx1, begun_rx2, begun_rx3, begun_rx4, begun_rx5, fun j hj => begun_rx_gt hj, rfl, rfl, rfl, rfl, rfl, rfl, rfl, rfl, rfl, rfl, rfl,
        fun _ => ⟨rfl, rfl⟩, rfl, rfl, rfl, rfl, rfl⟩
    · obtain ⟨hsent, honly, hsched⟩ := sendUp_sends (q := quadOfVlc n) (m := .dealreq c) (u := placed q n c l s) hmay.1 hmay.2
      have hawaits : (sendUp (quadOfVlc n) (.dealreq c) (placed q n c l s)).sched.awaits = (placed q n c l s).sched.awaits := by
        have h := congrArg Sched.awaits hsched; exact h
      refine ⟨_, l.slotAt c.slotNo .waiting, place_asks hl hscan hfault hclosed hq hquad hfree hsaved hslot hpre hlpr hr, ?_, slotState_slotAt .., ?_, hsent, honly.mem, honly.vlcs⟩
      · exact (honly.getLaunch_eq ..).trans (getLaunch_placed hl)
      · rw [hawaits]
        exact tget_tset_same none (some c) s.sched.awaits n
  · refine ⟨beginDrain n (popDown q s), runsLong n (popDown q s), ?_, (beginDrain_same (s := popDown q s) hst hres), runsLong_iff, fun m hm => beginDrain_other (s := popDown q s) hst hres hm,
      beginDrain_mem (s := popDown q s) hst hres, fun c hc hv hd => beginDrain_cmds (s := popDown q s) hst hres hc hv hd⟩
    have hheld : heldLink s q = false := by rw [heldLink]; exact beq_eq_false_iff_ne.2 hscan
    refine congrArg Host.Outcome.next ?_
    rw [show (getLink s.sched.down q).queue = .preempt n :: l from hq]
    dsimp only
    rw [hheld]
    rfl
  · exact ⟨_, done_idle hf hq h, rfl, popUp_entry hq, rfl⟩
  · obtain ⟨hsent, honly, hsched⟩ := sendDown_sends (s := s) (q := quadOfVlc n) (m := .place n d)
      (u := { popUp q s with sched := { (popUp q s).sched with ranks := tset [] s.sched.ranks n r } }) rfl rfl hmay.1 hmay.2
    refine ⟨_, done_places hf hq hr hk hstarted hclosed htaken hquad hpre, hsent, ?_, honly.mem, honly.vlcs, honly.launches⟩
    have hranks := congrArg Sched.ranks hsched
    exact (congrArg (fun t => tget [] t n) hranks).trans (tget_tset_same ..)

end Sys2Proof.Machine
end

section
/-! SUPPORT. Tables that a tick or a takeover runs over, and a tick without launches (R302, R303, R415). -/
namespace Sys2Proof.Machine

/-! ### Updates of many entries of a table -/

section
variable {α β : Type} [DecidableEq β] {d : β} {key : α → Nat} {f : α → β → β} {k : Nat}

theorem tget_foldl_tupd_off : ∀ {L : List α} {t : Tbl β}, (∀ p ∈ L, key p ≠ k) → tget d (L.foldl (fun t p => tupd d t (key p) (f p)) t) k = tget d t k
  | [], _, _ => rfl
  | p :: _, _, h => (tget_foldl_tupd_off fun x hx => h x (List.mem_cons_of_mem p hx)).trans (tget_tupd_other _ _ _ (h p List.mem_cons_self).symm)

/-- Where the keys are distinct each entry is updated once. -/
theorem tget_foldl_tupd_on {p : α} : ∀ {L : List α} {t : Tbl β}, (L.map key).Nodup → p ∈ L →
    tget d (L.foldl (fun t p => tupd d t (key p) (f p)) t) (key p) = f p (tget d t (key p))
  | q :: L, t, hn, hp => by
    rw [List.map_cons, List.nodup_cons] at hn
    rw [List.foldl_cons]
    rcases List.mem_cons.1 hp with rfl | hp
    · rw [tget_foldl_tupd_off fun x hx he => hn.1 (by rw [← he]; exact List.mem_map_of_mem hx), tget_tupd_same]
    · rw [tget_foldl_tupd_on hn.2 hp, tget_tupd_other]
      exact fun he => hn.1 (by rw [← he]; exact List.mem_map_of_mem hp)

end

/-! ### The standby takes over (R415) -/

theorem failover_exec {s : State} (ha : s.sched.active ≠ 11) (hs : s.sched.standby = true) (hp : s.plat.stopped = false) :
    exec .schedulerFailover s = .next (elog 14 0 11 0 0 0 0 (takeOver s)) := by
  refine congrArg Host.Outcome.next (if_neg ?_)
  rw [hs, hp]
  rintro (h | h | h)
  · exact ha h
  · cases h
  · cases h

theorem takeOver_vi {s : State} (hn : (s.sched.copy.vis.map Prod.fst).Nodup) {p : Nat × Int × Nat} (hp : p ∈ s.sched.copy.vis) :
    getVi (takeOver s) p.1 = { getVi s p.1 with deficit := p.2.1, cost := p.2.2 } :=
  tget_foldl_tupd_on (key := Prod.fst) (f := fun (p : Nat × Int × Nat) (v : Vi) => { v with deficit := p.2.1, cost := p.2.2 }) hn hp

theorem takeOver_vi_other {s : State} {k : Nat} (h : ∀ p ∈ s.sched.copy.vis, p.1 ≠ k) : getVi (takeOver s) k = getVi s k := tget_foldl_tupd_off h

/-! ### A tick without launches (R301 to R303) -/

/-- The deficits of the first `n` virtual interfaces are settled. -/
def settledTo (n : Nat) (s : State) : State := { s with vis := (upto n).foldl (fun t v => tupd {} t v (newDeficit s v)) s.vis }

theorem settledTo_vi {s : State} {n v : Nat} (hv : v < n) : getVi (settledTo n s) v = newDeficit s v (getVi s v) :=
  tget_foldl_tupd_on (key := id) (f := newDeficit s) (by rw [List.map_id]; exact List.nodup_range) (List.mem_range.2 hv)

/-- A table filled with zeros is empty. -/
theorem foldl_tset_zero {ks : List (Nat × Nat)} (h : ∀ p ∈ ks, p.2 = 0) : ks.foldl (fun t p => tset 0 t p.1 p.2) [] = ([] : Tbl Nat) := by
  induction ks with
  | nil => rfl
  | cons p ks ih =>
    rw [List.foldl_cons, h p List.mem_cons_self]
    exact ih fun x hx => h x (List.mem_cons_of_mem p hx)

/-- The VIs of `vs` with a floor, and the VLCs on which each has a candidate or a context (R304). -/
def floorKs (s : State) (vs : List Nat) : List (Nat × Nat) := (vs.filter (fun v => floorCount s v > 0)).map (fun v => (v, floorK s v))

/-- The floors of `ks` are noted, and those found missed logged (R308). -/
def noteKs (ks : List (Nat × Nat)) (s : State) : State :=
  let late := ks.filter (fun p => holdsVlcs s [] p.1 < min (floorCount s p.1) (min p.2 (tget 0 s.sched.floorK p.1)))
  late.foldl (fun s p => elog 8 cPROMISE_MISSED s.sched.active 0 (hostAgent p.1) 0 0 s) { s with sched := { s.sched with floorK := ks.foldl (fun t p => tset 0 t p.1 p.2) [] } }

theorem noteFloors_eq (s : State) : noteFloors s = noteKs (floorKs s (upto 256)) s := rfl

theorem noteKs_of_zero {s : State} {ks : List (Nat × Nat)} (h : ∀ p ∈ ks, p.2 = 0) : noteKs ks s = { s with sched := { s.sched with floorK := [] } } := by
  have hlate : ks.filter (fun p => holdsVlcs s [] p.1 < min (floorCount s p.1) (min p.2 (tget 0 s.sched.floorK p.1))) = [] := by
    rw [List.filter_eq_nil_iff]
    intro p hp
    rw [h p hp, decide_eq_true_eq]
    omega
  rw [noteKs, hlate, foldl_tset_zero h]
  rfl

theorem floorKs_zero {s : State} (h : ∀ v, floorCount s v > 0 → floorK s v = 0) (vs : List Nat) : ∀ p ∈ floorKs s vs, p.2 = 0 := by
  intro p hp
  rw [floorKs, List.mem_map] at hp
  obtain ⟨v, hv, he⟩ := hp
  have hk : p.2 = floorK s v := by rw [← he]
  rw [hk]
  exact h v (of_decide_eq_true (List.mem_filter.1 hv).2)

/-- Where no VI with a floor has a candidate or a context, no floor is noted or missed (R304, R308). -/
theorem noteFloors_of_zero {s : State} (h : ∀ v, floorCount s v > 0 → floorK s v = 0) : noteFloors s = { s with sched := { s.sched with floorK := [] } } := by
  rw [noteFloors_eq]
  exact noteKs_of_zero (floorKs_zero h _)

theorem noteReady_of_none {s : State} (h : s.launches = []) : noteReady s = s := by
  rw [noteReady_of_watched (by rw [h]; exact fun _ hl => absurd hl List.not_mem_nil), h, List.map_nil, ← h]

theorem candsOf_of_none {s : State} (h : s.launches = []) (n : Nat) : candsOf s n = [] := by rw [candsOf, h]; rfl

theorem loadRecords_of_none {s : State} (h : s.launches = []) : loadRecords s = s := by rw [loadRecords, h]; rfl

theorem busyVlcs_of_none {s : State} (h : s.launches = []) : busyVlcs s = [] := by
  rw [busyVlcs, List.filter_eq_nil_iff]
  intro n _
  rw [candsOf_of_none h, List.isEmpty_nil, Bool.not_true, Bool.and_false]
  exact Bool.false_ne_true

theorem floorK_of_none {s : State} (h : s.launches = []) (ho : ∀ n, occupant s n = none) (v : Nat) : floorK s v = 0 := by
  rw [floorK, List.length_eq_zero_iff, List.filter_eq_nil_iff]
  intro n _
  rw [candsOf_of_none h, ho]
  simp

/-- A VI without launches that may run has no deficit (R303). -/
theorem newDeficit_of_none {s : State} (h : s.launches = []) (vi : Nat) (v : Vi) : newDeficit s vi v = { v with cost := 0, deficit := 0 } := by
  rw [newDeficit, h]
  rfl

/-- The state in which a tick begins. -/
def ticked (s : State) : State := { s with sched := { s.sched with lastTick := s.cyc / 33000 } }

end Sys2Proof.Machine
end

section
/-! SUPPORT. The stages of a tick, and the tick of a module without launches (R301 to R303). -/
namespace Sys2Proof.Machine

/-- Refused writes of LPR are made again (R54). -/
def writeLprs (s : State) : State := s.launches.foldl (fun s l => l.lprTodo.foldl (fun s v => writeLpr l v s) s) s

/-- The choices of a tick among the VLCs `vlcs` (R301, R304, R307). -/
def chosen (forced : List (Nat × Cand)) (grants : Tbl Nat) (vlcs : List Nat) (s : State) : State := vlcs.foldl (fun s n => chooseVlc forced grants n s) s

/-- The floor grants of the first `k` VIs (R304). -/
def grantsTo (k : Nat) (vlcs : List Nat) (s : State) : Tbl Nat := (upto k).foldl (fun g v => if floorCount s v = 0 then g else floorGrants s vlcs g v) []

/-- The choices of a tick, unless a checkpoint is under way (R409). -/
def tickChoices (s : State) : State :=
  if closed s then s
  else
    let u := stopScan s (forcedStarts s)
    chosen (forcedStarts s) (grantsTo 256 (busyVlcs u) u) (busyVlcs u) u

/-- What a tick does once every quad has reported its costs. -/
theorem tick_exec {s : State} (hdue : tickDue s = true) (hcosts : costsOut s = false) :
    exec .schedulerTick s = .next (copySched (tickChoices (writeLprs (settledTo 256 (loadRecords (noteFloors (noteReady (ticked s)))))))) := by
  refine congrArg Host.Outcome.next ((if_neg ?_).trans ?_)
  · rw [hdue, hcosts]; exact Bool.false_ne_true
  · rfl

/-- A test that no forced start names goes on (R386). -/
theorem stopScan_nil (s : State) : stopScan s [] = s := by
  unfold stopScan
  split <;> rfl

theorem settledTo_launches (n : Nat) (s : State) : (settledTo n s).launches = s.launches := rfl

section
variable {s : State} (hl : s.launches = [])
include hl

theorem writeLprs_of_none : writeLprs s = s := by rw [writeLprs, hl]; rfl

theorem forcedStarts_of_none : forcedStarts s = [] := by rw [forcedStarts, hl]; rfl

theorem tickChoices_of_none : tickChoices s = s := by
  rw [tickChoices, forcedStarts_of_none hl, stopScan_nil]
  dsimp only
  rw [busyVlcs_of_none hl]
  exact ite_self s

/-- The state in which a tick begins, once the floors have been noted and none is in use (R304). -/
def tickStart (s : State) : State := { s with sched := { s.sched with lastTick := s.cyc / 33000, floorK := [] } }

/-- A tick without launches only settles the deficits (R301 to R303). -/
theorem tick_of_none (hdue : tickDue s = true) (hcosts : costsOut s = false) (ho : ∀ n, occupant s n = none) :
    exec .schedulerTick s = .next (copySched (settledTo 256 (tickStart s))) := by
  have hready : noteReady (ticked s) = ticked s := noteReady_of_none hl
  have hfloors : noteFloors (ticked s) = tickStart s := noteFloors_of_zero fun v _ => floorK_of_none (s := ticked s) hl ho v
  have hload : loadRecords (tickStart s) = tickStart s := loadRecords_of_none hl
  have hnone : (settledTo 256 (tickStart s)).launches = [] := (settledTo_launches 256 (tickStart s)).trans hl
  rw [tick_exec hdue hcosts, hready, hfloors, hload, writeLprs_of_none hnone, tickChoices_of_none hnone]

end

end Sys2Proof.Machine
end

section
/-! SUPPORT. The tick of a module without launches, and the choices of a tick with one launch of one slot (R301 to R303, log 39). -/
namespace Sys2Proof.Machine

/-- What a tick without launches leaves, whatever it makes of the deficits. -/
def tickEnd (vis : Tbl Vi) (s : State) : State := copySched { tickStart s with vis := vis }

theorem tickEnd_frame (vis : Tbl Vi) (s : State) : { tickEnd vis s with sched := s.sched, vis := s.vis } = s := rfl

theorem tickEnd_sched (vis : Tbl Vi) (s : State) : (tickEnd vis s).sched = { s.sched with lastTick := s.cyc / 33000, floorK := [], copy := (tickEnd vis s).sched.copy } := rfl

theorem tickEnd_copy (vis : Tbl Vi) (s : State) :
    (tickEnd vis s).sched.copy = { ranks := s.sched.ranks, floorK := [], lastTick := s.cyc / 33000, vis := vis.map (fun p => (p.1, (p.2.deficit, p.2.cost))) } := rfl

theorem tickEnd_vi (u s : State) (v : Nat) : getVi (tickEnd u.vis s) v = getVi u v := rfl

theorem copySched_settledTo (n : Nat) (s : State) : copySched (settledTo n (tickStart s)) = tickEnd (settledTo n (tickStart s)).vis s := rfl

theorem tick_of_none_settles {s : State} (hdue : tickDue s = true) (hcosts : costsOut s = false) (hl : s.launches = []) (ho : ∀ n, occupant s n = none) :
    ∃ t, exec .schedulerTick s = .next t ∧
      { t with sched := s.sched, vis := s.vis } = s ∧ t.sched = { s.sched with lastTick := s.cyc / 33000, floorK := [], copy := t.sched.copy } ∧
      t.sched.copy = { ranks := s.sched.ranks, floorK := [], lastTick := s.cyc / 33000, vis := t.vis.map (fun p => (p.1, (p.2.deficit, p.2.cost))) } ∧
      ∀ v, v < 256 → getVi t v = { getVi s v with cost := 0, deficit := 0 } := by
  have hvi : ∀ v, v < 256 → getVi (settledTo 256 (tickStart s)) v = { getVi s v with cost := 0, deficit := 0 } :=
    fun v hv => (settledTo_vi hv).trans (newDeficit_of_none (s := tickStart s) hl v _)
  have hexec := tick_of_none hl hdue hcosts ho
  rw [copySched_settledTo] at hexec
  generalize settledTo 256 (tickStart s) = u at hexec hvi
  exact ⟨tickEnd u.vis s, hexec, tickEnd_frame _ s, tickEnd_sched _ s, tickEnd_copy _ s, fun v hv => (tickEnd_vi _ s v).trans (hvi v hv)⟩

end Sys2Proof.Machine
end

section
/-! SUPPORT. The choices of a tick with one launch of one slot, and the start of a launch (R301, R303, R307, log 39). -/
namespace Sys2Proof.Machine

/-- The numbers below `k` that satisfy a property of `n` alone. -/
theorem filter_upto_eq {p : Nat → Bool} {k n : Nat} (hn : n < k) (hp : ∀ m, p m = (m == n)) : (upto k).filter p = [n] := by
  have hcount : (List.range k).count n = 1 := List.count_eq_one_of_mem List.nodup_range (List.mem_range.2 hn)
  have hp' : p = fun m => m == n := funext hp
  rw [hp']
  exact (List.filter_beq n).trans (by rw [show upto k = List.range k from rfl, hcount]; rfl)

/-- A launch that is the only one of a module, with one slot, on VLC `n`, which has not been placed. -/
structure OneSlot (l : Launch) (n : Nat) (s : State) : Prop where
  launches : s.launches = [l]
  slots : l.slots = [n]
  recd : l.recd ≠ []
  fault : l.fault = none
  saved : l.saved = []
  unplaced : slotState l 0 = .unplaced
  free : getVlc s n = {}
  quad : quadOut s (quadOfVlc n) = false

/-- The candidate of slot 0 of a launch. -/
def firstCand (l : Launch) : Cand := ⟨l.vi, l.seq, 0⟩

namespace OneSlot
section
variable {l : Launch} {n : Nat} {s : State} (h : OneSlot l n s)
include h

theorem getLaunch_eq : getLaunch s l.vi l.seq = some l := by
  rw [getLaunch, h.launches]
  simp

theorem recd_isEmpty : l.recd.isEmpty = false := by
  have hr := h.recd
  cases hl : l.recd with
  | nil => exact absurd hl hr
  | cons => rfl

theorem candsOf_same : candsOf s n = [firstCand l] := by
  have hu := h.unplaced
  rw [candsOf, h.launches, List.flatMap_singleton, h.recd_isEmpty, h.fault, h.slots, h.saved]
  simp [hu, firstCand]

theorem candsOf_other {m : Nat} (hm : m ≠ n) : candsOf s m = [] := by
  rw [candsOf, h.launches, List.flatMap_singleton, h.recd_isEmpty, h.fault, h.slots]
  simp [Ne.symm hm]

theorem occupant_none : occupant s n = none := by
  rw [occupant, h.free]
  exact if_pos (.inl rfl)

theorem ranked_eq : ranked s n = [firstCand l] := by
  rw [ranked, h.candsOf_same, h.occupant_none]
  rfl

theorem busyVlcs_eq (hn : n < 1536) : busyVlcs s = [n] := by
  refine filter_upto_eq hn fun m => ?_
  by_cases hm : m = n
  · rw [hm, h.quad, h.candsOf_same]
    simp
  · rw [h.candsOf_other hm]
    simp [hm]

/-- Where a start is forced it is that of the one slot (R307). -/
theorem forcedStarts_cases : forcedStarts s = [] ∨ forcedStarts s = [(n, firstCand l)] := by
  have hq : s.mgmt.retq.getLsbD (quadOfVlc n) = false := by
    have hout := h.quad
    rw [quadOut, Bool.or_eq_false_iff, Bool.or_eq_false_iff] at hout
    exact hout.1.1
  have hu := h.unplaced
  rw [forcedStarts, h.launches, List.filterMap_cons, List.filterMap_nil, h.slots]
  cases l.ready with
  | none => exact .inl rfl
  | some r =>
    dsimp only
    generalize (if l.rel = true then r + l.bound else l.bound) = at_
    by_cases hg : (l.started || l.fault.isSome || l.recd.isEmpty || decide (s.cyc + 297000 < at_)) = true
    · left
      rw [if_pos hg]
    · right
      rw [if_neg hg]
      simp [hu, hq, firstCand]

/-- A launch that may run adds its quantum to the deficit of its VI (R303). -/
theorem newDeficit_eq (v : Vi) : newDeficit s l.vi v = { v with cost := 0, deficit := min (v.deficit - (v.cost : Int) + v.quant * 1024) (8 * (v.quant * 1024)) } := by
  rw [newDeficit, h.launches]
  simp [h.fault, h.recd_isEmpty, h.slots, h.ranked_eq, firstCand]

end
end OneSlot

end Sys2Proof.Machine
end

section
/-! SUPPORT. The start of the one launch of a module, and its tick (R301, R303, R405, log 39). -/
namespace Sys2Proof.Machine

/-- `t` is `s` with launch `l` started: memory, contexts and links are the same, and the reports and deficits of the VIs. -/
structure Starts (l : Launch) (s t : State) : Prop where
  launches : t.launches = [{ l with started := true }]
  mem : t.mem = s.mem
  vlcs : t.vlcs = s.vlcs
  sched : t.sched = s.sched
  cost : ∀ v, (getVi t v).cost = (getVi s v).cost
  deficit : ∀ v, (getVi t v).deficit = (getVi s v).deficit

theorem headWaits_of_started {s : State} {k : Launch} (hl : s.launches = [k]) (hk : k.started = true) (vi n : Nat) : headWaits vi n s = s := by
  have hq : queuedOf s vi = [] := by
    rw [queuedOf, hl]
    simp [hk]
  cases n with
  | zero => rfl
  | succ n => rw [headWaits, hq]; rfl

theorem noteReady_of_one_started {s : State} {k : Launch} (hl : s.launches = [k]) (hk : k.started = true) : noteReady s = s := by
  have hw : ∀ m ∈ s.launches, watchBarrier m s = s := by
    rw [hl]
    exact fun m hm => watchBarrier_of_started (by rw [List.mem_singleton.1 hm]; exact hk)
  rw [noteReady_of_watched hw, hl, List.map_singleton, readyAt_of_started hk, ← hl]

/-- A field of the VIs that an update keeps. -/
theorem getVi_updVi_kept {α : Type} {p : Vi → α} {f : Vi → Vi} (hf : ∀ v, p (f v) = p v) (vi v : Nat) (s : State) : p (getVi (updVi vi f s) v) = p (getVi s v) := by
  have hget : getVi (updVi vi f s) v = tget {} (tupd {} s.vis vi f) v := rfl
  by_cases hv : v = vi
  · rw [hget, hv, tget_tupd_same]
    exact hf _
  · rw [hget, tget_tupd_other _ _ _ hv]
    rfl

theorem getVi_elog (evt code stack vault agent addr index : Nat) (s : State) (v : Nat) : getVi (elog evt code stack vault agent addr index s) v = getVi s v := rfl

/-- A start after its bound is logged and counted (R405). -/
theorem Starts.late {l : Launch} {s t : State} (h : Starts l s t) {f : Vi → Vi} (hcost : ∀ v, (f v).cost = v.cost) (hdef : ∀ v, (f v).deficit = v.deficit)
    (code stack agent vi : Nat) : Starts l s (elog 8 code stack 0 agent 0 0 (updVi vi f t)) := by
  refine ⟨h.launches, h.mem, h.vlcs, h.sched, fun v => ?_, fun v => ?_⟩
  · rw [getVi_elog, getVi_updVi_kept hcost, h.cost v]
  · rw [getVi_elog, getVi_updVi_kept hdef, h.deficit v]

theorem noteStart_starts {l : Launch} {s : State} (hl : s.launches = [l]) (hns : l.started = false) : Starts l s (noteStart (firstCand l) s) := by
  have hget : getLaunch s (firstCand l).vi (firstCand l).seq = some l := by
    rw [getLaunch, hl]
    simp [firstCand]
  have hmap : (updLaunch l.vi l.seq (fun l => { l with started := true }) s).launches = [{ l with started := true }] := updLaunch_last (old := []) hl (by simp)
  have hstart : noteReady (headWaits l.vi 64 (updLaunch l.vi l.seq (fun l => { l with started := true }) s)) = updLaunch l.vi l.seq (fun l => { l with started := true }) s := by
    rw [headWaits_of_started hmap rfl, noteReady_of_one_started hmap rfl]
  have hs : Starts l s (updLaunch l.vi l.seq (fun l => { l with started := true }) s) := ⟨hmap, rfl, rfl, rfl, fun _ => rfl, fun _ => rfl⟩
  rw [noteStart, hget]
  dsimp only
  rw [hns, if_neg Bool.false_ne_true]
  rw [← hstart] at hs
  generalize (if l.rel = true then l.ready.getD s.cyc + l.bound else l.bound) = at_
  by_cases hlate : s.cyc > at_
  · rw [if_pos hlate]
    refine hs.late ?_ ?_ _ _ _ _ <;> exact fun _ => rfl
  · rw [if_neg hlate]
    exact hs

/-- A candidate that needs no preload is placed on a free VLC, and its launch has started. -/
theorem bring_of_free {n : Nat} {c : Cand} {k : Launch} {s : State} (hfree : (getVlc s n).status = .free) (hk : getLaunch s c.vi c.seq = some k)
    (hpre : needsPreload s k (vaultOf n) = false) : bring n c s = sendDown (quadOfVlc n) (.place n c) (noteStart c s) := by
  have hidle : (Status.free != Status.free) = false := rfl
  rw [bring, hfree, hidle]
  simp only [Bool.false_eq_true, if_false, hk, hpre, Bool.false_and, reduceCtorEq, or_self]

/-- No VLC is granted for a floor where no VI has one (R304). -/
theorem grantsTo_of_zero {s : State} (h : ∀ v, floorCount s v = 0) (k : Nat) (vlcs : List Nat) : grantsTo k vlcs s = [] := by
  have hfold : ∀ L : List Nat, L.foldl (fun g v => if floorCount s v = 0 then g else floorGrants s vlcs g v) ([] : Tbl Nat) = [] := by
    intro L
    induction L with
    | nil => rfl
    | cons v L ih => rw [List.foldl_cons, if_pos (h v)]; exact ih
  exact hfold _

namespace OneSlot
section
variable {l : Launch} {n : Nat} {s : State} (h : OneSlot l n s)
include h

theorem chooseVlc_eq {forced : List (Nat × Cand)} (hf : forced = [] ∨ forced = [(n, firstCand l)]) :
    chooseVlc forced [] n s = bring n (firstCand l) { s with sched := { s.sched with ranks := tset [] s.sched.ranks n [] } } := by
  have hocc : occupant s n ≠ some (firstCand l) := by rw [h.occupant_none]; exact Option.some_ne_none _ |>.symm
  have hrest : [firstCand l].filter (· != firstCand l) = [] := by simp
  rcases hf with rfl | rfl
  · rw [chooseVlc, h.ranked_eq]
    simp only [List.find?_nil, tget_nil, if_true, List.head?_cons, if_neg hocc, hrest]
  · have hfind : [(n, firstCand l)].find? (fun p => p.1 == n) = some (n, firstCand l) := List.find?_cons_of_pos (beq_self_eq_true n)
    rw [chooseVlc, h.ranked_eq, hfind]
    simp only [if_neg hocc, hrest]

end
end OneSlot

end Sys2Proof.Machine
end

section
/-! SUPPORT. The tick of a module with one launch of one slot (R301, R303, R307, log 39). -/
namespace Sys2Proof.Machine

theorem watchBarrier_of_passed {l : Launch} {s : State} (h : l.passed = true) : watchBarrier l s = s := by
  rw [watchBarrier, h]; simp

theorem readyAt_of_ready {s : State} {l : Launch} (h : l.ready.isSome = true) : l.readyAt s = l := by
  have hn : l.ready.isNone = false := by rw [← Option.not_isSome, h]; rfl
  rw [Launch.readyAt, hn]; rfl

theorem noteReady_of_one_ready {s : State} {l : Launch} (hl : s.launches = [l]) (hr : l.ready.isSome = true) (hb : l.e0 = none ∨ l.passed = true) : noteReady s = s := by
  have hw : ∀ m ∈ s.launches, watchBarrier m s = s := by
    rw [hl]
    intro m hm
    rw [List.mem_singleton.1 hm]
    exact hb.elim watchBarrier_of_unsampled watchBarrier_of_passed
  rw [noteReady_of_watched hw, hl, List.map_singleton, readyAt_of_ready hr, ← hl]

/-- A field of the VIs that settling the deficits keeps. -/
theorem settledTo_kept {α : Type} {p : Vi → α} {s : State} (hp : ∀ vi v, p (newDeficit s vi v) = p v) (k v : Nat) : p (getVi (settledTo k s) v) = p (getVi s v) := by
  by_cases hv : v < k
  · rw [settledTo_vi hv, hp]
  · have hoff : ∀ x ∈ upto k, id x ≠ v := fun x hx he => hv (he ▸ List.mem_range.1 hx)
    exact congrArg p (tget_foldl_tupd_off (d := ({} : Vi)) (key := id) (f := newDeficit s) hoff)

/-- Only the VIs change as the deficits are settled. -/
theorem settledTo_frame (k : Nat) (s : State) : ∃ vis, settledTo k s = { s with vis := vis } := ⟨_, rfl⟩

/-- The state from which the candidate of VLC `n` is brought there: nothing is ranked behind it. -/
def unranked (n : Nat) (s : State) : State := { s with sched := { s.sched with ranks := tset [] s.sched.ranks n [] } }

namespace OneSlot

/-- What a launch of one slot is does not rest on the VIs. -/
theorem with_vis {l : Launch} {n : Nat} {s : State} (h : OneSlot l n s) (vis : Tbl Vi) : OneSlot l n { s with vis := vis } := by
  obtain ⟨hl, hs, hr, hf, hv, hu, hfree, hq⟩ := h
  exact ⟨hl, hs, hr, hf, hv, hu, hfree, hq⟩

section
variable {l : Launch} {n : Nat} {s : State} (h : OneSlot l n s)
include h

theorem loadRecords_eq : loadRecords s = s := by
  rw [loadRecords, h.launches, List.foldl_cons, List.foldl_nil, h.getLaunch_eq]
  dsimp only
  rw [h.recd_isEmpty, Bool.false_and]
  rfl

theorem writeLprs_eq (hlpr : l.lprTodo = []) : writeLprs s = s := by
  rw [writeLprs, h.launches, List.foldl_cons, List.foldl_nil, hlpr]
  rfl

/-- The candidate of the one slot is placed, and its launch has started. -/
theorem bring_eq (hpre : (getVi s l.vi).preld.toNat % 2 = 0) :
    bring n (firstCand l) (unranked n s) = sendDown (quadOfVlc n) (.place n (firstCand l)) (noteStart (firstCand l) (unranked n s)) := by
  have hfree : getVlc (unranked n s) n = {} := h.free
  exact bring_of_free (by rw [hfree]) h.getLaunch_eq (needsPreload_of_off hpre)

theorem tickChoices_eq (hn : n < 1536) (hscan : s.mgmt.scan = none) (hopen : closed s = false) (hfloor : ∀ v, floorCount s v = 0) :
    tickChoices s = bring n (firstCand l) (unranked n s) := by
  have hstop : stopScan s (forcedStarts s) = s := by rw [stopScan, hscan]
  rw [tickChoices, hopen, hstop]
  dsimp only
  rw [if_neg Bool.false_ne_true, h.busyVlcs_eq hn, grantsTo_of_zero hfloor]
  exact h.chooseVlc_eq h.forcedStarts_cases

end
end OneSlot

/-- What a tick leaves once the first PLACE of a launch has been sent on link `q`. -/
theorem started_sent {l : Launch} {s t : State} {q : Nat} {m : Msg} (h : Starts l s t) (hp : (getLink s.sched.down q).permits > 0) (hw : tget [] s.sched.waitDown q = []) :
    Starts l s { copySched (sendDown q m t) with sched := s.sched } ∧ (copySched (sendDown q m t)).sched.lastTick = s.sched.lastTick ∧
      (getLink (copySched (sendDown q m t)).sched.down q).queue = (getLink s.sched.down q).queue ++ [m] := by
  have hsend : sendDown q m t = { t with sched := { s.sched with down := tupd {} s.sched.down q (Link.sent m) } } := by
    rw [← h.sched]
    exact sendDown_of_permit (by rw [h.sched]; exact hp) (by rw [h.sched]; exact hw)
  rw [hsend]
  have hq : (getLink (tupd {} s.sched.down q (Link.sent m)) q).queue = (getLink s.sched.down q).queue ++ [m] := by
    rw [getLink_tupd_same]
    rfl
  exact ⟨⟨h.launches, h.mem, h.vlcs, rfl, h.cost, h.deficit⟩, rfl, hq⟩

theorem noteFloors_ticked {s : State} (hf : ∀ v, (getVi s v).floor = 0) : noteFloors (ticked s) = tickStart s := by
  refine noteFloors_of_zero fun v hv => absurd hv ?_
  have hz : floorCount (ticked s) v = (getVi s v).floor * 1536 / 1000 := rfl
  rw [hz, hf v]
  exact Nat.lt_irrefl 0

/-- A tick with one launch brings its candidate to its VLC (R301). -/
theorem tick_of_one {s : State} {l : Launch} {n : Nat} (hdue : tickDue s = true) (hcosts : costsOut s = false) (hn : n < 1536) (h : OneSlot l n (tickStart s))
    (hr : l.ready.isSome = true) (hb : l.e0 = none ∨ l.passed = true) (hlpr : l.lprTodo = []) (hscan : s.mgmt.scan = none) (hopen : closed s = false)
    (hf : ∀ v, (getVi s v).floor = 0) (hpre : (getVi s l.vi).preld.toNat % 2 = 0) :
    exec .schedulerTick s = .next (copySched (sendDown (quadOfVlc n) (.place n (firstCand l)) (noteStart (firstCand l) (unranked n (settledTo 256 (tickStart s)))))) := by
  have hready : noteReady (ticked s) = ticked s := noteReady_of_one_ready h.launches hr hb
  have hfloor : ∀ k v, floorCount (settledTo k (tickStart s)) v = 0 := fun k v => by
    rw [floorCount, settledTo_kept (p := Vi.floor) (fun _ _ => rfl)]
    exact (congrArg (fun f => f * 1536 / 1000) (hf v)).trans rfl
  have hpreld : ∀ k, (getVi (settledTo k (tickStart s)) l.vi).preld = (getVi s l.vi).preld := fun k => settledTo_kept (p := Vi.preld) (fun _ _ => rfl) k l.vi
  obtain ⟨vis, hu⟩ := settledTo_frame 256 (tickStart s)
  have hfl := hfloor 256
  have hpr := hpreld 256
  rw [tick_exec hdue hcosts, hready, noteFloors_ticked hf, h.loadRecords_eq]
  rw [hu] at hfl hpr ⊢
  have hvis := h.with_vis vis
  rw [hvis.writeLprs_eq hlpr, hvis.tickChoices_eq hn hscan hopen hfl, hvis.bring_eq (by rw [hpr]; exact hpre)]

/-- A tick settles the deficits, and the launch that it brings to a free VLC has started (R301, R303, log 39). -/
theorem tick_of_one_starts {s : State} {l : Launch} {n : Nat} (hdue : tickDue s = true) (hcosts : costsOut s = false) (hn : n < 1536) (h : OneSlot l n (tickStart s))
    (hns : l.started = false) (hr : l.ready.isSome = true) (hb : l.e0 = none ∨ l.passed = true) (hlpr : l.lprTodo = []) (hscan : s.mgmt.scan = none) (hopen : closed s = false)
    (hf : ∀ v, (getVi s v).floor = 0) (hpre : (getVi s l.vi).preld.toNat % 2 = 0) (hvi : l.vi < 256) (hp : (getLink s.sched.down (quadOfVlc n)).permits > 0)
    (hw : tget [] s.sched.waitDown (quadOfVlc n) = []) :
    ∃ t, exec .schedulerTick s = .next t ∧ t.launches = [{ l with started := true }] ∧ t.sched.lastTick = s.cyc / 33000 ∧
      (getLink t.sched.down (quadOfVlc n)).queue = (getLink s.sched.down (quadOfVlc n)).queue ++ [.place n ⟨l.vi, l.seq, 0⟩] ∧
      ((getVi t l.vi).cost = 0 ∧ (getVi t l.vi).deficit = min ((getVi s l.vi).deficit - (getVi s l.vi).cost + (getVi s l.vi).quant * 1024) (8 * ((getVi s l.vi).quant * 1024))) ∧
      t.mem = s.mem ∧ t.vlcs = s.vlcs := by
  have hexec := tick_of_one hdue hcosts hn h hr hb hlpr hscan hopen hf hpre
  have hset : getVi (settledTo 256 (tickStart s)) l.vi = newDeficit (tickStart s) l.vi (getVi s l.vi) := settledTo_vi hvi
  rw [h.newDeficit_eq] at hset
  obtain ⟨vis, hu⟩ := settledTo_frame 256 (tickStart s)
  rw [hu] at hexec hset
  have hstart : Starts l (unranked n { tickStart s with vis := vis }) (noteStart (firstCand l) (unranked n { tickStart s with vis := vis })) := noteStart_starts h.launches hns
  obtain ⟨hend, hlast, hqueue⟩ := started_sent (m := .place n (firstCand l)) hstart hp hw
  generalize copySched (sendDown (quadOfVlc n) (.place n (firstCand l)) (noteStart (firstCand l) (unranked n { tickStart s with vis := vis }))) = t at hexec hend hlast hqueue
  refine ⟨t, hexec, hend.launches, hlast, hqueue, ⟨?_, ?_⟩, hend.mem, hend.vlcs⟩
  · exact (hend.cost l.vi).trans (congrArg Vi.cost hset)
  · exact (hend.deficit l.vi).trans (congrArg Vi.deficit hset)

end Sys2Proof.Machine
end

section
/-! SUPPORT. A launch's own reads, and the locks of a restored context, taken as one group (R49, R65, R67, log 18). -/
namespace Sys2Proof.Machine

/-! ### A launch's own reads (R49) -/

theorem readMem_mends (pa n agent : Nat) (s : State) : Mends s (readMem pa n agent s).2 := by
  unfold readMem
  split_ifs
  · exact logUe_mends ..
  · exact (correctIn_mends ..).trans (noteServed_mends ..)

theorem rootRead_mends (l : Launch) : ∀ (n va : Nat) (s : State), Mends s (rootRead l va n s).2
  | 0, _, s => .refl s
  | n + 1, va, s => by
    rw [rootRead]
    cases rootCheck s l va 8 .read with
    | error c => exact .refl s
    | ok pa =>
      have hread := (notePinVa_mends { vi := l.vi, vault := none } va s).trans (readMem_mends pa 8 (rootAgent l.vi l.seq) _)
      dsimp only
      generalize readMem pa 8 (rootAgent l.vi l.seq) (notePinVa { vi := l.vi, vault := none } va s) = r at hread ⊢
      rcases r with ⟨_ | w, u⟩
      · exact hread
      · have hrest := hread.trans (rootRead_mends l n (va + 8) u)
        dsimp only
        generalize rootRead l (va + 8) n u = r at hrest ⊢
        rcases r with ⟨_ | ws, t⟩
        · exact hrest
        · exact hrest

theorem readRanges_mends (l : Launch) (base : Nat) : ∀ (rs : List (Nat × Nat)) (s : State), Mends s (readRanges l base rs s).2
  | [], s => .refl s
  | r :: rs, s => by
    have hread := rootRead_mends l r.2 (base + r.1) s
    rw [readRanges]
    generalize rootRead l (base + r.1) r.2 s = a at hread ⊢
    rcases a with ⟨_ | w, u⟩
    · exact hread
    · have hrest := hread.trans (readRanges_mends l base rs u)
      dsimp only
      generalize readRanges l base rs u = a at hrest ⊢
      rcases a with ⟨_ | ws, t⟩
      · exact hrest
      · exact hrest

theorem endWait_frame (who : Waiter) (s : State) : ∃ ws, endWait who s = { s with waits := ws } := by
  unfold endWait
  split_ifs
  · exact ⟨s.waits, rfl⟩
  · exact ⟨_, rfl⟩

/-! ### Locks as they enter the table (R67, R268) -/

/-- A lock without its serial numbers. -/
def Lock.bare (k : Lock) : Lock := { k with id := 0, arr := 0 }

/-- The granted locks of a restored context enter the table, each with its remaining lease from now on (R67). -/
def takeLocks (ks : List Lock) (s : State) : State := ks.foldl (fun s k => addLock { k with until_ := s.cyc + k.until_ } s) s

theorem takeLocks_spec : ∀ (ks : List Lock) (s : State), { takeLocks ks s with locks := s.locks, nextId := s.nextId } = s ∧
    (takeLocks ks s).locks.map Lock.bare = (s.locks ++ ks.map (fun (k : Lock) => { k with until_ := s.cyc + k.until_ })).map Lock.bare
  | [], s => ⟨rfl, by rw [List.map_nil, List.append_nil]; rfl⟩
  | k :: ks, s => by
    obtain ⟨hframe, hlocks⟩ := takeLocks_spec ks (addLock { k with until_ := s.cyc + k.until_ } s)
    have hadd : (addLock { k with until_ := s.cyc + k.until_ } s).locks = s.locks ++ [{ k with until_ := s.cyc + k.until_, id := s.nextId, arr := s.nextId }] := rfl
    have hcyc : (addLock { k with until_ := s.cyc + k.until_ } s).cyc = s.cyc := rfl
    have hstep : takeLocks (k :: ks) s = takeLocks ks (addLock { k with until_ := s.cyc + k.until_ } s) := rfl
    have hbase : { addLock { k with until_ := s.cyc + k.until_ } s with locks := s.locks, nextId := s.nextId } = s := rfl
    rw [hstep]
    refine ⟨(congrArg (fun x : State => { x with locks := s.locks, nextId := s.nextId }) hframe).trans hbase, ?_⟩
    rw [hlocks, hadd, hcyc, List.append_assoc]
    simp [Lock.bare]

end Sys2Proof.Machine
end

section
/-! SUPPORT. LOCK_GROUP_TAKE: what the save area says of a lock, and what a restored context takes (R65, R67, log 18). -/
namespace Sys2Proof.Machine

theorem bitN_eq_testBit (v i : Nat) : bitN v i = v.testBit i := by rw [bitN, Nat.testBit_eq_decide_div_mod_eq]; rfl

/-- Whether the save area has a lock granted, and its remaining lease (R65). -/
theorem reloadLock_some {s : State} {ws : List (List Nat)} {i : Nat} {k k' : Lock} (h : reloadLock s ws i k = some k') :
    k'.granted = !((ws.getD i []).headD 0).testBit 62 ∧ k'.until_ = (ws.getD i []).getD 1 0 % 2 ^ 32 * 33 / 10 := by
  unfold reloadLock at h
  dsimp only at h
  split at h
  · cases h
  · rw [← bitN_eq_testBit]
    cases h
    exact ⟨rfl, rfl⟩

/-- The saved record of slot `j` keeps `ks` as its locks. -/
def Launch.keepLocks (j : Nat) (ks : List Lock) (l : Launch) : Launch := { l with saved := l.saved.map (fun y => if y.slotNo == j then { y with locks := ks } else y) }

theorem keepLocks_saved {j : Nat} {ks : List Lock} {l : Launch} {y : Saved} (hy : y ∈ (l.keepLocks j ks).saved) (hj : y.slotNo = j) : y.locks = ks := by
  obtain ⟨z, -, rfl⟩ := List.mem_map.1 hy
  by_cases hz : (z.slotNo == j) = true
  · rw [if_pos hz]
  · rw [if_neg hz] at hj
    exact absurd (beq_iff_eq.2 hj) hz

/-- What the locks of a save area say, `ws` being its entries. -/
def savedLocks (s : State) (ws : List (List Nat)) (x : Saved) : List Lock := (x.locks.mapIdx (fun i k => reloadLock s ws i k)).filterMap id

/-- VLC `n` has taken the granted ones of the locks `ks` as one group, and the record keeps the others (R67). -/
def groupTaken (n : Nat) (l : Launch) (x : Saved) (ks : List Lock) (u : State) : State :=
  updVlc n (fun v => { v with grouped := true })
    (updLaunch l.vi l.seq (Launch.keepLocks x.slotNo (ks.filter (fun k => !k.granted))) (takeLocks (ks.filter (fun k => k.granted)) u))

theorem lockGroupTake_exec {s u : State} {n : Nat} {l : Launch} {x : Saved} {ws : List (List Nat)} (hst : (getVlc s n).status = .restoring) (hg : (getVlc s n).grouped = false)
    (hr : (getVlc s n).recalled = false) (hx : savedOf s n = some (l, x)) (hw : rootWaits s (.area n) l (areaAccs s l x.slotNo .read) = false)
    (hread : readRanges l (saveArea l x.slotNo) (x.locks.map (fun k => (0x380 + 16 * k.num, 2))) s = (some ws, u))
    (hfree : groupFree s ((savedLocks s ws x).filter (fun k => k.granted)) = true) :
    exec (.lockGroupTake n) s = .next (groupTaken n l x (savedLocks s ws x) (endWait (.area n) u)) := by
  refine congrArg Host.Outcome.next ((if_neg ?_).trans ?_)
  · rw [hst, hg, hr]
    simp
  · rw [hx]
    dsimp only
    rw [hw, hread]
    dsimp only
    rw [savedLocks] at hfree ⊢
    rw [hfree]
    rfl

/-- What taking the group leaves. -/
theorem groupTaken_spec {u : State} {n : Nat} {l : Launch} {x : Saved} {ks : List Lock} (hl : getLaunch u l.vi l.seq = some l) :
    ∃ l', (getVlc (groupTaken n l x ks u) n).grouped = true ∧ (groupTaken n l x ks u).mem = u.mem ∧ (groupTaken n l x ks u).cmds = u.cmds ∧
      (groupTaken n l x ks u).locks.map Lock.bare =
        (u.locks ++ (ks.filter (fun (k : Lock) => k.granted)).map (fun (k : Lock) => { k with until_ := u.cyc + k.until_ })).map Lock.bare ∧
      getLaunch (groupTaken n l x ks u) l.vi l.seq = some l' ∧ ∀ y ∈ l'.saved, y.slotNo = x.slotNo → y.locks = ks.filter (fun k => !k.granted) := by
  obtain ⟨hframe, hlocks⟩ := takeLocks_spec (ks.filter (fun k => k.granted)) u
  rw [groupTaken]
  generalize takeLocks (ks.filter (fun k => k.granted)) u = t at hframe hlocks
  have hmem : t.mem = u.mem := by have e := congrArg State.mem hframe; exact e
  have hcmds : t.cmds = u.cmds := by have e := congrArg State.cmds hframe; exact e
  have hlaunches : t.launches = u.launches := by have e := congrArg State.launches hframe; exact e
  have hget : getLaunch t l.vi l.seq = some l := by rw [getLaunch, hlaunches]; exact hl
  refine ⟨l.keepLocks x.slotNo (ks.filter (fun k => !k.granted)), ?_, hmem, hcmds, hlocks, ?_, fun y hy hj => keepLocks_saved hy hj⟩
  · rw [getVlc_updVlc_same]
  · exact getLaunch_updLaunch (fun _ => ⟨rfl, rfl⟩) hget

theorem savedOf_getLaunch {s : State} {n : Nat} {l : Launch} {x : Saved} (h : savedOf s n = some (l, x)) : getLaunch s l.vi l.seq = some l := by
  rw [savedOf] at h
  obtain ⟨k, hk, h⟩ := Option.bind_eq_some_iff.1 h
  obtain ⟨y, -, h⟩ := Option.map_eq_some_iff.1 h
  cases h
  obtain ⟨hvi, hseq⟩ := getLaunch_key hk
  rw [hvi, hseq, hk]

/-- The granted locks of a restored context are taken as one group where their ranges are free (R65, R67). -/
theorem lockGroupTake_takes {s u : State} {n : Nat} {l : Launch} {x : Saved} {ws : List (List Nat)} (hst : (getVlc s n).status = .restoring) (hg : (getVlc s n).grouped = false)
    (hr : (getVlc s n).recalled = false) (hx : savedOf s n = some (l, x)) (hw : rootWaits s (.area n) l (areaAccs s l x.slotNo .read) = false)
    (hread : readRanges l (saveArea l x.slotNo) (x.locks.map (fun k => (0x380 + 16 * k.num, 2))) s = (some ws, u))
    (hfree : groupFree s ((savedLocks s ws x).filter (fun k => k.granted)) = true) :
    ∃ t l', exec (.lockGroupTake n) s = .next t ∧ (getVlc t n).grouped = true ∧ t.mem = u.mem ∧ t.cmds = u.cmds ∧
      t.locks.map Lock.bare = (u.locks ++ ((savedLocks s ws x).filter (fun (k : Lock) => k.granted)).map (fun (k : Lock) => { k with until_ := s.cyc + k.until_ })).map Lock.bare ∧
      getLaunch t l.vi l.seq = some l' ∧ ∀ y ∈ l'.saved, y.slotNo = x.slotNo → y.locks = (savedLocks s ws x).filter (fun k => !k.granted) := by
  have hexec := lockGroupTake_exec hst hg hr hx hw hread hfree
  have hd : Mends s u := by
    have hm := readRanges_mends l (saveArea l x.slotNo) (x.locks.map (fun k => (0x380 + 16 * k.num, 2))) s
    rwa [hread] at hm
  obtain ⟨waits, hend⟩ := endWait_frame (.area n) u
  rw [hend] at hexec
  have hl : getLaunch { u with waits := waits } l.vi l.seq = some l := by
    have hs := savedOf_getLaunch hx
    rw [getLaunch] at hs ⊢
    rw [← hs, ← hd.launches]
  obtain ⟨l', hgrouped, hmem, hcmds, hlocks, hget, hsaved⟩ := groupTaken_spec (n := n) (x := x) (ks := savedLocks s ws x) hl
  refine ⟨_, l', hexec, hgrouped, hmem, hcmds, ?_, hget, hsaved⟩
  rw [← hd.cyc]
  exact hlocks

end Sys2Proof.Machine
end

section
/-! SUPPORT. PREEMPTION_COMPLETE: a drained context leaves its VLC for a saved record (R64, R65). -/
namespace Sys2Proof.Machine

/-! ### A context leaves its VLC -/

/-- VLC `n` gives up all that the context of `agent` had there. -/
def leaveAll (n : Nat) (agent : Nat) (s : State) : State :=
  freeVlc n (releaseLanes n (leaveQueues n (dropOps (fun o => mineOp s n o && !o.accepted) {
    s with
    locks := s.locks.filter (fun k => !(k.vlc == n && k.agent == agent)), cmds := s.cmds.filter (fun c => c.vlc != n),
    net := s.net.filter (fun a => a.vlc != n) })))

theorem getVlc_freeVlc_same (n : Nat) (s : State) : getVlc (freeVlc n s) n = {} := by
  rw [freeVlc]
  exact getVlc_updVlc_same _ n _

theorem getVlc_freeVlc_other {n m : Nat} (h : m ≠ n) (s : State) : getVlc (freeVlc n s) m = getVlc s m := by
  rw [freeVlc]
  dsimp only
  rw [getVlc_updVlc_other _ _ h]
  split_ifs
  · rfl
  · rfl

theorem freeVlc_cores (n : Nat) (s : State) : (freeVlc n s).cores = s.cores := by
  rw [freeVlc]
  dsimp only
  rw [updVlc_cores]
  split_ifs
  · rfl
  · rfl

theorem freeVlc_launches (n : Nat) (s : State) : (freeVlc n s).launches = s.launches := by
  rw [freeVlc]
  dsimp only
  rw [updVlc_launches]
  split_ifs
  · rfl
  · rfl

theorem freeVlc_pend (n : Nat) (s : State) : (freeVlc n s).sched.pend = s.sched.pend := by
  rw [freeVlc]
  dsimp only
  rw [updVlc_sched]
  split_ifs
  · rfl
  · rfl

theorem releaseLanes_launches (n : Nat) (s : State) : (releaseLanes n s).launches = s.launches := by
  simp only [releaseLanes, endClaim, updVlc_launches, updCore_launches, updVault_launches]

theorem releaseLanes_sched (n : Nat) (s : State) : (releaseLanes n s).sched = s.sched := by
  simp only [releaseLanes, endClaim, updVlc_sched, updCore_sched, updVault_sched]

theorem getVlc_leaveQueues (n m : Nat) (s : State) : getVlc (leaveQueues n s) m = getVlc s m := by
  rw [leaveQueues, getVlc_updVault, getVlc_updCore]

theorem leaveQueues_launches (n : Nat) (s : State) : (leaveQueues n s).launches = s.launches := by
  simp only [leaveQueues, updCore_launches, updVault_launches]

theorem leaveQueues_sched (n : Nat) (s : State) : (leaveQueues n s).sched = s.sched := by
  simp only [leaveQueues, updCore_sched, updVault_sched]

theorem dropOps_vlcs (p : Op → Bool) (s : State) : (dropOps p s).vlcs = s.vlcs := by have e := congrArg State.vlcs (dropOps_rest p s); exact e
theorem dropOps_launches (p : Op → Bool) (s : State) : (dropOps p s).launches = s.launches := by have e := congrArg State.launches (dropOps_rest p s); exact e
theorem dropOps_sched (p : Op → Bool) (s : State) : (dropOps p s).sched = s.sched := by have e := congrArg State.sched (dropOps_rest p s); exact e

section
variable (n agent : Nat) (s : State)

theorem getVlc_leaveAll_same : getVlc (leaveAll n agent s) n = {} := getVlc_freeVlc_same ..

theorem getVlc_leaveAll_other {m : Nat} (h : m ≠ n) : getVlc (leaveAll n agent s) m = getVlc s m := by
  rw [leaveAll, getVlc_freeVlc_other h, getVlc_releaseLanes_other h, getVlc_leaveQueues, getVlc, dropOps_vlcs, getVlc]

theorem leaveAll_holder : (getCore (leaveAll n agent s) (n / 4)).holder ≠ some n := by
  rw [leaveAll, getCore, freeVlc_cores]
  exact releaseLanes_holder n _

theorem leaveAll_launches : (leaveAll n agent s).launches = s.launches := by
  rw [leaveAll, freeVlc_launches, releaseLanes_launches, leaveQueues_launches, dropOps_launches]

theorem leaveAll_pend : (leaveAll n agent s).sched.pend = s.sched.pend := by
  rw [leaveAll, freeVlc_pend, releaseLanes_sched, leaveQueues_sched, dropOps_sched]

end

theorem placePending_of_none {n : Nat} {s : State} (h : tget none s.sched.pend n = none) : placePending n s = s := by
  rw [placePending, h]

end Sys2Proof.Machine
end

section
/-! SUPPORT. The saved record of a drained context without locks, commands or the claim (R64, R65). -/
namespace Sys2Proof.Machine

/-- A drained context as its record keeps it. -/
def Vlc.departed (v : Vlc) : Vlc := { v with wait := .none, status := .free, recalled := false }

/-- The saved record of a context that holds no lock, no command and no claim. -/
def bareRecord (n : Nat) (v : Vlc) (lpr : Nat) : Saved := { slotNo := v.slotNo, vlcNo := n, ctx := v, locks := [], cmds := [], slice := none, lpr := lpr }

/-- A launch with a saved record more. -/
def Launch.save (x : Saved) (l : Launch) : Launch := { l with saved := l.saved.filter (fun y => y.slotNo != x.slotNo) ++ [x] }

theorem save_saved {x : Saved} {l : Launch} (h : ∀ y ∈ l.saved, y.slotNo ≠ x.slotNo) : (l.save x).saved = l.saved ++ [x] := by
  have hkeep : l.saved.filter (fun y => y.slotNo != x.slotNo) = l.saved := List.filter_eq_self.2 fun y hy => bne_iff_ne.2 (h y hy)
  rw [Launch.save, hkeep]

/-- The state from which the save area is written: the image of a store buffer takes fresh values (log 18). -/
def saveFrom (v : Vlc) (s : State) : State := if v.sbuf.isEmpty then s else { s with fresh := s.fresh + 1280 }

theorem saveFrom_frame (v : Vlc) (s : State) : ∃ f, saveFrom v s = { s with fresh := f } := by
  unfold saveFrom
  split_ifs
  · exact ⟨s.fresh, rfl⟩
  · exact ⟨_, rfl⟩

theorem writeItems_dieOnly {l : Launch} {base : Nat} : ∀ {items : List (Nat × Nat)} {s u : State}, writeItems l base items s = some u → DieOnly s u
  | [], s, u, h => by
    rw [writeItems] at h
    cases h
    exact .refl s
  | p :: items, s, u, h => by
    rw [writeItems] at h
    obtain ⟨t, ht, hu⟩ := Option.bind_eq_some_iff.1 h
    exact (rootWrite_dieOnly ht).trans (writeItems_dieOnly hu)

section
variable {s : State} {n : Nat} {l : Launch} (hclaim : holdsClaim s n = false) (hlocks : ∀ k ∈ s.locks, k.vlc ≠ n) (hcmds : ∀ c ∈ s.cmds, c.vlc ≠ n)
  (hsaved : ∀ y ∈ l.saved, y.slotNo ≠ (getVlc s n).slotNo)
include hclaim hlocks hcmds hsaved

/-- A context without locks, commands or the claim leaves its VLC for its record (R64 steps 5 to 7). -/
theorem saveContext_bare {w : State}
    (hw : writeItems l (saveArea l (getVlc s n).slotNo) (saveItems { s with cur := n } (getVlc s n).departed [] []) (saveFrom (getVlc s n).departed s) = some w) :
    saveContext n l s = placePending n (leaveAll n (getVlc s n).agent (updLaunch l.vi l.seq (Launch.save (bareRecord n (getVlc s n).departed (getVault s (vaultOf n)).lpr)) w)) := by
  have hl : s.locks.filter (fun k => k.vlc == n && k.agent == (getVlc s n).agent) = [] := by
    rw [List.filter_eq_nil_iff]
    intro k hk
    rw [beq_eq_false_iff_ne.2 (hlocks k hk), Bool.false_and]
    exact Bool.false_ne_true
  have hc : s.cmds.filter (fun c => c.vlc == n) = [] := by
    rw [List.filter_eq_nil_iff]
    exact fun c hc h => hcmds c hc (beq_iff_eq.1 h)
  have ho : l.saved.find? (fun x => x.slotNo == (getVlc s n).slotNo) = none := by
    rw [List.find?_eq_none]
    exact fun y hy h => hsaved y hy (beq_iff_eq.1 h)
  rw [saveContext]
  dsimp only
  rw [hclaim, hl, hc, ho]
  simp only [List.map_nil, List.append_nil, Bool.false_or, Bool.false_eq_true, if_false, Option.bind_none, Option.bind_fun_some]
  rw [Vlc.departed, saveFrom] at hw
  rw [hw]
  rfl

end

end Sys2Proof.Machine
end

section
/-! SUPPORT. PREEMPTION_COMPLETE of a context without locks, commands or the claim (R64, R65, R263, R308). -/
namespace Sys2Proof.Machine

/-- A pre-emption that ends late is logged, and nothing else changes (R405). -/
theorem notePreemption_frame (n : Nat) (s : State) : ∃ m o, notePreemption n s = { s with mgmt := m, out := o } := by
  unfold notePreemption
  dsimp only
  split_ifs
  · exact ⟨_, _, rfl⟩
  · exact ⟨s.mgmt, s.out, rfl⟩

theorem drainClaim_of_nil {s : State} {n : Nat} (h : viqOf s n = []) : drainClaim n s = s := by rw [drainClaim, h]

theorem holdsClaim_eq_false {s : State} {n : Nat} (h : (getVault s (n / 8)).slice.holder ≠ some n) : holdsClaim s n = false := by
  rw [holdsClaim, sliceOf, vaultOf, beq_eq_false_iff_ne]
  exact h

theorem preemptionComplete_exec {s : State} {n : Nat} {l : Launch} (hst : (getVlc s n).status = .draining) (hd : drained s n = true) (hq : viqOf s n = [])
    (hl : getLaunch s (getVlc s n).vi (getVlc s n).seq = some l) (hclaim : holdsClaim s n = false)
    (hw : rootWaits s (.area n) l (areaAccs s l (getVlc s n).slotNo .write) = false) :
    exec (.preemptionComplete n) s = .next (saveContext n l (notePreemption n (endWait (.area n) s))) := by
  have hturn : rootTurn (.area n) l (areaAccs s l (getVlc s n).slotNo .write) (fun s => saveContext n l (notePreemption n s)) s =
      saveContext n l (notePreemption n (endWait (.area n) s)) := by
    rw [rootTurn, hw]
    exact if_neg Bool.false_ne_true
  have hs : (if (getVlc s n).status = .draining then drainClaim n s else s) = s := (if_pos hst).trans (drainClaim_of_nil hq)
  rw [← hturn]
  refine congrArg Host.Outcome.next ?_
  dsimp only
  rw [hs, hd, hl]
  dsimp only
  rw [hclaim, Bool.not_true, if_neg Bool.false_ne_true, if_neg Bool.false_ne_true, List.append_nil]

/-- What the record and the launch are once the context has left. -/
theorem left_spec {u : State} {n agent : Nat} {l : Launch} {x : Saved} (hl : getLaunch u l.vi l.seq = some l) (hp : tget none u.sched.pend n = none)
    (hx : ∀ y ∈ l.saved, y.slotNo ≠ x.slotNo) :
    ∃ l', getVlc (placePending n (leaveAll n agent (updLaunch l.vi l.seq (Launch.save x) u))) n = {} ∧
      (getCore (placePending n (leaveAll n agent (updLaunch l.vi l.seq (Launch.save x) u))) (n / 4)).holder ≠ some n ∧
      (∀ m, m ≠ n → getVlc (placePending n (leaveAll n agent (updLaunch l.vi l.seq (Launch.save x) u))) m = getVlc u m) ∧
      getLaunch (placePending n (leaveAll n agent (updLaunch l.vi l.seq (Launch.save x) u))) l.vi l.seq = some l' ∧ l'.saved = l.saved ++ [x] := by
  have hpend : tget none (leaveAll n agent (updLaunch l.vi l.seq (Launch.save x) u)).sched.pend n = none := by
    rw [leaveAll_pend]
    exact hp
  rw [placePending_of_none hpend]
  refine ⟨l.save x, getVlc_leaveAll_same .., leaveAll_holder n agent _, fun m hm => getVlc_leaveAll_other _ _ _ hm, ?_, save_saved hx⟩
  rw [getLaunch, leaveAll_launches]
  exact getLaunch_updLaunch (fun _ => ⟨rfl, rfl⟩) hl

section
variable {s : State} {n : Nat} {l : Launch} (hst : (getVlc s n).status = .draining) (hd : drained s n = true) (hq : viqOf s n = [])
  (hl : getLaunch s (getVlc s n).vi (getVlc s n).seq = some l) (hlocks : ∀ k ∈ s.locks, k.vlc ≠ n) (hcmds : ∀ c ∈ s.cmds, c.vlc ≠ n)
  (hholder : (getVault s (n / 8)).slice.holder ≠ some n) (hpend : tget none s.sched.pend n = none) (hsaved : ∀ y ∈ l.saved, y.slotNo ≠ (getVlc s n).slotNo)
  (hw : rootWaits s (.area n) l (areaAccs s l (getVlc s n).slotNo .write) = false)
include hst hd hq hl hlocks hcmds hholder hpend hsaved hw

/-- A drained context that holds nothing leaves its VLC for a saved record. -/
theorem preemptionComplete_leaves
    (hitems : (writeItems l (saveArea l (getVlc s n).slotNo) (saveItems { notePreemption n (endWait (.area n) s) with cur := n } (getVlc s n).departed [] [])
      (saveFrom (getVlc s n).departed (notePreemption n (endWait (.area n) s)))).isSome = true) :
    ∃ t l', exec (.preemptionComplete n) s = .next t ∧ getVlc t n = {} ∧ (getCore t (n / 4)).holder ≠ some n ∧ (∀ m, m ≠ n → getVlc t m = getVlc s m) ∧
      getLaunch t (getVlc s n).vi (getVlc s n).seq = some l' ∧
      ∃ x, l'.saved = l.saved ++ [x] ∧ x.slotNo = (getVlc s n).slotNo ∧ x.vlcNo = n ∧ x.ctx = (getVlc s n).departed ∧ x.slice = none := by
  have hexec := preemptionComplete_exec hst hd hq hl (holdsClaim_eq_false hholder) hw
  obtain ⟨hvi, hseq⟩ := getLaunch_key hl
  obtain ⟨waits, hend⟩ := endWait_frame (.area n) s
  obtain ⟨m, o, hnote⟩ := notePreemption_frame n { s with waits := waits }
  rw [hend, hnote] at hexec hitems
  obtain ⟨w, hwrite⟩ := Option.isSome_iff_exists.1 hitems
  obtain ⟨f, hfrom⟩ := saveFrom_frame (getVlc s n).departed { s with waits := waits, mgmt := m, out := o }
  have hdie : DieOnly { s with waits := waits, mgmt := m, out := o, fresh := f } w := by
    have h := writeItems_dieOnly hwrite
    rwa [hfrom] at h
  have hlaunch : getLaunch w l.vi l.seq = some l := by
    rw [getLaunch, hdie.launches, hvi, hseq]
    exact hl
  have hbare := saveContext_bare (s := { s with waits := waits, mgmt := m, out := o }) (holdsClaim_eq_false hholder) hlocks hcmds hsaved hwrite
  rw [hbare] at hexec
  have hp : tget none w.sched.pend n = none := by
    rw [hdie.sched]
    exact hpend
  obtain ⟨l', hfree, hlanes, hothers, hget, hrec⟩ :=
    left_spec (n := n) (agent := (getVlc s n).agent) (x := bareRecord n (getVlc s n).departed (getVault s (vaultOf n)).lpr) hlaunch hp hsaved
  have hexec' : exec (.preemptionComplete n) s = .next (placePending n (leaveAll n (getVlc s n).agent
      (updLaunch l.vi l.seq (Launch.save (bareRecord n (getVlc s n).departed (getVault s (vaultOf n)).lpr)) w))) := hexec
  generalize placePending n (leaveAll n (getVlc s n).agent (updLaunch l.vi l.seq (Launch.save (bareRecord n (getVlc s n).departed (getVault s (vaultOf n)).lpr)) w)) = t
    at hexec' hfree hlanes hothers hget
  rw [hvi, hseq] at hget
  exact ⟨t, l', hexec', hfree, hlanes, fun k hk => (hothers k hk).trans (hdie.getVlc_eq k), hget, _, hrec, rfl, rfl, rfl, rfl⟩

end

end Sys2Proof.Machine
end

section
/-! SUPPORT. PRELOAD: the dwords of a tile, and what copying one leaves (R309, R358). -/
namespace Sys2Proof.Machine

/-! ### Part of what a write leaves -/

/-- Part of the bytes just written. -/
theorem mread_mwrite_part (m : List Host.Cell) (a v : Nat) {n i k : Nat} (h : i + k ≤ n) : mread (mwrite m a n v) (a + i) k = v / 256 ^ i % 256 ^ k := by
  rw [← mread_mwrite m (a + i) k (v / 256 ^ i)]
  refine mread_congr _ _ fun x h1 h2 => ?_
  rw [mget_mwrite, mget_mwrite, if_pos (by omega), if_pos (by omega), Nat.div_div_eq_div_mul, ← pow_add]
  have hexp : i + (x - (a + i)) = x - a := by omega
  rw [hexp]

/-- The number that dwords hold, least significant first. -/
def ofDwords (ws : List Nat) : Nat := ws.foldr (fun w a => w + 2 ^ 64 * a) 0

theorem ofDwords_dword : ∀ {ws : List Nat}, (∀ w ∈ ws, w < 2 ^ 64) → ∀ j, ofDwords ws / (2 ^ 64) ^ j % 2 ^ 64 = ws.getD j 0
  | [], _, j => by
    have hz : ofDwords [] = 0 := rfl
    rw [hz, Nat.zero_div, List.getD_nil, Nat.zero_mod]
  | w :: ws, h, 0 => by
    have hw := h w List.mem_cons_self
    have hc : ofDwords (w :: ws) = w + 2 ^ 64 * ofDwords ws := rfl
    rw [hc, pow_zero, Nat.div_one, Nat.add_mul_mod_self_left, Nat.mod_eq_of_lt hw, List.getD_cons_zero]
  | w :: ws, h, j + 1 => by
    have hw := h w List.mem_cons_self
    have hc : ofDwords (w :: ws) = w + 2 ^ 64 * ofDwords ws := rfl
    rw [hc, pow_succ' (2 ^ 64) j, ← Nat.div_div_eq_div_mul, Nat.add_mul_div_left _ _ (Nat.two_pow_pos 64), Nat.div_eq_of_lt hw, Nat.zero_add,
      ofDwords_dword (fun x hx => h x (List.mem_cons_of_mem w hx)) j, List.getD_cons_succ]

/-! ### The dwords that a launch reads -/

theorem readMem_lt {pa agent v : Nat} {s t : State} (h : readMem pa 8 agent s = (some v, t)) : v < 2 ^ 64 := by
  have h1 := (readMem_spec pa 8 agent s).1
  rw [h] at h1
  split_ifs at h1
  rw [Option.some.inj h1]
  exact mread_lt _ _ 8

theorem rootRead_lt {l : Launch} : ∀ {n va : Nat} {s t : State} {ws : List Nat}, rootRead l va n s = (some ws, t) → ∀ w ∈ ws, w < 2 ^ 64
  | 0, _, _, _, _, h, w, hw => by
    rw [rootRead] at h
    cases h
    exact absurd hw List.not_mem_nil
  | n + 1, va, s, t, ws, h, w, hw => by
    rw [rootRead] at h
    split at h
    · cases h
    · split at h
      · cases h
      · next hread =>
        split at h
        · cases h
        · next hrest =>
          rw [Prod.mk.injEq, Option.some.injEq] at h
          rw [← h.1] at hw
          rcases List.mem_cons.1 hw with rfl | hw
          · exact readMem_lt hread
          · exact rootRead_lt hrest w hw

/-! ### A tile -/

/-- A tile of the dwords `ws` at `dst`: its owner bit is left at 0 (R309). -/
def tileWritten (dst : Nat) (ws : List Nat) (s : State) : State :=
  { s with
    mem := mwrite s.mem dst 4096 (ofDwords ws), ecc := s.ecc.filter (fun p => p.1 / 512 != dst / 4096),
    tiles := tupd {} s.tiles (dst / 4096) (fun t => { t with own := false }) }

theorem preloadTile_of_read {l : Launch} {src dst : Nat} {s t : State} {ws : List Nat} (h : rootRead l src 512 s = (some ws, t)) :
    preloadTile l src dst s = some (tileWritten dst ws t) := by
  rw [preloadTile, h]
  rfl

theorem tileWritten_dword {dst : Nat} {ws : List Nat} (h : ∀ w ∈ ws, w < 2 ^ 64) (s : State) {j : Nat} (hj : j < 512) :
    mread (tileWritten dst ws s).mem (dst + 8 * j) 8 = ws.getD j 0 := by
  have hbytes : (256 : Nat) ^ 8 = 2 ^ 64 := by norm_num
  have hpow : (256 : Nat) ^ (8 * j) = (2 ^ 64) ^ j := by rw [pow_mul, hbytes]
  have hdword := ofDwords_dword h j
  rw [← hpow] at hdword
  have hmem : (tileWritten dst ws s).mem = mwrite s.mem dst 4096 (ofDwords ws) := rfl
  rw [hmem, mread_mwrite_part _ _ _ (by omega)]
  exact hdword

theorem tileWritten_own (dst : Nat) (ws : List Nat) (s : State) : (tget {} (tileWritten dst ws s).tiles (dst / 4096)).own = false := by
  have ht : (tileWritten dst ws s).tiles = tupd {} s.tiles (dst / 4096) (fun t => { t with own := false }) := rfl
  rw [ht, tget_tupd_same]

end Sys2Proof.Machine
end

section
/-! SUPPORT. PRELOAD of a table with one entry of one tile (R309). -/
namespace Sys2Proof.Machine

theorem preloadPtr_popDown (q vi : Nat) (s : State) : preloadPtr (popDown q s) vi = (getVi s vi).preld.toNat / 64 % 1125899906842624 * 64 := by
  have hp : preloadPtr (popDown q s) vi = (getVi s vi).preld.toNat / 2 ^ 6 % 2 ^ 50 * 64 := rfl
  rw [hp]
  norm_num

/-- Where the tiles of an entry of a preload table begin in a vault (R309). -/
def entryPa (vault kind first : Nat) : Nat := vaultPa vault (dramEnd + (if kind = 1 then 0x100000 else 0) + 4096 * first)

theorem preloadTiles_one (vault src kind first : Nat) : preloadTiles vault [(src, kind, first, 1)] = [(src, entryPa vault kind first)] := rfl

/-- What a preload of one tile leaves. -/
def preloaded (l : Launch) (vault dst : Nat) (ws : List Nat) (s : State) : State :=
  { tileWritten dst ws s with sched := { s.sched with preloads := s.sched.preloads ++ [⟨l.vi, l.seq, vault, [dst]⟩] } }

section
variable {q vault src kind first : Nat} {c : Cand} {rest : List Msg} {l : Launch} {ws data : List Nat} {s a b : State}
  (hq : (getLink s.sched.down q).queue = .preload vault c :: rest) (hscan : s.mgmt.scan ≠ some q) (hl : getLaunch s c.vi c.seq = some l) (hf : l.fault = none)
  (hw : rootWaits s (.preload vault) l (preloadAccs s l vault) = false)
  (hread : readPreload l ((getVi s l.vi).preld.toNat / 64 % 1125899906842624 * 64) 16 (endWait (.preload vault) (popDown q s)) = (some ws, a))
  (hes : preloadEntries ws = some [(src, kind, first, 1)]) (hdata : rootRead l src 512 a = (some data, b))
include hq hscan hl hf hw hread hes hdata

theorem preload_exec : exec (.preload q) s = .next (preloaded l vault (entryPa vault kind first) data b) := by
  have hheld : heldLink s q = false := beq_eq_false_iff_ne.2 hscan
  have hpop : (popDown q s).launches = s.launches := rfl
  have hl' : getLaunch (popDown q s) c.vi c.seq = some l := by rw [getLaunch, hpop]; exact hl
  refine congrArg Host.Outcome.next ?_
  rw [hq]
  dsimp only
  rw [hheld, if_neg Bool.false_ne_true, hl']
  dsimp only
  rw [hf, hw, preloadPtr_popDown, hread]
  dsimp only
  rw [hes]
  dsimp only
  rw [preloadTiles_one, List.foldl_cons, List.foldl_nil, Option.bind_some, preloadTile_of_read hdata]
  rfl

/-- A preload copies its tile (R309). -/
theorem preload_copies :
    ∃ t, exec (.preload q) s = .next t ∧ (∀ j, j < 512 → mread t.mem (entryPa vault kind first + 8 * j) 8 = data.getD j 0) ∧ BytesKept b t (entryPa vault kind first) 4096 ∧
      (tget {} t.tiles (entryPa vault kind first / 4096)).own = false ∧ t.sched.preloads = b.sched.preloads ++ [⟨l.vi, l.seq, vault, [entryPa vault kind first]⟩] ∧
      t.vlcs = b.vlcs := by
  refine ⟨_, preload_exec hq hscan hl hf hw hread hes hdata, ?_⟩
  generalize entryPa vault kind first = dst
  exact ⟨fun j hj => tileWritten_dword (rootRead_lt hdata) b hj, fun x hx => mget_mwrite_out _ _ hx, tileWritten_own dst data b, rfl, rfl⟩

end

end Sys2Proof.Machine
end

section
/-! SUPPORT. The regions of a launch root that pass on, and the completion of the one launch of a module (R48, R324, R353). -/
namespace Sys2Proof.Machine

/-! ### The regions of a launch root (R324) -/

/-- The shares of the root of a launch. -/
def rootShares (l : Launch) (s : State) : List Nat := (s.toks.filter (fun p => p.2.kind == 2 && p.2.owner == rootAgent l.vi l.seq)).map Prod.fst

/-- A region of the root of a launch passes to its lender, or to the host. -/
def passTok (l : Launch) (t : Tok) : Tok :=
  if t.kind == 1 && t.owner == rootAgent l.vi l.seq then { t with owner := if t.lender ≠ 0 then t.lender else hostAgent l.vi, lender := 0 } else t

/-- Only the table of regions and shares differs. -/
def ToksOnly (s t : State) : Prop := ∃ T, t = { s with toks := T }

theorem ToksOnly.trans {s t u : State} (h : ToksOnly s t) (k : ToksOnly t u) : ToksOnly s u := by
  obtain ⟨T, rfl⟩ := h
  obtain ⟨U, rfl⟩ := k
  exact ⟨U, rfl⟩

theorem dropShare_toks (k : Nat) (s : State) : ToksOnly s (dropShare k s) := ⟨_, rfl⟩

theorem dropShares_toks : ∀ (ks : List Nat) (s : State), ToksOnly s (ks.foldl (fun s k => dropShare k s) s)
  | [], s => ⟨s.toks, rfl⟩
  | k :: ks, s => (dropShare_toks k s).trans (dropShares_toks ks (dropShare k s))

/-- A table whose values are mapped reads mapped values. -/
theorem tget_map {α : Type} {d : α} {f : α → α} (hd : f d = d) (k : Nat) : ∀ t : Tbl α, tget d (t.map (fun p => (p.1, f p.2))) k = f (tget d t k)
  | [] => hd.symm
  | p :: t => by
    rw [List.map_cons, tget, tget]
    split_ifs
    · rfl
    · exact tget_map hd k t

theorem passTok_zero (l : Launch) : passTok l {} = {} := by
  rw [passTok, if_neg]
  simp

theorem passRegions_eq (l : Launch) (s : State) :
    passRegions l s = { (rootShares l s).foldl (fun s k => dropShare k s) s with
      toks := ((rootShares l s).foldl (fun s k => dropShare k s) s).toks.map (fun p => (p.1, passTok l p.2)) } := by
  rw [passRegions, rootShares]
  dsimp only
  congr 2
  funext p
  rw [passTok]
  split_ifs <;> rfl

theorem passRegions_toks (l : Launch) (s : State) : ToksOnly s (passRegions l s) := by
  rw [passRegions_eq]
  exact (dropShares_toks (rootShares l s) s).trans ⟨_, rfl⟩

/-- Dropping a share keeps of another entry all but its count of shares. -/
theorem tokAt_dropShare {j k : Nat} (h : j ≠ k) (s : State) : { tokAt (dropShare k s) j with shares := (tokAt s j).shares } = tokAt s j := by
  rw [dropShare]
  dsimp only
  rw [tokAt_putTok, if_neg h, tokAt_putTok]
  split_ifs with he
  · rw [he]
  · rfl

theorem tokAt_dropShares {j : Nat} : ∀ {ks : List Nat} (s : State), j ∉ ks → { tokAt (ks.foldl (fun s k => dropShare k s) s) j with shares := (tokAt s j).shares } = tokAt s j
  | [], s, _ => rfl
  | k :: ks, s, h => by
    rw [List.mem_cons, not_or] at h
    obtain ⟨hk, hks⟩ := h
    have hrest := congrArg (fun t : Tok => { t with shares := (tokAt s j).shares }) (tokAt_dropShares (dropShare k s) hks)
    exact hrest.trans (tokAt_dropShare hk s)

/-- Where numbers are distinct an entry is the one that its number reads. -/
theorem tget_of_mem {α : Type} {d : α} {p : Nat × α} : ∀ {t : Tbl α}, (t.map Prod.fst).Nodup → p ∈ t → tget d t p.1 = p.2
  | q :: t, hn, hp => by
    rw [List.map_cons, List.nodup_cons] at hn
    rw [tget]
    rcases List.mem_cons.1 hp with rfl | hp
    · rw [if_pos rfl]
    · rw [if_neg, tget_of_mem hn.2 hp]
      exact fun he => hn.1 (he ▸ List.mem_map_of_mem hp)

theorem not_mem_rootShares {l : Launch} {s : State} {k : Nat} (hn : (s.toks.map Prod.fst).Nodup) (hk : (tokAt s k).kind = 1) : k ∉ rootShares l s := by
  intro hm
  obtain ⟨p, hp, rfl⟩ := List.mem_map.1 hm
  obtain ⟨hp, hkind⟩ := List.mem_filter.1 hp
  rw [tokAt, tget_of_mem hn hp] at hk
  rw [hk] at hkind
  simp at hkind

/-- A region of the root passes to its lender or the host, without a lender (R324). -/
theorem passRegions_region {l : Launch} {s : State} {k : Nat} (hn : (s.toks.map Prod.fst).Nodup) (hk : (tokAt s k).kind = 1) (ho : (tokAt s k).owner = rootAgent l.vi l.seq) :
    (tokAt (passRegions l s) k).owner = (if (tokAt s k).lender ≠ 0 then (tokAt s k).lender else hostAgent l.vi) ∧ (tokAt (passRegions l s) k).lender = 0 := by
  have hkept := tokAt_dropShares s (not_mem_rootShares (l := l) hn hk)
  have hpass : tokAt (passRegions l s) k = passTok l (tokAt ((rootShares l s).foldl (fun s k => dropShare k s) s) k) := by
    rw [passRegions_eq]
    exact tget_map (passTok_zero l) k _
  generalize tokAt ((rootShares l s).foldl (fun s k => dropShare k s) s) k = t at hkept hpass
  have hkind : t.kind = 1 := by have e := congrArg Tok.kind hkept; exact e.trans hk
  have howner : t.owner = rootAgent l.vi l.seq := by have e := congrArg Tok.owner hkept; exact e.trans ho
  have hlender : t.lender = (tokAt s k).lender := by have e := congrArg Tok.lender hkept; exact e
  rw [hpass, passTok, if_pos (by rw [hkind, howner]; simp), hlender]
  exact ⟨rfl, rfl⟩

end Sys2Proof.Machine
end

section
/-! SUPPORT. The stages of LAUNCH_COMPLETE, and what each leaves alone (R48, R49, R324, R353). -/
namespace Sys2Proof.Machine

/-! ### The stages -/

/-- A launch that has a fault latches it (R353). -/
def faultLatched (l : Launch) (s : State) : State := match l.fault with | some f => latchFault l.vi l.seq f.code (faultWords f) s | none => s

/-- A launch of this module makes its completion add; the share of another module's reports to it (R48, R317). -/
def endReported (l : Launch) (s : State) : State :=
  match l.origin with
  | none => completionAdd l s
  | some m => { s with out := { s.out with dones := s.out.dones ++ [(m, l.vi, l.seq % 2 ^ 48)] } }

/-- A launch that has completed leaves the module, and its preloads with it. -/
def launchGone (l : Launch) (s : State) : State :=
  { s with
    launches := s.launches.filter (fun k => !(k.vi == l.vi && k.seq == l.seq)),
    sched := { s.sched with preloads := s.sched.preloads.filter (fun p => !(p.vi == l.vi && p.seq == l.seq)) } }

/-- Launches, contexts and the tokens stay as they are. -/
structure KeepsRun (s t : State) : Prop where
  launches : t.launches = s.launches
  vlcs : t.vlcs = s.vlcs
  toks : t.toks = s.toks

theorem KeepsRun.refl (s : State) : KeepsRun s s := ⟨rfl, rfl, rfl⟩

theorem KeepsRun.trans {s t u : State} (h : KeepsRun s t) (k : KeepsRun t u) : KeepsRun s u :=
  ⟨k.launches.trans h.launches, k.vlcs.trans h.vlcs, k.toks.trans h.toks⟩

theorem DieOnly.keepsRun {s t : State} (h : DieOnly s t) : KeepsRun s t := ⟨h.launches, h.vlcs, h.toks⟩

theorem latchFault_keepsRun (vi seq code : Nat) (r : Tbl Word) (s : State) : KeepsRun s (latchFault vi seq code r s) := ⟨rfl, rfl, rfl⟩

theorem faultLatched_keepsRun (l : Launch) (s : State) : KeepsRun s (faultLatched l s) := by
  unfold faultLatched
  split
  · exact latchFault_keepsRun ..
  · exact .refl s

theorem logDonew_mends (l : Launch) (s : State) : Mends s (logDonew l s) := by
  unfold logDonew
  split
  · exact logUe_mends ..
  · exact .refl s

theorem completionAdd_keepsRun (l : Launch) (s : State) : KeepsRun s (completionAdd l s) := by
  unfold completionAdd
  split
  · exact .refl s
  · split
    · exact (((notePinVa_mends ..).trans (correctIn_mends ..)).toDieOnly.trans (writeMem_dieOnly ..)).keepsRun
    · next c _ =>
      have hlog : KeepsRun s (if c = cUE_CONSUMED then logDonew l s else s) := by
        split_ifs
        · exact (logDonew_mends l s).toDieOnly.keepsRun
        · exact .refl s
      dsimp only
      generalize (if c = cUE_CONSUMED then logDonew l s else s) = t at hlog ⊢
      split_ifs
      · exact hlog.trans ⟨rfl, rfl, rfl⟩
      · exact hlog.trans (latchFault_keepsRun ..)

theorem endReported_keepsRun (l : Launch) (s : State) : KeepsRun s (endReported l s) := by
  unfold endReported
  split
  · exact completionAdd_keepsRun l s
  · exact ⟨rfl, rfl, rfl⟩

theorem headWaits_of_none {s : State} (h : s.launches = []) (vi n : Nat) : headWaits vi n s = s := by
  have hq : queuedOf s vi = [] := by rw [queuedOf, h]; rfl
  cases n with
  | zero => rfl
  | succ n => rw [headWaits, hq]; rfl

/-- What a module's one launch leaves as it completes. -/
def completed (l : Launch) (s : State) : State := launchGone l (endReported l (faultLatched l (passRegions l s)))

theorem ended_keepsRun (l : Launch) (s : State) : KeepsRun (passRegions l s) (endReported l (faultLatched l (passRegions l s))) := (faultLatched_keepsRun ..).trans (endReported_keepsRun ..)

theorem completed_vlcs (l : Launch) (s : State) : (completed l s).vlcs = s.vlcs := by
  obtain ⟨T, hT⟩ := passRegions_toks l s
  have hv := (ended_keepsRun l s).vlcs
  exact hv.trans (by rw [hT])

theorem completed_tok (l : Launch) (s : State) (k : Nat) : tokAt (completed l s) k = tokAt (passRegions l s) k := by
  have ht := (ended_keepsRun l s).toks
  exact congrArg (fun T => tget {} T k) ht

section
variable {l : Launch} {s : State} (hl : s.launches = [l])
include hl

theorem completed_launches : (completed l s).launches = [] := by
  obtain ⟨T, hT⟩ := passRegions_toks l s
  have hkept : (endReported l (faultLatched l (passRegions l s))).launches = [l] := by
    rw [(ended_keepsRun l s).launches, hT]
    exact hl
  rw [completed, launchGone]
  dsimp only
  rw [hkept]
  simp

theorem launchComplete_exec (hover : launchOver s l = true) (hfailed : s.sched.failed = false) (hw : rootWaits s (.root l.vi l.seq) l (addAccs s l) = false) :
    ∃ ws, exec (.launchComplete l.vi l.seq) s = .next (completed l { s with waits := ws }) := by
  obtain ⟨ws, hend⟩ := endWait_frame (.root l.vi l.seq) s
  have hget : getLaunch s l.vi l.seq = some l := by
    rw [getLaunch, hl]
    simp
  have hnone : (completed l { s with waits := ws }).launches = [] := completed_launches (s := { s with waits := ws }) hl
  refine ⟨ws, congrArg Host.Outcome.next ?_⟩
  rw [hget]
  dsimp only
  rw [hover, hfailed, hw, hend]
  refine ((if_neg (by decide)).trans (if_neg Bool.false_ne_true)).trans ?_
  have hstill : noteReady (headWaits l.vi 64 (completed l { s with waits := ws })) = completed l { s with waits := ws } := by
    rw [headWaits_of_none hnone, noteReady_of_none hnone]
  exact hstill

end

end Sys2Proof.Machine
end

section
/-! SUPPORT. What the completion of the one launch of a module leaves (R48, R324, R353). -/
namespace Sys2Proof.Machine

/-! ### What waits at banks changes no completion -/

theorem dropShares_waits (ws : List Waiting) : ∀ (ks : List Nat) (s : State),
    ks.foldl (fun s k => dropShare k s) { s with waits := ws } = { ks.foldl (fun s k => dropShare k s) s with waits := ws }
  | [], _ => rfl
  | k :: ks, s => by
    have hstep : dropShare k { s with waits := ws } = { dropShare k s with waits := ws } := rfl
    rw [List.foldl_cons, List.foldl_cons, hstep, dropShares_waits ws ks]

theorem passRegions_waits (l : Launch) (s : State) (ws : List Waiting) : passRegions l { s with waits := ws } = { passRegions l s with waits := ws } := by
  have hshares : rootShares l { s with waits := ws } = rootShares l s := rfl
  rw [passRegions_eq, passRegions_eq, hshares, dropShares_waits]

section
variable (s : State) (ws : List Waiting)

theorem walk_waits (m : List Host.Cell) (va : Nat) : ∀ (n table : Nat), walk { s with waits := ws } m va table n = walk s m va table n
  | 0, _ => rfl
  | n + 1, table => by
    rw [walk, walk]
    rw [walk_waits m va n]
    rfl

theorem translate_waits : translate { s with waits := ws } = translate s := by
  funext vi va
  rw [translate, translate, walk_waits]
  rfl

theorem addrCheck_waits : addrCheck { s with waits := ws } = addrCheck s := by
  have hp : pageOf { s with waits := ws } = pageOf s := by
    funext w va
    rw [pageOf, pageOf, translate_waits]
  have hm : madeFor { s with waits := ws } = madeFor s := by
    funext vi va
    rw [madeFor, madeFor, walk_waits]
    rfl
  have hr : tableReads { s with waits := ws } = tableReads s := rfl
  have hq : pagePassed { s with waits := ws } = pagePassed s := by
    funext w va p
    rw [pagePassed, pagePassed, hr, hm]
  funext w va al k
  rw [addrCheck, addrCheck, hp, hq]
  rfl

theorem donewPa_waits (l : Launch) : donewPa { s with waits := ws } l = donewPa s l := by
  have hh : homeCheck { s with waits := ws } = homeCheck s := rfl
  rw [donewPa, donewPa, addrCheck_waits, hh]

end

/-! ### The completion add (R48) -/

theorem completionAdd_ok {l : Launch} {s : State} {pa : Nat} (hr : l.recd ≠ []) (h0 : recDonew l.recd ≠ 0) (h8 : recDonew l.recd % 8 = 0) (hpa : donewPa s l = .ok pa) :
    (completionAdd l s).mem = mwrite s.mem pa 8 ((mread s.mem pa 8 + 1) % 2 ^ 64) := by
  have hg : (l.recd.isEmpty || recDonew l.recd == 0 || recDonew l.recd % 8 != 0) = false := by simp [hr, h0, h8]
  have hmem : (correctIn pa 8 (notePinVa { vi := l.vi, vault := none } (recDonew l.recd) s)).mem = s.mem := by
    rw [(correctIn_quiet ..).1, (notePinVa_quiet ..).1]
  rw [completionAdd, hg, if_neg Bool.false_ne_true, hpa]
  dsimp only
  rw [(writeMem_mem ..).1, hmem]

theorem completionAdd_of_nil {l : Launch} {s : State} (hr : l.recd = []) : completionAdd l s = s := by
  rw [completionAdd, hr]
  rfl

theorem faultLatched_of_none {l : Launch} {s : State} (h : l.fault = none) : faultLatched l s = s := by rw [faultLatched, h]

theorem launchGone_mem (l : Launch) (s : State) : (launchGone l s).mem = s.mem := rfl
theorem launchGone_out (l : Launch) (s : State) : (launchGone l s).out = s.out := rfl
theorem getVi_launchGone (l : Launch) (s : State) (v : Nat) : getVi (launchGone l s) v = getVi s v := rfl

theorem faultLatched_mem (l : Launch) (s : State) : (faultLatched l s).mem = s.mem := by
  unfold faultLatched
  split <;> rfl

theorem faultLatched_dones (l : Launch) (s : State) : (faultLatched l s).out.dones = s.out.dones := by
  unfold faultLatched
  split <;> rfl

theorem completed_add {l : Launch} {s : State} {pa : Nat} (hf : l.fault = none) (ho : l.origin = none) (hr : l.recd ≠ []) (h0 : recDonew l.recd ≠ 0) (h8 : recDonew l.recd % 8 = 0)
    (hpa : donewPa (passRegions l s) l = .ok pa) : (completed l s).mem = mwrite s.mem pa 8 ((mread s.mem pa 8 + 1) % 2 ^ 64) := by
  obtain ⟨T, hT⟩ := passRegions_toks l s
  rw [completed, launchGone_mem, faultLatched_of_none hf, endReported, ho]
  dsimp only
  rw [completionAdd_ok hr h0 h8 hpa, hT]

theorem completed_peer {l : Launch} {s : State} {m : Nat} (ho : l.origin = some m) :
    (completed l s).out.dones = s.out.dones ++ [(m, l.vi, l.seq % 2 ^ 48)] ∧ (completed l s).mem = s.mem := by
  obtain ⟨T, hT⟩ := passRegions_toks l s
  have hmem := faultLatched_mem l (passRegions l s)
  have hdones := faultLatched_dones l (passRegions l s)
  have hs : (passRegions l s).mem = s.mem ∧ (passRegions l s).out = s.out := by rw [hT]; exact ⟨rfl, rfl⟩
  rw [completed, launchGone_mem, launchGone_out, endReported, ho]
  dsimp only
  rw [hdones, hmem, hs.1, hs.2]
  exact ⟨rfl, rfl⟩

/-- A launch whose record was never read adds nothing (R48). -/
theorem endReported_of_nil {l : Launch} (hr : l.recd = []) (s : State) :
    (endReported l s).mem = s.mem ∧ (endReported l s).out.msix = s.out.msix ∧ (endReported l s).vis = s.vis := by
  unfold endReported
  split
  · rw [completionAdd_of_nil hr]
    exact ⟨rfl, rfl, rfl⟩
  · exact ⟨rfl, rfl, rfl⟩

theorem latchFault_lflt (vi seq code : Nat) (r : Tbl Word) (s : State) : (getVi (latchFault vi seq code r s) vi).lflt = wN (code + 256 + seq % 2 ^ 48 * 65536) := by
  rw [latchFault, getVi_updVi_same]

theorem completed_fault {l : Launch} {s : State} {f : FRec} (hf : l.fault = some f) (hr : l.recd = []) :
    (getVi (completed l s) l.vi).lflt = wN (f.code + 256 + l.seq % 2 ^ 48 * 65536) ∧ (completed l s).out.msix = s.out.msix ++ [(1 + l.vi, 1)] ∧ (completed l s).mem = s.mem := by
  obtain ⟨T, hT⟩ := passRegions_toks l s
  obtain ⟨hmem, hmsix, hvis⟩ := endReported_of_nil hr (faultLatched l (passRegions l s))
  have hlatch : faultLatched l (passRegions l s) = latchFault l.vi l.seq f.code (faultWords f) (passRegions l s) := by rw [faultLatched, hf]
  rw [hlatch] at hmem hmsix hvis
  rw [completed, getVi_launchGone, launchGone_out, launchGone_mem, hlatch, hmem, hmsix, getVi, hvis, hT]
  exact ⟨latchFault_lflt .., rfl, rfl⟩

end Sys2Proof.Machine
end

section
/-! SUPPORT. From candidate to completed launch (R48, R49, R64, R65, R67, R263, R301, R303, R309, R324, R353, R415). -/
namespace Sys2Proof.Machine

section
variable {l : Launch} {s : State} (hl : s.launches = [l]) (hover : launchOver s l = true) (hfailed : s.sched.failed = false)
  (hw : rootWaits s (.root l.vi l.seq) l (addAccs s l) = false)
include hl hover hfailed hw

theorem launchComplete_passes (hn : (s.toks.map Prod.fst).Nodup) :
    ∃ t, exec (.launchComplete l.vi l.seq) s = .next t ∧ t.launches = [] ∧ t.vlcs = s.vlcs ∧
      ∀ k, (tokAt s k).kind = 1 → (tokAt s k).owner = rootAgent l.vi l.seq →
        (tokAt t k).owner = (if (tokAt s k).lender ≠ 0 then (tokAt s k).lender else hostAgent l.vi) ∧ (tokAt t k).lender = 0 := by
  obtain ⟨ws, hexec⟩ := launchComplete_exec hl hover hfailed hw
  refine ⟨_, hexec, completed_launches (s := { s with waits := ws }) hl, completed_vlcs .., fun k hk ho => ?_⟩
  rw [completed_tok]
  exact passRegions_region (s := { s with waits := ws }) hn hk ho

theorem launchComplete_adds {pa : Nat} (hf : l.fault = none) (ho : l.origin = none) (hr : l.recd ≠ []) (h0 : recDonew l.recd ≠ 0) (h8 : recDonew l.recd % 8 = 0)
    (hpa : donewPa (passRegions l s) l = .ok pa) :
    ∃ t, exec (.launchComplete l.vi l.seq) s = .next t ∧ mread t.mem pa 8 = (mread s.mem pa 8 + 1) % 2 ^ 64 ∧ BytesKept s t pa 8 := by
  obtain ⟨ws, hexec⟩ := launchComplete_exec hl hover hfailed hw
  have hpa' : donewPa (passRegions l { s with waits := ws }) l = .ok pa := by rw [passRegions_waits, donewPa_waits, hpa]
  have hmem := completed_add hf ho hr h0 h8 hpa'
  refine ⟨_, hexec, ?_, fun b hb => ?_⟩
  · rw [hmem, mread_mwrite]
    exact Nat.mod_mod _ _
  · rw [hmem, mget_mwrite_out _ _ hb]

theorem launchComplete_reports {m : Nat} (ho : l.origin = some m) :
    ∃ t, exec (.launchComplete l.vi l.seq) s = .next t ∧ t.out.dones = s.out.dones ++ [(m, l.vi, l.seq % 2 ^ 48)] ∧ t.mem = s.mem := by
  obtain ⟨ws, hexec⟩ := launchComplete_exec hl hover hfailed hw
  exact ⟨_, hexec, completed_peer ho⟩

theorem launchComplete_latches {f : FRec} (hf : l.fault = some f) (hr : l.recd = []) :
    ∃ t, exec (.launchComplete l.vi l.seq) s = .next t ∧ (getVi t l.vi).lflt = BitVec.ofNat 64 (f.code + 256 + l.seq % 2 ^ 48 * 65536) ∧
      t.out.msix = s.out.msix ++ [(1 + l.vi, 1)] ∧ t.mem = s.mem := by
  obtain ⟨ws, hexec⟩ := launchComplete_exec hl hover hfailed hw
  exact ⟨_, hexec, completed_fault hf hr⟩

end

/-- The standby takes over with its copy of the last tick (R415). -/
theorem failover_takes {s : State} (ha : s.sched.active ≠ 11) (hs : s.sched.standby = true) (hp : s.plat.stopped = false) (hn : (s.sched.copy.vis.map Prod.fst).Nodup) :
    ∃ t, exec .schedulerFailover s = .next t ∧
      t.sched = { s.sched with active := 11, failed := false, standby := false, ranks := s.sched.copy.ranks, floorK := s.sched.copy.floorK, lastTick := s.sched.copy.lastTick } ∧
      (∀ p ∈ s.sched.copy.vis, getVi t p.1 = { getVi s p.1 with deficit := p.2.1, cost := p.2.2 }) ∧
      (∀ k, (∀ p ∈ s.sched.copy.vis, p.1 ≠ k) → getVi t k = getVi s k) ∧ { t with sched := s.sched, vis := s.vis, mgmt := s.mgmt, out := s.out } = s :=
  ⟨_, failover_exec ha hs hp, rfl, fun _ hm => takeOver_vi hn hm, fun _ hk => takeOver_vi_other hk, rfl⟩

/-- Settles O54. -/
theorem launchesProceed : Obligations.LaunchesProceed := by
  unfold Obligations.LaunchesProceed
  intro s
  refine ⟨tick_of_none_settles, ?_, ?_, ?_, ?_, ?_, ?_⟩
  · intro l n hdue hcosts hl hslots hn hrec hf hns hr hsaved hlpr hu hfree hq hb hscan hopen hfloor hpre hvi hp hw
    have h : OneSlot l n (tickStart s) := ⟨hl, hslots, hrec, hf, hsaved, hu, hfree, hq⟩
    exact tick_of_one_starts hdue hcosts hn h hns hr hb hlpr hscan hopen hfloor hpre hvi hp hw
  · intro n l x ws u hst hg hr hx hw hread ls
    exact ⟨fun i k k' h => reloadLock_some h, fun hfree => lockGroupTake_takes hst hg hr hx hw hread hfree⟩
  · intro n l hst hd hq hl hlocks hcmds hholder hpend _ hsaved hw v u hitems
    exact preemptionComplete_leaves hst hd hq hl hlocks hcmds hholder hpend hsaved hw hitems
  · intro q vault c rest l ws data a b src kind first hq hscan hl hf hw hread hes hdata dst
    exact preload_copies hq hscan hl hf hw hread hes hdata
  · intro l hl hover hfailed hw hn root
    exact ⟨launchComplete_passes hl hover hfailed hw hn, fun pa hf ho hr h0 h8 hpa => launchComplete_adds hl hover hfailed hw hf ho hr h0 h8 hpa,
      fun m ho => launchComplete_reports hl hover hfailed hw ho, fun f hf hr => launchComplete_latches hl hover hfailed hw hf hr⟩
  · intro c ha hs hp hn
    exact failover_takes ha hs hp hn

end Sys2Proof.Machine
end

section
/-! SUPPORT. Far atomics at issue: the address, the scope, and the access that is sent (R105, R185, R360, R362). -/
namespace Sys2Proof.Machine

/-- The access of a far atomic with the operands of its registers (R185). -/
def atomicAcc (s : State) (q : Passed) (op va size c data cmp reg : Nat) : Access :=
  { id := 0, vlc := s.cur, kind := .atomic, op := op, va := va, tgt := q.tgt, size := size, cls := c, dev := q.dev, cc := q.cc, data := data, cmp := cmp, reg := reg,
    origin := s.me.pc.toNat }

section
variable {s : State} {op size : Nat} {d a b : XReg} (fa fb : Bool) (sc : BitVec 3) (c : Option (BitVec 4))
  (hc : CanIssue s ([a.toNat, b.toNat] ++ (if op = 7 then [d.toNat] else [])) d.toNat)
include hc

theorem atomicForm_can : atomicForm op size d a b fa fb sc c s =
    match addrCheck s (whoOf s s.cur) (s.me.rx a.toNat).toNat size .atomic with
    | .error f => raiseAddr f (s.me.rx a.toNat).toNat s
    | .ok p =>
      if !inScope s.cur sc.toNat p.tgt then raise cSCOPE (s.me.rx a.toNat).toNat s
      else if heldBack s s.cur (classOf c s) p size then awaitBanks p.walk s
      else advance (updMe (fun v => v.drainX d.toNat) (noteIrrev s.cur (sendAcc
        (atomicAcc s p op (s.me.rx a.toNat).toNat size (classOf c s) (s.me.rx b.toNat).toNat (s.me.rx d.toNat).toNat d.toNat) (noteDev p s)))) := by
  refine issue_can (srcs := [(a.toNat, fa), (b.toNat, fb)] ++ (if op = 7 then [(d.toNat, false)] else [])) _ ?_ rfl
  have hsrcs : ([(a.toNat, fa), (b.toNat, fb)] ++ (if op = 7 then [(d.toNat, false)] else [])).map Prod.fst =
      [a.toNat, b.toNat] ++ (if op = 7 then [d.toNat] else []) := by
    split <;> rfl
  rwa [hsrcs]

variable {q : Passed} (hq : addrCheck s (whoOf s s.cur) (s.me.rx a.toNat).toNat size .atomic = .ok q)
include hq

theorem atomicForm_outOfScope (hs : inScope s.cur sc.toNat q.tgt = false) : atomicForm op size d a b fa fb sc c s = raise cSCOPE (s.me.rx a.toNat).toNat s := by
  simp only [atomicForm_can fa fb sc c hc, hq, hs, Bool.not_false, if_true]

theorem atomicForm_held (hs : inScope s.cur sc.toNat q.tgt = true) (hb : heldBack s s.cur (classOf c s) q size = true) :
    atomicForm op size d a b fa fb sc c s = awaitBanks q.walk s := by
  simp only [atomicForm_can fa fb sc c hc, hq, hs, hb, Bool.not_true, Bool.false_eq_true, if_false, if_true]

theorem atomicForm_sends (hs : inScope s.cur sc.toNat q.tgt = true) (hb : heldBack s s.cur (classOf c s) q size = false) :
    atomicForm op size d a b fa fb sc c s = advance (updMe (fun v => v.drainX d.toNat) (noteIrrev s.cur (sendAcc
      (atomicAcc s q op (s.me.rx a.toNat).toNat size (classOf c s) (s.me.rx b.toNat).toNat (s.me.rx d.toNat).toNat d.toNat) (noteDev q s)))) := by
  simp only [atomicForm_can fa fb sc c hc, hq, hs, hb, Bool.not_true, Bool.false_eq_true, if_false]

end

/-- A register that waits for its fill is empty, and no other register changes (R175). -/
theorem drainX_empties {d : Nat} (hd : d < 32) (v : Vlc) : EmptiesX v (v.drainX d) d := by
  refine ⟨drainX_x .., fun h0 => ?_, fun k hk => ?_⟩
  · have hne : (d != 0) = true := bne_iff_ne.2 h0
    rw [isEmpty_drainX v d d hd, isPend_drainX v d d hd, if_pos rfl, if_pos rfl]
    exact ⟨hne, hne⟩
  · rw [isEmpty_drainX v d k hd, isPend_drainX v d k hd, if_neg hk, if_neg hk]
    exact ⟨rfl, rfl⟩

/-- A word whose context differs in the marks of its strip when it empties its register and ends has issued (R175, R183). -/
theorem drained_issued {s t : State} {d : Nat} (hd : d < 32) (hcur : t.cur = s.cur) (hme : ∃ x y, t.me = { s.me with devs := x, irrev := y })
    (hvlc : ∀ m, m ≠ s.cur → getVlc t m = getVlc s m) (hmem : t.mem = s.mem) : Issued s (advance (updMe (fun v => v.drainX d) t)) d := by
  obtain ⟨x, y, hxy⟩ := hme
  have hdrain : (s.me.drainX d).isEmpty = ({ s.me with devs := x, irrev := y }.drainX d).isEmpty ∧
      (s.me.drainX d).isPend = ({ s.me with devs := x, irrev := y }.drainX d).isPend := by
    unfold Vlc.drainX
    split <;> exact ⟨rfl, rfl⟩
  have ht : (advance (updMe (fun v => v.drainX d) t)).me =
      { { s.me with devs := x, irrev := y }.drainX d with pc := s.me.pc + 4, bskip := s.me.skipOn, cost := s.me.cost + 1 } := by
    rw [advance, me_updMe, me_updMe, hxy, drainX_eq]; rfl
  obtain ⟨hx, hempty, hkeep⟩ := drainX_empties hd s.me
  rw [hdrain.1, hdrain.2] at hempty hkeep
  refine ⟨⟨?_, fun h => ?_, fun k hk => ?_⟩, ?_, ?_, fun m hm => ?_, fun a => ?_⟩
  · rw [ht]; exact drainX_x ..
  · rw [ht]; exact hempty h
  · rw [ht]; exact hkeep k hk
  · rw [ht]
  · rw [ht, drainX_eq]
  · rw [advance, getVlc_updMe_other _ _ (by rw [updMe_cur, hcur]; exact hm), getVlc_updMe_other _ _ (by rw [hcur]; exact hm), hvlc m hm]
  · rw [advance, updMe_mem, updMe_mem, hmem]

@[simp] theorem noteIrrev_net (n : Nat) (s : State) : (noteIrrev n s).net = s.net := rfl
@[simp] theorem noteIrrev_fills (n : Nat) (s : State) : (noteIrrev n s).fills = s.fills := rfl

/-- A far atomic that is sent ends its word, with its register empty (R185). -/
theorem atomic_issued {d : Nat} (hd : d < 32) (a : Access) (q : Passed) (s : State) :
    Issued s (advance (updMe (fun v => v.drainX d) (noteIrrev s.cur (sendAcc a (noteDev q s))))) d := by
  have hso := sendAcc_storesOnly a (noteDev q s)
  have hcur : (sendAcc a (noteDev q s)).cur = s.cur := hso.cur.trans (noteDev_cur q s)
  have hme : (noteIrrev s.cur (sendAcc a (noteDev q s))).me = if (noteDev q s).me.sopen then { (noteDev q s).me with irrev := true } else (noteDev q s).me := by
    rw [State.me, noteIrrev, updVlc_cur, hcur, getVlc_updVlc_same, hso.getVlc_eq, ← noteDev_cur q s]; rfl
  refine drained_issued hd hcur ?_ (fun m hm => ?_) ((sendAcc_mem a _).trans (noteDev_mem q s))
  · obtain ⟨x, hx⟩ := noteDev_me q s
    rw [hme, hx]
    split
    · exact ⟨x, true, rfl⟩
    · exact ⟨x, _, rfl⟩
  · rw [noteIrrev, getVlc_updVlc_other _ _ hm, hso.getVlc_eq, getVlc_noteDev_other q hm]

/-- A sent access is of its VLC, with its operands, and goes last (R185). -/
theorem sendAcc_isAtomic (s u : State) (q : Passed) (op va size c data cmp reg : Nat) :
    ∃ x, (sendAcc (atomicAcc s q op va size c data cmp reg) u).net = u.net ++ [x] ∧ x.vlc = s.cur ∧ x.kind = .atomic ∧ x.op = op ∧ x.tgt = q.tgt ∧ x.size = size ∧
      x.cls = c ∧ x.reg = reg ∧ x.data = data ∧ x.cmp = cmp := by
  refine ⟨_, sendAcc_net .., ?_⟩
  unfold routed
  split <;> exact ⟨rfl, rfl, rfl, rfl, rfl, rfl, rfl, rfl, rfl⟩

theorem noteDev_fills (q : Passed) (s : State) : (noteDev q s).fills = s.fills := by rw [noteDev, updMe_fills, (notePin_dieOnly q s).fills]

/-- Every word that answers as `atomicForm` does is a far atomic of its operation, size and class. -/
theorem issuesAtomic_of_form {i : Instr} {s : State} {op size : Nat} {d a b : XReg} {fa fb : Bool} {sc : BitVec 3} (c : Option (BitVec 4))
    (hi : exec i s = .next (atomicForm op size d a b fa fb sc c s)) : IssuesAtomic i s op size d a b sc (classOf c s) := by
  intro hc
  refine ⟨fun f hm hf => ?_, fun q hq => ⟨fun hm hs => ?_, fun hs hb => ?_⟩⟩
  · simp only [atomicForm_can fa fb sc c hc, hf] at hi
    exact trapsAddr_of_raiseAddr hm (addrCheck_error_lt hf) hi
  · rw [atomicForm_outOfScope fa fb sc c hc hq hs] at hi
    exact traps_of_raise hm (by decide) hi
  · rw [atomicForm_sends fa fb sc c hc hq hs hb] at hi
    obtain ⟨x, hnet, hx⟩ := sendAcc_isAtomic s (noteDev q s) q op (s.me.rx a.toNat).toNat size (classOf c s) (s.me.rx b.toNat).toNat (s.me.rx d.toNat).toNat d.toNat
    exact ⟨_, hi, atomic_issued d.isLt _ q s, noteDev_fills q s, x, hnet.trans (congrArg (· ++ [x]) (noteDev_net q s)), hx⟩

/-- Settles O9: every form is `atomicForm` of its operation, size and class. -/
theorem atomicsIssue : Obligations.AtomicsIssue := by
  unfold Obligations.AtomicsIssue
  refine fun s => ⟨fun o => ?_, fun o => ?_⟩
  · have form {i : Instr} {op size : Nat} (hi : exec i s = .next (atomicForm op size o.d o.a o.b o.fa o.fb o.sc (some o.c) s)) := issuesAtomic_of_form (some o.c) hi
    exact ⟨form rfl, form rfl, form rfl, form rfl, form rfl, form rfl, form rfl, form rfl, form rfl, form rfl, form rfl, form rfl, form rfl, form rfl, form rfl, form rfl⟩
  · have form {i : Instr} {op size : Nat} (hi : exec i s = .next (atomicForm op size o.d o.a o.b o.fa o.fb o.sc none s)) := issuesAtomic_of_form none hi
    exact ⟨form rfl, form rfl, form rfl, form rfl, form rfl, form rfl, form rfl, form rfl, form rfl, form rfl, form rfl, form rfl, form rfl, form rfl, form rfl, form rfl⟩

end Sys2Proof.Machine
end

section
/-! SUPPORT. The order of accesses of a VLC: which of them wait where they perform, and which at issue behind a fence (R81, R114, R116 to R118). -/
namespace Sys2Proof.Machine

/-! ### Accesses in flight (R81, R114, R116) -/

/-- An older access of the same VLC that keeps its order blocks a younger one (R81, R114, R116). -/
theorem blockedBy_of_older {s : State} {a b : Access} (ha : a ∈ s.net) (hcounts : a.counts = true) (hvlc : b.vlc = a.vlc) (hid : a.id < b.id)
    (hk : keeps a.cls a.tgt a.size a.dev b.cls b.tgt b.size b.dev = true) : blockedBy s b.vlc b.id b.ser b.cls b.tgt b.size b.dev = true := by
  rw [blockedBy, Bool.or_eq_true, List.any_eq_true]
  refine .inl ⟨a, ha, ?_⟩
  simp [hvlc, hcounts, hid, hk]

section
variable {s : State} {b : Access} (hb : blockedBy s b.vlc b.id b.ser b.cls b.tgt b.size b.dev = true)
include hb

theorem mayPerform_of_blocked : mayPerform s b = false := by rw [mayPerform, hb]; rfl

theorem awaitAcc_of_blocked (pa : Nat) : awaitAcc b pa s = s := if_pos hb

variable (hfind : findAcc s b.ser = some b)
include hfind

/-- An access that another comes before does not perform, and leaves no mark of waiting (R114). -/
theorem targetAccess_of_blocked : execTargetAccess b.ser s = .next s := by
  simp only [execTargetAccess, hfind, mayPerform_of_blocked hb, awaitAcc_of_blocked hb, Bool.false_eq_true, if_false]
  split <;> rfl

theorem homeAtomic_of_blocked : execHomeAtomic b.ser s = .next s := by
  simp only [execHomeAtomic, hfind, mayPerform_of_blocked hb, awaitAcc_of_blocked hb, Bool.false_eq_true, if_false]
  split <;> rfl

end

/-! ### Waits at banks -/

/-- Nothing but what waits at banks differs (R263, R396). -/
def NotesWait (s t : State) : Prop := { t with waits := s.waits, nextId := s.nextId } = s

namespace NotesWait

theorem refl (s : State) : NotesWait s s := by unfold NotesWait; rfl

theorem of_waits {s t : State} (h : { t with waits := s.waits, nextId := s.nextId } = s) : NotesWait s t := h

theorem trans {s t u : State} (h : NotesWait s t) (k : NotesWait t u) : NotesWait s u := by
  have h1 := congrArg (fun x : State => { x with waits := s.waits, nextId := s.nextId }) k
  exact h1.trans h

end NotesWait

theorem awaitTurn_notesWait (who : Waiter) (agent : Nat) (pas walk : List Nat) (s : State) : NotesWait s (awaitTurn who agent pas walk s) := by
  unfold awaitTurn
  dsimp only
  split_ifs
  · exact .refl s
  · split
    · split_ifs
      · exact .refl s
      · exact .of_waits rfl
    · exact .of_waits rfl

theorem awaitBanks_notesWait (l : List Nat) (s : State) : NotesWait s (awaitBanks l s) := by
  unfold awaitBanks
  split_ifs
  · exact awaitTurn_notesWait ..
  · exact .refl s

theorem awaitFlush_notesWait (s : State) : NotesWait s (awaitFlush s) := by
  unfold awaitFlush
  split_ifs
  · exact awaitTurn_notesWait ..
  · exact .refl s

/-! ### Words behind a fence (R117, R118) -/

/-- An access of the mask and scope of a fence, younger than it, is held back while an older one of its mask and scope has not performed. -/
theorem heldBack_of_fence {s : State} {a : Access} {f : FenceRec} {c : Nat} {q : Passed} (size : Nat) (ha : a ∈ s.net) (hcounts : a.counts = true) (hvlc : a.vlc = s.cur)
    (hf : f ∈ s.me.fences) (hold : a.id < f.id) (hnew : f.id < s.nextId) (hma : f.mask.getLsbD a.cls = true) (hmc : f.mask.getLsbD c = true)
    (hsa : inScope s.cur f.scope a.tgt = true) (hsq : inScope s.cur f.scope q.tgt = true) : heldBack s s.cur c q size = true := by
  have hnet : s.net.any (fun a => a.vlc == s.cur && a.counts && decide (a.id < f.id) && f.mask.getLsbD a.cls && inScope s.cur f.scope a.tgt) = true :=
    List.any_eq_true.2 ⟨a, ha, by simp only [hvlc, beq_self_eq_true, hcounts, hold, decide_true, hma, hsa, Bool.and_self]⟩
  have hfenced : fenced s s.cur s.nextId c q.tgt = true := by
    rw [fenced, List.any_eq_true]
    refine ⟨f, hf, ?_⟩
    simp only [hnew, decide_true, hmc, hsq, hnet, Bool.and_self, Bool.true_or]
  simp only [heldBack, mustWait, hfenced, Bool.or_true, Bool.true_or]

/-- The word only notes the banks for which it waits. -/
def OnlyWaits (i : Instr) (s : State) : Prop := ∃ t, exec i s = .next t ∧ NotesWait s t

section
variable {s : State} {q : Passed} {c : Option (BitVec 4)} (hb : ∀ size, heldBack s s.cur (classOf c s) q size = true)
include hb

theorem load_waits {i : Instr} {r a : XReg} {p : BitVec 12} {size : Nat} {sgn : Bool} (hi : exec i s = .next (loadForm r a c p size sgn s))
    (hc : CanIssue s [a.toNat] r.toNat) (hq : addrCheck s (whoOf s s.cur) (effAddr s a p size) size .read = .ok q) : OnlyWaits i s := by
  refine ⟨_, hi, ?_⟩
  have hcan : loadForm r a c p size sgn s = loadAt r.toNat (effAddr s a p size) size sgn (classOf c s) s := issue_can (srcs := [(a.toNat, false)]) _ hc rfl
  simp only [hcan, loadAt, hq, hb, if_true]
  exact awaitBanks_notesWait ..

theorem store_waits {i : Instr} {r a : XReg} {p : BitVec 12} {size : Nat} (hi : exec i s = .next (storeForm r a c p size s))
    (hc : CanIssue s [a.toNat, r.toNat] 0) (hq : addrCheck s (whoOf s s.cur) (effAddr s a p size) size .write = .ok q) : OnlyWaits i s := by
  refine ⟨_, hi, ?_⟩
  simp only [storeForm_can c hc, storeAt, hq, storeSend, hb, if_true]
  exact (awaitFlush_notesWait s).trans (awaitBanks_notesWait ..)

theorem atomic_waits {i : Instr} {op size : Nat} {d a b : XReg} {fa fb : Bool} {sc : BitVec 3} (hi : exec i s = .next (atomicForm op size d a b fa fb sc c s))
    (hc : CanIssue s ([a.toNat, b.toNat] ++ (if op = 7 then [d.toNat] else [])) d.toNat)
    (hq : addrCheck s (whoOf s s.cur) (s.me.rx a.toNat).toNat size .atomic = .ok q) (hs : inScope s.cur sc.toNat q.tgt = true) : OnlyWaits i s := by
  refine ⟨_, hi, ?_⟩
  rw [atomicForm_held fa fb sc c hc hq hs (hb size)]
  exact awaitBanks_notesWait ..

/-- The far atomics that do not read xd. -/
theorem plainAtomics_wait {l : List Instr} {size : Nat} {d a b : XReg} {fa fb : Bool} {sc : BitVec 3}
    (hl : ∀ i ∈ l, ∃ op, exec i s = .next (atomicForm op size d a b fa fb sc c s) ∧ op ≠ 7) :
    ∀ i ∈ l, CanIssue s ([a.toNat, b.toNat] ++ []) d.toNat → addrCheck s (whoOf s s.cur) (s.me.rx a.toNat).toNat size .atomic = .ok q →
      inScope s.cur sc.toNat q.tgt = true → OnlyWaits i s := by
  intro i hmem hc hq hs
  obtain ⟨op, hi, hop⟩ := hl i hmem
  exact atomic_waits hb hi (by rwa [if_neg hop]) hq hs

end

/-- Settles O14. -/
theorem orderKept : Obligations.OrderKept := by
  unfold Obligations.OrderKept
  refine fun s a ha hcounts => ⟨fun b hfind hvlc hid hkeep => ?_, fun f c q hvlc hf hold hnew hma hmc hsa hsq => ?_⟩
  · have hk : keeps a.cls a.tgt a.size a.dev b.cls b.tgt b.size b.dev = true := by
      rcases hkeep with h | h | ⟨h, k⟩
      · simp [keeps, h]
      · simp [keeps, h]
      · simp [keeps, h, k]
    have hb := blockedBy_of_older ha hcounts hvlc hid hk
    exact ⟨targetAccess_of_blocked hb hfind, homeAtomic_of_blocked hb hfind⟩
  have held (k : Option (BitVec 4)) (hk : classOf k s = c) (size : Nat) : heldBack s s.cur (classOf k s) q size = true :=
    heldBack_of_fence size ha hcounts hvlc hf hold hnew hma (hk ▸ hmc) hsa hsq
  refine ⟨fun o hc => ?_, fun o hc => ?_, fun o hc => ?_, fun o hc => ?_⟩
  · have hb := held (some o.c) hc
    refine ⟨?_, ?_, ?_, ?_, ?_, ?_, ?_, ?_, ?_, ?_, ?_⟩
    iterate 7 exact load_waits hb rfl
    iterate 4 exact store_waits hb rfl
  · have hb := held none hc
    refine ⟨?_, ?_, ?_, ?_, ?_, ?_, ?_, ?_, ?_, ?_, ?_⟩
    iterate 7 exact load_waits hb rfl
    iterate 4 exact store_waits hb rfl
  · have hb := held (some o.c) hc
    refine ⟨plainAtomics_wait (fa := o.fa) (fb := o.fb) hb ?_, plainAtomics_wait (fa := o.fa) (fb := o.fb) hb ?_, atomic_waits (op := 7) hb rfl, atomic_waits (op := 7) hb rfl⟩
    all_goals
      simp only [List.forall_mem_cons, List.not_mem_nil, false_implies, implies_true, and_true]
      refine ⟨?_, ?_, ?_, ?_, ?_, ?_, ?_⟩ <;> exact ⟨_, rfl, by decide⟩
  · have hb := held none hc
    refine ⟨plainAtomics_wait (fa := o.fa) (fb := o.fb) hb ?_, plainAtomics_wait (fa := o.fa) (fb := o.fb) hb ?_, atomic_waits (op := 7) hb rfl, atomic_waits (op := 7) hb rfl⟩
    all_goals
      simp only [List.forall_mem_cons, List.not_mem_nil, false_implies, implies_true, and_true]
      refine ⟨?_, ?_, ?_, ?_, ?_, ?_, ?_⟩ <;> exact ⟨_, rfl, by decide⟩

end Sys2Proof.Machine
end

section
/-! SUPPORT. Accesses that perform where they are made: loads, stores and far atomics, and those that fail there (R93, R104, R110, R183, R185, R349, R361, R380, R391). -/
namespace Sys2Proof.Machine

/-! ### An access leaves those in flight -/

/-- Only the accesses in flight differ, by the one of serial number `ser`, which has performed (R81). -/
structure Performed (ser : Nat) (s t : State) : Prop where
  rest : { t with net := s.net } = s
  net : NetLoses s t ser

theorem noteDone_performed (a : Access) (s : State) : Performed a.ser s (noteDone a s) := by
  unfold noteDone
  split_ifs
  · refine ⟨rfl, ?_⟩
    rw [NetLoses]
    simp only [settleDev, dropAcc, List.map_map]
    refine List.map_congr_left fun b _ => ?_
    simp only [Function.comp_apply]
    split <;> rfl
  · exact ⟨rfl, rfl⟩

namespace Performed

section
variable {ser : Nat} {s t : State} (h : Performed ser s t)
include h

theorem mem : t.mem = s.mem := by have e := congrArg State.mem h.rest; exact e
theorem ecc : t.ecc = s.ecc := by have e := congrArg State.ecc h.rest; exact e
theorem toks : t.toks = s.toks := by have e := congrArg State.toks h.rest; exact e
theorem vlcs : t.vlcs = s.vlcs := by have e := congrArg State.vlcs h.rest; exact e
theorem vaults : t.vaults = s.vaults := by have e := congrArg State.vaults h.rest; exact e
theorem repair : t.repair = s.repair := by have e := congrArg State.repair h.rest; exact e
theorem fills : t.fills = s.fills := by have e := congrArg State.fills h.rest; exact e

theorem getVlc_eq (n : Nat) : getVlc t n = getVlc s n := by rw [getVlc, h.vlcs, getVlc]

theorem tokenCheck_eq : tokenCheck t = tokenCheck s := by
  have e := congrArg tokenCheck h.rest; exact e

theorem isLost_eq : isLost t = isLost s := by have e := congrArg isLost h.rest; exact e

theorem ueIn_eq : ueIn t = ueIn s := by have e := congrArg ueIn h.rest; exact e

theorem homeCheck_eq : homeCheck t = homeCheck s := by have e := congrArg homeCheck h.rest; exact e

theorem targetCheck_eq (a : Access) (k : Want) (pa : Nat) : targetCheck t a k pa = targetCheck s a k pa := by
  rw [targetCheck, targetCheck, h.tokenCheck_eq, h.getVlc_eq]

end

end Performed

/-! ### An access that fails (R349) -/

/-- The context of a load or atomic that fails takes 0 in the full register (R349). -/
def failFill (a : Access) (v : Vlc) : Vlc := if a.kind = .store then v else v.fillX a.reg 0

/-- A failing access queues a record that names its instruction, address and register, and fills its register with 0 (R347, R349). -/
theorem deferFault_eq (a : Access) (code : Nat) (s : State) :
    ∃ g, ChargedTo g code a.reg a.origin a.va ∧ deferFault a code s = queueFault a.vlc g a.id (if a.kind = .store then s else updVlc a.vlc (fun v => v.fillX a.reg 0) s) := by
  unfold deferFault
  refine ⟨_, ?_, congrArg (queueFault a.vlc _ a.id) ?_⟩
  case refine_2 => cases a.kind <;> rfl
  cases a.tgt with
  | rem m c x => exact ⟨rfl, rfl, rfl, rfl, rfl⟩
  | loc pa =>
    dsimp only
    split_ifs
    · unfold withToken
      split <;> exact ⟨rfl, rfl, rfl, rfl, rfl⟩
    · exact ⟨rfl, rfl, rfl, rfl, rfl⟩

@[simp] theorem queueFault_net (n : Nat) (f : FRec) (o : Nat) (s : State) : (queueFault n f o s).net = s.net := rfl
@[simp] theorem queueFault_fills (n : Nat) (f : FRec) (o : Nat) (s : State) : (queueFault n f o s).fills = s.fills := rfl

/-- An access that is deferred where it performs, from a state that differs in no context and in no byte, fails as R349 says. -/
theorem failsAt_of_deferFault {i : Instr} {s u : State} {a : Access} {code : Nat} (hst : (getVlc s a.vlc).status = .running) (hlen : (getVlc s a.vlc).faults.length < 16)
    (hi : exec i s = .next (deferFault a code u)) (hvlcs : u.vlcs = s.vlcs) (hmem : u.mem = s.mem) (hfills : u.fills = s.fills) (hnet : NetLoses s u a.ser) :
    FailsAt i s a code := by
  obtain ⟨g, hg, he⟩ := deferFault_eq a code u
  have hbefore (m : Nat) : getVlc u m = getVlc s m := by rw [getVlc, hvlcs, getVlc]
  rw [he] at hi
  by_cases hk : a.kind = .store
  · rw [if_pos hk] at hi
    refine ⟨_, g, hi, by rw [NetLoses, queueFault_net]; exact hnet, by rw [queueFault_fills, hfills], fun b => by rw [queueFault_mem, hmem], fun m hm => ?_, hg, ?_⟩
    · rw [queueFault, getVlc_updVlc_other _ _ hm, hbefore]
    · rw [getVlc_queueFault_same (by rw [hbefore]; exact hst) (by rw [hbefore]; exact hlen), hbefore, if_pos hk]
  · rw [if_neg hk] at hi
    refine ⟨_, g, hi, by rw [NetLoses, queueFault_net, updVlc_net]; exact hnet, by rw [queueFault_fills, updVlc_fills, hfills],
      fun b => by rw [queueFault_mem, updVlc_mem, hmem], fun m hm => ?_, hg, ?_⟩
    · rw [queueFault, getVlc_updVlc_other _ _ hm, getVlc_updVlc_other _ _ hm, hbefore]
    · have hfill : getVlc (updVlc a.vlc (fun v => v.fillX a.reg 0) u) a.vlc = (getVlc s a.vlc).fillX a.reg 0 := by rw [getVlc_updVlc_same, hbefore]
      rw [getVlc_queueFault_same (by rw [hfill, fillX_status]; exact hst) (by rw [hfill, fillX_faults]; exact hlen), hfill, if_neg hk]

/-! ### Loads and stores (R104, R110, R183) -/

section
variable {s : State} {n pa : Nat} {a : Access} (hfind : findAcc s n = some a) (htgt : a.tgt = .loc pa) (hmay : mayPerform s a = true)
include hfind htgt hmay

theorem targetAccess_load (hk : a.kind = .load) : exec (.targetAccess n) s = .next (performAt a pa s) := by
  rw [show exec (.targetAccess n) s = execTargetAccess n s from rfl]
  simp only [execTargetAccess, hfind, hk, htgt, hmay, if_true]

theorem targetAccess_store (hk : a.kind = .store) : exec (.targetAccess n) s = .next (performAt a pa s) := by
  rw [show exec (.targetAccess n) s = execTargetAccess n s from rfl]
  simp only [execTargetAccess, hfind, hk, htgt, hmay, if_true]

theorem homeAtomic_performs (hk : a.kind = .atomic) : exec (.homeAtomic n) s = .next (atomicAt a pa s) := by
  rw [show exec (.homeAtomic n) s = execHomeAtomic n s from rfl]
  simp only [execHomeAtomic, hfind, hk, htgt, hmay, if_true]

end

section
variable {s : State} {pa : Nat} {a : Access} (hlive : a.dead = false)
include hlive

theorem performAt_load_refused (hk : a.kind = .load) {c : Nat} (hc : targetCheck s a .read pa = some c) : performAt a pa s = deferFault a c (noteDone a s) := by
  simp only [performAt, hk, (noteDone_performed a s).targetCheck_eq, hc, hlive, Bool.false_eq_true, if_false]

theorem performAt_load_consumes (hk : a.kind = .load) (hc : targetCheck s a .read pa = none) (hu : ueIn s pa a.size = true) :
    performAt a pa s = consumeLoad a (logUe pa a.size (getVlc s a.vlc).agent (noteDone a s)) := by
  simp only [performAt, hk, (noteDone_performed a s).targetCheck_eq, hc, readMem, (noteDone_performed a s).ueIn_eq, hu, if_true, hlive, Bool.false_eq_true, if_false,
    (noteDone_performed a s).getVlc_eq]

omit hlive in
theorem performAt_load_reads (hk : a.kind = .load) (hc : targetCheck s a .read pa = none) (hu : ueIn s pa a.size = false) :
    performAt a pa s = sendFill a (extend a.sgn a.size (mergeBytes a.size (mread s.mem pa a.size) a.fwd a.fmask)) (noteServed pa (correctIn pa a.size (noteDone a s))) := by
  simp only [performAt, hk, (noteDone_performed a s).targetCheck_eq, hc, readMem, (noteDone_performed a s).ueIn_eq, hu, Bool.false_eq_true, if_false,
    (noteDone_performed a s).mem]

theorem performAt_store_refused (hk : a.kind = .store) {c : Nat} (hc : targetCheck s a .write pa = some c) : performAt a pa s = deferFault a c (noteDone a s) := by
  simp only [performAt, hk, (noteDone_performed a s).targetCheck_eq, hc, hlive, Bool.false_eq_true, if_false]

theorem performAt_store_lost (hk : a.kind = .store) (hc : targetCheck s a .write pa = none) (hl : isLost s pa = true) :
    performAt a pa s = deferFault a cUE_CONSUMED (noteDone a s) := by
  simp only [performAt, hk, (noteDone_performed a s).targetCheck_eq, hc, (noteDone_performed a s).isLost_eq, hl, if_true, hlive, Bool.false_eq_true, if_false]

omit hlive in
theorem performAt_store_writes (hk : a.kind = .store) (hc : targetCheck s a .write pa = none) (hl : isLost s pa = false) :
    performAt a pa s = writeWide pa a.size a.data (noteDone a s) := by
  simp only [performAt, hk, (noteDone_performed a s).targetCheck_eq, hc, (noteDone_performed a s).isLost_eq, hl, Bool.false_eq_true, if_false]

theorem atomicAt_refused (hv : a.vdst = none) (hchk : a.chk = false) {c : Nat} (hc : homeCheck s (getVlc s a.vlc).agent pa a.size = some c) :
    atomicAt a pa s = deferFault a c (if c = cUE_CONSUMED then logUe pa a.size (getVlc s a.vlc).agent (noteDone a s) else noteDone a s) := by
  have hp := noteDone_performed a s
  simp only [atomicAt, hchk, Bool.false_eq_true, if_false, hp.homeCheck_eq, hp.getVlc_eq, hc, hlive, hv, Option.isSome_none]

omit hlive in
theorem atomicAt_performs (hv : a.vdst = none) (hc : homeCheck s (getVlc s a.vlc).agent pa a.size = none) :
    atomicAt a pa s =
      let u := correctIn pa a.size (noteDone a s)
      sendFill a (wI (sx (8 * a.size) (mread s.mem pa a.size))).toNat (writeMem pa a.size (atomicNew a.op (8 * a.size) (mread s.mem pa a.size) a.data a.cmp) u) := by
  have hp := noteDone_performed a s
  have hmem : (correctIn pa a.size (noteDone a s)).mem = s.mem := (correctIn_quiet ..).1.trans hp.mem
  have hu := (homeCheck_none_iff.1 hc).2.2
  simp only [atomicAt, hp.homeCheck_eq, hp.getVlc_eq, hp.ueIn_eq, hu, hc, hv, Option.isSome_none, Bool.false_eq_true, if_false, ite_self, hmem]

theorem sendFill_eq (v : Nat) (u : State) : sendFill a v u = { u with fills := u.fills ++ [{ vlc := a.vlc, reg := a.reg, val := v, vdst := a.vdst, size := a.size }] } := by
  rw [sendFill, hlive]; rfl

end

/-- Nothing is taken from a strip store buffer that gives no byte (R57). -/
theorem mergeBytes_zero (n v f : Nat) : mergeBytes n v f 0 = v := by
  have key : ∀ l : List Nat, l.foldl (fun acc i => if bitN 0 i then putFld acc (8 * i) 8 (fld f (8 * i) 8) else acc) v = v := by
    intro l
    induction l with
    | nil => rfl
    | cons i l ih => rw [List.foldl_cons, if_neg (by simp [bitN])]; exact ih
  exact key _

/-- The new word of a far atomic is of its width (R185). -/
theorem atomicNew_lt {w old : Nat} (h : old < 2 ^ w) (op b d : Nat) : atomicNew op w old b d < 2 ^ w := by
  have hb : b % 2 ^ w < 2 ^ w := Nat.mod_lt _ (by positivity)
  unfold atomicNew
  split
  · exact Nat.mod_lt _ (by positivity)
  · exact Nat.and_lt_two_pow _ hb
  · exact Nat.or_lt_two_pow h hb
  · exact Nat.xor_lt_two_pow h hb
  · split <;> assumption
  · split <;> assumption
  · exact hb
  · split <;> assumption

/-! ### What an access leaves where it performs -/

/-- The base die serves an access that has performed: only memory and what the die notes differ, beside those in flight. -/
structure Served (ser : Nat) (s t : State) : Prop where
  vlcs : t.vlcs = s.vlcs
  fills : t.fills = s.fills
  net : NetLoses s t ser

theorem Performed.served {ser : Nat} {s t u : State} (h : Performed ser s t) (k : DieOnly t u) : Served ser s u where
  vlcs := k.vlcs.trans h.vlcs
  fills := k.fills.trans h.fills
  net := by rw [NetLoses, k.net]; exact h.net

theorem Performed.servedQuiet {ser : Nat} {s t u : State} (h : Performed ser s t) (k : Mends t u) : Served ser s u := h.served k.toDieOnly

/-- Settles O10: what each access does where it performs, and where it fails. -/
theorem accessesPerform : Obligations.AccessesPerform := by
  unfold Obligations.AccessesPerform
  intro s n pa a hfind htgt hsize _ hmay hlive
  have hp := noteDone_performed a s
  have hle : reach a.size = a.size := by
    simp only [List.mem_cons, List.not_mem_nil, or_false] at hsize
    rw [reach, if_pos (by omega)]
  refine ⟨fun hv hst hlen => ⟨fun c hk hc => ?_, fun hk hc hu hr => ?_, fun hk hc hu hr => ?_, fun c hk hc => ?_, fun hk hc hl => ?_, fun c hk hchk hc => ?_⟩,
    fun hk hc hu => ?_, fun hk hc hl => ?_, fun hk hv hsz hc => ?_⟩
  · refine failsAt_of_deferFault hst hlen ?_ hp.vlcs hp.mem hp.fills hp.net
    rw [targetAccess_load hfind htgt hmay hk, performAt_load_refused hlive hk hc]
  · have hm := logUe_mends pa a.size (getVlc s a.vlc).agent (noteDone a s)
    have hs := hp.servedQuiet hm
    refine failsAt_of_deferFault hst hlen ?_ hs.vlcs ((logUe_quiet ..).1.trans hp.mem) hs.fills hs.net
    rw [targetAccess_load hfind htgt hmay hk, performAt_load_consumes hlive hk hc hu, consumeLoad, hm.getVlc_eq, hp.getVlc_eq, hr]
    rfl
  · have hm := logUe_mends pa a.size (getVlc s a.vlc).agent (noteDone a s)
    have hs := hp.servedQuiet hm
    have hbefore (m : Nat) := (hm.getVlc_eq m).trans (hp.getVlc_eq m)
    have hi : exec (.targetAccess n) s = .next (updVlc a.vlc (fun v => { v.fillX a.reg 0 with rewind := true }) (logUe pa a.size (getVlc s a.vlc).agent (noteDone a s))) := by
      rw [targetAccess_load hfind htgt hmay hk, performAt_load_consumes hlive hk hc hu, consumeLoad, hbefore, hr, if_pos rfl]
    refine ⟨_, hi, hs.net, hs.fills, fun b => congrArg (mget · b) ((logUe_quiet ..).1.trans hp.mem), ?_, fun m hm' => ?_⟩
    · rw [getVlc_updVlc_same, hbefore]
    · rw [getVlc_updVlc_other _ _ hm', hbefore]
  · refine failsAt_of_deferFault hst hlen ?_ hp.vlcs hp.mem hp.fills hp.net
    rw [targetAccess_store hfind htgt hmay hk, performAt_store_refused hlive hk hc]
  · refine failsAt_of_deferFault hst hlen ?_ hp.vlcs hp.mem hp.fills hp.net
    rw [targetAccess_store hfind htgt hmay hk, performAt_store_lost hlive hk hc hl]
    rfl
  · have hi := (homeAtomic_performs hfind htgt hmay hk).trans (congrArg Host.Outcome.next (atomicAt_refused hlive hv hchk hc))
    have hm := logUe_mends pa a.size (getVlc s a.vlc).agent (noteDone a s)
    have hs := hp.servedQuiet hm
    split_ifs at hi with h22
    · exact failsAt_of_deferFault hst hlen hi hs.vlcs ((logUe_quiet ..).1.trans hp.mem) hs.fills hs.net
    · exact failsAt_of_deferFault hst hlen hi hp.vlcs hp.mem hp.fills hp.net
  · have hm := (correctIn_mends pa a.size (noteDone a s)).trans (noteServed_mends pa _)
    have hs := hp.servedQuiet hm
    have hmem : (noteServed pa (correctIn pa a.size (noteDone a s))).mem = s.mem := (noteServed_mem ..).trans ((correctIn_quiet ..).1.trans hp.mem)
    have hi := (targetAccess_load hfind htgt hmay hk).trans (congrArg Host.Outcome.next ((performAt_load_reads hk hc hu).trans (sendFill_eq hlive ..)))
    refine ⟨_, _, hi, fun b => congrArg (mget · b) hmem, hs.net, congrArg (· ++ [_]) hs.fills, rfl, rfl, fun hz => ?_, hs.vlcs⟩
    dsimp only
    rw [hz, mergeBytes_zero]
  · have hd := writeWide_dieOnly pa a.size a.data (noteDone a s)
    have hs := hp.served hd
    refine ⟨_, (targetAccess_store hfind htgt hmay hk).trans (congrArg Host.Outcome.next (performAt_store_writes hk hc hl)), mread_writeWide hsize ..,
      fun b hb => ?_, hs.net, hs.fills, hs.vlcs⟩
    rw [writeWide_mget_out _ _ (hle.symm ▸ hb), hp.mem]
  · have hm := correctIn_mends pa a.size (noteDone a s)
    have hs := hp.served (hm.toDieOnly.trans (writeMem_dieOnly pa a.size (atomicNew a.op (8 * a.size) (mread s.mem pa a.size) a.data a.cmp) _))
    have hi := (homeAtomic_performs hfind htgt hmay hk).trans (congrArg Host.Outcome.next ((atomicAt_performs hv hc).trans (sendFill_eq hlive ..)))
    have hwidth : 256 ^ a.size = 2 ^ (8 * a.size) := by rw [Nat.pow_mul]
    refine ⟨_, _, hi, ?_, fun b hb => ?_, congrArg (· ++ [_]) hs.fills, rfl, rfl, rfl, hs.net, hs.vlcs⟩
    · have hold : mread s.mem pa a.size < 2 ^ (8 * a.size) := hwidth ▸ mread_lt ..
      dsimp only
      rw [(writeMem_mem ..).1, mread_mwrite, hwidth, Nat.mod_eq_of_lt (atomicNew_lt hold ..)]
      rfl
    · dsimp only
      rw [(writeMem_mem ..).1, mget_mwrite_out _ _ hb, (correctIn_quiet ..).1, hp.mem]

end Sys2Proof.Machine
end

section
/-! SUPPORT. Barrier operations and waits at the home: the fields of the barrier word, and what its context is answered (R107 to R109, R298). -/
namespace Sys2Proof.Machine

/-! ### The fields of a barrier word (R107, R108) -/

/-- The word `new` that a barrier operation makes of `old`: PEND, UNDER, the bits that stay, and EPOCH, which counts that PEND goes from a non-zero value to 0. -/
def BarFields (old new pend under : Nat) : Prop :=
  new % 2 ^ 24 = pend ∧ new / 2 ^ 24 % 2 = under ∧ new / 2 ^ 25 % 2 ^ 7 = old / 2 ^ 25 % 2 ^ 7 ∧
    new / 2 ^ 32 = (if old % 2 ^ 24 ≠ 0 ∧ pend = 0 then (old / 2 ^ 32 + 1) % 2 ^ 32 else old / 2 ^ 32)

theorem barPend_eq (w : Nat) : barPend w = w % 2 ^ 24 := by simp [barPend, fld]

section
variable {w : Nat} (hw : w < 2 ^ 64)
include hw

theorem barEpoch_eq : barEpoch w = w / 2 ^ 32 := by
  rw [barEpoch, fld]
  omega

theorem barSet_fields {p : Nat} (hp : p < 2 ^ 24) : BarFields w (barSet w p) p (w / 2 ^ 24 % 2) := by
  rw [BarFields, barSet, barPend_eq, barEpoch_eq hw]
  simp only [putFld, fld]
  split_ifs <;> omega

theorem BarFields.lt {new p u : Nat} (h : BarFields w new p u) : new < 2 ^ 64 := by
  obtain ⟨-, -, -, hepoch⟩ := h
  split_ifs at hepoch <;> omega

end

theorem BarFields.putUnder {w new p u b : Nat} (h : BarFields w new p u) (hb : b < 2) : BarFields w (putFld new 24 1 b) p b := by
  obtain ⟨hpend, -, hmid, hepoch⟩ := h
  have h24 : putFld new 24 1 b % 2 ^ 24 = new % 2 ^ 24 := by simp only [putFld, fld]; omega
  have h1 : putFld new 24 1 b / 2 ^ 24 % 2 = b := by simp only [putFld, fld]; omega
  have h25 : putFld new 24 1 b / 2 ^ 25 = new / 2 ^ 25 := by simp only [putFld, fld]; omega
  refine ⟨h24.trans hpend, h1, by rw [h25, hmid], ?_⟩
  rw [← hepoch]
  omega

/-- The word after an init or a debit of `a.data` (R108). -/
theorem barNew_init {a : Access} {w : Nat} (hw : w < 2 ^ 64) (hk : a.kind = .barInit) (hd : a.data ≤ 16777215) : BarFields w (barNew a w) a.data 0 := by
  rw [barNew, if_pos hk, barInit]
  exact (barSet_fields hw (by omega)).putUnder (by omega)

theorem barNew_debit {a : Access} {w : Nat} (hw : w < 2 ^ 64) (hk : a.kind = .barArrive) :
    BarFields w (barNew a w) (if a.data > w % 2 ^ 24 then 0 else w % 2 ^ 24 - a.data) (if a.data > w % 2 ^ 24 then 1 else w / 2 ^ 24 % 2) := by
  rw [barNew, if_neg (by rw [hk]; decide), barDebit, barPend_eq]
  split_ifs
  · exact (barSet_fields hw (by omega)).putUnder (by omega)
  · exact barSet_fields hw (by omega)

/-! ### The answer to the waiting VLC (R175, R298) -/

theorem answer_same {s u : State} {n reg : Nat} (hreg : reg < 32) (hu : getVlc u n = getVlc s n) (w : Word) :
    WritesX (getVlc s n) (getVlc (answer n reg w u) n) reg w ∧ (getVlc (answer n reg w u) n).wait = .none ∧ (getVlc (answer n reg w u) n).pc = (getVlc s n).pc + 4 := by
  rw [answer, getVlc_updVlc_same, hu]
  exact ⟨wx_writes _ w hreg, rfl, rfl⟩

theorem getVlc_answer_other {n m reg : Nat} (h : m ≠ n) (w : Word) (u : State) : getVlc (answer n reg w u) m = getVlc u m := getVlc_updVlc_other _ _ h

/-! ### Init and debit (R108) -/

section
variable {s : State} {n pa : Nat} {a : Access} (hfind : findAcc s n = some a) (htgt : a.tgt = .loc pa) (hmay : mayPerform s a = true)
include hfind htgt hmay

theorem homeBarInit_performs (hk : a.kind = .barInit) : exec (.homeBarInit n) s = .next (barrierAt a pa s) := by
  rw [show exec (.homeBarInit n) s = execHomeBarInit n s from rfl]
  simp only [execHomeBarInit, hfind, hk, htgt, hmay, if_true]

theorem homeDebit_performs (hk : a.kind = .barArrive) : exec (.homeDebit n) s = .next (barrierAt a pa s) := by
  rw [show exec (.homeDebit n) s = execHomeDebit n s from rfl]
  simp only [execHomeDebit, hfind, hk, htgt, hmay, if_true]

end

theorem barrierAt_answers {s : State} {pa : Nat} {a : Access} (hlive : a.dead = false) (hu : ueIn s pa 8 = false) :
    barrierAt a pa s = answer a.vlc a.reg (wN (mread s.mem pa 8)) (writeMem pa 8 (barNew a (mread s.mem pa 8)) (correctIn pa 8 (noteDone a s))) := by
  have hp := noteDone_performed a s
  have hmem : (correctIn pa 8 (noteDone a s)).mem = s.mem := (correctIn_quiet ..).1.trans hp.mem
  simp only [barrierAt, hp.ueIn_eq, hu, hlive, hmem, Bool.false_eq_true, if_false]

/-- A barrier operation makes this word, and answers with the word before it (R108, R298). -/
theorem barrierAt_spec {s : State} {pa pend under : Nat} {a : Access} (hlive : a.dead = false) (hu : ueIn s pa 8 = false) (hreg : a.reg < 32)
    (hnew : BarFields (mread s.mem pa 8) (barNew a (mread s.mem pa 8)) pend under) :
    let t := barrierAt a pa s
    BarFields (mread s.mem pa 8) (mread t.mem pa 8) pend under ∧ BytesKept s t pa 8 ∧ WritesX (getVlc s a.vlc) (getVlc t a.vlc) a.reg (BitVec.ofNat 64 (mread s.mem pa 8)) ∧
      (getVlc t a.vlc).wait = .none ∧ (getVlc t a.vlc).pc = (getVlc s a.vlc).pc + 4 ∧ ∀ m, m ≠ a.vlc → getVlc t m = getVlc s m := by
  have hp := noteDone_performed a s
  have hold : mread s.mem pa 8 < 2 ^ 64 := mread_lt ..
  have hd := (correctIn_mends pa 8 (noteDone a s)).toDieOnly.trans (writeMem_dieOnly pa 8 (barNew a (mread s.mem pa 8)) _)
  have hbefore (m : Nat) := (hd.getVlc_eq m).trans (hp.getVlc_eq m)
  have hmem : (writeMem pa 8 (barNew a (mread s.mem pa 8)) (correctIn pa 8 (noteDone a s))).mem = mwrite s.mem pa 8 (barNew a (mread s.mem pa 8)) := by
    rw [(writeMem_mem ..).1, (correctIn_quiet ..).1, hp.mem]
  rw [barrierAt_answers hlive hu]
  refine ⟨?_, fun b hb => ?_, ?_⟩
  · rw [answer, updVlc_mem, hmem, mread_mwrite, Nat.mod_eq_of_lt (show barNew a (mread s.mem pa 8) < 256 ^ 8 from hnew.lt hold)]
    exact hnew
  · rw [answer, updVlc_mem, hmem]
    exact mget_mwrite_out _ _ hb
  · obtain ⟨hw, hwait, hpc⟩ := answer_same hreg (hbefore a.vlc) (wN (mread s.mem pa 8))
    exact ⟨hw, hwait, hpc, fun m hm => (getVlc_answer_other hm ..).trans (hbefore m)⟩

/-! ### Waits (R109, R192) -/

/-- The event bit of one VLC that occupies its place is set, but for that of `n` (R192). -/
def wakeOne (n j : Nat) (s : State) : State :=
  if coreOf n * 4 + j = n ∨ (getVlc s (coreOf n * 4 + j)).status = .free then s else updVlc (coreOf n * 4 + j) (fun v => { v with event := true }) s

theorem wakeCore_eq (n : Nat) (s : State) : wakeCore n s = (upto 4).foldl (fun s j => wakeOne n j s) s := rfl

/-- What waking a core keeps: VLC `n` and every byte, the status of each context, and event bits that are set (R192). -/
structure Woken (n : Nat) (s t : State) : Prop where
  mem : t.mem = s.mem
  self : getVlc t n = getVlc s n
  status : ∀ m, (getVlc t m).status = (getVlc s m).status
  event : ∀ m, (getVlc s m).event = true → (getVlc t m).event = true

theorem wakeOne_woken (n j : Nat) (s : State) : Woken n s (wakeOne n j s) := by
  unfold wakeOne
  split_ifs with h
  · exact ⟨rfl, rfl, fun _ => rfl, fun _ h => h⟩
  · have hne : n ≠ coreOf n * 4 + j := fun e => h (.inl e.symm)
    refine ⟨rfl, getVlc_updVlc_other _ _ hne, fun m => ?_, fun m hm => ?_⟩ <;> by_cases hj : m = coreOf n * 4 + j
    · rw [hj, getVlc_updVlc_same]
    · rw [getVlc_updVlc_other _ _ hj]
    · rw [hj, getVlc_updVlc_same]
    · rw [getVlc_updVlc_other _ _ hj, hm]

theorem wakeAll_woken (n : Nat) : ∀ (l : List Nat) (s : State), Woken n s (l.foldl (fun s j => wakeOne n j s) s)
  | [], _ => ⟨rfl, rfl, fun _ => rfl, fun _ h => h⟩
  | j :: l, s => by
    have h := wakeOne_woken n j s
    have k := wakeAll_woken n l (wakeOne n j s)
    exact ⟨k.mem.trans h.mem, k.self.trans h.self, fun m => (k.status m).trans (h.status m), fun m hm => k.event m (h.event m hm)⟩

theorem wakeAll_event {n j : Nat} (hne : coreOf n * 4 + j ≠ n) : ∀ (l : List Nat) (s : State), j ∈ l → (getVlc s (coreOf n * 4 + j)).status ≠ .free →
    (getVlc (l.foldl (fun s j => wakeOne n j s) s) (coreOf n * 4 + j)).event = true := by
  intro l
  induction l with
  | nil => exact fun _ hj => absurd hj List.not_mem_nil
  | cons k l ih =>
    intro s hj hst
    rcases List.mem_cons.1 hj with rfl | hmem
    · refine (wakeAll_woken n l _).event _ ?_
      dsimp only
      rw [wakeOne, if_neg (not_or.2 ⟨hne, hst⟩), getVlc_updVlc_same]
    · exact ih _ hmem (by rw [(wakeOne_woken n k s).status]; exact hst)

theorem wakeCore_event {n m : Nat} {s : State} (hm : m ≠ n) (hcore : m / 4 = n / 4) (hst : (getVlc s m).status ≠ .free) : (getVlc (wakeCore n s) m).event = true := by
  have hplace : coreOf n * 4 + m % 4 = m := by rw [coreOf]; omega
  have h := wakeAll_event (n := n) (j := m % 4) (by rwa [hplace]) (upto 4) s (List.mem_range.2 (by omega)) (by rwa [hplace])
  rwa [hplace] at h

section
variable {s : State} {n pa : Nat} {a : Access} (hfind : findAcc s n = some a) (htgt : a.tgt = .loc pa) (hk : a.kind = .barWait)
  (hturn : bankTurn s (.acc a.ser) (getVlc s a.vlc).agent [pa] = true) (hu : ueIn s pa 8 = false)

section
include hfind htgt hk hturn

theorem homeWait_looks (hlook : homeLooks s a pa = true) : exec (.homeWait n) s = .next (waitAt a pa s) := by
  rw [show exec (.homeWait n) s = execHomeWait n s from rfl]
  simp only [execHomeWait, hfind, hk, htgt, hturn, hlook, Bool.not_true, Bool.false_eq_true, if_false, if_true]

end

include hu

theorem waitAt_ends (h : mread s.mem pa 8 % 2 ^ 24 = 0 ∨ mread s.mem pa 8 / 2 ^ 32 ≠ a.e0.getD (mread s.mem pa 8 / 2 ^ 32)) :
    waitAt a pa s = wakeCore a.vlc (answer a.vlc a.reg (wN (mread s.mem pa 8)) (dropAcc a.ser (noteServed pa (correctIn pa 8 s)))) := by
  have hw : mread s.mem pa 8 < 2 ^ 64 := mread_lt ..
  simp only [waitAt, hu, barPend_eq, barEpoch_eq hw, if_pos h, Bool.false_eq_true, if_false]

theorem waitAt_samples (hp : mread s.mem pa 8 % 2 ^ 24 ≠ 0) (he : a.e0 = none) :
    waitAt a pa s = (let u := noteServed pa (correctIn pa 8 s)
      { u with net := u.net.map (fun b => if b.ser == a.ser then { b with e0 := some (mread s.mem pa 8 / 2 ^ 32) } else b) }) := by
  have hw : mread s.mem pa 8 < 2 ^ 64 := mread_lt ..
  simp only [waitAt, hu, he, barPend_eq, barEpoch_eq hw, Option.getD_none, hp, ne_eq, not_true_eq_false, or_self, Bool.false_eq_true, if_false]

end

/-- Settles O12: each operation makes its barrier word, and each wait ends or goes on as the word says. -/
theorem barriersPerform : Obligations.BarriersPerform := by
  unfold Obligations.BarriersPerform
  refine ⟨fun s n pa a hfind htgt _ _ hmay hlive hu hreg hdata => ⟨fun hk => ?_, fun hk => ?_⟩, fun s n pa a hfind htgt hk hreg hturn hu => ⟨fun h => ?_, fun hp _ he => ?_⟩⟩
  · exact ⟨_, homeBarInit_performs hfind htgt hmay hk, barrierAt_spec hlive hu hreg (barNew_init (mread_lt ..) hk hdata)⟩
  · exact ⟨_, homeDebit_performs hfind htgt hmay hk, barrierAt_spec hlive hu hreg (barNew_debit (mread_lt ..) hk)⟩
  · have hw : mread s.mem pa 8 < 2 ^ 64 := mread_lt ..
    have hlook : homeLooks s a pa = true := by
      simp only [homeLooks, hu, barPend_eq, barEpoch_eq hw, Bool.false_or]
      cases he : a.e0 with
      | none => rfl
      | some e => rw [he] at h; simpa using h
    have hm := (correctIn_mends pa 8 s).trans (noteServed_mends pa _)
    obtain ⟨hx, hwait, hpc⟩ := answer_same (s := s) (u := dropAcc a.ser (noteServed pa (correctIn pa 8 s))) hreg (hm.getVlc_eq a.vlc) (wN (mread s.mem pa 8))
    have hwoken := wakeAll_woken a.vlc (upto 4) (answer a.vlc a.reg (wN (mread s.mem pa 8)) (dropAcc a.ser (noteServed pa (correctIn pa 8 s))))
    rw [← wakeCore_eq] at hwoken
    rw [homeWait_looks hfind htgt hk hturn hlook, waitAt_ends hu h]
    refine ⟨_, rfl, ?_, ?_, ?_, fun b => ?_, fun m hm' hcore hst => ?_⟩
    · rw [hwoken.self, hwait]
    · rw [hwoken.self, hpc]
    · rw [hwoken.self]; exact hx
    · rw [hwoken.mem, answer, updVlc_mem, dropAcc_mem, noteServed_mem, (correctIn_quiet ..).1]
    · refine wakeCore_event hm' hcore ?_
      rw [getVlc_answer_other hm', getVlc_dropAcc, hm.getVlc_eq]
      exact hst
  · have hlook : homeLooks s a pa = true := by simp [homeLooks, hu, he]
    have hm := (correctIn_mends pa 8 s).trans (noteServed_mends pa _)
    have hmem : (noteServed pa (correctIn pa 8 s)).mem = s.mem := (noteServed_mem ..).trans (correctIn_quiet ..).1
    have ha : a ∈ (noteServed pa (correctIn pa 8 s)).net := by rw [hm.net]; exact List.mem_of_find?_eq_some hfind
    rw [homeWait_looks hfind htgt hk hturn hlook, waitAt_samples hu hp he, he]
    exact ⟨_, _, rfl, List.mem_map.2 ⟨a, ha, if_pos (beq_self_eq_true _)⟩, rfl, rfl, hm.vlcs, hmem⟩

end Sys2Proof.Machine
end

section
/-! SUPPORT. An operation that has performed leaves its engine (R280): its tiles, regions and entry, then its mark (R282, R405). -/
namespace Sys2Proof.Machine

/-! ### What leaving an engine keeps -/

theorem foldl_keeps {α β : Type} {q : State → β} {f : State → α → State} (h : ∀ s x, q (f s x) = q s) (l : List α) (s : State) : q (l.foldl f s) = q s := by
  induction l generalizing s with
  | nil => rfl
  | cons x l ih => exact (ih (f s x)).trans (h s x)

/-- What the tiles and regions of an operation have no part in. -/
def State.besides (s : State) : Tbl Vlc × List Op × State := (s.vlcs, s.ops, { s with tiles := [], toks := [] })

theorem leaveTiles_besides (ts : List Nat) (ret : Bool) (s : State) : (leaveTiles ts ret s).besides = s.besides := by
  have hused : (ts.foldl (fun s t => unuseTile t s) s).besides = s.besides := foldl_keeps (f := fun s t => unuseTile t s) (fun _ _ => rfl) ts s
  unfold leaveTiles
  cases ret with
  | false => exact hused
  | true => exact (foldl_keeps (q := State.besides) (f := fun s t => { s with tiles := tupd {} s.tiles t (fun x => { x with own := false }) }) (fun _ _ => rfl) ts _).trans hused

theorem clearSuspect_besides (o : Op) (s : State) : (clearSuspect o s).besides = s.besides :=
  foldl_keeps (f := fun s k => { s with toks := tset {} s.toks k { tget {} s.toks k with suspect := false } }) (fun _ _ => rfl) (clearsOf s o) s

/-- The state once the operation has left its engine and its mark has still to learn of it. -/
def engineLeft (o : Op) (s : State) : State :=
  let s1 := leaveTiles o.tiles o.ret { s with ops := s.ops.filter (fun p => p.id != o.id) }
  if o.err = 0 && !o.dead then clearSuspect o s1 else s1

theorem engineLeft_besides (o : Op) (s : State) : (engineLeft o s).besides = State.besides { s with ops := s.ops.filter (fun p => p.id != o.id) } := by
  unfold engineLeft
  dsimp only
  split
  · exact (clearSuspect_besides ..).trans (leaveTiles_besides ..)
  · exact leaveTiles_besides ..

theorem getVlc_engineLeft (o : Op) (s : State) (n : Nat) : getVlc (engineLeft o s) n = getVlc s n :=
  congrArg (fun b : Tbl Vlc × List Op × State => tget ({} : Vlc) b.1 n) (engineLeft_besides o s)

theorem mem_engineLeft_ops (o x : Op) (s : State) : x ∈ (engineLeft o s).ops ↔ x ∈ s.ops ∧ x.id ≠ o.id := by
  have h : (engineLeft o s).ops = s.ops.filter (fun p => p.id != o.id) := congrArg (fun b => b.2.1) (engineLeft_besides o s)
  simp [h]

theorem engineLeft_mem (o : Op) (s : State) : (engineLeft o s).mem = s.mem := congrArg (fun b => b.2.2.mem) (engineLeft_besides o s)

/-! ### The mark -/

theorem markDone_count (o : Op) (late : Bool) (m : Mark) : (markDone o late m).count = m.count - 1 := by unfold markDone; split <;> rfl

theorem markDone_prom (o : Op) (late : Bool) (m : Mark) : (markDone o late m).prom = m.prom := by unfold markDone; split <;> rfl

theorem markDone_flg {o : Op} (h : o.dead = false) (late : Bool) (m : Mark) : (markDone o late m).flg = m.flg ||| o.flg := by simp [markDone, h]

/-- A mark without an error takes the operation's, or PROMISE_MISSED for one that is late. -/
theorem markDone_err_first {o : Op} (h : o.dead = false) (late : Bool) {m : Mark} (hm : m.err = 0) :
    (markDone o late m).err = if o.err ≠ 0 then o.err else if late = true then cPROMISE_MISSED else 0 := by simp [markDone, h, hm]

/-- A mark keeps its first error, unless that is PROMISE_MISSED and a FABRIC follows. -/
theorem markDone_err_kept {o : Op} (h : o.dead = false) (late : Bool) {m : Mark} (hm : m.err ≠ 0) :
    (markDone o late m).err = if m.err = cPROMISE_MISSED ∧ o.err = cFABRIC then cFABRIC else m.err := by
  by_cases hf : m.err = cPROMISE_MISSED ∧ o.err = cFABRIC
  · simp [markDone, h, hf, cFABRIC]
  · simp [markDone, h, hm, hf]

/-- A VLC whose mark `k` has learnt of an operation: a mark that becomes quiescent sets the event bit. -/
def marked (o : Op) (late : Bool) (v : Vlc) : Vlc :=
  let v1 := { v with marks := tupd {} v.marks o.mark (markDone o late) }
  if quiet v1 o.mark then { v1 with event := true } else v1

theorem marked_marks (o : Op) (late : Bool) (v : Vlc) : (marked o late v).marks = tupd {} v.marks o.mark (markDone o late) := by
  unfold marked; dsimp only; split <;> rfl

theorem marked_x (o : Op) (late : Bool) (v : Vlc) : (marked o late v).x = v.x := by
  unfold marked; dsimp only; split <;> rfl

theorem marked_wait (o : Op) (late : Bool) (v : Vlc) : (marked o late v).wait = v.wait := by
  unfold marked; dsimp only; split <;> rfl

theorem marked_event (o : Op) (late : Bool) (v : Vlc) (h : (tget {} v.marks o.mark).count = 1) : (marked o late v).event = true := by
  have hq : quiet { v with marks := tupd {} v.marks o.mark (markDone o late) } o.mark = true := by simp [quiet, markDone_count, h]
  unfold marked
  dsimp only
  rw [if_pos hq]

/-- An operation whose issuer still runs on its VLC marks that VLC. -/
theorem finishMark_live {o : Op} {s : State} (late : Bool) (ha : o.agent = (getVlc s o.vlc).agent) (hs : o.seq = (getVlc s o.vlc).seq)
    (hst : (getVlc s o.vlc).status ≠ .free) : finishMark o late s = updVlc o.vlc (marked o late) s := by
  have hm : mineOp s o.vlc o = true := by simp [mineOp, ha, hs]
  unfold finishMark
  dsimp only
  rw [if_pos ⟨hm, hst⟩]
  rfl

/-! ### The operation that completes -/

theorem cancelDone_idle {n : Nat} {s : State} (h : (getVlc s n).wait = .none) : cancelDone n s = s := by simp [cancelDone, h]

theorem noticeEnd_local {o : Op} (h : o.kind ≠ .cpyr) (bad : Bool) (s : State) : noticeEnd o bad s = s := by simp [noticeEnd, h]

/-- Whether an operation that has completed is later than its promise. -/
def lateOp (s : State) (o : Op) : Bool := s.cyc > o.prom && o.err == 0 && !o.dead

/-- The notice of a late operation in the event log. -/
def noteLate (o : Op) (late : Bool) (s : State) : State :=
  if late then elog 8 cPROMISE_MISSED (stackOf o.vlc) (vaultOf o.vlc % 16) o.agent o.va o.mark s else s

theorem noteLate_ops (o : Op) (late : Bool) (s : State) : (noteLate o late s).ops = s.ops := by unfold noteLate; split <;> rfl

theorem noteLate_mem (o : Op) (late : Bool) (s : State) : (noteLate o late s).mem = s.mem := by unfold noteLate; split <;> rfl

theorem getVlc_noteLate (o : Op) (late : Bool) (s : State) (n : Nat) : getVlc (noteLate o late s) n = getVlc s n := by
  unfold noteLate; split <;> rfl

/-- A completion within this module: the engine is left, the mark of its own VLC learns of it, and a late one is logged. -/
theorem operationComplete_local {s : State} {o : Op} (hget : getOp s o.id = some o) (hfin : opFinished o = true) (hk : o.kind ≠ .cpyr)
    (ha : o.agent = (getVlc s o.vlc).agent) (hs : o.seq = (getVlc s o.vlc).seq)
    (hst : (getVlc s o.vlc).status ≠ .free) (hw : (getVlc s o.vlc).wait = .none) :
    execOperationComplete o.id s = .next (noteLate o (lateOp s o) (updVlc o.vlc (marked o (lateOp s o)) (engineLeft o s))) := by
  have hlive : finishMark o (lateOp s o) (engineLeft o s) = updVlc o.vlc (marked o (lateOp s o)) (engineLeft o s) :=
    finishMark_live _ (by rw [getVlc_engineLeft]; exact ha) (by rw [getVlc_engineLeft]; exact hs) (by rw [getVlc_engineLeft]; exact hst)
  have hwait : (getVlc (noteLate o (lateOp s o) (updVlc o.vlc (marked o (lateOp s o)) (engineLeft o s))) o.vlc).wait = .none := by
    rw [getVlc_noteLate, getVlc_updVlc_same, marked_wait, getVlc_engineLeft]; exact hw
  have hleft : noticeEnd o (o.dead || o.err != 0) { s with ops := s.ops.filter (fun p => p.id != o.id) } = { s with ops := s.ops.filter (fun p => p.id != o.id) } :=
    noticeEnd_local hk _ _
  have hnot : ¬(!opFinished o || (o.kind == .cpyr && (readDesc o.desc).route == 1 && o.reply.isNone && !(o.stopped && o.sentN == 0))) = true := by simp [hfin, hk]
  unfold execOperationComplete
  rw [hget]
  dsimp only
  rw [if_neg hnot, hleft, ← cancelDone_idle hwait, ← hlive]
  rfl

/-- Settles O23: the operation leaves its engine, and its mark's new fields are those of `markDone`. -/
theorem operationsComplete : Obligations.OperationsComplete := by
  unfold Obligations.OperationsComplete
  intro s o hget hfin hk hd ha hs hst hw m late
  have hlate : (lateOp s o = true) = (o.prom < s.cyc ∧ o.err = 0) := by simp [lateOp, hd]
  have hv : ∀ n, getVlc (noteLate o (lateOp s o) (updVlc o.vlc (marked o (lateOp s o)) (engineLeft o s))) n =
      if n = o.vlc then marked o (lateOp s o) (getVlc s o.vlc) else getVlc s n := by
    intro n
    rw [getVlc_noteLate]
    split
    case isTrue h => rw [h, getVlc_updVlc_same, getVlc_engineLeft]
    case isFalse h => rw [getVlc_updVlc_other _ _ h, getVlc_engineLeft]
  have hsame := hv o.vlc
  rw [if_pos rfl] at hsame
  refine ⟨_, operationComplete_local hget hfin hk ha hs hst hw, fun x => ?_, ?_, fun k hne => ?_, ?_, fun n hne => ?_, ?_⟩
  · rw [noteLate_ops]
    exact mem_engineLeft_ops o x s
  · simp only [hsame, marked_marks, tget_tupd_same]
    refine ⟨markDone_count .., markDone_prom .., markDone_flg hd .., fun h => ?_, fun h => ?_, marked_event o _ _⟩
    · rw [markDone_err_first hd _ h]
      simp only [hlate]
      rfl
    · exact markDone_err_kept hd _ h
  · rw [hsame, marked_marks, tget_tupd_other _ _ _ hne]
  · rw [hsame, marked_x]
  · rw [hv n, if_neg hne]
  · rw [noteLate_mem]
    exact engineLeft_mem o s

end Sys2Proof.Machine
end

section
/-! SUPPORT. `merge` and the serial number of a SUSPECT mark (R95, R402): the entry that stays keeps the later of the two. -/
namespace Sys2Proof.Machine

/-- A context whose registers x1 and x2 name the entries 0 and 1, two regions that it owns and that lie side by side; SUSPECT was last set in the second one. -/
def suspectBeside : State :=
  { State.reset with
    cur := 0, vlcs := [(0, { status := .running, x := [(1, 0), (2, 1)] })],
    toks := [(0, { kind := 1, base := 0, pages := 1 }), (1, { kind := 1, base := 1, pages := 1, since := 1 })] }

/-- `merge` of the two regions by reference. -/
def mergeBeside : TKop := { d := 0, a := 1, b := 2, x := true, fa := false, fb := false }

theorem mergeBeside_can : CanIssue suspectBeside [mergeBeside.a.toNat, mergeBeside.b.toNat] mergeBeside.d.toNat := by unfold CanIssue; decide +kernel

/-- The `since` of an entry in the state that a word leads to. -/
def sinceAfter (r : Result) (k : Nat) : Option Nat := match r with | .next t => some (tokAt t k).since | _ => none

theorem mergeBeside_since : sinceAfter (exec (.merge mergeBeside) suspectBeside) 0 = some 1 := by decide +kernel

/-- Refutes O25: a `merge` keeps the later of the two serial numbers at which SUSPECT was set, and the statement lets the entry keep its own. -/
theorem not_tokensChange : ¬ Obligations.TokensChange := by
  unfold Obligations.TokensChange
  intro h
  obtain ⟨-, -, hmerge, -⟩ := h suspectBeside suspectBeside
  obtain ⟨t, hexec, -, ⟨hentry, -, -⟩, -, -⟩ := hmerge mergeBeside 0 1 suspectBeside mergeBeside_can rfl (by decide +kernel) rfl (by decide +kernel) rfl rfl rfl rfl rfl
    rfl rfl (by decide)
  have hkept : (tokAt t 0).since = 0 := congrArg Tok.since hentry
  have hlater := mergeBeside_since
  rw [hexec] at hlater
  have hone : (tokAt t 0).since = 1 := Option.some.inj hlater
  omega

end Sys2Proof.Machine
end

section
/-! SUPPORT. The token group at issue, the end of a drain and of a table operation (R89, R95 to R97, R299, R323). -/
namespace Sys2Proof.Machine

/-! ### Naming (R299, R368) -/

theorem walked_mends (va : Nat) (s : State) : Mends s (walked va s) := takeWalk_mends ..

theorem tokAt_congr {s u : State} (h : u.toks = s.toks) (k : Nat) : tokAt u k = tokAt s k := congrArg (fun t => tget ({} : Tok) t k) h

theorem freeTok_congr {s u : State} (h : u.toks = s.toks) (k : Nat) : freeTok u k = freeTok s k := by rw [freeTok, h, freeTok]

section
variable {x : Nat} {byRef : Bool} {s u : State} (h : NameTo x byRef s u)
include h

/-- A name that waits for no bank has been looked up, and a walk changes nothing but what it notes (R14, R75). -/
theorem NameTo.runs (k : State → State) : withName x byRef k s = k u := by
  unfold withName
  cases byRef with
  | true => rw [if_pos rfl, (h : u = s)]
  | false =>
    obtain ⟨hw, rfl⟩ := (h : WalkTo x s u)
    simp only [Bool.false_eq_true, if_false, withWalk, hw]

theorem NameTo.dieOnly : DieOnly s u := by
  cases byRef with
  | true => exact (h : u = s) ▸ DieOnly.refl s
  | false =>
    obtain ⟨-, rfl⟩ := (h : WalkTo x s u)
    exact (walked_mends x s).toDieOnly

end

/-! ### A word of the group whose requirements hold (R368) -/

theorem firstReq_holds {l : List (Bool × Nat)} (h : ∀ p ∈ l, p.1 = false) : firstReq l = none := by
  have hnone : l.find? (fun p => p.1) = none := List.find?_eq_none.2 (fun p hp => by simp [h p hp])
  rw [firstReq, firstFail, hnone, Option.map_none]

theorem tokForm_runs {o : TKAop} {s u : State} {key : Nat} (req : State → Nat → Tok → List (Bool × Nat)) (k : Nat → State → State)
    (hc : CanIssue s [o.a.toNat] o.d.toNat) (hn : NameTo (s.me.rx o.a.toNat).toNat o.x s u) (hkey : nameRegion u (s.me.rx o.a.toNat).toNat o.x 1 = .ok key)
    (hreq : ∀ p ∈ req u key (tokAt u key), p.1 = false) : tokForm o req k s = k key u := by
  unfold tokForm
  rw [issue_can (srcs := [(o.a.toNat, o.fa)]) _ hc rfl]
  dsimp only
  rw [hn.runs]
  simp only [hkey, firstReq_holds hreq]

theorem tokForm2_runs {o : TKop} {s u : State} {key : Nat} (req : State → Nat → Tok → Nat → List (Bool × Nat)) (k : Nat → Nat → State → State)
    (hc : CanIssue s [o.a.toNat, o.b.toNat] o.d.toNat) (hn : NameTo (s.me.rx o.a.toNat).toNat o.x s u)
    (hkey : nameRegion u (s.me.rx o.a.toNat).toNat o.x 1 = .ok key) (hreq : ∀ p ∈ req u key (tokAt u key) (s.me.rx o.b.toNat).toNat, p.1 = false) :
    tokForm2 o req k s = k key (s.me.rx o.b.toNat).toNat u := by
  unfold tokForm2
  rw [issue_can (srcs := [(o.a.toNat, o.fa), (o.b.toNat, o.fb)]) _ hc rfl]
  dsimp only
  rw [hn.runs]
  simp only [hkey, firstReq_holds hreq]

/-- Outside a strip nothing is flushed. -/
theorem flushFirst_outside (k : State → State) {s : State} (h : s.me.sopen = false) : flushFirst k s = k s := by simp [flushFirst, h]

theorem noteIrrev_me (s : State) : (noteIrrev s.cur s).me = { s.me with irrev := s.me.irrev || s.me.sopen } := by
  rw [State.me, noteIrrev, updVlc_cur, getVlc_updVlc_same]
  show (if s.me.sopen = true then _ else _) = _
  cases h : s.me.sopen with
  | true => rw [if_pos rfl, Bool.or_true]; rfl
  | false => rw [if_neg Bool.false_ne_true, Bool.or_false]; rfl

theorem waitToken_me (op key arg reg val : Nat) (drained : Bool) (s : State) :
    (waitToken op key arg reg val drained s).me = { s.me with wait := .token op key arg drained reg val, irrev := s.me.irrev || s.me.sopen } := by
  have h := noteIrrev_me (updMe (fun v => { v with wait := .token op key arg drained reg val }) s)
  rw [updMe_cur, me_updMe] at h
  exact h

theorem waitToken_rest (op key arg reg val : Nat) (drained : Bool) (s : State) : { waitToken op key arg reg val drained s with vlcs := s.vlcs } = s := by
  simp only [waitToken, noteIrrev, updMe, updVlc]

theorem getVlc_waitToken_other (op key arg reg val : Nat) (drained : Bool) (s : State) {m : Nat} (hm : m ≠ s.cur) :
    getVlc (waitToken op key arg reg val drained s) m = getVlc s m :=
  (getVlc_updVlc_other _ _ hm).trans (getVlc_updMe_other _ _ hm)

/-- A word that waits for the table, after the walk of its name. -/
theorem waitsToken_of {i : Instr} {s u : State} {op key arg reg val : Nat} {drained : Bool} {P : State → Prop} (hu : DieOnly s u)
    (hi : exec i s = .next (waitToken op key arg reg val drained u)) (hP : P (waitToken op key arg reg val drained u)) :
    WaitsToken i s u op key arg reg val drained P := by
  refine ⟨_, hi, ?_, hP, ?_, fun m hm => ?_⟩
  · rw [waitToken_me, hu.me_eq]
  · exact congrArg (fun t : State => { t with toks := u.toks }) (waitToken_rest op key arg reg val drained u)
  · rw [getVlc_waitToken_other _ _ _ _ _ _ _ (by rw [hu.cur]; exact hm), hu.getVlc_eq]

theorem lendTo_eq {s u : State} (hu : DieOnly s u) (v : Vlc) (stack b : Nat) : lendTo u v stack b = lendTo s v stack b := by
  rw [lendTo, launchContext, hu.launches, lendTo, launchContext]

/-! ### lend, ret and rshare outside a strip (R95, R96) -/

section
variable {s u : State} {key : Nat} (hsopen : s.me.sopen = false)
include hsopen

section
variable {o : TKop} (hc : CanIssue s [o.a.toNat, o.b.toNat] o.d.toNat) (hn : NameTo (s.me.rx o.a.toNat).toNat o.x s u)
  (hkey : nameRegion u (s.me.rx o.a.toNat).toNat o.x 1 = .ok key) (hb : (s.me.rx o.b.toNat).toNat < 4294967296)
  (hrec : badRecipient (s.me.rx o.b.toNat).toNat = false) (howner : (tokAt s key).owner = s.me.agent)
include hc hn hkey hb hrec howner

theorem lend_waits (hto : lendTo s s.me (key / 65536) (s.me.rx o.b.toNat).toNat = true) (hshares : (tokAt s key).shares = 0) (hlender : (tokAt s key).lender = 0) :
    WaitsToken (.lend o) s u 1 key (s.me.rx o.b.toNat).toNat o.d.toNat key false (fun w => w.toks = s.toks) := by
  have hu := hn.dieOnly
  refine waitsToken_of hu (congrArg Host.Outcome.next ((tokForm2_runs _ _ hc hn hkey ?_).trans (flushFirst_outside _ (by rw [hu.me_eq]; exact hsopen)))) hu.toks
  rw [tokAt_congr hu.toks, hu.me_eq, lendTo_eq hu, hto]
  simp [howner, hshares, hlender, hrec, hb]

theorem rshare_waits (hshares : (tokAt s key).shares < 65535) (hfree : (freeTok s (key / 65536)).isSome = true) :
    WaitsToken (.rshare o) s u 5 key (s.me.rx o.b.toNat).toNat o.d.toNat 0 false (fun w => w.toks = s.toks) := by
  have hu := hn.dieOnly
  refine waitsToken_of hu (congrArg Host.Outcome.next ((tokForm2_runs _ _ hc hn hkey ?_).trans (flushFirst_outside _ (by rw [hu.me_eq]; exact hsopen)))) hu.toks
  rw [tokAt_congr hu.toks, hu.me_eq, freeTok_congr hu.toks]
  simp [howner, hshares, hrec, hb, hfree]

end

theorem ret_waits {o : TKAop} (hc : CanIssue s [o.a.toNat] o.d.toNat) (hn : NameTo (s.me.rx o.a.toNat).toNat o.x s u)
    (hkey : nameRegion u (s.me.rx o.a.toNat).toNat o.x 1 = .ok key) (howner : (tokAt s key).owner = s.me.agent) (hshares : (tokAt s key).shares = 0) :
    WaitsToken (.ret o) s u 2 key 0 o.d.toNat key false (fun w => w.toks = s.toks) := by
  have hu := hn.dieOnly
  refine waitsToken_of hu (congrArg Host.Outcome.next ((tokForm_runs _ _ hc hn hkey ?_).trans (flushFirst_outside _ (by rw [hu.me_eq]; exact hsopen)))) hu.toks
  rw [tokAt_congr hu.toks, hu.me_eq]
  simp [howner, hshares]

end

/-! ### The end of a drain (R96) -/

theorem dropEarlies_rest (s : State) : { dropEarlies s with vlcs := s.vlcs } = s := by unfold dropEarlies; split <;> rfl

/-- No context keeps a load that performed early. -/
theorem getVlc_dropEarlies (s : State) (m : Nat) : getVlc (dropEarlies s) m = { getVlc s m with early := [] } := by
  unfold dropEarlies
  split
  case isTrue => exact tget_map (d := ({} : Vlc)) (f := fun v => { v with early := [] }) rfl m s.vlcs
  case isFalse h =>
    have hnone : ∀ t : Tbl Vlc, (∀ p ∈ t, p.2.early = []) → (tget {} t m).early = [] := by
      intro t
      induction t with
      | nil => exact fun _ => rfl
      | cons p t ih =>
        intro hall
        rw [tget]
        split
        · exact hall p List.mem_cons_self
        · exact ih (fun q hq => hall q (List.mem_cons_of_mem _ hq))
    have hearly : (getVlc s m).early = [] := by
      refine hnone s.vlcs (fun p hp => ?_)
      by_contra he
      exact h (List.any_eq_true.2 ⟨p, hp, by simpa using he⟩)
    rw [← hearly]

/-- The drain of the token instruction of VLC `n` has ended: the table changes by `drainedChange`, and the VLC waits for the end of its table operation (R96, R97). -/
theorem drainEnd_changes {s s1 : State} {n op key arg reg val res : Nat} (hn : n < 1536) (hw : (getVlc s n).wait = .token op key arg false reg val)
    (hover : drainOver s n key (op == 2 && agentType (tokAt s key).owner == 4) = true) (hch : drainedChange n op key arg s = some (s1, res))
    (hs1 : { s1 with toks := s.toks } = s) {P : State → Prop}
    (hP : ∀ t : State, t.toks = s1.toks → P t) :
    ∃ u, exec (.drainEnd n) s = .next u ∧ getVlc u n = { getVlc s n with wait := .token op key arg true reg res, early := [] } ∧ P u ∧
      { u with vlcs := s.vlcs, toks := s.toks } = s ∧ ∀ m, m ≠ n → getVlc u m = { getVlc s m with early := [] } := by
  have hrun : exec (.drainEnd n) s = .next (updVlc n (fun v => { v with wait := .token op key arg true reg res }) (dropEarlies s1)) := by
    rw [show exec (.drainEnd n) s = execDrainEnd n s from rfl, execDrainEnd, if_neg (show ¬ n ≥ viDrain from Nat.not_le.2 hn), hw]
    simp only [hover, hch, Bool.not_true, Bool.false_eq_true, if_false]
  have hv : s1.vlcs = s.vlcs := by have e := congrArg State.vlcs hs1; exact e
  have hget : ∀ m, getVlc s1 m = getVlc s m := fun m => by rw [getVlc, hv, getVlc]
  refine ⟨_, hrun, ?_, hP _ ?_, ?_, fun m hm => ?_⟩
  · rw [getVlc_updVlc_same, getVlc_dropEarlies, hget]
  · have e := congrArg State.toks (dropEarlies_rest s1)
    exact e
  · have h := congrArg (fun t : State => { t with vlcs := s.vlcs, toks := s.toks }) (dropEarlies_rest s1)
    refine h.trans ?_
    rw [← hv]
    exact hs1
  · rw [getVlc_updVlc_other _ _ hm, getVlc_dropEarlies, hget]

theorem onlyToks_of_put {s t : State} {k : Nat} {e : Tok} (h : t.toks = (putTok k e s).toks) : tokAt t k = e ∧ OnlyToks s t [k] := by
  refine ⟨?_, fun j hj => ?_⟩
  · rw [tokAt_congr h, tokAt_putTok, if_pos rfl]
  · rw [tokAt_congr h, tokAt_putTok, if_neg (by simpa using hj)]

theorem onlyToks_of_put_put {s t : State} {k f : Nat} {e g : Tok} (hne : f ≠ k) (h : t.toks = (putTok f g (putTok k e s)).toks) :
    tokAt t f = g ∧ tokAt t k = e ∧ OnlyToks s t [k, f] := by
  refine ⟨?_, ?_, fun j hj => ?_⟩
  · rw [tokAt_congr h, tokAt_putTok, if_pos rfl]
  · rw [tokAt_congr h, tokAt_putTok, if_neg hne.symm, tokAt_putTok, if_pos rfl]
  · obtain ⟨hjk, hjf⟩ : j ≠ k ∧ j ≠ f := by simpa using hj
    rw [tokAt_congr h, tokAt_putTok, if_neg hjf, tokAt_putTok, if_neg hjk]

/-! ### The end of a table operation (R97, R323) -/

theorem tokenOpComplete_answers {s : State} {n op key arg reg val : Nat} (hn : n < 1536) (hreg : reg < 32) (hw : (getVlc s n).wait = .token op key arg true reg val) :
    ∃ t, exec (.tokenOpComplete n) s = .next t ∧ Answered (getVlc s n) (getVlc t n) reg (BitVec.ofNat 64 val) ∧ { t with vlcs := s.vlcs } = s ∧
      ∀ m, m ≠ n → getVlc t m = getVlc s m := by
  refine ⟨answer n reg (wN val) s, ?_, ⟨(answer_same hreg rfl _).1, ?_⟩, rfl, fun m hm => getVlc_answer_other hm _ s⟩
  · rw [show exec (.tokenOpComplete n) s = execTokenOpComplete n s from rfl, execTokenOpComplete, if_neg (show ¬ n ≥ viDrain from Nat.not_le.2 hn), hw]
  · rw [answer, getVlc_updVlc_same, wx_eq]

theorem tokenOpComplete_tkres {s : State} {vi : Nat} (hres : (getVi s vi).tkres = 1) (hd : (getVi s vi).tkDrained = true) :
    ∃ t, exec (.tokenOpComplete (1536 + vi)) s = .next t ∧ getVi t vi = { getVi s vi with tkres := 2, tkDrained := false } ∧ { t with vis := s.vis } = s := by
  refine ⟨updVi vi (fun x => if x.tkres = 1 ∧ x.tkDrained = true then { x with tkres := 2, tkDrained := false } else x) s, ?_, ?_, rfl⟩
  · rw [show exec (.tokenOpComplete (1536 + vi)) s = execTokenOpComplete (1536 + vi) s from rfl, execTokenOpComplete,
      if_pos (show 1536 + vi ≥ viDrain from Nat.le_add_right ..), show 1536 + vi - viDrain = vi from Nat.add_sub_cancel_left ..]
  · rw [getVi_updVi_same, if_pos ⟨hres, hd⟩]

/-- `tq` without an image waits with the entry that it names, or all ones. -/
theorem tq_waits {s u : State} {o : TKop} {e : Option Nat} (hc : CanIssue s [o.a.toNat, 0] o.d.toNat) (hb : o.b = 0)
    (hn : NameTo (s.me.rx o.a.toNat).toNat o.x s u) (he : tqEntry u (s.me.rx o.a.toNat).toNat o.x = .ok e) :
    exec (.tq o) s = .next (updMe (fun v => { v with wait := .token 7 0 0 true o.d.toNat (e.getD 18446744073709551615) }) u) := by
  refine congrArg Host.Outcome.next ((issue_can (srcs := [(o.a.toNat, o.fa), (o.b.toNat, o.fb)]) _ (by rw [hb]; exact hc) rfl).trans ?_)
  dsimp only
  rw [hn.runs]
  cases e with
  | none => simp only [he, hb, if_true]; rfl
  | some k => simp only [he, hb, if_true]; rfl

/-- Settles O26. -/
theorem tokensDrain : Obligations.TokensDrain := by
  unfold Obligations.TokensDrain
  refine ⟨fun s u => ⟨fun o key hc hsopen hn hkey => ?_, fun o key hc hsopen hn hkey howner hshares => ret_waits hsopen hc hn hkey howner hshares,
    fun n op key arg reg val hn hw hover => ?_⟩, fun s => ⟨fun n op key arg reg val hn hreg hw => tokenOpComplete_answers hn hreg hw,
    fun vi hres hd => tokenOpComplete_tkres hres hd, fun o e u hc hb hn he => ?_⟩⟩
  · intro t b hb hrec howner
    exact ⟨lend_waits hsopen hc hn hkey hb hrec howner, rshare_waits hsopen hc hn hkey hb hrec howner⟩
  · intro v t Drained
    refine ⟨fun h1 => ?_, fun h2 htype hlender => ?_, fun r h2 htype hlender hroot => ?_, fun f h5 hf hne => ?_⟩
    · subst h1
      exact drainEnd_changes hn hw hover rfl rfl (fun _ => onlyToks_of_put)
    · subst h2
      refine drainEnd_changes hn hw hover (s1 := putTok key { t with owner := t.lender, lender := 0 } s) ?_ rfl (fun _ => onlyToks_of_put)
      simp only [drainedChange]
      rw [if_pos ⟨hlender, htype⟩]
    · subst h2
      refine drainEnd_changes hn hw hover (s1 := putTok key { t with owner := r, lender := 0 } s) ?_ rfl (fun _ => onlyToks_of_put)
      simp only [drainedChange]
      rw [if_neg (fun h => h.1 hlender), if_neg htype, hroot, Option.getD_some]
    · subst h5
      refine drainEnd_changes hn hw hover (s1 := putTok f { kind := 2, parent := key % 65536, base := t.base, pages := t.pages, owner := arg, lender := v.agent }
        (putTok key { t with shares := t.shares + 1 } s)) ?_ rfl (fun _ => onlyToks_of_put_put hne)
      show Option.map _ (freeTok s (key / 65536)) = _
      rw [hf]
      rfl
  · refine ⟨_, tq_waits hc hb hn he, ?_⟩
    have hu := hn.dieOnly
    have h := becomes_updVlc u.cur (fun v => { v with wait := .token 7 0 0 true o.d.toNat (e.getD 18446744073709551615) }) u
    rw [hu.cur, hu.getVlc_eq] at h
    rw [updMe, hu.cur]
    exact h

end Sys2Proof.Machine
end

section
/-! SUPPORT. `bkunlock` in an open strip at a quantum boundary (R264, R274): the flush is served at a bank of a running command, which notes it. -/
namespace Sys2Proof.Machine

/-- Lock 0 of the context, on row 8 of frame 0. -/
def heldLock : Lock := { id := 3, vlc := 0, agent := 16, num := 0, stack := 0, frame := 0, row0 := 8, count := 1, desc := 0, granted := true, until_ := 3300, cmd := 4 }

/-- A context in an open strip with one buffered store to the first row of frame 0. It holds lock 0; a command of another context that runs
in the frame's die region stands at a quantum boundary, at which no bank has served an access yet. -/
def unlockAtBoundary : State :=
  { State.reset with
    cur := 0,
    vlcs := [(0, { status := .running, agent := 16, sopen := true, sbuf := [{ id := 2, tgt := .loc 0, va := 0, size := 8, data := 5, cls := 0 }] })],
    locks := [heldLock],
    cmds := [{ id := 5, vlc := 8, agent := 17, vi := 0, kind := .seal, stage := .running, stack := 0, frames := [0], boundary := true }] }

theorem unlockAtBoundary_can : CanIssue unlockAtBoundary [(0 : XReg).toNat] 0 := by unfold CanIssue; decide +kernel

/-- Nothing but the command's boundary concerns the store: its bank serves it. -/
theorem unlockAtBoundary_mayFlush : mayFlush unlockAtBoundary unlockAtBoundary.cur = true := by decide +kernel

/-- The banks that the commands of a next state have served in the step of their boundary. -/
def servedAfter (r : Result) : List (List Nat) := match r with | .next t => t.cmds.map Cmd.served | _ => []

theorem unlockAtBoundary_serves : servedAfter (exec (.bkunlock 0 false) unlockAtBoundary) = [[0]] := by decide +kernel

/-- Refutes O28: the flush of a `bkunlock` in an open strip may be served at the quantum boundary of a running command, which notes the bank as served, and the
statement says that every command stays as it is. -/
theorem not_locksAndSeals : ¬ Obligations.LocksAndSeals := by
  unfold Obligations.LocksAndSeals
  intro h
  obtain ⟨-, hstrip, -⟩ := h
  obtain ⟨-, -, -, hunlock⟩ := hstrip unlockAtBoundary rfl unlockAtBoundary_mayFlush
  obtain ⟨t, hexec, -, -, -, hcmds, -⟩ := hunlock 0 false heldLock unlockAtBoundary_can (by decide +kernel) rfl (by decide +kernel) (by decide +kernel)
  have hserves := unlockAtBoundary_serves
  rw [hexec] at hserves
  have hkept : servedAfter (.next t) = [[]] := congrArg (fun l => l.map Cmd.served) hcmds
  rw [hkept] at hserves
  exact absurd hserves (by decide)

end Sys2Proof.Machine
end

section
/-! SUPPORT. Gather-atomics, `vstop` and `vbrk` (R106, R204, R209, R234): the checks of every element, the marks on the destination, and the entry for the recheck. -/
namespace Sys2Proof.Machine

/-! ### The checks of every element (R364) -/

/-- Accesses that pass, in the order in which they were checked. -/
theorem checkAll_passes {s : State} {e : VEntry} {w : MemWord} : ∀ {xs : List ElemAcc}, (∀ x ∈ xs, ∃ q, elemCheck s e w x = .ok q) →
    ∃ l, checkAll s e w xs = .ok l ∧ l.map Prod.fst = xs ∧ ∀ p ∈ l, elemCheck s e w p.1 = .ok p.2
  | [], _ => ⟨[], rfl, rfl, nofun⟩
  | x :: xs, h => by
    obtain ⟨q, hq⟩ := h x List.mem_cons_self
    obtain ⟨l, hl, hfst, hall⟩ := checkAll_passes (xs := xs) (fun y hy => h y (List.mem_cons_of_mem _ hy))
    refine ⟨(x, q) :: l, by simp only [checkAll, hq, hl], by rw [List.map_cons, hfst], fun p hp => ?_⟩
    rcases List.mem_cons.1 hp with rfl | hp
    · exact hq
    · exact hall p hp

/-- Elements whose accesses all pass: none fails. -/
theorem scanElems_passes {s : State} {e : VEntry} {w : MemWord} : ∀ {els : List (Nat × List ElemAcc)}, (∀ p ∈ els, ∀ x ∈ p.2, ∃ q, elemCheck s e w x = .ok q) →
    ∃ ok, scanElems s e w els = (ok, none) ∧ (ok.flatMap Prod.snd).map Prod.fst = els.flatMap Prod.snd ∧
      ∀ p ∈ ok.flatMap Prod.snd, elemCheck s e w p.1 = .ok p.2
  | [], _ => ⟨[], rfl, rfl, nofun⟩
  | (i, xs) :: t, h => by
    obtain ⟨l, hl, hfst, hall⟩ := checkAll_passes (h (i, xs) List.mem_cons_self)
    obtain ⟨ok, hok, hfsts, halls⟩ := scanElems_passes (els := t) (fun p hp => h p (List.mem_cons_of_mem _ hp))
    refine ⟨(i, l) :: ok, by simp only [scanElems, hl, hok], ?_, fun p hp => ?_⟩
    · rw [List.flatMap_cons, List.map_append, hfst, hfsts, List.flatMap_cons]
    · rw [List.flatMap_cons] at hp
      rcases List.mem_append.1 hp with hp | hp
      · exact hall p hp
      · exact halls p hp

/-- What an access that has passed needs to perform now, at a byte of this module. -/
structure Goes (s : State) (e : VEntry) (w : MemWord) (at_ : ElemAcc → Nat) (p : Elem) : Prop where
  tgt : p.2.tgt = .loc (at_ p.1)
  dev : p.2.dev = false
  scope : scopeMiss w s.cur p.2.tgt = false
  order : elemHeld s e (wordClass w e) p = false
  banks : elemsWait s e [p] = false

theorem AccessesPass.scan {s : State} {e : VEntry} {w : MemWord} {at_ : ElemAcc → Nat} (h : AccessesPass s e w at_) :
    ∃ ok, scanElems s e w (memElems (vctx s e) w) = (ok, none) ∧ (ok.flatMap Prod.snd).map Prod.fst = (memElems (vctx s e) w).flatMap Prod.snd ∧
      ∀ p ∈ ok.flatMap Prod.snd, Goes s e w at_ p := by
  obtain ⟨ok, hok, hfst, hall⟩ := scanElems_passes (fun p hp x hx => (h p hp x hx).imp fun _ hq => hq.1)
  refine ⟨ok, hok, hfst, fun p hp => ?_⟩
  have hmem : p.1 ∈ (memElems (vctx s e) w).flatMap Prod.snd := hfst ▸ List.mem_map_of_mem hp
  obtain ⟨el, hel, hx⟩ := List.mem_flatMap.1 hmem
  obtain ⟨q, hq, htgt, hdev, hscope, horder, hbanks⟩ := h el hel p.1 hx
  obtain rfl : p.2 = q := Except.ok.inj ((hall p hp).symm.trans hq)
  exact ⟨htgt, hdev, hscope, horder, hbanks⟩

/-! ### Banks (R263, R264) -/

theorem behindOther_flatMap {α : Type} {s : State} {who : Waiter} {f : α → List Nat} {l : List α} (h : ∀ x ∈ l, behindOther s who (f x) = false) :
    behindOther s who (l.flatMap f) = false := by
  refine List.any_eq_false.2 (fun w hw hhit => ?_)
  obtain ⟨hrest, hable⟩ := Bool.and_eq_true_iff.1 hhit
  obtain ⟨hlive, hshare⟩ := Bool.and_eq_true_iff.1 hrest
  obtain ⟨a, ha, hmeet⟩ := List.any_eq_true.1 hshare
  obtain ⟨hdram, hany⟩ := Bool.and_eq_true_iff.1 hmeet
  obtain ⟨b, hb, hsame⟩ := List.any_eq_true.1 hany
  obtain ⟨x, hx, hbx⟩ := List.mem_flatMap.1 hb
  have hone : sharesBank s w.pas (f x) = true :=
    List.any_eq_true.2 ⟨a, ha, Bool.and_eq_true_iff.2 ⟨hdram, List.any_eq_true.2 ⟨b, hbx, hsame⟩⟩⟩
  exact List.any_eq_false.1 (h x hx) w hw (Bool.and_eq_true_iff.2 ⟨Bool.and_eq_true_iff.2 ⟨hlive, hone⟩, hable⟩)

/-- The banks serve a list of accesses when they serve each of it. -/
theorem bankTurn_flatMap {α : Type} {s : State} {who : Waiter} {agent : Nat} {f : α → List Nat} {l : List α} (h : ∀ x ∈ l, bankTurn s who agent (f x) = true) :
    bankTurn s who agent (l.flatMap f) = true := by
  refine Bool.and_eq_true_iff.2 ⟨List.all_eq_true.2 (fun pa hpa => ?_), ?_⟩
  · obtain ⟨x, hx, hpx⟩ := List.mem_flatMap.1 hpa
    exact List.all_eq_true.1 (Bool.and_eq_true_iff.1 (h x hx)).1 pa hpx
  · rw [behindOther_flatMap (fun x hx => by simpa using (Bool.and_eq_true_iff.1 (h x hx)).2)]
    rfl

theorem elemsWait_all {s : State} {e : VEntry} {l : List Elem} (h : ∀ p ∈ l, elemsWait s e [p] = false) : elemsWait s e l = false := by
  have hone : ∀ p ∈ l, walkWaits s p.2.walk = false ∧ bankTurn s (.word e.vlc e.id) (getVlc s e.vlc).agent p.2.tgt.here = true := fun p hp => by
    simpa [elemsWait] using h p hp
  rw [elemsWait, bankTurn_flatMap (fun p hp => (hone p hp).2), List.any_eq_false.2 (fun p hp => by rw [(hone p hp).1]; exact Bool.false_ne_true)]
  rfl

/-! ### Destination elements (R204) -/

/-- Every element of a list of accesses is marked empty. -/
def markAll (vlen r w : Nat) (l : List Elem) (v : Vlc) : Vlc := l.foldl (fun v p => markElem vlen r w p.1.i true v) v

theorem tget_tset_all {k : Nat} : ∀ (l : List Nat) (t : Tbl Bool), tget false (l.foldl (fun t j => tset false t j true) t) k = true ↔ k ∈ l ∨ tget false t k = true
  | [], t => by simp
  | j :: l, t => by
    rw [List.foldl_cons, tget_tset_all l, tget_tset, List.mem_cons]
    by_cases h : k = j
    · simp [h]
    · simp [h]

theorem markAll_vempty (vlen r w : Nat) : ∀ (l : List Elem) (v : Vlc), markAll vlen r w l v = { v with vempty := (markAll vlen r w l v).vempty }
  | [], _ => rfl
  | p :: l, v => markAll_vempty vlen r w l (markElem vlen r w p.1.i true v)

theorem tget_markAll {vlen r w k : Nat} : ∀ (l : List Elem) (v : Vlc),
    tget false (markAll vlen r w l v).vempty k = true ↔ (∃ p ∈ l, k ∈ elemBytes vlen r w p.1.i) ∨ tget false v.vempty k = true
  | [], v => by simp [markAll]
  | p :: l, v => by
    have h := tget_markAll (vlen := vlen) (r := r) (w := w) (k := k) l (markElem vlen r w p.1.i true v)
    rw [markAll, List.foldl_cons, ← markAll, h, markElem, tget_tset_all]
    simp only [List.mem_cons, exists_eq_or_imp]
    exact or_assoc.symm.trans (or_congr_left or_comm)

/-- The elements of a list of accesses are empty once they are marked. -/
theorem markAll_empties {vlen r w : Nat} {l : List Elem} {v : Vlc} {p : Elem} (hp : p ∈ l) (hw : 0 < w / 8) :
    elemEmpty (markAll vlen r w l v) vlen r w p.1.i = true := by
  have hbytes : ∃ k, k ∈ elemBytes vlen r w p.1.i := by
    refine ⟨_, List.mem_map_of_mem (a := 0) ?_⟩
    exact List.mem_range.2 hw
  obtain ⟨k, hk⟩ := hbytes
  exact List.any_eq_true.2 ⟨k, hk, (tget_markAll l v).2 (.inl ⟨p, hp, hk⟩)⟩

/-! ### A gather-atomic whose accesses go (R106, R234) -/

theorem firstEmpty_none {v : Vlc} (h : v.vempty = []) (vlen : Nat) (l : List Nat) (rs : List VRead) : firstEmpty v vlen l rs = none := by
  rw [firstEmpty, h]; rfl

theorem pinAll_dieOnly (l : List Elem) (s : State) : DieOnly s (pinAll l s) := DieOnly.foldl (f := fun t (p : Elem) => notePin p.2 t) (fun t p => notePin_dieOnly p.2 t) l s

theorem pinAll_mem (l : List Elem) (s : State) : (pinAll l s).mem = s.mem := (quiet_foldl (f := fun t (p : Elem) => notePin p.2 t) (fun t p => notePin_quiet p.2 t) l s).1

theorem foldl_keep {α β : Type} {f : β → α → β} {l : List α} (b : β) (h : ∀ x ∈ l, f b x = b) : l.foldl f b = b := by
  induction l with
  | nil => rfl
  | cons x l ih => rw [List.foldl_cons, h x List.mem_cons_self, ih (fun y hy => h y (List.mem_cons_of_mem _ hy))]

section
variable {s : State} {e : VEntry} {w : MemWord} {op : Nat} {at_ : ElemAcc → Nat} {ok : List (Nat × List Elem)}

/-- A word that may execute, in its own context. -/
theorem WordReady.runs {q : Bool} (h : WordReady s e q) (k : VEntry → State → State) : withWord q k s = k e s := by
  obtain ⟨⟨hhead, hvlc, hruns, hbrk, hread, hroom⟩, -⟩ := h
  have hs : ({ s with cur := e.vlc } : State) = s := by rw [hvlc]
  have h := withWord_runs (q := q) k hhead (by rw [hs]; exact hruns) (by rw [hvlc]; exact hroom) (by rw [hvlc]; exact hbrk) hread
  rwa [hs] at h

/-- The entry of a gather-atomic in the recheck queue. -/
def gatherEntry (s : State) (e : VEntry) (w : MemWord) (l : List Elem) : REntry :=
  { reEntry s e 0 with atoms := l.map (atomOf (vctx s e) w (wordClass w e)), smm := some e.smm, fault := none }

theorem runMem_gather (hready : WordReady s e true) (hatomic : w.atomic = some op) (hfirst : w.first = false)
    (hscan : scanElems s e w (memElems (vctx s e) w) = (ok, none)) (hgo : ∀ p ∈ ok.flatMap Prod.snd, Goes s e w at_ p) :
    runMem w s = wordDone (gatherEntry s e w (ok.flatMap Prod.snd)) (unitsOf s e)
      (markAll (vlenOf s s.cur) w.vd (sewBits e.sew) (ok.flatMap Prod.snd)) (pinAll (ok.flatMap Prod.snd) s) := by
  have hvlc : e.vlc = s.cur := hready.1.2.1
  have hvempty : (vctx s e).v.vempty = [] := by rw [vctx, hvlc]; exact hready.2
  have hmiss : ∀ p ∈ ok.flatMap Prod.snd, scopeMiss w e.vlc p.2.tgt = false := fun p hp => by rw [hvlc]; exact (hgo p hp).scope
  have hacts : (ok.flatMap Prod.snd).filter (fun p => !scopeMiss w e.vlc p.2.tgt) = ok.flatMap Prod.snd :=
    List.filter_eq_self.2 (fun p hp => by rw [hmiss p hp]; rfl)
  have hheld : (ok.flatMap Prod.snd).any (elemHeld s e (wordClass w e)) = false :=
    List.any_eq_false.2 (fun p hp => by rw [(hgo p hp).order]; exact Bool.false_ne_true)
  have hbanks : elemsWait s e (ok.flatMap Prod.snd) = false := elemsWait_all (fun p hp => (hgo p hp).banks)
  have hrem : remoteOf s w e.vlc (ok.flatMap Prod.snd) = [] :=
    List.filter_eq_nil_iff.2 (fun p hp => by rw [(hgo p hp).tgt]; exact Bool.false_ne_true)
  have hwant : (w.want == Want.read) = false := by simp [MemWord.want, hatomic]
  have hsmm : ok.foldl (fun m p => if p.2.any (fun x => scopeMiss w e.vlc x.2.tgt) then m ||| 2 ^ p.1 else m) e.smm = e.smm := by
    refine foldl_keep _ (fun p hp => if_neg ?_)
    rw [List.any_eq_false.2 (fun x hx => by rw [hmiss x (List.mem_flatMap.2 ⟨p, hp, hx⟩)]; exact Bool.false_ne_true)]
    exact Bool.false_ne_true
  have hdevs : ∀ v : Vlc, devsIf (ok.flatMap Prod.snd) v = v := fun v => by
    rw [devsIf, List.any_eq_false.2 (fun p hp => by rw [(hgo p hp).dev]; exact Bool.false_ne_true), Bool.and_false]
    rfl
  unfold runMem
  rw [hready.runs]
  simp only [firstEmpty_none hvempty, hscan, hfirst, hacts, hheld, hbanks, hrem, hwant, hsmm, hdevs, unchecked, List.filter_nil, List.isEmpty_nil, Bool.not_true,
    Bool.false_eq_true, if_false, hatomic, Option.isSome_some, Option.isSome_none, if_true, Option.map_none]
  have hcost : unitsOf s e = wordCycles s e (e.vl - firstEl (vctx s e).v e) := by rw [unitsOf, vctx, hvlc, State.me]
  have hmark : markAll (vlenOf s s.cur) w.vd (sewBits e.sew) (ok.flatMap Prod.snd) =
      fun v => (ok.flatMap Prod.snd).foldl (fun v p => markElem (vctx s e).vlen w.vd (vctx s e).sew p.1.i true v) v := by
    rw [vctx, hvlc]
    rfl
  rw [hcost, hmark]
  rfl

end

/-- The state once a gather-atomic with the accesses `l` has executed. -/
def gathered (s : State) (e : VEntry) (w : MemWord) (l : List Elem) : State :=
  wordDone (gatherEntry s e w l) (unitsOf s e) (markAll (vlenOf s s.cur) w.vd (sewBits e.sew) l) (pinAll l s)

section
variable {s : State} {e : VEntry} (hvlc : e.vlc = s.cur) (w : MemWord) (l : List Elem)
include hvlc

theorem gathered_me : (gathered s e w l).me = { markAll (vlenOf s s.cur) w.vd (sewBits e.sew) l s.me with estart := 0, cost := s.me.cost + unitsOf s e } := by
  obtain ⟨hrest, -, -, hme, -, -, -⟩ := wordDone_spec (gatherEntry s e w l) (unitsOf s e) (markAll (vlenOf s s.cur) w.vd (sewBits e.sew) l) (pinAll l s)
  have hcur : (gathered s e w l).cur = s.cur := by have h := congrArg State.cur hrest; exact h.trans (pinAll_dieOnly l s).cur
  have hn : (gatherEntry s e w l).e.vlc = s.cur := hvlc
  rw [hn, (pinAll_dieOnly l s).getVlc_eq] at hme
  rw [State.me, hcur]
  exact hme

theorem gathered_vempty : (gathered s e w l).me.vempty = (markAll (vlenOf s s.cur) w.vd (sewBits e.sew) l s.me).vempty := by rw [gathered_me hvlc]

/-- A gather-atomic that has executed has left the VIQ; of its context its marks alone have changed. -/
theorem gathered_leftQueue : LeftQueue s (gathered s e w l) e (unitsOf s e) { s.me with vempty := (gathered s e w l).me.vempty } := by
  have hu := pinAll_dieOnly l s
  obtain ⟨-, -, hviq, -, hother, -, -⟩ := wordDone_spec (gatherEntry s e w l) (unitsOf s e) (markAll (vlenOf s s.cur) w.vd (sewBits e.sew) l) (pinAll l s)
  have hn : (gatherEntry s e w l).e.vlc = s.cur := hvlc
  have hcore : getCore (pinAll l s) (s.cur / 4) = getCore s (s.cur / 4) := by rw [getCore, hu.cores, getCore]
  rw [hn, coreOf, hcore] at hviq
  refine ⟨?_, fun m hm => ?_, by rw [gathered, wordDone_mem, pinAll_mem], hviq⟩
  · rw [gathered_vempty hvlc, gathered_me hvlc, markAll_vempty]
  · rw [← hu.getVlc_eq]
    exact hother m (by rw [hn]; exact hm)

theorem gathered_rq : ∃ r, (getVault (gathered s e w l) (s.cur / 8)).rq = (getVault s (s.cur / 8)).rq ++ [r] ∧ r.e.id = e.id ∧ r.stores = [] ∧ r.fault = none ∧
    r.smm = some e.smm ∧ r.atoms = l.map (atomOf (vctx s e) w (wordClass w e)) := by
  obtain ⟨-, hrq, -⟩ := wordDone_spec (gatherEntry s e w l) (unitsOf s e) (markAll (vlenOf s s.cur) w.vd (sewBits e.sew) l) (pinAll l s)
  have hn : vaultOf (gatherEntry s e w l).e.vlc = s.cur / 8 := congrArg vaultOf hvlc
  rw [hn, (pinAll_dieOnly l s).rq] at hrq
  exact ⟨_, hrq, rfl, rfl, rfl, rfl, rfl⟩

end

/-- What the atomics of a list of accesses carry. -/
theorem atomOf_fields {s : State} {e : VEntry} {w : MemWord} {op : Nat} {at_ : ElemAcc → Nat} {l : List Elem} (hvlc : e.vlc = s.cur) (hatomic : w.atomic = some op)
    (hgo : ∀ p ∈ l, Goes s e w at_ p) :
    (l.map (atomOf (vctx s e) w (wordClass w e))).map (fun a => (a.op, a.tgt, a.data, a.cmp, a.vdst)) = (l.map Prod.fst).map (fun x =>
      (op, Target.loc (at_ x), elemN (groupN s.me (vlenOf s s.cur) w.vc (grpN e.grp)) (sewBits e.sew) x.i,
        elemN (groupN s.me (vlenOf s s.cur) w.vd (grpN e.grp)) (sewBits e.sew) x.i, some (w.vd, x.i))) := by
  rw [List.map_map, List.map_map]
  refine List.map_congr_left (fun p hp => ?_)
  simp only [Function.comp, atomOf, VCtx.str, vctx, hvlc, hatomic, Option.getD_some, (hgo p hp).tgt, State.me]

theorem vectorAtomics_of {i : Instr} {s : State} {e : VEntry} {w : MemWord} {op vb sc : Nat} {mb : BitVec 3} (hready : WordReady s e true)
    (hrun : exec i s = .next (runMem w s)) (hatomic : w.atomic = some op) (hfirst : w.first = false) (hmode : w.mode = .index vb mb sc) : VectorAtomics i s e w op := by
  intro at_ hpass
  obtain ⟨ok, hscan, hfst, hgo⟩ := hpass.scan
  have hvlc : e.vlc = s.cur := hready.1.2.1
  obtain ⟨r, hrq, hid, hstores, hfault, hsmm, hatoms⟩ := gathered_rq hvlc w (ok.flatMap Prod.snd)
  refine ⟨_, r, hrun.trans (congrArg _ (runMem_gather hready hatomic hfirst hscan hgo)), gathered_leftQueue hvlc w _, hrq, hid, hstores, hfault, hsmm, ?_, fun p hp hw => ?_⟩
  · rw [hatoms, atomOf_fields hvlc hatomic hgo, hfst]
  · have hacc : ∃ x ∈ p.2, x.i = p.1 := by
      obtain ⟨j, -, rfl⟩ := List.mem_map.1 hp
      rw [elemAccs, hmode]
      exact ⟨_, List.mem_singleton_self _, rfl⟩
    obtain ⟨x, hx, hxi⟩ := hacc
    have hmem : x ∈ (ok.flatMap Prod.snd).map Prod.fst := by rw [hfst]; exact List.mem_flatMap.2 ⟨p, hp, hx⟩
    obtain ⟨q, hq, rfl⟩ := List.mem_map.1 hmem
    have hempty := markAll_empties (vlen := vlenOf s s.cur) (r := w.vd) (w := sewBits e.sew) (v := s.me) hq hw
    rw [elemEmpty, ← hxi]
    have hv := gathered_vempty hvlc w (ok.flatMap Prod.snd)
    rw [gathered] at hv
    rw [hv]
    exact hempty

/-! ### vstop and vbrk (R209) -/

theorem getVlc_holdWords (n : Nat) (first : List VEntry) (ord : Nat) (f : FRec) (s : State) : getVlc (holdWords n first ord f s) n = { getVlc s n with
    held := first ++ (viqOf s n).filter (fun e => ord < e.id && !first.any (fun x => x.id == e.id)) ++ (getVlc s n).held,
    vfaults := (getVlc s n).vfaults.filter (fun p => !(ord < p.ord && (getVlc s n).held.any (fun e => e.id == p.ord))) ++ [⟨f, ord⟩] } := by
  rw [holdWords, getVlc_updVlc_same, getVlc_updCore]

/-- The words of VLC `n` once the word `id` has been taken out of the VIQ of its core. -/
theorem viqOf_without (n id : Nat) (s : State) :
    viqOf (updCore (coreOf n) (fun c => { c with viq := c.viq.filter (fun x => x.id != id) }) s) n = (viqOf s n).filter (fun x => x.id != id) := by
  rw [viqOf, viqOf, getCore_updCore_same, List.filter_filter, List.filter_filter]
  exact List.filter_congr (fun x _ => Bool.and_comm _ _)

/-- The fault of a `vbrk`. -/
def breakRec (s : State) (e : VEntry) (code : BitVec 11) : FRec :=
  { code := cBREAK, aux := code.toNat, cls := 1, vec := true, slot := e.slot, origin := e.blk,
    vqpos := (getCore s (coreOf e.vlc)).viq.findIdx (fun x => x.id == e.id) }

/-- The state after a `vbrk`, with the younger words of its VLC held. -/
def broken (s : State) (e : VEntry) (code : BitVec 11) : State :=
  updVlc e.vlc (fun v => { v with refetch := some (e.blk, e.slot) }) (holdWords e.vlc [] e.id (breakRec s e code)
    (updCore (coreOf e.vlc) (fun c => { c with viq := c.viq.filter (fun x => x.id != e.id) }) s))

theorem broken_me {s : State} {e : VEntry} (hvlc : e.vlc = s.cur) (code : BitVec 11) : (broken s e code).me = { s.me with
    refetch := some (e.blk, e.slot), held := (viqOf s s.cur).filter (fun x => e.id < x.id && x.id != e.id) ++ s.me.held,
    vfaults := s.me.vfaults.filter (fun p => !(e.id < p.ord && s.me.held.any (fun x => x.id == p.ord))) ++ [⟨breakRec s e code, e.id⟩] } := by
  have hcur : (broken s e code).cur = e.vlc := by rw [broken, updVlc_cur, holdWords, updVlc_cur, updCore_cur, updCore_cur, hvlc]
  rw [State.me, hcur, broken, getVlc_updVlc_same, getVlc_holdWords, getVlc_updCore, viqOf_without, List.nil_append, List.filter_filter, hvlc, State.me]
  simp only [List.any_nil, Bool.not_false, Bool.and_true]

theorem vbrk_faults {s : State} {e : VEntry} (hready : WordReady s e false) (code : BitVec 11) :
    ∃ t p, exec (.vbrk code) s = .next t ∧ p ∈ t.me.vfaults ∧ p.fr.code = 18 ∧ p.fr.aux = code.toNat ∧ p.fr.cls = 1 ∧ p.fr.origin = e.blk ∧
      p.fr.slot = e.slot ∧ p.ord = e.id ∧ t.me.held = (viqOf s s.cur).filter (fun x => e.id < x.id && x.id != e.id) ++ s.me.held ∧
      t.me.refetch = some (e.blk, e.slot) ∧ t.me.v = s.me.v ∧ t.mem = s.mem := by
  have hme := broken_me hready.1.2.1 code
  have hrun : exec (.vbrk code) s = .next (broken s e code) := congrArg Host.Outcome.next (hready.runs _)
  refine ⟨broken s e code, ⟨breakRec s e code, e.id⟩, hrun, ?_, rfl, rfl, rfl, rfl, rfl, rfl, ?_, ?_, ?_,
    by rw [broken, updVlc_mem, holdWords, updVlc_mem, updCore_mem, updCore_mem]⟩
  all_goals rw [hme]
  exact List.mem_append_right _ (List.mem_singleton_self _)

/-- Settles O42. -/
theorem gatherAtomics : Obligations.GatherAtomics := by
  unfold Obligations.GatherAtomics
  intro s e
  refine ⟨fun hready o => ?_, fun hready => ⟨⟨_, congrArg Host.Outcome.next (hready.runs _), rfl, ?_⟩, vbrk_faults hready⟩⟩
  · have hword (i : Instr) (op : Nat) (hi : exec i s = .next (runMem (vatWord o op) s)) : VectorAtomics i s e (vatWord o op) op :=
      vectorAtomics_of hready hi rfl rfl rfl
    exact ⟨hword _ 0 rfl, hword _ 1 rfl, hword _ 2 rfl, hword _ 3 rfl, hword _ 4 rfl, hword _ 5 rfl, hword _ 6 rfl, hword _ 7 rfl⟩
  · have hvlc : e.vlc = s.cur := hready.1.2.1
    rw [dropWord, hvlc]
    exact congrArg Core.viq (getCore_updCore_same ..)

end Sys2Proof.Machine
end

section
/-! SUPPORT. The registers with which the host manages handles and regions: HSEL, TKOP and CARVE (R101, R102, R322, R323). -/
namespace Sys2Proof.Machine

/-! ### Handles (R102) -/

theorem setsVi_updVi {i : Instr} {s : State} {vi : Nat} {f : Vi → Vi} (h : exec i s = .next (updVi vi f s)) : SetsVi i s vi (f (getVi s vi)) := ⟨_, h, viIs_updVi⟩

/-- HSEL after a write whose job may begin or is refused. -/
def hselVi (v : Vi) (x : Nat) (bad : Bool) (job : Nat × Option Handle) : Vi :=
  if bad then { v with hsel := BitVec.ofNat 64 (x % 262144 + 2 ^ 62 + 2 ^ 63) } else { v with hsel := BitVec.ofNat 64 (x % 262144), hjob := some job }

theorem fld_low (x n : Nat) : fld x 0 n = x % 2 ^ n := by rw [fld, pow_zero, Nat.div_one]

/-- The fields STACK and INDEX of HSEL. -/
theorem hsel_stack (x : Nat) : fld x 14 4 = x / 16384 % 16 := by norm_num [fld]
theorem hsel_index (x : Nat) : fld x 0 14 = x % 16384 := by norm_num [fld]
theorem hsel_both (x : Nat) : fld x 0 18 = x % 262144 := by norm_num [fld]

theorem hselStart_begins {s : State} {vi : Nat} (h : (getVi s vi).hjob = none) (w : Word) (bad : Bool) (job : Nat × Option Handle) :
    ViIs vi (hselVi (getVi s vi) w.toNat bad job) s (hselStart vi w bad job s) := by
  have hv : hselVi (getVi s vi) w.toNat bad job = if (getVi s vi).hjob.isSome then getVi s vi
      else if bad then { getVi s vi with hsel := wN (fld w.toNat 0 18 + 2 ^ 62 + 2 ^ 63) }
      else { getVi s vi with hsel := wN (fld w.toNat 0 18), hjob := some job } := by
    rw [h, hsel_both]
    rfl
  rw [hv]
  exact viIs_updVi

theorem handleCommit_sets {s : State} {vi : Nat} (w : Word) (hvi : vi < 256) (h : (getVi s vi).hjob = none) :
    SetsVi (.handleCommit vi w) s vi (hselVi (getVi s vi) w.toNat
      (commitBad s vi (w.toNat / 16384 % 16) (w.toNat % 16384) (wordsHandle vi (getVi s vi).hdat0 (getVi s vi).hdat1))
      (w.toNat / 16384 % 16 * 16384 + w.toNat % 16384, some (wordsHandle vi (getVi s vi).hdat0 (getVi s vi).hdat1))) := by
  refine ⟨_, ?_, hselStart_begins h w _ _⟩
  rw [show exec (.handleCommit vi w) s = execHandleCommit vi w s from rfl, execHandleCommit, if_neg (Nat.not_le.2 hvi)]
  simp only [hsel_stack, hsel_index]

theorem handleFetch_sets {s : State} {vi : Nat} (w : Word) (hvi : vi < 256) (h : (getVi s vi).hjob = none) :
    SetsVi (.handleFetch vi w) s vi (hselVi (getVi s vi) w.toNat
      (decide (w.toNat / 16384 % 16 ≥ 12) || ((tget {} s.hands (w.toNat / 16384 % 16 * 16384 + w.toNat % 16384)).v &&
        (tget {} s.hands (w.toNat / 16384 % 16 * 16384 + w.toNat % 16384)).vi != vi))
      (w.toNat / 16384 % 16 * 16384 + w.toNat % 16384, none)) := by
  refine ⟨_, ?_, hselStart_begins h w _ _⟩
  rw [show exec (.handleFetch vi w) s = execHandleFetch vi w s from rfl, execHandleFetch, if_neg (Nat.not_le.2 hvi)]
  simp only [hsel_stack, hsel_index]

/-- A job that has ended: DONE = 1. -/
def jobDone (vi : Nat) (s : State) : State := updVi vi (fun x => { x with hjob := none, hsel := x.hsel ||| wN (2 ^ 63) }) s

section
variable {s : State} {vi k : Nat}

theorem hselDone_commits {h : Handle} (hjob : (getVi s vi).hjob = some (k, some h)) (hbad : commitBad s vi (k / 16384) (k % 16384) h = false) :
    exec (.hselDone vi) s = .next { jobDone vi s with hands := tset {} s.hands k h } := by
  have hb : commitBad (jobDone vi s) vi (k / 16384) (k % 16384) h = false := hbad
  rw [show exec (.hselDone vi) s = execHselDone vi s from rfl, execHselDone, hjob]
  exact congrArg Host.Outcome.next (if_neg (by rw [← jobDone, hb]; exact Bool.false_ne_true))

theorem hselDone_refuses {h : Handle} (hjob : (getVi s vi).hjob = some (k, some h)) (hbad : commitBad s vi (k / 16384) (k % 16384) h = true) :
    exec (.hselDone vi) s = .next (updVi vi (fun x => { x with hsel := x.hsel ||| wN (2 ^ 62) }) (jobDone vi s)) := by
  have hb : commitBad (jobDone vi s) vi (k / 16384) (k % 16384) h = true := hbad
  rw [show exec (.hselDone vi) s = execHselDone vi s from rfl, execHselDone, hjob]
  exact congrArg Host.Outcome.next (if_pos hb)

theorem hselDone_fetches (hjob : (getVi s vi).hjob = some (k, none)) :
    exec (.hselDone vi) s = .next (updVi vi (fun x => { x with hdat0 := handleWord0 (tget {} s.hands k), hdat1 := handleWord1 (tget {} s.hands k) }) (jobDone vi s)) := by
  rw [show exec (.hselDone vi) s = execHselDone vi s from rfl, execHselDone, hjob]
  rfl

/-- The end of a job: a commit that stands goes into the table, one that has become bad sets ERR, and a fetch answers in HDAT0 and HDAT1 (R102). -/
theorem hselDone_ends {job : Option Handle} (hjob : (getVi s vi).hjob = some (k, job)) :
    ∃ t, exec (.hselDone vi) s = .next t ∧ { t with vis := s.vis, hands := s.hands } = s ∧ (∀ u, u ≠ vi → getVi t u = getVi s u) ∧
      let u := { getVi s vi with hjob := none, hsel := (getVi s vi).hsel ||| 0x8000000000000000 }
      (∀ h, job = some h → commitBad s vi (k / 16384) (k % 16384) h = false → getVi t vi = u ∧ EntryIs {} s.hands t.hands k h) ∧
      (∀ h, job = some h → commitBad s vi (k / 16384) (k % 16384) h = true → getVi t vi = { u with hsel := u.hsel ||| 0x4000000000000000 } ∧ t.hands = s.hands) ∧
      (job = none → getVi t vi = { u with hdat0 := handleWord0 (tget {} s.hands k), hdat1 := handleWord1 (tget {} s.hands k) } ∧ t.hands = s.hands) := by
  have hdone : getVi (jobDone vi s) vi = { getVi s vi with hjob := none, hsel := (getVi s vi).hsel ||| 0x8000000000000000 } := getVi_updVi_same ..
  have hother : ∀ u, u ≠ vi → getVi (jobDone vi s) u = getVi s u := fun u hu => getVi_updVi_other _ _ hu
  cases job with
  | none =>
    refine ⟨_, hselDone_fetches hjob, by simp only [jobDone, updVi], fun u hu => (getVi_updVi_other _ _ hu).trans (hother u hu), nofun, nofun, fun _ => ⟨?_, rfl⟩⟩
    rw [getVi_updVi_same, hdone]
  | some h =>
    cases hbad : commitBad s vi (k / 16384) (k % 16384) h with
    | false =>
      refine ⟨_, hselDone_commits hjob hbad, by simp only [jobDone, updVi], hother, fun h' hh _ => ⟨hdone, ?_⟩, fun h' hh hb => ?_, nofun⟩
      · obtain rfl := Option.some.inj hh
        exact ⟨tget_tset_same .., fun j hj => tget_tset_other _ _ _ hj⟩
      · obtain rfl := Option.some.inj hh
        exact absurd (hbad.symm.trans hb) (by decide)
    | true =>
      refine ⟨_, hselDone_refuses hjob hbad, by simp only [jobDone, updVi], fun u hu => (getVi_updVi_other _ _ hu).trans (hother u hu),
        fun h' hh hb => ?_, fun _ _ _ => ⟨?_, rfl⟩, nofun⟩
      · obtain rfl := Option.some.inj hh
        exact absurd (hbad.symm.trans hb) (by decide)
      · rw [getVi_updVi_same, hdone]
        rfl

end

/-! ### TKOP (R323) -/

/-- The entry that a write of TKOP names, and the VI once the operation has begun or has been refused. -/
def tkopKey (x : Nat) : Nat := x / 262144 % 16 * 65536 + x / 4 % 65536
def tkopBusy (v : Vi) (w : Word) (drained : Bool) : Vi := { v with tkop := w, tkres := 1, tkDrained := drained }

theorem tkop_stack (x : Nat) : fld x 18 4 = x / 262144 % 16 := by norm_num [fld]
theorem tkop_entry (x : Nat) : fld x 2 16 = x / 4 % 65536 := by norm_num [fld]
theorem tkop_seq (x : Nat) : fld x 22 16 = x / 4194304 % 65536 := by norm_num [fld]

/-- Whether the host owns the region, with no share of it lent. -/
def hostOwns (s : State) (vi x : Nat) : Bool := (tokAt s (tkopKey x)).owner == hostAgent vi && (tokAt s (tkopKey x)).shares == 0

/-- Whether the region is one of which GIVE, HOME or UNHOME may dispose (R323). -/
def tkopMay (s : State) (vi op x : Nat) : Bool :=
  match op with
  | 0 => hostOwns s vi x && (s.launches.find? (fun l => l.vi == vi && l.seq % 65536 == x / 4194304 % 65536)).isSome
  | 1 => hostOwns s vi x
  | _ => (tokAt s (tkopKey x)).owner == homeAgent (x / 262144 % 16) && (tokAt s (tkopKey x)).lender == hostAgent vi

/-- Whether the requirements of a host token operation hold (R323). -/
def tkopOk (s : State) (vi op x : Nat) : Bool :=
  s.plat.service && x / 262144 % 16 < 12 && (tokAt s (tkopKey x)).kind == 1 && tkopMay s vi op x

theorem tkopOk_of {s : State} {vi op x : Nat} (hservice : s.plat.service = true) (hstack : x / 262144 % 16 < 12) (hkind : (tokAt s (tkopKey x)).kind = 1)
    (hmay : tkopMay s vi op x = true) : tkopOk s vi op x = true := by simp [tkopOk, hservice, hstack, hkind, hmay]

theorem hostOwns_of {s : State} {vi x : Nat} (howner : (tokAt s (tkopKey x)).owner = hostAgent vi) (hshares : (tokAt s (tkopKey x)).shares = 0) :
    hostOwns s vi x = true := by simp [hostOwns, howner, hshares]

/-- GIVE and HOME of a region that the host does not own are refused. -/
theorem tkopOk_foreign {s : State} {vi op x : Nat} (hop : op < 2) (howner : (tokAt s (tkopKey x)).owner ≠ hostAgent vi) : tkopOk s vi op x = false := by
  have hmine : hostOwns s vi x = false := by simp [hostOwns, howner]
  match op, hop with
  | 0, _ => simp [tkopOk, tkopMay, hmine]
  | 1, _ => simp [tkopOk, tkopMay, hmine]

/-- The table once a host token operation has begun (R323). -/
def tkopTable (vi op x : Nat) (s : State) : State :=
  match op with
  | 0 => putTok (tkopKey x) { tokAt s (tkopKey x) with owner := rootAgent vi (x / 4194304 % 65536), lender := hostAgent vi } s
  | 1 => putTok (tkopKey x) { tokAt s (tkopKey x) with owner := homeAgent (x / 262144 % 16), lender := hostAgent vi } s
  | _ => s

theorem ite_bnot {α : Type} (b : Bool) (x y : α) : (if (!b) = true then x else y) = if b = true then y else x := by cases b <;> rfl

section
variable {s : State} {vi : Nat} (w : Word) (hvi : vi < 256) (hres : (getVi s vi).tkres ≠ 1)
include hvi hres

theorem tkStart_cases (op : Nat) (hop : op < 3) : tkStart vi op w s =
    if tkopOk s vi op w.toNat then updVi vi (fun x => tkopBusy x w (op != 2)) (tkopTable vi op w.toNat s)
    else updVi vi (fun x => { x with tkop := w, tkres := 3 }) s := by
  have hidle : ¬ (decide (vi ≥ 256) || (getVi s vi).tkres == 1) = true := by simp [hvi, hres]
  unfold tkStart
  dsimp only
  rw [if_neg hidle, tkop_stack, tkop_entry, tkop_seq]
  match op, hop with
  | 0, _ => exact ite_bnot (tkopOk s vi 0 w.toNat) _ _
  | 1, _ => exact ite_bnot (tkopOk s vi 1 w.toNat) _ _
  | 2, _ => exact ite_bnot (tkopOk s vi 2 w.toNat) _ _

/-- An operation whose requirements hold changes the table and is busy. -/
theorem tkStart_busy {op : Nat} (hop : op < 3) (hok : tkopOk s vi op w.toNat = true) {P : State → Prop}
    (hP : ∀ t : State, t.toks = (tkopTable vi op w.toNat s).toks → P t) :
    ∃ t, Host.Outcome.next (tkStart vi op w s) = (.next t : Result) ∧ getVi t vi = tkopBusy (getVi s vi) w (op != 2) ∧ P t ∧ { t with vis := s.vis, toks := s.toks } = s ∧
      ∀ u, u ≠ vi → getVi t u = getVi s u := by
  have htable : { tkopTable vi op w.toNat s with toks := s.toks } = s := by unfold tkopTable; split <;> rfl
  have hvis : (tkopTable vi op w.toNat s).vis = s.vis := by have e := congrArg State.vis htable; exact e
  have hget : ∀ u, getVi (tkopTable vi op w.toNat s) u = getVi s u := fun u => by rw [getVi, hvis, getVi]
  refine ⟨_, rfl, ?_⟩
  rw [tkStart_cases w hvi hres op hop, if_pos hok]
  refine ⟨?_, hP _ rfl, ?_, fun u hu => ?_⟩
  · rw [getVi_updVi_same, hget]
  · have e := congrArg (fun t : State => { t with vis := s.vis }) htable
    exact e
  · rw [getVi_updVi_other _ _ hu, hget]

/-- An operation on a region that the host does not own is refused. -/
theorem tkStart_refused {op : Nat} (hop : op < 3) (hok : tkopOk s vi op w.toNat = false) :
    ∃ t, Host.Outcome.next (tkStart vi op w s) = (.next t : Result) ∧ ViIs vi { getVi s vi with tkop := w, tkres := 3 } s t := by
  refine ⟨_, rfl, ?_⟩
  rw [tkStart_cases w hvi hres op hop, if_neg (by rw [hok]; exact Bool.false_ne_true)]
  exact viIs_updVi

end

/-! ### CARVE (R322) -/

theorem carveBase_eq (s : State) : carveBase s = s.mgmt.carve0.toNat / 4096 % 536870912 * 4096 := by norm_num [carveBase, fld]
theorem carve_pages (x : Nat) : fld x 0 25 = x % 33554432 := by norm_num [fld]
theorem carve_host (x : Nat) : fld x 25 8 = x / 33554432 % 256 := by norm_num [fld]

theorem carveReg_eq (w : Word) (err : Bool) : carveReg w err = BitVec.ofNat 64 (w.toNat % 17179869184 + 34359738368 * b2n err) := by norm_num [carveReg, fld, wN]

/-- CARVE1 once an operation has ended (R322). -/
def carved (w : Word) (err : Bool) (s : State) : State := { s with mgmt := { s.mgmt with carve1 := carveReg w err } }

/-- Whether CARVE is refused. -/
def carveBad (s : State) (x : Nat) : Bool :=
  !s.plat.service || x % 33554432 == 0 || !backed s (carveBase s) (x % 33554432 * 4096) || paOff (carveBase s) + x % 33554432 * 4096 > dramEnd ||
    s.toks.any (fun p => p.2.kind == 1 && p.1 / 65536 == paStack (carveBase s) &&
      rangesMeet (p.2.base * 4096) (p.2.pages * 4096) (carveBase s) (x % 33554432 * 4096)) ||
    (freeTok s (paStack (carveBase s))).isNone

theorem carveBad_good {s : State} {x : Nat} (hservice : s.plat.service = true) (hpages : x % 33554432 ≠ 0)
    (hbacked : backed s (carveBase s) (x % 33554432 * 4096) = true) (hend : paOff (carveBase s) + x % 33554432 * 4096 ≤ dramEnd)
    (hfree : ∀ p ∈ s.toks, p.2.kind = 1 → p.1 / 65536 = paStack (carveBase s) →
      rangesMeet (p.2.base * 4096) (p.2.pages * 4096) (carveBase s) (x % 33554432 * 4096) = false)
    (hk : (freeTok s (paStack (carveBase s))).isSome = true) : carveBad s x = false := by
  have hnone : (s.toks.any fun p => p.2.kind == 1 && p.1 / 65536 == paStack (carveBase s) &&
      rangesMeet (p.2.base * 4096) (p.2.pages * 4096) (carveBase s) (x % 33554432 * 4096)) = false := by
    refine List.any_eq_false.2 (fun p hp hmeet => ?_)
    obtain ⟨hhere, hover⟩ := Bool.and_eq_true_iff.1 hmeet
    obtain ⟨hkind, hstack⟩ := Bool.and_eq_true_iff.1 hhere
    rw [hfree p hp (beq_iff_eq.1 hkind) (beq_iff_eq.1 hstack)] at hover
    cases hover
  have hlow : decide (paOff (carveBase s) + x % 33554432 * 4096 > dramEnd) = false := decide_eq_false (Nat.not_lt.2 hend)
  simp [carveBad, hservice, hpages, hbacked, hnone, hlow, hk]

/-- The region that CARVE makes, and the state with it in entry `k`. -/
def carvedTok (w : Word) (s : State) : Tok :=
  { kind := 1, base := carveBase s / 4096, pages := w.toNat % 33554432, owner := hostAgent (w.toNat / 33554432 % 256) }
def carvedInto (w : Word) (k : Nat) (s : State) : State := putTok k (carvedTok w s) (carved w false s)

theorem carvedInto_spec (w : Word) (k : Nat) (s : State) :
    (carvedInto w k s).mgmt = { s.mgmt with carve1 := BitVec.ofNat 64 (w.toNat % 17179869184) } ∧
    tokAt (carvedInto w k s) k = carvedTok w s ∧ OnlyToks s (carvedInto w k s) [k] ∧ (carvedInto w k s).repair = s.repair ∧
    { carvedInto w k s with mgmt := s.mgmt, toks := s.toks, repair := s.repair } = s := by
  obtain ⟨hentry, honly⟩ := onlyToks_of_put (s := s) (t := carvedInto w k s) (k := k) (e := carvedTok w s) rfl
  refine ⟨?_, hentry, honly, rfl, by simp only [carvedInto, putTok, carved]⟩
  rw [carvedInto, putTok_mgmt, carved, carveReg_eq]
  rfl

theorem carve_cases (w : Word) (s : State) : exec (.carve w) s = .next (if carveBad s w.toNat then carved w true s
    else carvedInto w ((freeTok s (paStack (carveBase s))).getD 0) s) := by
  rw [show exec (.carve w) s = execCarve w s from rfl, execCarve]
  dsimp only
  rw [carve_pages, carve_host]
  show Host.Outcome.next (if carveBad s w.toNat = true then carved w (carveBad s w.toNat) s
    else putTok _ _ (carved w (carveBad s w.toNat) s)) = _
  cases carveBad s w.toNat with
  | true => rw [if_pos rfl, if_pos rfl]
  | false => rw [if_neg Bool.false_ne_true, if_neg Bool.false_ne_true, carvedInto, carvedTok]

theorem carveFreed_spec (w : Word) (k : Nat) (s : State) :
    (unpinFree (putTok k {} (carved w false s))).mgmt = { s.mgmt with carve1 := BitVec.ofNat 64 (w.toNat % 17179869184) } ∧
    tokAt (unpinFree (putTok k {} (carved w false s))) k = {} ∧ OnlyToks s (unpinFree (putTok k {} (carved w false s))) [k] ∧
    { unpinFree (putTok k {} (carved w false s)) with mgmt := s.mgmt, toks := s.toks, repair := s.repair } = s := by
  obtain ⟨hentry, honly⟩ := onlyToks_of_put (s := s) (t := unpinFree (putTok k {} (carved w false s))) (k := k) (e := {}) rfl
  refine ⟨?_, hentry, honly, by simp only [unpinFree, putTok, carved]⟩
  show { s.mgmt with carve1 := carveReg w false } = _
  rw [carveReg_eq]
  rfl

theorem carveDelete_frees {s : State} {w : Word} {k : Nat} {r : Tok} (hservice : s.plat.service = true)
    (hfind : s.toks.find? (fun p => p.2.kind == 1 && p.2.base == carveBase s / 4096 && p.2.owner == hostAgent (w.toNat / 33554432 % 256) && p.2.shares == 0) = some (k, r)) :
    exec (.carveDelete w) s = .next (unpinFree (putTok k {} (carved w false s))) := by
  rw [show exec (.carveDelete w) s = execCarveDelete w s from rfl, execCarveDelete]
  dsimp only
  rw [carve_host, hfind]
  dsimp only
  rw [if_pos hservice]
  rfl

/-- Settles O47. -/
theorem handlesAndRegions : Obligations.HandlesAndRegions := by
  unfold Obligations.HandlesAndRegions
  intro s vi w hvi v x
  refine ⟨fun h => ⟨handleCommit_sets w hvi h, handleFetch_sets w hvi h⟩, fun k job hjob => ?_, fun hres hservice hstack hkind => ?_,
    fun hservice => ⟨fun k hpages hbacked hend hfree hk => ?_,
    fun hpages => ?_, fun k r hfind => ?_⟩⟩
  · exact hselDone_ends hjob
  · have hok : ∀ op, tkopMay s vi op x = true → tkopOk s vi op x = true := fun op => tkopOk_of hservice hstack hkind
    refine ⟨fun howner hshares hlaunch => ?_, fun howner hshares => ?_, fun howner hlender => ?_, fun howner => ⟨?_, ?_⟩⟩
    · obtain ⟨l, hl, hlvi, hlseq⟩ := hlaunch
      refine tkStart_busy w hvi hres (op := 0) (by decide) (hok _ ?_) (fun _ => onlyToks_of_put)
      have hsome : (s.launches.find? (fun l => l.vi == vi && l.seq % 65536 == x / 4194304 % 65536)).isSome = true :=
        List.find?_isSome.2 ⟨l, hl, by simp [hlvi, hlseq]⟩
      exact Bool.and_eq_true_iff.2 ⟨hostOwns_of howner hshares, hsome⟩
    · exact tkStart_busy w hvi hres (op := 1) (by decide) (hok _ (hostOwns_of howner hshares)) (fun _ => onlyToks_of_put)
    · refine tkStart_busy w hvi hres (op := 2) (by decide) (hok _ ?_) (fun _ h => h)
      exact Bool.and_eq_true_iff.2 ⟨beq_iff_eq.2 howner, beq_iff_eq.2 hlender⟩
    · exact tkStart_refused w hvi hres (op := 0) (by decide) (tkopOk_foreign (by decide) howner)
    · exact tkStart_refused w hvi hres (op := 1) (by decide) (tkopOk_foreign (by decide) howner)
  · rw [← carveBase_eq] at hbacked hend hfree hk
    have hgood := carveBad_good hservice hpages hbacked hend hfree (Option.isSome_iff_exists.2 ⟨k, hk⟩)
    have hrun := carve_cases w s
    rw [hgood, if_neg Bool.false_ne_true, hk, Option.getD_some] at hrun
    have ⟨hmgmt, hentry, hkept, hrepair, hrest⟩ := carvedInto_spec w k s
    rw [carvedTok, carveBase_eq] at hentry
    exact ⟨_, hrun, hmgmt, ⟨hentry, hkept, hrepair⟩, hrest⟩
  · have hbad : carveBad s w.toNat = true := by
      have hzero : w.toNat % 33554432 = 0 := hpages
      simp [carveBad, hzero]
    rw [carve_cases, if_pos hbad, carved, carveReg_eq]
    rfl
  · rw [← carveBase_eq] at hfind
    have ⟨hmgmt, hentry, hkept, hrest⟩ := carveFreed_spec w k s
    exact ⟨_, carveDelete_frees hservice hfind, hmgmt, ⟨hentry, hkept⟩, hrest⟩

end Sys2Proof.Machine
end

section
/-! SUPPORT. The barrier words at issue: the flush of an arrival, the range of its count, and the access that is sent to the home (R127, R298, R367). -/
namespace Sys2Proof.Machine

/-! ### The state behind the flush of an arrival (R89, R127) -/

theorem stripFlush_cur (n : Nat) (s : State) : (stripFlush n s).cur = s.cur := flushBuf_cur n s

theorem getVlc_stripFlush_other {n m : Nat} (h : m ≠ n) (s : State) : getVlc (stripFlush n s) m = getVlc s m :=
  (getVlc_updVlc_other _ _ h).trans (getVlc_flushBuf_other h s)

/-- A flush empties the buffer, and sets SBFULL in an open strip. -/
theorem me_stripFlush (s : State) : (stripFlush s.cur s).me = { s.me with sbuf := [], early := [], sbfull := s.me.sopen || s.me.sbfull } := by
  cases ho : s.me.sopen with
  | true => exact stripFlush_me ho
  | false =>
    rw [State.me, stripFlush_cur, stripFlush]
    dsimp only
    rw [getVlc_updVlc_same, getVlc_flushBuf_same]
    exact if_neg (ne_true_of_eq_false ho)

theorem canIssue_stripFlush {s : State} {srcs : List Nat} {d : Nat} (hc : CanIssue s srcs d) : CanIssue (stripFlush s.cur s) srcs d := by
  rw [CanIssue, me_stripFlush]
  exact hc

theorem vecBusy_stripFlush (n : Nat) (s : State) (m : Nat) : vecBusy (stripFlush n s) m = vecBusy s m := by
  refine (vecBusy_updVlc (fun v => ?_) _ m).trans (vecBusy_flushBuf ..)
  split <;> rfl

theorem mayTrap_stripFlush {s : State} (hm : MayTrap s) : MayTrap (stripFlush s.cur s) := by
  rw [MayTrap, stripFlush_cur, vecBusy_stripFlush, me_stripFlush]
  exact hm

/-! ### The access of a barrier word in flight (R298) -/

/-- The access of a barrier word is in flight to the home, and its VLC waits for the answer. -/
def barrierSent (a : Access) (q : Passed) (u : State) : State :=
  updMe (fun v => { v with wait := .barrier u.nextId }) (noteIrrev a.vlc (sendAcc a (noteDev q u)))

theorem me_noteDev (q : Passed) (s : State) : (noteDev q s).me = { s.me with devs := s.me.devs || (q.dev && s.me.sopen) } := by
  rw [noteDev, me_updMe, (notePin_dieOnly q s).me_eq]
  cases q.dev && s.me.sopen with
  | true => rw [if_pos rfl, Bool.or_true]
  | false => rw [if_neg Bool.false_ne_true, Bool.or_false]

theorem noteDev_nextId (q : Passed) (s : State) : (noteDev q s).nextId = s.nextId := (notePin_dieOnly q s).nextId

theorem me_noteIrrev (s : State) : (noteIrrev s.cur s).me = { s.me with irrev := s.me.irrev || s.me.sopen } := by
  rw [noteIrrev, ← updMe, me_updMe]
  cases h : s.me.sopen with
  | true => simp only [h, if_true, Bool.or_true]
  | false => rw [if_neg Bool.false_ne_true, Bool.or_false]

section
variable {u : State} {a : Access} (hvlc : a.vlc = u.cur) (q : Passed)
include hvlc

theorem sendAcc_noteDev_cur : (sendAcc a (noteDev q u)).cur = a.vlc := ((sendAcc_storesOnly ..).cur.trans (noteDev_cur q u)).trans hvlc.symm

theorem me_barrierSent : (barrierSent a q u).me =
    { u.me with wait := .barrier u.nextId, irrev := u.me.irrev || u.me.sopen, devs := u.me.devs || (q.dev && u.me.sopen) } := by
  rw [barrierSent, me_updMe, ← sendAcc_noteDev_cur hvlc q, me_noteIrrev, (sendAcc_storesOnly ..).me_eq, me_noteDev]

theorem getVlc_barrierSent_other {m : Nat} (h : m ≠ u.cur) : getVlc (barrierSent a q u) m = getVlc u m := by
  have hm : m ≠ a.vlc := hvlc ▸ h
  rw [barrierSent, getVlc_updMe_other _ _ (by rw [noteIrrev, updVlc_cur, sendAcc_noteDev_cur hvlc q]; exact hm), noteIrrev, getVlc_updVlc_other _ _ hm,
    (sendAcc_storesOnly ..).getVlc_eq, getVlc_noteDev_other q h]

end

/-- The word sends the access `a`, with its operands, from the state `u` that it has come to, and its VLC waits for the home. -/
def SendsBarrier (s u : State) (i : Instr) (a : Access) (q : Passed) : Prop :=
  ∃ t x, exec i s = .next t ∧ t.net = u.net ++ [x] ∧
    x.id = u.nextId ∧ x.kind = a.kind ∧ x.va = a.va ∧ x.tgt = a.tgt ∧ x.size = a.size ∧ x.cls = a.cls ∧ x.data = a.data ∧ x.reg = a.reg ∧ x.e0 = a.e0 ∧ x.vlc = a.vlc ∧
    t.me = { u.me with wait := .barrier u.nextId, irrev := u.me.irrev || u.me.sopen, devs := u.me.devs || (q.dev && u.me.sopen) } ∧ t.mem = u.mem ∧
    ∀ m, m ≠ s.cur → getVlc t m = getVlc s m

theorem sendsBarrier_of_exec {s u : State} {i : Instr} {a : Access} {q : Passed} (hcur : u.cur = s.cur) (hother : ∀ m, m ≠ s.cur → getVlc u m = getVlc s m)
    (hvlc : a.vlc = s.cur) (hi : exec i s = .next (barrierSent a q u)) : SendsBarrier s u i a q := by
  have hsender : a.vlc = u.cur := hvlc.trans hcur.symm
  have hkeeps (m : Nat) (hm : m ≠ s.cur) : getVlc (barrierSent a q u) m = getVlc s m :=
    (getVlc_barrierSent_other hsender q (hcur ▸ hm)).trans (hother m hm)
  have hnet : (barrierSent a q u).net = u.net ++ [routed (noteDev q u) { a with id := u.nextId, ser := u.nextId }] := by
    rw [barrierSent, updMe_net, noteIrrev_net, sendAcc_net, noteDev_net, noteDev_nextId]
  refine ⟨_, _, hi, hnet, ?_⟩
  have hmem : (barrierSent a q u).mem = u.mem := noteDev_mem q u
  rw [me_barrierSent hsender q, hmem]
  unfold routed
  split <;> exact ⟨rfl, rfl, rfl, rfl, rfl, rfl, rfl, rfl, rfl, rfl, rfl, rfl, hkeeps⟩

/-! ### `bar.init` and `bar.arrive` (R127, R298) -/

/-- The access of `bar.init` and `bar.arrive` with the operands of their registers (R298). -/
def barrierAcc (s : State) (o : BAop) (k : AccKind) (q : Passed) : Access :=
  { id := 0, vlc := s.cur, kind := k, va := (s.me.rx o.a.toNat).toNat, tgt := q.tgt, size := 8, cls := o.c.toNat, dev := q.dev, data := (s.me.rx o.b.toNat).toNat,
    reg := o.d.toNat, origin := s.me.pc.toNat }

section
variable {s : State} {o : BAop} {q : Passed} (hc : CanIssue s [o.a.toNat, o.b.toNat] o.d.toNat)
include hc

/-- What a word does whose checks have passed in the state `u`, which for an arrival is behind its flush. -/
theorem barrierForm_passed {k : AccKind} {u : State} (hflush : k = .barArrive → mayFlush s s.cur = true) (hu : (if k = .barArrive then stripFlush s.cur s else s) = u)
    (hq : barrierCheck u (s.me.rx o.a.toNat).toNat = .ok q) :
    barrierForm o k s =
      if (s.me.rx o.b.toNat).toNat > 16777215 then raise cBAR_RANGE (s.me.rx o.a.toNat).toNat u
      else if k = .barArrive && !allPerformed u s.cur then u
      else if heldBack u s.cur o.c.toNat q 8 then awaitBanks q.walk u
      else barrierSent (barrierAcc s o k q) q u := by
  have hturn : (decide (k = .barArrive) && !mayFlush s s.cur) = false := by
    rw [Bool.and_eq_false_imp]
    intro h
    rw [hflush (of_decide_eq_true h)]; rfl
  refine (issue_can (srcs := [(o.a.toNat, o.fa), (o.b.toNat, o.fb)]) _ hc rfl).trans ?_
  dsimp only
  rw [hturn, if_neg Bool.false_ne_true, hu, hq]
  rfl

theorem barInit_passed (hq : barrierCheck s (s.me.rx o.a.toNat).toNat = .ok q) :
    exec (.barInit o) s = .next (
      if (s.me.rx o.b.toNat).toNat > 16777215 then raise 15 (s.me.rx o.a.toNat).toNat s
      else if heldBack s s.cur o.c.toNat q 8 then awaitBanks q.walk s
      else barrierSent (barrierAcc s o .barInit q) q s) :=
  congrArg Host.Outcome.next (barrierForm_passed hc (k := .barInit) nofun rfl hq)

theorem barArrive_passed (hf : mayFlush s s.cur = true) (hq : barrierCheck (stripFlush s.cur s) (s.me.rx o.a.toNat).toNat = .ok q) :
    exec (.barArrive o) s = .next (
      if (s.me.rx o.b.toNat).toNat > 16777215 then raise 15 (s.me.rx o.a.toNat).toNat (stripFlush s.cur s)
      else if !allPerformed (stripFlush s.cur s) s.cur then stripFlush s.cur s
      else if heldBack (stripFlush s.cur s) s.cur o.c.toNat q 8 then awaitBanks q.walk (stripFlush s.cur s)
      else barrierSent (barrierAcc s o .barArrive q) q (stripFlush s.cur s)) :=
  congrArg Host.Outcome.next (barrierForm_passed hc (k := .barArrive) (fun _ => hf) rfl hq)

section
variable (hq : barrierCheck s (s.me.rx o.a.toNat).toNat = .ok q)
include hq

theorem barInit_sends (hn : (s.me.rx o.b.toNat).toNat ≤ 16777215) (hb : heldBack s s.cur o.c.toNat q 8 = false) :
    SendsBarrier s s (.barInit o) (barrierAcc s o .barInit q) q := by
  refine sendsBarrier_of_exec rfl (fun _ _ => rfl) rfl ?_
  rw [barInit_passed hc hq, if_neg (Nat.not_lt.2 hn), hb, if_neg Bool.false_ne_true]

theorem barInit_outOfRange (hn : (s.me.rx o.b.toNat).toNat > 16777215) : exec (.barInit o) s = .next (raise 15 (s.me.rx o.a.toNat).toNat s) := by
  rw [barInit_passed hc hq, if_pos hn]

end

variable (hf : mayFlush s s.cur = true) (hu : barrierCheck (stripFlush s.cur s) (s.me.rx o.a.toNat).toNat = .ok q)
include hf hu

theorem barArrive_sends (hn : (s.me.rx o.b.toNat).toNat ≤ 16777215) (hp : allPerformed (stripFlush s.cur s) s.cur = true)
    (hb : heldBack (stripFlush s.cur s) s.cur o.c.toNat q 8 = false) : SendsBarrier s (stripFlush s.cur s) (.barArrive o) (barrierAcc s o .barArrive q) q := by
  refine sendsBarrier_of_exec (stripFlush_cur ..) (fun m hm => getVlc_stripFlush_other hm s) rfl ?_
  rw [barArrive_passed hc hf hu, if_neg (Nat.not_lt.2 hn), hp, Bool.not_true, if_neg Bool.false_ne_true, hb, if_neg Bool.false_ne_true]

theorem barArrive_waits (hn : (s.me.rx o.b.toNat).toNat ≤ 16777215) (hp : allPerformed (stripFlush s.cur s) s.cur = false) :
    exec (.barArrive o) s = .next (stripFlush s.cur s) := by
  rw [barArrive_passed hc hf hu, if_neg (Nat.not_lt.2 hn), hp, Bool.not_false, if_pos rfl]

/-- A count out of range traps behind the flush, as a `bar.init` of it traps there (R367). -/
theorem barArrive_traps (hm : MayTrap s) (hn : (s.me.rx o.b.toNat).toNat > 16777215) :
    ∃ t, exec (.barArrive o) s = .next t ∧
      TookVlc (stripFlush s.cur s).me t.me (BitVec.ofNat 64 15) s.me.pc (BitVec.ofNat 64 (s.me.rx o.a.toNat).toNat) 0 s.me.pc 0 ∧
      TookFrame s.cur (stripFlush s.cur s) t ∧ t.net = (stripFlush s.cur s).net := by
  have hx (r : Nat) : (stripFlush s.cur s).me.rx r = s.me.rx r := by rw [me_stripFlush]; rfl
  have hpc : (stripFlush s.cur s).me.pc = s.me.pc := by rw [me_stripFlush]
  have hinit : exec (.barInit o) (stripFlush s.cur s) = .next (raise 15 (s.me.rx o.a.toNat).toNat (stripFlush s.cur s)) := by
    rw [barInit_outOfRange (canIssue_stripFlush hc) (by rw [hx]; exact hu) (by rw [hx]; exact hn), hx]
  have harrive : exec (.barArrive o) s = exec (.barInit o) (stripFlush s.cur s) := by
    rw [hinit, barArrive_passed hc hf hu, if_pos hn]
  obtain ⟨t, ht, htook, hframe, hnet⟩ := traps_of_raise (mayTrap_stripFlush hm) (by decide) hinit
  rw [hpc, BitVec.ofNat_toNat, BitVec.setWidth_eq] at htook
  rw [stripFlush_cur] at hframe
  exact ⟨t, harrive.trans ht, htook, hframe, hnet⟩

end

/-! ### `bar.wait` (R298) -/

/-- The access of `bar.wait`, with the expected EPOCH that it may carry (R298). -/
def barWaitAcc (s : State) (o : BWop) (q : Passed) : Access :=
  { id := 0, vlc := s.cur, kind := .barWait, va := (s.me.rx o.a.toNat).toNat, tgt := q.tgt, size := 8, cls := s.me.ocdef.toNat, reg := o.d.toNat,
    origin := s.me.pc.toNat, e0 := if o.exp then some (fld (s.me.rx o.b.toNat).toNat 0 32) else none }

theorem barWait_sends {s : State} {o : BWop} {q : Passed} (hc : CanIssue s ([o.a.toNat] ++ (if o.exp then [o.b.toNat] else [])) o.d.toNat)
    (hq : barrierCheck s (s.me.rx o.a.toNat).toNat = .ok q) (hfaults : s.me.faults.length < 16) (hwalk : walkWaits s q.walk = false) :
    SendsBarrier s s (.barWait o) (barWaitAcc s o q) q := by
  have hsrcs : ([(o.a.toNat, o.fa)] ++ (if o.exp then [(o.b.toNat, o.fb)] else [])).map Prod.fst = [o.a.toNat] ++ (if o.exp then [o.b.toNat] else []) := by
    split <;> rfl
  have hgo : (decide (s.me.faults.length ≥ 16) || walkWaits s q.walk) = false := by rw [hwalk, Bool.or_false]; exact decide_eq_false (Nat.not_le.2 hfaults)
  refine sendsBarrier_of_exec rfl (fun _ _ => rfl) rfl (congrArg Host.Outcome.next ((issue_can _ (by rwa [hsrcs]) rfl).trans ?_))
  dsimp only
  rw [hq]
  dsimp only
  rw [hgo, if_neg Bool.false_ne_true]
  rfl

/-- Settles O29: each word sends its access from the state in which its checks have passed, for an arrival the one behind its flush. -/
theorem barriersIssue : Obligations.BarriersIssue := by
  unfold Obligations.BarriersIssue
  intro s
  refine ⟨fun o hc => ⟨fun q hq => ⟨barInit_sends hc hq, fun hm hn => traps_of_raise hm (by decide) (barInit_outOfRange hc hq hn)⟩,
    fun hf q hq => ⟨barArrive_sends hc hf hq, barArrive_waits hc hf hq, barArrive_traps hc hf hq⟩⟩, fun o q hc hq hfaults hwalk => ?_⟩
  have hepoch : fld (s.me.rx o.b.toNat).toNat 0 32 = (s.me.rx o.b.toNat).toNat % 2 ^ 32 := by rw [fld, Nat.pow_zero, Nat.div_one]
  have hsent := barWait_sends hc hq hfaults hwalk
  rw [SendsBarrier, barWaitAcc, hepoch] at hsent
  exact hsent

end Sys2Proof.Machine
end

section
/-! SUPPORT. Bit strings of register groups: fields that are replaced, elements that are written, and the flags of many results (R131, R139, R195). -/
namespace Sys2Proof.Machine

/-! ### Fields of a number -/

theorem testBit_fld (x lo n i : Nat) : (fld x lo n).testBit i = (decide (i < n) && x.testBit (lo + i)) := by
  rw [fld, Nat.testBit_mod_two_pow, Nat.testBit_div_two_pow, Nat.add_comm]

theorem putFld_eq (x lo n v : Nat) : putFld x lo n v = 2 ^ lo * (2 ^ n * (x / 2 ^ lo / 2 ^ n) + v % 2 ^ n) + x % 2 ^ lo := by
  have hlow := Nat.div_add_mod x (2 ^ lo)
  have hmid := Nat.div_add_mod (x / 2 ^ lo) (2 ^ n)
  have hx : x = 2 ^ lo * (2 ^ n * (x / 2 ^ lo / 2 ^ n)) + fld x lo n * 2 ^ lo + x % 2 ^ lo := by
    conv_lhs => rw [← hlow, ← hmid]
    rw [fld]; ring
  rw [putFld]
  calc x - fld x lo n * 2 ^ lo + v % 2 ^ n * 2 ^ lo
      = 2 ^ lo * (2 ^ n * (x / 2 ^ lo / 2 ^ n)) + x % 2 ^ lo + v % 2 ^ n * 2 ^ lo := by omega
    _ = _ := by ring

theorem testBit_putFld (x lo n v i : Nat) :
    (putFld x lo n v).testBit i = if lo ≤ i ∧ i < lo + n then v.testBit (i - lo) else x.testBit i := by
  rw [putFld_eq, Nat.testBit_two_pow_mul_add _ (Nat.mod_lt _ (Nat.two_pow_pos lo))]
  by_cases hlo : i < lo
  · rw [if_pos hlo, if_neg (by omega), Nat.testBit_mod_two_pow, decide_eq_true hlo, Bool.true_and]
  · rw [if_neg hlo, Nat.testBit_two_pow_mul_add _ (Nat.mod_lt _ (Nat.two_pow_pos n))]
    by_cases hn : i - lo < n
    · rw [if_pos hn, if_pos (by omega), Nat.testBit_mod_two_pow, decide_eq_true hn, Bool.true_and]
    · rw [if_neg hn, if_neg (by omega), Nat.testBit_div_two_pow, Nat.testBit_div_two_pow]
      congr 1
      omega

theorem testBit_elemN (x w j i : Nat) : (elemN x w j).testBit i = (decide (i < w) && x.testBit (w * j + i)) := testBit_fld ..

/-- Two elements of one width share no bit. -/
theorem elem_disjoint {w j k i : Nat} (hi : i < w) (hjk : j ≠ k) : ¬(w * k ≤ w * j + i ∧ w * j + i < w * k + w) := by
  rintro ⟨h1, h2⟩
  rcases Nat.lt_or_gt_of_ne hjk with h | h
  · have : w * (j + 1) ≤ w * k := Nat.mul_le_mul_left w h
    rw [Nat.mul_succ] at this
    omega
  · have : w * (k + 1) ≤ w * j := Nat.mul_le_mul_left w h
    rw [Nat.mul_succ] at this
    omega

theorem elemN_putFld_same (x w j v : Nat) : elemN (putFld x (w * j) w v) w j = v % 2 ^ w := by
  refine Nat.eq_of_testBit_eq (fun i => ?_)
  rw [testBit_elemN, Nat.testBit_mod_two_pow]
  by_cases hi : i < w
  · rw [testBit_putFld, if_pos (by omega), Nat.add_sub_cancel_left]
  · rw [decide_eq_false hi, Bool.false_and, Bool.false_and]

theorem elemN_putFld_other {w j k : Nat} (x v : Nat) (h : j ≠ k) : elemN (putFld x (w * k) w v) w j = elemN x w j := by
  refine Nat.eq_of_testBit_eq (fun i => ?_)
  rw [testBit_elemN, testBit_elemN]
  by_cases hi : i < w
  · rw [testBit_putFld, if_neg (elem_disjoint hi h)]
  · rw [decide_eq_false hi, Bool.false_and, Bool.false_and]

/-- An element that lies below bit `n` of a string is an element of its low `n` bits. -/
theorem elemN_mod {x w j n : Nat} (h : w * (j + 1) ≤ n) : elemN (x % 2 ^ n) w j = elemN x w j := by
  rw [Nat.mul_succ] at h
  refine Nat.eq_of_testBit_eq (fun i => ?_)
  rw [testBit_elemN, testBit_elemN, Nat.testBit_mod_two_pow]
  by_cases hi : i < w
  · rw [decide_eq_true (show w * j + i < n by omega), Bool.true_and]
  · rw [decide_eq_false hi, Bool.false_and, Bool.false_and]

/-! ### Elements written one after another -/

/-- The string once each pair of `l`, an element's number and its value, has been written. -/
def putElems (w : Nat) (l : List (Nat × Nat)) (x : Nat) : Nat := l.foldl (fun a p => putFld a (w * p.1) w p.2) x

/-- The list `l` writes element `j` just when `val` gives it a value, and only that value's low bits. -/
def WritesVals (w : Nat) (l : List (Nat × Nat)) (val : Nat → Option Nat) : Prop :=
  ∀ j, match val j with
    | some x => (∃ p ∈ l, p.1 = j) ∧ ∀ p ∈ l, p.1 = j → p.2 % 2 ^ w = x % 2 ^ w
    | none => ∀ p ∈ l, p.1 ≠ j

theorem elemN_putElems_off {w j : Nat} : ∀ {l : List (Nat × Nat)} {x : Nat}, (∀ p ∈ l, p.1 ≠ j) → elemN (putElems w l x) w j = elemN x w j
  | [], _, _ => rfl
  | p :: l, x, h => by
    have hrest := elemN_putElems_off (w := w) (l := l) (x := putFld x (w * p.1) w p.2) (fun q hq => h q (List.mem_cons_of_mem _ hq))
    exact hrest.trans (elemN_putFld_other x p.2 (h p List.mem_cons_self).symm)

theorem elemN_putElems_on {w j v : Nat} : ∀ {l : List (Nat × Nat)} {x : Nat}, (∃ p ∈ l, p.1 = j) → (∀ p ∈ l, p.1 = j → p.2 % 2 ^ w = v) →
    elemN (putElems w l x) w j = v
  | [], _, hsome, _ => absurd hsome (by simp)
  | p :: l, x, hsome, hval => by
    by_cases hrest : ∃ q ∈ l, q.1 = j
    · exact elemN_putElems_on (l := l) (x := putFld x (w * p.1) w p.2) hrest (fun q hq => hval q (List.mem_cons_of_mem _ hq))
    · have hp : p.1 = j := by
        obtain ⟨q, hq, hqj⟩ := hsome
        rcases List.mem_cons.1 hq with rfl | hq
        · exact hqj
        · exact absurd ⟨q, hq, hqj⟩ hrest
      have hoff := elemN_putElems_off (w := w) (l := l) (x := putFld x (w * p.1) w p.2) (j := j) (fun q hq hqj => hrest ⟨q, hq, hqj⟩)
      refine hoff.trans ?_
      rw [← hp, elemN_putFld_same]
      exact hval p List.mem_cons_self hp

theorem elemN_putElems {w : Nat} {l : List (Nat × Nat)} {val : Nat → Option Nat} (h : WritesVals w l val) (x j : Nat) :
    elemN (putElems w l x) w j = match val j with | some v => v % 2 ^ w | none => elemN x w j := by
  have hj := h j
  cases hv : val j with
  | none => rw [hv] at hj; exact elemN_putElems_off hj
  | some v => rw [hv] at hj; exact elemN_putElems_on hj.1 hj.2

/-- One value for each number of a list. -/
theorem writesVals_map {w : Nat} {l : List Nat} {f : Nat → Nat} {val : Nat → Option Nat} (hin : ∀ j ∈ l, ∃ x, val j = some x ∧ f j % 2 ^ w = x % 2 ^ w)
    (hout : ∀ j, j ∉ l → val j = none) : WritesVals w (l.map (fun j => (j, f j))) val := by
  intro j
  by_cases hj : j ∈ l
  · obtain ⟨x, hx, hf⟩ := hin j hj
    rw [hx]
    refine ⟨⟨_, List.mem_map_of_mem hj, rfl⟩, fun p hp hpj => ?_⟩
    obtain ⟨k, -, rfl⟩ := List.mem_map.1 hp
    obtain rfl : k = j := hpj
    exact hf
  · rw [hout j hj]
    intro p hp hpj
    obtain ⟨k, hk, rfl⟩ := List.mem_map.1 hp
    exact hj (hpj ▸ hk)

/-! ### Flags of many results -/

theorem testBit_foldl_or {α : Type} (f : α → Nat) (b : Nat) : ∀ (l : List α) (z : Nat),
    (l.foldl (fun acc x => acc ||| f x) z).testBit b = true ↔ z.testBit b = true ∨ ∃ x ∈ l, (f x).testBit b = true
  | [], z => by simp
  | x :: l, z => by
    rw [List.foldl_cons, testBit_foldl_or f b l, Nat.testBit_or, Bool.or_eq_true, List.exists_mem_cons_iff, or_assoc]

theorem testBit_flags {α : Type} (f : α → Nat) (b : Nat) (l : List α) :
    (l.foldl (fun acc x => acc ||| f x) 0).testBit b = true ↔ ∃ x ∈ l, (f x).testBit b = true := by
  rw [testBit_foldl_or, Nat.zero_testBit]
  simp

/-! ### Register groups (R195) -/

theorem groupN_congr {v w : Vlc} (h : v.v = w.v) (n : Nat) : ∀ r k, groupN v n r k = groupN w n r k
  | _, 0 => rfl
  | r, k + 1 => by rw [groupN, groupN, h, groupN_congr h n (r + 1) k]

theorem setGroupN_v (n : Nat) : ∀ (g r x : Nat) (v : Vlc), setGroupN n r g x v = { v with v := (setGroupN n r g x v).v }
  | 0, _, _, _ => rfl
  | g + 1, r, x, v => setGroupN_v n g (r + 1) (x / 2 ^ n) { v with v := tset 0 v.v r (BitVec.ofNat 3072 (x % 2 ^ n)) }

theorem tget_setGroupN_outside {n q : Nat} : ∀ (g r x : Nat) (v : Vlc), q < r ∨ r + g ≤ q → tget 0 (setGroupN n r g x v).v q = tget 0 v.v q
  | 0, _, _, _, _ => rfl
  | g + 1, r, x, v, h => by
    have hrest := tget_setGroupN_outside (n := n) g (r + 1) (x / 2 ^ n) { v with v := tset 0 v.v r (BitVec.ofNat 3072 (x % 2 ^ n)) } (q := q) (by omega)
    exact hrest.trans (tget_tset_other 0 _ _ (by omega))

/-- The string of a group once it has been written: its low bits, where a register holds VLEN bits. -/
theorem groupN_setGroupN {n : Nat} (hn : n ≤ 3072) : ∀ (g r x : Nat) (v : Vlc), groupN (setGroupN n r g x v) n r g = x % 2 ^ (n * g)
  | 0, _, x, _ => by rw [groupN, Nat.mul_zero, Nat.pow_zero, Nat.mod_one]
  | g + 1, r, x, v => by
    have hrest := groupN_setGroupN hn g (r + 1) (x / 2 ^ n) { v with v := tset 0 v.v r (BitVec.ofNat 3072 (x % 2 ^ n)) }
    have hhead : (tget 0 (setGroupN n r (g + 1) x v).v r).toNat % 2 ^ n = x % 2 ^ n := by
      rw [setGroupN, tget_setGroupN_outside g (r + 1) _ _ (.inl (Nat.lt_succ_self r)), tget_tset_same, BitVec.toNat_ofNat,
        Nat.mod_eq_of_lt (lt_of_lt_of_le (Nat.mod_lt _ (Nat.two_pow_pos n)) (Nat.pow_le_pow_right (by decide) hn)), Nat.mod_mod]
    rw [groupN, hhead, setGroupN, hrest, Nat.mul_succ, Nat.add_comm (n * g), Nat.pow_add, Nat.mod_mul]

theorem vlenOf_le (s : State) (n : Nat) : vlenOf s n ≤ 3072 := by
  have hlanes : ∀ p c, lanesOf p c ≤ 16 := fun p c => by
    unfold lanesOf
    dsimp only
    split_ifs
    · split <;> omega
    · omega
  have := hlanes (getVault s (vaultOf n)).lpr (coreOf n % 2)
  rw [vlenOf]
  omega

/-- Elements written to a group of a context: nothing is written where the list is empty. -/
def putGroup (n d k w : Nat) (l : List (Nat × Nat)) (v : Vlc) : Vlc :=
  if l.isEmpty then v else setGroupN n d k (putElems w l (groupN v n d k)) v

theorem putGroup_v (n d k w : Nat) (l : List (Nat × Nat)) (v : Vlc) : putGroup n d k w l v = { v with v := (putGroup n d k w l v).v } := by
  unfold putGroup
  split_ifs
  · rfl
  · exact setGroupN_v ..

theorem tget_putGroup_outside {n d k w q : Nat} (l : List (Nat × Nat)) (v : Vlc) (h : q < d ∨ d + k ≤ q) :
    tget 0 (putGroup n d k w l v).v q = tget 0 v.v q := by
  unfold putGroup
  split_ifs
  · rfl
  · exact tget_setGroupN_outside _ _ _ _ h

theorem elemN_putGroup {n d k w j : Nat} (hn : n ≤ 3072) {l : List (Nat × Nat)} {val : Nat → Option Nat} (hl : WritesVals w l val) (v : Vlc)
    (hj : w * (j + 1) ≤ n * k) :
    elemN (groupN (putGroup n d k w l v) n d k) w j = match val j with | some x => x % 2 ^ w | none => elemN (groupN v n d k) w j := by
  unfold putGroup
  split_ifs with hnil
  · obtain rfl : l = [] := List.isEmpty_iff.1 hnil
    exact elemN_putElems hl _ j
  · rw [groupN_setGroupN hn, elemN_mod hj]
    exact elemN_putElems hl _ j

end Sys2Proof.Machine
end

section
/-! SUPPORT. What a vector word that may execute leaves: the entry for its recheck, its elements and its flags (R196, R203, R204, R302, R371). -/
namespace Sys2Proof.Machine

/-! ### A word that has executed (R371) -/

/-- The setting of the oldest word of a core, in its own context. -/
def wordCtx (s : State) (e : VEntry) : VCtx := { v := s.me, e := e, vlen := vlenOf s s.cur, sew := sewBits e.sew, g := grpN e.grp }

theorem vctx_eq {s : State} {e : VEntry} (hvlc : e.vlc = s.cur) : vctx s e = wordCtx s e := by rw [vctx, hvlc]; rfl

/-- What a state in which a word ends shares with the state in which it began, while only the slice of its vault may have changed. -/
structure SliceOnly (s u : State) : Prop where
  vlcs : u.vlcs = s.vlcs
  cores : u.cores = s.cores
  cur : u.cur = s.cur
  mem : u.mem = s.mem
  rq : (getVault u (s.cur / 8)).rq = (getVault s (s.cur / 8)).rq

theorem SliceOnly.refl (s : State) : SliceOnly s s := ⟨rfl, rfl, rfl, rfl, rfl⟩

theorem sliceOnly_updSlice {s : State} {n : Nat} (hn : n = s.cur) (f : Slice → Slice) : SliceOnly s (updSlice n f s) := by
  refine ⟨rfl, rfl, rfl, rfl, ?_⟩
  rw [hn, updSlice, vaultOf, getVault_updVault_same]

theorem slice_updSlice {s : State} {n : Nat} (hn : n = s.cur) (f : Slice → Slice) :
    (getVault (updSlice n f s) (s.cur / 8)).slice = f (getVault s (s.cur / 8)).slice := by
  rw [hn, updSlice, vaultOf, getVault_updVault_same]

section
variable {s u : State} {e : VEntry} (hvlc : e.vlc = s.cur) (hu : SliceOnly s u)
include hvlc hu

/-- A word that has executed waits for its recheck, and of its context only vector registers have changed. -/
theorem executed_wordDone (els : List Nat) (fill : Option (Nat × Nat)) (fl cost : Nat) {f : Vlc → Vlc} (hf : f s.me = { s.me with v := (f s.me).v }) :
    let t := wordDone { reEntry s e fl with els := els, fill := fill } cost f u
    Executed s t e cost { s.me with v := t.me.v } fl ∧ t.me.v = (f s.me).v := by
  intro t
  obtain ⟨hrest, hrq, hviq, hme, hother, -, -⟩ := wordDone_spec { reEntry s e fl with els := els, fill := fill } cost f u
  have hcur : t.cur = s.cur := (congrArg State.cur hrest).trans hu.cur
  have hsame : ∀ n, getVlc u n = getVlc s n := fun n => by rw [getVlc, hu.vlcs, getVlc]
  have hfield : ({ reEntry s e fl with els := els, fill := fill } : REntry).e.vlc = s.cur := hvlc
  rw [hfield] at hrq hviq hme hother
  rw [hsame] at hrq hme
  have htme : t.me = { f s.me with estart := 0, cost := s.me.cost + cost } := by rw [State.me, hcur]; exact hme
  have hv : t.me.v = (f s.me).v := by rw [htme]
  have hk : (f s.me).k = s.me.k := by rw [hf]
  refine ⟨⟨⟨?_, fun n hn => (hother n hn).trans (hsame n), ?_, ?_⟩, _, hrq.trans (by rw [vaultOf, hu.rq]), rfl, rfl, rfl, rfl, rfl, ?_, ?_, ?_, ?_⟩, hv⟩
  · rw [hv, htme, ← hf]
  · exact (wordDone_mem ..).trans hu.mem
  · rw [coreOf, getCore, getCore, hu.cores] at hviq
    exact hviq
  · exact congrArg Vlc.v (congrArg (getVlc s) hvlc)
  · exact congrArg Vlc.k (congrArg (getVlc s) hvlc)
  · exact hv.symm
  · exact hk

omit hvlc hu in
theorem slice_wordDone (r : REntry) (cost : Nat) (f : Vlc → Vlc) (v : Nat) : (getVault (wordDone r cost f u) v).slice = (getVault u v).slice := by
  by_cases hv : v = vaultOf r.e.vlc
  · rw [hv, wordDone, getVault_updVault_same]
    rfl
  · obtain ⟨-, -, -, -, -, -, hvault⟩ := wordDone_spec r cost f u
    rw [hvault v hv]

/-- A word that has executed and has changed no register. -/
theorem executed_wordDone_id (els : List Nat) (fill : Option (Nat × Nat)) (fl cost : Nat) :
    Executed s (wordDone { reEntry s e fl with els := els, fill := fill } cost id u) e cost s.me fl := by
  obtain ⟨h, hv⟩ := executed_wordDone hvlc hu els fill fl cost (f := id) rfl
  have hme : ({ s.me with v := (wordDone { reEntry s e fl with els := els, fill := fill } cost id u).me.v } : Vlc) = s.me := by rw [hv]; rfl
  rwa [hme] at h

/-- A word that has executed and has written elements of one group. -/
theorem groupOut_wordDone (els : List Nat) (fill : Option (Nat × Nat)) (fl cost : Nat) {f : Vlc → Vlc} {d k w : Nat} {l : List (Nat × Nat)}
    {val : Nat → Option Nat} (hl : WritesVals w l val) (hf : f s.me = putGroup (vlenOf s s.cur) d k w l s.me) :
    let t := wordDone { reEntry s e fl with els := els, fill := fill } cost f u
    Executed s t e cost { s.me with v := t.me.v } fl ∧ GroupOut s t d k w val := by
  intro t
  obtain ⟨h, hv⟩ := executed_wordDone hvlc hu els fill fl cost (f := f) (by rw [hf]; exact putGroup_v ..)
  refine ⟨h, fun j hj => ?_, fun q hq => ?_⟩
  · rw [groupN_congr hv, hf]
    exact elemN_putGroup (vlenOf_le ..) hl s.me hj
  · rw [hv, hf]
    exact tget_putGroup_outside _ _ hq

end

/-! ### Element-wise words (R196, R203) -/

/-- The elements that a word computes. -/
def elementsOf (s : State) (e : VEntry) (m : VMask) : List Nat := (upto e.vl).filter (fun j => firstEl s.me e ≤ j && active s.me m j)

theorem mem_elementsOf {s : State} {e : VEntry} {m : VMask} {j : Nat} : j ∈ elementsOf s e m ↔ computes s e m j = true := by
  rw [elementsOf, List.mem_filter, List.mem_range, computes]
  simp only [Bool.and_eq_true, decide_eq_true_eq]
  tauto

theorem runEl_ready {mk : VCtx → ElOp} {s : State} {e : VEntry} (hready : WordReady s e true) :
    runEl mk s = wordDone { reEntry s e (applyEl (wordCtx s e) (mk (wordCtx s e)) (firstEl s.me e) e.vl).2 with
      els := elementsOf s e (mk (wordCtx s e)).m } (unitsOf s e) (fun _ => (applyEl (wordCtx s e) (mk (wordCtx s e)) (firstEl s.me e) e.vl).1) s := by
  have hfull : ∀ n l rs, firstEmpty (wordCtx s e).v n l rs = none := firstEmpty_none hready.2
  rw [runEl, hready.runs]
  dsimp only
  rw [vctx_eq hready.1.2.1, hfull]
  rfl

/-- An element-wise word leaves what its operation says of each element that it computes. -/
theorem elementsOut_of {i : Instr} {s : State} {e : VEntry} {mk : VCtx → ElOp} {d k w : Nat} {m : VMask} {f : Nat → Nat × Nat} {rs : List VRead}
    (hready : WordReady s e true) (hexec : exec i s = .next (runEl mk s)) (hop : mk (wordCtx s e) = { d := d, k := k, w := w, m := m, reads := rs, fn := f }) :
    ElementsOut i s e d k w m f := by
  have hrun := runEl_ready (mk := mk) hready
  rw [hop] at hrun
  have happly : applyEl (wordCtx s e) { d := d, k := k, w := w, m := m, reads := rs, fn := f } (firstEl s.me e) e.vl =
      (putGroup (vlenOf s s.cur) d k w ((elementsOf s e m).map (fun j => (j, (f j).1))) s.me, (elementsOf s e m).foldl (fun fl j => fl ||| (f j).2) 0) := by
    rw [applyEl]
    dsimp only
    rw [if_neg Bool.false_ne_true, List.foldl_map, List.foldl_map, putGroup, putElems, List.foldl_map, List.isEmpty_map]
    rfl
  rw [happly] at hrun
  have hvals : WritesVals w ((elementsOf s e m).map (fun j => (j, (f j).1))) (fun j => if computes s e m j then some (f j).1 else none) :=
    writesVals_map (fun j hj => ⟨_, if_pos (mem_elementsOf.1 hj), rfl⟩) (fun j hj => if_neg (fun h => hj (mem_elementsOf.2 h)))
  obtain ⟨hdone, hgroup⟩ := groupOut_wordDone hready.1.2.1 (.refl s) (elementsOf s e m) none ((elementsOf s e m).foldl (fun fl j => fl ||| (f j).2) 0) (unitsOf s e)
    (f := fun _ => putGroup (vlenOf s s.cur) d k w ((elementsOf s e m).map (fun j => (j, (f j).1))) s.me) hvals rfl
  refine ⟨_, _, hexec.trans (congrArg _ hrun), hdone, hgroup, fun b => ?_⟩
  rw [testBit_flags]
  exact exists_congr fun j => and_congr_left fun _ => mem_elementsOf

/-! ### Words that take effect whole (R203) -/

/-- A word that takes effect whole and writes a list of elements of one group. -/
theorem wholeWord_of {i : Instr} {s : State} {e : VEntry} {mk : VCtx → WOp} {d k w fl : Nat} {l : List (Nat × Nat)} {val : Nat → Option Nat}
    (hready : WordReady s e true) (hexec : exec i s = .next (runWhole mk noFill s))
    (heff : (mk (wordCtx s e)).eff s.me = (putGroup (vlenOf s s.cur) d k w l s.me, fl)) (hl : WritesVals w l val) :
    ∃ t, exec i s = .next t ∧ Executed s t e (wordCycles s e e.vl) { s.me with v := t.me.v } fl ∧ GroupOut s t d k w val := by
  have hfull : ∀ n l rs, firstEmpty (wordCtx s e).v n l rs = none := firstEmpty_none hready.2
  have hhits : (mk (wordCtx s e)).reads.filter (fun p => (firstEmpty (wordCtx s e).v (wordCtx s e).vlen p.2 [p.1]).isSome) = [] :=
    List.filter_eq_nil_iff.2 (fun p _ => by rw [hfull]; exact Bool.false_ne_true)
  have hrun : runWhole mk noFill s = wordDone { reEntry s e fl with fill := none } (wordCycles s e e.vl)
      (fun _ => putGroup (vlenOf s s.cur) d k w l s.me) s := by
    have hctx : (wordCtx s e).v = s.me := rfl
    rw [runWhole, hready.runs]
    dsimp only
    rw [vctx_eq hready.1.2.1, hhits, hctx, heff]
    rfl
  obtain ⟨hdone, hgroup⟩ := groupOut_wordDone hready.1.2.1 (.refl s) (upto e.vl) none fl (wordCycles s e e.vl)
    (f := fun _ => putGroup (vlenOf s s.cur) d k w l s.me) hl rfl
  exact ⟨_, hexec.trans (congrArg _ hrun), hdone, hgroup⟩

end Sys2Proof.Machine
end

section
/-! SUPPORT. Reductions and permutes (R148, R222, R224 to R227): each writes a list of elements of one group. -/
namespace Sys2Proof.Machine

/-! ### Reductions (R222) -/

section
variable {s : State} {e : VEntry} (hready : WordReady s e true)
include hready

/-- A reduction writes element 0 of one register. -/
theorem reduce_out {i : VVop → Instr} {f : VCtx → Nat → List Nat → FRes} {comb : Nat → List Nat → FRes}
    (hexec : ∀ o, exec (i o) s = .next (runWhole (reduce o f) noFill s)) (hcomb : ∀ b l, f (wordCtx s e) b l = comb b l) (o : VVop) :
    let b := oldOf s o.vb 1 (sewBits e.sew) 0
    let l := ((List.range e.vl).filter (fun j => active s.me o.m j)).map (fun j => srcOf s o.va o.ma (grpN e.grp) (sewBits e.sew) j)
    let r := if l = [] then (b, 0) else comb b l
    ∃ t, exec (i o) s = .next t ∧ Executed s t e (wordCycles s e e.vl) { s.me with v := t.me.v } r.2 ∧
      GroupOut s t o.vd.toNat 1 (sewBits e.sew) (fun j => if j = 0 then some r.1 else none) := by
  intro b l r
  refine wholeWord_of (l := [(0, r.1)]) hready (hexec o) ?_ (fun j => ?_)
  · have hempty : ((List.range e.vl).filter (fun j => active s.me o.m j)).isEmpty = decide (l = []) := by
      rw [Bool.eq_iff_iff, List.isEmpty_iff, decide_eq_true_eq, List.map_eq_nil_iff]
    have hr : (if ((List.range e.vl).filter (fun j => active s.me o.m j)).isEmpty then (b, 0) else f (wordCtx s e) b l) = r := by
      rw [hempty, hcomb]
      simp only [decide_eq_true_eq, r]
    rw [← hr]
    rfl
  · by_cases hj : j = 0
    · rw [if_pos hj]
      simp [hj]
    · rw [if_neg hj]
      simpa using fun h => hj h.symm

end

/-! ### Permutes (R224 to R227) -/

/-- Whether element `j` of a word that takes effect whole is active and below VL. -/
def onEl (s : State) (e : VEntry) (m : VMask) (j : Nat) : Bool := decide (j < e.vl) && active s.me m j

theorem mem_on {s : State} {e : VEntry} {m : VMask} {j : Nat} : j ∈ (wordCtx s e).on m ↔ onEl s e m j = true := by
  rw [VCtx.on, List.mem_filter, List.mem_range, onEl, Bool.and_eq_true, decide_eq_true_eq]
  rfl

/-- What a permute writes when element `j`, if it is active, takes the value `f j`, or stays. -/
theorem writesVals_filterMap {w : Nat} {l : List Nat} {f : Nat → Option Nat} {p : Nat → Bool} (hl : ∀ j, j ∈ l ↔ p j = true) :
    WritesVals w (l.filterMap (fun j => (f j).map (fun x => (j, x)))) (fun j => if p j then f j else none) := by
  intro j
  have hmem : ∀ q, q ∈ l.filterMap (fun j => (f j).map (fun x => (j, x))) → p q.1 = true ∧ f q.1 = some q.2 := fun q hq => by
    obtain ⟨k, hk, hq⟩ := List.mem_filterMap.1 hq
    obtain ⟨x, hx, rfl⟩ := Option.map_eq_some_iff.1 hq
    exact ⟨(hl k).1 hk, hx⟩
  dsimp only
  split
  · next x hx =>
    obtain ⟨hp, hf⟩ : p j = true ∧ f j = some x := by simpa using hx
    refine ⟨⟨(j, x), List.mem_filterMap.2 ⟨j, (hl j).2 hp, by rw [hf]; rfl⟩, rfl⟩, fun q hq hqj => ?_⟩
    obtain ⟨-, hq⟩ := hmem q hq
    rw [hqj, hf] at hq
    rw [Option.some.inj hq]
  · next hx =>
    intro q hq hqj
    obtain ⟨hp, hf⟩ := hmem q hq
    rw [hqj] at hp hf
    simp [hp, hf] at hx

section
variable {s : State} {e : VEntry} (hready : WordReady s e true)
include hready

/-- A permute whose active element `j` takes element `k` of va for `src j = some (some k)`, 0 for `some none`, and stays for `none`. -/
theorem gather_out {i : Instr} {mk : VCtx → WOp} {vd va : BitVec 5} {ma : BitVec 3} {m : VMask} {fa : Bool} {src : Nat → Option (Option Nat)}
    {extra : List (VRead × List Nat)} (hexec : exec i s = .next (runWhole mk noFill s))
    (hmk : mk (wordCtx s e) = gatherOp vd va ma m fa src extra (wordCtx s e)) {val : Nat → Option Nat}
    (hval : ∀ j, val j = if onEl s e m j then (src j).map (fun k => match k with | some k => srcOf s va ma (grpN e.grp) (sewBits e.sew) k | none => 0) else none) :
    WholeOut i s e vd.toNat (grpN e.grp) (sewBits e.sew) val := by
  obtain rfl : val = _ := funext hval
  have hlist : ((wordCtx s e).on m).filterMap (fun j => match src j with
      | some (some k) => some (j, srcElem ((wordCtx s e).str va.toNat (wordCtx s e).g) (wordCtx s e).sew ma k)
      | some none => some (j, 0)
      | none => none) = ((wordCtx s e).on m).filterMap (fun j =>
        ((src j).map (fun k => match k with | some k => srcOf s va ma (grpN e.grp) (sewBits e.sew) k | none => 0)).map (fun x => (j, x))) :=
    List.filterMap_congr (fun j _ => by rcases src j with _ | _ | k <;> rfl)
  refine wholeWord_of hready hexec ?_ (writesVals_filterMap (fun j => mem_on))
  rw [hmk, ← hlist]
  rfl

theorem slideUp_out {i : Instr} {mk : VCtx → WOp} {vd va : BitVec 5} {ma : BitVec 3} {m : VMask} {fa : Bool} {off : Nat}
    (hexec : exec i s = .next (runWhole mk noFill s)) (hmk : mk (wordCtx s e) = slideUp vd va ma m fa off (wordCtx s e)) :
    WholeOut i s e vd.toNat (grpN e.grp) (sewBits e.sew) (fun j => if onEl s e m j then
      (if off ≤ j then some (srcOf s va ma (grpN e.grp) (sewBits e.sew) (j - off)) else none) else none) := by
  refine gather_out hready hexec hmk (fun j => ?_)
  by_cases hj : off ≤ j <;> simp [hj]

theorem slideDown_out {i : Instr} {mk : VCtx → WOp} {vd va : BitVec 5} {ma : BitVec 3} {m : VMask} {fa : Bool} {off : Nat}
    (hexec : exec i s = .next (runWhole mk noFill s)) (hmk : mk (wordCtx s e) = slideDown vd va ma m fa off (wordCtx s e)) :
    WholeOut i s e vd.toNat (grpN e.grp) (sewBits e.sew) (fun j => if onEl s e m j then
      some (if j + off < e.vl then srcOf s va ma (grpN e.grp) (sewBits e.sew) (j + off) else 0) else none) := by
  refine gather_out hready hexec hmk (fun j => ?_)
  by_cases hj : j + off < e.vl <;> simp [hj, wordCtx]

/-- `vslide1up`: the scalar enters element 0 (R224). -/
theorem slide1up_out (o : VXop) : WholeOut (.vslide1up o) s e o.vd.toNat (grpN e.grp) (sewBits e.sew) (fun j => if onEl s e o.m j then
    some (if j = 0 then e.xb.toNat else srcOf s o.va o.ma (grpN e.grp) (sewBits e.sew) (j - 1)) else none) := by
  refine wholeWord_of hready rfl rfl (writesVals_map (fun j hj => ⟨_, if_pos (mem_on.1 hj), ?_⟩) (fun j hj => if_neg (fun h => hj (mem_on.2 h))))
  by_cases h0 : j = 0
  · rw [if_pos h0, if_pos h0]
    exact Nat.mod_mod ..
  · rw [if_neg h0, if_neg h0]
    rfl

/-- `vrgather`: an index at or above VL gives 0 (R225). -/
theorem rgather_out (o : VVop) : WholeOut (.vrgather o) s e o.vd.toNat (grpN e.grp) (sewBits e.sew) (fun j =>
    if onEl s e o.m j then some (if srcOf s o.vb o.mb (grpN e.grp) (sewBits e.sew) j < e.vl then
      srcOf s o.va o.ma (grpN e.grp) (sewBits e.sew) (srcOf s o.vb o.mb (grpN e.grp) (sewBits e.sew) j) else 0) else none) := by
  have hexec : exec (.vrgather o) s = .next (runWhole (fun c =>
      gatherOp o.vd o.va o.ma o.m o.fa (fun i =>
        if srcElem (c.str o.vb.toNat c.g) c.sew o.mb i < c.e.vl then some (some (srcElem (c.str o.vb.toNat c.g) c.sew o.mb i)) else some none)
        [({ r := o.vb.toNat, w := c.sew, fe := o.fb, ix := modIx c.sew o.mb }, c.on o.m)] c) noFill s) := rfl
  refine gather_out hready hexec rfl (fun j => ?_)
  have hidx : srcElem ((wordCtx s e).str o.vb.toNat (wordCtx s e).g) (wordCtx s e).sew o.mb j = srcOf s o.vb o.mb (grpN e.grp) (sewBits e.sew) j := rfl
  have hvl : (wordCtx s e).e.vl = e.vl := rfl
  rw [hidx, hvl]
  split_ifs <;> rfl

/-- `vcompress`: the active elements in order (R226). -/
theorem compress_out (o : VUop) : WholeOut (.vcompress o) s e o.vd.toNat (grpN e.grp) (sewBits e.sew) (fun j =>
    (((List.range e.vl).filter (fun j => active s.me o.m j))[j]?).map (fun k => srcOf s o.va o.ma (grpN e.grp) (sewBits e.sew) k)) := by
  refine wholeWord_of hready rfl rfl (fun j => ?_)
  have hmem : ∀ q, q ∈ ((wordCtx s e).on o.m).mapIdx (fun k i => (k, srcElem ((wordCtx s e).str o.va.toNat (wordCtx s e).g) (wordCtx s e).sew o.ma i)) ↔
      ((List.range e.vl).filter (fun j => active s.me o.m j))[q.1]?.map (fun k => srcOf s o.va o.ma (grpN e.grp) (sewBits e.sew) k) = some q.2 := fun q => by
    rw [List.mem_iff_getElem?, Option.map_eq_some_iff]
    constructor
    · rintro ⟨k, hk⟩
      rw [List.getElem?_mapIdx] at hk
      obtain ⟨x, hx, rfl⟩ := Option.map_eq_some_iff.1 hk
      exact ⟨x, hx, rfl⟩
    · rintro ⟨x, hx, hq⟩
      exact ⟨q.1, by rw [List.getElem?_mapIdx]; exact Option.map_eq_some_iff.2 ⟨x, hx, by rw [Prod.ext_iff]; exact ⟨rfl, hq⟩⟩⟩
  split
  · next x hx =>
    refine ⟨⟨(j, x), (hmem _).2 hx, rfl⟩, fun q hq hqj => ?_⟩
    have hq := (hmem q).1 hq
    rw [hqj, hx] at hq
    rw [Option.some.inj hq]
  · next hx =>
    intro q hq hqj
    have hq := (hmem q).1 hq
    rw [hqj, hx] at hq
    cases hq

end

/-! ### Transposes (R227) -/

/-- Position `i / l` of row `i % l` in the transpose, and back. -/
theorem transpose_inverse {rows l p : Nat} (hp : p < rows * l) :
    p % rows * l + p / rows < rows * l ∧ (p % rows * l + p / rows) % l * rows + (p % rows * l + p / rows) / l = p := by
  have hrows : 0 < rows := Nat.pos_of_ne_zero (fun h => by simp [h] at hp)
  have hl : 0 < l := Nat.pos_of_ne_zero (fun h => by simp [h] at hp)
  have hdiv : p / rows < l := by rwa [Nat.div_lt_iff_lt_mul hrows, Nat.mul_comm]
  have hmod : p % rows < rows := Nat.mod_lt _ hrows
  have hle : (p % rows + 1) * l ≤ rows * l := Nat.mul_le_mul_right l hmod
  rw [Nat.add_mul, Nat.one_mul] at hle
  refine ⟨by omega, ?_⟩
  rw [Nat.add_comm (p % rows * l), Nat.add_mul_mod_self_right, Nat.mod_eq_of_lt hdiv, Nat.add_mul_div_right _ _ hl, Nat.div_eq_of_lt hdiv, Nat.zero_add,
    Nat.mul_comm, Nat.div_add_mod]

theorem transpose_place {rows l i : Nat} (hi : i < rows * l) :
    (i % l * rows + i / l) % rows * l + (i % l * rows + i / l) / rows = i ∧ i % l * rows + i / l < rows * l := by
  have h := transpose_inverse (rows := l) (l := rows) (p := i) (by rwa [Nat.mul_comm])
  rw [Nat.mul_comm l rows] at h
  exact ⟨h.2, h.1⟩

/-- `vreshp` (R227). -/
theorem reshape_out {s : State} {e : VEntry} (hready : WordReady s e true) (o : RSHop) {u rows : Nat}
    (hu : u = if o.u = 0 then sewBits e.sew else if o.u = 1 then 256 else 128)
    (hrows : rows = if e.xb.toNat = 0 ∨ e.xb.toNat > e.vl * sewBits e.sew / u then 0 else e.vl * sewBits e.sew / u / e.xb.toNat) :
    WholeOut (.vreshp o) s e o.vd.toNat (grpN e.grp) u (fun p => if p < rows * e.xb.toNat then
      some (elemN (srcString (groupN s.me (vlenOf s s.cur) o.va.toNat (grpN e.grp)) (sewBits e.sew) e.vl o.ma) u (p % rows * e.xb.toNat + p / rows)) else none) := by
  have hunit : (match o.u.toNat with | 0 => sewBits e.sew | 1 => 256 | _ => 128) = u := by
    rw [hu]
    have hcases : ∀ b : BitVec 2, b = 0 ∨ b = 1 ∨ b = 2 ∨ b = 3 := by decide
    rcases hcases o.u with h | h | h | h <;> rw [h] <;> rfl
  refine wholeWord_of hready (l := (upto (rows * e.xb.toNat)).map (fun i => (i % e.xb.toNat * rows + i / e.xb.toNat,
    elemN (srcString (groupN s.me (vlenOf s s.cur) o.va.toNat (grpN e.grp)) (sewBits e.sew) e.vl o.ma) u i))) rfl ?_ (fun p => ?_)
  · rw [hrows, ← hunit]
    rfl
  · split
    · next x hx =>
      obtain ⟨hp, hx⟩ := Option.ite_none_right_eq_some.1 hx
      obtain rfl := Option.some.inj hx
      obtain ⟨hlt, hback⟩ := transpose_inverse hp
      refine ⟨⟨_, List.mem_map_of_mem (List.mem_range.2 hlt), hback⟩, fun q hq hqp => ?_⟩
      obtain ⟨i, hi, rfl⟩ := List.mem_map.1 hq
      rw [← hqp, (transpose_place (List.mem_range.1 hi)).1]
    · next hx =>
      intro q hq hqp
      obtain ⟨i, hi, rfl⟩ := List.mem_map.1 hq
      have hlt := (transpose_place (List.mem_range.1 hi)).2
      rw [if_pos (hqp ▸ hlt)] at hx
      cases hx

/-- Settles O40. -/
theorem reductionsAndPermutes : Obligations.ReductionsAndPermutes := by
  unfold Obligations.ReductionsAndPermutes
  intro s e hready w g mb on act Red Slide
  have hred {i : VVop → Instr} {f : VCtx → Nat → List Nat → FRes} {comb : Nat → List Nat → FRes}
      (hexec : ∀ o, exec (i o) s = .next (runWhole (reduce o f) noFill s)) (hcomb : ∀ b l, f (wordCtx s e) b l = comb b l) : Red i comb :=
    reduce_out hready hexec hcomb
  clear_value Red
  exact ⟨hred (fun _ => rfl) (fun _ _ => rfl), hred (fun _ => rfl) (fun _ _ => rfl), hred (fun _ => rfl) (fun _ _ => rfl), hred (fun _ => rfl) (fun _ _ => rfl),
    hred (fun _ => rfl) (fun _ _ => rfl), hred (fun _ => rfl) (fun _ _ => rfl), hred (fun _ => rfl) (fun _ _ => rfl), hred (fun _ => rfl) (fun _ _ => rfl),
    fun o => ⟨slideUp_out hready rfl rfl, slideDown_out hready rfl rfl, slide1up_out hready o⟩,
    fun o => ⟨slideUp_out hready rfl rfl, slideDown_out hready rfl rfl⟩, rgather_out hready, compress_out hready, fun o => reshape_out hready o rfl rfl⟩

end Sys2Proof.Machine
end

section
/-! SUPPORT. Words of the matrix slice that read M rows: when they run, and the accumulators that they write (R237, R238, R241, R374). -/
namespace Sys2Proof.Machine

/-! ### The grid of accumulators (R238) -/

/-- The list names every place (r, c) of `m` rows of 32 once with its value `f r c`, and no other. -/
def IsGrid {α : Type} (m : Nat) (f : Nat → Nat → α) (l : List (Nat × α)) : Prop :=
  ∀ p, p ∈ l ↔ ∃ r c, r < m ∧ c < 32 ∧ p = (32 * r + c, f r c)

theorem isGrid_range {α : Type} (m : Nat) (f : Nat → Nat → α) : IsGrid m f ((upto (32 * m)).map (fun i => (i, f (i / 32) (i % 32)))) := by
  refine fun p => ⟨fun h => ?_, ?_⟩
  · obtain ⟨i, hi, rfl⟩ := List.mem_map.1 h
    have hi := List.mem_range.1 hi
    exact ⟨i / 32, i % 32, by omega, by omega, by rw [Nat.div_add_mod]⟩
  · rintro ⟨r, c, hr, hc, rfl⟩
    refine List.mem_map.2 ⟨32 * r + c, List.mem_range.2 (by omega), ?_⟩
    rw [show (32 * r + c) / 32 = r by omega, show (32 * r + c) % 32 = c by omega]

theorem isGrid_rows {α : Type} (m : Nat) (f : Nat → Nat → α) : IsGrid m f ((upto m).flatMap (fun r => (upto 32).map (fun c => (32 * r + c, f r c)))) := by
  intro p
  simp only [List.mem_flatMap, List.mem_map, List.mem_range]
  constructor
  · rintro ⟨r, hr, c, hc, rfl⟩
    exact ⟨r, c, hr, hc, rfl⟩
  · rintro ⟨r, c, hr, hc, rfl⟩
    exact ⟨r, hr, c, hc, rfl⟩

theorem IsGrid.map {α β : Type} {m : Nat} {f : Nat → Nat → α} {l : List (Nat × α)} (h : IsGrid m f l) (g : α → β) :
    IsGrid m (fun r c => g (f r c)) (l.map (fun x => (x.1, g x.2))) := by
  refine fun p => ⟨fun hp => ?_, ?_⟩
  · obtain ⟨x, hx, rfl⟩ := List.mem_map.1 hp
    obtain ⟨r, c, hr, hc, rfl⟩ := (h x).1 hx
    exact ⟨r, c, hr, hc, rfl⟩
  · rintro ⟨r, c, hr, hc, rfl⟩
    exact List.mem_map.2 ⟨_, (h _).2 ⟨r, c, hr, hc, rfl⟩, rfl⟩

theorem IsGrid.any {α : Type} {m : Nat} {f : Nat → Nat → α} {l : List (Nat × α)} (h : IsGrid m f l) (p : α → Prop) :
    (∃ x ∈ l, p x.2) ↔ ∃ r c, r < m ∧ c < 32 ∧ p (f r c) := by
  constructor
  · rintro ⟨x, hx, hp⟩
    obtain ⟨r, c, hr, hc, rfl⟩ := (h x).1 hx
    exact ⟨r, c, hr, hc, hp⟩
  · rintro ⟨r, c, hr, hc, hp⟩
    exact ⟨_, (h _).2 ⟨r, c, hr, hc, rfl⟩, hp⟩

/-- Rows and columns that carry their numbers. -/
theorem zipIdx_upto {α β : Type} (n : Nat) (f : Nat → α) (g : α × Nat → β) : ((upto n).map f).zipIdx.map g = (upto n).map (fun j => g (f j, j)) := by
  refine List.ext_getElem (by simp) (fun i h1 h2 => by simp)

/-! ### Writing accumulators (R374) -/

theorem putAccs_cons (l : Slice) (x : Nat × BitVec 32) (ws : List (Nat × BitVec 32)) :
    putAccs l (x :: ws) = putAccs { l with c := tset 0 l.c x.1 x.2, rho := tset 0 l.rho x.1 (resOf x.2) } ws := rfl

theorem putAccs_off {i : Nat} : ∀ {ws : List (Nat × BitVec 32)} {l : Slice}, (∀ p ∈ ws, p.1 ≠ i) → tget 0 (putAccs l ws).c i = tget 0 l.c i
  | [], _, _ => rfl
  | x :: ws, l, h => by
    rw [putAccs_cons, putAccs_off (fun p hp => h p (List.mem_cons_of_mem _ hp))]
    exact tget_tset_other 0 x.2 l.c (h x List.mem_cons_self).symm

theorem putAccs_on {i : Nat} {v : BitVec 32} : ∀ {ws : List (Nat × BitVec 32)} {l : Slice}, (∃ p ∈ ws, p.1 = i) → (∀ p ∈ ws, p.1 = i → p.2 = v) →
    tget 0 (putAccs l ws).c i = v
  | [], _, hsome, _ => absurd hsome (by simp)
  | x :: ws, l, hsome, hval => by
    rw [putAccs_cons]
    by_cases hrest : ∃ p ∈ ws, p.1 = i
    · exact putAccs_on hrest (fun p hp => hval p (List.mem_cons_of_mem _ hp))
    · have hx : x.1 = i := by
        obtain ⟨p, hp, hpi⟩ := hsome
        rcases List.mem_cons.1 hp with rfl | hp
        · exact hpi
        · exact absurd ⟨p, hp, hpi⟩ hrest
      rw [putAccs_off (fun p hp hpi => hrest ⟨p, hp, hpi⟩), ← hx]
      exact (tget_tset_same 0 x.2 l.c x.1).trans (hval x List.mem_cons_self hx)

/-- Accumulators once a grid has been written. -/
theorem accN_putAccs {m : Nat} {f : Nat → Nat → BitVec 32} {ws : List (Nat × BitVec 32)} (h : IsGrid m f ws) (l : Slice) {r c : Nat} (hc : c < 32) :
    accN (putAccs l ws) r c = if r < m then (f r c).toNat else accN l r c := by
  rw [accN]
  split_ifs with hr
  · refine congrArg BitVec.toNat (putAccs_on ⟨_, (h _).2 ⟨r, c, hr, hc, rfl⟩, rfl⟩ (fun p hp hpi => ?_))
    obtain ⟨r', c', -, hc', rfl⟩ := (h p).1 hp
    have hplace : 32 * r' + c' = 32 * r + c := hpi
    obtain ⟨rfl, rfl⟩ : r' = r ∧ c' = c := by omega
    rfl
  · rw [putAccs_off (fun p hp hpi => ?_), accN]
    obtain ⟨r', c', hr', hc', rfl⟩ := (h p).1 hp
    have hplace : 32 * r' + c' = 32 * r + c := hpi
    omega

/-- Values written to the accumulators of `m` rows. -/
theorem accOut_putAccs {s t : State} {m : Nat} {f : Nat → Nat → FRes} {res : List (Nat × FRes)} (h : IsGrid m f res)
    (hslice : (getVault t (s.cur / 8)).slice = putAccs (getVault s (s.cur / 8)).slice (res.map (fun x => (x.1, BitVec.ofNat 32 x.2.1)))) :
    AccOut s t m (fun r c => (f r c).1) := by
  intro r c hc
  rw [hslice, accN_putAccs (h.map (fun q => BitVec.ofNat 32 q.1)) _ hc]
  simp only [BitVec.toNat_ofNat]

/-! ### When a matrix word runs (R237, R239, R244) -/

/-- A word that may execute but for empty elements. -/
theorem WordFirst.runs {s : State} {e : VEntry} {q : Bool} (h : WordFirst s e true) (k : VEntry → State → State) : withWord q k s = k e s := by
  obtain ⟨hhead, hvlc, hruns, hbrk, hread, hroom⟩ := h
  have hs : ({ s with cur := e.vlc } : State) = s := by rw [hvlc]
  have h := withWord_runs (q := q) k hhead (by rw [hs]; exact hruns) (fun _ => by rw [hvlc]; exact hroom rfl) (by rw [hvlc]; exact hbrk) hread
  rwa [hs] at h

section
variable {s : State} {e : VEntry} (h : MatrixFirst s e)
include h

theorem MatrixFirst.vlc : e.vlc = s.cur := h.1.2.1

theorem MatrixFirst.sliceOf : sliceOf s e.vlc = (getVault s (s.cur / 8)).slice := by rw [Machine.sliceOf, h.vlc, vaultOf]

theorem MatrixFirst.claims (all : Bool) (k : VEntry → State → State) : withClaim all k s = k e s := by
  obtain ⟨hfirst, hholder, hrq⟩ := h
  have hvlc : e.vlc = s.cur := hfirst.2.1
  have hclaim : holdsClaim s e.vlc = true := by
    rw [holdsClaim, Machine.sliceOf, hvlc, vaultOf, hholder, beq_self_eq_true]
  have hbusy : sliceBusy s e.vlc all = false := by rw [sliceBusy, hvlc, hrq, List.any_nil]
  rw [withClaim, hfirst.runs, hclaim, hbusy]
  rfl

/-- A word whose VL gives `m` rows runs on them when it finds none of what it reads empty. -/
theorem MatrixFirst.rows {m : Nat} (hm : e.vl * sewBits e.sew = 1536 * m) {all : Bool} {reads : List MRead} (k : VEntry → Nat → VCtx → State → State)
    (hfull : ∀ p ∈ reads, bytesEmpty s.me (vlenOf s s.cur) p.r (p.uses (getVault s (s.cur / 8)).slice m) = false) :
    withRows all reads k s = k e m (wordCtx s e) s := by
  have hrows : rowCount e = some m := by
    rw [rowCount]
    rw [hm, Nat.mul_mod_right, if_pos rfl, Nat.mul_div_cancel_left _ (by decide)]
  have hhits : reads.filter (fun p => bytesEmpty (wordCtx s e).v (wordCtx s e).vlen p.r (p.uses (getVault s (s.cur / 8)).slice m)) = [] :=
    List.filter_eq_nil_iff.2 (fun p hp => by rw [show (wordCtx s e).v = s.me from rfl, show (wordCtx s e).vlen = vlenOf s s.cur from rfl, hfull p hp]; exact Bool.false_ne_true)
  rw [withRows, h.claims, hrows]
  dsimp only
  rw [vctx_eq h.vlc, h.sliceOf, hhits]
  rfl

end

theorem bytesEmpty_full {v : Vlc} (h : v.vempty = []) (n r : Nat) (read : Nat → Bool) : bytesEmpty v n r read = false := by rw [bytesEmpty, h, List.any_nil]

theorem bytesEmpty_unread (v : Vlc) (n r : Nat) {read : Nat → Bool} (h : ∀ b, read b = false) : bytesEmpty v n r read = false :=
  List.any_eq_false.2 (fun p _ => by rw [h, Bool.and_false]; exact Bool.false_ne_true)

/-- A word that retires as it executes (R243, R253). -/
theorem retireNow_leaves {s u : State} {e : VEntry} (hvlc : e.vlc = s.cur) (hu : SliceOnly s u) (cost : Nat) :
    LeftQueue s (retireNow e cost u) e cost s.me ∧ ∀ v, (getVault (retireNow e cost u) v).slice = (getVault u v).slice := by
  have hsame : ∀ n, getVlc u n = getVlc s n := fun n => by rw [getVlc, hu.vlcs, getVlc]
  have hcur : (retireNow e cost u).cur = s.cur := hu.cur
  refine ⟨⟨?_, fun n hn => ?_, hu.mem, ?_⟩, fun v => rfl⟩
  · rw [State.me, hcur, retireNow, dropWord, getVlc_updCore, hvlc, getVlc_updVlc_same, hsame]
    rfl
  · rw [retireNow, dropWord, getVlc_updCore, hvlc, getVlc_updVlc_other _ _ hn, hsame]
  · rw [retireNow, dropWord, hvlc, coreOf, getCore_updCore_same, getCore_updVlc, getCore, hu.cores, getCore]

end Sys2Proof.Machine
end

section
/-! SUPPORT. Integer multiply-accumulate: the residue checks of a slice without errors, the accumulators and MSTAT (R146, R249, R374, R375). -/
namespace Sys2Proof.Machine

/-! ### The residue checks (R375) -/

theorem dot_cons (x y : Int) (a b : List Int) : dot (x :: a) (y :: b) = x * y + dot a b := by
  have hsum : ∀ (l : List Int) (z : Int), l.foldl (· + ·) z = z + l.foldl (· + ·) 0 := fun l => by
    induction l with
    | nil => intro z; simp
    | cons w l ih => intro z; rw [List.foldl_cons, List.foldl_cons, ih, ih (0 + w)]; ring
  rw [dot, List.zipWith_cons_cons, List.foldl_cons, hsum, dot, zero_add]

/-- The exact sum and the sum of the residues of the fields agree mod 3. -/
theorem dot_residues : ∀ a b : List Int, dot (a.map (· % 3)) (b.map (· % 3)) % 3 = dot a b % 3
  | [], _ => rfl
  | _ :: _, [] => rfl
  | x :: a, y :: b => by
    rw [List.map_cons, List.map_cons, dot_cons, dot_cons, Int.add_emod, dot_residues a b, ← Int.mul_emod, ← Int.add_emod]

theorem resOf_toNat (w : BitVec 32) : ((resOf w).toNat : Int) = w.toInt % 3 := by
  rw [resOf, BitVec.toNat_ofNat]
  omega

theorem sx_toNat (w : BitVec 32) : sx 32 w.toNat = w.toInt := by
  have := w.isLt
  simp only [sx, BitVec.toInt_eq_toNat_cond, Nat.mod_eq_of_lt this]
  norm_num
  split_ifs <;> omega

/-- A sum that is saturated to 32 bits is a 32-bit pattern's value. -/
theorem toInt_ofInt_satI (x : Int) : (BitVec.ofInt 32 (satI x 32)).toInt = satI x 32 := by
  rw [BitVec.toInt_ofInt, satI]
  exact Int.bmod_eq_of_le (by omega) (by omega)

theorem toNat_ofInt (x : Int) : (BitVec.ofInt 32 x).toNat = tr 32 x := by rw [BitVec.toNat_ofInt, tr]

/-- The residue of a sum of residues (R374). -/
theorem resOf_add {old new : BitVec 32} {x : Int} (h : new.toInt = old.toInt + x) : (resOf new).toNat = ((resOf old).toNat + (x % 3).toNat) % 3 := by
  have hnew := resOf_toNat new
  have hold := resOf_toNat old
  omega

/-- Without an error in the datapath every check of R375 passes, and the accumulator folds the exact sum in (R146). -/
theorem accStep_good {l : Slice} (hslip : l.slip = none) (hres : ResiduesRight l) (f pos r : Nat) {c : Nat} (hc : c < 32) (a b : List Int) :
    (accStep l f pos (32 * r + c) a b).good = true ∧ (accStep l f pos (32 * r + c) a b).new = (foldAcc (accN l r c) (dot a b) f pos).1 ∧
      (accStep l f pos (32 * r + c) a b).sat = (foldAcc (accN l r c) (dot a b) f pos).2 := by
  have hslips : ∀ k i, slipAt l.slip k i = 0 := fun k i => by rw [hslip]; rfl
  have hplace : (32 * r + c) / 32 = r ∧ (32 * r + c) % 32 = c := by omega
  simp only [accStep, hslips, hplace.1, hplace.2, add_zero, dot_residues, beq_self_eq_true, Bool.true_and, foldAcc, toNat_ofInt, and_true]
  generalize hx : sx 32 (accN l r c) + (alignSum (dot a b) f pos).1 = x
  by_cases hfit : satI x 32 = x
  · have hnew : (BitVec.ofInt 32 (satI x 32)).toInt = (tget 0 l.c (32 * r + c)).toInt + (alignSum (dot a b) f pos).1 := by
      rw [toInt_ofInt_satI, hfit, ← hx, accN, sx_toNat]
    rw [resOf_add hnew, hres, beq_self_eq_true, Bool.or_true]
  · rw [bne_iff_ne.2 hfit, Bool.or_true, Bool.true_or]

/-! ### The words (R249) -/

/-- The new accumulators, row by row. -/
theorem mmaSteps_eq (t2 : Bool) (m str sl : Nat) (l : Slice) : mmaSteps t2 m str sl l = (upto m).flatMap (fun r => (upto 32).map (fun c => (32 * r + c,
    accStep l (mmaF l) (mmaPos l) (32 * r + c) (intFields (rowStr str r) (mmaWa l) (mmaK t2 l) (bitN l.prec.toNat 10))
      (if t2 then t2Fields (rowStr (tget 0 l.b sl).toNat c) (mmaK t2 l)
        else intFields (rowStr (tget 0 l.b sl).toNat c) (mmaWb t2 l) (mmaK t2 l) (bitN l.prec.toNat 26))))) := by
  rw [mmaSteps]
  dsimp only
  rw [List.flatMap_def, zipIdx_upto, ← List.flatMap_def]
  refine List.flatMap_congr (fun r _ => ?_)
  rw [zipIdx_upto]

/-- The bits of MSTAT after an integer multiply-accumulate: FP, FSET and SAT (R146). -/
theorem mstat_fields (ms pos : Nat) (sat : Bool) :
    let x := (wN (putFld (putFld (putFld ms 0 6 pos) 6 1 1) 7 1 (b2n sat))).toNat
    x % 64 = pos % 64 ∧ x / 64 % 2 = 1 ∧ (x / 128 % 2 = 1 ↔ sat = true) := by
  intro x
  have hbit : ∀ i, i < 64 → x.testBit i = (putFld (putFld (putFld ms 0 6 pos) 6 1 1) 7 1 (b2n sat)).testBit i := fun i hi => by
    rw [show x = putFld (putFld (putFld ms 0 6 pos) 6 1 1) 7 1 (b2n sat) % 2 ^ 64 from BitVec.toNat_ofNat .., Nat.testBit_mod_two_pow, decide_eq_true hi, Bool.true_and]
  have hat : ∀ i, (x / 2 ^ i % 2 = 1) ↔ x.testBit i = true := fun i => by rw [Nat.testBit_eq_decide_div_mod_eq, decide_eq_true_eq]
  refine ⟨Nat.eq_of_testBit_eq (fun i => ?_), (hat 6).2 ?_, (hat 7).trans ?_⟩
  · rw [show 64 = 2 ^ 6 from rfl, Nat.testBit_mod_two_pow, Nat.testBit_mod_two_pow]
    by_cases hi : i < 6
    · rw [hbit i (by omega), testBit_putFld, if_neg (by omega), testBit_putFld, if_neg (by omega), testBit_putFld, if_pos (by omega), Nat.sub_zero]
    · rw [decide_eq_false hi, Bool.false_and, Bool.false_and]
  · rw [hbit 6 (by decide), testBit_putFld, if_neg (by decide), testBit_putFld, if_pos (by decide)]
    rfl
  · rw [hbit 7 (by decide), testBit_putFld, if_pos (by decide)]
    cases sat <;> decide

section
variable {s : State} {e : VEntry} (h : MatrixFirst s e)
include h

/-- With M = 0 an integer multiply-accumulate completes with no effect. -/
theorem runMma_none (hvl : e.vl = 0) {i : Instr} {t2 : Bool} {o : MMop} (hexec : exec i s = .next (runMma t2 o s)) :
    SliceOut i s e 0 (getVault s (s.cur / 8)).slice := by
  obtain ⟨hleft, hslice⟩ := retireNow_leaves h.vlc (.refl s) 0
  have hrun : runMma t2 o s = retireNow e 0 s := by
    rw [runMma, h.rows (m := 0) (by rw [hvl, Nat.zero_mul]) _ (fun p hp => ?_)]
    · rfl
    · rw [List.mem_singleton.1 hp]
      exact bytesEmpty_unread _ _ _ (fun b => by simp)
  exact ⟨_, hexec.trans (congrArg _ hrun), hleft, hslice _⟩

/-- An integer multiply-accumulate on a slice without errors (R146, R249, R375). -/
theorem runMma_adds (hfull : s.me.vempty = []) {m : Nat} (hm : e.vl * sewBits e.sew = 1536 * m) (hpos : 0 < m)
    (hslip : (getVault s (s.cur / 8)).slice.slip = none) (hres : ResiduesRight (getVault s (s.cur / 8)).slice)
    {i : Instr} {t2 : Bool} {o : MMop} (hexec : exec i s = .next (runMma t2 o s)) :
    let sl := (getVault s (s.cur / 8)).slice
    let a (r : Nat) := intFields (rowStr (groupN s.me (vlenOf s s.cur) o.va.toNat (grpN e.grp)) r) (mmaWa sl) (mmaK t2 sl) (bitN sl.prec.toNat 10)
    let b (c : Nat) := if t2 then t2Fields (rowStr (tget 0 sl.b o.slot.toNat).toNat c) (mmaK t2 sl)
      else intFields (rowStr (tget 0 sl.b o.slot.toNat).toNat c) (mmaWb t2 sl) (mmaK t2 sl) (bitN sl.prec.toNat 26)
    let acc (r c : Nat) : Nat × Bool := foldAcc (accN sl r c) (dot (a r) (b c)) (mmaF sl) (mmaPos sl)
    ∃ t, exec i s = .next t ∧ LeftQueue s t e (macCycles m (mmaK t2 sl) (mmaWa sl) (mmaWb t2 sl)) s.me ∧ AccOut s t m (fun r c => (acc r c).1) ∧
      (let ms := (getVault t (s.cur / 8)).slice.mstat.toNat
       ms % 64 = mmaPos sl % 64 ∧ ms / 64 % 2 = 1 ∧ (ms / 128 % 2 = 1 ↔ bitN sl.mstat.toNat 7 = true ∨ ∃ r c, r < m ∧ c < 32 ∧ (acc r c).2 = true)) := by
  intro sl a b acc
  have hgrid : IsGrid m (fun r c => accStep sl (mmaF sl) (mmaPos sl) (32 * r + c) (a r) (b c))
      (mmaSteps t2 m (groupN s.me (vlenOf s s.cur) o.va.toNat (grpN e.grp)) o.slot.toNat sl) := by
    rw [mmaSteps_eq]
    exact isGrid_rows m _
  generalize hsteps : mmaSteps t2 m (groupN s.me (vlenOf s s.cur) o.va.toNat (grpN e.grp)) o.slot.toNat sl = res at hgrid
  have hgood : res.all (fun x => x.2.good) = true := List.all_eq_true.2 (fun x hx => by
    obtain ⟨r, c, -, hc, rfl⟩ := (hgrid x).1 hx
    exact (accStep_good hslip hres _ _ r hc _ _).1)
  have hrun : runMma t2 o s = retireNow e (macCycles m (mmaK t2 sl) (mmaWa sl) (mmaWb t2 sl)) (updSlice e.vlc (mmaSlice res) s) := by
    rw [runMma, h.rows hm _ (fun p _ => bytesEmpty_full hfull ..)]
    dsimp only
    rw [h.sliceOf, show mmaSteps t2 m ((wordCtx s e).str o.va.toNat (wordCtx s e).g) o.slot.toNat (getVault s (s.cur / 8)).slice = res from hsteps,
      if_neg (Nat.pos_iff_ne_zero.1 hpos), hgood, if_pos rfl]
  obtain ⟨hleft, hslice⟩ := retireNow_leaves h.vlc (sliceOnly_updSlice h.vlc (mmaSlice res)) (macCycles m (mmaK t2 sl) (mmaWa sl) (mmaWb t2 sl))
  have hnew := (hslice (s.cur / 8)).trans (slice_updSlice h.vlc (mmaSlice res))
  refine ⟨_, hexec.trans (congrArg _ hrun), hleft, fun r c hc => ?_, ?_⟩
  · have hacc := accN_putAccs (hgrid.map (fun x => BitVec.ofNat 32 x.new)) sl (r := r) hc
    rw [hnew]
    refine hacc.trans ?_
    rw [BitVec.toNat_ofNat, (accStep_good hslip hres _ _ r hc (a r) (b c)).2.1]
  · obtain ⟨hfp, hset, hsat⟩ := mstat_fields sl.mstat.toNat (mmaPos sl) (res.any (fun x => x.2.sat) || bitN sl.mstat.toNat 7)
    rw [hnew]
    refine ⟨hfp, hset, hsat.trans ?_⟩
    rw [Bool.or_eq_true, or_comm, List.any_eq_true, hgrid.any (fun x => x.sat = true)]
    refine or_congr_right (exists_congr fun r => exists_congr fun c => and_congr_right fun _ => and_congr_right fun hc => ?_)
    rw [(accStep_good hslip hres _ _ r hc (a r) (b c)).2.2]

end

end Sys2Proof.Machine
end

section
/-! SUPPORT. Floating multiply-accumulate, scaling and conversion of the slice, and the arithmetic of the slice as a whole (R146, R148, R150, R249 to R253, R375). -/
namespace Sys2Proof.Machine

/-! ### Words that write accumulators and wait for their recheck -/

section
variable {s : State} {e : VEntry} (hvlc : e.vlc = s.cur)
include hvlc

/-- A word that writes the accumulators of `m` rows, with the flags of every one. -/
theorem accWord_of {i : Instr} {m cost : Nat} {f : Nat → Nat → FRes} {res : List (Nat × FRes)} (hgrid : IsGrid m f res)
    (hexec : exec i s = .next (wordDone (reEntry s e (res.foldl (fun fl x => fl ||| x.2.2) 0)) cost id
      (updSlice e.vlc (fun l => putAccs l (res.map (fun x => (x.1, BitVec.ofNat 32 x.2.1)))) s))) :
    ∃ t fl, exec i s = .next t ∧ Executed s t e cost s.me fl ∧ AccOut s t m (fun r c => (f r c).1) ∧
      ∀ k, fl.testBit k = true ↔ ∃ r c, r < m ∧ c < 32 ∧ (f r c).2.testBit k = true := by
  refine ⟨_, _, hexec, executed_wordDone_id hvlc (sliceOnly_updSlice hvlc _) (upto e.vl) none _ _, accOut_putAccs hgrid ?_, fun k => ?_⟩
  · exact (slice_wordDone ..).trans (slice_updSlice hvlc _)
  · rw [testBit_flags]
    exact hgrid.any (fun q => q.2.testBit k = true)

/-- A word that writes no accumulator leaves every register and the slice. -/
theorem emptyWord_of {i : Instr} {cost fl : Nat} (hcost : cost = 0) (hfl : fl = 0)
    (hexec : exec i s = .next (wordDone (reEntry s e fl) cost id (updSlice e.vlc (fun l => putAccs l []) s))) :
    ∃ t, exec i s = .next t ∧ Executed s t e 0 s.me 0 ∧ (getVault t (s.cur / 8)).slice = (getVault s (s.cur / 8)).slice := by
  subst hcost hfl
  exact ⟨_, hexec, executed_wordDone_id hvlc (sliceOnly_updSlice hvlc _) (upto e.vl) none 0 0, (slice_wordDone ..).trans (slice_updSlice hvlc _)⟩

end

theorem macCycles_eq (m k wa wb : Nat) : macCycles m k wa wb = (m * 32 * k * wa * wb + 65535) / 65536 := by
  rw [macCycles, cdiv, Nat.add_sub_assoc (by decide)]

theorem macCycles_none (k wa wb : Nat) : macCycles 0 k wa wb = 0 := by simp [macCycles_eq]

/-! ### mmaf (R250) -/

section
variable {s : State} {e : VEntry} (h : MatrixFirst s e)
include h

/-- The values of `mmaf`, row by row. -/
def mmafGrid (s : State) (e : VEntry) (o : MMop) (r c : Nat) : FRes :=
  let sl := (getVault s (s.cur / 8)).slice
  mmafAcc e (vlenOf s s.cur / 192) (accN sl r c) (fpFields (fld sl.prec.toNat 32 2) (rowStr (groupN s.me (vlenOf s s.cur) o.va.toNat (grpN e.grp)) r))
    (fpFields (fld sl.prec.toNat 32 2) (rowStr (tget 0 sl.b o.slot.toNat).toNat c))

theorem mmaf_runs {m : Nat} (hm : e.vl * sewBits e.sew = 1536 * m) (hfull : s.me.vempty = [] ∨ m = 0) (o : MMop) :
    let res := (upto m).flatMap (fun r => (upto 32).map (fun c => (32 * r + c, mmafGrid s e o r c)))
    exec (.mmaf o) s = .next (wordDone (reEntry s e (res.foldl (fun fl x => fl ||| x.2.2) 0))
      (macCycles m (fpTerms (fld (getVault s (s.cur / 8)).slice.prec.toNat 32 2)) 8 8) id
      (updSlice e.vlc (fun l => putAccs l (res.map (fun x => (x.1, BitVec.ofNat 32 x.2.1)))) s)) := by
  intro res
  rw [show exec (.mmaf o) s = execMmaf o s from rfl, execMmaf, h.rows hm _ (fun p hp => ?_)]
  · dsimp only
    rw [h.sliceOf]
    have hres : (upto m).flatMap (fun r => ((upto 32).map (fun j => fpFields (fld (getVault s (s.cur / 8)).slice.prec.toNat 32 2)
        (rowStr (tget 0 (getVault s (s.cur / 8)).slice.b o.slot.toNat).toNat j))).zipIdx.map (fun (b, j) => (32 * r + j,
          mmafAcc e ((wordCtx s e).vlen / 192) (accN (getVault s (s.cur / 8)).slice r j)
            (fpFields (fld (getVault s (s.cur / 8)).slice.prec.toNat 32 2) (rowStr ((wordCtx s e).str o.va.toNat (wordCtx s e).g) r)) b))) = res :=
      List.flatMap_congr (fun r _ => zipIdx_upto ..)
    rw [hres]
  · rw [List.mem_singleton.1 hp]
    rcases hfull with hfull | rfl
    · exact bytesEmpty_full hfull ..
    · exact bytesEmpty_unread _ _ _ (fun b => by simp)

/-! ### mscale (R251) -/

/-- One accumulator of `mscale`. -/
def mscaleGrid (s : State) (e : VEntry) (o : MSCop) (r c : Nat) : FRes :=
  let sl := (getVault s (s.cur / 8)).slice
  let x := if o.src then decF 23 (accN sl r c) else .fin (sx 32 (accN sl r c) < 0) (sx 32 (accN sl r c)).natAbs (-(fld sl.mstat.toNat 0 6 : Nat))
  let y := mulV x (scaleOf o.sfmt (groupN s.me (vlenOf s s.cur) o.va.toNat (grpN e.grp)) r)
  let z := mulV y.1 (scaleOf o.sfmt (groupN s.me (vlenOf s s.cur) o.vb.toNat (grpN e.grp)) c)
  withFlags 23 e.rm (z.1, z.2 ||| y.2)

theorem mscale_runs {m : Nat} (hm : e.vl * sewBits e.sew = 1536 * m) (hfull : s.me.vempty = [] ∨ m = 0) (o : MSCop) :
    let res := (upto (32 * m)).map (fun i => (i, mscaleGrid s e o (i / 32) (i % 32)))
    exec (.mscale o) s = .next (wordDone (reEntry s e (res.foldl (fun fl x => fl ||| x.2.2) 0)) m id
      (updSlice e.vlc (fun l => putAccs l (res.map (fun x => (x.1, BitVec.ofNat 32 x.2.1)))) s)) := by
  intro res
  rw [show exec (.mscale o) s = execMscale o s from rfl, execMscale, h.rows hm _ (fun p hp => ?_)]
  · dsimp only
    rw [h.sliceOf]
    rfl
  · rcases hfull with hfull | rfl
    · exact bytesEmpty_full hfull ..
    · rcases List.mem_cons.1 hp with rfl | hp
      · exact bytesEmpty_unread _ _ _ (fun b => by simp)
      · rw [List.mem_singleton.1 hp]
        exact bytesEmpty_unread _ _ _ (fun b => by simp)

/-! ### mcvt (R252) -/

theorem mcvt_runs {m : Nat} (hm : e.vl * sewBits e.sew = 1536 * m) (o : MCVop)
    (hfull : s.me.vempty = [] ∨ mcvtBits m o.ofmt.toNat = 0) :
    let out := mcvtOut (getVault s (s.cur / 8)).slice m o.ofmt.toNat o.n.toNat e.rm
    exec (.mcvt o) s = .next (wordDone (reEntry s e (out.1.foldl (fun fl x => fl ||| x.2.2) 0)) m
      (putGroup (vlenOf s s.cur) o.vd.toNat (grpN e.grp) out.2 (out.1.map (fun x => (x.1, x.2.1)))) s) := by
  intro out
  rw [show exec (.mcvt o) s = execMcvt o s from rfl, execMcvt, h.rows hm _ (fun p hp => ?_)]
  · dsimp only
    rw [h.sliceOf]
    rfl
  · rw [List.mem_singleton.1 hp]
    rcases hfull with hfull | hbits
    · exact bytesEmpty_full hfull ..
    · exact bytesEmpty_unread _ _ _ (fun b => by simp [hbits])

/-- `mcvt` writes fields of one width, field `j` for each `j` below `n`. -/
theorem mcvt_writes {m : Nat} (hm : e.vl * sewBits e.sew = 1536 * m) (hfull : s.me.vempty = []) (o : MCVop) {n w : Nat} {field : Nat → FRes} {below : Nat → Prop}
    [DecidablePred below] (hbelow : ∀ j, below j ↔ j < n)
    (hout : mcvtOut (getVault s (s.cur / 8)).slice m o.ofmt.toNat o.n.toNat e.rm = ((upto n).map (fun j => (j, field j)), w)) :
    ∃ t fl, exec (.mcvt o) s = .next t ∧ Executed s t e m { s.me with v := t.me.v } fl ∧
      GroupOut s t o.vd.toNat (grpN e.grp) w (fun j => if below j then some (field j).1 else none) ∧
      ∀ k, fl.testBit k = true ↔ ∃ j, below j ∧ (field j).2.testBit k = true := by
  have hrun := mcvt_runs h hm o (.inl hfull)
  rw [hout] at hrun
  have hvals : WritesVals w (((upto n).map (fun j => (j, field j))).map (fun x => (x.1, x.2.1))) (fun j => if below j then some (field j).1 else none) := by
    rw [List.map_map]
    exact writesVals_map (fun j hj => ⟨_, if_pos ((hbelow j).2 (List.mem_range.1 hj)), rfl⟩) (fun j hj => if_neg (fun hb => hj (List.mem_range.2 ((hbelow j).1 hb))))
  obtain ⟨hdone, hgroup⟩ := groupOut_wordDone h.vlc (.refl s) (upto e.vl) none
    (((upto n).map (fun j => (j, field j))).foldl (fun fl x => fl ||| x.2.2) 0) m
    (f := putGroup (vlenOf s s.cur) o.vd.toNat (grpN e.grp) w (((upto n).map (fun j => (j, field j))).map (fun x => (x.1, x.2.1)))) hvals rfl
  refine ⟨_, _, hrun, hdone, hgroup, fun k => ?_⟩
  rw [testBit_flags]
  constructor
  · rintro ⟨x, hx, hbit⟩
    obtain ⟨j, hj, rfl⟩ := List.mem_map.1 hx
    exact ⟨j, (hbelow j).2 (List.mem_range.1 hj), hbit⟩
  · rintro ⟨j, hj, hbit⟩
    exact ⟨_, List.mem_map_of_mem (List.mem_range.2 ((hbelow j).1 hj)), hbit⟩

end

end Sys2Proof.Machine
end

section
/-! SUPPORT. The arithmetic of the matrix slice, in the terms of the manual's fields of PREC and MSTAT (R144, R146, R249 to R253, R375). -/
namespace Sys2Proof.Machine

/-! ### Fields of PREC and MSTAT -/

theorem mmaWa_eq (l : Slice) : mmaWa l = l.prec.toNat % 32 := by norm_num [mmaWa, fld]
theorem mmaWb_eq (l : Slice) : mmaWb false l = l.prec.toNat / 65536 % 32 := by norm_num [mmaWb, fld]
theorem mmaF_eq (l : Slice) : mmaF l = l.prec.toNat / 32 % 32 + l.prec.toNat / 2097152 % 32 := by norm_num [mmaF, fld]
theorem mmaPos_eq (l : Slice) : mmaPos l = if l.mstat.toNat / 64 % 2 = 1 then l.mstat.toNat % 64 else mmaF l := by norm_num [mmaPos, fld, bitN]
theorem prec_fmt (l : Slice) : fld l.prec.toNat 32 2 = l.prec.toNat / 4294967296 % 4 := by norm_num [fld]
theorem mstat_fp (l : Slice) : fld l.mstat.toNat 0 6 = l.mstat.toNat % 64 := by norm_num [fld]
theorem mstat_sat (l : Slice) : bitN l.mstat.toNat 7 = true ↔ l.mstat.toNat / 128 % 2 = 1 := by norm_num [bitN]

theorem lt_cdiv {a b : Nat} (hb : 0 < b) (j : Nat) : j * b < a ↔ j < cdiv a b := by
  rw [cdiv, Nat.lt_div_iff_mul_lt hb]
  omega

theorem cdiv_none {b : Nat} (hb : 0 < b) : cdiv 0 b = 0 := by
  rw [cdiv, Nat.zero_add]
  exact Nat.div_eq_of_lt (Nat.sub_lt hb Nat.one_pos)

theorem dxbPer_pos (four : Bool) : 0 < dxbPer four := by cases four <;> decide

/-- On no rows `mcvt` writes nothing. -/
theorem mcvt_none (l : Slice) (f n rm : Nat) : mcvtOut l 0 f n rm = ([], (mcvtOut l 0 f n rm).2) ∧ mcvtBits 0 f = 0 := by
  unfold mcvtOut mcvtBits
  simp only [Nat.mul_zero, cdiv_none (dxbPer_pos _)]
  split_ifs <;> exact ⟨rfl, Nat.zero_mul _⟩

/-! ### The flags of a scaling -/

theorem testBit_withFlags (mb mode : Nat) (x : FV) (f g k : Nat) :
    (withFlags mb mode (x, f ||| g)).2.testBit k = true ↔ (encF mb mode x).2.testBit k = true ∨ f.testBit k = true ∨ g.testBit k = true := by
  rw [withFlags, Nat.testBit_or, Nat.testBit_or, Bool.or_eq_true, Bool.or_eq_true]

/-- Settles O44. -/
theorem sliceArithmetic : Obligations.SliceArithmetic := by
  unfold Obligations.SliceArithmetic
  intro s e sl
  refine ⟨fun h hvl => ?_, fun m hready hm hpos => ?_⟩
  · have hm : e.vl * sewBits e.sew = 1536 * 0 := by rw [hvl, Nat.zero_mul]
    refine ⟨fun o => ⟨runMma_none h hvl rfl, runMma_none h hvl rfl, ?_⟩, fun o => ?_, fun o ho => ?_⟩
    · exact emptyWord_of h.vlc (macCycles_none ..) rfl (mmaf_runs h hm (.inr rfl) o)
    · exact emptyWord_of h.vlc rfl rfl (mscale_runs h hm (.inr rfl) o)
    · have hout := mcvt_none sl o.ofmt.toNat o.n.toNat e.rm
      have hrun := mcvt_runs h hm o (.inr hout.2)
      rw [hout.1] at hrun
      exact ⟨_, hrun, executed_wordDone_id h.vlc (.refl s) (upto e.vl) none 0 0, slice_wordDone ..⟩
  · intro p n g row col wa wb f pos cycles Adds
    refine ⟨fun o hslip hres => ⟨?_, ?_⟩, fun o => ?_, fun o => ?_, fun o ho => ?_, fun o ho => ?_⟩
    · have hadds := runMma_adds hready.1 hready.2 hm hpos hslip hres (i := .mma o) (t2 := false) (o := o) rfl
      simp only [mmaK, mmaWa_eq, mmaWb_eq, mmaF_eq, mmaPos_eq, macCycles_eq, mstat_sat, Bool.false_eq_true, if_false] at hadds
      exact hadds
    · have hadds := runMma_adds hready.1 hready.2 hm hpos hslip hres (i := .mmat o) (t2 := true) (o := o) rfl
      simp only [mmaK, mmaWa_eq, mmaF_eq, mmaPos_eq, macCycles_eq, mstat_sat, if_true] at hadds
      exact hadds
    · have hout := accWord_of hready.1.vlc (isGrid_rows m (mmafGrid s e o)) (mmaf_runs hready.1 hm (.inl hready.2) o)
      simp only [macCycles_eq, mmafGrid, prec_fmt] at hout
      exact hout
    · have hout := accWord_of hready.1.vlc (isGrid_range m (mscaleGrid s e o)) (mscale_runs hready.1 hm (.inl hready.2) o)
      simp only [mscaleGrid, testBit_withFlags, mstat_fp] at hout
      exact hout
    · exact mcvt_writes hready.1 hm hready.2 o (fun _ => Iff.rfl) (if_pos ho)
    · intro four per bits blk
      have hlt : ¬o.ofmt.toNat < 7 := by omega
      exact mcvt_writes hready.1 hm hready.2 o (n := cdiv (32 * m) per) (lt_cdiv (dxbPer_pos four)) (if_neg hlt)

end Sys2Proof.Machine
end

section
/-! SUPPORT. Floating values as rational numbers: dyadic numbers, the encodings of a format and their magnitudes (R134, R135). -/
namespace Sys2Proof.Machine

/-! ### Dyadic numbers -/

/-- The rational number m × 2^e. -/
def dyQ (m : Nat) (e : Int) : Rat := (m : Rat) * 2 ^ e

theorem two_zpow_pos (e : Int) : (0 : Rat) < 2 ^ e := zpow_pos (by norm_num) e

theorem dyQ_nonneg (m : Nat) (e : Int) : 0 ≤ dyQ m e := mul_nonneg (Nat.cast_nonneg m) (two_zpow_pos e).le

theorem dyQ_eq_zero {m : Nat} {e : Int} : dyQ m e = 0 ↔ m = 0 := by
  rw [dyQ, mul_eq_zero, or_iff_left (two_zpow_pos e).ne', Nat.cast_eq_zero]

theorem dyQ_pos {m : Nat} {e : Int} (h : m ≠ 0) : 0 < dyQ m e := lt_of_le_of_ne (dyQ_nonneg m e) (fun h0 => h (dyQ_eq_zero.1 h0.symm))

/-- A dyadic number on a smaller exponent. -/
theorem dyQ_scale {m : Nat} {e k : Int} (h : k ≤ e) : dyQ m e = ((m * 2 ^ (e - k).toNat : Nat) : Rat) * 2 ^ k := by
  have he : e = ((e - k).toNat : Int) + k := by omega
  rw [dyQ, Nat.cast_mul, Nat.cast_pow, Nat.cast_ofNat, mul_assoc, ← zpow_natCast, ← zpow_add₀ (by norm_num)]
  congr 2

theorem dyQ_mul (m m' : Nat) (e e' : Int) : dyQ (m * m') (e + e') = dyQ m e * dyQ m' e' := by
  rw [dyQ, dyQ, dyQ, Nat.cast_mul, zpow_add₀ (by norm_num)]
  ring

/-- `cmpDy` is the order of the two numbers. -/
theorem cmpDy_lt (m : Nat) (e : Int) (m' : Nat) (e' : Int) : cmpDy m e m' e' = .lt ↔ dyQ m e < dyQ m' e' := by
  rw [dyQ_scale (min_le_left e e'), dyQ_scale (min_le_right e e'), mul_lt_mul_iff_of_pos_right (two_zpow_pos _), Nat.cast_lt]
  exact compare_lt_iff_lt

theorem cmpDy_gt (m : Nat) (e : Int) (m' : Nat) (e' : Int) : cmpDy m e m' e' = .gt ↔ dyQ m' e' < dyQ m e := by
  rw [dyQ_scale (min_le_left e e'), dyQ_scale (min_le_right e e'), mul_lt_mul_iff_of_pos_right (two_zpow_pos _), Nat.cast_lt]
  exact compare_gt_iff_gt

/-! ### Magnitudes of encodings -/

theorem magQ_eq (mb k : Nat) : magQ mb k = dyQ (magOf mb k).1 (magOf mb k).2 := by
  unfold magQ magOf
  split_ifs <;> rfl

/-- The next magnitude is one unit of the last place greater, across binades and at the last finite encoding too. -/
theorem magQ_succ (mb k : Nat) : magQ mb (k + 1) = magQ mb k + 2 ^ (magOf mb k).2 := by
  have hpow : 0 < 2 ^ mb := Nat.two_pow_pos mb
  have hk := Nat.div_add_mod k (2 ^ mb)
  have hlt := Nat.mod_lt k hpow
  by_cases hlast : k % 2 ^ mb + 1 = 2 ^ mb
  · have hdiv : (k + 1) / 2 ^ mb = k / 2 ^ mb + 1 := by
      rw [show k + 1 = 2 ^ mb * (k / 2 ^ mb + 1) by rw [Nat.mul_succ]; omega, Nat.mul_div_cancel_left _ hpow]
    have hmod : (k + 1) % 2 ^ mb = 0 := by
      rw [show k + 1 = 2 ^ mb * (k / 2 ^ mb + 1) by rw [Nat.mul_succ]; omega, Nat.mul_mod_right]
    have hcast : ((k % 2 ^ mb : Nat) : Rat) + 1 = 2 ^ mb := by exact_mod_cast hlast
    rw [magQ, magQ, magOf, hdiv, hmod, if_neg (Nat.succ_ne_zero _)]
    split_ifs with h0
    · have hkm : k % 2 ^ mb = k := by rw [h0] at hk; omega
      rw [hkm] at hcast
      have hexp : (((k / 2 ^ mb + 1 : Nat) : Int) - 127 - mb) = -126 - (mb : Int) := by rw [h0]; push_cast; ring
      rw [hexp]
      push_cast
      rw [← add_one_mul, hcast, add_zero]
    · have hexp : (((k / 2 ^ mb + 1 : Nat) : Int) - 127 - mb) = (((k / 2 ^ mb : Nat) : Int) - 127 - mb) + 1 := by push_cast; ring
      rw [hexp, zpow_add_one₀ (by norm_num)]
      push_cast at hcast ⊢
      rw [← add_one_mul, add_assoc, hcast]
      ring
  · have hdiv : (k + 1) / 2 ^ mb = k / 2 ^ mb := by
      rw [show k + 1 = (k % 2 ^ mb + 1) + 2 ^ mb * (k / 2 ^ mb) by omega, Nat.add_mul_div_left _ _ hpow, Nat.div_eq_of_lt (by omega), Nat.zero_add]
    have hmod : (k + 1) % 2 ^ mb = k % 2 ^ mb + 1 := by
      rw [show k + 1 = (k % 2 ^ mb + 1) + 2 ^ mb * (k / 2 ^ mb) by omega, Nat.add_mul_mod_self_left, Nat.mod_eq_of_lt (by omega)]
    rw [magQ, magQ, magOf, hdiv, hmod]
    split_ifs <;> push_cast <;> ring

theorem magQ_strictMono (mb : Nat) : StrictMono (magQ mb) :=
  strictMono_nat_of_lt_succ (fun k => by rw [magQ_succ]; exact lt_add_of_pos_right _ (two_zpow_pos _))

theorem magQ_zero (mb : Nat) : magQ mb 0 = 0 := by
  rw [magQ, Nat.zero_div, if_pos rfl, Nat.cast_zero, zero_mul]

theorem magQ_nonneg (mb k : Nat) : 0 ≤ magQ mb k := by rw [magQ_eq]; exact dyQ_nonneg ..

/-- Half way between a magnitude and the next. -/
theorem dyQ_mid (mb k : Nat) : dyQ (2 * (magOf mb k).1 + 1) ((magOf mb k).2 - 1) = (magQ mb k + magQ mb (k + 1)) / 2 := by
  rw [magQ_succ, magQ_eq, dyQ, dyQ, zpow_sub_one₀ (by norm_num)]
  push_cast
  ring

/-! ### Values of encodings (R134, R135) -/

/-- The fields of an encoding: its exponent field and its fraction. -/
theorem exp_of_mod {mb n : Nat} : n % 2 ^ (mb + 8) / 2 ^ mb = n / 2 ^ mb % 256 := by
  rw [Nat.pow_add, Nat.mod_mul_right_div_self]

theorem frac_of_mod {mb n : Nat} : n % 2 ^ (mb + 8) % 2 ^ mb = n % 2 ^ mb := Nat.mod_mod_of_dvd n (Nat.pow_dvd_pow 2 (Nat.le_add_right mb 8))

/-- What an encoding stands for, by the classes of its exponent field and fraction. -/
theorem decF_eq (mb n : Nat) : decF mb n =
    if n / 2 ^ mb % 256 = 255 then (if n % 2 ^ mb = 0 then .inf (signOf mb n) else .nan (!bitN (n % 2 ^ mb) (mb - 1)))
    else .fin (signOf mb n) (magOf mb (n % 2 ^ (mb + 8))).1 (magOf mb (n % 2 ^ (mb + 8))).2 := by
  have hfrac : fld n 0 mb = n % 2 ^ mb := fld_low n mb
  have hexp : fld n mb 8 = n / 2 ^ mb % 256 := rfl
  unfold decF magOf
  simp only [hfrac, hexp, exp_of_mod, frac_of_mod]
  split_ifs with h255 hzero h0
  · rfl
  · rfl
  · have hsmall : n % 2 ^ (mb + 8) = n % 2 ^ mb := by
      have h := Nat.div_add_mod (n % 2 ^ (mb + 8)) (2 ^ mb)
      rw [exp_of_mod, frac_of_mod, h0, Nat.mul_zero, Nat.zero_add] at h
      exact h.symm
    rw [hsmall]
    rfl
  · rfl

theorem decF_of_fin {mb n : Nat} (h : isFin mb n) : ∃ m e, decF mb n = .fin (signOf mb n) m e ∧ dyQ m e = magQ mb (n % 2 ^ (mb + 8)) :=
  ⟨_, _, by rw [decF_eq, if_neg (Nat.ne_of_lt h)], (magQ_eq ..).symm⟩

theorem decF_of_inf {mb n : Nat} (h : isInf mb n) : decF mb n = .inf (signOf mb n) := by rw [decF_eq, if_pos h.1, if_pos h.2]

theorem decF_of_nan {mb n : Nat} (h : isNan mb n) : decF mb n = .nan (!bitN (n % 2 ^ mb) (mb - 1)) := by rw [decF_eq, if_pos h.1, if_neg h.2]

/-- The three classes of encodings. -/
theorem fin_inf_nan (mb n : Nat) : isFin mb n ∨ isInf mb n ∨ isNan mb n := by
  unfold isFin isInf isNan
  have := Nat.mod_lt (n / 2 ^ mb) (show 256 > 0 by decide)
  omega

theorem not_nan_of_fin {mb n : Nat} (h : isFin mb n) : ¬isNan mb n := fun hn => absurd hn.1 (Nat.ne_of_lt h)

theorem not_nan_of_inf {mb n : Nat} (h : isInf mb n) : ¬isNan mb n := fun hn => hn.2 h.2

theorem isNan_decF (mb n : Nat) : (decF mb n).isNan = true ↔ isNan mb n := by
  rcases fin_inf_nan mb n with h | h | h
  · obtain ⟨m, e, hd, -⟩ := decF_of_fin h
    rw [hd]
    exact iff_of_false Bool.false_ne_true (not_nan_of_fin h)
  · rw [decF_of_inf h]
    exact iff_of_false Bool.false_ne_true (not_nan_of_inf h)
  · rw [decF_of_nan h]
    exact iff_of_true rfl h

/-- A NaN is signalling when the first bit of its fraction is 0. -/
theorem isSig_decF {mb n : Nat} (hmb : 0 < mb) : (decF mb n).isSig = true ↔ isSig mb n := by
  by_cases h : isNan mb n
  · have hlt : n % 2 ^ mb < 2 ^ (mb - 1) * 2 := by
      rw [← Nat.pow_succ, Nat.succ_eq_add_one, Nat.sub_one_add_one hmb.ne']
      exact Nat.mod_lt _ (Nat.two_pow_pos mb)
    have hbit : bitN (n % 2 ^ mb) (mb - 1) = false ↔ n % 2 ^ mb < 2 ^ (mb - 1) := by
      have hdiv : n % 2 ^ mb / 2 ^ (mb - 1) < 2 := Nat.div_lt_of_lt_mul hlt
      rw [bitN, Nat.mod_eq_of_lt hdiv, beq_eq_false_iff_ne, ← Nat.div_eq_zero_iff_lt (Nat.two_pow_pos _)]
      generalize n % 2 ^ mb / 2 ^ (mb - 1) = q at hdiv
      omega
    rw [decF_of_nan h, FV.isSig, Bool.not_eq_true', hbit, isSig]
    exact (and_iff_right h).symm
  · have hnone : (decF mb n).isSig = false := by
      have := mt (isNan_decF mb n).1 h
      revert this
      cases decF mb n <;> simp [FV.isNan, FV.isSig]
    rw [hnone]
    exact iff_of_false Bool.false_ne_true (fun hs => h hs.1)

/-- An encoding is its sign and the rest. -/
theorem withSign_signOf {mb n : Nat} (h : n < 2 ^ (mb + 9)) : withSign mb (signOf mb n) (n % 2 ^ (mb + 8)) = n := by
  have hdiv : n / 2 ^ (mb + 8) < 2 := Nat.div_lt_of_lt_mul (by rwa [← Nat.pow_succ])
  have hn := Nat.div_add_mod n (2 ^ (mb + 8))
  rw [withSign, signOf, Nat.mod_eq_of_lt hdiv]
  generalize n / 2 ^ (mb + 8) = q at hdiv hn
  obtain rfl | rfl : q = 0 ∨ q = 1 := by omega
  · rw [Nat.mul_zero] at hn
    exact hn
  · rw [Nat.mul_one] at hn
    exact hn

theorem infEnc_eq (mb : Nat) (s : Bool) : infEnc mb s = withSign mb s (255 * 2 ^ mb) := by cases s <;> simp [infEnc, withSign, b2n]

theorem zeroEnc_eq (mb : Nat) (s : Bool) : zeroEnc mb s = withSign mb s 0 := by cases s <;> simp [zeroEnc, withSign, b2n]

theorem infEnc_of_inf {mb n : Nat} (h : n < 2 ^ (mb + 9)) (hinf : isInf mb n) : infEnc mb (signOf mb n) = n := by
  have hrest := Nat.div_add_mod (n % 2 ^ (mb + 8)) (2 ^ mb)
  rw [exp_of_mod, frac_of_mod, hinf.1, hinf.2, Nat.add_zero, Nat.mul_comm] at hrest
  rw [infEnc_eq, hrest, withSign_signOf h]

theorem valQ_eq_zero {mb n : Nat} : valQ mb n = 0 ↔ n % 2 ^ (mb + 8) = 0 := by
  have hmag : magQ mb (n % 2 ^ (mb + 8)) = 0 ↔ n % 2 ^ (mb + 8) = 0 := by
    rw [← magQ_zero mb]
    exact (magQ_strictMono mb).injective.eq_iff
  rw [valQ, signed, ← hmag]
  cases signOf mb n <;> simp

theorem zeroEnc_of_zero {mb n : Nat} (h : n < 2 ^ (mb + 9)) (hz : valQ mb n = 0) : zeroEnc mb (signOf mb n) = n := by
  rw [zeroEnc_eq, ← valQ_eq_zero.1 hz, withSign_signOf h]

end Sys2Proof.Machine
end

section
/-! SUPPORT. An exact magnitude is rounded once: the greatest encoding below it, the nearest one in the mode, and the flags (R134, R138, R139). -/
namespace Sys2Proof.Machine

/-! ### Orders with an exact magnitude -/

/-- The order `c` of dyadic numbers with an exact magnitude, of which `lt` and `gt` say which rationals that are not negative lie below and above it. -/
structure OrdersBy (c : MagCmp) (lt gt : Rat → Prop) : Prop where
  lt_iff : ∀ m e, c m e = .lt ↔ lt (dyQ m e)
  gt_iff : ∀ m e, c m e = .gt ↔ gt (dyQ m e)
  not_gt_zero : ¬gt 0
  gt_mono : ∀ {a b}, 0 ≤ a → a ≤ b → gt a → gt b
  gt_of_not_lt : ∀ {a b}, 0 ≤ a → a < b → ¬lt a → gt b

section
variable {c : MagCmp} {lt gt : Rat → Prop} (h : OrdersBy c lt gt)
include h

theorem OrdersBy.ne_gt (m : Nat) (e : Int) : c m e ≠ .gt ↔ ¬gt (dyQ m e) := not_congr (h.gt_iff m e)

/-- A number that is not the magnitude and not above it lies below it. -/
theorem OrdersBy.ne_eq_iff {m : Nat} {e : Int} (hgt : ¬gt (dyQ m e)) : c m e ≠ .eq ↔ lt (dyQ m e) := by
  rw [← h.lt_iff]
  rw [← h.gt_iff] at hgt
  cases hc : c m e <;> simp_all

theorem OrdersBy.eq_iff {m : Nat} {e : Int} : c m e = .eq ↔ ¬lt (dyQ m e) ∧ ¬gt (dyQ m e) := by
  rw [← h.lt_iff, ← h.gt_iff]
  cases c m e <;> simp

end

/-! ### The greatest encoding that does not exceed the magnitude -/

/-- Bits tried from the highest down find the greatest number of a downward closed set. -/
theorem greedy_greatest {P : Nat → Prop} [DecidablePred P] (hdown : ∀ {i j}, i ≤ j → P j → P i) : ∀ (n acc : Nat), P acc → (∀ j, P j → j < acc + 2 ^ n) →
    let k := (upto n).reverse.foldl (fun acc b => if P (acc + 2 ^ b) then acc + 2 ^ b else acc) acc
    P k ∧ ∀ j, P j → j ≤ k
  | 0, acc, hacc, hub => ⟨hacc, fun j hj => Nat.le_of_lt_succ (hub j hj)⟩
  | n + 1, acc, hacc, hub => by
    have hstep : (upto (n + 1)).reverse = n :: (upto n).reverse := by rw [upto, List.range_succ, List.reverse_append]; rfl
    rw [hstep, List.foldl_cons]
    by_cases hP : P (acc + 2 ^ n)
    · rw [if_pos hP]
      exact greedy_greatest hdown n _ hP (fun j hj => by have := hub j hj; rw [Nat.pow_succ] at this; omega)
    · rw [if_neg hP]
      exact greedy_greatest hdown n acc hacc (fun j hj => Nat.lt_of_not_le (fun hle => hP (hdown hle hj)))

theorem floorEnc_spec {c : MagCmp} {lt gt : Rat → Prop} (h : OrdersBy c lt gt) (mb : Nat) :
    floorEnc mb c < 255 * 2 ^ mb ∧ ¬gt (magQ mb (floorEnc mb c)) ∧ (floorEnc mb c + 1 < 255 * 2 ^ mb → gt (magQ mb (floorEnc mb c + 1))) := by
  have hpos : 0 < 2 ^ mb := Nat.two_pow_pos mb
  have hP : ∀ k, (k < 255 * 2 ^ mb ∧ c (magOf mb k).1 (magOf mb k).2 ≠ .gt) ↔ k < 255 * 2 ^ mb ∧ ¬gt (magQ mb k) := fun k => by rw [h.ne_gt, magQ_eq]
  have hdown : ∀ {i j}, i ≤ j → (j < 255 * 2 ^ mb ∧ c (magOf mb j).1 (magOf mb j).2 ≠ .gt) → i < 255 * 2 ^ mb ∧ c (magOf mb i).1 (magOf mb i).2 ≠ .gt := by
    intro i j hij hj
    rw [hP] at hj ⊢
    exact ⟨lt_of_le_of_lt hij hj.1, fun hi => hj.2 (h.gt_mono (magQ_nonneg mb i) ((magQ_strictMono mb).monotone hij) hi)⟩
  have hzero : (0 < 255 * 2 ^ mb ∧ c (magOf mb 0).1 (magOf mb 0).2 ≠ .gt) := (hP 0).2 ⟨by omega, by rw [magQ_zero]; exact h.not_gt_zero⟩
  have hgreedy := greedy_greatest hdown (mb + 8) 0 hzero (fun j hj => by
    have := hj.1
    rw [Nat.pow_add]
    omega)
  have hfloor : floorEnc mb c = (upto (mb + 8)).reverse.foldl (fun acc b =>
      if acc + 2 ^ b < 255 * 2 ^ mb ∧ c (magOf mb (acc + 2 ^ b)).1 (magOf mb (acc + 2 ^ b)).2 ≠ .gt then acc + 2 ^ b else acc) 0 := rfl
  obtain ⟨hk, hmax⟩ := hgreedy
  rw [← hfloor] at hk hmax
  obtain ⟨hlt, hngt⟩ := (hP _).1 hk
  refine ⟨hlt, hngt, fun hsucc => ?_⟩
  by_contra hnot
  have := hmax _ ((hP _).2 ⟨hsucc, hnot⟩)
  omega

/-! ### The flags of a rounding -/

theorem testBit_roundFlags (huge tiny : Bool) (b : Nat) :
    (fNX + flagIf huge fOF + flagIf tiny fUF).testBit b = true ↔ b = 4 ∨ (b = 2 ∧ huge = true) ∨ (b = 3 ∧ tiny = true) := by
  by_cases hb : b < 5
  · have hall : ∀ b, b < 5 → ∀ huge tiny : Bool, (fNX + flagIf huge fOF + flagIf tiny fUF).testBit b = true ↔
        b = 4 ∨ (b = 2 ∧ huge = true) ∨ (b = 3 ∧ tiny = true) := by decide
    exact hall b hb huge tiny
  · have hbound : fNX + flagIf huge fOF + flagIf tiny fUF < 2 ^ 5 := by cases huge <;> cases tiny <;> decide
    rw [Nat.testBit_lt_two_pow (lt_of_lt_of_le hbound (Nat.pow_le_pow_right (by decide) (Nat.le_of_not_lt hb)))]
    exact iff_of_false Bool.false_ne_true (by omega)

/-- The bounds below 2^-126 from which on a magnitude rounds up to it (R139). -/
theorem dyQ_tinyNear (mb : Nat) : dyQ (2 ^ (mb + 2) - 1) (-128 - (mb : Int)) = 2 ^ (-126 : Int) - 2 ^ (-128 - (mb : Int)) := by
  rw [dyQ, Nat.cast_sub (Nat.one_le_two_pow), Nat.cast_pow, sub_mul, Nat.cast_ofNat, Nat.cast_one, one_mul, ← zpow_natCast, ← zpow_add₀ (by norm_num)]
  congr 2
  push_cast
  ring

theorem dyQ_tinyAway (mb : Nat) : dyQ (2 ^ (mb + 1) - 1) (-127 - (mb : Int)) = 2 ^ (-126 : Int) - 2 ^ (-127 - (mb : Int)) := by
  rw [dyQ, Nat.cast_sub (Nat.one_le_two_pow), Nat.cast_pow, sub_mul, Nat.cast_ofNat, Nat.cast_one, one_mul, ← zpow_natCast, ← zpow_add₀ (by norm_num)]
  congr 2
  push_cast
  ring

theorem dyQ_one (e : Int) : dyQ 1 e = 2 ^ e := by rw [dyQ, Nat.cast_one, one_mul]

/-- Whether a mode rounds magnitudes of a sign away from 0. -/
def awayFrom (mode : Nat) (neg : Bool) : Bool := (mode == 1 && neg) || (mode == 2 && !neg)

/-- Whether a magnitude that is no encoding's rounds up. -/
def roundsUp (mb : Nat) (neg : Bool) (mode : Nat) (c : MagCmp) : Bool :=
  let k := floorEnc mb c
  let mid := c (2 * (magOf mb k).1 + 1) ((magOf mb k).2 - 1)
  match mode with
  | 0 => mid == .lt || (mid == .eq && k % 2 == 1)
  | 1 => neg
  | 2 => !neg
  | _ => false

theorem roundsUp_iff {c : MagCmp} {lt gt : Rat → Prop} (h : OrdersBy c lt gt) (mb : Nat) (neg : Bool) (mode : Nat) :
    let k := floorEnc mb c
    let mid := (magQ mb k + magQ mb (k + 1)) / 2
    roundsUp mb neg mode c = true ↔ if mode = 0 then lt mid ∨ (¬gt mid ∧ k % 2 = 1) else awayFrom mode neg = true := by
  intro k mid
  rcases mode with _ | _ | _ | mode
  · have hmid : dyQ (2 * (magOf mb k).1 + 1) ((magOf mb k).2 - 1) = mid := dyQ_mid mb k
    rw [if_pos rfl, ← hmid, ← h.lt_iff, ← h.gt_iff, roundsUp]
    change (c (2 * (magOf mb k).1 + 1) ((magOf mb k).2 - 1) == .lt || (c (2 * (magOf mb k).1 + 1) ((magOf mb k).2 - 1) == .eq && k % 2 == 1)) = true ↔ _
    cases c (2 * (magOf mb k).1 + 1) ((magOf mb k).2 - 1) <;> simp
  · cases neg <;> simp [roundsUp, awayFrom]
  · cases neg <;> simp [roundsUp, awayFrom]
  · simp [roundsUp, awayFrom]

/-- Whether a magnitude below 2^-126 reaches it when it is rounded with no bound on the exponent. -/
def reachesNormal (mb : Nat) (neg : Bool) (mode : Nat) (c : MagCmp) : Bool :=
  if mode = 0 then c (2 ^ (mb + 2) - 1) (-128 - (mb : Int)) != .gt
  else if awayFrom mode neg then c (2 ^ (mb + 1) - 1) (-127 - (mb : Int)) == .lt else false

/-- The rounding of a magnitude that is an encoding's, and of one that is not. -/
theorem roundMag_eq (mb : Nat) (neg : Bool) (mode : Nat) (c : MagCmp) : roundMag mb neg mode c =
    let k := floorEnc mb c
    if c (magOf mb k).1 (magOf mb k).2 = .eq then (withSign mb neg k, 0)
    else
      let r := if roundsUp mb neg mode c then k + 1 else k
      (withSign mb neg r, fNX + flagIf (r == 255 * 2 ^ mb || c 1 128 != .gt) fOF + flagIf (c 1 (-126) == .gt && !reachesNormal mb neg mode c) fUF) := by
  have hsign : ∀ k, zeroEnc mb neg + k = withSign mb neg k := fun k => by rw [zeroEnc_eq, withSign, withSign, Nat.add_zero]
  unfold roundMag roundsUp reachesNormal
  simp only [hsign]
  rfl

/-- A magnitude is tiny after rounding (R139). -/
theorem tiny_iff {c : MagCmp} {lt gt : Rat → Prop} (h : OrdersBy c lt gt) (mb mode : Nat) (neg : Bool) :
    (c 1 (-126) == .gt && !reachesNormal mb neg mode c) = true ↔ if mode = 0 then gt ((2 : Rat) ^ (-126 : Int) - 2 ^ (-128 - (mb : Int)))
      else if awayFrom mode neg then ¬lt ((2 : Rat) ^ (-126 : Int) - 2 ^ (-127 - (mb : Int))) else gt ((2 : Rat) ^ (-126 : Int)) := by
  have hbelow : (c 1 (-126) == .gt) = true ↔ gt ((2 : Rat) ^ (-126 : Int)) := by rw [beq_iff_eq, h.gt_iff, dyQ_one]
  have hlower : ∀ e : Int, (2 : Rat) ^ (-126 : Int) - 2 ^ e < 2 ^ (-126 : Int) := fun e => sub_lt_self _ (two_zpow_pos e)
  rw [Bool.and_eq_true, hbelow, reachesNormal]
  split_ifs with hmode haway
  · have hnear : (2 : Rat) ^ (-126 : Int) - 2 ^ (-128 - (mb : Int)) = dyQ (2 ^ (mb + 2) - 1) (-128 - (mb : Int)) := (dyQ_tinyNear mb).symm
    rw [hnear, ← h.gt_iff, Bool.not_eq_true', bne_eq_false_iff_eq]
    refine and_iff_right_of_imp (fun hgt => h.gt_mono (dyQ_nonneg ..) ?_ ((h.gt_iff _ _).1 hgt))
    rw [← hnear]
    exact (hlower _).le
  · have haw : (2 : Rat) ^ (-126 : Int) - 2 ^ (-127 - (mb : Int)) = dyQ (2 ^ (mb + 1) - 1) (-127 - (mb : Int)) := (dyQ_tinyAway mb).symm
    rw [haw, ← h.lt_iff, Bool.not_eq_true', beq_eq_false_iff_ne]
    refine and_iff_right_of_imp (fun hlt => h.gt_of_not_lt (dyQ_nonneg (2 ^ (mb + 1) - 1) (-127 - (mb : Int))) ?_ (fun hl => hlt ((h.lt_iff _ _).2 hl)))
    rw [← haw]
    exact hlower _
  · simp

/-- The magnitude is rounded into the format, with its flags. -/
theorem roundMag_rounds {c : MagCmp} {lt gt : Rat → Prop} (h : OrdersBy c lt gt) (mb mode : Nat) (neg : Bool) :
    RoundsTo mb mode neg lt gt (roundMag mb neg mode c) := by
  obtain ⟨hk, hngt, hnext⟩ := floorEnc_spec h mb
  have hup := roundsUp_iff h mb neg mode
  have htiny := tiny_iff h mb mode neg
  rw [roundMag_eq]
  generalize hfloor : floorEnc mb c = k at *
  have hexact : c (magOf mb k).1 (magOf mb k).2 ≠ .eq ↔ lt (magQ mb k) := by
    rw [magQ_eq] at hngt ⊢
    exact h.ne_eq_iff hngt
  by_cases heq : c (magOf mb k).1 (magOf mb k).2 = .eq
  · have hnlt : ¬lt (magQ mb k) := fun hl => hexact.2 hl heq
    refine ⟨k, false, hk, hngt, hnext, by rw [if_pos heq]; rfl, ?_, fun b => ?_⟩
    · exact iff_of_false Bool.false_ne_true (fun hl => hnlt hl.1)
    · rw [if_pos heq, Nat.zero_testBit]
      exact iff_of_false Bool.false_ne_true (fun hl => hnlt hl.1)
  · have hlt : lt (magQ mb k) := hexact.1 heq
    refine ⟨k, roundsUp mb neg mode c, hk, hngt, hnext, by rw [if_neg heq], (hup.trans (and_iff_right hlt).symm), fun b => ?_⟩
    have hhuge : ((if roundsUp mb neg mode c then k + 1 else k) == 255 * 2 ^ mb || c 1 128 != .gt) = true ↔
        (roundsUp mb neg mode c = true ∧ k + 1 = 255 * 2 ^ mb) ∨ ¬gt ((2 : Rat) ^ (128 : Int)) := by
      rw [Bool.or_eq_true, beq_iff_eq, bne_iff_ne, h.ne_gt, dyQ_one]
      refine or_congr_left ?_
      by_cases hr : roundsUp mb neg mode c = true
      · simp [hr]
      · simp [hr, hk.ne]
    rw [if_neg heq]
    refine (testBit_roundFlags _ _ b).trans ?_
    rw [hhuge, htiny]
    exact (and_iff_right hlt).symm

end Sys2Proof.Machine
end

section
/-! SUPPORT. Exact values that are rounded: sums, products, quotients and roots as rational numbers (R134, R138, R214). -/
namespace Sys2Proof.Machine

/-! ### Numbers with a sign -/

theorem signed_eq_zero {s : Bool} {x : Rat} : signed s x = 0 ↔ x = 0 := by cases s <;> simp [signed]

theorem signed_mul (p q : Bool) (x y : Rat) : signed (p != q) (x * y) = signed p x * signed q y := by cases p <;> cases q <;> simp [signed]

theorem signed_div (p q : Bool) (x y : Rat) : signed (p != q) (x / y) = signed p x / signed q y := by
  cases p <;> cases q <;> simp [signed, neg_div, div_neg]

theorem signed_neg_iff {s : Bool} {x : Rat} (h : 0 < x) : signed s x < 0 ↔ s = true := by
  cases s
  · simp [signed, h.le]
  · simp [signed, h]

theorem signed_signed (s : Bool) (x : Rat) : signed s (signed s x) = x := by cases s <;> simp [signed]

/-- Equal signs and a sum of 0 leave two zeros. -/
theorem signed_add_eq_zero {s : Bool} {x y : Rat} (hx : 0 ≤ x) (hy : 0 ≤ y) (h : signed s x + signed s y = 0) : x = 0 ∧ y = 0 := by
  cases s <;> simp only [signed, Bool.false_eq_true, if_false, if_true] at h <;> constructor <;> linarith

/-! ### Rounded magnitudes -/

theorem ordersBy_of {c : MagCmp} {x : Rat} (hx : 0 ≤ x) (hlt : ∀ m e, c m e = .lt ↔ dyQ m e < x) (hgt : ∀ m e, c m e = .gt ↔ x < dyQ m e) :
    OrdersBy c (fun q => q < x) (fun q => x < q) where
  lt_iff := hlt
  gt_iff := hgt
  not_gt_zero := hx.not_gt
  gt_mono := fun _ hab ha => lt_of_lt_of_le ha hab
  gt_of_not_lt := fun _ hab ha => lt_of_le_of_lt (le_of_not_gt ha) hab

/-- The order with m × 2^e. -/
theorem ordersBy_dy (m : Nat) (e : Int) : OrdersBy (fun a b => cmpDy a b m e) (fun q => q < dyQ m e) (fun q => dyQ m e < q) :=
  ordersBy_of (dyQ_nonneg m e) (fun a b => cmpDy_lt a b m e) (fun a b => cmpDy_gt a b m e)

/-- The order with a quotient. -/
theorem ordersBy_div (m : Nat) (e : Int) {m' : Nat} (e' : Int) (h : m' ≠ 0) :
    OrdersBy (fun k f => cmpDy (k * m') (f + e') m e) (fun q => q < dyQ m e / dyQ m' e') (fun q => dyQ m e / dyQ m' e' < q) :=
  ordersBy_of (div_nonneg (dyQ_nonneg m e) (dyQ_nonneg m' e')) (fun k f => by rw [cmpDy_lt, dyQ_mul, lt_div_iff₀ (dyQ_pos h)])
    (fun k f => by rw [cmpDy_gt, dyQ_mul, div_lt_iff₀ (dyQ_pos h)])

/-- The order with a root. -/
theorem ordersBy_sqrt (m : Nat) (e : Int) : OrdersBy (fun k f => cmpDy (k * k) (2 * f) m e) (fun q => q * q < dyQ m e) (fun q => dyQ m e < q * q) where
  lt_iff := fun k f => by rw [cmpDy_lt, two_mul, dyQ_mul]
  gt_iff := fun k f => by rw [cmpDy_gt, two_mul, dyQ_mul]
  not_gt_zero := by rw [mul_zero]; exact (dyQ_nonneg m e).not_gt
  gt_mono := fun ha hab hgt => lt_of_lt_of_le hgt (mul_le_mul hab hab ha (ha.trans hab))
  gt_of_not_lt := fun ha hab hnlt => lt_of_le_of_lt (le_of_not_gt hnlt) (mul_self_lt_mul_self ha hab)

theorem roundsQ_of {mb mode : Nat} {neg : Bool} {x : Rat} {r : FRes} (hx : 0 < x) (h : RoundsTo mb mode neg (fun q => q < x) (fun q => x < q) r) :
    RoundsQ mb mode (signed neg x) r := by
  have hneg : decide (signed neg x < 0) = neg := by rw [Bool.eq_iff_iff, decide_eq_true_eq, signed_neg_iff hx]
  rw [RoundsQ, hneg, signed_signed]
  exact h

theorem encF_zero (mb mode : Nat) (s : Bool) (e : Int) : encF mb mode (.fin s 0 e) = (withSign mb s 0, 0) := by rw [encF, if_pos rfl, zeroEnc_eq]

theorem encF_rounds (mb mode : Nat) (s : Bool) {m : Nat} (e : Int) (h : m ≠ 0) : RoundsQ mb mode (signed s (dyQ m e)) (encF mb mode (.fin s m e)) := by
  rw [encF, if_neg h]
  exact roundsQ_of (dyQ_pos h) (roundMag_rounds (ordersBy_dy m e) mb mode s)

theorem withFlags_none (mb mode : Nat) (x : FV) : withFlags mb mode (x, 0) = encF mb mode x := by rw [withFlags, Nat.or_zero]

theorem withFlags_nan (mb mode f : Nat) (b : Bool) : withFlags mb mode (.nan b, f) = (canonNan mb, f) := by rw [withFlags, encF, Nat.zero_or]

theorem withFlags_inf (mb mode f : Nat) (s : Bool) : withFlags mb mode (.inf s, f) = (withSign mb s (255 * 2 ^ mb), f) := by
  rw [withFlags, encF, Nat.zero_or, infEnc_eq]

/-! ### Exact sums (R134) -/

theorem scaled_eq {s : Bool} {m : Nat} {e k : Int} (h : k ≤ e) : signed s (dyQ m e) = (FV.scaled k (.fin s m e) : Rat) * 2 ^ k := by
  rw [dyQ_scale h, FV.scaled]
  cases s
  · rfl
  · simp only [signed, if_true]
    push_cast
    ring

theorem signed_natAbs (v : Int) : signed (decide (v < 0)) (v.natAbs : Rat) = v := by
  have habs : ((v.natAbs : Int) : Rat) = ((|v| : Int) : Rat) := by rw [Int.natCast_natAbs]
  rw [← Int.cast_natCast, habs]
  by_cases h : v < 0
  · rw [decide_eq_true h, abs_of_neg h, signed, if_pos rfl]
    push_cast
    ring
  · rw [decide_eq_false h, abs_of_nonneg (le_of_not_gt h), signed, if_neg Bool.false_ne_true]

/-- The exact sum of two finite numbers, rounded once. -/
theorem sum_rule (mb mode : Nat) (p q : Bool) (m m' : Nat) (e e' : Int) :
    SumRule mb mode (signed p (dyQ m e) + signed q (dyQ m' e')) p q (withFlags mb mode (addV mode (.fin p m e) (.fin q m' e'))) := by
  have hsum : signed p (dyQ m e) + signed q (dyQ m' e') =
      ((FV.scaled (min e e') (.fin p m e) + FV.scaled (min e e') (.fin q m' e') : Int) : Rat) * 2 ^ min e e' := by
    rw [scaled_eq (min_le_left e e'), scaled_eq (min_le_right e e')]
    push_cast
    ring
  rw [addV]
  generalize hv : FV.scaled (min e e') (.fin p m e) + FV.scaled (min e e') (.fin q m' e') = v at *
  have hzero : signed p (dyQ m e) + signed q (dyQ m' e') = 0 ↔ v = 0 := by
    rw [hsum, mul_eq_zero, or_iff_left (two_zpow_pos _).ne', Int.cast_eq_zero]
  refine ⟨fun hne => ?_, fun h0 => ?_⟩
  · have hv0 : v ≠ 0 := mt hzero.2 hne
    rw [if_neg hv0, withFlags_none, hsum, ← signed_natAbs v]
    have h := encF_rounds mb mode (decide (v < 0)) (min e e') (Int.natAbs_ne_zero.2 hv0)
    rw [dyQ] at h
    have hmul : signed (decide (v < 0)) (v.natAbs : Rat) * 2 ^ min e e' = signed (decide (v < 0)) ((v.natAbs : Rat) * 2 ^ min e e') := by
      cases decide (v < 0) <;> simp [signed]
    rwa [hmul]
  · rw [if_pos (hzero.1 h0), withFlags_none, encF_zero]
    congr 2
    by_cases hpq : p = q
    · subst hpq
      obtain ⟨hx, hy⟩ := signed_add_eq_zero (dyQ_nonneg m e) (dyQ_nonneg m' e') h0
      rw [if_pos ⟨dyQ_eq_zero.1 hx, dyQ_eq_zero.1 hy, rfl⟩, if_pos rfl]
    · rw [if_neg (fun h => hpq h.2.2), if_neg hpq]
      rfl

/-! ### A rounding that changes nothing -/

theorem roundsTo_exact {mb mode K : Nat} {neg : Bool} {r : FRes} (hK : K < 255 * 2 ^ mb)
    (h : RoundsTo mb mode neg (fun q => q < magQ mb K) (fun q => magQ mb K < q) r) : r = (withSign mb neg K, 0) := by
  obtain ⟨k, up, hk, hngt, hnext, hr, hup, hflags⟩ := h
  have hmono := magQ_strictMono mb
  have hkK : k = K := by
    have hle : k ≤ K := hmono.le_iff_le.1 (le_of_not_gt hngt)
    by_contra hne
    have hlt := hmono.lt_iff_lt.1 (hnext (by omega))
    omega
  subst hkK
  have hnlt : ¬magQ mb k < magQ mb k := lt_irrefl _
  have hdown : up = false := Bool.eq_false_iff.2 (fun h => hnlt (hup.1 h).1)
  refine Prod.ext_iff.2 ⟨by rw [hr, hdown]; rfl, Nat.eq_of_testBit_eq (fun b => ?_)⟩
  rw [Nat.zero_testBit]
  exact Bool.eq_false_iff.2 (fun h => hnlt ((hflags b).1 h).1)

/-- An encoding's magnitude is written back as it was. -/
theorem encF_exact {mb mode m K : Nat} {s : Bool} {e : Int} (hK : K < 255 * 2 ^ mb) (h : dyQ m e = magQ mb K) :
    encF mb mode (.fin s m e) = (withSign mb s K, 0) := by
  by_cases hm : m = 0
  · have hK0 : K = 0 := by
      rw [hm, (dyQ_eq_zero (e := e)).2 rfl, ← magQ_zero mb] at h
      exact ((magQ_strictMono mb).injective h).symm
    rw [hm, encF_zero, hK0]
  · have hr := roundMag_rounds (ordersBy_dy m e) mb mode s
    rw [h] at hr
    rw [encF, if_neg hm]
    exact roundsTo_exact hK hr

end Sys2Proof.Machine
end

section
/-! SUPPORT. The operations of R214 on encodings: NaNs, infinities and zeros, and the exact result rounded once (R134, R135, R139, R214; log 4). -/
namespace Sys2Proof.Machine

/-! ### NaNs (R135) -/

/-- Two values of which one is a NaN. -/
theorem FV.nan_cases : ∀ {x y : FV}, x.isNan = true ∨ y.isNan = true →
    (∃ p, x = .nan p) ∨ (∃ s q, x = .inf s ∧ y = .nan q) ∨ ∃ s m e q, x = .fin s m e ∧ y = .nan q
  | .nan p, _, _ => .inl ⟨p, rfl⟩
  | .inf s, .nan q, _ => .inr (.inl ⟨s, q, rfl, rfl⟩)
  | .fin s m e, .nan q, _ => .inr (.inr ⟨s, m, e, q, rfl, rfl⟩)
  | .inf _, .inf _, h => absurd h (by simp [FV.isNan])
  | .inf _, .fin .., h => absurd h (by simp [FV.isNan])
  | .fin .., .inf _, h => absurd h (by simp [FV.isNan])
  | .fin .., .fin .., h => absurd h (by simp [FV.isNan])

/-- A sum or product with a NaN is a NaN, and raises NV for a signalling one. -/
theorem addV_nan {mode : Nat} {x y : FV} (h : x.isNan = true ∨ y.isNan = true) : addV mode x y = (.nan false, flagIf (x.isSig || y.isSig) fNV) := by
  rcases FV.nan_cases h with ⟨p, rfl⟩ | ⟨s, q, rfl, rfl⟩ | ⟨s, m, e, q, rfl, rfl⟩ <;> rfl

theorem mulV_nan {x y : FV} (h : x.isNan = true ∨ y.isNan = true) : mulV x y = (.nan false, flagIf (x.isSig || y.isSig) fNV) := by
  rcases FV.nan_cases h with ⟨p, rfl⟩ | ⟨s, q, rfl, rfl⟩ | ⟨s, m, e, q, rfl, rfl⟩ <;> rfl

theorem flagIf_or (p q : Bool) (f : Nat) : flagIf p f ||| flagIf q f = flagIf (p || q) f := by cases p <;> cases q <;> simp [flagIf]

/-- The result with NaNs among the operands, all others being no NaNs. -/
theorem nanRule_of {mb : Nat} (hmb : 0 < mb) {ops : List Nat} {r : FRes}
    (h : (∃ a ∈ ops, isNan mb a) → r = (canonNan mb, flagIf (ops.any (fun a => (decF mb a).isSig)) fNV)) : NanRule mb ops r := by
  intro hnan
  obtain rfl := h hnan
  have hany : ops.any (fun a => (decF mb a).isSig) = true ↔ ∃ a ∈ ops, isSig mb a := by
    rw [List.any_eq_true]
    exact exists_congr fun a => and_congr_right fun _ => isSig_decF hmb
  refine ⟨rfl, fun hsig => ?_, fun hquiet => ?_⟩
  · rw [hany.2 hsig]
    rfl
  · have hnone : ops.any (fun a => (decF mb a).isSig) = false := Bool.eq_false_iff.2 (fun hs => by
      obtain ⟨a, ha, hsig⟩ := hany.1 hs
      exact hquiet a ha hsig)
    rw [hnone]
    rfl

section
variable {mb mode a b c : Nat}

theorem nan_two (h : ∃ n ∈ [a, b], isNan mb n) : (decF mb a).isNan = true ∨ (decF mb b).isNan = true := by
  simpa only [List.exists_mem_cons_iff, List.not_mem_nil, false_and, exists_false, or_false, ← isNan_decF] using h

theorem any_two : [a, b].any (fun n => (decF mb n).isSig) = ((decF mb a).isSig || (decF mb b).isSig) := by simp

theorem fAdd_nan (hmb : 0 < mb) : NanRule mb [a, b] (fAdd mb mode a b) :=
  nanRule_of hmb (fun h => by rw [fAdd, addV_nan (nan_two h), withFlags_nan, any_two])

theorem fMul_nan (hmb : 0 < mb) : NanRule mb [a, b] (fMul mb mode a b) :=
  nanRule_of hmb (fun h => by rw [fMul, mulV_nan (nan_two h), withFlags_nan, any_two])

theorem fDiv_nan (hmb : 0 < mb) : NanRule mb [a, b] (fDiv mb mode a b) := by
  refine nanRule_of hmb (fun h => ?_)
  have h := nan_two h
  rw [any_two, fDiv]
  generalize decF mb a = x at h
  generalize decF mb b = y at h
  rcases FV.nan_cases h with ⟨p, rfl⟩ | ⟨s, q, rfl, rfl⟩ | ⟨s, m, e, q, rfl, rfl⟩ <;> rfl

theorem fSqrt_nan (hmb : 0 < mb) : NanRule mb [a] (fSqrt mb mode a) := by
  refine nanRule_of hmb (fun ⟨n, hn, hnan⟩ => ?_)
  obtain rfl := List.mem_singleton.1 hn
  rw [fSqrt, decF_of_nan hnan, List.any_cons, List.any_nil, Bool.or_false, decF_of_nan hnan]
  rfl

theorem fMac_nan (hmb : 0 < mb) (h : isNan mb a ∨ isNan mb b) : NanRule mb [a, b, c] (fMac mb mode a b c) := by
  refine nanRule_of hmb (fun _ => ?_)
  rw [← isNan_decF, ← isNan_decF] at h
  have hgo : ((decF mb c).isNan && !(decF mb a).isNan && !(decF mb b).isNan) = false := by rcases h with h | h <;> simp [h]
  have hsum := addV_nan (mode := mode) (x := .nan false) (y := decF mb c) (.inl rfl)
  rw [fMac]
  dsimp only
  rw [hgo, if_neg Bool.false_ne_true, mulV_nan h]
  dsimp only
  rw [hsum, withFlags_nan]
  rw [List.any_cons, any_two, flagIf_or, show (FV.nan false).isSig = false from rfl, Bool.false_or, Bool.or_comm (decF mb c).isSig, Bool.or_assoc]

/-- 0 × Inf in either order. -/
def ZeroInf (mb a b : Nat) : Prop := (isFin mb a ∧ valQ mb a = 0 ∧ isInf mb b) ∨ (isInf mb a ∧ isFin mb b ∧ valQ mb b = 0)

theorem not_fin_inf {n : Nat} (hf : isFin mb n) (hi : isInf mb n) : False := absurd hi.1 (Nat.ne_of_lt hf)

/-- A finite encoding with its value. -/
theorem decF_val {n : Nat} (h : isFin mb n) : ∃ m e, decF mb n = .fin (signOf mb n) m e ∧ valQ mb n = signed (signOf mb n) (dyQ m e) ∧ (valQ mb n = 0 ↔ m = 0) := by
  obtain ⟨m, e, hd, hq⟩ := decF_of_fin h
  have hv : valQ mb n = signed (signOf mb n) (dyQ m e) := by rw [valQ, hq]
  exact ⟨m, e, hd, hv, by rw [hv, signed_eq_zero, dyQ_eq_zero]⟩

/-! ### Sums (R134) -/

theorem fAdd_fin (ha : isFin mb a) (hb : isFin mb b) : SumRule mb mode (valQ mb a + valQ mb b) (signOf mb a) (signOf mb b) (fAdd mb mode a b) := by
  obtain ⟨m, e, hda, hva, -⟩ := decF_val ha
  obtain ⟨m', e', hdb, hvb, -⟩ := decF_val hb
  rw [fAdd, hda, hdb, hva, hvb]
  exact sum_rule ..

theorem inf_self {n : Nat} (hlt : n < 2 ^ (mb + 9)) (h : isInf mb n) : withSign mb (signOf mb n) (255 * 2 ^ mb) = n := by
  rw [← infEnc_eq, infEnc_of_inf hlt h]

theorem fAdd_inf_fin (hlt : a < 2 ^ (mb + 9)) (ha : isInf mb a) (hb : isFin mb b) : fAdd mb mode a b = (a, 0) := by
  obtain ⟨m, e, hdb, -⟩ := decF_val hb
  rw [fAdd, decF_of_inf ha, hdb, addV, withFlags_inf, inf_self hlt ha]
  all_goals nofun

theorem fAdd_fin_inf (hlt : b < 2 ^ (mb + 9)) (ha : isFin mb a) (hb : isInf mb b) : fAdd mb mode a b = (b, 0) := by
  obtain ⟨m, e, hda, -⟩ := decF_val ha
  rw [fAdd, decF_of_inf hb, hda, addV, withFlags_inf, inf_self hlt hb]
  all_goals nofun

theorem fAdd_inf_inf (hlt : a < 2 ^ (mb + 9)) (ha : isInf mb a) (hb : isInf mb b) :
    fAdd mb mode a b = if signOf mb a = signOf mb b then (a, 0) else (canonNan mb, 1) := by
  rw [fAdd, decF_of_inf ha, decF_of_inf hb, addV]
  split_ifs
  · rw [withFlags_inf, inf_self hlt ha]
  · rw [withFlags_nan, fNV]

/-- The encoding with the sign inverted. -/
def flipSign (mb b : Nat) : Nat := if signOf mb b then b - 2 ^ (mb + 8) else b + 2 ^ (mb + 8)

theorem flipSign_eq (hlt : b < 2 ^ (mb + 9)) : signOf mb (flipSign mb b) = !signOf mb b ∧ flipSign mb b % 2 ^ (mb + 8) = b % 2 ^ (mb + 8) := by
  have hpos : 0 < 2 ^ (mb + 8) := Nat.two_pow_pos _
  have hdiv : b / 2 ^ (mb + 8) < 2 := Nat.div_lt_of_lt_mul (by rwa [← Nat.pow_succ])
  have hb := Nat.div_add_mod b (2 ^ (mb + 8))
  unfold flipSign
  by_cases hs : signOf mb b = true
  · rw [if_pos hs, hs]
    have h1 : b / 2 ^ (mb + 8) = 1 := by
      rw [signOf, beq_iff_eq, Nat.mod_eq_of_lt hdiv] at hs
      exact hs
    rw [h1, Nat.mul_one] at hb
    have hrest : b - 2 ^ (mb + 8) = b % 2 ^ (mb + 8) := by omega
    have hlow := Nat.mod_lt b hpos
    rw [hrest, signOf, Nat.div_eq_of_lt hlow, Nat.mod_mod]
    exact ⟨rfl, rfl⟩
  · rw [if_neg hs]
    refine ⟨?_, Nat.add_mod_right ..⟩
    have hs0 : signOf mb b = false := Bool.eq_false_iff.2 hs
    have h0 : b / 2 ^ (mb + 8) = 0 := by
      rw [signOf, beq_eq_false_iff_ne, Nat.mod_eq_of_lt hdiv] at hs0
      generalize b / 2 ^ (mb + 8) = q at *
      omega
    rw [hs0, signOf, Nat.add_div_right _ hpos, h0]
    rfl

theorem decF_flipSign (hlt : b < 2 ^ (mb + 9)) : decF mb (flipSign mb b) = (decF mb b).flip := by
  obtain ⟨hs, hrest⟩ := flipSign_eq hlt
  have hexp : flipSign mb b / 2 ^ mb % 256 = b / 2 ^ mb % 256 := by rw [← exp_of_mod, hrest, exp_of_mod]
  have hfrac : flipSign mb b % 2 ^ mb = b % 2 ^ mb := by rw [← frac_of_mod, hrest, frac_of_mod]
  rw [decF_eq, decF_eq, hexp, hfrac, hs, hrest]
  split_ifs <;> rfl

theorem fSub_eq (hlt : b < 2 ^ (mb + 9)) : fSub mb mode a b = fAdd mb mode a (flipSign mb b) := by rw [fSub, fAdd, decF_flipSign hlt]

/-! ### Products -/

theorem mulV_fin (p q : Bool) (m m' : Nat) (e e' : Int) : mulV (.fin p m e) (.fin q m' e') = (.fin (p != q) (m * m') (e + e'), 0) := rfl

theorem fMul_fin (ha : isFin mb a) (hb : isFin mb b) :
    (valQ mb a * valQ mb b ≠ 0 → RoundsQ mb mode (valQ mb a * valQ mb b) (fMul mb mode a b)) ∧
      (valQ mb a * valQ mb b = 0 → fMul mb mode a b = (withSign mb (signOf mb a != signOf mb b) 0, 0)) := by
  obtain ⟨m, e, hda, hva, hza⟩ := decF_val ha
  obtain ⟨m', e', hdb, hvb, hzb⟩ := decF_val hb
  have hzero : valQ mb a * valQ mb b = 0 ↔ m * m' = 0 := by rw [mul_eq_zero, hza, hzb, Nat.mul_eq_zero]
  rw [fMul, hda, hdb, mulV_fin, withFlags_none]
  refine ⟨fun h => ?_, fun h => ?_⟩
  · rw [hva, hvb, ← signed_mul, ← dyQ_mul]
    exact encF_rounds _ _ _ _ (mt hzero.2 h)
  · rw [hzero.1 h, encF_zero]

/-- A product with an infinity: NV for 0 × Inf, else an infinity. -/
theorem mulV_zeroInf (h : ZeroInf mb a b) : mulV (decF mb a) (decF mb b) = (.nan false, 1) := by
  rcases h with ⟨ha, hz, hb⟩ | ⟨ha, hb, hz⟩
  · obtain ⟨m, e, hda, -, hm⟩ := decF_val ha
    rw [hda, decF_of_inf hb, hm.1 hz]
    rfl
  · obtain ⟨m, e, hdb, -, hm⟩ := decF_val hb
    rw [hdb, decF_of_inf ha, hm.1 hz]
    rfl

theorem mulV_oneInf (ha : ¬isNan mb a) (hb : ¬isNan mb b) (hz : ¬ZeroInf mb a b) (h : isInf mb a ∨ isInf mb b) :
    mulV (decF mb a) (decF mb b) = (.inf (signOf mb a != signOf mb b), 0) := by
  rcases fin_inf_nan mb a with hfa | hia | hna
  · have hib : isInf mb b := h.resolve_left (not_fin_inf hfa)
    obtain ⟨m, e, hda, -, hm⟩ := decF_val hfa
    have hm0 : m ≠ 0 := fun h0 => hz (.inl ⟨hfa, hm.2 h0, hib⟩)
    rw [hda, decF_of_inf hib, mulV, if_neg hm0]
  · rcases fin_inf_nan mb b with hfb | hib | hnb
    · obtain ⟨m, e, hdb, -, hm⟩ := decF_val hfb
      have hm0 : m ≠ 0 := fun h0 => hz (.inr ⟨hia, hfb, hm.2 h0⟩)
      rw [hdb, decF_of_inf hia, mulV, if_neg hm0]
    · rw [decF_of_inf hia, decF_of_inf hib, mulV]
    · exact absurd hnb hb
  · exact absurd hna ha

theorem fMul_zeroInf (h : ZeroInf mb a b) : fMul mb mode a b = (canonNan mb, 1) := by rw [fMul, mulV_zeroInf h, withFlags_nan]

theorem fMul_oneInf (ha : ¬isNan mb a) (hb : ¬isNan mb b) (hz : ¬ZeroInf mb a b) (h : isInf mb a ∨ isInf mb b) :
    fMul mb mode a b = (withSign mb (signOf mb a != signOf mb b) (255 * 2 ^ mb), 0) := by rw [fMul, mulV_oneInf ha hb hz h, withFlags_inf]

end

end Sys2Proof.Machine
end

section
/-! SUPPORT. Fused products and sums, quotients and roots of encodings (R134, R139, R214; log 4). -/
namespace Sys2Proof.Machine

section
variable {mb mode a b c : Nat}

/-! ### Fused products and sums -/

theorem addV_inf_fin (mode : Nat) (s t : Bool) (m : Nat) (e : Int) : addV mode (.inf s) (.fin t m e) = (.inf s, 0) := rfl
theorem addV_fin_inf (mode : Nat) (s t : Bool) (m : Nat) (e : Int) : addV mode (.fin t m e) (.inf s) = (.inf s, 0) := rfl
theorem addV_nan_left (mode : Nat) {x : FV} (h : x.isNan = false) : addV mode (.nan false) x = (.nan false, 0) := by
  cases x with
  | nan => cases h
  | inf => rfl
  | fin => rfl

theorem isNan_false {n : Nat} (h : ¬isNan mb n) : (decF mb n).isNan = false := Bool.eq_false_iff.2 (mt (isNan_decF mb n).1 h)

/-- With no NaN among the factors, and none in the third operand, the fused operation is a sum. -/
theorem fMac_eq (hc : ¬isNan mb c) : fMac mb mode a b c =
    withFlags mb mode ((addV mode (mulV (decF mb a) (decF mb b)).1 (decF mb c)).1,
      (addV mode (mulV (decF mb a) (decF mb b)).1 (decF mb c)).2 ||| (mulV (decF mb a) (decF mb b)).2) := by
  rw [fMac]
  dsimp only
  rw [isNan_false hc]
  rfl

theorem fMac_fin (ha : isFin mb a) (hb : isFin mb b) (hc : isFin mb c) :
    SumRule mb mode (valQ mb a * valQ mb b + valQ mb c) (signOf mb a != signOf mb b) (signOf mb c) (fMac mb mode a b c) := by
  obtain ⟨m, e, hda, hva, -⟩ := decF_val ha
  obtain ⟨m', e', hdb, hvb, -⟩ := decF_val hb
  obtain ⟨n, k, hdc, hvc, -⟩ := decF_val hc
  rw [fMac_eq (not_nan_of_fin hc), hda, hdb, hdc, mulV_fin, hva, hvb, hvc, ← signed_mul, ← dyQ_mul]
  dsimp only
  rw [Nat.or_zero]
  exact sum_rule ..

theorem fMac_inf (hlt : c < 2 ^ (mb + 9)) (ha : isFin mb a) (hb : isFin mb b) (hc : isInf mb c) : fMac mb mode a b c = (c, 0) := by
  obtain ⟨m, e, hda, -⟩ := decF_val ha
  obtain ⟨m', e', hdb, -⟩ := decF_val hb
  rw [fMac_eq (not_nan_of_inf hc), hda, hdb, decF_of_inf hc, mulV_fin]
  dsimp only
  rw [addV_fin_inf]
  dsimp only
  rw [Nat.or_zero, withFlags_inf, inf_self hlt hc]

theorem fMac_zeroInf (h : ZeroInf mb a b) (hc : ¬isNan mb c) : fMac mb mode a b c = (canonNan mb, 1) := by
  rw [fMac_eq hc, mulV_zeroInf h]
  dsimp only
  rw [addV_nan_left mode (isNan_false hc), withFlags_nan]
  rfl

section
variable (ha : ¬isNan mb a) (hb : ¬isNan mb b) (hz : ¬ZeroInf mb a b) (h : isInf mb a ∨ isInf mb b)
include ha hb hz h

theorem fMac_oneInf_fin (hc : isFin mb c) : fMac mb mode a b c = (withSign mb (signOf mb a != signOf mb b) (255 * 2 ^ mb), 0) := by
  obtain ⟨n, k, hdc, -⟩ := decF_val hc
  rw [fMac_eq (not_nan_of_fin hc), mulV_oneInf ha hb hz h, hdc]
  dsimp only
  rw [addV_inf_fin, Nat.or_zero, withFlags_inf]

theorem fMac_oneInf_inf (hlt : c < 2 ^ (mb + 9)) (hc : isInf mb c) :
    fMac mb mode a b c = if (signOf mb a != signOf mb b) = signOf mb c then (c, 0) else (canonNan mb, 1) := by
  rw [fMac_eq (not_nan_of_inf hc), mulV_oneInf ha hb hz h, decF_of_inf hc]
  dsimp only
  rw [addV]
  split_ifs with hs
  · rw [Nat.or_zero, withFlags_inf, hs, inf_self hlt hc]
  · rw [Nat.or_zero, withFlags_nan, fNV]

end

/-- A product raises NV just for 0 × Inf where no factor is a NaN. -/
theorem mulV_flag (ha : ¬isNan mb a) (hb : ¬isNan mb b) (hz : ¬ZeroInf mb a b) : (mulV (decF mb a) (decF mb b)).2 = 0 := by
  by_cases h : isInf mb a ∨ isInf mb b
  · rw [mulV_oneInf ha hb hz h]
  · obtain ⟨m, e, hda, -⟩ := decF_val ((fin_inf_nan mb a).resolve_right (fun hi => hi.elim (fun hi => h (.inl hi)) ha))
    obtain ⟨m', e', hdb, -⟩ := decF_val ((fin_inf_nan mb b).resolve_right (fun hi => hi.elim (fun hi => h (.inr hi)) hb))
    rw [hda, hdb, mulV_fin]

/-- A NaN in the third operand alone; for 0 × Inf NV is the implementation's choice (log 4). -/
theorem fMac_nan_last (hmb : 0 < mb) (ha : ¬isNan mb a) (hb : ¬isNan mb b) (hc : isNan mb c) :
    (fMac mb mode a b c).1 = canonNan mb ∧ (isSig mb c → (fMac mb mode a b c).2 = 1) ∧
      (¬isSig mb c → ¬ZeroInf mb a b → (fMac mb mode a b c).2 = 0) ∧
      (¬isSig mb c → ZeroInf mb a b → (fMac mb mode a b c).2 = if Config.fmaInvalid then 1 else 0) := by
  have heq : fMac mb mode a b c = (canonNan mb, flagIf ((decF mb c).isSig || ((mulV (decF mb a) (decF mb b)).2 != 0 && Config.fmaInvalid)) fNV) := by
    rw [fMac]
    dsimp only
    rw [(isNan_decF mb c).2 hc, isNan_false ha, isNan_false hb]
    rfl
  rw [heq]
  refine ⟨rfl, fun hs => ?_, fun hs hz => ?_, fun hs hz => ?_⟩
  · rw [(isSig_decF hmb).2 hs]
    rfl
  · rw [Bool.eq_false_iff.2 (mt (isSig_decF hmb).1 hs), mulV_flag ha hb hz]
    rfl
  · rw [Bool.eq_false_iff.2 (mt (isSig_decF hmb).1 hs), mulV_zeroInf hz]
    rfl

/-! ### Quotients -/

/-- A quotient of finite numbers, of which the divisor is not 0. -/
theorem fDiv_rounds (ha : isFin mb a) (hb : isFin mb b) (h : valQ mb a ≠ 0) (h' : valQ mb b ≠ 0) :
    RoundsQ mb mode (valQ mb a / valQ mb b) (fDiv mb mode a b) := by
  obtain ⟨m, e, hda, hva, hza⟩ := decF_val ha
  obtain ⟨m', e', hdb, hvb, hzb⟩ := decF_val hb
  rw [fDiv, hda, hdb]
  dsimp only
  rw [if_neg (mt hzb.2 h'), if_neg (mt hza.2 h), hva, hvb, ← signed_div]
  exact roundsQ_of (div_pos (dyQ_pos (mt hza.2 h)) (dyQ_pos (mt hzb.2 h'))) (roundMag_rounds (ordersBy_div m e e' (mt hzb.2 h')) mb mode _)

theorem fDiv_zero (ha : isFin mb a) (hb : isFin mb b) (h : valQ mb a = 0) (h' : valQ mb b ≠ 0) :
    fDiv mb mode a b = (withSign mb (signOf mb a != signOf mb b) 0, 0) := by
  obtain ⟨m, e, hda, hva, hza⟩ := decF_val ha
  obtain ⟨m', e', hdb, hvb, hzb⟩ := decF_val hb
  rw [fDiv, hda, hdb]
  dsimp only
  rw [if_neg (mt hzb.2 h'), if_pos (hza.1 h), zeroEnc_eq]

theorem fDiv_by_zero (ha : isFin mb a) (hb : isFin mb b) (h' : valQ mb b = 0) :
    fDiv mb mode a b = if valQ mb a = 0 then (canonNan mb, 1) else (withSign mb (signOf mb a != signOf mb b) (255 * 2 ^ mb), 2) := by
  obtain ⟨m, e, hda, hva, hza⟩ := decF_val ha
  obtain ⟨m', e', hdb, hvb, hzb⟩ := decF_val hb
  rw [fDiv, hda, hdb]
  dsimp only
  rw [if_pos (hzb.1 h'), if_congr hza rfl rfl, infEnc_eq]
  rfl

theorem fDiv_inf_inf (ha : isInf mb a) (hb : isInf mb b) : fDiv mb mode a b = (canonNan mb, 1) := by
  rw [fDiv, decF_of_inf ha, decF_of_inf hb]
  rfl

theorem fDiv_inf_fin (ha : isInf mb a) (hb : isFin mb b) : fDiv mb mode a b = (withSign mb (signOf mb a != signOf mb b) (255 * 2 ^ mb), 0) := by
  obtain ⟨m, e, hdb, -⟩ := decF_val hb
  rw [fDiv, decF_of_inf ha, hdb, ← infEnc_eq]

theorem fDiv_fin_inf (ha : isFin mb a) (hb : isInf mb b) : fDiv mb mode a b = (withSign mb (signOf mb a != signOf mb b) 0, 0) := by
  obtain ⟨m, e, hda, -⟩ := decF_val ha
  rw [fDiv, decF_of_inf hb, hda, ← zeroEnc_eq]

/-! ### Roots -/

theorem fSqrt_zero (hlt : a < 2 ^ (mb + 9)) (ha : isFin mb a) (h : valQ mb a = 0) : fSqrt mb mode a = (a, 0) := by
  obtain ⟨m, e, hda, -, hza⟩ := decF_val ha
  rw [fSqrt, hda]
  dsimp only
  rw [if_pos (hza.1 h), zeroEnc_of_zero hlt h]

theorem fSqrt_rounds (ha : isFin mb a) (h : 0 < valQ mb a) :
    RoundsTo mb mode false (fun q => q * q < valQ mb a) (fun q => valQ mb a < q * q) (fSqrt mb mode a) := by
  obtain ⟨m, e, hda, hva, hza⟩ := decF_val ha
  have hm : m ≠ 0 := mt hza.2 h.ne'
  have hs : signOf mb a = false := Bool.eq_false_iff.2 (fun hs => by
    have hneg := (signed_neg_iff (s := signOf mb a) (dyQ_pos (e := e) hm)).2 hs
    rw [← hva] at hneg
    exact lt_asymm h hneg)
  rw [hs] at hva hda
  rw [fSqrt, hda]
  dsimp only
  rw [if_neg hm, if_neg Bool.false_ne_true, show valQ mb a = dyQ m e from hva]
  exact roundMag_rounds (ordersBy_sqrt m e) mb mode false

theorem fSqrt_neg (ha : isFin mb a) (h : valQ mb a < 0) : fSqrt mb mode a = (canonNan mb, 1) := by
  obtain ⟨m, e, hda, hva, hza⟩ := decF_val ha
  have hm : m ≠ 0 := mt hza.2 h.ne
  rw [hva, signed_neg_iff (dyQ_pos hm)] at h
  rw [fSqrt, hda]
  dsimp only
  rw [if_neg hm, if_pos h]
  rfl

theorem fSqrt_inf (hlt : a < 2 ^ (mb + 9)) (ha : isInf mb a) : fSqrt mb mode a = if signOf mb a then (canonNan mb, 1) else (a, 0) := by
  rw [fSqrt, decF_of_inf ha]
  dsimp only
  split_ifs with hs
  · rfl
  · rw [← Bool.eq_false_iff.2 hs, infEnc_of_inf hlt ha]

end

end Sys2Proof.Machine
end

section
/-! SUPPORT. Conversions: rounding to an integer, integers and the other format (R137, R138, R140, R216). -/
namespace Sys2Proof.Machine

/-! ### Rounding to an integer (R138, R140) -/

/-- What `rshr` looks at in the rest of a quotient by 2^s, as facts about its fraction. -/
structure RestOf (x : Int) (s : Nat) (frac : Rat) : Prop where
  nonneg : 0 ≤ frac
  lt_one : frac < 1
  quot : (x : Rat) / 2 ^ s = ((x / (2 ^ s : Nat) : Int) : Rat) + frac
  zero : x - x / (2 ^ s : Nat) * (2 ^ s : Nat) = 0 ↔ frac = 0
  more : 2 * (x - x / (2 ^ s : Nat) * (2 ^ s : Nat)) > (2 ^ s : Nat) ↔ 1 < 2 * frac
  half : 2 * (x - x / (2 ^ s : Nat) * (2 ^ s : Nat)) = (2 ^ s : Nat) ↔ 2 * frac = 1
  neg : x < 0 ↔ ((x / (2 ^ s : Nat) : Int) : Rat) + frac < 0

theorem restOf_exists (x : Int) (s : Nat) : ∃ frac, RestOf x s frac := by
  have hp : (0 : Int) < (2 ^ s : Nat) := by exact_mod_cast Nat.two_pow_pos s
  have hpq : (0 : Rat) < 2 ^ s := by positivity
  have hcast : (((2 ^ s : Nat) : Int) : Rat) = 2 ^ s := by push_cast; rfl
  have hrest : x - x / (2 ^ s : Nat) * (2 ^ s : Nat) = x % (2 ^ s : Nat) := by rw [Int.emod_def, mul_comm]
  have hx : (x : Rat) = ((x / (2 ^ s : Nat) : Int) : Rat) * 2 ^ s + ((x % (2 ^ s : Nat) : Int) : Rat) := by exact_mod_cast (Int.ediv_mul_add_emod x _).symm
  have hquot : (x : Rat) / 2 ^ s = ((x / (2 ^ s : Nat) : Int) : Rat) + ((x % (2 ^ s : Nat) : Int) : Rat) / 2 ^ s := by
    rw [hx, add_div, mul_div_cancel_right₀ _ hpq.ne']
  refine ⟨((x % (2 ^ s : Nat) : Int) : Rat) / 2 ^ s, ?_, ?_, hquot, ?_, ?_, ?_, ?_⟩
  · exact div_nonneg (by exact_mod_cast Int.emod_nonneg _ hp.ne') hpq.le
  · rw [div_lt_one hpq, ← hcast]
    exact_mod_cast Int.emod_lt_of_pos _ hp
  · rw [hrest, div_eq_zero_iff, or_iff_left hpq.ne', Int.cast_eq_zero]
  · rw [hrest, ← mul_div_assoc, one_lt_div hpq, ← hcast]
    exact_mod_cast Iff.rfl
  · rw [hrest, ← mul_div_assoc, div_eq_one_iff_eq hpq.ne', ← hcast]
    exact_mod_cast Iff.rfl
  · rw [← hquot, div_lt_iff₀ hpq, zero_mul, Int.cast_lt_zero]

/-- `rshr` rounds the quotient in the mode. -/
theorem rshr_rounds (x : Int) (s : Nat) {mode : Nat} (h : mode < 4) : RoundsInt ((x : Rat) / 2 ^ s) mode (rshr x s mode) := by
  obtain ⟨frac, hr⟩ := restOf_exists x s
  obtain ⟨hge, hlt, hquot, hzero, hmore, hhalf, hneg⟩ := hr
  rw [hquot, rshr]
  generalize x / (2 ^ s : Nat) = q at *
  obtain rfl | rfl | rfl | rfl : mode = 0 ∨ mode = 1 ∨ mode = 2 ∨ mode = 3 := by omega
  · simp only [RoundsInt, hzero, hmore, hhalf]
    split_ifs with h0 hup
    · subst h0
      refine ⟨by linarith, by linarith, fun h => ?_⟩
      rcases h with h | h <;> linarith
    · push_cast
      rcases hup with hup | ⟨hup, hodd⟩
      · refine ⟨by linarith, by linarith, fun h => ?_⟩
        rcases h with h | h <;> linarith
      · exact ⟨by linarith, by linarith, fun _ => by omega⟩
    · rw [not_or, not_lt, not_and] at hup
      refine ⟨by linarith, by linarith [hup.1], fun h => ?_⟩
      have := hup.2 (by rcases h with h | h <;> linarith)
      omega
  · simp only [RoundsInt, one_ne_zero, if_false, reduceIte, Nat.reduceEqDiff, ite_self]
    exact ⟨by linarith, by linarith⟩
  · simp only [RoundsInt, hzero, OfNat.ofNat_ne_zero, if_false, Nat.reduceEqDiff]
    split_ifs with h0
    · exact ⟨by linarith, by linarith⟩
    · have hpos : 0 < frac := lt_of_le_of_ne hge (Ne.symm h0)
      push_cast
      exact ⟨by linarith, by linarith⟩
  · simp only [RoundsInt, hzero, hneg, OfNat.ofNat_ne_zero, if_false, reduceIte]
    split_ifs with h0 hn
    · exact ⟨fun _ => ⟨by linarith, by linarith⟩, fun _ => ⟨by linarith, by linarith⟩⟩
    · have hpos : 0 < frac := lt_of_le_of_ne hge (Ne.symm h0)
      push_cast
      exact ⟨fun h => by linarith, fun _ => ⟨by linarith, by linarith⟩⟩
    · have hpos : 0 < frac := lt_of_le_of_ne hge (Ne.symm h0)
      refine ⟨fun _ => ⟨by linarith, by linarith⟩, fun h => ?_⟩
      have hlow : -1 < q := by exact_mod_cast (show (-1 : Rat) < q by linarith)
      have hhigh : q < 0 := by exact_mod_cast (show (q : Rat) < 0 by linarith)
      omega

/-- A rounded number is one integer only. -/
theorem RoundsInt.unique {x : Rat} {mode : Nat} {i j : Int} (hi : RoundsInt x mode i) (hj : RoundsInt x mode j) : i = j := by
  have hbetween : ∀ {i j : Int} {x : Rat}, ((i : Rat) ≤ x ∧ x < i + 1) → ((j : Rat) ≤ x ∧ x < j + 1) → i = j := fun {i j x} hi hj => by
    have h1 : i < j + 1 := by exact_mod_cast lt_of_le_of_lt hi.1 hj.2
    have h2 : j < i + 1 := by exact_mod_cast lt_of_le_of_lt hj.1 hi.2
    omega
  have habove : ∀ {i j : Int} {x : Rat}, (x ≤ i ∧ (i : Rat) < x + 1) → (x ≤ j ∧ (j : Rat) < x + 1) → i = j := fun {i j x} hi hj => by
    have h1 : i < j + 1 := by exact_mod_cast (show (i : Rat) < j + 1 by linarith [hi.2, hj.1])
    have h2 : j < i + 1 := by exact_mod_cast (show (j : Rat) < i + 1 by linarith [hj.2, hi.1])
    omega
  rcases mode with _ | _ | _ | mode
  · obtain ⟨hi1, hi2, hi3⟩ := hi
    obtain ⟨hj1, hj2, hj3⟩ := hj
    by_contra hne
    have hle : i ≤ j + 1 := by exact_mod_cast (show (i : Rat) ≤ j + 1 by linarith)
    have hge : j ≤ i + 1 := by exact_mod_cast (show (j : Rat) ≤ i + 1 by linarith)
    rcases (show i = j + 1 ∨ j = i + 1 by omega) with h | h
    · subst h
      push_cast at hi1 hi3
      have h1 := hi3 (.inr (by linarith))
      have h2 := hj3 (.inl (by linarith))
      omega
    · subst h
      push_cast at hj1 hj3
      have h1 := hi3 (.inl (by linarith))
      have h2 := hj3 (.inr (by linarith))
      omega
  · exact hbetween hi hj
  · exact habove hi hj
  · rcases le_total 0 x with hx | hx
    · exact hbetween (hi.1 hx) (hj.1 hx)
    · exact habove (hi.2 hx) (hj.2 hx)

/-- An integer is rounded to itself. -/
theorem roundsInt_self (i : Int) (mode : Nat) : RoundsInt (i : Rat) mode i := by
  rcases mode with _ | _ | _ | mode <;> simp [RoundsInt]

/-- A quotient by 2^k is an integer just when 2^k divides. -/
theorem div_pow_eq_int {v : Int} {k : Nat} : (∃ i : Int, (v : Rat) / 2 ^ k = i) ↔ v % (2 ^ k : Nat) = 0 := by
  have hp : (2 : Rat) ^ k ≠ 0 := by positivity
  constructor
  · rintro ⟨i, hi⟩
    rw [div_eq_iff hp] at hi
    have hv : v = i * (2 ^ k : Nat) := by exact_mod_cast hi
    rw [hv, Int.mul_emod_left]
  · intro h
    have hv : v = v / (2 ^ k : Nat) * (2 ^ k : Nat) := (Int.ediv_mul_cancel (Int.dvd_of_emod_eq_zero h)).symm
    refine ⟨v / (2 ^ k : Nat), (div_eq_iff hp).2 ?_⟩
    exact_mod_cast hv

/-- `roundInt` rounds ±m × 2^e, and says whether that changes it (R140, R143). -/
theorem roundInt_rounds (neg : Bool) (m : Nat) (e : Int) {mode : Nat} (h : mode < 4) :
    RoundsInt (signed neg (dyQ m e)) mode (roundInt neg m e mode).1 ∧ ((roundInt neg m e mode).2 = true ↔ signed neg (dyQ m e) ≠ ((roundInt neg m e mode).1 : Rat)) := by
  have hmul : signed neg (dyQ m e) = ((if neg then -(m : Int) else m : Int) : Rat) * 2 ^ e := by cases neg <;> simp [signed, dyQ]
  have hmod : ∀ k : Nat, (m % k = 0 ↔ (if neg then -(m : Int) else m : Int) % (k : Int) = 0) := fun k => by
    rw [← Int.natCast_eq_zero, Int.natCast_mod]
    cases neg
    · rfl
    · rw [if_pos rfl, ← Int.dvd_iff_emod_eq_zero, ← Int.dvd_iff_emod_eq_zero, Int.dvd_neg]
  unfold roundInt
  rw [hmul]
  generalize (if neg then -(m : Int) else m : Int) = v at *
  by_cases he : e ≥ 0
  · have hexact : (v : Rat) * 2 ^ e = ((v * (2 ^ e.toNat : Nat) : Int) : Rat) := by
      conv_lhs => rw [← Int.toNat_of_nonneg he]
      push_cast
      rw [zpow_natCast]
    rw [if_pos he, hexact]
    exact ⟨roundsInt_self _ mode, iff_of_false Bool.false_ne_true (fun hne => hne rfl)⟩
  · have hdiv : (v : Rat) * 2 ^ e = v / 2 ^ (-e).toNat := by
      rw [← zpow_natCast, Int.toNat_of_nonneg (by omega), zpow_neg, div_inv_eq_mul]
    have hround := rshr_rounds v (-e).toNat h
    rw [if_neg he, hdiv]
    refine ⟨hround, ?_⟩
    rw [bne_iff_ne, Ne, hmod, ← div_pow_eq_int]
    refine not_congr ⟨fun ⟨i, hi⟩ => ?_, fun hi => ⟨_, hi⟩⟩
    rw [hi] at hround ⊢
    rw [(roundsInt_self i mode).unique hround]

/-! ### Floating to integer, and back (R137, R216) -/

section
variable {mb mode a : Nat}

theorem fToInt_nan (sgn : Bool) (w : Nat) (h : isNan mb a) : fToInt sgn w mb mode a = (0, 1) := by
  rw [fToInt, decF_of_nan h]
  rfl

/-- The least and the greatest integer of `w` bits. -/
def loInt (sgn : Bool) (w : Nat) : Int := if sgn then -(2 ^ (w - 1) : Nat) else 0
def hiInt (sgn : Bool) (w : Nat) : Int := if sgn then (2 ^ (w - 1) : Nat) - 1 else (2 ^ w : Nat) - 1

theorem fToInt_inf (sgn : Bool) (w : Nat) (h : isInf mb a) :
    fToInt sgn w mb mode a = (tr w (if signOf mb a then loInt sgn w else hiInt sgn w), 1) := by
  rw [fToInt, decF_of_inf h]
  rfl

theorem loInt_le_hiInt (sgn : Bool) (w : Nat) : loInt sgn w ≤ hiInt sgn w := by
  have h1 : (1 : Int) ≤ (2 ^ (w - 1) : Nat) := by exact_mod_cast Nat.one_le_two_pow
  have h2 : (1 : Int) ≤ (2 ^ w : Nat) := by exact_mod_cast Nat.one_le_two_pow
  cases sgn <;> simp only [loInt, hiInt, Bool.false_eq_true, if_false, if_true] <;> omega

/-- A finite value is rounded, and saturates outside the range (R137). -/
theorem fToInt_fin (sgn : Bool) (w : Nat) (h : isFin mb a) (hmode : mode < 4) : ∃ i : Int, RoundsInt (valQ mb a) mode i ∧
    (loInt sgn w ≤ i → i ≤ hiInt sgn w → fToInt sgn w mb mode a = (tr w i, if valQ mb a = (i : Rat) then 0 else 16)) ∧
    (i < loInt sgn w → fToInt sgn w mb mode a = (tr w (loInt sgn w), 1)) ∧ (hiInt sgn w < i → fToInt sgn w mb mode a = (tr w (hiInt sgn w), 1)) := by
  obtain ⟨m, e, hd, hv, -⟩ := decF_val h
  obtain ⟨hround, hinexact⟩ := roundInt_rounds (signOf mb a) m e hmode
  have heq : fToInt sgn w mb mode a = if (roundInt (signOf mb a) m e mode).1 < loInt sgn w then (tr w (loInt sgn w), fNV)
      else if (roundInt (signOf mb a) m e mode).1 > hiInt sgn w then (tr w (hiInt sgn w), fNV)
      else (tr w (roundInt (signOf mb a) m e mode).1, flagIf (roundInt (signOf mb a) m e mode).2 fNX) := by
    rw [fToInt, hd]
    rfl
  rw [← hv] at hround hinexact
  refine ⟨_, hround, fun hlo hhi => ?_, fun hlo => ?_, fun hhi => ?_⟩
  · rw [heq, if_neg (not_lt.2 hlo), if_neg (not_lt.2 hhi)]
    by_cases hex : valQ mb a = ((roundInt (signOf mb a) m e mode).1 : Rat)
    · rw [if_pos hex, Bool.eq_false_iff.2 (fun hne => hinexact.1 hne hex)]
      rfl
    · rw [if_neg hex, hinexact.2 hex]
      rfl
  · rw [heq, if_pos hlo]
    rfl
  · have hle := loInt_le_hiInt sgn w
    rw [heq, if_neg (by omega), if_pos hhi]
    rfl

theorem fOfInt_rounds (i : Int) : (i ≠ 0 → RoundsQ mb mode (i : Rat) (fOfInt mb mode i)) ∧ fOfInt mb mode 0 = (0, 0) := by
  refine ⟨fun h => ?_, by rw [fOfInt, Int.natAbs_zero, encF_zero]; rfl⟩
  have hr := encF_rounds mb mode (decide (i < 0)) 0 (Int.natAbs_ne_zero.2 h)
  rw [dyQ, zpow_zero, mul_one, signed_natAbs] at hr
  exact hr

/-! ### FP32 and BF16 (R216) -/

theorem shift_sign {n : Nat} (h : n % 2 ^ 31 % 2 ^ 16 = 0) (hlt : n < 2 ^ 32) :
    withSign 7 (signOf 23 n) (n % 2 ^ 31 / 2 ^ 16) = n / 2 ^ 16 := by
  have hn := withSign_signOf (mb := 23) hlt
  rw [withSign] at hn ⊢
  norm_num at hn h ⊢
  split_ifs at hn ⊢ <;> omega

/-- A conversion between formats is a rounding of the value. -/
theorem fNarrow_eq (mode a : Nat) : fNarrow mode a = withFlags 7 mode (decF 23 a, flagIf (decF 23 a).isSig fNV) := rfl
theorem fWiden_eq (a : Nat) : fWiden a = withFlags 23 0 (decF 7 a, flagIf (decF 7 a).isSig fNV) := rfl

theorem convert_fin {mb mb' mode a : Nat} {s : Bool} {m : Nat} {e : Int} (h : decF mb a = .fin s m e) :
    withFlags mb' mode (decF mb a, flagIf (decF mb a).isSig fNV) = encF mb' mode (.fin s m e) := by
  rw [h]
  exact withFlags_none ..

theorem convert_inf {mb mb' mode a : Nat} (h : isInf mb a) :
    withFlags mb' mode (decF mb a, flagIf (decF mb a).isSig fNV) = (withSign mb' (signOf mb a) (255 * 2 ^ mb'), 0) := by
  rw [decF_of_inf h]
  exact withFlags_inf ..

theorem convert_nan {mb mb' mode a : Nat} (hmb : 0 < mb) (h : isNan mb a) :
    let r := withFlags mb' mode (decF mb a, flagIf (decF mb a).isSig fNV)
    r.1 = canonNan mb' ∧ (isSig mb a → r.2 = 1) ∧ (¬isSig mb a → r.2 = 0) := by
  have heq : withFlags mb' mode (decF mb a, flagIf (decF mb a).isSig fNV) = (canonNan mb', flagIf (decF mb a).isSig fNV) := by
    rw [decF_of_nan h]
    exact withFlags_nan ..
  rw [heq]
  refine ⟨rfl, fun hs => ?_, fun hs => ?_⟩
  · rw [(isSig_decF hmb).2 hs]
    rfl
  · rw [Bool.eq_false_iff.2 (mt (isSig_decF hmb).1 hs)]
    rfl

theorem fNarrow_rounds (h : isFin 23 a) (hne : valQ 23 a ≠ 0) : RoundsQ 7 mode (valQ 23 a) (fNarrow mode a) := by
  obtain ⟨m, e, hd, hv, hz⟩ := decF_val h
  rw [fNarrow_eq, convert_fin hd, hv]
  exact encF_rounds _ _ _ _ (mt hz.2 hne)

theorem fNarrow_zero (hlt : a < 2 ^ 32) (h : isFin 23 a) (h0 : valQ 23 a = 0) : fNarrow mode a = (a / 2 ^ 16, 0) := by
  obtain ⟨m, e, hd, -, hz⟩ := decF_val h
  have hrest : a % 2 ^ 31 = 0 := valQ_eq_zero.1 h0
  have hsign := shift_sign (n := a) (by rw [hrest, Nat.zero_mod]) hlt
  rw [hrest, Nat.zero_div] at hsign
  rw [fNarrow_eq, convert_fin hd, hz.1 h0, encF_zero, hsign]

theorem fNarrow_inf (hlt : a < 2 ^ 32) (h : isInf 23 a) : fNarrow mode a = (a / 2 ^ 16, 0) := by
  have hrest : a % 2 ^ 31 = 255 * 2 ^ 23 := by
    have hdiv := Nat.div_add_mod (a % 2 ^ (23 + 8)) (2 ^ 23)
    rw [exp_of_mod, frac_of_mod, h.1, h.2] at hdiv
    omega
  have hsign := shift_sign (n := a) (by rw [hrest]; norm_num) hlt
  rw [hrest, show 255 * 2 ^ 23 / 2 ^ 16 = 255 * 2 ^ 7 by norm_num] at hsign
  rw [fNarrow_eq, convert_inf h, ← hsign]

/-- A BF16 magnitude is an FP32 magnitude. -/
theorem magQ_widen (k : Nat) : magQ 23 (k * 2 ^ 16) = magQ 7 k := by
  have hdiv : k * 2 ^ 16 / 2 ^ 23 = k / 2 ^ 7 := by norm_num; omega
  have hmod : k * 2 ^ 16 % 2 ^ 23 = k % 2 ^ 7 * 2 ^ 16 := by norm_num; omega
  rw [magQ, magQ, hdiv, hmod]
  split_ifs
  · have hexp : (2 : Rat) ^ (-126 - ((7 : Nat) : Int)) = 2 ^ (-126 - ((23 : Nat) : Int)) * 2 ^ 16 := by norm_num
    rw [hexp]
    push_cast
    ring
  · have hexp : (2 : Rat) ^ (((k / 2 ^ 7 : Nat) : Int) - 127 - ((7 : Nat) : Int)) = 2 ^ (((k / 2 ^ 7 : Nat) : Int) - 127 - ((23 : Nat) : Int)) * 2 ^ 16 := by
      rw [← zpow_natCast, ← zpow_add₀ (by norm_num)]
      congr 1
      push_cast
      ring
    rw [hexp]
    push_cast
    ring

theorem fWiden_exact (hlt : a < 2 ^ 16) (h : ¬isNan 7 a) : fWiden a = (a * 2 ^ 16, 0) := by
  have hsign : ∀ k, k = a % 2 ^ 15 → withSign 23 (signOf 7 a) (k * 2 ^ 16) = a * 2 ^ 16 := fun k hk => by
    have hn := withSign_signOf (mb := 7) hlt
    rw [withSign] at hn ⊢
    norm_num at hn hk ⊢
    split_ifs at hn ⊢ <;> omega
  rcases fin_inf_nan 7 a with hf | hi | hn
  · obtain ⟨m, e, hd, hq⟩ := decF_of_fin hf
    have hk : a % 2 ^ (7 + 8) < 255 * 2 ^ 7 := by
      have hexp := exp_of_mod (mb := 7) (n := a)
      have := hf
      rw [isFin, ← hexp] at this
      norm_num at this ⊢
      omega
    rw [fWiden_eq, convert_fin hd, encF_exact (K := a % 2 ^ 15 * 2 ^ 16) (by norm_num at hk ⊢; omega) (by rw [magQ_widen]; exact hq), hsign _ rfl]
  · have hrest : 255 * 2 ^ 7 = a % 2 ^ 15 := by
      have hdiv := Nat.div_add_mod (a % 2 ^ (7 + 8)) (2 ^ 7)
      rw [exp_of_mod, frac_of_mod, hi.1, hi.2] at hdiv
      omega
    rw [fWiden_eq, convert_inf hi, ← hsign _ hrest, show 255 * 2 ^ 7 * 2 ^ 16 = 255 * 2 ^ 23 by norm_num]
  · exact absurd hn h

end

end Sys2Proof.Machine
end

section
/-! SUPPORT. The element-wise floating words and conversions (R134, R135, R137, R214 to R216). -/
namespace Sys2Proof.Machine

/-- Settles O36: the operations on encodings, and the words that apply them to elements. -/
theorem vectorFloats : Obligations.VectorFloats := by
  unfold Obligations.VectorFloats
  refine ⟨?_, ?_, ?_, ?_⟩
  · intro mb mode a b c hmb hmode ha hb hc v Fin Inf sg x inf zero invalid zeroInf oneInf
    have hpos : 0 < mb := by omega
    refine ⟨⟨rfl, rfl, fAdd_nan hpos, fMul_nan hpos, fDiv_nan hpos, fSqrt_nan hpos, fMac_nan hpos⟩,
      ⟨fAdd_fin, fAdd_inf_fin ha, fAdd_fin_inf hb, fAdd_inf_inf ha, fSub_eq hb⟩,
      ⟨fMul_fin, fMul_zeroInf, fun ⟨h1, h2, h3, h4⟩ => fMul_oneInf h1 h2 h3 h4⟩,
      ⟨fMac_fin, fMac_inf hc, fMac_zeroInf, fun ⟨h1, h2, h3, h4⟩ => fMac_oneInf_fin h1 h2 h3 h4, fun ⟨h1, h2, h3, h4⟩ => fMac_oneInf_inf h1 h2 h3 h4 hc,
        fMac_nan_last hpos⟩,
      ⟨fDiv_rounds, fDiv_zero, fDiv_by_zero, fDiv_inf_inf, fDiv_inf_fin, fDiv_fin_inf⟩, ⟨fSqrt_zero ha, fSqrt_rounds, fSqrt_neg, fSqrt_inf ha⟩,
      fun sgn w _ => ⟨fToInt_nan sgn w, fToInt_inf sgn w, fun h => fToInt_fin sgn w h hmode⟩, fOfInt_rounds⟩
  · exact fun mode a _ ha => ⟨fNarrow_rounds, fNarrow_zero ha, fNarrow_inf ha, convert_nan (by decide)⟩
  · exact fun a ha => ⟨fWiden_exact ha, convert_nan (by decide)⟩
  · intro s e hready _ w g mb rm Both One
    have hboth {i : VVop → Instr} {k : VXop → Instr} {el : ElFn} (hi : ∀ o, exec (i o) s = .next (runEl (elVV o el) s))
        (hk : ∀ o, exec (k o) s = .next (runEl (elVX o el) s)) : Both i k (el (wordCtx s e)) :=
      ⟨fun o => elementsOut_of hready (hi o) rfl, fun o => elementsOut_of hready (hk o) rfl⟩
    have hone {i : VUop → Instr} {el : ElFn} {f : Nat → Nat × Nat} (hi : ∀ o, exec (i o) s = .next (runEl (elVU o el) s))
        (hf : ∀ a d, el (wordCtx s e) a 0 d = f a) : One i f := fun o => by
      obtain rfl : (fun a => el (wordCtx s e) a 0 0) = f := funext fun a => hf a 0
      have hold : (fun j => el (wordCtx s e) (srcOf s o.va o.ma g w j) 0 (oldOf s o.vd g w j)) = fun j => el (wordCtx s e) (srcOf s o.va o.ma g w j) 0 0 :=
        funext fun j => hf _ _
      have hout := elementsOut_of (f := fun j => el (wordCtx s e) (srcOf s o.va o.ma g w j) 0 (oldOf s o.vd g w j)) hready (hi o) rfl
      rwa [hold] at hout
    clear_value Both One
    exact ⟨hboth (el := vFadd) (fun _ => rfl) (fun _ => rfl), hboth (el := vFsub) (fun _ => rfl) (fun _ => rfl),
      hboth (el := vFmul) (fun _ => rfl) (fun _ => rfl), hboth (el := vFmacc) (fun _ => rfl) (fun _ => rfl),
      hboth (el := vFdiv) (fun _ => rfl) (fun _ => rfl), hboth (el := vFmin) (fun _ => rfl) (fun _ => rfl),
      hboth (el := vFmax) (fun _ => rfl) (fun _ => rfl), hboth (el := vFcps) (fun _ => rfl) (fun _ => rfl),
      hboth (el := vFcpsn) (fun _ => rfl) (fun _ => rfl), hboth (el := vFcpsx) (fun _ => rfl) (fun _ => rfl),
      hone (el := vFsqrt) (fun _ => rfl) (fun _ _ => rfl), hone (el := vFexp2) (fun _ => rfl) (fun _ _ => rfl),
      hone (el := vFrcp) (fun _ => rfl) (fun _ _ => rfl), hone (el := vFrsq) (fun _ => rfl) (fun _ _ => rfl),
      hone (el := vFlog2) (fun _ => rfl) (fun _ _ => rfl), hone (el := vFofI) (fun _ => rfl) (fun _ _ => rfl),
      hone (el := vFofN) (fun _ => rfl) (fun _ _ => rfl), hone (el := vItoF) (fun _ => rfl) (fun _ _ => rfl),
      hone (el := vNtoF) (fun _ => rfl) (fun _ _ => rfl),
      fun o => elementsOut_of hready (mk := elNU o vNarrow) rfl rfl, fun o => elementsOut_of hready (mk := elWU o vWiden) rfl rfl⟩

end Sys2Proof.Machine
end

section
/-! SUPPORT. Elements of dual-exponent blocks and their exact values (R141, R143). -/
namespace Sys2Proof.Machine

/-! ### Encodings of small numbers -/

theorem withSign_fields {mb k : Nat} (s : Bool) (h : k < 2 ^ (mb + 8)) : signOf mb (withSign mb s k) = s ∧ withSign mb s k % 2 ^ (mb + 8) = k := by
  have hpos : 0 < 2 ^ (mb + 8) := Nat.two_pow_pos _
  cases s
  · rw [withSign, if_neg Bool.false_ne_true, Nat.zero_add, signOf, Nat.div_eq_of_lt h]
    exact ⟨rfl, Nat.mod_eq_of_lt h⟩
  · rw [withSign, if_pos rfl, signOf, Nat.add_comm, Nat.add_div_right _ hpos, Nat.div_eq_of_lt h, Nat.add_mod_right]
    exact ⟨rfl, Nat.mod_eq_of_lt h⟩

theorem withSign_finite {mb k : Nat} (s : Bool) (h : k < 255 * 2 ^ mb) : isFin mb (withSign mb s k) ∧ valQ mb (withSign mb s k) = signed s (magQ mb k) := by
  have hlt : k < 2 ^ (mb + 8) := by rw [Nat.pow_add]; omega
  obtain ⟨hs, hk⟩ := withSign_fields s hlt
  refine ⟨?_, by rw [valQ, hs, hk]⟩
  rw [isFin, ← exp_of_mod, hk]
  exact (Nat.div_lt_iff_lt_mul (Nat.two_pow_pos mb)).2 h

/-- A number of at most 24 bits, on an exponent that is not extreme, is the magnitude of an FP32 encoding. -/
theorem exists_encoding {m : Nat} {e : Int} (hm : m < 2 ^ 24) (hlo : -126 ≤ e) (hhi : e ≤ 100) : ∃ K, K < 255 * 2 ^ 23 ∧ dyQ m e = magQ 23 K := by
  by_cases h0 : m = 0
  · exact ⟨0, by norm_num, by rw [magQ_zero, dyQ_eq_zero.2 h0]⟩
  · obtain ⟨l, hl⟩ : ∃ l, l = Nat.log2 m := ⟨_, rfl⟩
    have hge : 2 ^ l ≤ m := hl ▸ Nat.log2_self_le h0
    have hlt : m < 2 ^ (l + 1) := hl ▸ Nat.lt_log2_self
    have hl23 : l ≤ 23 := by
      have := (Nat.pow_lt_pow_iff_right (show 1 < 2 by decide)).1 (lt_of_le_of_lt hge hm)
      omega
    obtain ⟨E, hE⟩ : ∃ E : Nat, (E : Int) = e + l + 127 := ⟨(e + l + 127).toNat, by omega⟩
    have hlow : 2 ^ 23 ≤ m * 2 ^ (23 - l) := by
      calc 2 ^ 23 = 2 ^ l * 2 ^ (23 - l) := by rw [← Nat.pow_add]; congr 1; omega
        _ ≤ m * 2 ^ (23 - l) := Nat.mul_le_mul_right _ hge
    have hhigh : m * 2 ^ (23 - l) < 2 ^ 24 := by
      calc m * 2 ^ (23 - l) < 2 ^ (l + 1) * 2 ^ (23 - l) := Nat.mul_lt_mul_of_pos_right hlt (Nat.two_pow_pos _)
        _ = 2 ^ 24 := by rw [← Nat.pow_add]; congr 1; omega
    have hscale : dyQ m e = ((m * 2 ^ (23 - l) : Nat) : Rat) * 2 ^ ((E : Int) - 127 - 23) := by
      rw [dyQ_scale (k := (E : Int) - 127 - 23) (by omega), show (e - ((E : Int) - 127 - 23)).toNat = 23 - l by omega]
    generalize m * 2 ^ (23 - l) = M at *
    have hdiv : (E * 2 ^ 23 + (M - 2 ^ 23)) / 2 ^ 23 = E := by omega
    have hmod : (E * 2 ^ 23 + (M - 2 ^ 23)) % 2 ^ 23 = M - 2 ^ 23 := by omega
    refine ⟨E * 2 ^ 23 + (M - 2 ^ 23), by omega, ?_⟩
    rw [hscale, magQ, hdiv, hmod, if_neg (by omega), show 2 ^ 23 + (M - 2 ^ 23) = M by omega]
    rfl

/-! ### Elements of a block (R141) -/

/-- Places of a block before its elements, in elements, and the greatest magnitude of an element. -/
def dxbBase (four : Bool) : Nat := if four then 2 else 1
def dxbMax (four : Bool) : Nat := if four then 3 else 63

/-- An element of a block, with its selector, its sign and its magnitude. -/
def dxbEl (four : Bool) (blk j : Nat) : Nat := blk / 2 ^ (dxbW four * (dxbBase four + j)) % 2 ^ dxbW four
def elSel (four : Bool) (el : Nat) : Bool := el / 2 ^ (dxbW four - 1) % 2 == 1
def elNeg (four : Bool) (el : Nat) : Bool := el / 2 ^ (dxbW four - 2) % 2 == 1
def elMag (four : Bool) (el : Nat) : Nat := el % 2 ^ (dxbW four - 2)

/-- The exponent that an element has selected, H high and `g` the gap. -/
def elExp (four : Bool) (high : Int) (g : Nat) (el : Nat) : Int := (if elSel four el then high else high - (g : Int)) - dxbQ four

/-- The value of an element. -/
def elVal (four : Bool) (high : Int) (g : Nat) (el : Nat) : Rat := signed (elNeg four el) ((elMag four el : Rat) * 2 ^ elExp four high g el)

theorem elMag_le (four : Bool) (el : Nat) : elMag four el ≤ dxbMax four := by
  have := Nat.mod_lt el (Nat.two_pow_pos (dxbW four - 2))
  cases four <;> simp only [elMag, dxbW, dxbMax] at this ⊢ <;> norm_num at this ⊢ <;> omega

theorem dxbElem_eq (four : Bool) (blk j : Nat) : dxbElem four blk j =
    let el := dxbEl four blk j
    if elMag four el = 0 then .fin false 0 0 else .fin (elNeg four el) (elMag four el) (elExp four (((blk / 8 % 32 : Nat) : Int) - 15) (blk % 8 + 1) el) := by
  have hhigh : fld (fld blk 0 8) 3 5 = blk / 8 % 32 := by norm_num [fld]; omega
  have hgap : fld (fld blk 0 8) 0 3 = blk % 8 := by norm_num [fld]
  have hel : elemN blk (dxbW four) (if four then j + 2 else j + 1) = dxbEl four blk j := by
    rw [elemN, fld, dxbEl, dxbBase]
    cases four
    · rw [if_neg Bool.false_ne_true, if_neg Bool.false_ne_true, Nat.add_comm]
    · rw [if_pos rfl, if_pos rfl, Nat.add_comm]
  have hmag : ∀ el, fld el 0 (dxbW four - 2) = elMag four el := fun el => fld_low ..
  unfold dxbElem
  simp only [hhigh, hgap, hel, hmag]
  rfl

theorem fvQ_dxbElem (four : Bool) (blk j : Nat) : fvQ (dxbElem four blk j) = elVal four (((blk / 8 % 32 : Nat) : Int) - 15) (blk % 8 + 1) (dxbEl four blk j) := by
  rw [dxbElem_eq, elVal]
  dsimp only
  split_ifs with h0
  · rw [h0, fvQ, Nat.cast_zero, zero_mul, zero_mul]
    cases elNeg four (dxbEl four blk j) <;> simp [signed]
  · rfl

/-- Unpacking writes the exact value of an element. -/
theorem dxbElem_exact (four : Bool) (blk j mode : Nat) : (∃ n m k, dxbElem four blk j = .fin n m k) ∧ isFin 23 (encF 23 mode (dxbElem four blk j)).1 ∧
    valQ 23 (encF 23 mode (dxbElem four blk j)).1 = fvQ (dxbElem four blk j) ∧ (encF 23 mode (dxbElem four blk j)).2 = 0 := by
  have hsmall : ∃ n m k, dxbElem four blk j = .fin n m k ∧ m < 2 ^ 24 ∧ -126 ≤ k ∧ k ≤ 100 := by
    rw [dxbElem_eq]
    dsimp only
    split_ifs
    · exact ⟨_, _, _, rfl, by norm_num, by norm_num, by norm_num⟩
    · have hmag := elMag_le four (dxbEl four blk j)
      have hmax : dxbMax four < 2 ^ 24 := by cases four <;> decide
      have hq : (dxbQ four : Int) ≤ 5 := by cases four <;> decide
      refine ⟨_, _, _, rfl, by omega, ?_, ?_⟩ <;> unfold elExp <;> split_ifs <;> omega
  obtain ⟨n, m, k, hd, hm, hlo, hhi⟩ := hsmall
  obtain ⟨K, hK, hval⟩ := exists_encoding hm hlo hhi
  obtain ⟨hfin, hq⟩ := withSign_finite n hK
  rw [hd, encF_exact hK hval]
  refine ⟨⟨n, m, k, rfl⟩, hfin, ?_, rfl⟩
  rw [hq, ← hval]
  rfl

end Sys2Proof.Machine
end

section
/-! SUPPORT. Packing a block: the high exponent, the code of each value, and the string of the codes (R141, R143). -/
namespace Sys2Proof.Machine

/-! ### The parts of the packing -/

/-- The greatest finite magnitude of a list. -/
def greatest (xs : List FV) : FV := xs.foldl (fun a x => match x with | .fin _ m e => if magLe x a then a else .fin false m e | _ => a) (.fin false 0 0)

def hasInf (xs : List FV) : Bool := xs.any (fun x => match x with | .inf _ => true | _ => false)

/-- The greatest magnitude of an element, as the integer with which roundings are compared. -/
def maxInt (four : Bool) : Int := (2 ^ (dxbQ four + 1) : Nat) - 1

/-- The exponent field for a greatest magnitude m × 2^e, m not 0: its binade, or the next one where it rounds up to it (R143). -/
def highOf (four : Bool) (mode m : Nat) (e : Int) : Nat :=
  let l : Int := (log2N m : Nat) + e
  let l' := if (roundInt false m (e - (l - dxbQ four)) mode).1 > maxInt four then l + 1 else l
  (min (max (l' + 15) 0) 31).toNat

/-- The high exponent field of a block. -/
def highField (four : Bool) (mode : Nat) (xs : List FV) : Nat :=
  match greatest xs with
  | .fin _ m e => if hasInf xs then 31 else if m = 0 then 0 else highOf four mode m e
  | _ => 0

/-- What a value is packed to at a high and a low exponent (R143). -/
def packEl (four : Bool) (mode : Nat) (ehi elo : Int) (x : FV) : FRes :=
  match x with
  | .nan _ => (0, fNV)
  | .inf s => (2 ^ (dxbW four - 1) + b2n s * 2 ^ (dxbW four - 2) + (maxInt four).toNat, fOF + fNX)
  | .fin s m e =>
    let neg := s && m != 0
    let lo := roundInt s m (e - (elo - dxbQ four)) mode
    if (lo.1.natAbs : Int) ≤ maxInt four then (b2n neg * 2 ^ (dxbW four - 2) + lo.1.natAbs, flagIf lo.2 fNX + flagIf (m != 0 && lo.1 == 0) fUF)
    else
      let hi := roundInt s m (e - (ehi - dxbQ four)) mode
      if (hi.1.natAbs : Int) > maxInt four then (2 ^ (dxbW four - 1) + b2n neg * 2 ^ (dxbW four - 2) + (maxInt four).toNat, fOF + fNX)
      else (2 ^ (dxbW four - 1) + b2n neg * 2 ^ (dxbW four - 2) + hi.1.natAbs, flagIf hi.2 fNX + flagIf (hi.1 == 0) fUF)

/-- The string of the codes `one` gives, from place `acc.2` on, with their flags. -/
def packCodes (four : Bool) (one : FV → FRes) (xs : List FV) (acc : FRes × Nat) : FRes × Nat :=
  xs.foldl (fun acc x => ((acc.1.1 + (one x).1 * 2 ^ (dxbW four * (dxbBase four + acc.2)), acc.1.2 ||| (one x).2), acc.2 + 1)) acc

/-- A block is its scale byte and the codes of its values. -/
theorem dxbPack_eq (four : Bool) (g mode : Nat) (xs : List FV) : dxbPack four g mode xs =
    (packCodes four (packEl four mode ((highField four mode xs : Int) - 15) ((highField four mode xs : Int) - 15 - g)) xs ((highField four mode xs * 8 + (g - 1), 0), 0)).1 :=
  rfl

theorem maxInt_eq (four : Bool) : maxInt four = dxbMax four := by cases four <;> rfl

/-! ### The string of the codes -/

/-- The string of the codes: what stood before it, each code, its length and the flags. -/
theorem packCodes_spec (four : Bool) {one : FV → FRes} (hone : ∀ x, (one x).1 < 2 ^ dxbW four) : ∀ (xs : List FV) (b f n : Nat), b < 2 ^ (dxbW four * (dxbBase four + n)) →
    let r := (packCodes four one xs ((b, f), n)).1
    r.1 < 2 ^ (dxbW four * (dxbBase four + (n + xs.length))) ∧ r.1 % 2 ^ (dxbW four * (dxbBase four + n)) = b ∧
      (∀ j x, xs[j]? = some x → dxbEl four r.1 (n + j) = (one x).1) ∧ ∀ k, r.2.testBit k = true ↔ f.testBit k = true ∨ ∃ x ∈ xs, (one x).2.testBit k = true
  | [], b, f, n, hb => ⟨hb, Nat.mod_eq_of_lt hb, fun j x hx => by simp at hx, fun k => by simp [packCodes]⟩
  | x :: xs, b, f, n, hb => by
    have hpow : 2 ^ (dxbW four * (dxbBase four + (n + 1))) = 2 ^ (dxbW four * (dxbBase four + n)) * 2 ^ dxbW four := by
      rw [← Nat.pow_add]
      congr 1
    have hpos : 0 < 2 ^ (dxbW four * (dxbBase four + n)) := Nat.two_pow_pos _
    have hb' : b + (one x).1 * 2 ^ (dxbW four * (dxbBase four + n)) < 2 ^ (dxbW four * (dxbBase four + (n + 1))) := by
      have hle : ((one x).1 + 1) * 2 ^ (dxbW four * (dxbBase four + n)) ≤ 2 ^ dxbW four * 2 ^ (dxbW four * (dxbBase four + n)) := Nat.mul_le_mul_right _ (hone x)
      rw [hpow, Nat.mul_comm (2 ^ (dxbW four * (dxbBase four + n)))]
      rw [Nat.add_mul, Nat.one_mul] at hle
      omega
    obtain ⟨hlt, hlow, hel, hfl⟩ := packCodes_spec four hone xs (b + (one x).1 * 2 ^ (dxbW four * (dxbBase four + n))) (f ||| (one x).2) (n + 1) hb'
    have hr : packCodes four one (x :: xs) ((b, f), n) = packCodes four one xs ((b + (one x).1 * 2 ^ (dxbW four * (dxbBase four + n)), f ||| (one x).2), n + 1) := rfl
    rw [hr]
    generalize (packCodes four one xs ((b + (one x).1 * 2 ^ (dxbW four * (dxbBase four + n)), f ||| (one x).2), n + 1)).1 = r at *
    rw [hpow] at hlow
    refine ⟨?_, ?_, ?_, fun k => ?_⟩
    · rwa [show n + 1 + xs.length = n + (x :: xs).length by rw [List.length_cons]; ring] at hlt
    · rw [← Nat.mod_mul_right_mod r.1 _ (2 ^ dxbW four), hlow, Nat.add_mul_mod_self_right, Nat.mod_eq_of_lt hb]
    · rintro (_ | j) y hy
      · obtain rfl := Option.some.inj hy
        rw [dxbEl, Nat.add_zero, ← Nat.mod_mul_right_div_self, hlow, Nat.add_mul_div_right _ _ hpos, Nat.div_eq_of_lt hb, Nat.zero_add]
      · rw [show n + (j + 1) = n + 1 + j by ring]
        exact hel j y hy
    · rw [hfl, Nat.testBit_or, Bool.or_eq_true, List.exists_mem_cons_iff, or_assoc]

end Sys2Proof.Machine
end

section
/-! SUPPORT. The code of one value of a block: selector, sign, magnitude and flags (R141, R143). -/
namespace Sys2Proof.Machine

/-! ### Codes -/

/-- The code of an element: selector, sign, magnitude. -/
def elCode (four sel neg : Bool) (mag : Nat) : Nat := b2n sel * 2 ^ (dxbW four - 1) + b2n neg * 2 ^ (dxbW four - 2) + mag

theorem elCode_fields {four sel neg : Bool} {mag : Nat} (h : mag ≤ dxbMax four) : elCode four sel neg mag < 2 ^ dxbW four ∧
    elSel four (elCode four sel neg mag) = sel ∧ elNeg four (elCode four sel neg mag) = neg ∧ elMag four (elCode four sel neg mag) = mag := by
  have hb : ∀ b : Bool, (b2n b == 1) = b := by decide
  have hsel : b2n sel ≤ 1 := by cases sel <;> decide
  have hneg : b2n neg ≤ 1 := by cases neg <;> decide
  have h1 : elCode four sel neg mag < 2 ^ dxbW four ∧ elCode four sel neg mag / 2 ^ (dxbW four - 1) % 2 = b2n sel ∧
      elCode four sel neg mag / 2 ^ (dxbW four - 2) % 2 = b2n neg ∧ elCode four sel neg mag % 2 ^ (dxbW four - 2) = mag := by
    unfold elCode
    generalize b2n sel = p at *
    generalize b2n neg = q at *
    cases four <;> simp only [dxbW, dxbMax, Bool.false_eq_true, if_false, if_true] at h ⊢ <;> norm_num at h ⊢ <;> omega
  obtain ⟨hlt, hs, hn, hm⟩ := h1
  exact ⟨hlt, by rw [elSel, hs, hb], by rw [elNeg, hn, hb], hm⟩

/-! ### Rounding at an exponent (R143) -/

theorem dyQ_div (m : Nat) (e k : Int) : dyQ m e / 2 ^ k = dyQ m (e - k) := by
  rw [dyQ, dyQ, zpow_sub₀ (by norm_num), mul_div_assoc]

theorem signed_div_pow (s : Bool) (m : Nat) (e k : Int) : signed s (dyQ m e) / 2 ^ k = signed s (dyQ m (e - k)) := by
  rw [← dyQ_div]
  cases s <;> simp [signed, neg_div]

/-- The sign of a finite number, +0 for both zeros. -/
theorem negative_iff (s : Bool) (m : Nat) (e : Int) : (s && m != 0) = decide (fvQ (.fin s m e) < 0) := by
  rw [Bool.eq_iff_iff, decide_eq_true_eq, Bool.and_eq_true, bne_iff_ne]
  by_cases hm : m = 0
  · subst hm
    have h0 : fvQ (.fin s 0 e) = 0 := by cases s <;> simp [fvQ, signed]
    rw [h0]
    exact iff_of_false (fun h => h.2 rfl) (lt_irrefl _)
  · exact (and_iff_left hm).trans (signed_neg_iff (dyQ_pos (e := e) hm)).symm

/-- A rounded number keeps its sign, where it does not become 0. -/
theorem RoundsInt.signed_natAbs {x : Rat} {mode : Nat} {i : Int} (h : RoundsInt x mode i) : signed (decide (x < 0)) (i.natAbs : Rat) = i := by
  have hsign : (x < 0 → i ≤ 0) ∧ (0 ≤ x → 0 ≤ i) := by
    have hnonneg : ∀ {i : Int}, (-1 : Rat) < i → 0 ≤ i := fun {i} h => by
      have : -1 < i := by exact_mod_cast h
      omega
    have hnonpos : ∀ {i : Int}, (i : Rat) < 1 → i ≤ 0 := fun {i} h => by
      have : i < 1 := by exact_mod_cast h
      omega
    rcases mode with _ | _ | _ | mode
    · obtain ⟨h1, h2, -⟩ := h
      exact ⟨fun hx => hnonpos (by linarith), fun hx => hnonneg (by linarith)⟩
    · exact ⟨fun hx => hnonpos (by linarith [h.1]), fun hx => hnonneg (by linarith [h.2])⟩
    · exact ⟨fun hx => hnonpos (by linarith [h.2]), fun hx => hnonneg (by linarith [h.1])⟩
    · exact ⟨fun hx => hnonpos (by linarith [(h.2 hx.le).2]), fun hx => hnonneg (by linarith [(h.1 hx).2])⟩
  by_cases hx : x < 0
  · have hi := hsign.1 hx
    have habs : ((i.natAbs : Int) : Rat) = ((-i : Int) : Rat) := by rw [Int.ofNat_natAbs_of_nonpos hi]
    rw [decide_eq_true hx, signed, if_pos rfl, ← Int.cast_natCast, habs]
    push_cast
    ring
  · have hi := hsign.2 (le_of_not_gt hx)
    rw [decide_eq_false hx, signed, if_neg Bool.false_ne_true, ← Int.cast_natCast, Int.natAbs_of_nonneg hi]

end Sys2Proof.Machine
end

section
/-! SUPPORT. What a value of a block is packed to (R143). -/
namespace Sys2Proof.Machine

/-! ### The flags of a packing -/

/-- The flags NV, OF, UF and NX of a packing. -/
def packFlags (nv of uf nx : Bool) : Nat := flagIf nx fNX + flagIf uf fUF + flagIf of fOF + flagIf nv fNV

theorem testBit_packFlags (nv of uf nx : Bool) : (packFlags nv of uf nx).testBit 0 = nv ∧ (packFlags nv of uf nx).testBit 2 = of ∧
    (packFlags nv of uf nx).testBit 3 = uf ∧ (packFlags nv of uf nx).testBit 4 = nx := by
  have hall : ∀ nv of uf nx : Bool, (packFlags nv of uf nx).testBit 0 = nv ∧ (packFlags nv of uf nx).testBit 2 = of ∧
      (packFlags nv of uf nx).testBit 3 = uf ∧ (packFlags nv of uf nx).testBit 4 = nx := by decide
  exact hall nv of uf nx

/-! ### Finite values -/

/-- The value of a code is the rounded integer at the code's exponent. -/
theorem RoundsInt.value {v : Rat} {k : Int} {mode : Nat} {i : Int} (h : RoundsInt (v / 2 ^ k) mode i) : signed (decide (v < 0)) ((i.natAbs : Rat) * 2 ^ k) = i * 2 ^ k := by
  have hneg : v / 2 ^ k < 0 ↔ v < 0 := by rw [div_lt_iff₀ (two_zpow_pos k), zero_mul]
  have hi := h.signed_natAbs
  rw [decide_eq_decide.2 hneg] at hi
  rw [← hi]
  cases decide (v < 0) <;> simp [signed]

/-- A value that a rounding changes is not the value of the code. -/
theorem RoundsInt.exact_iff {v : Rat} {k : Int} {mode : Nat} {i : Int} (h : RoundsInt (v / 2 ^ k) mode i) :
    signed (decide (v < 0)) ((i.natAbs : Rat) * 2 ^ k) = v ↔ v / 2 ^ k = i := by
  rw [h.value, div_eq_iff (two_zpow_pos k).ne', eq_comm]

/-- A value that rounds to an integer of greater magnitude is not one of smaller magnitude. -/
theorem RoundsInt.saturated_ne {v : Rat} {k : Int} {mode n : Nat} {i : Int} (h : RoundsInt (v / 2 ^ k) mode i) (hn : n < i.natAbs) :
    signed (decide (v < 0)) ((n : Rat) * 2 ^ k) ≠ v := by
  intro hv
  obtain ⟨z, hz, habs⟩ : ∃ z : Int, v / 2 ^ k = z ∧ z.natAbs = n := by
    rw [← hv]
    generalize decide (v < 0) = s
    have hk := (two_zpow_pos k).ne'
    cases s
    · exact ⟨n, by simp [signed, hk], by simp⟩
    · exact ⟨-n, by simp [signed, neg_div, hk], by simp⟩
  rw [hz] at h
  rw [(roundsInt_self z mode).unique h] at habs
  omega

/-- What a finite value v is packed to, where it rounds to `i` at the low exponent and to `k` at the high one. -/
structure PackedAs (four : Bool) (mode g : Nat) (high : Int) (v : Rat) (i k : Int) (r : FRes) : Prop where
  low : RoundsInt (v / 2 ^ (high - g - dxbQ four)) mode i
  up : RoundsInt (v / 2 ^ (high - dxbQ four)) mode k
  lt : r.1 < 2 ^ dxbW four
  neg : elNeg four r.1 = decide (v < 0)
  fits : i.natAbs ≤ dxbMax four → elSel four r.1 = false ∧ elMag four r.1 = i.natAbs
  saturates : dxbMax four < i.natAbs → elSel four r.1 = true ∧ elMag four r.1 = min (dxbMax four) k.natAbs
  invalid : r.2.testBit 0 = false
  overflow : r.2.testBit 2 = true ↔ dxbMax four < i.natAbs ∧ dxbMax four < k.natAbs
  underflow : r.2.testBit 3 = true ↔ v ≠ 0 ∧ elMag four r.1 = 0
  inexact : r.2.testBit 4 = true ↔ elVal four high g r.1 ≠ v

/-- The three ways of packing a finite value: at the low exponent, at the high one, and saturated. -/
theorem packEl_fin (four : Bool) (mode g : Nat) (high : Int) (s : Bool) (m : Nat) (e : Int) :
    let v := fvQ (.fin s m e)
    let lo := roundInt s m (e - (high - g - dxbQ four)) mode
    let hi := roundInt s m (e - (high - dxbQ four)) mode
    packEl four mode high (high - g) (.fin s m e) =
      if lo.1.natAbs ≤ dxbMax four then (elCode four false (decide (v < 0)) lo.1.natAbs, packFlags false false (m != 0 && lo.1 == 0) lo.2)
      else if dxbMax four < hi.1.natAbs then (elCode four true (decide (v < 0)) (dxbMax four), packFlags false true false true)
      else (elCode four true (decide (v < 0)) hi.1.natAbs, packFlags false false (hi.1 == 0) hi.2) := by
  intro v lo hi
  have hone : 2 ^ (dxbW four - 1) = b2n true * 2 ^ (dxbW four - 1) := (Nat.one_mul _).symm
  have hzero : ∀ x, b2n false * 2 ^ (dxbW four - 1) + x = x := fun x => (congrArg (· + x) (Nat.zero_mul _)).trans (Nat.zero_add x)
  unfold packEl
  dsimp only
  rw [← negative_iff, maxInt_eq, Int.toNat_natCast, hone]
  simp only [Nat.cast_le, gt_iff_lt, Nat.cast_lt, packFlags, elCode, hzero, flagIf, Nat.add_zero, Bool.false_eq_true, if_false, if_true]
  rfl

theorem packEl_spec (four : Bool) {mode : Nat} (g : Nat) (high : Int) (s : Bool) (m : Nat) (e : Int) (hmode : mode < 4) :
    ∃ i k, PackedAs four mode g high (fvQ (.fin s m e)) i k (packEl four mode high (high - g) (.fin s m e)) := by
  obtain ⟨hlow, hlowx⟩ := roundInt_rounds s m (e - (high - g - dxbQ four)) hmode
  obtain ⟨hup, hupx⟩ := roundInt_rounds s m (e - (high - dxbQ four)) hmode
  have hv : fvQ (.fin s m e) = signed s (dyQ m e) := rfl
  have hzero : (m != 0) = true ↔ fvQ (.fin s m e) ≠ 0 := by rw [hv, bne_iff_ne, Ne, Ne, signed_eq_zero, dyQ_eq_zero]
  rw [← signed_div_pow, ← hv] at hlow hlowx hup hupx
  rw [packEl_fin]
  generalize roundInt s m (e - (high - g - dxbQ four)) mode = lo at *
  generalize roundInt s m (e - (high - dxbQ four)) mode = hi at *
  generalize fvQ (.fin s m e) = v at *
  refine ⟨lo.1, hi.1, ?_⟩
  split_ifs with hfit hsat
  · obtain ⟨hlt, hsel, hneg, hmag⟩ := elCode_fields (sel := false) (neg := decide (v < 0)) hfit
    obtain ⟨hnv, hof, huf, hnx⟩ := testBit_packFlags false false (m != 0 && lo.1 == 0) lo.2
    refine ⟨hlow, hup, hlt, hneg, fun _ => ⟨hsel, hmag⟩, fun h => absurd h (not_lt.2 hfit), hnv, ?_, ?_, ?_⟩
    · exact iff_of_false (by rw [hof]; exact Bool.false_ne_true) (fun h => not_lt.2 hfit h.1)
    · rw [huf, Bool.and_eq_true, hzero, hmag, beq_iff_eq, Int.natAbs_eq_zero]
    · rw [hnx, hlowx, elVal, hneg, hmag, elExp, hsel, if_neg Bool.false_ne_true, Ne, Ne, hlow.exact_iff]
  · obtain ⟨hlt, hsel, hneg, hmag⟩ := elCode_fields (sel := true) (neg := decide (v < 0)) (le_refl (dxbMax four))
    obtain ⟨hnv, hof, huf, hnx⟩ := testBit_packFlags false true false true
    refine ⟨hlow, hup, hlt, hneg, fun h => absurd h hfit, fun _ => ⟨hsel, by rw [hmag, min_eq_left hsat.le]⟩, hnv, ?_, ?_, ?_⟩
    · exact iff_of_true hof ⟨not_le.1 hfit, hsat⟩
    · have hmax : dxbMax four ≠ 0 := by cases four <;> decide
      exact iff_of_false (by rw [huf]; exact Bool.false_ne_true) (fun h => hmax (hmag.symm.trans h.2))
    · rw [elVal, hneg, hmag, elExp, hsel, if_pos rfl]
      exact iff_of_true hnx (hup.saturated_ne hsat)
  · obtain ⟨hlt, hsel, hneg, hmag⟩ := elCode_fields (sel := true) (neg := decide (v < 0)) (not_lt.1 hsat)
    obtain ⟨hnv, hof, huf, hnx⟩ := testBit_packFlags false false (hi.1 == 0) hi.2
    refine ⟨hlow, hup, hlt, hneg, fun h => absurd h hfit, fun _ => ⟨hsel, by rw [hmag, min_eq_right (not_lt.1 hsat)]⟩, hnv, ?_, ?_, ?_⟩
    · exact iff_of_false (by rw [hof]; exact Bool.false_ne_true) (fun h => hsat h.2)
    · have hnonzero : v ≠ 0 := by
        rintro rfl
        have h0 : lo.1 = 0 := hlow.unique (by rw [zero_div]; exact_mod_cast roundsInt_self 0 mode)
        exact hfit (by rw [h0]; exact Nat.zero_le _)
      rw [huf, hmag, beq_iff_eq, Int.natAbs_eq_zero, and_iff_right hnonzero]
    · rw [hnx, hupx, elVal, hneg, hmag, elExp, hsel, if_pos rfl, Ne, Ne, hup.exact_iff]

/-- An infinity is packed saturated, a NaN as 0. -/
theorem packEl_inf (four : Bool) (mode : Nat) (ehi elo : Int) (n : Bool) :
    packEl four mode ehi elo (.inf n) = (elCode four true n (dxbMax four), packFlags false true false true) := by
  have hone : 2 ^ (dxbW four - 1) = b2n true * 2 ^ (dxbW four - 1) := (Nat.one_mul _).symm
  unfold packEl
  dsimp only
  rw [maxInt_eq, Int.toNat_natCast, hone]
  rfl

theorem packEl_nan (four : Bool) (mode : Nat) (ehi elo : Int) (b : Bool) : packEl four mode ehi elo (.nan b) = (0, packFlags true false false false) := rfl

/-- A code fits its place. -/
theorem packEl_lt (four : Bool) {mode : Nat} (g : Nat) (high : Int) (hmode : mode < 4) : ∀ x, (packEl four mode high (high - g) x).1 < 2 ^ dxbW four
  | .nan _ => Nat.two_pow_pos _
  | .inf n => by
    rw [packEl_inf]
    exact (elCode_fields (le_refl _)).1
  | .fin s m e => by
    obtain ⟨i, k, h⟩ := packEl_spec four g high s m e hmode
    exact h.lt

end Sys2Proof.Machine
end

section
/-! SUPPORT. The high exponent of a block (R143). -/
namespace Sys2Proof.Machine

/-! ### The greatest finite magnitude -/

/-- The greater of a magnitude and that of a value. -/
def greaterOf (a x : FV) : FV := match x with | .fin _ m e => if magLe x a then a else .fin false m e | _ => a

theorem greaterOf_fin (M m : Nat) (E e : Int) (s : Bool) : greaterOf (.fin false M E) (.fin s m e) = if dyQ m e ≤ dyQ M E then .fin false M E else .fin false m e := by
  have hle : magLe (.fin s m e) (.fin false M E) = true ↔ dyQ m e ≤ dyQ M E := by rw [magLe, bne_iff_ne, Ne, cmpDy_gt, not_lt]
  exact if_congr hle rfl rfl

/-- What the search for the greatest magnitude has found: a magnitude of the list, if not the one it began with, that no finite value of the list exceeds. -/
structure IsGreatest (xs : List FV) (M : Nat) (E : Int) (M' : Nat) (E' : Int) : Prop where
  start : dyQ M E ≤ dyQ M' E'
  bound : ∀ s m e, .fin s m e ∈ xs → dyQ m e ≤ dyQ M' E'
  mem : (M' = M ∧ E' = E) ∨ ∃ s, .fin s M' E' ∈ xs

theorem IsGreatest.cons {xs : List FV} {x : FV} {M M₁ M' : Nat} {E E₁ E' : Int} (h : IsGreatest xs M₁ E₁ M' E') (hle : dyQ M E ≤ dyQ M₁ E₁)
    (hx : ∀ s m e, x = .fin s m e → dyQ m e ≤ dyQ M₁ E₁) (hmem : (M₁ = M ∧ E₁ = E) ∨ ∃ s, x = .fin s M₁ E₁) : IsGreatest (x :: xs) M E M' E' := by
  obtain ⟨hstart, hbound, hfound⟩ := h
  refine ⟨hle.trans hstart, fun s m e hm => ?_, ?_⟩
  · rcases List.mem_cons.1 hm with rfl | hm
    · exact (hx s m e rfl).trans hstart
    · exact hbound s m e hm
  · rcases hfound with ⟨rfl, rfl⟩ | ⟨s, hs⟩
    · exact hmem.imp_right (fun ⟨s, hs⟩ => ⟨s, by rw [hs]; exact List.mem_cons_self⟩)
    · exact .inr ⟨s, List.mem_cons_of_mem _ hs⟩

theorem greatest_from : ∀ (xs : List FV) (M : Nat) (E : Int), ∃ M' E', xs.foldl greaterOf (.fin false M E) = .fin false M' E' ∧ IsGreatest xs M E M' E'
  | [], M, E => ⟨M, E, rfl, le_rfl, fun _ _ _ h => absurd h List.not_mem_nil, .inl ⟨rfl, rfl⟩⟩
  | x :: xs, M, E => by
    rw [List.foldl_cons]
    cases x with
    | nan b =>
      obtain ⟨M', E', hfold, h⟩ := greatest_from xs M E
      exact ⟨M', E', hfold, h.cons le_rfl (fun _ _ _ hx => by cases hx) (.inl ⟨rfl, rfl⟩)⟩
    | inf n =>
      obtain ⟨M', E', hfold, h⟩ := greatest_from xs M E
      exact ⟨M', E', hfold, h.cons le_rfl (fun _ _ _ hx => by cases hx) (.inl ⟨rfl, rfl⟩)⟩
    | fin s m e =>
      rw [greaterOf_fin]
      split_ifs with hle
      · obtain ⟨M', E', hfold, h⟩ := greatest_from xs M E
        exact ⟨M', E', hfold, h.cons le_rfl (fun _ _ _ hx => by cases hx; exact hle) (.inl ⟨rfl, rfl⟩)⟩
      · obtain ⟨M', E', hfold, h⟩ := greatest_from xs m e
        exact ⟨M', E', hfold, h.cons (not_le.1 hle).le (fun _ _ _ hx => by cases hx; exact le_rfl) (.inr ⟨s, rfl⟩)⟩

theorem greatest_spec (xs : List FV) : ∃ M E, greatest xs = .fin false M E ∧ IsGreatest xs 0 0 M E := greatest_from xs 0 0

theorem hasInf_iff {xs : List FV} : hasInf xs = true ↔ ∃ n, FV.inf n ∈ xs := by
  rw [hasInf, List.any_eq_true]
  constructor
  · rintro ⟨x, hx, hinf⟩
    cases x with
    | inf n => exact ⟨n, hx⟩
    | nan b => cases hinf
    | fin s m e => cases hinf
  · rintro ⟨n, hn⟩
    exact ⟨_, hn, rfl⟩

/-! ### The exponent field -/

theorem highField_of {xs : List FV} {M : Nat} {E : Int} (four : Bool) (mode : Nat) (h : greatest xs = .fin false M E) :
    highField four mode xs = if hasInf xs then 31 else if M = 0 then 0 else highOf four mode M E := by rw [highField, h]

theorem highOf_lt (four : Bool) (mode m : Nat) (e : Int) : highOf four mode m e < 32 := by
  rw [highOf]
  omega

theorem highField_lt (four : Bool) (mode : Nat) (xs : List FV) : highField four mode xs < 32 := by
  obtain ⟨M, E, hgreatest, -⟩ := greatest_spec xs
  rw [highField_of four mode hgreatest]
  split_ifs
  · decide
  · decide
  · exact highOf_lt ..

/-- The binade of a magnitude. -/
theorem dyQ_binade {m : Nat} {e : Int} (h : m ≠ 0) : (2 : Rat) ^ ((log2N m : Int) + e) ≤ dyQ m e ∧ dyQ m e < 2 ^ ((log2N m : Int) + e + 1) := by
  have hpos := two_zpow_pos e
  have hge : (2 : Rat) ^ log2N m ≤ m := by exact_mod_cast Nat.log2_self_le h
  have hlt : (m : Rat) < 2 ^ (log2N m + 1) := by exact_mod_cast Nat.lt_log2_self
  rw [add_right_comm, zpow_add₀ (by norm_num), zpow_add₀ (by norm_num) ((log2N m : Int) + 1), ← Nat.cast_succ, zpow_natCast, zpow_natCast, dyQ]
  exact ⟨mul_le_mul_of_nonneg_right hge hpos.le, mul_lt_mul_of_pos_right hlt hpos⟩

theorem highOf_spec (four : Bool) {mode m : Nat} (e : Int) (hmode : mode < 4) (h : m ≠ 0) : ∃ l i : Int, 2 ^ l ≤ dyQ m e ∧ dyQ m e < 2 ^ (l + 1) ∧
    RoundsInt (dyQ m e / 2 ^ (l - dxbQ four)) mode i ∧ (highOf four mode m e : Int) = min (max ((if (dxbMax four : Int) < i then l + 1 else l) + 15) 0) 31 := by
  obtain ⟨hge, hlt⟩ := dyQ_binade (e := e) h
  have hround : RoundsInt (dyQ m e / 2 ^ ((log2N m : Int) + e - dxbQ four)) mode (roundInt false m (e - ((log2N m : Int) + e - dxbQ four)) mode).1 := by
    rw [dyQ_div]
    exact (roundInt_rounds false m _ hmode).1
  refine ⟨_, _, hge, hlt, hround, ?_⟩
  rw [highOf, maxInt_eq]
  omega

/-- The magnitude of a finite value. -/
theorem signed_fvQ (s : Bool) (m : Nat) (e : Int) : signed (decide (fvQ (.fin s m e) < 0)) (fvQ (.fin s m e)) = dyQ m e := by
  have hn := dyQ_nonneg m e
  rw [← negative_iff]
  by_cases hm : m = 0
  · have h0 : dyQ m e = 0 := dyQ_eq_zero.2 hm
    change signed _ (signed s (dyQ m e)) = _
    rw [h0]
    cases s <;> simp [signed]
  · have hb : (m != 0) = true := bne_iff_ne.2 hm
    rw [hb, Bool.and_true]
    exact signed_signed s _

/-- The high exponent field from the values of the block (R143). -/
theorem highField_spec (four : Bool) {mode : Nat} (xs : List FV) (hmode : mode < 4) :
    ((∃ n, FV.inf n ∈ xs) → highField four mode xs = 31) ∧
    ((¬∃ n, FV.inf n ∈ xs) → (∀ x ∈ xs, fvQ x = 0) → highField four mode xs = 0) ∧
    ((¬∃ n, FV.inf n ∈ xs) → ∀ s m e, .fin s m e ∈ xs → m ≠ 0 → (∀ y ∈ xs, -dyQ m e ≤ fvQ y ∧ fvQ y ≤ dyQ m e) →
      ∃ l i : Int, 2 ^ l ≤ dyQ m e ∧ dyQ m e < 2 ^ (l + 1) ∧ RoundsInt (dyQ m e / 2 ^ (l - dxbQ four)) mode i ∧
        (highField four mode xs : Int) = min (max ((if (dxbMax four : Int) < i then l + 1 else l) + 15) 0) 31) := by
  obtain ⟨M, E, hgreatest, -, hbound, hmem⟩ := greatest_spec xs
  rw [highField_of four mode hgreatest, ← hasInf_iff]
  refine ⟨fun hinf => if_pos hinf, fun hinf hzero => ?_, fun hinf s m e hx hm hmax => ?_⟩
  · have hM : M = 0 := by
      rcases hmem with ⟨h, -⟩ | ⟨s, hs⟩
      · exact h
      · exact dyQ_eq_zero.1 (signed_eq_zero.1 (hzero _ hs))
    rw [if_neg hinf, if_pos hM]
  · have hle := hbound s m e hx
    have hM : M ≠ 0 := fun h0 => absurd hle (not_le.2 (by rw [dyQ_eq_zero.2 h0]; exact dyQ_pos hm))
    obtain ⟨s', hs'⟩ := hmem.resolve_left (fun h => hM h.1)
    have hge : dyQ M E ≤ dyQ m e := by
      obtain ⟨h1, h2⟩ := hmax _ hs'
      cases s'
      · exact h2
      · exact neg_le_neg_iff.1 h1
    rw [if_neg hinf, if_neg hM, le_antisymm hle hge]
    exact highOf_spec four E hmode hM

end Sys2Proof.Machine
end

section
/-! SUPPORT. A packed block: its fields, its elements and its flags (R141, R143). -/
namespace Sys2Proof.Machine

/-! ### One value -/

/-- A finite value. -/
def IsNum (x : FV) : Prop := ∃ s m e, x = .fin s m e

/-- A value that rounds past the greatest magnitude at both exponents. -/
def TooBig (four : Bool) (mode g : Nat) (high : Int) (x : FV) : Prop := IsNum x ∧ ∃ i k : Int,
  RoundsInt (fvQ x / 2 ^ (high - g - dxbQ four)) mode i ∧ dxbMax four < i.natAbs ∧ RoundsInt (fvQ x / 2 ^ (high - dxbQ four)) mode k ∧ dxbMax four < k.natAbs

theorem PackedAs.tooBig_iff {four : Bool} {mode g : Nat} {high : Int} {x : FV} {i k : Int} {r : FRes} (h : PackedAs four mode g high (fvQ x) i k r) (hx : IsNum x) :
    TooBig four mode g high x ↔ dxbMax four < i.natAbs ∧ dxbMax four < k.natAbs := by
  constructor
  · rintro ⟨-, i', k', hi', hbig, hk', hbig'⟩
    exact ⟨h.low.unique hi' ▸ hbig, h.up.unique hk' ▸ hbig'⟩
  · exact fun ⟨hbig, hbig'⟩ => ⟨hx, i, k, h.low, hbig, h.up, hbig'⟩

/-- The flags that the packing of a value raises. -/
theorem packEl_flags (four : Bool) {mode : Nat} (g : Nat) (high : Int) (hmode : mode < 4) (x : FV) :
    let r := packEl four mode high (high - g) x
    (r.2.testBit 0 = true ↔ x.isNan = true) ∧ (r.2.testBit 2 = true ↔ (∃ n, x = .inf n) ∨ TooBig four mode g high x) ∧
      (r.2.testBit 3 = true ↔ IsNum x ∧ fvQ x ≠ 0 ∧ elMag four r.1 = 0) ∧ (r.2.testBit 4 = true ↔ (∃ n, x = .inf n) ∨ (IsNum x ∧ elVal four high g r.1 ≠ fvQ x)) := by
  intro r
  cases x with
  | nan b =>
    have hnum : ¬IsNum (.nan b) := fun ⟨_, _, _, h⟩ => by cases h
    have hinf : ¬∃ n, FV.nan b = .inf n := fun ⟨_, h⟩ => by cases h
    obtain ⟨h0, h2, h3, h4⟩ := testBit_packFlags true false false false
    exact ⟨iff_of_true h0 rfl, iff_of_false (ne_true_of_eq_false h2) (not_or_intro hinf (fun h => hnum h.1)),
      iff_of_false (ne_true_of_eq_false h3) (fun h => hnum h.1), iff_of_false (ne_true_of_eq_false h4) (not_or_intro hinf (fun h => hnum h.1))⟩
  | inf n =>
    have hnum : ¬IsNum (.inf n) := fun ⟨_, _, _, h⟩ => by cases h
    obtain ⟨h0, h2, h3, h4⟩ := testBit_packFlags false true false true
    have hr : r = _ := packEl_inf four mode high (high - g) n
    rw [hr]
    exact ⟨iff_of_false (ne_true_of_eq_false h0) Bool.false_ne_true, iff_of_true h2 (.inl ⟨n, rfl⟩), iff_of_false (ne_true_of_eq_false h3) (fun h => hnum h.1),
      iff_of_true h4 (.inl ⟨n, rfl⟩)⟩
  | fin s m e =>
    have hnum : IsNum (.fin s m e) := ⟨s, m, e, rfl⟩
    have hinf : ¬∃ n, FV.fin s m e = .inf n := fun ⟨_, h⟩ => by cases h
    obtain ⟨i, k, h⟩ := packEl_spec four g high s m e hmode
    exact ⟨iff_of_false (ne_true_of_eq_false h.invalid) Bool.false_ne_true, by rw [or_iff_right hinf, h.tooBig_iff hnum]; exact h.overflow,
      by rw [and_iff_right hnum]; exact h.underflow, by rw [or_iff_right hinf, and_iff_right hnum]; exact h.inexact⟩

/-- A code is what a value is packed to: 0 for a NaN, the greatest magnitude for an infinity, and a finite value rounded at the low exponent where it fits (R143). -/
def CodeOf (four : Bool) (mode g : Nat) (high : Int) (x : FV) (c : Nat) : Prop :=
  (x.isNan = true → c = 0) ∧ (∀ n, x = .inf n → elSel four c = true ∧ elNeg four c = n ∧ elMag four c = dxbMax four) ∧
    (IsNum x → ∃ i k : Int, RoundsInt (fvQ x / 2 ^ (high - g - dxbQ four)) mode i ∧ RoundsInt (fvQ x / 2 ^ (high - dxbQ four)) mode k ∧
      elNeg four c = decide (fvQ x < 0) ∧ (if i.natAbs ≤ dxbMax four then elSel four c = false ∧ elMag four c = i.natAbs
        else elSel four c = true ∧ elMag four c = min (dxbMax four) k.natAbs))

theorem packEl_code (four : Bool) {mode : Nat} (g : Nat) (high : Int) (hmode : mode < 4) (x : FV) :
    CodeOf four mode g high x (packEl four mode high (high - g) x).1 := by
  refine ⟨fun hnan => ?_, ?_, ?_⟩
  · cases x with
    | nan b => rfl
    | inf n => cases hnan
    | fin s m e => cases hnan
  · rintro n rfl
    rw [packEl_inf]
    obtain ⟨-, hsel, hneg, hmag⟩ := elCode_fields (sel := true) (neg := n) (le_refl (dxbMax four))
    exact ⟨hsel, hneg, hmag⟩
  · rintro ⟨s, m, e, rfl⟩
    obtain ⟨i, k, h⟩ := packEl_spec four g high s m e hmode
    refine ⟨i, k, h.low, h.up, h.neg, ?_⟩
    split_ifs with hfit
    · exact h.fits hfit
    · exact h.saturates (not_le.1 hfit)

/-! ### The block -/

/-- The high exponent of a block. -/
def blkHigh (blk : Nat) : Int := ((blk / 8 % 32 : Nat) : Int) - 15

/-- A block's fields, the codes of its values, and its flags. -/
structure PackedBlock (four : Bool) (g mode : Nat) (xs : List FV) (r : FRes) : Prop where
  lt : r.1 < 2 ^ dxbBits four
  gap : r.1 % 8 = g - 1
  high : r.1 / 8 % 32 = highField four mode xs
  code : ∀ j x, xs[j]? = some x → dxbEl four r.1 j = (packEl four mode (blkHigh r.1) (blkHigh r.1 - g) x).1
  flag : ∀ k, r.2.testBit k = true ↔ ∃ x ∈ xs, (packEl four mode (blkHigh r.1) (blkHigh r.1 - g) x).2.testBit k = true

theorem dxbPack_packed (four : Bool) {g mode : Nat} {xs : List FV} (hg : g ≤ 8) (hmode : mode < 4) (hlen : xs.length = dxbPer four) :
    PackedBlock four g mode xs (dxbPack four g mode xs) := by
  have hhigh := highField_lt four mode xs
  have hbase : 2 ^ (dxbW four * (dxbBase four + 0)) = 256 := by cases four <;> rfl
  have hbits : dxbW four * (dxbBase four + (0 + xs.length)) = dxbBits four := by rw [hlen]; cases four <;> rfl
  obtain ⟨hlt, hlow, hcode, hflag⟩ := packCodes_spec four (packEl_lt four g ((highField four mode xs : Int) - 15) hmode) xs
    (highField four mode xs * 8 + (g - 1)) 0 0 (by rw [hbase]; omega)
  rw [← dxbPack_eq] at hlt hlow hcode hflag
  generalize dxbPack four g mode xs = r at *
  rw [hbase] at hlow
  have hfield : r.1 / 8 % 32 = highField four mode xs := by omega
  have hH : blkHigh r.1 = (highField four mode xs : Int) - 15 := by rw [blkHigh, hfield]
  refine ⟨hbits ▸ hlt, by omega, hfield, fun j x hx => ?_, fun k => ?_⟩
  · rw [hH, ← hcode j x hx, Nat.zero_add]
  · rw [hH, hflag, Nat.zero_testBit, or_iff_right Bool.false_ne_true]

/-- A fact about some value of a block and its code. -/
theorem PackedBlock.exists_code {four : Bool} {g mode : Nat} {xs : List FV} {r : FRes} (h : PackedBlock four g mode xs r) {P : FV → Nat → Prop} :
    (∃ x ∈ xs, P x (packEl four mode (blkHigh r.1) (blkHigh r.1 - g) x).1) ↔ ∃ (j : Nat) (x : FV), xs[j]? = some x ∧ P x (dxbEl four r.1 j) := by
  constructor
  · rintro ⟨x, hx, hP⟩
    obtain ⟨j, hj⟩ := List.mem_iff_getElem?.1 hx
    exact ⟨j, x, hj, by rwa [h.code j x hj]⟩
  · rintro ⟨j, x, hj, hP⟩
    exact ⟨x, List.mem_iff_getElem?.2 ⟨j, hj⟩, by rwa [← h.code j x hj]⟩

theorem exists_mem_inf {xs : List FV} : (∃ x ∈ xs, ∃ n, x = .inf n) ↔ ∃ n, FV.inf n ∈ xs :=
  ⟨fun ⟨_, hx, n, hn⟩ => ⟨n, hn ▸ hx⟩, fun ⟨n, hn⟩ => ⟨_, hn, n, rfl⟩⟩

theorem exists_mem_or {α : Type} {l : List α} {P Q : α → Prop} : (∃ x ∈ l, P x ∨ Q x) ↔ (∃ x ∈ l, P x) ∨ ∃ x ∈ l, Q x := by
  simp only [and_or_left, exists_or]

section
variable {four : Bool} {g mode : Nat} {xs : List FV} {r : FRes} (h : PackedBlock four g mode xs r) (hmode : mode < 4)
include h hmode

theorem PackedBlock.codeOf (j : Nat) (x : FV) (hx : xs[j]? = some x) : CodeOf four mode g (blkHigh r.1) x (dxbEl four r.1 j) := by
  rw [h.code j x hx]
  exact packEl_code four g (blkHigh r.1) hmode x

theorem PackedBlock.invalid_iff : r.2.testBit 0 = true ↔ ∃ x ∈ xs, x.isNan = true := by
  rw [h.flag]
  refine exists_congr fun x => and_congr_right fun _ => ?_
  obtain ⟨hflag, -⟩ := packEl_flags four g (blkHigh r.1) hmode x
  exact hflag

theorem PackedBlock.overflow_iff : r.2.testBit 2 = true ↔ (∃ n, FV.inf n ∈ xs) ∨ ∃ x ∈ xs, TooBig four mode g (blkHigh r.1) x := by
  rw [h.flag, ← exists_mem_inf]
  refine Iff.trans (exists_congr fun x => and_congr_right fun _ => ?_) exists_mem_or
  obtain ⟨-, hflag, -⟩ := packEl_flags four g (blkHigh r.1) hmode x
  exact hflag

theorem PackedBlock.underflow_iff : r.2.testBit 3 = true ↔ ∃ (j : Nat) (x : FV), xs[j]? = some x ∧ IsNum x ∧ fvQ x ≠ 0 ∧ elMag four (dxbEl four r.1 j) = 0 := by
  rw [h.flag, ← h.exists_code (P := fun x c => IsNum x ∧ fvQ x ≠ 0 ∧ elMag four c = 0)]
  refine exists_congr fun x => and_congr_right fun _ => ?_
  obtain ⟨-, -, hflag, -⟩ := packEl_flags four g (blkHigh r.1) hmode x
  exact hflag

theorem PackedBlock.inexact_iff : r.2.testBit 4 = true ↔
    (∃ n, FV.inf n ∈ xs) ∨ ∃ (j : Nat) (x : FV), xs[j]? = some x ∧ IsNum x ∧ elVal four (blkHigh r.1) g (dxbEl four r.1 j) ≠ fvQ x := by
  rw [h.flag, ← exists_mem_inf, ← h.exists_code (P := fun x c => IsNum x ∧ elVal four (blkHigh r.1) g c ≠ fvQ x)]
  refine Iff.trans (exists_congr fun x => and_congr_right fun _ => ?_) exists_mem_or
  obtain ⟨-, -, -, hflag⟩ := packEl_flags four g (blkHigh r.1) hmode x
  exact hflag

end

end Sys2Proof.Machine
end

section
/-! SUPPORT. The words that pack and unpack blocks (R143, R216), and their statement. -/
namespace Sys2Proof.Machine

/-! ### Unpacking -/

/-- Consecutive elements of a string, put together, are a field of it. -/
theorem foldr_elemN (a w : Nat) : ∀ n c, (List.range n).foldr (fun k acc => acc * 2 ^ w + elemN a w (c + k)) 0 = fld a (w * c) (w * n)
  | 0, c => by rw [fld, Nat.mul_zero, Nat.pow_zero, Nat.mod_one]; rfl
  | n + 1, c => by
    have hshift : ∀ k, elemN a w (c + Nat.succ k) = elemN a w (c + 1 + k) := fun k => by rw [Nat.add_assoc, Nat.one_add]
    rw [List.range_succ_eq_map, List.foldr_cons, List.foldr_map]
    simp only [hshift]
    rw [foldr_elemN a w n (c + 1), elemN, fld, fld, fld, Nat.add_zero c, Nat.mul_succ w n, Nat.add_comm (w * n), Nat.pow_add, Nat.mod_mul, Nat.mul_succ, Nat.pow_add,
      Nat.div_div_eq_div_mul, Nat.mul_comm (2 ^ w), Nat.add_comm]

/-- The block that an unpacking word reads, modified or not. -/
def srcBlock (four : Bool) (a : Nat) (m : BitVec 3) (b : Nat) : Nat :=
  (List.range (dxbBits four / 32)).foldr (fun k acc => acc * 2 ^ 32 + srcElem a 32 m (b * (dxbBits four / 32) + k)) 0

theorem srcBlock_plain (four : Bool) (a : Nat) {m : BitVec 3} (h : ¬m.getLsbD 2 = true) (b : Nat) : srcBlock four a m b = fld a (dxbBits four * b) (dxbBits four) := by
  have helem : ∀ i, srcElem a 32 m i = elemN a 32 i := fun i => if_neg h
  have hbits : 32 * (dxbBits four / 32) = dxbBits four := by cases four <;> rfl
  rw [srcBlock]
  simp only [helem]
  rw [foldr_elemN, hbits, Nat.mul_comm b, ← Nat.mul_assoc, hbits]

/-- The elements that an unpacking word writes are those of its source's blocks. -/
theorem elUnpack_fn (four : Bool) (o : VUop) (c : VCtx) : (elUnpack four o c).fn =
    fun j => encF 23 c.e.rm (dxbElem four (srcBlock four (c.str o.va.toNat c.g) o.ma (j / dxbPer four)) (j % dxbPer four)) := by
  funext j
  unfold elUnpack
  dsimp only
  split_ifs with h
  · rfl
  · rw [srcBlock_plain four _ h]

theorem unpack_out {i : Instr} {s : State} {e : VEntry} (four : Bool) {o : VUop} (hready : WordReady s e true)
    (hexec : exec i s = .next (runEl (elUnpack four o) s)) : ElementsOut i s e o.vd.toNat (grpN e.grp) 32 o.m
      (fun j => encF 23 e.rm (dxbElem four (srcBlock four (groupN s.me (vlenOf s s.cur) o.va.toNat (grpN e.grp)) o.ma (j / dxbPer four)) (j % dxbPer four))) := by
  have hfn := elUnpack_fn four o (wordCtx s e)
  exact elementsOut_of hready hexec (congrArg (fun f => ({ elUnpack four o (wordCtx s e) with fn := f } : ElOp)) hfn)

/-! ### Packing -/

/-- The block `b` that a packing word writes, with the flags of its values. -/
def packedBlock (four : Bool) (s : State) (e : VEntry) (o : VGAPop) (b : Nat) : FRes :=
  dxbPack four (o.gap.toNat + 1) e.rm ((List.range (dxbPer four)).map (fun j =>
    if dxbPer four * b + j < e.vl then decF 23 (srcOf s o.va o.ma (grpN e.grp) 32 (dxbPer four * b + j)) else .fin false 0 0))

theorem pack_out {i : Instr} {s : State} {e : VEntry} (four : Bool) {o : VGAPop} (hready : WordReady s e true)
    (hexec : exec i s = .next (runWhole (packOp four o) noFill s)) : ∃ t fl, exec i s = .next t ∧ Executed s t e (wordCycles s e e.vl) { s.me with v := t.me.v } fl ∧
      GroupOut s t o.vd.toNat (grpN e.grp) (dxbBits four) (fun b => if b * dxbPer four < e.vl then some (packedBlock four s e o b).1 else none) ∧
      ∀ k, fl.testBit k = true ↔ ∃ b, b * dxbPer four < e.vl ∧ (packedBlock four s e o b).2.testBit k = true := by
  have hblocks : ∀ b, b ∈ List.range (cdiv e.vl (dxbPer four)) ↔ b * dxbPer four < e.vl := fun b => by rw [List.mem_range, lt_cdiv (dxbPer_pos four)]
  have hindexed : ((List.range (cdiv e.vl (dxbPer four))).map (packedBlock four s e o)).mapIdx (fun b r => (b, r.1)) =
      (List.range (cdiv e.vl (dxbPer four))).map (fun b => (b, (packedBlock four s e o b).1)) := by
    refine List.ext_getElem (by simp) (fun j _ _ => ?_)
    rw [List.getElem_mapIdx, List.getElem_map, List.getElem_map, List.getElem_range]
  have hwrites : WritesVals (dxbBits four) ((List.range (cdiv e.vl (dxbPer four))).map (fun b => (b, (packedBlock four s e o b).1)))
      (fun b => if b * dxbPer four < e.vl then some (packedBlock four s e o b).1 else none) :=
    writesVals_map (fun b hb => ⟨_, if_pos ((hblocks b).1 hb), rfl⟩) (fun b hb => if_neg (mt (hblocks b).2 hb))
  have heff : (packOp four o (wordCtx s e)).eff s.me = (putGroup (vlenOf s s.cur) o.vd.toNat (grpN e.grp) (dxbBits four)
      (((List.range (cdiv e.vl (dxbPer four))).map (packedBlock four s e o)).mapIdx (fun b r => (b, r.1))) s.me,
      ((List.range (cdiv e.vl (dxbPer four))).map (packedBlock four s e o)).foldl (fun f r => f ||| r.2) 0) := rfl
  rw [hindexed, List.foldl_map] at heff
  obtain ⟨t, hnext, hdone, hgroup⟩ := wholeWord_of hready hexec heff hwrites
  refine ⟨t, _, hnext, hdone, hgroup, fun k => ?_⟩
  rw [testBit_flags]
  exact exists_congr fun b => and_congr_left fun _ => hblocks b

/-- Settles O37: the fields, codes and flags of a packed block, and the words that pack and unpack blocks. -/
theorem blockConversions : Obligations.BlockConversions := by
  unfold Obligations.BlockConversions
  refine ⟨?_, ?_⟩
  · intro four q w base per mmax two high el sel neg mag at_
    have hq : q = dxbQ four := by cases four <;> rfl
    have hw : w = dxbW four := by cases four <;> rfl
    have hbase : base = dxbBase four := by cases four <;> rfl
    have hper : per = dxbPer four := by cases four <;> rfl
    have hmax : mmax = dxbMax four := by cases four <;> rfl
    have hbits : (if four then 128 else 256) = dxbBits four := by cases four <;> rfl
    clear_value q w base per mmax
    subst hq hw hbase hper hmax
    rw [hbits]
    refine ⟨?_, ?_⟩
    · intro blk j mode _ _
      obtain ⟨hfin, hisfin, hval, hflags⟩ := dxbElem_exact four blk j mode
      exact ⟨hfin, fvQ_dxbElem four blk j, hisfin, hval, hflags⟩
    · intro g mode xs hg1 hg8 hmode hlen r blk anyInf num low up tooBig
      have hblock : PackedBlock four g mode xs r := dxbPack_packed four hg8 hmode hlen
      obtain ⟨hinf, hzero, hgreatest⟩ := highField_spec four xs hmode
      rw [← hblock.high] at hinf hzero hgreatest
      have hgap : blk % 8 + 1 = g := by rw [hblock.gap]; omega
      have hinexact := hblock.inexact_iff hmode
      rw [← hgap] at hinexact
      refine ⟨hblock.lt, hblock.gap, hinf, hzero, ?_, hblock.codeOf hmode,
        hblock.invalid_iff hmode, hblock.overflow_iff hmode, hblock.underflow_iff hmode, hinexact⟩
      rintro hno _ hx ⟨s, m, e, rfl⟩ hne hle
      have hm : m ≠ 0 := fun h0 => hne (signed_eq_zero.2 (dyQ_eq_zero.2 h0))
      rw [signed_fvQ] at hle ⊢
      exact hgreatest hno s m e hx hm hle
  · intro s e hready _ g Pack Unpack
    exact ⟨fun o => pack_out false hready rfl, fun o => pack_out true hready rfl, fun o => unpack_out false hready rfl, fun o => unpack_out true hready rfl⟩

end Sys2Proof.Machine
end
